-- ==== Sys2Proof/Word.lean ====
section
/-! DEFINITION. Word.lean: the words of the KT4192 (00_scope.md R8): bytes, 32-bit registers, 64-bit fault messages. -/
namespace Sys2Proof

/-- One byte. -/
abbrev Byte := BitVec 8
/-- One 32-bit register or memory word. -/
abbrev Word := BitVec 32
/-- One 64-bit fault message (13_fault_collection.md R366). -/
abbrev Msg := BitVec 64
/-- One 72-bit accumulator (08_qorov_instruction_set.md R215). -/
abbrev Acc72 := BitVec 72

end Sys2Proof
end

