-- ==== Sys2Proof/Syntax.lean ====
section
/-! DEFINITION. Syntax.lean: the commands of the KT4192, one constructor for each row of the table of operations and events.
The table gives its rows neither bits nor operands: the operands are what the row's rule needs (notes/assumptions/5.md). -/
namespace Sys2Proof

/-- Who makes a register or memory access (20_register_index.md R513). -/
inductive Master where
  | aster (n : Fin 4) | host | debug
deriving DecidableEq, Repr

/-- The issue of one Qorov instruction (08_qorov_instruction_set.md R218 to R221): the core, the slot it stands in (M slot or X
slot of a Lupin bundle), whether it belongs to the bundle whose other slot was issued by the command before it, the predicate
fields PN and PRED, whether the other slot of its bundle raises an exception (then this slot has no effect, R190), and the word in issue
where the sender gives it: one that no table of chapter 08 lists raises cause 1 in place of the instruction (R219,
notes/assumptions/14.md). -/
structure Iss where
  core : Fin 22
  m : Bool := false
  same : Bool := false
  pn : Bool := false
  pred : Fin 8 := 0
  dead : Bool := false
  word : Option (BitVec 32) := none
deriving DecidableEq, Repr

/-- The protection of a received Ethernet frame (11_clocks_timebase_network_time.md R335): secure channel identifier (bits [31:0] as
SCI_LO, [63:32] as SCI_HI), association number, packet number, and whether its check value verifies under the key. -/
structure SecTag where
  sci : BitVec 64
  an : Fin 4
  pn : BitVec 32
  good : Bool
deriving DecidableEq, Repr

/-- A CAN frame (18_can_fd.md R474, R479): identifier (a base identifier in bits [28:18]), format, DLC and payload. -/
structure CanFrame where
  id : BitVec 29
  xtd : Bool
  fdf : Bool
  brs : Bool
  esi : Bool
  rtr : Bool
  dlc : BitVec 4
  data : List Byte
deriving DecidableEq, Repr


/-- A boot image as the boot ROM finds it (17_reset_power_boot.md R467, R468): its bytes, whether the hash of the key it carries equals
that of its root slot, and whether its signature verifies (16_security.md R432). -/
structure BootImg where
  bytes : List Byte
  keyOk : Bool
  sigOk : Bool
deriving DecidableEq, Repr

/-- What a boot meets (17_reset_power_boot.md R470): whether the stored keys pass their integrity check (16_security.md R436), the
memories that fail the self-test of step 3, by the instance numbers of 13_fault_collection.md R367, and the images in flash. -/
structure BootIn where
  unwraps : Bool
  bist : List Nat
  prim : Option BootImg
  alt : Option BootImg
deriving DecidableEq, Repr


/-- What a flit of the die-to-die link carries (01_architecture.md R16): nothing, the result of a converter, a temperature result, the
settings of a comparator, or a calibration command. -/
inductive D2dLoad where
  | idle
  | result (a : Fin 4)
  | temp (i : Fin 12)
  | setting (i : Fin 24)
  | cal (a : Fin 4)
deriving DecidableEq, Repr

/-- A command. -/
inductive Instr where
  /-- REGISTER_WRITE, R12. -/
  | registerWrite (m : Master) (a v : BitVec 32)
  /-- UNMAPPED_ACCESS, R13. -/
  | unmappedAccess (m : Master) (a : BitVec 32) (size : Fin 5)
  /-- UNMAPPED_MEMORY_ACCESS, R510. -/
  | unmappedMemoryAccess (m : Master) (a : BitVec 32) (wr : Bool)
  /-- D2D_FLIT_RECEIVED, R16. -/
  | d2dFlitReceived (ok : Bool) (load : D2dLoad)
  /-- D2D_DOWN, R17. -/
  | d2dDown
  /-- STATE_REQ_READY, R33. -/
  | stateReqReady (forced : Bool)
  /-- STATE_REQ_ARMED, R33. -/
  | stateReqArmed (forced : Bool)
  /-- STATE_REQ_RUN, R33. -/
  | stateReqRun (forced : Bool)
  /-- STATE_REQ_STOPPED, R204. -/
  | stateReqStopped (forced : Bool)
  /-- STATE_REQ_DORMANT, R32. -/
  | stateReqDormant (forced : Bool)
  /-- BOOT_LOCK_RETRY, R34. -/
  | bootLockRetry
  /-- HEARTBEAT_MISS, R39. -/
  | heartbeatMiss
  /-- FRAME_START, R41. -/
  | frameStart
  /-- FRAME_DEPART, R42. -/
  | frameDepart (l : Fin 24) (under : Option (Fin 8))
  /-- CYCLE_GRID_ENABLE, R43. -/
  | cycleGridEnable
  /-- CYCLE_START, R43. -/
  | cycleStart
  /-- CST_SWAP, R47. -/
  | cstSwap (c : Fin 192)
  /-- REPORT_SECTION_RECEIVED, R48. -/
  | reportSectionReceived (l : Fin 24) (i : Fin 8)
  /-- LANE_ENABLE, R73. -/
  | laneEnable (n : Fin 28)
  /-- LANE_DISABLE, R73. -/
  | laneDisable (n : Fin 28)
  /-- LANE_REARM, R78. -/
  | laneRearm (n : Fin 28)
  /-- LANE_TXCOMMA, R72. -/
  | laneTxcomma (n : Fin 28)
  /-- TXEQ_APPLY, R65. -/
  | txeqApply (n : Fin 28)
  /-- LOS_ASSERT, R67. -/
  | losAssert (n : Fin 28)
  /-- LOS_DEASSERT, R67. -/
  | losDeassert (n : Fin 28)
  /-- CDR_LOCK, R73. -/
  | cdrLock (n : Fin 28)
  /-- CDR_LOCK_LOSS, R76. -/
  | cdrLockLoss (n : Fin 28)
  /-- ORDERED_SET_RECEIVED, R70. -/
  | orderedSetReceived (n : Fin 28) (groups : List (BitVec 10))
  /-- SOLO_HANDOVER, R75. -/
  | soloHandover (n : Fin 28)
  /-- BLOCK_RECEIVED, R71. -/
  | blockReceived (n : Fin 28) (hdr : BitVec 2) (payload : BitVec 64)
  /-- SLIP_WINDOW_END, R77. -/
  | slipWindowEnd (n : Fin 28)
  /-- LANE_SLIP, R77. -/
  | laneSlip (n : Fin 28)
  /-- SLIP_TIMEOUT, R77. -/
  | slipTimeout (n : Fin 28)
  /-- RECOVER_END, R73. -/
  | recoverEnd (n : Fin 28)
  /-- ATTEMPT_TIMEOUT, R78. -/
  | attemptTimeout (n : Fin 28)
  /-- ATTEMPT_IDLE_END, R78. -/
  | attemptIdleEnd (n : Fin 28)
  /-- REARM_DUE, R78. -/
  | rearmDue (n : Fin 28)
  /-- JOIN_TIMEOUT, R79. -/
  | joinTimeout (n : Fin 28)
  /-- ES_START, R81. -/
  | esStart (n : Fin 28)
  /-- ES_RUN_DONE, R81. -/
  | esRunDone (n : Fin 28) (errs : Nat)
  /-- HEADER_RECEIVED, R90. -/
  | headerReceived (l : Fin 24) (arr : Nat)
  /-- HEADER_MISSED, R99. -/
  | headerMissed (n : Fin 24) (p : Fin 2)
  /-- CHAIN_ENABLE, R99. -/
  | chainEnable (n : Fin 24)
  /-- CHAIN_DISABLE, R99. -/
  | chainDisable (n : Fin 24)
  /-- CHAIN_RELINK, R99. -/
  | chainRelink (n : Fin 24)
  /-- SYNC_TIMEOUT, R99. -/
  | syncTimeout (n : Fin 24)
  /-- MB_GO, R111. -/
  | mbGo (c : Fin 192)
  /-- CELL_SECTION_TAKEN, R112; `run`: the running time of the node at the arrival of the header, in 2^-16 ns. -/
  | cellSectionTaken (c : Fin 192) (p : Fin 2) (f : List Byte) (run : Nat)
  /-- CELL_TOKEN_CHECK, R134. -/
  | cellTokenCheck (c : Fin 192) (p : Fin 2) (f : List Byte)
  /-- TOKEN_TIMER_EXPIRY, R135. -/
  | tokenTimerExpiry (c : Fin 192)
  /-- CELL_FRAME_START, R128. -/
  | cellFrameStart (c : Fin 192)
  /-- LEAK_TEST_END, R143. -/
  | leakTestEnd (c : Fin 192) (na : BitVec 24)
  /-- CELL_EDGE_EXECUTE, R130. -/
  | cellEdgeExecute (c : Fin 192)
  /-- CELL_DEADTIME_TURN_ON, R131. -/
  | cellDeadtimeTurnOn (c : Fin 192) (sw : Fin 13)
  /-- HOLD_TIMEOUT, R127. -/
  | holdTimeout (c : Fin 192)
  /-- CELL_SAMPLE, R124. -/
  | cellSample (c : Fin 192) (vdc iarm idab : BitVec 16) (temp von : List (BitVec 16))
  /-- CELL_CONVERSION_DONE, R124. -/
  | cellConversionDone (c : Fin 192)
  /-- CELL_REPORT_WRITE, R97. -/
  | cellReportWrite (c : Fin 192) (p : Fin 2) (f : List Byte) (resid : BitVec 16) (user : List Byte)
  /-- CELL_INPUT_LOS, R117. -/
  | cellInputLos (c : Fin 192) (p : Fin 2)
  /-- CELL_ORDERED_SET_FORWARD, R118. -/
  | cellOrderedSetForward (c : Fin 192) (p : Fin 2) (groups : List (BitVec 10))
  /-- DESAT_TRIP, R139. -/
  | desatTrip (c : Fin 192) (sw : Fin 12) (t mv : Nat)
  /-- BSUV_LOCKOUT, R140. -/
  | bsuvLockout (c : Fin 192) (sw : Fin 12) (low : Bool)
  /-- CELL_DUMP_ON, R142. -/
  | cellDumpOn (c : Fin 192)
  /-- CELL_DUMP_OFF, R142. -/
  | cellDumpOff (c : Fin 192)
  /-- MOD_ENABLE, R147. -/
  | modEnable
  /-- MOD_ANCHOR_WRITE, R147. -/
  | modAnchorWrite (frame : BitVec 32)
  /-- MOD_COMMIT, R152. -/
  | modCommit (mask : BitVec 32)
  /-- PLAN_INSTANT, R155. -/
  | planInstant (ch : Fin 784)
  /-- CARRIER_ZERO, R153. -/
  | carrierZero (ch : Fin 784)
  /-- AUX_GO, R159. -/
  | auxGo
  /-- BUDGET_EMPTY, R163. -/
  | budgetEmpty (n : Fin 768) (b : Bool)
  /-- BUDGET_RESTORE, R163. -/
  | budgetRestore (n : Fin 768)
  /-- DEBUG_HALT, R170. -/
  | debugHalt (e : Fin 16)
  /-- DEBUG_RESUME, R189. -/
  | debugResume (e : Fin 16)
  /-- CORE_CLOCK_STOP, R171. -/
  | coreClockStop
  /-- LPWM_EDGE, R174. -/
  | lpwmEdge (m : Fin 16)
  /-- LPWM_TRIP, R175. -/
  | lpwmTrip (m : Fin 16)
  /-- LPWM_REARM, R176. -/
  | lpwmRearm (m : Fin 16)
  /-- PROG_MEM_WRITE, R183. -/
  | progMemWrite (n : Fin 16) (word : Fin 16384) (v : BitVec 32)
  /-- ENGINE_ENABLE, R183. -/
  | engineEnable (n : Fin 20)
  /-- PROG_CRC_DONE, R183. -/
  | progCrcDone (n : Fin 20)
  /-- ENGINE_DISABLE, R212. -/
  | engineDisable (n : Fin 20)
  /-- TASK_RELEASE, R184. -/
  | taskRelease (tt : Fin 32)
  /-- TASK_START, R185. -/
  | taskStart (n : Fin 16)
  /-- ENGINE_RESTART, R190. -/
  | engineRestart (n : Fin 20)
  /-- PREFETCH_IN_START, R191. -/
  | prefetchInStart (tt : Fin 32)
  /-- PREFETCH_IN_DONE, R192. -/
  | prefetchInDone (n : Fin 16) (d : Fin 16)
  /-- OUT_STAGE_DONE, R192. -/
  | outStageDone (n : Fin 16)
  /-- GLUT_SWAP_REQUEST, R199. -/
  | glutSwapRequest (n : Fin 16) (t : Fin 4)
  /-- PGEN_INIT, R214. -/
  | pgenInit (n : Fin 16)
  /-- CSTOP_TIMEOUT, R204. -/
  | cstopTimeout
  /-- INTERRUPT_TAKEN, R251. -/
  | interruptTaken (k : Fin 4)
  /-- SELF_TEST_START, R208. -/
  | selfTestStart (n : Fin 20)
  /-- SELF_TEST_DONE, R208. -/
  | selfTestDone (n : Fin 20) (pass : Bool)
  /-- MIGRATE_REQUEST, R209. -/
  | migrateRequest (src dst : Fin 16)
  /-- MIGRATION_COPY_DONE, R209. -/
  | migrationCopyDone
  /-- ADD, R228. -/
  | add (i : Iss) (rd ra rb : Fin 32)
  /-- SUB, R228. -/
  | sub (i : Iss) (rd ra rb : Fin 32)
  /-- AND, R228. -/
  | and (i : Iss) (rd ra rb : Fin 32)
  /-- OR, R228. -/
  | or (i : Iss) (rd ra rb : Fin 32)
  /-- XOR, R228. -/
  | xor (i : Iss) (rd ra rb : Fin 32)
  /-- SHL, R228. -/
  | shl (i : Iss) (rd ra rb : Fin 32)
  /-- SHR, R228. -/
  | shr (i : Iss) (rd ra rb : Fin 32)
  /-- SAR, R228. -/
  | sar (i : Iss) (rd ra rb : Fin 32)
  /-- MIN, R228. -/
  | min (i : Iss) (rd ra rb : Fin 32)
  /-- MAX, R228. -/
  | max (i : Iss) (rd ra rb : Fin 32)
  /-- SEL, R228. -/
  | sel (i : Iss) (q : Fin 8) (rd ra rb : Fin 32)
  /-- MUL, R229. -/
  | mul (i : Iss) (rd ra rb : Fin 32)
  /-- MULH, R229. -/
  | mulh (i : Iss) (rd ra rb : Fin 32)
  /-- DIV, R229. -/
  | div (i : Iss) (rd ra rb : Fin 32)
  /-- DIVU, R229. -/
  | divu (i : Iss) (rd ra rb : Fin 32)
  /-- REM, R229. -/
  | rem (i : Iss) (rd ra rb : Fin 32)
  /-- ADDS, R230. -/
  | adds (i : Iss) (rd ra rb : Fin 32)
  /-- SUBS, R230. -/
  | subs (i : Iss) (rd ra rb : Fin 32)
  /-- ABSS, R230. -/
  | abss (i : Iss) (rd ra rb : Fin 32)
  /-- QMUL, R230. -/
  | qmul (i : Iss) (rd ra rb : Fin 32)
  /-- ADD2, R230. -/
  | add2 (i : Iss) (rd ra rb : Fin 32)
  /-- SUB2, R230. -/
  | sub2 (i : Iss) (rd ra rb : Fin 32)
  /-- MUL2, R230. -/
  | mul2 (i : Iss) (rd ra rb : Fin 32)
  /-- PACK, R230. -/
  | pack (i : Iss) (rd ra rb : Fin 32)
  /-- MAC, R231. -/
  | mac (i : Iss) (rd ra rb : Fin 32)
  /-- MACU, R231. -/
  | macu (i : Iss) (rd ra rb : Fin 32)
  /-- MPY, R231. -/
  | mpy (i : Iss) (rd ra rb : Fin 32)
  /-- QMAC, R231. -/
  | qmac (i : Iss) (rd ra rb : Fin 32)
  /-- MAC2, R231. -/
  | mac2 (i : Iss) (rd ra rb : Fin 32)
  /-- ACCR, R232. -/
  | accr (i : Iss) (rd ra : Fin 32) (k : BitVec 12)
  /-- ACCW, R232. -/
  | accw (i : Iss) (rd ra : Fin 32) (k : BitVec 12)
  /-- FADD, R233. -/
  | fadd (i : Iss) (rd ra rb : Fin 32)
  /-- FSUB, R233. -/
  | fsub (i : Iss) (rd ra rb : Fin 32)
  /-- FMUL, R233. -/
  | fmul (i : Iss) (rd ra rb : Fin 32)
  /-- FDIV, R233. -/
  | fdiv (i : Iss) (rd ra rb : Fin 32)
  /-- FMADD, R233. -/
  | fmadd (i : Iss) (rd ra rb : Fin 32)
  /-- FMIN, R233. -/
  | fmin (i : Iss) (rd ra rb : Fin 32)
  /-- FMAX, R233. -/
  | fmax (i : Iss) (rd ra rb : Fin 32)
  /-- FABS, R233. -/
  | fabs (i : Iss) (rd ra rb : Fin 32)
  /-- FCVT_FI, R233. -/
  | fcvtFi (i : Iss) (rd ra rb : Fin 32)
  /-- FCVT_IF, R233. -/
  | fcvtIf (i : Iss) (rd ra rb : Fin 32)
  /-- CEQ, R234. -/
  | ceq (i : Iss) (rd ra rb : Fin 32)
  /-- CNE, R234. -/
  | cne (i : Iss) (rd ra rb : Fin 32)
  /-- CLT, R234. -/
  | clt (i : Iss) (rd ra rb : Fin 32)
  /-- CLTU, R234. -/
  | cltu (i : Iss) (rd ra rb : Fin 32)
  /-- FCEQ, R234. -/
  | fceq (i : Iss) (rd ra rb : Fin 32)
  /-- FCLT, R234. -/
  | fclt (i : Iss) (rd ra rb : Fin 32)
  /-- FCLE, R234. -/
  | fcle (i : Iss) (rd ra rb : Fin 32)
  /-- PAND, R234. -/
  | pand (i : Iss) (rd ra rb : Fin 32)
  /-- POR, R234. -/
  | por (i : Iss) (rd ra rb : Fin 32)
  /-- PXOR, R234. -/
  | pxor (i : Iss) (rd ra rb : Fin 32)
  /-- CEQI, R234. -/
  | ceqi (i : Iss) (rd ra : Fin 32) (imm : BitVec 12)
  /-- CLTI, R234. -/
  | clti (i : Iss) (rd ra : Fin 32) (imm : BitVec 12)
  /-- ADDI, R235. -/
  | addi (i : Iss) (rd ra : Fin 32) (imm : BitVec 12)
  /-- ANDI, R235. -/
  | andi (i : Iss) (rd ra : Fin 32) (imm : BitVec 12)
  /-- ORI, R235. -/
  | ori (i : Iss) (rd ra : Fin 32) (imm : BitVec 12)
  /-- SHLI, R235. -/
  | shli (i : Iss) (rd ra : Fin 32) (imm : BitVec 12)
  /-- SHRI, R235. -/
  | shri (i : Iss) (rd ra : Fin 32) (imm : BitVec 12)
  /-- LIL, R235. -/
  | lil (i : Iss) (rd : Fin 32) (imm : BitVec 17)
  /-- LIH, R235. -/
  | lih (i : Iss) (rd : Fin 32) (imm : BitVec 17)
  /-- LDW, R236. -/
  | ldw (i : Iss) (rt ra : Fin 32) (ofs : BitVec 12) (ue : Bool)
  /-- LDH, R236. -/
  | ldh (i : Iss) (rt ra : Fin 32) (ofs : BitVec 12) (ue : Bool)
  /-- LDHU, R236. -/
  | ldhu (i : Iss) (rt ra : Fin 32) (ofs : BitVec 12) (ue : Bool)
  /-- LDBU, R236. -/
  | ldbu (i : Iss) (rt ra : Fin 32) (ofs : BitVec 12) (ue : Bool)
  /-- STW, R236. -/
  | stw (i : Iss) (rt ra : Fin 32) (ofs : BitVec 12)
  /-- STH, R236. -/
  | sth (i : Iss) (rt ra : Fin 32) (ofs : BitVec 12)
  /-- STB, R236. -/
  | stb (i : Iss) (rt ra : Fin 32) (ofs : BitVec 12)
  /-- PRF, R237. -/
  | prf (i : Iss) (rt ra : Fin 32) (ofs : BitVec 12)
  /-- BR, R238. -/
  | br (i : Iss) (disp : BitVec 22)
  /-- BRL, R238. -/
  | brl (i : Iss) (disp : BitVec 22)
  /-- JR, R238. -/
  | jr (i : Iss) (rd ra : Fin 32) (k : BitVec 12)
  /-- JRL, R238. -/
  | jrl (i : Iss) (rd ra : Fin 32) (k : BitVec 12)
  /-- CSNAP, R239. -/
  | csnap (i : Iss) (rd ra : Fin 32) (k : BitVec 12) (ue : Bool)
  /-- MSH, R240. -/
  | msh (i : Iss) (rd ra : Fin 32) (k : BitVec 12)
  /-- LDALL, R241. -/
  | ldall (i : Iss) (rd ra : Fin 32) (k : BitVec 12)
  /-- GLUT, R242. -/
  | glut (i : Iss) (rd ra : Fin 32) (k : BitVec 12)
  /-- PSTEP_KEEP, R201. -/
  | pstepKeep (i : Iss) (rd ra : Fin 32) (k : BitVec 11)
  /-- PSTEP_TARGET, R201. -/
  | pstepTarget (i : Iss) (rd ra : Fin 32) (k : BitVec 11)
  /-- TBRD_SNAPSHOT, R243. -/
  | tbrdSnapshot (i : Iss) (rd : Fin 32) (k : BitVec 9)
  /-- TBRD_PART, R243. -/
  | tbrdPart (i : Iss) (rd : Fin 32) (sel : BitVec 3) (k : BitVec 9)
  /-- WAIT, R244. -/
  | wait (i : Iss) (rd ra rb : Fin 32)
  /-- WAIT_END, R244. -/
  | waitEnd (k : Fin 4)
  /-- FPOST, R245. -/
  | fpost (i : Iss) (rd ra : Fin 32) (k : BitVec 12)
  /-- TPRB, R245. -/
  | tprb (i : Iss) (rd ra : Fin 32) (k : BitVec 12)
  /-- TMEAS, R245. -/
  | tmeas (i : Iss) (rd ra : Fin 32) (k : BitVec 12)
  /-- TEND, R247. -/
  | tend (i : Iss) (rd ra : Fin 32) (k : BitVec 12)
  /-- MFS, R248. -/
  | mfs (i : Iss) (rd ra : Fin 32) (k : BitVec 12)
  /-- MFS_CLEAR, R248. -/
  | mfsClear (i : Iss) (rd ra : Fin 32) (k : BitVec 12)
  /-- RFE, R250. -/
  | rfe (i : Iss) (rd ra : Fin 32) (k : BitVec 9)
  /-- IDLE, R250. -/
  | idle (i : Iss) (rd ra : Fin 32) (k : BitVec 9)
  /-- MFC, R250. -/
  | mfc (i : Iss) (rd ra : Fin 32) (k : BitVec 9)
  /-- MTC, R250. -/
  | mtc (i : Iss) (rd ra : Fin 32) (k : BitVec 9)
  /-- RGLD, R250. -/
  | rgld (i : Iss) (rd ra : Fin 32) (k : BitVec 9)
  /-- RETRY_WAIT_END, R264. -/
  | retryWaitEnd (c : Fin 192)
  /-- PROT_UNLOCK, R268. -/
  | protUnlock (c : Fin 192)
  /-- PARAM_PUSH, R260. -/
  | paramPush (c : Fin 192)
  /-- EVQ_READ, R257. -/
  | evqRead
  /-- LEAK_INTERVAL, R270. -/
  | leakInterval
  /-- LEAK_TIMEOUT, R271. -/
  | leakTimeout
  /-- LPWM_RETRY_WAIT_END, R272. -/
  | lpwmRetryWaitEnd (m : Fin 16)
  /-- DUMP_ONESHOT_END, R273. -/
  | dumpOneshotEnd
  /-- ADC_TRIGGER, R283. -/
  | adcTrigger (a : Fin 4)
  /-- ADC_CONVERSION_DONE, R284. -/
  | adcConversionDone (a : Fin 4) (vin : Int)
  /-- ADC_URGENT_GO, R285. -/
  | adcUrgentGo (a : Fin 4) (inp : BitVec 3)
  /-- ADC_CAL_REQ, R287. -/
  | adcCalReq (a : Fin 4)
  /-- ADC_CAL_DONE, R287. -/
  | adcCalDone (a : Fin 4)
  /-- RES_LO_READ, R289. -/
  | resLoRead (a : Fin 4) (k : Fin 17)
  /-- RES_HI_READ, R289. -/
  | resHiRead (a : Fin 4) (k : Fin 17)
  /-- REF_ENABLE, R281. -/
  | refEnable
  /-- REF_READY, R281. -/
  | refReady
  /-- CMP_ENABLE, R294. -/
  | cmpEnable (i : Fin 24)
  /-- CMP_HOLD_RELEASE, R294. -/
  | cmpHoldRelease (i : Fin 24) (vin : Int)
  /-- DAC_SETTLED, R291. -/
  | dacSettled (i : Fin 24)
  /-- CMP_OUTPUT_ASSERT, R295. -/
  | cmpOutputAssert (i : Fin 24) (vin : Int)
  /-- CMP_OUTPUT_DEASSERT, R295. -/
  | cmpOutputDeassert (i : Fin 24) (vin : Int)
  /-- CMP_CLEAR_LATCH, R295. -/
  | cmpClearLatch (i : Fin 24)
  /-- THM_REQUEST, R298. -/
  | thmRequest (mask : BitVec 12)
  /-- THM_MEASURE_DONE, R298. -/
  | thmMeasureDone (i : Fin 12) (t : BitVec 16)
  /-- SENSOR_BROKEN, R299. -/
  | sensorBroken (i : Fin 12)
  /-- SENSOR_HOT, R297. -/
  | sensorHot (i : Fin 12) (t : BitVec 16)
  /-- SENSOR_COOL, R300. -/
  | sensorCool (i : Fin 12) (t : BitVec 16)
  /-- WAKE_EVENT, R301. -/
  | wakeEvent (cause : Fin 32)
  /-- SYS_ADPLL_ENABLE, R306. -/
  | sysAdpllEnable
  /-- TB_ADPLL_ENABLE, R306. -/
  | tbAdpllEnable
  /-- LOCK_WINDOW_END, R306. -/
  | lockWindowEnd (p : Fin 2) (count : Nat)
  /-- REF_LOSS, R308. -/
  | refLoss (r : Fin 2)
  /-- REF_QUALIFIED, R309. -/
  | refQualified (r : Fin 2) (j : BitVec 24)
  /-- TB_REF_SWITCH, R310. -/
  | tbRefSwitch (r : Fin 2)
  /-- TB_REF_SWITCH_DONE, R310. -/
  | tbRefSwitchDone (j : BitVec 24)
  /-- SYS_RAMP_GO, R311. -/
  | sysRampGo
  /-- SYS_RAMP_DONE, R311. -/
  | sysRampDone
  /-- SPREAD_REQUEST, R312. -/
  | spreadRequest (en : Bool) (depth : BitVec 7)
  /-- TB_RAMP_GO, R313. -/
  | tbRampGo
  /-- TB_RAMP_DONE, R313. -/
  | tbRampDone
  /-- DLL_LOCK, R316. -/
  | dllLock
  /-- DLL_LOST, R316. -/
  | dllLost
  /-- SLEW_GO, R320. -/
  | slewGo
  /-- SLEW_STOP, R320. -/
  | slewStop
  /-- SLEW_DONE, R320. -/
  | slewDone
  /-- TIMEBASE_SET, R321. -/
  | timebaseSet
  /-- TIMEBASE_SNAPSHOT_READ, R322. -/
  | timebaseSnapshotRead
  /-- TT_ARM, R323. -/
  | ttArm (t : Fin 32) (w : BitVec 32)
  /-- TT_EVENT, R323. -/
  | ttEvent (t : Fin 32)
  /-- PPS_WIDTH_END, R325. -/
  | ppsWidthEnd
  /-- CAPTURE_EDGE, R326. -/
  | captureEdge (k : Fin 8) (rising : Bool) (q : Fin 8)
  /-- ETH_LINK_UP, R327. -/
  | ethLinkUp (p : Fin 2) (ok : Bool)
  /-- ETH_FRAME_RECEIVED, R328. -/
  | ethFrameReceived (p : Fin 2) (q : Nat) (fcsOk : Bool) (tag : Option SecTag) (f : List Byte)
  /-- ETH_TX_TAIL_WRITE, R328. -/
  | ethTxTailWrite (p : Fin 2) (v : BitVec 8)
  /-- ETH_RX_TAIL_WRITE, R328. -/
  | ethRxTailWrite (p : Fin 2) (v : BitVec 8)
  /-- ETH_FRAME_SENT, R328. -/
  | ethFrameSent (p : Fin 2) (fwd : Bool) (q : Nat)
  /-- PDELAY_TIMEOUT, R333. -/
  | pdelayTimeout (p : Fin 2)
  /-- SADDLE_FRAME_DEPART, R345. -/
  | saddleFrameDepart (i : Fin 4) (under : Option (Fin 8))
  /-- SADDLE_HEADER_RECEIVED, R348. -/
  | saddleHeaderReceived (i : Fin 4) (arr : Nat)
  /-- SADDLE_SLOT_RECEIVED, R346. -/
  | saddleSlotReceived (i : Fin 4) (j : Fin 8)
  /-- HB_LOST, R348. -/
  | hbLost
  /-- PAIR_ENABLE, R353. -/
  | pairEnable
  /-- PAIR_DISABLE, R353. -/
  | pairDisable
  /-- PAIR_TAKE, R356. -/
  | pairTake
  /-- PAIR_YIELD, R356. -/
  | pairYield
  /-- YIELD_END, R356. -/
  | yieldEnd
  /-- DEMOTION_HOLD_END, R355. -/
  | demotionHoldEnd
  /-- FAULT_ENTRY, R369. -/
  | faultEntry (d : Fin 36)
  /-- FAULT_ACK, R380. -/
  | faultAck (mask : BitVec 32)
  /-- HIST_MSG_HI_READ, R379. -/
  | histMsgHiRead (i : Fin 32)
  /-- ISLAND_LOAD_END, R402. -/
  | islandLoadEnd (pcrc bcrc : BitVec 32) (prog block : List Byte)
  /-- SAFE_MB_IN_WRITE, R404. -/
  | safeMbInWrite (w : BitVec 32)
  /-- SAFE_MB_OUT_READ, R407. -/
  | safeMbOutRead
  /-- ISLAND_FRAME_STROBE, R388. -/
  | islandFrameStrobe (ns : Nat)
  /-- EPOCH_WORD_CHANGE, R390. -/
  | epochWordChange
  /-- SAFE_INPUT_OPEN, R391. -/
  | safeInputOpen (i : Fin 6)
  /-- SAFE_INPUT_CLOSE, R391. -/
  | safeInputClose (i : Fin 6)
  /-- DISCREPANCY, R391. -/
  | discrepancy (k : Fin 3)
  /-- SDM_RESULT, R392. -/
  | sdmResult (i : Fin 4) (v : BitVec 16) (live : Bool)
  /-- SDM_STUCK, R392. -/
  | sdmStuck (i : Fin 4)
  /-- SLC_TRIP, R395. -/
  | slcTrip (i : Fin 4)
  /-- SPD_TRIP, R396. -/
  | spdTrip
  /-- POSITION_UPDATE, R397. -/
  | positionUpdate (a b : Fin 101)
  /-- DOOR_LOCK_RELEASE, R397. -/
  | doorLockRelease
  /-- SAFE_OK_OPEN, R393. -/
  | safeOkOpen
  /-- ISLAND_TOKENS_START, R393. -/
  | islandTokensStart
  /-- SACK_RISE, R399. -/
  | sackRise
  /-- SACK_RELEASE, R399. -/
  | sackRelease
  /-- SACK_JAM, R399. -/
  | sackJam
  /-- PROOF_INTERVAL_EXPIRY, R400. -/
  | proofIntervalExpiry
  /-- CONFIRM_ARM, R403. -/
  | confirmArm
  /-- CONFIRM_CHECK, R403. -/
  | confirmCheck (v : BitVec 32)
  /-- CONFIRM_WINDOW_EXPIRY, R403. -/
  | confirmWindowExpiry
  /-- LOCKSTEP_FAIL, R385. -/
  | lockstepFail (pc : BitVec 32)
  /-- RO_START, R409. -/
  | roStart
  /-- RO_DONE, R409. -/
  | roDone (counts : List (BitVec 24))
  /-- SRM_START, R410. -/
  | srmStart
  /-- SRM_DONE, R410. -/
  | srmDone (steps : BitVec 6)
  /-- BANDGAP_MEASURE, R411. -/
  | bandgapMeasure (ppm : BitVec 16)
  /-- LKQ_READ, R412. -/
  | lkqRead
  /-- RECORD_COMMIT, R415. -/
  | recordCommit
  /-- HOUR_TICK, R415. -/
  | hourTick
  /-- PLAN_SUBMIT, R421. -/
  | planSubmit
  /-- PLAN_VALIDATION_DONE, R421. -/
  | planValidationDone
  /-- PLAN_CANCEL, R421. -/
  | planCancel
  /-- ENV_LOCK_SET, R418. -/
  | envLockSet
  /-- ROLLBACK_BURN, R433. -/
  | rollbackBurn (m : Master)
  /-- REVOKE_BURN, R433. -/
  | revokeBurn (m : Master) (slot : Fin 4)
  /-- FUSE_BURN_DONE, R433. -/
  | fuseBurnDone
  /-- VAULT_ENROL, R437. -/
  | vaultEnrol (m : Master)
  /-- VAULT_IMPORT, R437. -/
  | vaultImport (m : Master) (slot : Fin 16)
  /-- VAULT_CLEAR, R437. -/
  | vaultClear (m : Master) (slot : Fin 16)
  /-- VAULT_GEN_ID, R437. -/
  | vaultGenId (m : Master)
  /-- VAULT_SIGN, R437. -/
  | vaultSign (m : Master)
  /-- VAULT_COMMAND_DONE, R437. -/
  | vaultCommandDone
  /-- TAMPER, R438. -/
  | tamper (i : Fin 2)
  /-- VGLITCH, R438. -/
  | vglitch (rail : Fin 3)
  /-- CGLITCH, R438. -/
  | cglitch (k : Fin 2)
  /-- LOWTEMP, R438. -/
  | lowtemp
  /-- DEBUG_CHALLENGE_READ, R443. -/
  | debugChallengeRead
  /-- DEBUG_AUTH_RESPONSE, R443. -/
  | debugAuthResponse (keyOk sigOk : Bool)
  /-- RAIL_WARN, R448. -/
  | railWarn (r : Fin 10)
  /-- RAIL_RECOVER, R448. -/
  | railRecover (r : Fin 10)
  /-- RAIL_BELOW_RESET, R448. -/
  | railBelowReset (r : Fin 10)
  /-- POR_RELEASE, R448. -/
  | porRelease (r : Fin 10)
  /-- NRESET_ASSERT, R451. -/
  | nresetAssert
  /-- NRESET_RELEASE, R451. -/
  | nresetRelease
  /-- RESET_RELEASE, R453. -/
  | resetRelease (b : BootIn)
  /-- HOST_IMAGE_GO, R467. -/
  | hostImageGo (keyOk sigOk : Bool)
  /-- CONFIG_DONE, R470. -/
  | configDone
  /-- CONFIG_TIMEOUT, R470. -/
  | configTimeout
  /-- MRAM_WRITE, R460. -/
  | mramWrite (w : Fin 524288) (v : BitVec 64) (be : BitVec 8)
  /-- MRAM_PULSE_DONE, R460. -/
  | mramPulseDone
  /-- SCRUB_READ, R462. -/
  | scrubRead (err : Fin 3)
  /-- BLOCK_RESET, R463. -/
  | blockReset (code : BitVec 7) (test : Bool)
  /-- BLOCK_RESET_DONE, R463. -/
  | blockResetDone
  /-- BLOCK_SELF_TEST_DONE, R465. -/
  | blockSelfTestDone (pass : Bool)
  /-- CAN_FRAME_RECEIVED, R479. -/
  | canFrameReceived (m : Fin 4) (f : CanFrame) (sof len : Nat)
  /-- CAN_SETREQ, R478. -/
  | canSetreq (m : Fin 4) (o : Fin 64)
  /-- CAN_CANCEL, R483. -/
  | canCancel (m : Fin 4) (o : Fin 64) (started : Bool)
  /-- CAN_TX_DONE, R481. -/
  | canTxDone (m : Fin 4) (o : Fin 64) (d sof len : Nat)
  /-- CAN_TX_FAIL, R481. -/
  | canTxFail (m : Fin 4) (o : Fin 64) (arb quiet : Bool)
  /-- CAN_RECOVER, R482. -/
  | canRecover (m : Fin 4)
  /-- CAN_BUSOFF_RECOVERED, R482. -/
  | canBusoffRecovered (m : Fin 4)
  /-- CAN_INIT_CLEAR, R476. -/
  | canInitClear (m : Fin 4)
  /-- CAN_TSCAP, R486. -/
  | canTscap (m : Fin 4) (p : Nat)
  /-- CAN_CLOCK_STOP, R487. -/
  | canClockStop (m : Fin 4)
  /-- CAN_RXS_READ, R480. -/
  | canRxsRead (m : Fin 4) (o : Fin 64)
  /-- PERST, R495. -/
  | perst
  /-- PCIE_LINK_DOWN, R495. -/
  | pcieLinkDown
  /-- BME_CLEAR, R496. -/
  | bmeClear
  /-- DOORBELL_WRITE, R497. -/
  | doorbellWrite (i : Fin 8) (w : BitVec 32)
  /-- H2D_WRITE, R498. -/
  | h2dWrite (w : BitVec 32)
  /-- H2D_READ, R498. -/
  | h2dRead
  /-- D2H_WRITE, R498. -/
  | d2hWrite (w : BitVec 32)
  /-- D2H_READ, R498. -/
  | d2hRead
  /-- MSIX_SEND, R499. -/
  | msixSend (v : Fin 32)
  /-- MSIX_UNMASK, R499. -/
  | msixUnmask (v : Fin 32)
  /-- DMA_TAIL_WRITE, R500. -/
  | dmaTailWrite (d : Fin 4) (v : BitVec 8)
  /-- DMA_DESCRIPTOR_DONE, R500. -/
  | dmaDescriptorDone (d : Fin 4) (err : Bool) (data : List Byte)
  /-- RECORD_DRAIN, R501. -/
  | recordDrain (full : Bool)
  /-- TRACE_ARM, R502. -/
  | traceArm
  /-- TRACE_STOP, R504. -/
  | traceStop
  /-- TRACE_FORCE, R502. -/
  | traceForce
  /-- STREAM_CREDIT, R503. -/
  | streamCredit (add : BitVec 19)
  /-- CELL_INPUT_RELOCK, R117. -/
  | cellInputRelock (c : Fin 192) (p : Fin 2)
  /-- NODE_RESET, R127. -/
  | nodeReset (c : Fin 192)
  /-- LPWM_DEADTIME_TURN_ON, R174. -/
  | lpwmDeadtimeTurnOn (m : Fin 16)
  /-- PREFETCH_OUT_DONE, R192. -/
  | prefetchOutDone (n : Fin 16)
  /-- SENSOR_BROKEN_CLEAR, R299. -/
  | sensorBrokenClear (i : Fin 12)
  /-- CORE_CLOCK_RESUME, R399. -/
  | coreClockResume
  /-- STROBE_MISSING, R388. -/
  | strobeMissing (ns : Nat)
  /-- ETH_LINK_DOWN, R327. -/
  | ethLinkDown (p : Fin 2)
  /-- CAN_RX_ERROR, R482. -/
  | canRxError (m : Fin 4) (pxe big : Bool)
  /-- PCIE_LINK_UP, R492. -/
  | pcieLinkUp (w v : Fin 3)
  /-- BME_SET, R496. -/
  | bmeSet
deriving DecidableEq, Repr

end Sys2Proof
end

