-- ==== Sys2Proof/Config.lean ====
section
/-! DEFINITION. Config.lean: the values the spec leaves open (notes/assumptions/1.md). -/
namespace Sys2Proof

/-- A value the spec does not state, `w` bits wide: the `k`-th one drawn by the machine. It has no body, so nothing can be
proved about it. `State.free` counts the draws. -/
opaque Config.freeValue (w : Nat) : Nat → BitVec w

end Sys2Proof
end

