-- ==== Sys2Proof/Machine/Bits.lean ====
section
/-! DEFINITION. Machine/Bits.lean: bit fields, saturation, two's complement, bytes, and the sparse tables that hold registers,
memory and the records of repeated units. -/
namespace Sys2Proof.Machine

/-- The `w` bits of `v` from bit `lo` up. -/
def bitsOf (v lo w : Nat) : Nat := (v >>> lo) % 2 ^ w

/-- `v` with its `w` bits from bit `lo` up replaced by the low bits of `x`. -/
def putBits (v lo w x : Nat) : Nat := v - (bitsOf v lo w <<< lo) + ((x % 2 ^ w) <<< lo)

/-- `n` limited to what `w` bits hold: a saturating count. -/
def satN (w n : Nat) : Nat := min n (2 ^ w - 1)

/-- The value of a `w`-bit two's complement number. -/
def toInt (w n : Nat) : Int := if 2 * (n % 2 ^ w) < 2 ^ w then (n % 2 ^ w : Nat) else ((n % 2 ^ w : Nat) : Int) - (2 ^ w : Nat)

/-- The `w`-bit two's complement pattern of a number, wrapped. -/
def ofInt (w : Nat) (i : Int) : Nat := (i % (2 ^ w : Nat)).toNat

/-- `i` limited to the range of a `w`-bit two's complement number. -/
def satI (w : Nat) (i : Int) : Int := max (-(2 ^ (w - 1) : Nat)) (min ((2 ^ (w - 1) : Nat) - 1) i)

/-- One bit from a truth value. -/
def bit (b : Bool) : Nat := if b then 1 else 0

/-- `a - b` modulo `2 ^ w`. -/
def subMod (w a b : Nat) : Nat := (a % 2 ^ w + 2 ^ w - b % 2 ^ w) % 2 ^ w

/-- Whether `a` is later than `b`, as a signed 32-bit difference (13_fault_collection.md R372 and the frame numbers). -/
def later32 (a b : Nat) : Bool := let d := subMod 32 a b; d != 0 && decide (d < 2 ^ 31)

/-- The number of ones among the low `w` bits. -/
def popCount : Nat → Nat → Nat
  | 0, _ => 0
  | w + 1, n => n % 2 + popCount w (n / 2)

/-- The position of the lowest one among the low `w` bits, counted from `k`. -/
def lowestOne : Nat → Nat → Nat → Option Nat
  | 0, _, _ => none
  | w + 1, n, k => if n % 2 = 1 then some k else lowestOne w (n / 2) (k + 1)

/-- The number whose bytes, lowest first, are `bs`. -/
def ofBytes : List Byte → Nat
  | [] => 0
  | b :: t => b.toNat + 256 * ofBytes t

/-- The `k` low bytes of `n`, lowest first. -/
def toBytes : Nat → Nat → List Byte
  | 0, _ => []
  | k + 1, n => BitVec.ofNat 8 n :: toBytes k (n / 256)

/-- Ceiling division. -/
def ceilDiv (a b : Nat) : Nat := (a + b - 1) / b

/-- The place of a field in the register space. -/
structure Fld where
  addr : Nat
  lo : Nat
  w : Nat
deriving DecidableEq, Repr

/-! ### Sparse tables: keys strictly rising, no entry equal to what an unlisted key reads as. -/

/-- The entry of key `k`, if one is listed. -/
def Tbl.find {α : Type} (k : Nat) : List (Nat × α) → Option α
  | [] => none
  | (j, v) :: t => if j = k then some v else Tbl.find k t

/-- What key `k` reads as: its entry, or the default `d k`. -/
def Tbl.get {α : Type} (d : Nat → α) (l : List (Nat × α)) (k : Nat) : α := (Tbl.find k l).getD (d k)

/-- List `v` at key `k`. -/
def Tbl.put {α : Type} (k : Nat) (v : α) : List (Nat × α) → List (Nat × α)
  | [] => [(k, v)]
  | (j, w) :: t => if k < j then (k, v) :: (j, w) :: t else if j = k then (k, v) :: t else (j, w) :: Tbl.put k v t

/-- Unlist key `k`. -/
def Tbl.drop {α : Type} (k : Nat) : List (Nat × α) → List (Nat × α)
  | [] => []
  | (j, w) :: t => if j = k then Tbl.drop k t else (j, w) :: Tbl.drop k t

/-- Make key `k` read as `v`; a value equal to the default is not listed. -/
def Tbl.set {α : Type} [DecidableEq α] (d : Nat → α) (l : List (Nat × α)) (k : Nat) (v : α) : List (Nat × α) :=
  if v = d k then Tbl.drop k l else Tbl.put k v l

/-- Keys above `b` and strictly rising, no entry equal to the default. -/
def Tbl.wfFrom {α : Type} [DecidableEq α] (d : Nat → α) : Option Nat → List (Nat × α) → Bool
  | _, [] => true
  | b, (j, v) :: t => (match b with | none => true | some m => decide (m < j)) && decide (v ≠ d j) && Tbl.wfFrom d (some j) t

/-- The canonical form of a table. -/
def Tbl.wf {α : Type} [DecidableEq α] (d : Nat → α) (l : List (Nat × α)) : Bool := Tbl.wfFrom d none l

end Sys2Proof.Machine
end

