-- ==== Sys2Proof/Machine/RegNames.lean ====
section
/-! DEFINITION. Machine/RegNames.lean: the address of every register of the register space (20_register_index.md R511, R512)
and the place of every field in it, from the register tables of the section files. A register of a repeated block takes the
number of its block and, where the register itself repeats, its own number; a field that repeats inside one register takes
its number last. -/
namespace Sys2Proof.Machine

/-- SYS.SYS_ID, 17_reset_power_boot.md R473. -/
def SYS_SYS_ID : Nat := 0x40000000
def SYS_SYS_ID_ID : Fld := ⟨SYS_SYS_ID, 0, 32⟩
/-- SYS.SYS_STEP, 17_reset_power_boot.md R473. -/
def SYS_SYS_STEP : Nat := 0x40000004
def SYS_SYS_STEP_STEP : Fld := ⟨SYS_SYS_STEP, 0, 32⟩
/-- SYS.DEV_ID, 17_reset_power_boot.md R473. -/
def SYS_DEV_ID : Nat := 0x40000008
def SYS_DEV_ID_DEVID : Fld := ⟨SYS_DEV_ID, 0, 16⟩
/-- SYS.DEV_STATE, 17_reset_power_boot.md R473. -/
def SYS_DEV_STATE : Nat := 0x4000000c
def SYS_DEV_STATE_STATE : Fld := ⟨SYS_DEV_STATE, 0, 3⟩
def SYS_DEV_STATE_LIMP : Fld := ⟨SYS_DEV_STATE, 3, 1⟩
def SYS_DEV_STATE_PROFILE : Fld := ⟨SYS_DEV_STATE, 4, 2⟩
/-- SYS.STATE_REQ, 17_reset_power_boot.md R473. -/
def SYS_STATE_REQ : Nat := 0x40000010
def SYS_STATE_REQ_TARGET : Fld := ⟨SYS_STATE_REQ, 0, 3⟩
def SYS_STATE_REQ_REFUSED : Fld := ⟨SYS_STATE_REQ, 3, 1⟩
/-- SYS.D2D_STAT, 17_reset_power_boot.md R473. -/
def SYS_D2D_STAT : Nat := 0x40000014
def SYS_D2D_STAT_CRC_ERR : Fld := ⟨SYS_D2D_STAT, 0, 16⟩
def SYS_D2D_STAT_UP : Fld := ⟨SYS_D2D_STAT, 16, 1⟩
/-- SYS.BOOT_STAT, 17_reset_power_boot.md R473. -/
def SYS_BOOT_STAT : Nat := 0x40000018
def SYS_BOOT_STAT_SRC : Fld := ⟨SYS_BOOT_STAT, 0, 2⟩
def SYS_BOOT_STAT_STEP : Fld := ⟨SYS_BOOT_STAT, 2, 4⟩
def SYS_BOOT_STAT_ISLAND : Fld := ⟨SYS_BOOT_STAT, 8, 3⟩
/-- SYS.BOOT_CTL, 17_reset_power_boot.md R473. -/
def SYS_BOOT_CTL : Nat := 0x4000001c
def SYS_BOOT_CTL_DONE : Fld := ⟨SYS_BOOT_CTL, 0, 1⟩
def SYS_BOOT_CTL_TMO : Fld := ⟨SYS_BOOT_CTL, 16, 16⟩
/-- SYS.HOST_IMG, 17_reset_power_boot.md R473. -/
def SYS_HOST_IMG : Nat := 0x40000020
def SYS_HOST_IMG_LEN : Fld := ⟨SYS_HOST_IMG, 0, 24⟩
def SYS_HOST_IMG_GO : Fld := ⟨SYS_HOST_IMG, 31, 1⟩

/-- RST.MAP, 17_reset_power_boot.md R473. -/
def RST_MAP : Nat := 0x40010000
def RST_MAP_CORE : Fld := ⟨RST_MAP, 0, 2⟩
def RST_MAP_IO : Fld := ⟨RST_MAP, 2, 2⟩
def RST_MAP_PHY : Fld := ⟨RST_MAP, 4, 2⟩
def RST_MAP_ANA : Fld := ⟨RST_MAP, 6, 2⟩
def RST_MAP_SAFE : Fld := ⟨RST_MAP, 8, 2⟩
def RST_MAP_NRST : Fld := ⟨RST_MAP, 10, 2⟩
/-- RST.CAUSE, 17_reset_power_boot.md R473. -/
def RST_CAUSE : Nat := 0x40010004
def RST_CAUSE_SRC : Fld := ⟨RST_CAUSE, 0, 6⟩
def RST_CAUSE_REACH : Fld := ⟨RST_CAUSE, 8, 2⟩
def RST_CAUSE_AS : Fld := ⟨RST_CAUSE, 10, 1⟩
def RST_CAUSE_HELDOFF : Fld := ⟨RST_CAUSE, 11, 1⟩
/-- RST.COUNT, 17_reset_power_boot.md R473. -/
def RST_COUNT : Nat := 0x40010008
def RST_COUNT_COLD : Fld := ⟨RST_COUNT, 0, 8⟩
def RST_COUNT_WARM : Fld := ⟨RST_COUNT, 8, 8⟩
def RST_COUNT_ANA : Fld := ⟨RST_COUNT, 16, 8⟩
def RST_COUNT_SAFE : Fld := ⟨RST_COUNT, 24, 8⟩
/-- RST.BLK_RST, 17_reset_power_boot.md R473. -/
def RST_BLK_RST : Nat := 0x40010010
def RST_BLK_RST_CODE : Fld := ⟨RST_BLK_RST, 0, 7⟩
def RST_BLK_RST_TEST : Fld := ⟨RST_BLK_RST, 7, 1⟩
def RST_BLK_RST_GO : Fld := ⟨RST_BLK_RST, 31, 1⟩
/-- RST.BLK_STAT, 17_reset_power_boot.md R473. -/
def RST_BLK_STAT : Nat := 0x40010014
def RST_BLK_STAT_BUSY : Fld := ⟨RST_BLK_STAT, 0, 1⟩
def RST_BLK_STAT_NOT_IDLE : Fld := ⟨RST_BLK_STAT, 1, 1⟩
def RST_BLK_STAT_COLL : Fld := ⟨RST_BLK_STAT, 2, 1⟩
def RST_BLK_STAT_REFUSED : Fld := ⟨RST_BLK_STAT, 3, 1⟩
def RST_BLK_STAT_TEST_PASS : Fld := ⟨RST_BLK_STAT, 4, 1⟩
def RST_BLK_STAT_TEST_FAIL : Fld := ⟨RST_BLK_STAT, 5, 1⟩
/-- RST.BLK_IDLE0, 17_reset_power_boot.md R473. -/
def RST_BLK_IDLE0 : Nat := 0x40010018
def RST_BLK_IDLE0_LANE : Fld := ⟨RST_BLK_IDLE0, 0, 28⟩
/-- RST.BLK_IDLE1, 17_reset_power_boot.md R473. -/
def RST_BLK_IDLE1 : Nat := 0x4001001c
def RST_BLK_IDLE1_BLK : Fld := ⟨RST_BLK_IDLE1, 0, 31⟩

/-- CLK.SYS_CTL, 11_clocks_timebase_network_time.md R338. -/
def CLK_SYS_CTL : Nat := 0x40020000
def CLK_SYS_CTL_EN : Fld := ⟨CLK_SYS_CTL, 0, 1⟩
def CLK_SYS_CTL_SEL : Fld := ⟨CLK_SYS_CTL, 1, 1⟩
def CLK_SYS_CTL_K : Fld := ⟨CLK_SYS_CTL, 8, 5⟩
def CLK_SYS_CTL_M : Fld := ⟨CLK_SYS_CTL, 13, 3⟩
def CLK_SYS_CTL_TOL : Fld := ⟨CLK_SYS_CTL, 16, 8⟩
/-- CLK.SYS_STAT, 11_clocks_timebase_network_time.md R338. -/
def CLK_SYS_STAT : Nat := 0x40020004
def CLK_SYS_STAT_LOCK : Fld := ⟨CLK_SYS_STAT, 0, 1⟩
def CLK_SYS_STAT_COAST : Fld := ⟨CLK_SYS_STAT, 1, 1⟩
def CLK_SYS_STAT_REF_OK : Fld := ⟨CLK_SYS_STAT, 2, 1⟩
def CLK_SYS_STAT_RAMPING : Fld := ⟨CLK_SYS_STAT, 3, 1⟩
def CLK_SYS_STAT_SPREAD : Fld := ⟨CLK_SYS_STAT, 4, 1⟩
def CLK_SYS_STAT_BAND : Fld := ⟨CLK_SYS_STAT, 8, 6⟩
/-- CLK.SYS_RAMP, 11_clocks_timebase_network_time.md R338. -/
def CLK_SYS_RAMP : Nat := 0x40020008
def CLK_SYS_RAMP_END : Fld := ⟨CLK_SYS_RAMP, 0, 20⟩
def CLK_SYS_RAMP_RATE : Fld := ⟨CLK_SYS_RAMP, 20, 8⟩
def CLK_SYS_RAMP_GO : Fld := ⟨CLK_SYS_RAMP, 31, 1⟩
/-- CLK.SYS_SPREAD, 11_clocks_timebase_network_time.md R338. -/
def CLK_SYS_SPREAD : Nat := 0x4002000c
def CLK_SYS_SPREAD_DEPTH : Fld := ⟨CLK_SYS_SPREAD, 0, 7⟩
def CLK_SYS_SPREAD_EN : Fld := ⟨CLK_SYS_SPREAD, 8, 1⟩
/-- CLK.SYS_FREQ, 11_clocks_timebase_network_time.md R338. -/
def CLK_SYS_FREQ : Nat := 0x40020010
def CLK_SYS_FREQ_KHZ : Fld := ⟨CLK_SYS_FREQ, 0, 20⟩
/-- CLK.RAMP_STAT, 11_clocks_timebase_network_time.md R338. -/
def CLK_RAMP_STAT : Nat := 0x40020014
def CLK_RAMP_STAT_S_BUSY : Fld := ⟨CLK_RAMP_STAT, 0, 1⟩
def CLK_RAMP_STAT_S_DONE : Fld := ⟨CLK_RAMP_STAT, 1, 1⟩
def CLK_RAMP_STAT_S_REF : Fld := ⟨CLK_RAMP_STAT, 2, 1⟩
def CLK_RAMP_STAT_S_WHY : Fld := ⟨CLK_RAMP_STAT, 3, 3⟩
def CLK_RAMP_STAT_T_BUSY : Fld := ⟨CLK_RAMP_STAT, 8, 1⟩
def CLK_RAMP_STAT_T_DONE : Fld := ⟨CLK_RAMP_STAT, 9, 1⟩
def CLK_RAMP_STAT_T_REF : Fld := ⟨CLK_RAMP_STAT, 10, 1⟩
def CLK_RAMP_STAT_T_WHY : Fld := ⟨CLK_RAMP_STAT, 11, 3⟩

/-- CLK.TB_CTL, 11_clocks_timebase_network_time.md R338. -/
def CLK_TB_CTL : Nat := 0x40020040
def CLK_TB_CTL_EN : Fld := ⟨CLK_TB_CTL, 0, 1⟩
def CLK_TB_CTL_SRC : Fld := ⟨CLK_TB_CTL, 1, 1⟩
def CLK_TB_CTL_AUTO_SW : Fld := ⟨CLK_TB_CTL, 2, 1⟩
def CLK_TB_CTL_K : Fld := ⟨CLK_TB_CTL, 8, 5⟩
def CLK_TB_CTL_M : Fld := ⟨CLK_TB_CTL, 13, 3⟩
def CLK_TB_CTL_TOL : Fld := ⟨CLK_TB_CTL, 16, 8⟩
/-- CLK.TB_STAT, 11_clocks_timebase_network_time.md R338. -/
def CLK_TB_STAT : Nat := 0x40020044
def CLK_TB_STAT_LOCK : Fld := ⟨CLK_TB_STAT, 0, 1⟩
def CLK_TB_STAT_COAST : Fld := ⟨CLK_TB_STAT, 1, 1⟩
def CLK_TB_STAT_SRC_ACT : Fld := ⟨CLK_TB_STAT, 2, 1⟩
def CLK_TB_STAT_REF0_OK : Fld := ⟨CLK_TB_STAT, 3, 1⟩
def CLK_TB_STAT_REF1_OK : Fld := ⟨CLK_TB_STAT, 4, 1⟩
def CLK_TB_STAT_RAMPING : Fld := ⟨CLK_TB_STAT, 5, 1⟩
def CLK_TB_STAT_DLL_LOCK : Fld := ⟨CLK_TB_STAT, 6, 1⟩
def CLK_TB_STAT_BAND : Fld := ⟨CLK_TB_STAT, 8, 6⟩
/-- CLK.TB_RAMP, 11_clocks_timebase_network_time.md R338. -/
def CLK_TB_RAMP : Nat := 0x40020048
def CLK_TB_RAMP_END : Fld := ⟨CLK_TB_RAMP, 0, 16⟩
def CLK_TB_RAMP_RATE : Fld := ⟨CLK_TB_RAMP, 16, 8⟩
def CLK_TB_RAMP_GO : Fld := ⟨CLK_TB_RAMP, 31, 1⟩
/-- CLK.TB_DITHER, 11_clocks_timebase_network_time.md R338. -/
def CLK_TB_DITHER : Nat := 0x4002004c
def CLK_TB_DITHER_SEED : Fld := ⟨CLK_TB_DITHER, 0, 16⟩
def CLK_TB_DITHER_EN : Fld := ⟨CLK_TB_DITHER, 16, 1⟩
/-- CLK.REF_PHASE_JUMP, 11_clocks_timebase_network_time.md R338. -/
def CLK_REF_PHASE_JUMP : Nat := 0x40020050
def CLK_REF_PHASE_JUMP_JUMP : Fld := ⟨CLK_REF_PHASE_JUMP, 0, 24⟩
def CLK_REF_PHASE_JUMP_VALID : Fld := ⟨CLK_REF_PHASE_JUMP, 31, 1⟩
/-- CLK.CLK_CNT, 11_clocks_timebase_network_time.md R338. -/
def CLK_CLK_CNT : Nat := 0x40020054
def CLK_CLK_CNT_S_LOSS : Fld := ⟨CLK_CLK_CNT, 0, 8⟩
def CLK_CLK_CNT_T_LOSS : Fld := ⟨CLK_CLK_CNT, 8, 8⟩
def CLK_CLK_CNT_LOL : Fld := ⟨CLK_CLK_CNT, 16, 8⟩

/-- TB.NOW_NS, 11_clocks_timebase_network_time.md R339. -/
def TB_NOW_NS : Nat := 0x40030000
def TB_NOW_NS_NS : Fld := ⟨TB_NOW_NS, 0, 30⟩
def TB_NOW_NS_S : Fld := ⟨TB_NOW_NS, 30, 2⟩
/-- TB.NOW_SEC, 11_clocks_timebase_network_time.md R339. -/
def TB_NOW_SEC : Nat := 0x40030004
def TB_NOW_SEC_SEC : Fld := ⟨TB_NOW_SEC, 0, 32⟩
/-- TB.NOW_SECH, 11_clocks_timebase_network_time.md R339. -/
def TB_NOW_SECH : Nat := 0x40030008
def TB_NOW_SECH_SECH : Fld := ⟨TB_NOW_SECH, 0, 16⟩
/-- TB.NOW_FRAC, 11_clocks_timebase_network_time.md R339. -/
def TB_NOW_FRAC : Nat := 0x4003000c
def TB_NOW_FRAC_FRAC : Fld := ⟨TB_NOW_FRAC, 0, 24⟩
/-- TB.INC, 11_clocks_timebase_network_time.md R339. -/
def TB_INC : Nat := 0x40030010
def TB_INC_INC : Fld := ⟨TB_INC, 0, 32⟩
/-- TB.SLEW_AMT, 11_clocks_timebase_network_time.md R339. -/
def TB_SLEW_AMT : Nat := 0x40030014
def TB_SLEW_AMT_AMT : Fld := ⟨TB_SLEW_AMT, 0, 24⟩
/-- TB.SLEW_CTL, 11_clocks_timebase_network_time.md R339. -/
def TB_SLEW_CTL : Nat := 0x40030018
def TB_SLEW_CTL_RATE : Fld := ⟨TB_SLEW_CTL, 0, 12⟩
def TB_SLEW_CTL_GO : Fld := ⟨TB_SLEW_CTL, 16, 1⟩
def TB_SLEW_CTL_STOP : Fld := ⟨TB_SLEW_CTL, 17, 1⟩
def TB_SLEW_CTL_BUSY : Fld := ⟨TB_SLEW_CTL, 18, 1⟩
def TB_SLEW_CTL_DONE : Fld := ⟨TB_SLEW_CTL, 19, 1⟩
def TB_SLEW_CTL_COLL : Fld := ⟨TB_SLEW_CTL, 20, 1⟩
/-- TB.SLEW_LEFT, 11_clocks_timebase_network_time.md R339. -/
def TB_SLEW_LEFT : Nat := 0x4003001c
def TB_SLEW_LEFT_LEFT : Fld := ⟨TB_SLEW_LEFT, 0, 24⟩
/-- TB.SET_NS, 11_clocks_timebase_network_time.md R339. -/
def TB_SET_NS : Nat := 0x40030020
def TB_SET_NS_NS : Fld := ⟨TB_SET_NS, 0, 30⟩
/-- TB.SET_SEC, 11_clocks_timebase_network_time.md R339. -/
def TB_SET_SEC : Nat := 0x40030024
def TB_SET_SEC_SEC : Fld := ⟨TB_SET_SEC, 0, 32⟩
/-- TB.SET_SECH, 11_clocks_timebase_network_time.md R339. -/
def TB_SET_SECH : Nat := 0x40030028
def TB_SET_SECH_SECH : Fld := ⟨TB_SET_SECH, 0, 16⟩
/-- TB.SET_CTL, 11_clocks_timebase_network_time.md R339. -/
def TB_SET_CTL : Nat := 0x4003002c
def TB_SET_CTL_GO : Fld := ⟨TB_SET_CTL, 0, 1⟩

/-- TB_CAP.CFG, 11_clocks_timebase_network_time.md R339. -/
def TB_CAP_CFG (n : Nat) : Nat := 0x40030040 + 0x10 * n
def TB_CAP_CFG_SRC (n : Nat) : Fld := ⟨TB_CAP_CFG n, 0, 5⟩
def TB_CAP_CFG_EDGE (n : Nat) : Fld := ⟨TB_CAP_CFG n, 5, 1⟩
def TB_CAP_CFG_EN (n : Nat) : Fld := ⟨TB_CAP_CFG n, 6, 1⟩
/-- TB_CAP.NS, 11_clocks_timebase_network_time.md R339. -/
def TB_CAP_NS (n : Nat) : Nat := 0x40030044 + 0x10 * n
def TB_CAP_NS_NS (n : Nat) : Fld := ⟨TB_CAP_NS n, 0, 30⟩
def TB_CAP_NS_QTR (n : Nat) : Fld := ⟨TB_CAP_NS n, 30, 2⟩
/-- TB_CAP.SEC, 11_clocks_timebase_network_time.md R339. -/
def TB_CAP_SEC (n : Nat) : Nat := 0x40030048 + 0x10 * n
def TB_CAP_SEC_SEC (n : Nat) : Fld := ⟨TB_CAP_SEC n, 0, 32⟩
/-- TB_CAP.STAT, 11_clocks_timebase_network_time.md R339. -/
def TB_CAP_STAT (n : Nat) : Nat := 0x4003004c + 0x10 * n
def TB_CAP_STAT_NEW (n : Nat) : Fld := ⟨TB_CAP_STAT n, 0, 1⟩
def TB_CAP_STAT_OVR (n : Nat) : Fld := ⟨TB_CAP_STAT n, 16, 16⟩

/-- TB_PPS.CFG, 11_clocks_timebase_network_time.md R339. -/
def TB_PPS_CFG : Nat := 0x400300c0
def TB_PPS_CFG_TT : Fld := ⟨TB_PPS_CFG, 0, 5⟩
def TB_PPS_CFG_EN : Fld := ⟨TB_PPS_CFG, 5, 1⟩
def TB_PPS_CFG_WIDTH : Fld := ⟨TB_PPS_CFG, 8, 14⟩

/-- TB_TT.CFG, 11_clocks_timebase_network_time.md R339. -/
def TB_TT_CFG (n : Nat) : Nat := 0x40030100 + 0x20 * n
def TB_TT_CFG_MODE (n : Nat) : Fld := ⟨TB_TT_CFG n, 0, 2⟩
def TB_TT_CFG_IRQ (n : Nat) : Fld := ⟨TB_TT_CFG n, 2, 1⟩
def TB_TT_CFG_CELL (n : Nat) : Fld := ⟨TB_TT_CFG n, 3, 8⟩
def TB_TT_CFG_DIV (n : Nat) : Fld := ⟨TB_TT_CFG n, 11, 6⟩
/-- TB_TT.START_NS, 11_clocks_timebase_network_time.md R339. -/
def TB_TT_START_NS (n : Nat) : Nat := 0x40030104 + 0x20 * n
def TB_TT_START_NS_NS (n : Nat) : Fld := ⟨TB_TT_START_NS n, 0, 30⟩
/-- TB_TT.START_SEC, 11_clocks_timebase_network_time.md R339. -/
def TB_TT_START_SEC (n : Nat) : Nat := 0x40030108 + 0x20 * n
def TB_TT_START_SEC_SEC (n : Nat) : Fld := ⟨TB_TT_START_SEC n, 0, 32⟩
/-- TB_TT.PERIOD, 11_clocks_timebase_network_time.md R339. -/
def TB_TT_PERIOD (n : Nat) : Nat := 0x4003010c + 0x20 * n
def TB_TT_PERIOD_NS (n : Nat) : Fld := ⟨TB_TT_PERIOD n, 0, 30⟩
/-- TB_TT.OFFSET, 11_clocks_timebase_network_time.md R339. -/
def TB_TT_OFFSET (n : Nat) : Nat := 0x40030110 + 0x20 * n
def TB_TT_OFFSET_NS (n : Nat) : Fld := ⟨TB_TT_OFFSET n, 0, 24⟩
/-- TB_TT.STAT, 11_clocks_timebase_network_time.md R339. -/
def TB_TT_STAT (n : Nat) : Nat := 0x40030114 + 0x20 * n
def TB_TT_STAT_DROPS (n : Nat) : Fld := ⟨TB_TT_STAT n, 0, 16⟩
def TB_TT_STAT_FIRED (n : Nat) : Fld := ⟨TB_TT_STAT n, 16, 1⟩
/-- TB_TT.CNT, 11_clocks_timebase_network_time.md R339. -/
def TB_TT_CNT (n : Nat) : Nat := 0x40030118 + 0x20 * n
def TB_TT_CNT_EVENTS (n : Nat) : Fld := ⟨TB_TT_CNT n, 0, 32⟩

/-- FLT.ESC_EN, 13_fault_collection.md R383. -/
def FLT_ESC_EN : Nat := 0x40040000
def FLT_ESC_EN_MASK : Fld := ⟨FLT_ESC_EN, 0, 13⟩
/-- FLT.STAT, 13_fault_collection.md R383. -/
def FLT_STAT : Nat := 0x40040004
def FLT_STAT_UNACK : Fld := ⟨FLT_STAT, 0, 13⟩
def FLT_STAT_PB : Fld := ⟨FLT_STAT, 13, 1⟩
def FLT_STAT_RSTREQ : Fld := ⟨FLT_STAT, 14, 1⟩
def FLT_STAT_UNACK_HI : Fld := ⟨FLT_STAT, 16, 13⟩
/-- FLT.SEQ, 13_fault_collection.md R383. -/
def FLT_SEQ : Nat := 0x40040008
def FLT_SEQ_SEQ : Fld := ⟨FLT_SEQ, 0, 32⟩
/-- FLT.ACK_SEQ, 13_fault_collection.md R383. -/
def FLT_ACK_SEQ : Nat := 0x4004000c
def FLT_ACK_SEQ_SEQ : Fld := ⟨FLT_ACK_SEQ, 0, 32⟩
/-- FLT.ACK, 13_fault_collection.md R383. -/
def FLT_ACK : Nat := 0x40040010
def FLT_ACK_MASK : Fld := ⟨FLT_ACK, 0, 13⟩
/-- FLT.HIST_STAT, 13_fault_collection.md R383. -/
def FLT_HIST_STAT : Nat := 0x40040014
def FLT_HIST_STAT_HEAD : Fld := ⟨FLT_HIST_STAT, 0, 5⟩
def FLT_HIST_STAT_WRAP : Fld := ⟨FLT_HIST_STAT, 5, 1⟩
def FLT_HIST_STAT_FROZEN : Fld := ⟨FLT_HIST_STAT, 6, 1⟩
def FLT_HIST_STAT_FREEZE_IDX : Fld := ⟨FLT_HIST_STAT, 7, 5⟩
def FLT_HIST_STAT_LOST : Fld := ⟨FLT_HIST_STAT, 16, 16⟩
/-- FLT.OVF, 13_fault_collection.md R383. -/
def FLT_OVF : Nat := 0x40040018
def FLT_OVF_COUNT : Fld := ⟨FLT_OVF, 0, 16⟩
/-- FLT.IRQ_CTL, 13_fault_collection.md R383. -/
def FLT_IRQ_CTL : Nat := 0x40040020
def FLT_IRQ_CTL_ASTER_EN : Fld := ⟨FLT_IRQ_CTL, 0, 1⟩
def FLT_IRQ_CTL_HOST_EN : Fld := ⟨FLT_IRQ_CTL, 1, 1⟩

/-- FLT_CLS.SEQ_LAST, 13_fault_collection.md R383. -/
def FLT_CLS_SEQ_LAST (n : Nat) : Nat := 0x40040040 + 0x20 * n
def FLT_CLS_SEQ_LAST_SEQ (n : Nat) : Fld := ⟨FLT_CLS_SEQ_LAST n, 0, 32⟩
/-- FLT_CLS.SEQ_ACK, 13_fault_collection.md R383. -/
def FLT_CLS_SEQ_ACK (n : Nat) : Nat := 0x40040044 + 0x20 * n
def FLT_CLS_SEQ_ACK_SEQ (n : Nat) : Fld := ⟨FLT_CLS_SEQ_ACK n, 0, 32⟩
/-- FLT_CLS.SEQ_S3, 13_fault_collection.md R383. -/
def FLT_CLS_SEQ_S3 (n : Nat) : Nat := 0x40040048 + 0x20 * n
def FLT_CLS_SEQ_S3_SEQ (n : Nat) : Fld := ⟨FLT_CLS_SEQ_S3 n, 0, 32⟩
/-- FLT_CLS.SEQ_S4, 13_fault_collection.md R383. -/
def FLT_CLS_SEQ_S4 (n : Nat) : Nat := 0x4004004c + 0x20 * n
def FLT_CLS_SEQ_S4_SEQ (n : Nat) : Fld := ⟨FLT_CLS_SEQ_S4 n, 0, 32⟩
/-- FLT_CLS.CNT, 13_fault_collection.md R383. -/
def FLT_CLS_CNT (n : Nat) : Nat := 0x40040050 + 0x20 * n
def FLT_CLS_CNT_EVENTS (n : Nat) : Fld := ⟨FLT_CLS_CNT n, 0, 16⟩
def FLT_CLS_CNT_ESC (n : Nat) : Fld := ⟨FLT_CLS_CNT n, 16, 16⟩

/-- FLT_HIST.MSG_LO, 13_fault_collection.md R383. -/
def FLT_HIST_MSG_LO (n : Nat) : Nat := 0x40040400 + 0x20 * n
def FLT_HIST_MSG_LO_MSG (n : Nat) : Fld := ⟨FLT_HIST_MSG_LO n, 0, 32⟩
/-- FLT_HIST.MSG_HI, 13_fault_collection.md R383. -/
def FLT_HIST_MSG_HI (n : Nat) : Nat := 0x40040404 + 0x20 * n
def FLT_HIST_MSG_HI_MSG (n : Nat) : Fld := ⟨FLT_HIST_MSG_HI n, 0, 32⟩
/-- FLT_HIST.T_NS, 13_fault_collection.md R383. -/
def FLT_HIST_T_NS (n : Nat) : Nat := 0x40040408 + 0x20 * n
def FLT_HIST_T_NS_NS (n : Nat) : Fld := ⟨FLT_HIST_T_NS n, 0, 30⟩
def FLT_HIST_T_NS_S (n : Nat) : Fld := ⟨FLT_HIST_T_NS n, 30, 2⟩
/-- FLT_HIST.T_SEC, 13_fault_collection.md R383. -/
def FLT_HIST_T_SEC (n : Nat) : Nat := 0x4004040c + 0x20 * n
def FLT_HIST_T_SEC_SEC (n : Nat) : Fld := ⟨FLT_HIST_T_SEC n, 0, 32⟩
/-- FLT_HIST.SEQ, 13_fault_collection.md R383. -/
def FLT_HIST_SEQ (n : Nat) : Nat := 0x40040410 + 0x20 * n
def FLT_HIST_SEQ_SEQ (n : Nat) : Fld := ⟨FLT_HIST_SEQ n, 0, 32⟩
/-- FLT_HIST.INFO, 13_fault_collection.md R383. -/
def FLT_HIST_INFO (n : Nat) : Nat := 0x40040414 + 0x20 * n
def FLT_HIST_INFO_POSTED (n : Nat) : Fld := ⟨FLT_HIST_INFO n, 0, 3⟩
def FLT_HIST_INFO_ESC (n : Nat) : Fld := ⟨FLT_HIST_INFO n, 3, 1⟩
def FLT_HIST_INFO_RING (n : Nat) : Fld := ⟨FLT_HIST_INFO n, 4, 1⟩

/-- AGE.CFG, 15_ageing_and_margins.md R429. -/
def AGE_CFG : Nat := 0x40050000
def AGE_CFG_EN : Fld := ⟨AGE_CFG, 0, 1⟩
def AGE_CFG_OWN : Fld := ⟨AGE_CFG, 1, 1⟩
def AGE_CFG_DST_EN : Fld := ⟨AGE_CFG, 2, 1⟩
/-- AGE.DST, 15_ageing_and_margins.md R429. -/
def AGE_DST : Nat := 0x40050004
def AGE_DST_ADDR : Fld := ⟨AGE_DST, 8, 14⟩
/-- AGE.PLAN_CTL, 15_ageing_and_margins.md R429. -/
def AGE_PLAN_CTL : Nat := 0x40050008
def AGE_PLAN_CTL_SUBMIT : Fld := ⟨AGE_PLAN_CTL, 0, 1⟩
def AGE_PLAN_CTL_CANCEL : Fld := ⟨AGE_PLAN_CTL, 1, 1⟩
/-- AGE.PLAN_STAT, 15_ageing_and_margins.md R429. -/
def AGE_PLAN_STAT : Nat := 0x4005000c
def AGE_PLAN_STAT_STATE : Fld := ⟨AGE_PLAN_STAT, 0, 2⟩
def AGE_PLAN_STAT_ACCEPTED : Fld := ⟨AGE_PLAN_STAT, 2, 1⟩
def AGE_PLAN_STAT_REFUSED : Fld := ⟨AGE_PLAN_STAT, 3, 1⟩
def AGE_PLAN_STAT_CLK_DROP : Fld := ⟨AGE_PLAN_STAT, 4, 1⟩
def AGE_PLAN_STAT_CELLS_SYNC : Fld := ⟨AGE_PLAN_STAT, 5, 1⟩
def AGE_PLAN_STAT_INFORCE : Fld := ⟨AGE_PLAN_STAT, 6, 1⟩
def AGE_PLAN_STAT_WHY : Fld := ⟨AGE_PLAN_STAT, 8, 4⟩
def AGE_PLAN_STAT_PARAM : Fld := ⟨AGE_PLAN_STAT, 12, 5⟩
/-- AGE.APPLY_SEQ, 15_ageing_and_margins.md R429. -/
def AGE_APPLY_SEQ : Nat := 0x40050010
def AGE_APPLY_SEQ_SEQ : Fld := ⟨AGE_APPLY_SEQ, 0, 32⟩
/-- AGE.HOURS, 15_ageing_and_margins.md R429. -/
def AGE_HOURS : Nat := 0x40050014
def AGE_HOURS_HOURS : Fld := ⟨AGE_HOURS, 0, 32⟩
/-- AGE.ENV_LOCK, 15_ageing_and_margins.md R429. -/
def AGE_ENV_LOCK : Nat := 0x40050018
def AGE_ENV_LOCK_LOCK : Fld := ⟨AGE_ENV_LOCK, 0, 1⟩
/-- AGE.RO_CTL, 15_ageing_and_margins.md R429. -/
def AGE_RO_CTL : Nat := 0x40050020
def AGE_RO_CTL_START : Fld := ⟨AGE_RO_CTL, 0, 1⟩
def AGE_RO_CTL_BUSY : Fld := ⟨AGE_RO_CTL, 1, 1⟩
def AGE_RO_CTL_DONE : Fld := ⟨AGE_RO_CTL, 2, 1⟩
def AGE_RO_CTL_W : Fld := ⟨AGE_RO_CTL, 8, 5⟩
/-- AGE.SRM_CTL, 15_ageing_and_margins.md R429. -/
def AGE_SRM_CTL : Nat := 0x40050024
def AGE_SRM_CTL_GROUP : Fld := ⟨AGE_SRM_CTL, 0, 4⟩
def AGE_SRM_CTL_START : Fld := ⟨AGE_SRM_CTL, 4, 1⟩
def AGE_SRM_CTL_BUSY : Fld := ⟨AGE_SRM_CTL, 5, 1⟩
def AGE_SRM_CTL_DONE : Fld := ⟨AGE_SRM_CTL, 6, 1⟩
/-- AGE.BG, 15_ageing_and_margins.md R429. -/
def AGE_BG : Nat := 0x40050028
def AGE_BG_PPM : Fld := ⟨AGE_BG, 0, 16⟩
def AGE_BG_VALID : Fld := ⟨AGE_BG, 16, 1⟩
/-- AGE.LKQ, 15_ageing_and_margins.md R429. -/
def AGE_LKQ : Nat := 0x4005002c
def AGE_LKQ_NA : Fld := ⟨AGE_LKQ, 0, 20⟩
def AGE_LKQ_SWITCH : Fld := ⟨AGE_LKQ, 20, 4⟩
def AGE_LKQ_CELL : Fld := ⟨AGE_LKQ, 24, 8⟩
/-- AGE.LKQ_STAT, 15_ageing_and_margins.md R429. -/
def AGE_LKQ_STAT : Nat := 0x40050030
def AGE_LKQ_STAT_OCC : Fld := ⟨AGE_LKQ_STAT, 0, 5⟩
def AGE_LKQ_STAT_LOST : Fld := ⟨AGE_LKQ_STAT, 16, 16⟩
/-- AGE.REC0, 15_ageing_and_margins.md R429. -/
def AGE_REC0 : Nat := 0x40050040
def AGE_REC0_QTY : Fld := ⟨AGE_REC0, 0, 8⟩
def AGE_REC0_SCALE : Fld := ⟨AGE_REC0, 8, 8⟩
def AGE_REC0_BIN0 : Fld := ⟨AGE_REC0, 16, 8⟩
def AGE_REC0_BIN1 : Fld := ⟨AGE_REC0, 24, 8⟩
/-- AGE.REC1, 15_ageing_and_margins.md R429. -/
def AGE_REC1 : Nat := 0x40050044
def AGE_REC1_BIN2_5 : Fld := ⟨AGE_REC1, 0, 32⟩
/-- AGE.REC2, 15_ageing_and_margins.md R429. -/
def AGE_REC2 : Nat := 0x40050048
def AGE_REC2_WORST : Fld := ⟨AGE_REC2, 0, 16⟩
/-- AGE.REC_CTL, 15_ageing_and_margins.md R429. -/
def AGE_REC_CTL : Nat := 0x4005004c
def AGE_REC_CTL_COMMIT : Fld := ⟨AGE_REC_CTL, 0, 1⟩
def AGE_REC_CTL_WRAP : Fld := ⟨AGE_REC_CTL, 1, 1⟩
/-- AGE.REC_STAT, 15_ageing_and_margins.md R429. -/
def AGE_REC_STAT : Nat := 0x40050050
def AGE_REC_STAT_PEND : Fld := ⟨AGE_REC_STAT, 0, 1⟩
def AGE_REC_STAT_COLL : Fld := ⟨AGE_REC_STAT, 1, 1⟩
def AGE_REC_STAT_FULL : Fld := ⟨AGE_REC_STAT, 2, 1⟩
/-- AGE.REC_HEAD, 15_ageing_and_margins.md R429. -/
def AGE_REC_HEAD : Nat := 0x40050054
def AGE_REC_HEAD_HEAD : Fld := ⟨AGE_REC_HEAD, 0, 18⟩
/-- AGE.SHADOW, 15_ageing_and_margins.md R429. -/
def AGE_SHADOW (j : Nat) : Nat := 0x40050100 + 0x4 * j
def AGE_SHADOW_WORD (j : Nat) : Fld := ⟨AGE_SHADOW j, 0, 32⟩
/-- AGE.ACTIVE, 15_ageing_and_margins.md R429. -/
def AGE_ACTIVE (j : Nat) : Nat := 0x40050200 + 0x4 * j
def AGE_ACTIVE_WORD (j : Nat) : Fld := ⟨AGE_ACTIVE j, 0, 32⟩
/-- AGE.ENV_MINMAX, 15_ageing_and_margins.md R429. -/
def AGE_ENV_MINMAX (j : Nat) : Nat := 0x40050400 + 0x8 * j
def AGE_ENV_MINMAX_MIN (j : Nat) : Fld := ⟨AGE_ENV_MINMAX j, 0, 16⟩
def AGE_ENV_MINMAX_MAX (j : Nat) : Fld := ⟨AGE_ENV_MINMAX j, 16, 16⟩
/-- AGE.ENV_STEP, 15_ageing_and_margins.md R429. -/
def AGE_ENV_STEP (j : Nat) : Nat := 0x40050404 + 0x8 * j
def AGE_ENV_STEP_MAXSTEP (j : Nat) : Fld := ⟨AGE_ENV_STEP j, 0, 16⟩
/-- AGE.RO, 15_ageing_and_margins.md R429. -/
def AGE_RO (j : Nat) : Nat := 0x40050600 + 0x4 * j
def AGE_RO_COUNT (j : Nat) : Fld := ⟨AGE_RO j, 0, 24⟩
/-- AGE.SRM, 15_ageing_and_margins.md R429. -/
def AGE_SRM (j : Nat) : Nat := 0x40050700 + 0x4 * j
def AGE_SRM_MARGIN (j : Nat) : Fld := ⟨AGE_SRM j, 0, 6⟩
def AGE_SRM_VALID (j : Nat) : Fld := ⟨AGE_SRM j, 6, 1⟩

/-- SEC.STAT, 16_security.md R446. -/
def SEC_STAT : Nat := 0x40060000
def SEC_STAT_VIOL : Fld := ⟨SEC_STAT, 0, 7⟩
def SEC_STAT_LOCKED : Fld := ⟨SEC_STAT, 8, 1⟩
def SEC_STAT_ERASED : Fld := ⟨SEC_STAT, 9, 1⟩
def SEC_STAT_DBG_OPEN : Fld := ⟨SEC_STAT, 10, 1⟩
/-- SEC.POLICY, 16_security.md R446. -/
def SEC_POLICY : Nat := 0x40060004
def SEC_POLICY_POL (i : Nat) : Fld := ⟨SEC_POLICY, 2 * i + 0, 2⟩
def SEC_POLICY_LOCK : Fld := ⟨SEC_POLICY, 31, 1⟩
/-- SEC.FUSE, 16_security.md R446. -/
def SEC_FUSE : Nat := 0x40060008
def SEC_FUSE_ROOT : Fld := ⟨SEC_FUSE, 0, 4⟩
def SEC_FUSE_REVOKED : Fld := ⟨SEC_FUSE, 4, 4⟩
def SEC_FUSE_FLOOR : Fld := ⟨SEC_FUSE, 8, 6⟩
def SEC_FUSE_DBG_KEY : Fld := ⟨SEC_FUSE, 14, 1⟩
/-- SEC.BOOT, 16_security.md R446. -/
def SEC_BOOT : Nat := 0x4006000c
def SEC_BOOT_SLOT : Fld := ⟨SEC_BOOT, 0, 2⟩
def SEC_BOOT_VERSION : Fld := ⟨SEC_BOOT, 8, 8⟩
/-- SEC.ROLLBACK, 16_security.md R446. -/
def SEC_ROLLBACK : Nat := 0x40060010
def SEC_ROLLBACK_BURN : Fld := ⟨SEC_ROLLBACK, 0, 1⟩
/-- SEC.REVOKE, 16_security.md R446. -/
def SEC_REVOKE : Nat := 0x40060014
def SEC_REVOKE_SLOT : Fld := ⟨SEC_REVOKE, 0, 2⟩
def SEC_REVOKE_GO : Fld := ⟨SEC_REVOKE, 31, 1⟩
/-- SEC.FUSE_STAT, 16_security.md R446. -/
def SEC_FUSE_STAT : Nat := 0x40060018
def SEC_FUSE_STAT_BUSY : Fld := ⟨SEC_FUSE_STAT, 0, 1⟩
def SEC_FUSE_STAT_BURN_ERR : Fld := ⟨SEC_FUSE_STAT, 1, 1⟩
/-- SEC.VAULT_CTL, 16_security.md R446. -/
def SEC_VAULT_CTL : Nat := 0x40060020
def SEC_VAULT_CTL_CMD : Fld := ⟨SEC_VAULT_CTL, 0, 3⟩
def SEC_VAULT_CTL_SLOT : Fld := ⟨SEC_VAULT_CTL, 8, 4⟩
/-- SEC.VAULT_STAT, 16_security.md R446. -/
def SEC_VAULT_STAT : Nat := 0x40060024
def SEC_VAULT_STAT_PUF : Fld := ⟨SEC_VAULT_STAT, 0, 2⟩
def SEC_VAULT_STAT_BUSY : Fld := ⟨SEC_VAULT_STAT, 2, 1⟩
def SEC_VAULT_STAT_DONE : Fld := ⟨SEC_VAULT_STAT, 3, 1⟩
def SEC_VAULT_STAT_REFUSED : Fld := ⟨SEC_VAULT_STAT, 4, 1⟩
def SEC_VAULT_STAT_ID : Fld := ⟨SEC_VAULT_STAT, 5, 1⟩
def SEC_VAULT_STAT_SLOTS : Fld := ⟨SEC_VAULT_STAT, 16, 16⟩
/-- SEC.DBG, 16_security.md R446. -/
def SEC_DBG : Nat := 0x40060028
def SEC_DBG_FAILS : Fld := ⟨SEC_DBG, 0, 2⟩
/-- SEC.KEY_IN, 16_security.md R446. -/
def SEC_KEY_IN (j : Nat) : Nat := 0x40060040 + 0x4 * j
def SEC_KEY_IN_WORD (j : Nat) : Fld := ⟨SEC_KEY_IN j, 0, 32⟩
/-- SEC.DIGEST, 16_security.md R446. -/
def SEC_DIGEST (j : Nat) : Nat := 0x40060060 + 0x4 * j
def SEC_DIGEST_WORD (j : Nat) : Fld := ⟨SEC_DIGEST j, 0, 32⟩
/-- SEC.SIG, 16_security.md R446. -/
def SEC_SIG (j : Nat) : Nat := 0x40060100 + 0x4 * j
def SEC_SIG_WORD (j : Nat) : Fld := ⟨SEC_SIG j, 0, 32⟩
/-- SEC.ID_PUB, 16_security.md R446. -/
def SEC_ID_PUB (j : Nat) : Nat := 0x40060200 + 0x4 * j
def SEC_ID_PUB_WORD (j : Nat) : Fld := ⟨SEC_ID_PUB j, 0, 32⟩

/-- THM.REQ, 10_analogue_and_thermal.md R304. -/
def THM_REQ : Nat := 0x40070000
def THM_REQ_SENS : Fld := ⟨THM_REQ, 0, 12⟩
/-- THM.STAT, 10_analogue_and_thermal.md R304. -/
def THM_STAT : Nat := 0x40070004
def THM_STAT_BROKEN : Fld := ⟨THM_STAT, 0, 12⟩
def THM_STAT_VOTE : Fld := ⟨THM_STAT, 12, 4⟩
def THM_STAT_SD : Fld := ⟨THM_STAT, 16, 1⟩
/-- THM.HOT, 10_analogue_and_thermal.md R304. -/
def THM_HOT : Nat := 0x40070008
def THM_HOT_HOT : Fld := ⟨THM_HOT, 0, 12⟩
/-- THM.CNT, 10_analogue_and_thermal.md R304. -/
def THM_CNT : Nat := 0x4007000c
def THM_CNT_SHUTDOWNS : Fld := ⟨THM_CNT, 0, 16⟩
def THM_CNT_BROKEN_EV : Fld := ⟨THM_CNT, 16, 16⟩
/-- THM.RES, 10_analogue_and_thermal.md R304. -/
def THM_RES (j : Nat) : Nat := 0x40070010 + 0x4 * j
def THM_RES_RESULT (j : Nat) : Fld := ⟨THM_RES j, 0, 32⟩

/-- PWR.STAT, 17_reset_power_boot.md R473. -/
def PWR_STAT : Nat := 0x40080000
def PWR_STAT_WARN : Fld := ⟨PWR_STAT, 0, 10⟩
def PWR_STAT_SUSP : Fld := ⟨PWR_STAT, 10, 1⟩
/-- PWR.SEEN, 17_reset_power_boot.md R473. -/
def PWR_SEEN : Nat := 0x40080004
def PWR_SEEN_WARN : Fld := ⟨PWR_SEEN, 0, 10⟩
/-- PWR.DIP, 17_reset_power_boot.md R473. -/
def PWR_DIP (j : Nat) : Nat := 0x40080010 + 0x4 * j
def PWR_DIP_COUNT (j : Nat) : Fld := ⟨PWR_DIP j, 0, 16⟩

/-- NVC.CFG, 17_reset_power_boot.md R473. -/
def NVC_CFG : Nat := 0x40090000
def NVC_CFG_SCRUB_EN : Fld := ⟨NVC_CFG, 0, 1⟩
def NVC_CFG_PASS : Fld := ⟨NVC_CFG, 8, 8⟩
/-- NVC.STAT, 17_reset_power_boot.md R473. -/
def NVC_STAT : Nat := 0x40090004
def NVC_STAT_PULSE : Fld := ⟨NVC_STAT, 0, 1⟩
def NVC_STAT_SUSP : Fld := ⟨NVC_STAT, 1, 1⟩
def NVC_STAT_WBUF : Fld := ⟨NVC_STAT, 2, 5⟩
/-- NVC.CE, 17_reset_power_boot.md R473. -/
def NVC_CE : Nat := 0x40090008
def NVC_CE_COUNT : Fld := ⟨NVC_CE, 0, 32⟩
/-- NVC.UE, 17_reset_power_boot.md R473. -/
def NVC_UE : Nat := 0x4009000c
def NVC_UE_COUNT : Fld := ⟨NVC_UE, 0, 16⟩
/-- NVC.UE_ADDR, 17_reset_power_boot.md R473. -/
def NVC_UE_ADDR : Nat := 0x40090010
def NVC_UE_ADDR_ADDR : Fld := ⟨NVC_UE_ADDR, 3, 19⟩
def NVC_UE_ADDR_VALID : Fld := ⟨NVC_UE_ADDR, 31, 1⟩
/-- NVC.SCRUB, 17_reset_power_boot.md R473. -/
def NVC_SCRUB : Nat := 0x40090014
def NVC_SCRUB_NEXT : Fld := ⟨NVC_SCRUB, 0, 19⟩
/-- NVC.PASSES, 17_reset_power_boot.md R473. -/
def NVC_PASSES : Nat := 0x40090018
def NVC_PASSES_COUNT : Fld := ⟨NVC_PASSES, 0, 32⟩
/-- NVC.REC_BAD, 17_reset_power_boot.md R473. -/
def NVC_REC_BAD : Nat := 0x4009001c
def NVC_REC_BAD_COUNT : Fld := ⟨NVC_REC_BAD, 0, 16⟩

/-- LANE.CTL, 03_cell_lanes.md R83. -/
def LANE_CTL (n : Nat) : Nat := 0x40100000 + 0x1000 * n
def LANE_CTL_EN (n : Nat) : Fld := ⟨LANE_CTL n, 0, 1⟩
def LANE_CTL_REARM (n : Nat) : Fld := ⟨LANE_CTL n, 1, 1⟩
def LANE_CTL_SOLO (n : Nat) : Fld := ⟨LANE_CTL n, 2, 1⟩
def LANE_CTL_JOIN (n : Nat) : Fld := ⟨LANE_CTL n, 3, 1⟩
def LANE_CTL_TXCOMMA (n : Nat) : Fld := ⟨LANE_CTL n, 4, 1⟩
/-- LANE.STAT, 03_cell_lanes.md R83. -/
def LANE_STAT (n : Nat) : Nat := 0x40100004 + 0x1000 * n
def LANE_STAT_STATE (n : Nat) : Fld := ⟨LANE_STAT n, 0, 4⟩
def LANE_STAT_ATTEMPT (n : Nat) : Fld := ⟨LANE_STAT n, 4, 3⟩
def LANE_STAT_TX_MODE (n : Nat) : Fld := ⟨LANE_STAT n, 8, 2⟩
def LANE_STAT_CDR_LOCK (n : Nat) : Fld := ⟨LANE_STAT n, 10, 1⟩
def LANE_STAT_BLK_LOCK (n : Nat) : Fld := ⟨LANE_STAT n, 11, 1⟩
def LANE_STAT_LOS (n : Nat) : Fld := ⟨LANE_STAT n, 12, 1⟩
def LANE_STAT_HOP_LIM (n : Nat) : Fld := ⟨LANE_STAT n, 13, 1⟩
def LANE_STAT_REARM_DUE (n : Nat) : Fld := ⟨LANE_STAT n, 14, 1⟩
def LANE_STAT_HOPS (n : Nat) : Fld := ⟨LANE_STAT n, 16, 8⟩
def LANE_STAT_CTLE_ACT (n : Nat) : Fld := ⟨LANE_STAT n, 24, 2⟩
/-- LANE.PARTNER, 03_cell_lanes.md R83. -/
def LANE_PARTNER (n : Nat) : Nat := 0x40100008 + 0x1000 * n
def LANE_PARTNER_DEVID (n : Nat) : Fld := ⟨LANE_PARTNER n, 0, 16⟩
def LANE_PARTNER_LANE (n : Nat) : Fld := ⟨LANE_PARTNER n, 16, 5⟩
def LANE_PARTNER_TOPO (n : Nat) : Fld := ⟨LANE_PARTNER n, 24, 2⟩
def LANE_PARTNER_CHECK (n : Nat) : Fld := ⟨LANE_PARTNER n, 31, 1⟩
/-- LANE.TXEQ, 03_cell_lanes.md R83. -/
def LANE_TXEQ (n : Nat) : Nat := 0x4010000c + 0x1000 * n
def LANE_TXEQ_PRE (n : Nat) : Fld := ⟨LANE_TXEQ n, 0, 6⟩
def LANE_TXEQ_MAIN (n : Nat) : Fld := ⟨LANE_TXEQ n, 8, 7⟩
def LANE_TXEQ_POST (n : Nat) : Fld := ⟨LANE_TXEQ n, 16, 6⟩
def LANE_TXEQ_SWING (n : Nat) : Fld := ⟨LANE_TXEQ n, 24, 2⟩
/-- LANE.RXCFG, 03_cell_lanes.md R83. -/
def LANE_RXCFG (n : Nat) : Nat := 0x40100010 + 0x1000 * n
def LANE_RXCFG_CTLE (n : Nat) : Fld := ⟨LANE_RXCFG n, 0, 2⟩
/-- LANE.SLIP, 03_cell_lanes.md R83. -/
def LANE_SLIP (n : Nat) : Nat := 0x40100014 + 0x1000 * n
def LANE_SLIP_SLIP (n : Nat) : Fld := ⟨LANE_SLIP n, 0, 1⟩
/-- LANE.SLIP_STAT, 03_cell_lanes.md R83. -/
def LANE_SLIP_STAT (n : Nat) : Nat := 0x40100018 + 0x1000 * n
def LANE_SLIP_STAT_WIN_DONE (n : Nat) : Fld := ⟨LANE_SLIP_STAT n, 0, 1⟩
def LANE_SLIP_STAT_GOOD (n : Nat) : Fld := ⟨LANE_SLIP_STAT n, 1, 1⟩
def LANE_SLIP_STAT_EARLY (n : Nat) : Fld := ⟨LANE_SLIP_STAT n, 2, 1⟩
def LANE_SLIP_STAT_SLIPS (n : Nat) : Fld := ⟨LANE_SLIP_STAT n, 4, 7⟩
def LANE_SLIP_STAT_BAD (n : Nat) : Fld := ⟨LANE_SLIP_STAT n, 16, 7⟩
/-- LANE.TMO, 03_cell_lanes.md R83. -/
def LANE_TMO (n : Nat) : Nat := 0x4010001c + 0x1000 * n
def LANE_TMO_REARM_INT (n : Nat) : Fld := ⟨LANE_TMO n, 0, 16⟩
def LANE_TMO_SLIP_TMO (n : Nat) : Fld := ⟨LANE_TMO n, 16, 8⟩
/-- LANE.LOCKCNT, 03_cell_lanes.md R83. -/
def LANE_LOCKCNT (n : Nat) : Nat := 0x40100020 + 0x1000 * n
def LANE_LOCKCNT_LOSSES (n : Nat) : Fld := ⟨LANE_LOCKCNT n, 0, 16⟩
def LANE_LOCKCNT_RECOVERS (n : Nat) : Fld := ⟨LANE_LOCKCNT n, 16, 16⟩
/-- LANE.ERRCNT, 03_cell_lanes.md R83. -/
def LANE_ERRCNT (n : Nat) : Nat := 0x40100024 + 0x1000 * n
def LANE_ERRCNT_SET_ERR (n : Nat) : Fld := ⟨LANE_ERRCNT n, 0, 8⟩
def LANE_ERRCNT_ID_ERR (n : Nat) : Fld := ⟨LANE_ERRCNT n, 8, 8⟩
def LANE_ERRCNT_TXQ_UNDER (n : Nat) : Fld := ⟨LANE_ERRCNT n, 16, 8⟩
def LANE_ERRCNT_RXQ_OVER (n : Nat) : Fld := ⟨LANE_ERRCNT n, 24, 8⟩
/-- LANE.HDR_ERR, 03_cell_lanes.md R83. -/
def LANE_HDR_ERR (n : Nat) : Nat := 0x40100028 + 0x1000 * n
def LANE_HDR_ERR_COUNT (n : Nat) : Fld := ⟨LANE_HDR_ERR n, 0, 32⟩
/-- LANE.ES_CTL, 03_cell_lanes.md R83. -/
def LANE_ES_CTL (n : Nat) : Nat := 0x40100030 + 0x1000 * n
def LANE_ES_CTL_HOFF (n : Nat) : Fld := ⟨LANE_ES_CTL n, 0, 7⟩
def LANE_ES_CTL_VOFF (n : Nat) : Fld := ⟨LANE_ES_CTL n, 8, 8⟩
def LANE_ES_CTL_DWELL (n : Nat) : Fld := ⟨LANE_ES_CTL n, 16, 5⟩
def LANE_ES_CTL_START (n : Nat) : Fld := ⟨LANE_ES_CTL n, 24, 1⟩
/-- LANE.ES_STAT, 03_cell_lanes.md R83. -/
def LANE_ES_STAT (n : Nat) : Nat := 0x40100034 + 0x1000 * n
def LANE_ES_STAT_BUSY (n : Nat) : Fld := ⟨LANE_ES_STAT n, 0, 1⟩
def LANE_ES_STAT_DONE (n : Nat) : Fld := ⟨LANE_ES_STAT n, 1, 1⟩
def LANE_ES_STAT_ABORTED (n : Nat) : Fld := ⟨LANE_ES_STAT n, 2, 1⟩
def LANE_ES_STAT_COLL (n : Nat) : Fld := ⟨LANE_ES_STAT n, 3, 1⟩
/-- LANE.ES_ERR, 03_cell_lanes.md R83. -/
def LANE_ES_ERR (n : Nat) : Nat := 0x40100038 + 0x1000 * n
def LANE_ES_ERR_ERR (n : Nat) : Fld := ⟨LANE_ES_ERR n, 0, 32⟩
/-- LANE.ES_BITS, 03_cell_lanes.md R83. -/
def LANE_ES_BITS (n : Nat) : Nat := 0x4010003c + 0x1000 * n
def LANE_ES_BITS_KBITS (n : Nat) : Fld := ⟨LANE_ES_BITS n, 0, 32⟩

/-- CHAIN.CFG, 04_cell_link_protocol.md R114. -/
def CHAIN_CFG (n : Nat) : Nat := 0x40200000 + 0x1000 * n
def CHAIN_CFG_TOPO (n : Nat) : Fld := ⟨CHAIN_CFG n, 0, 2⟩
def CHAIN_CFG_SIDE (n : Nat) : Fld := ⟨CHAIN_CFG n, 2, 1⟩
def CHAIN_CFG_LOSS_FR (n : Nat) : Fld := ⟨CHAIN_CFG n, 8, 8⟩
def CHAIN_CFG_EN (n : Nat) : Fld := ⟨CHAIN_CFG n, 31, 1⟩
/-- CHAIN.CTL, 04_cell_link_protocol.md R114. -/
def CHAIN_CTL (n : Nat) : Nat := 0x40200004 + 0x1000 * n
def CHAIN_CTL_RELINK (n : Nat) : Fld := ⟨CHAIN_CTL n, 0, 1⟩
/-- CHAIN.STAT, 04_cell_link_protocol.md R114. -/
def CHAIN_STAT (n : Nat) : Nat := 0x40200008 + 0x1000 * n
def CHAIN_STAT_STATE (n : Nat) : Fld := ⟨CHAIN_STAT n, 0, 3⟩
def CHAIN_STAT_HOPS (n : Nat) : Fld := ⟨CHAIN_STAT n, 4, 4⟩
def CHAIN_STAT_LIVE0 (n : Nat) : Fld := ⟨CHAIN_STAT n, 8, 1⟩
def CHAIN_STAT_LIVE1 (n : Nat) : Fld := ⟨CHAIN_STAT n, 9, 1⟩
def CHAIN_STAT_LINKGEN (n : Nat) : Fld := ⟨CHAIN_STAT n, 16, 16⟩
/-- CHAIN.TRING, 04_cell_link_protocol.md R114. -/
def CHAIN_TRING (n : Nat) : Nat := 0x4020000c + 0x1000 * n
def CHAIN_TRING_TRING (n : Nat) : Fld := ⟨CHAIN_TRING n, 0, 24⟩
def CHAIN_TRING_VALID (n : Nat) : Fld := ⟨CHAIN_TRING n, 31, 1⟩
/-- CHAIN.DLY, 04_cell_link_protocol.md R114. -/
def CHAIN_DLY (n : Nat) : Nat := 0x40200010 + 0x1000 * n
def CHAIN_DLY_TRX_OUT (n : Nat) : Fld := ⟨CHAIN_DLY n, 0, 8⟩
def CHAIN_DLY_TRX_IN (n : Nat) : Fld := ⟨CHAIN_DLY n, 8, 8⟩
def CHAIN_DLY_RETLEN (n : Nat) : Fld := ⟨CHAIN_DLY n, 16, 16⟩
/-- CHAIN.ERR, 04_cell_link_protocol.md R114. -/
def CHAIN_ERR (n : Nat) : Nat := 0x40200014 + 0x1000 * n
def CHAIN_ERR_HDR_ERR (n : Nat) : Fld := ⟨CHAIN_ERR n, 0, 16⟩
def CHAIN_ERR_SEC_ERR (n : Nat) : Fld := ⟨CHAIN_ERR n, 16, 16⟩
/-- CHAIN.AUDIT, 04_cell_link_protocol.md R114. -/
def CHAIN_AUDIT (n : Nat) : Nat := 0x40200018 + 0x1000 * n
def CHAIN_AUDIT_MISMATCH (n : Nat) : Fld := ⟨CHAIN_AUDIT n, 0, 16⟩
def CHAIN_AUDIT_SKIPPED (n : Nat) : Fld := ⟨CHAIN_AUDIT n, 16, 16⟩
/-- CHAIN.MISS, 04_cell_link_protocol.md R114. -/
def CHAIN_MISS (n : Nat) : Nat := 0x4020001c + 0x1000 * n
def CHAIN_MISS_MISS0 (n : Nat) : Fld := ⟨CHAIN_MISS n, 0, 8⟩
def CHAIN_MISS_MISS1 (n : Nat) : Fld := ⟨CHAIN_MISS n, 8, 8⟩

/-- CELLCTL.CFG, 04_cell_link_protocol.md R115. -/
def CELLCTL_CFG (n : Nat) : Nat := 0x40280000 + 0x100 * n
def CELLCTL_CFG_EN (n : Nat) : Fld := ⟨CELLCTL_CFG n, 0, 1⟩
def CELLCTL_CFG_MODE_REQ (n : Nat) : Fld := ⟨CELLCTL_CFG n, 1, 3⟩
def CELLCTL_CFG_LOSS_MODE (n : Nat) : Fld := ⟨CELLCTL_CFG n, 4, 1⟩
def CELLCTL_CFG_SEG_LEN (n : Nat) : Fld := ⟨CELLCTL_CFG n, 16, 16⟩
/-- CELLCTL.STAT, 04_cell_link_protocol.md R115. -/
def CELLCTL_STAT (n : Nat) : Nat := 0x40280004 + 0x100 * n
def CELLCTL_STAT_MODE_SENT (n : Nat) : Fld := ⟨CELLCTL_STAT n, 0, 3⟩
def CELLCTL_STAT_MODE_RPT (n : Nat) : Fld := ⟨CELLCTL_STAT n, 4, 3⟩
def CELLCTL_STAT_TSYNC (n : Nat) : Fld := ⟨CELLCTL_STAT n, 8, 1⟩
def CELLCTL_STAT_TOKEN_OK (n : Nat) : Fld := ⟨CELLCTL_STAT n, 9, 1⟩
def CELLCTL_STAT_HOLD_AUDIT (n : Nat) : Fld := ⟨CELLCTL_STAT n, 10, 1⟩
def CELLCTL_STAT_LOCKOUT (n : Nat) : Fld := ⟨CELLCTL_STAT n, 11, 1⟩
def CELLCTL_STAT_LOST (n : Nat) : Fld := ⟨CELLCTL_STAT n, 12, 1⟩
/-- CELLCTL.CREDIT, 04_cell_link_protocol.md R115. -/
def CELLCTL_CREDIT (n : Nat) : Nat := 0x40280008 + 0x100 * n
def CELLCTL_CREDIT_CR (n : Nat) : Fld := ⟨CELLCTL_CREDIT n, 0, 5⟩
def CELLCTL_CREDIT_MBCR (n : Nat) : Fld := ⟨CELLCTL_CREDIT n, 8, 3⟩
def CELLCTL_CREDIT_SENT (n : Nat) : Fld := ⟨CELLCTL_CREDIT n, 16, 8⟩
def CELLCTL_CREDIT_EXEC (n : Nat) : Fld := ⟨CELLCTL_CREDIT n, 24, 8⟩
/-- CELLCTL.TCORR0, 04_cell_link_protocol.md R115. -/
def CELLCTL_TCORR0 (n : Nat) : Nat := 0x4028000c + 0x100 * n
def CELLCTL_TCORR0_TCORR (n : Nat) : Fld := ⟨CELLCTL_TCORR0 n, 0, 24⟩
/-- CELLCTL.TCORR1, 04_cell_link_protocol.md R115. -/
def CELLCTL_TCORR1 (n : Nat) : Nat := 0x40280010 + 0x100 * n
def CELLCTL_TCORR1_TCORR (n : Nat) : Fld := ⟨CELLCTL_TCORR1 n, 0, 24⟩
/-- CELLCTL.RESID, 04_cell_link_protocol.md R115. -/
def CELLCTL_RESID (n : Nat) : Nat := 0x40280014 + 0x100 * n
def CELLCTL_RESID_RESID0 (n : Nat) : Fld := ⟨CELLCTL_RESID n, 0, 16⟩
def CELLCTL_RESID_RESID1 (n : Nat) : Fld := ⟨CELLCTL_RESID n, 16, 16⟩
/-- CELLCTL.MB_ADDR, 04_cell_link_protocol.md R115. -/
def CELLCTL_MB_ADDR (n : Nat) : Nat := 0x40280018 + 0x100 * n
def CELLCTL_MB_ADDR_ADDR (n : Nat) : Fld := ⟨CELLCTL_MB_ADDR n, 0, 16⟩
def CELLCTL_MB_ADDR_TAG (n : Nat) : Fld := ⟨CELLCTL_MB_ADDR n, 16, 8⟩
/-- CELLCTL.MB_DATA, 04_cell_link_protocol.md R115. -/
def CELLCTL_MB_DATA (n : Nat) : Nat := 0x4028001c + 0x100 * n
def CELLCTL_MB_DATA_DATA (n : Nat) : Fld := ⟨CELLCTL_MB_DATA n, 0, 32⟩
/-- CELLCTL.MB_APPLY, 04_cell_link_protocol.md R115. -/
def CELLCTL_MB_APPLY (n : Nat) : Nat := 0x40280020 + 0x100 * n
def CELLCTL_MB_APPLY_FRAME (n : Nat) : Fld := ⟨CELLCTL_MB_APPLY n, 0, 32⟩
/-- CELLCTL.MB_CTL, 04_cell_link_protocol.md R115. -/
def CELLCTL_MB_CTL (n : Nat) : Nat := 0x40280024 + 0x100 * n
def CELLCTL_MB_CTL_GO (n : Nat) : Fld := ⟨CELLCTL_MB_CTL n, 0, 1⟩
def CELLCTL_MB_CTL_PEND (n : Nat) : Fld := ⟨CELLCTL_MB_CTL n, 1, 1⟩
def CELLCTL_MB_CTL_COLL (n : Nat) : Fld := ⟨CELLCTL_MB_CTL n, 2, 1⟩
/-- CELLCTL.MB_ACK, 04_cell_link_protocol.md R115. -/
def CELLCTL_MB_ACK (n : Nat) : Nat := 0x40280028 + 0x100 * n
def CELLCTL_MB_ACK_TAG (n : Nat) : Fld := ⟨CELLCTL_MB_ACK n, 0, 8⟩
def CELLCTL_MB_ACK_STAT (n : Nat) : Fld := ⟨CELLCTL_MB_ACK n, 8, 3⟩
def CELLCTL_MB_ACK_ACK_CNT (n : Nat) : Fld := ⟨CELLCTL_MB_ACK n, 16, 16⟩
/-- CELLCTL.MB_RDATA, 04_cell_link_protocol.md R115. -/
def CELLCTL_MB_RDATA (n : Nat) : Nat := 0x4028002c + 0x100 * n
def CELLCTL_MB_RDATA_RDATA (n : Nat) : Fld := ⟨CELLCTL_MB_RDATA n, 0, 32⟩

/-- MOD.CFG, 06_modulation_and_pwm.md R178. -/
def MOD_CFG : Nat := 0x40300000
def MOD_CFG_EN : Fld := ⟨MOD_CFG, 0, 1⟩
def MOD_CFG_GUARD : Fld := ⟨MOD_CFG, 8, 8⟩
/-- MOD.ANCHOR, 06_modulation_and_pwm.md R178. -/
def MOD_ANCHOR : Nat := 0x40300004
def MOD_ANCHOR_FRAME : Fld := ⟨MOD_ANCHOR, 0, 32⟩
/-- MOD.COMMIT, 06_modulation_and_pwm.md R178. -/
def MOD_COMMIT : Nat := 0x40300008
def MOD_COMMIT_GROUPS : Fld := ⟨MOD_COMMIT, 0, 32⟩
/-- MOD.BOOT0, 06_modulation_and_pwm.md R178. -/
def MOD_BOOT0 : Nat := 0x4030000c
def MOD_BOOT0_BUDGET : Fld := ⟨MOD_BOOT0, 0, 16⟩
def MOD_BOOT0_THRESH : Fld := ⟨MOD_BOOT0, 16, 16⟩
/-- MOD.BOOT1, 06_modulation_and_pwm.md R178. -/
def MOD_BOOT1 : Nat := 0x40300010
def MOD_BOOT1_TREF : Fld := ⟨MOD_BOOT1, 0, 8⟩
def MOD_BOOT1_SUBST_EN : Fld := ⟨MOD_BOOT1, 8, 1⟩
def MOD_BOOT1_COMP_EN : Fld := ⟨MOD_BOOT1, 9, 1⟩
/-- MOD.HALT, 06_modulation_and_pwm.md R178. -/
def MOD_HALT : Nat := 0x40300014
def MOD_HALT_ENG : Fld := ⟨MOD_HALT, 0, 16⟩
/-- MOD.CNT, 06_modulation_and_pwm.md R178. -/
def MOD_CNT : Nat := 0x40300018
def MOD_CNT_CAPTURES : Fld := ⟨MOD_CNT, 0, 16⟩
def MOD_CNT_PAIR_REF : Fld := ⟨MOD_CNT, 16, 16⟩
/-- MOD.AUX, 06_modulation_and_pwm.md R178. -/
def MOD_AUX : Nat := 0x40300020
def MOD_AUX_CELL : Fld := ⟨MOD_AUX, 0, 8⟩
def MOD_AUX_LEG : Fld := ⟨MOD_AUX, 8, 3⟩
def MOD_AUX_STATE : Fld := ⟨MOD_AUX, 11, 2⟩
def MOD_AUX_PEND : Fld := ⟨MOD_AUX, 30, 1⟩
def MOD_AUX_GO : Fld := ⟨MOD_AUX, 31, 1⟩
/-- MOD.AUX_T, 06_modulation_and_pwm.md R178. -/
def MOD_AUX_T : Nat := 0x40300024
def MOD_AUX_T_OFFSET : Fld := ⟨MOD_AUX_T, 0, 24⟩
/-- MOD.AUX_F, 06_modulation_and_pwm.md R178. -/
def MOD_AUX_F : Nat := 0x40300028
def MOD_AUX_F_FRAME : Fld := ⟨MOD_AUX_F, 0, 32⟩
/-- MOD.CELLSTR, 06_modulation_and_pwm.md R178. -/
def MOD_CELLSTR (j : Nat) : Nat := 0x40300200 + 0x4 * j
def MOD_CELLSTR_STR (j i : Nat) : Fld := ⟨MOD_CELLSTR j, 4 * i + 0, 3⟩
def MOD_CELLSTR_MEMBER (j i : Nat) : Fld := ⟨MOD_CELLSTR j, 4 * i + 3, 1⟩

/-- MOD_STR.CFG, 06_modulation_and_pwm.md R178. -/
def MOD_STR_CFG (n : Nat) : Nat := 0x40300100 + 0x20 * n
def MOD_STR_CFG_GROUP (n : Nat) : Fld := ⟨MOD_STR_CFG n, 0, 5⟩
def MOD_STR_CFG_AUTO (n : Nat) : Fld := ⟨MOD_STR_CFG n, 8, 1⟩
/-- MOD_STR.PERIOD, 06_modulation_and_pwm.md R178. -/
def MOD_STR_PERIOD (n : Nat) : Nat := 0x40300104 + 0x20 * n
def MOD_STR_PERIOD_PERIOD (n : Nat) : Fld := ⟨MOD_STR_PERIOD n, 0, 20⟩
/-- MOD_STR.BASE, 06_modulation_and_pwm.md R178. -/
def MOD_STR_BASE (n : Nat) : Nat := 0x40300108 + 0x20 * n
def MOD_STR_BASE_BASE (n : Nat) : Fld := ⟨MOD_STR_BASE n, 0, 24⟩
/-- MOD_STR.STAT, 06_modulation_and_pwm.md R178. -/
def MOD_STR_STAT (n : Nat) : Nat := 0x4030010c + 0x20 * n
def MOD_STR_STAT_NACT (n : Nat) : Fld := ⟨MOD_STR_STAT n, 0, 8⟩
def MOD_STR_STAT_NMEM (n : Nat) : Fld := ⟨MOD_STR_STAT n, 8, 8⟩
/-- MOD_STR.CNT, 06_modulation_and_pwm.md R178. -/
def MOD_STR_CNT (n : Nat) : Nat := 0x40300110 + 0x20 * n
def MOD_STR_CNT_NOTCH (n : Nat) : Fld := ⟨MOD_STR_CNT n, 0, 16⟩
def MOD_STR_CNT_UNCOMP (n : Nat) : Fld := ⟨MOD_STR_CNT n, 16, 16⟩

/-- MODCH.CTL, 06_modulation_and_pwm.md R179. -/
def MODCH_CTL (n : Nat) : Nat := 0x40310000 + 0x40 * n
def MODCH_CTL_MODE (n : Nat) : Fld := ⟨MODCH_CTL n, 0, 2⟩
def MODCH_CTL_PAIRCHK (n : Nat) : Fld := ⟨MODCH_CTL n, 2, 1⟩
def MODCH_CTL_GROUP (n : Nat) : Fld := ⟨MODCH_CTL n, 4, 5⟩
def MODCH_CTL_OWNER (n : Nat) : Fld := ⟨MODCH_CTL n, 12, 4⟩
def MODCH_CTL_OWN_EN (n : Nat) : Fld := ⟨MODCH_CTL n, 16, 1⟩
/-- MODCH.PERIOD, 06_modulation_and_pwm.md R179. -/
def MODCH_PERIOD (n : Nat) : Nat := 0x40310004 + 0x40 * n
def MODCH_PERIOD_VAL (n : Nat) : Fld := ⟨MODCH_PERIOD n, 0, 20⟩
/-- MODCH.ONC, 06_modulation_and_pwm.md R179. -/
def MODCH_ONC (n : Nat) : Nat := 0x40310008 + 0x40 * n
def MODCH_ONC_VAL (n : Nat) : Fld := ⟨MODCH_ONC n, 0, 24⟩
/-- MODCH.OFFC, 06_modulation_and_pwm.md R179. -/
def MODCH_OFFC (n : Nat) : Nat := 0x4031000c + 0x40 * n
def MODCH_OFFC_VAL (n : Nat) : Fld := ⟨MODCH_OFFC n, 0, 24⟩
/-- MODCH.PHASE, 06_modulation_and_pwm.md R179. -/
def MODCH_PHASE (n : Nat) : Nat := 0x40310010 + 0x40 * n
def MODCH_PHASE_VAL (n : Nat) : Fld := ⟨MODCH_PHASE n, 0, 24⟩
/-- MODCH.PERIOD_S, 06_modulation_and_pwm.md R179. -/
def MODCH_PERIOD_S (n : Nat) : Nat := 0x40310014 + 0x40 * n
def MODCH_PERIOD_S_VAL (n : Nat) : Fld := ⟨MODCH_PERIOD_S n, 0, 20⟩
/-- MODCH.ONC_S, 06_modulation_and_pwm.md R179. -/
def MODCH_ONC_S (n : Nat) : Nat := 0x40310018 + 0x40 * n
def MODCH_ONC_S_VAL (n : Nat) : Fld := ⟨MODCH_ONC_S n, 0, 24⟩
/-- MODCH.OFFC_S, 06_modulation_and_pwm.md R179. -/
def MODCH_OFFC_S (n : Nat) : Nat := 0x4031001c + 0x40 * n
def MODCH_OFFC_S_VAL (n : Nat) : Fld := ⟨MODCH_OFFC_S n, 0, 24⟩
/-- MODCH.PHASE_S, 06_modulation_and_pwm.md R179. -/
def MODCH_PHASE_S (n : Nat) : Nat := 0x40310020 + 0x40 * n
def MODCH_PHASE_S_VAL (n : Nat) : Fld := ⟨MODCH_PHASE_S n, 0, 24⟩
/-- MODCH.STAT, 06_modulation_and_pwm.md R179. -/
def MODCH_STAT (n : Nat) : Nat := 0x40310024 + 0x40 * n
def MODCH_STAT_DIRTY (n : Nat) : Fld := ⟨MODCH_STAT n, 0, 4⟩
def MODCH_STAT_PEND (n : Nat) : Fld := ⟨MODCH_STAT n, 4, 1⟩
def MODCH_STAT_PAIR_REF (n : Nat) : Fld := ⟨MODCH_STAT n, 5, 1⟩
def MODCH_STAT_FULL (n : Nat) : Fld := ⟨MODCH_STAT n, 6, 1⟩
def MODCH_STAT_STARVE (n : Nat) : Fld := ⟨MODCH_STAT n, 7, 1⟩
def MODCH_STAT_LEG (n : Nat) : Fld := ⟨MODCH_STAT n, 8, 2⟩
/-- MODCH.BUDGET, 06_modulation_and_pwm.md R179. -/
def MODCH_BUDGET (n : Nat) : Nat := 0x40310028 + 0x40 * n
def MODCH_BUDGET_BUD_A (n : Nat) : Fld := ⟨MODCH_BUDGET n, 0, 16⟩
def MODCH_BUDGET_BUD_B (n : Nat) : Fld := ⟨MODCH_BUDGET n, 16, 16⟩
/-- MODCH.CNT, 06_modulation_and_pwm.md R179. -/
def MODCH_CNT (n : Nat) : Nat := 0x4031002c + 0x40 * n
def MODCH_CNT_NOTCH (n : Nat) : Fld := ⟨MODCH_CNT n, 0, 16⟩
def MODCH_CNT_SUBST (n : Nat) : Fld := ⟨MODCH_CNT n, 16, 16⟩
/-- MODCH.CNT2, 06_modulation_and_pwm.md R179. -/
def MODCH_CNT2 (n : Nat) : Nat := 0x40310030 + 0x40 * n
def MODCH_CNT2_STARVED (n : Nat) : Fld := ⟨MODCH_CNT2 n, 0, 16⟩
def MODCH_CNT2_SUPERSEDE (n : Nat) : Fld := ⟨MODCH_CNT2 n, 16, 16⟩
/-- MODCH.NEXTZ, 06_modulation_and_pwm.md R179. -/
def MODCH_NEXTZ (n : Nat) : Nat := 0x40310034 + 0x40 * n
def MODCH_NEXTZ_NS (n : Nat) : Fld := ⟨MODCH_NEXTZ n, 0, 30⟩

/-- LPWM.CTL, 06_modulation_and_pwm.md R180. -/
def LPWM_CTL (n : Nat) : Nat := 0x40380000 + 0x100 * n
def LPWM_CTL_MODE (n : Nat) : Fld := ⟨LPWM_CTL n, 0, 2⟩
def LPWM_CTL_PAIR (n : Nat) : Fld := ⟨LPWM_CTL n, 2, 1⟩
def LPWM_CTL_POL (n : Nat) : Fld := ⟨LPWM_CTL n, 3, 1⟩
def LPWM_CTL_GROUP (n : Nat) : Fld := ⟨LPWM_CTL n, 4, 5⟩
def LPWM_CTL_OWNER (n : Nat) : Fld := ⟨LPWM_CTL n, 12, 4⟩
def LPWM_CTL_OWN_EN (n : Nat) : Fld := ⟨LPWM_CTL n, 16, 1⟩
def LPWM_CTL_TRIP_EN (n : Nat) : Fld := ⟨LPWM_CTL n, 17, 1⟩
def LPWM_CTL_TRIP_SEL (n : Nat) : Fld := ⟨LPWM_CTL n, 18, 5⟩
def LPWM_CTL_PAIRCHK (n : Nat) : Fld := ⟨LPWM_CTL n, 23, 1⟩
/-- LPWM.DT, 06_modulation_and_pwm.md R180. -/
def LPWM_DT (n : Nat) : Nat := 0x40380024 + 0x100 * n
def LPWM_DT_RISE (n : Nat) : Fld := ⟨LPWM_DT n, 0, 12⟩
def LPWM_DT_FALL (n : Nat) : Fld := ⟨LPWM_DT n, 16, 12⟩
/-- LPWM.STAT, 06_modulation_and_pwm.md R180. -/
def LPWM_STAT (n : Nat) : Nat := 0x40380028 + 0x100 * n
def LPWM_STAT_DIRTY (n : Nat) : Fld := ⟨LPWM_STAT n, 0, 4⟩
def LPWM_STAT_PEND (n : Nat) : Fld := ⟨LPWM_STAT n, 4, 1⟩
def LPWM_STAT_PAIR_REF (n : Nat) : Fld := ⟨LPWM_STAT n, 5, 1⟩
def LPWM_STAT_TRIPPED (n : Nat) : Fld := ⟨LPWM_STAT n, 8, 1⟩
def LPWM_STAT_TRIP_IN (n : Nat) : Fld := ⟨LPWM_STAT n, 9, 1⟩
def LPWM_STAT_CLEAR_REFUSED (n : Nat) : Fld := ⟨LPWM_STAT n, 10, 1⟩
def LPWM_STAT_ARM_PEND (n : Nat) : Fld := ⟨LPWM_STAT n, 11, 1⟩
def LPWM_STAT_HALTED (n : Nat) : Fld := ⟨LPWM_STAT n, 12, 1⟩
def LPWM_STAT_SAFE_LVL (n : Nat) : Fld := ⟨LPWM_STAT n, 13, 2⟩
def LPWM_STAT_PIN (n : Nat) : Fld := ⟨LPWM_STAT n, 15, 1⟩
/-- LPWM.TRIP_CTL, 06_modulation_and_pwm.md R180. -/
def LPWM_TRIP_CTL (n : Nat) : Nat := 0x4038002c + 0x100 * n
def LPWM_TRIP_CTL_REARM (n : Nat) : Fld := ⟨LPWM_TRIP_CTL n, 0, 1⟩
/-- LPWM.CNT, 06_modulation_and_pwm.md R180. -/
def LPWM_CNT (n : Nat) : Nat := 0x40380030 + 0x100 * n
def LPWM_CNT_TRIPS (n : Nat) : Fld := ⟨LPWM_CNT n, 0, 16⟩
def LPWM_CNT_LATE (n : Nat) : Fld := ⟨LPWM_CNT n, 16, 16⟩
/-- LPWM.PERIOD, 06_modulation_and_pwm.md R180. -/
def LPWM_PERIOD (n : Nat) : Nat := 0x40380004 + 0x100 * n
def LPWM_PERIOD_VAL (n : Nat) : Fld := ⟨LPWM_PERIOD n, 0, 20⟩
/-- LPWM.ONC, 06_modulation_and_pwm.md R180. -/
def LPWM_ONC (n : Nat) : Nat := 0x40380008 + 0x100 * n
def LPWM_ONC_VAL (n : Nat) : Fld := ⟨LPWM_ONC n, 0, 24⟩
/-- LPWM.OFFC, 06_modulation_and_pwm.md R180. -/
def LPWM_OFFC (n : Nat) : Nat := 0x4038000c + 0x100 * n
def LPWM_OFFC_VAL (n : Nat) : Fld := ⟨LPWM_OFFC n, 0, 24⟩
/-- LPWM.PHASE, 06_modulation_and_pwm.md R180. -/
def LPWM_PHASE (n : Nat) : Nat := 0x40380010 + 0x100 * n
def LPWM_PHASE_VAL (n : Nat) : Fld := ⟨LPWM_PHASE n, 0, 24⟩
/-- LPWM.PERIOD_S, 06_modulation_and_pwm.md R180. -/
def LPWM_PERIOD_S (n : Nat) : Nat := 0x40380014 + 0x100 * n
def LPWM_PERIOD_S_VAL (n : Nat) : Fld := ⟨LPWM_PERIOD_S n, 0, 20⟩
/-- LPWM.ONC_S, 06_modulation_and_pwm.md R180. -/
def LPWM_ONC_S (n : Nat) : Nat := 0x40380018 + 0x100 * n
def LPWM_ONC_S_VAL (n : Nat) : Fld := ⟨LPWM_ONC_S n, 0, 24⟩
/-- LPWM.OFFC_S, 06_modulation_and_pwm.md R180. -/
def LPWM_OFFC_S (n : Nat) : Nat := 0x4038001c + 0x100 * n
def LPWM_OFFC_S_VAL (n : Nat) : Fld := ⟨LPWM_OFFC_S n, 0, 24⟩
/-- LPWM.PHASE_S, 06_modulation_and_pwm.md R180. -/
def LPWM_PHASE_S (n : Nat) : Nat := 0x40380020 + 0x100 * n
def LPWM_PHASE_S_VAL (n : Nat) : Fld := ⟨LPWM_PHASE_S n, 0, 24⟩

/-- LOOP.CYC_CFG, 02_control_cycle.md R59. -/
def LOOP_CYC_CFG : Nat := 0x40400000
def LOOP_CYC_CFG_FRAMES : Fld := ⟨LOOP_CYC_CFG, 0, 7⟩
def LOOP_CYC_CFG_EN : Fld := ⟨LOOP_CYC_CFG, 8, 1⟩
/-- LOOP.CYC_START, 02_control_cycle.md R59. -/
def LOOP_CYC_START : Nat := 0x40400004
def LOOP_CYC_START_START_FRAME : Fld := ⟨LOOP_CYC_START, 0, 32⟩
/-- LOOP.CYC_NUM, 02_control_cycle.md R59. -/
def LOOP_CYC_NUM : Nat := 0x40400008
def LOOP_CYC_NUM_CYCLE : Fld := ⟨LOOP_CYC_NUM, 0, 32⟩
/-- LOOP.FRAME_NUM, 02_control_cycle.md R59. -/
def LOOP_FRAME_NUM : Nat := 0x4040000c
def LOOP_FRAME_NUM_FRAME : Fld := ⟨LOOP_FRAME_NUM, 0, 32⟩
/-- LOOP.SNAP_CNT, 02_control_cycle.md R59. -/
def LOOP_SNAP_CNT : Nat := 0x40400010
def LOOP_SNAP_CNT_STRADDLE : Fld := ⟨LOOP_SNAP_CNT, 0, 16⟩

/-- LOOP.CHCYC, 02_control_cycle.md R59. -/
def LOOP_CHCYC (n : Nat) : Nat := 0x40400100 + 0x20 * n
def LOOP_CHCYC_RPT_FRAME (n : Nat) : Fld := ⟨LOOP_CHCYC n, 0, 6⟩
def LOOP_CHCYC_TCONV (n : Nat) : Fld := ⟨LOOP_CHCYC n, 8, 8⟩
def LOOP_CHCYC_MARGIN (n : Nat) : Fld := ⟨LOOP_CHCYC n, 16, 10⟩
def LOOP_CHCYC_AGE_LIM (n : Nat) : Fld := ⟨LOOP_CHCYC n, 28, 3⟩
def LOOP_CHCYC_EN (n : Nat) : Fld := ⟨LOOP_CHCYC n, 31, 1⟩
/-- LOOP.CHFLOOR, 02_control_cycle.md R59. -/
def LOOP_CHFLOOR (n : Nat) : Nat := 0x40400104 + 0x20 * n
def LOOP_CHFLOOR_FLOOR (n : Nat) : Fld := ⟨LOOP_CHFLOOR n, 0, 24⟩
def LOOP_CHFLOOR_VALID (n : Nat) : Fld := ⟨LOOP_CHFLOOR n, 31, 1⟩
/-- LOOP.CHACH, 02_control_cycle.md R59. -/
def LOOP_CHACH (n : Nat) : Nat := 0x40400108 + 0x20 * n
def LOOP_CHACH_ACH (n : Nat) : Fld := ⟨LOOP_CHACH n, 0, 24⟩
def LOOP_CHACH_NFR (n : Nat) : Fld := ⟨LOOP_CHACH n, 24, 4⟩
/-- LOOP.CHCLR, 02_control_cycle.md R59. -/
def LOOP_CHCLR (n : Nat) : Nat := 0x4040010c + 0x20 * n
def LOOP_CHCLR_RATIO (n : Nat) : Fld := ⟨LOOP_CHCLR n, 0, 16⟩
def LOOP_CHCLR_OVER (n : Nat) : Fld := ⟨LOOP_CHCLR n, 16, 1⟩
/-- LOOP.CHCNT, 02_control_cycle.md R59. -/
def LOOP_CHCNT (n : Nat) : Nat := 0x40400110 + 0x20 * n
def LOOP_CHCNT_LATE (n : Nat) : Fld := ⟨LOOP_CHCNT n, 0, 16⟩
def LOOP_CHCNT_MISSED (n : Nat) : Fld := ⟨LOOP_CHCNT n, 16, 16⟩

/-- LOOP.MIGRATE, 07_lupin_engines.md R211. -/
def LOOP_MIGRATE : Nat := 0x40400400
def LOOP_MIGRATE_SRC : Fld := ⟨LOOP_MIGRATE, 0, 4⟩
def LOOP_MIGRATE_DST : Fld := ⟨LOOP_MIGRATE, 4, 4⟩
def LOOP_MIGRATE_GO : Fld := ⟨LOOP_MIGRATE, 8, 1⟩
def LOOP_MIGRATE_PEND : Fld := ⟨LOOP_MIGRATE, 9, 1⟩
def LOOP_MIGRATE_DONE : Fld := ⟨LOOP_MIGRATE, 10, 1⟩
def LOOP_MIGRATE_REFUSED : Fld := ⟨LOOP_MIGRATE, 11, 1⟩
/-- LOOP.MIG_CYCLE, 07_lupin_engines.md R211. -/
def LOOP_MIG_CYCLE : Nat := 0x40400404
def LOOP_MIG_CYCLE_CYCLE : Fld := ⟨LOOP_MIG_CYCLE, 0, 32⟩
/-- LOOP.CSTOP, 07_lupin_engines.md R211. -/
def LOOP_CSTOP : Nat := 0x40400408
def LOOP_CSTOP_TMO : Fld := ⟨LOOP_CSTOP, 0, 16⟩
def LOOP_CSTOP_ACTIVE : Fld := ⟨LOOP_CSTOP, 16, 1⟩
/-- LOOP.OVR_SUM, 07_lupin_engines.md R211. -/
def LOOP_OVR_SUM : Nat := 0x4040040c
def LOOP_OVR_SUM_ENG : Fld := ⟨LOOP_OVR_SUM, 0, 16⟩
/-- LOOP.SPARE, 07_lupin_engines.md R211. -/
def LOOP_SPARE : Nat := 0x40400410
def LOOP_SPARE_ENG : Fld := ⟨LOOP_SPARE, 0, 4⟩

/-- ENG.CTL, 07_lupin_engines.md R212. -/
def ENG_CTL (n : Nat) : Nat := 0x40410000 + 0x1000 * n
def ENG_CTL_EN (n : Nat) : Fld := ⟨ENG_CTL n, 0, 1⟩
def ENG_CTL_RESTART (n : Nat) : Fld := ⟨ENG_CTL n, 1, 1⟩
def ENG_CTL_LST_START (n : Nat) : Fld := ⟨ENG_CTL n, 2, 1⟩
/-- ENG.STAT, 07_lupin_engines.md R212. -/
def ENG_STAT (n : Nat) : Nat := 0x40410004 + 0x1000 * n
def ENG_STAT_STATE (n : Nat) : Fld := ⟨ENG_STAT n, 0, 3⟩
def ENG_STAT_KIND (n : Nat) : Fld := ⟨ENG_STAT n, 3, 1⟩
def ENG_STAT_CUR_SLOT (n : Nat) : Fld := ⟨ENG_STAT n, 4, 3⟩
def ENG_STAT_PEND (n : Nat) : Fld := ⟨ENG_STAT n, 8, 8⟩
/-- ENG.FAULT, 07_lupin_engines.md R212. -/
def ENG_FAULT (n : Nat) : Nat := 0x40410008 + 0x1000 * n
def ENG_FAULT_PC (n : Nat) : Fld := ⟨ENG_FAULT n, 0, 16⟩
def ENG_FAULT_CAUSE (n : Nat) : Fld := ⟨ENG_FAULT n, 16, 4⟩
/-- ENG.PROG_CRC, 07_lupin_engines.md R212. -/
def ENG_PROG_CRC (n : Nat) : Nat := 0x4041000c + 0x1000 * n
def ENG_PROG_CRC_CRC (n : Nat) : Fld := ⟨ENG_PROG_CRC n, 0, 32⟩
/-- ENG.LST, 07_lupin_engines.md R212. -/
def ENG_LST (n : Nat) : Nat := 0x40410010 + 0x1000 * n
def ENG_LST_BUSY (n : Nat) : Fld := ⟨ENG_LST n, 0, 1⟩
def ENG_LST_PASS (n : Nat) : Fld := ⟨ENG_LST n, 1, 1⟩
def ENG_LST_FAIL (n : Nat) : Fld := ⟨ENG_LST n, 2, 1⟩
def ENG_LST_REFUSED (n : Nat) : Fld := ⟨ENG_LST n, 8, 8⟩
/-- ENG.SNAPCNT, 07_lupin_engines.md R212. -/
def ENG_SNAPCNT (n : Nat) : Nat := 0x40410014 + 0x1000 * n
def ENG_SNAPCNT_TORN (n : Nat) : Fld := ⟨ENG_SNAPCNT n, 0, 16⟩
def ENG_SNAPCNT_PFWAIT (n : Nat) : Fld := ⟨ENG_SNAPCNT n, 16, 16⟩
/-- ENG.IRQ_EN, 07_lupin_engines.md R212. -/
def ENG_IRQ_EN (n : Nat) : Nat := 0x40410018 + 0x1000 * n
def ENG_IRQ_EN_EN (n : Nat) : Fld := ⟨ENG_IRQ_EN n, 0, 16⟩
/-- ENG.IRQ_PEND, 07_lupin_engines.md R212. -/
def ENG_IRQ_PEND (n : Nat) : Nat := 0x4041001c + 0x1000 * n
def ENG_IRQ_PEND_PEND (n : Nat) : Fld := ⟨ENG_IRQ_PEND n, 0, 16⟩
/-- ENG.REGCTL, 07_lupin_engines.md R212. -/
def ENG_REGCTL (n : Nat) : Nat := 0x40410020 + 0x1000 * n
def ENG_REGCTL_PRIV_DEF (n : Nat) : Fld := ⟨ENG_REGCTL n, 0, 1⟩
/-- ENG.REGION_BASE, 07_lupin_engines.md R212. -/
def ENG_REGION_BASE (n j : Nat) : Nat := 0x40410300 + 0x1000 * n + 0x10 * j
def ENG_REGION_BASE_ADDR (n j : Nat) : Fld := ⟨ENG_REGION_BASE n j, 8, 24⟩
/-- ENG.REGION_LIMIT, 07_lupin_engines.md R212. -/
def ENG_REGION_LIMIT (n j : Nat) : Nat := 0x40410304 + 0x1000 * n + 0x10 * j
def ENG_REGION_LIMIT_ADDR (n j : Nat) : Fld := ⟨ENG_REGION_LIMIT n j, 8, 24⟩
/-- ENG.REGION_ATTR, 07_lupin_engines.md R212. -/
def ENG_REGION_ATTR (n j : Nat) : Nat := 0x40410308 + 0x1000 * n + 0x10 * j
def ENG_REGION_ATTR_EN (n j : Nat) : Fld := ⟨ENG_REGION_ATTR n j, 0, 1⟩
def ENG_REGION_ATTR_R (n j : Nat) : Fld := ⟨ENG_REGION_ATTR n j, 1, 1⟩
def ENG_REGION_ATTR_W (n j : Nat) : Fld := ⟨ENG_REGION_ATTR n j, 2, 1⟩
def ENG_REGION_ATTR_X (n j : Nat) : Fld := ⟨ENG_REGION_ATTR n j, 3, 1⟩
def ENG_REGION_ATTR_PNX (n j : Nat) : Fld := ⟨ENG_REGION_ATTR n j, 4, 1⟩
/-- ENG.TASK_CFG, 07_lupin_engines.md R212. -/
def ENG_TASK_CFG (n j : Nat) : Nat := 0x40410100 + 0x1000 * n + 0x20 * j
def ENG_TASK_CFG_EN (n j : Nat) : Fld := ⟨ENG_TASK_CFG n j, 0, 1⟩
def ENG_TASK_CFG_TT (n j : Nat) : Fld := ⟨ENG_TASK_CFG n j, 1, 5⟩
def ENG_TASK_CFG_PF_EN (n j : Nat) : Fld := ⟨ENG_TASK_CFG n j, 6, 1⟩
def ENG_TASK_CFG_PF_TT (n j : Nat) : Fld := ⟨ENG_TASK_CFG n j, 7, 5⟩
def ENG_TASK_CFG_ENTRY (n j : Nat) : Fld := ⟨ENG_TASK_CFG n j, 16, 16⟩
/-- ENG.TASK_BUDGET, 07_lupin_engines.md R212. -/
def ENG_TASK_BUDGET (n j : Nat) : Nat := 0x40410104 + 0x1000 * n + 0x20 * j
def ENG_TASK_BUDGET_CYCLES (n j : Nat) : Fld := ⟨ENG_TASK_BUDGET n j, 0, 24⟩
/-- ENG.TASK_DEADLINE, 07_lupin_engines.md R212. -/
def ENG_TASK_DEADLINE (n j : Nat) : Nat := 0x40410108 + 0x1000 * n + 0x20 * j
def ENG_TASK_DEADLINE_NS (n j : Nat) : Fld := ⟨ENG_TASK_DEADLINE n j, 0, 24⟩
/-- ENG.TASK_CELLS0, 07_lupin_engines.md R212. -/
def ENG_TASK_CELLS0 (n j : Nat) : Nat := 0x4041010c + 0x1000 * n + 0x20 * j
def ENG_TASK_CELLS0_CELL (n j i : Nat) : Fld := ⟨ENG_TASK_CELLS0 n j, 8 * i + 0, 8⟩
/-- ENG.TASK_CELLS1, 07_lupin_engines.md R212. -/
def ENG_TASK_CELLS1 (n j : Nat) : Nat := 0x40410110 + 0x1000 * n + 0x20 * j
def ENG_TASK_CELLS1_CELL (n j i : Nat) : Fld := ⟨ENG_TASK_CELLS1 n j, 8 * i + 0, 8⟩
/-- ENG.TASK_CELLS2, 07_lupin_engines.md R212. -/
def ENG_TASK_CELLS2 (n j : Nat) : Nat := 0x40410114 + 0x1000 * n + 0x20 * j
def ENG_TASK_CELLS2_CELL (n j i : Nat) : Fld := ⟨ENG_TASK_CELLS2 n j, 8 * i + 0, 8⟩
/-- ENG.TASK_CNT, 07_lupin_engines.md R212. -/
def ENG_TASK_CNT (n j : Nat) : Nat := 0x40410118 + 0x1000 * n + 0x20 * j
def ENG_TASK_CNT_OVERRUN (n j : Nat) : Fld := ⟨ENG_TASK_CNT n j, 0, 16⟩
def ENG_TASK_CNT_SKIP (n j : Nat) : Fld := ⟨ENG_TASK_CNT n j, 16, 16⟩
/-- ENG.TASK_MAXCYC, 07_lupin_engines.md R212. -/
def ENG_TASK_MAXCYC (n j : Nat) : Nat := 0x4041011c + 0x1000 * n + 0x20 * j
def ENG_TASK_MAXCYC_CYCLES (n j : Nat) : Fld := ⟨ENG_TASK_MAXCYC n j, 0, 24⟩
def ENG_TASK_MAXCYC_BUDEX (n j : Nat) : Fld := ⟨ENG_TASK_MAXCYC n j, 24, 8⟩
/-- ENG.PFD_SADDR, 07_lupin_engines.md R212. -/
def ENG_PFD_SADDR (n j : Nat) : Nat := 0x40410200 + 0x1000 * n + 0x8 * j
def ENG_PFD_SADDR_ADDR (n j : Nat) : Fld := ⟨ENG_PFD_SADDR n j, 0, 22⟩
/-- ENG.PFD_DCTL, 07_lupin_engines.md R212. -/
def ENG_PFD_DCTL (n j : Nat) : Nat := 0x40410204 + 0x1000 * n + 0x8 * j
def ENG_PFD_DCTL_LADDR (n j : Nat) : Fld := ⟨ENG_PFD_DCTL n j, 0, 16⟩
def ENG_PFD_DCTL_LEN (n j : Nat) : Fld := ⟨ENG_PFD_DCTL n j, 16, 6⟩
def ENG_PFD_DCTL_SLOT (n j : Nat) : Fld := ⟨ENG_PFD_DCTL n j, 22, 3⟩
def ENG_PFD_DCTL_OUT (n j : Nat) : Fld := ⟨ENG_PFD_DCTL n j, 25, 1⟩
def ENG_PFD_DCTL_EN (n j : Nat) : Fld := ⟨ENG_PFD_DCTL n j, 26, 1⟩

/-- GLUT.CFG, 07_lupin_engines.md R213. -/
def GLUT_CFG (n j : Nat) : Nat := 0x40440000 + 0x1000 * n + 0x4 * j
def GLUT_CFG_SHIFT (n j : Nat) : Fld := ⟨GLUT_CFG n j, 0, 5⟩
def GLUT_CFG_ASYM (n j : Nat) : Fld := ⟨GLUT_CFG n j, 8, 1⟩
def GLUT_CFG_PAGE (n j : Nat) : Fld := ⟨GLUT_CFG n j, 12, 1⟩
def GLUT_CFG_SWAP_PEND (n j : Nat) : Fld := ⟨GLUT_CFG n j, 13, 1⟩
def GLUT_CFG_SWAP (n j : Nat) : Fld := ⟨GLUT_CFG n j, 16, 1⟩
/-- GLUT.TBL0, 07_lupin_engines.md R213. -/
def GLUT_TBL0 (n j : Nat) : Nat := 0x40440100 + 0x1000 * n + 0x4 * j
def GLUT_TBL0_LO (n j : Nat) : Fld := ⟨GLUT_TBL0 n j, 0, 16⟩
def GLUT_TBL0_HI (n j : Nat) : Fld := ⟨GLUT_TBL0 n j, 16, 16⟩
/-- GLUT.TBL1, 07_lupin_engines.md R213. -/
def GLUT_TBL1 (n j : Nat) : Nat := 0x40440500 + 0x1000 * n + 0x4 * j
def GLUT_TBL1_LO (n j : Nat) : Fld := ⟨GLUT_TBL1 n j, 0, 16⟩
def GLUT_TBL1_HI (n j : Nat) : Fld := ⟨GLUT_TBL1 n j, 16, 16⟩
/-- GLUT.TBL2, 07_lupin_engines.md R213. -/
def GLUT_TBL2 (n j : Nat) : Nat := 0x40440900 + 0x1000 * n + 0x4 * j
def GLUT_TBL2_LO (n j : Nat) : Fld := ⟨GLUT_TBL2 n j, 0, 16⟩
def GLUT_TBL2_HI (n j : Nat) : Fld := ⟨GLUT_TBL2 n j, 16, 16⟩
/-- GLUT.TBL3, 07_lupin_engines.md R213. -/
def GLUT_TBL3 (n j : Nat) : Nat := 0x40440d00 + 0x1000 * n + 0x4 * j
def GLUT_TBL3_LO (n j : Nat) : Fld := ⟨GLUT_TBL3 n j, 0, 16⟩
def GLUT_TBL3_HI (n j : Nat) : Fld := ⟨GLUT_TBL3 n j, 16, 16⟩

/-- PGEN.CFG, 07_lupin_engines.md R214. -/
def PGEN_CFG (n : Nat) : Nat := 0x40460000 + 0x100 * n
def PGEN_CFG_SLOT (n : Nat) : Fld := ⟨PGEN_CFG n, 0, 3⟩
def PGEN_CFG_EN (n : Nat) : Fld := ⟨PGEN_CFG n, 4, 1⟩
def PGEN_CFG_CSTOP (n : Nat) : Fld := ⟨PGEN_CFG n, 5, 1⟩
def PGEN_CFG_INIT (n : Nat) : Fld := ⟨PGEN_CFG n, 6, 1⟩
/-- PGEN.VMAX, 07_lupin_engines.md R214. -/
def PGEN_VMAX (n : Nat) : Nat := 0x40460004 + 0x100 * n
def PGEN_VMAX_LIM (n : Nat) : Fld := ⟨PGEN_VMAX n, 0, 32⟩
/-- PGEN.AMAX, 07_lupin_engines.md R214. -/
def PGEN_AMAX (n : Nat) : Nat := 0x40460008 + 0x100 * n
def PGEN_AMAX_LIM (n : Nat) : Fld := ⟨PGEN_AMAX n, 0, 32⟩
/-- PGEN.JMAX, 07_lupin_engines.md R214. -/
def PGEN_JMAX (n : Nat) : Nat := 0x4046000c + 0x100 * n
def PGEN_JMAX_LIM (n : Nat) : Fld := ⟨PGEN_JMAX n, 0, 32⟩
/-- PGEN.TARGET, 07_lupin_engines.md R214. -/
def PGEN_TARGET (n : Nat) : Nat := 0x40460010 + 0x100 * n
def PGEN_TARGET_VAL (n : Nat) : Fld := ⟨PGEN_TARGET n, 0, 32⟩
/-- PGEN.POS, 07_lupin_engines.md R214. -/
def PGEN_POS (n : Nat) : Nat := 0x40460014 + 0x100 * n
def PGEN_POS_VAL (n : Nat) : Fld := ⟨PGEN_POS n, 0, 32⟩
/-- PGEN.VEL, 07_lupin_engines.md R214. -/
def PGEN_VEL (n : Nat) : Nat := 0x40460018 + 0x100 * n
def PGEN_VEL_VAL (n : Nat) : Fld := ⟨PGEN_VEL n, 0, 32⟩
/-- PGEN.ACC, 07_lupin_engines.md R214. -/
def PGEN_ACC (n : Nat) : Nat := 0x4046001c + 0x100 * n
def PGEN_ACC_VAL (n : Nat) : Fld := ⟨PGEN_ACC n, 0, 32⟩
/-- PGEN.STOP_TGT, 07_lupin_engines.md R214. -/
def PGEN_STOP_TGT (n : Nat) : Nat := 0x40460020 + 0x100 * n
def PGEN_STOP_TGT_VAL (n : Nat) : Fld := ⟨PGEN_STOP_TGT n, 0, 32⟩
/-- PGEN.STAT, 07_lupin_engines.md R214. -/
def PGEN_STAT (n : Nat) : Nat := 0x40460024 + 0x100 * n
def PGEN_STAT_MOVING (n : Nat) : Fld := ⟨PGEN_STAT n, 0, 1⟩
def PGEN_STAT_AT_TGT (n : Nat) : Fld := ⟨PGEN_STAT n, 1, 1⟩
def PGEN_STAT_OVERSHOOT (n : Nat) : Fld := ⟨PGEN_STAT n, 2, 1⟩
def PGEN_STAT_LOCKED (n : Nat) : Fld := ⟨PGEN_STAT n, 3, 1⟩
def PGEN_STAT_WRONG_SLOT (n : Nat) : Fld := ⟨PGEN_STAT n, 4, 1⟩
def PGEN_STAT_REPLANS (n : Nat) : Fld := ⟨PGEN_STAT n, 16, 16⟩

/-- PROT.CFG, 09_power_stage_protection.md R277. -/
def PROT_CFG : Nat := 0x40500000
def PROT_CFG_EN : Fld := ⟨PROT_CFG, 0, 1⟩
def PROT_CFG_PENG : Fld := ⟨PROT_CFG, 1, 2⟩
def PROT_CFG_LEAD : Fld := ⟨PROT_CFG, 4, 4⟩
def PROT_CFG_TRIES : Fld := ⟨PROT_CFG, 8, 3⟩
def PROT_CFG_WAIT : Fld := ⟨PROT_CFG, 16, 10⟩
/-- PROT.RETRY_WIN, 09_power_stage_protection.md R277. -/
def PROT_RETRY_WIN : Nat := 0x40500004
def PROT_RETRY_WIN_WIN : Fld := ⟨PROT_RETRY_WIN, 0, 12⟩
/-- PROT.STAT, 09_power_stage_protection.md R277. -/
def PROT_STAT : Nat := 0x40500008
def PROT_STAT_LOCKED : Fld := ⟨PROT_STAT, 0, 8⟩
def PROT_STAT_WAITING : Fld := ⟨PROT_STAT, 8, 8⟩
def PROT_STAT_HELD : Fld := ⟨PROT_STAT, 16, 1⟩
/-- PROT.EVQ, 09_power_stage_protection.md R277. -/
def PROT_EVQ : Nat := 0x4050000c
def PROT_EVQ_CELL : Fld := ⟨PROT_EVQ, 0, 8⟩
def PROT_EVQ_SWITCH : Fld := ⟨PROT_EVQ, 8, 4⟩
def PROT_EVQ_KIND : Fld := ⟨PROT_EVQ, 12, 4⟩
def PROT_EVQ_VALID : Fld := ⟨PROT_EVQ, 16, 1⟩
/-- PROT.EVQ_STAT, 09_power_stage_protection.md R277. -/
def PROT_EVQ_STAT : Nat := 0x40500010
def PROT_EVQ_STAT_OCC : Fld := ⟨PROT_EVQ_STAT, 0, 5⟩
def PROT_EVQ_STAT_LOST : Fld := ⟨PROT_EVQ_STAT, 16, 16⟩
/-- PROT.UNLOCK, 09_power_stage_protection.md R277. -/
def PROT_UNLOCK : Nat := 0x40500014
def PROT_UNLOCK_CELL : Fld := ⟨PROT_UNLOCK, 0, 8⟩
def PROT_UNLOCK_GO : Fld := ⟨PROT_UNLOCK, 31, 1⟩
/-- PROT.CNT, 09_power_stage_protection.md R277. -/
def PROT_CNT : Nat := 0x40500018
def PROT_CNT_DESAT : Fld := ⟨PROT_CNT, 0, 16⟩
def PROT_CNT_BSUV : Fld := ⟨PROT_CNT, 16, 16⟩
/-- PROT.CNT2, 09_power_stage_protection.md R277. -/
def PROT_CNT2 : Nat := 0x4050001c
def PROT_CNT2_REARMS : Fld := ⟨PROT_CNT2, 0, 16⟩
def PROT_CNT2_LOCKOUTS : Fld := ⟨PROT_CNT2, 16, 16⟩
/-- PROT.LEAK_CFG, 09_power_stage_protection.md R277. -/
def PROT_LEAK_CFG : Nat := 0x40500020
def PROT_LEAK_CFG_EN : Fld := ⟨PROT_LEAK_CFG, 0, 1⟩
def PROT_LEAK_CFG_DUR : Fld := ⟨PROT_LEAK_CFG, 1, 7⟩
def PROT_LEAK_CFG_INTERVAL : Fld := ⟨PROT_LEAK_CFG, 16, 16⟩
/-- PROT.LEAK_LIM, 09_power_stage_protection.md R277. -/
def PROT_LEAK_LIM : Nat := 0x40500024
def PROT_LEAK_LIM_NA : Fld := ⟨PROT_LEAK_LIM, 0, 24⟩
/-- PROT.LEAK_STAT, 09_power_stage_protection.md R277. -/
def PROT_LEAK_STAT : Nat := 0x40500028
def PROT_LEAK_STAT_CELL : Fld := ⟨PROT_LEAK_STAT, 0, 8⟩
def PROT_LEAK_STAT_SWITCH : Fld := ⟨PROT_LEAK_STAT, 8, 4⟩
def PROT_LEAK_STAT_BUSY : Fld := ⟨PROT_LEAK_STAT, 12, 1⟩
def PROT_LEAK_STAT_ABORTS : Fld := ⟨PROT_LEAK_STAT, 16, 16⟩
/-- PROT.DUMP_CFG, 09_power_stage_protection.md R277. -/
def PROT_DUMP_CFG : Nat := 0x40500030
def PROT_DUMP_CFG_EN : Fld := ⟨PROT_DUMP_CFG, 0, 1⟩
def PROT_DUMP_CFG_CMP : Fld := ⟨PROT_DUMP_CFG, 1, 5⟩
def PROT_DUMP_CFG_POL : Fld := ⟨PROT_DUMP_CFG, 6, 1⟩
def PROT_DUMP_CFG_EXT : Fld := ⟨PROT_DUMP_CFG, 8, 8⟩
/-- PROT.DUMP_STAT, 09_power_stage_protection.md R277. -/
def PROT_DUMP_STAT : Nat := 0x40500034
def PROT_DUMP_STAT_ACTIVE : Fld := ⟨PROT_DUMP_STAT, 0, 1⟩
def PROT_DUMP_STAT_IN : Fld := ⟨PROT_DUMP_STAT, 1, 1⟩
def PROT_DUMP_STAT_SAFE_LVL : Fld := ⟨PROT_DUMP_STAT, 2, 2⟩
def PROT_DUMP_STAT_COUNT : Fld := ⟨PROT_DUMP_STAT, 16, 16⟩

/-- PROT_PARC.DT, 09_power_stage_protection.md R278. -/
def PROT_PARC_DT (n j : Nat) : Nat := 0x40501000 + 0x80 * n + 0x4 * j
def PROT_PARC_DT_DT (n j : Nat) : Fld := ⟨PROT_PARC_DT n j, 0, 12⟩
/-- PROT_PARC.DS, 09_power_stage_protection.md R278. -/
def PROT_PARC_DS (n j : Nat) : Nat := 0x40501010 + 0x80 * n + 0x4 * j
def PROT_PARC_DS_BLANK (n j : Nat) : Fld := ⟨PROT_PARC_DS n j, 0, 7⟩
def PROT_PARC_DS_THRESH (n j : Nat) : Fld := ⟨PROT_PARC_DS n j, 8, 7⟩
def PROT_PARC_DS_EN (n j : Nat) : Fld := ⟨PROT_PARC_DS n j, 15, 1⟩
/-- PROT_PARC.OV, 09_power_stage_protection.md R278. -/
def PROT_PARC_OV (n : Nat) : Nat := 0x40501040 + 0x80 * n
def PROT_PARC_OV_OV_ON (n : Nat) : Fld := ⟨PROT_PARC_OV n, 0, 16⟩
def PROT_PARC_OV_OV_HYST (n : Nat) : Fld := ⟨PROT_PARC_OV n, 16, 16⟩
/-- PROT_PARC.PCTL, 09_power_stage_protection.md R278. -/
def PROT_PARC_PCTL (n : Nat) : Nat := 0x40501044 + 0x80 * n
def PROT_PARC_PCTL_PUSH (n : Nat) : Fld := ⟨PROT_PARC_PCTL n, 0, 1⟩
def PROT_PARC_PCTL_OV_EN (n : Nat) : Fld := ⟨PROT_PARC_PCTL n, 1, 1⟩
def PROT_PARC_PCTL_USE_F (n : Nat) : Fld := ⟨PROT_PARC_PCTL n, 2, 1⟩
/-- PROT_PARC.PUSH_F, 09_power_stage_protection.md R278. -/
def PROT_PARC_PUSH_F (n : Nat) : Nat := 0x40501048 + 0x80 * n
def PROT_PARC_PUSH_F_FRAME (n : Nat) : Fld := ⟨PROT_PARC_PUSH_F n, 0, 32⟩
/-- PROT_PARC.PSTAT, 09_power_stage_protection.md R278. -/
def PROT_PARC_PSTAT (n : Nat) : Nat := 0x4050104c + 0x80 * n
def PROT_PARC_PSTAT_DIRTY (n : Nat) : Fld := ⟨PROT_PARC_PSTAT n, 0, 17⟩
def PROT_PARC_PSTAT_SYNC (n : Nat) : Fld := ⟨PROT_PARC_PSTAT n, 17, 1⟩
def PROT_PARC_PSTAT_MISMATCH (n : Nat) : Fld := ⟨PROT_PARC_PSTAT n, 18, 1⟩
/-- PROT_PARC.RSTAT, 09_power_stage_protection.md R278. -/
def PROT_PARC_RSTAT (n : Nat) : Nat := 0x40501050 + 0x80 * n
def PROT_PARC_RSTAT_STATE (n : Nat) : Fld := ⟨PROT_PARC_RSTAT n, 0, 2⟩
def PROT_PARC_RSTAT_WAIT_LEFT (n : Nat) : Fld := ⟨PROT_PARC_RSTAT n, 16, 10⟩
/-- PROT_PARC.RPEND, 09_power_stage_protection.md R278. -/
def PROT_PARC_RPEND (n : Nat) : Nat := 0x40501054 + 0x80 * n
def PROT_PARC_RPEND_DESAT (n : Nat) : Fld := ⟨PROT_PARC_RPEND n, 0, 12⟩
def PROT_PARC_RPEND_BSUV (n : Nat) : Fld := ⟨PROT_PARC_RPEND n, 16, 12⟩

/-- PROT_SREC.ST, 09_power_stage_protection.md R279. -/
def PROT_SREC_ST (n : Nat) : Nat := 0x40508000 + 0x10 * n
def PROT_SREC_ST_LATCHED (n : Nat) : Fld := ⟨PROT_SREC_ST n, 0, 1⟩
def PROT_SREC_ST_KIND (n : Nat) : Fld := ⟨PROT_SREC_ST n, 1, 1⟩
def PROT_SREC_ST_TRIES (n : Nat) : Fld := ⟨PROT_SREC_ST n, 3, 3⟩
def PROT_SREC_ST_TRIPS (n : Nat) : Fld := ⟨PROT_SREC_ST n, 16, 16⟩
/-- PROT_SREC.T_TRIP, 09_power_stage_protection.md R279. -/
def PROT_SREC_T_TRIP (n : Nat) : Nat := 0x40508004 + 0x10 * n
def PROT_SREC_T_TRIP_NS (n : Nat) : Fld := ⟨PROT_SREC_T_TRIP n, 0, 30⟩
def PROT_SREC_T_TRIP_S (n : Nat) : Fld := ⟨PROT_SREC_T_TRIP n, 30, 2⟩
/-- PROT_SREC.T_WIN, 09_power_stage_protection.md R279. -/
def PROT_SREC_T_WIN (n : Nat) : Nat := 0x40508008 + 0x10 * n
def PROT_SREC_T_WIN_SEC (n : Nat) : Fld := ⟨PROT_SREC_T_WIN n, 0, 32⟩
/-- PROT_SREC.LEAK, 09_power_stage_protection.md R279. -/
def PROT_SREC_LEAK (n : Nat) : Nat := 0x4050800c + 0x10 * n
def PROT_SREC_LEAK_NA (n : Nat) : Fld := ⟨PROT_SREC_LEAK n, 0, 24⟩
def PROT_SREC_LEAK_VALID (n : Nat) : Fld := ⟨PROT_SREC_LEAK n, 24, 1⟩
def PROT_SREC_LEAK_HIGH (n : Nat) : Fld := ⟨PROT_SREC_LEAK n, 25, 1⟩

/-- PROT_LREC.T_TRIP, 09_power_stage_protection.md R279. -/
def PROT_LREC_T_TRIP (n : Nat) : Nat := 0x40518008 + 0x10 * n
def PROT_LREC_T_TRIP_NS (n : Nat) : Fld := ⟨PROT_LREC_T_TRIP n, 0, 30⟩
def PROT_LREC_T_TRIP_S (n : Nat) : Fld := ⟨PROT_LREC_T_TRIP n, 30, 2⟩
/-- PROT_LREC.T_WIN, 09_power_stage_protection.md R279. -/
def PROT_LREC_T_WIN (n : Nat) : Nat := 0x4051800c + 0x10 * n
def PROT_LREC_T_WIN_SEC (n : Nat) : Fld := ⟨PROT_LREC_T_WIN n, 0, 32⟩
/-- PROT_LREC.CFG, 09_power_stage_protection.md R279. -/
def PROT_LREC_CFG (n : Nat) : Nat := 0x40518000 + 0x10 * n
def PROT_LREC_CFG_AUTO (n : Nat) : Fld := ⟨PROT_LREC_CFG n, 0, 1⟩
/-- PROT_LREC.ST, 09_power_stage_protection.md R279. -/
def PROT_LREC_ST (n : Nat) : Nat := 0x40518004 + 0x10 * n
def PROT_LREC_ST_TRIES (n : Nat) : Fld := ⟨PROT_LREC_ST n, 0, 3⟩
def PROT_LREC_ST_EXHAUST (n : Nat) : Fld := ⟨PROT_LREC_ST n, 3, 1⟩
def PROT_LREC_ST_WAIT (n : Nat) : Fld := ⟨PROT_LREC_ST n, 4, 1⟩
def PROT_LREC_ST_TRIPS (n : Nat) : Fld := ⟨PROT_LREC_ST n, 16, 16⟩

/-- ADC.CTL, 10_analogue_and_thermal.md R302. -/
def ADC_CTL (n : Nat) : Nat := 0x40600000 + 0x1000 * n
def ADC_CTL_EN (n : Nat) : Fld := ⟨ADC_CTL n, 0, 1⟩
def ADC_CTL_TRIG_SRC (n : Nat) : Fld := ⟨ADC_CTL n, 1, 2⟩
def ADC_CTL_TRIG_SEL (n : Nat) : Fld := ⟨ADC_CTL n, 3, 5⟩
def ADC_CTL_SEQ_LEN (n : Nat) : Fld := ⟨ADC_CTL n, 8, 4⟩
def ADC_CTL_DELAY (n : Nat) : Fld := ⟨ADC_CTL n, 16, 16⟩
/-- ADC.SEQA, 10_analogue_and_thermal.md R302. -/
def ADC_SEQA (n : Nat) : Nat := 0x40600004 + 0x1000 * n
def ADC_SEQA_IN (n i : Nat) : Fld := ⟨ADC_SEQA n, 4 * i + 0, 3⟩
/-- ADC.SEQB, 10_analogue_and_thermal.md R302. -/
def ADC_SEQB (n : Nat) : Nat := 0x40600008 + 0x1000 * n
def ADC_SEQB_IN (n i : Nat) : Fld := ⟨ADC_SEQB n, 4 * i + 0, 3⟩
/-- ADC.URG, 10_analogue_and_thermal.md R302. -/
def ADC_URG (n : Nat) : Nat := 0x4060000c + 0x1000 * n
def ADC_URG_IN (n : Nat) : Fld := ⟨ADC_URG n, 0, 3⟩
def ADC_URG_GO (n : Nat) : Fld := ⟨ADC_URG n, 31, 1⟩
/-- ADC.STAT, 10_analogue_and_thermal.md R302. -/
def ADC_STAT (n : Nat) : Nat := 0x40600010 + 0x1000 * n
def ADC_STAT_BUSY (n : Nat) : Fld := ⟨ADC_STAT n, 0, 1⟩
def ADC_STAT_SEQ (n : Nat) : Fld := ⟨ADC_STAT n, 1, 1⟩
def ADC_STAT_URG (n : Nat) : Fld := ⟨ADC_STAT n, 2, 1⟩
def ADC_STAT_CAL (n : Nat) : Fld := ⟨ADC_STAT n, 3, 1⟩
def ADC_STAT_STEP (n : Nat) : Fld := ⟨ADC_STAT n, 4, 4⟩
def ADC_STAT_REF_RDY (n : Nat) : Fld := ⟨ADC_STAT n, 8, 1⟩
def ADC_STAT_LINK_DN (n : Nat) : Fld := ⟨ADC_STAT n, 9, 1⟩
/-- ADC.DROP_COUNT, 10_analogue_and_thermal.md R302. -/
def ADC_DROP_COUNT (n : Nat) : Nat := 0x40600014 + 0x1000 * n
def ADC_DROP_COUNT_DROPS (n : Nat) : Fld := ⟨ADC_DROP_COUNT n, 0, 16⟩
def ADC_DROP_COUNT_TRIG_MISS (n : Nat) : Fld := ⟨ADC_DROP_COUNT n, 16, 16⟩
/-- ADC.CAL, 10_analogue_and_thermal.md R302. -/
def ADC_CAL (n : Nat) : Nat := 0x40600018 + 0x1000 * n
def ADC_CAL_WIN_TT (n : Nat) : Fld := ⟨ADC_CAL n, 0, 5⟩
def ADC_CAL_WIN_LEN (n : Nat) : Fld := ⟨ADC_CAL n, 8, 8⟩
def ADC_CAL_REQ (n : Nat) : Fld := ⟨ADC_CAL n, 16, 1⟩
def ADC_CAL_DONE (n : Nat) : Fld := ⟨ADC_CAL n, 17, 1⟩
def ADC_CAL_REFUSED (n : Nat) : Fld := ⟨ADC_CAL n, 24, 8⟩
/-- ADC.DST, 10_analogue_and_thermal.md R302. -/
def ADC_DST (n : Nat) : Nat := 0x4060001c + 0x1000 * n
def ADC_DST_EN (n : Nat) : Fld := ⟨ADC_DST n, 0, 1⟩
def ADC_DST_ADDR (n : Nat) : Fld := ⟨ADC_DST n, 3, 19⟩
/-- ADC.RES_LO, 10_analogue_and_thermal.md R302. -/
def ADC_RES_LO (n j : Nat) : Nat := 0x40600100 + 0x1000 * n + 0x8 * j
def ADC_RES_LO_LO (n j : Nat) : Fld := ⟨ADC_RES_LO n j, 0, 32⟩
/-- ADC.URES_LO, 10_analogue_and_thermal.md R302. -/
def ADC_URES_LO (n : Nat) : Nat := 0x40600020 + 0x1000 * n
def ADC_URES_LO_LO (n : Nat) : Fld := ⟨ADC_URES_LO n, 0, 32⟩
/-- ADC.RES_HI, 10_analogue_and_thermal.md R302. -/
def ADC_RES_HI (n j : Nat) : Nat := 0x40600104 + 0x1000 * n + 0x8 * j
def ADC_RES_HI_HI (n j : Nat) : Fld := ⟨ADC_RES_HI n j, 0, 32⟩
/-- ADC.URES_HI, 10_analogue_and_thermal.md R302. -/
def ADC_URES_HI (n : Nat) : Nat := 0x40600024 + 0x1000 * n
def ADC_URES_HI_HI (n : Nat) : Fld := ⟨ADC_URES_HI n, 0, 32⟩
/-- ADC.WIN_LIM, 10_analogue_and_thermal.md R302. -/
def ADC_WIN_LIM (n j : Nat) : Nat := 0x40600200 + 0x1000 * n + 0x8 * j
def ADC_WIN_LIM_LO (n j : Nat) : Fld := ⟨ADC_WIN_LIM n j, 0, 16⟩
def ADC_WIN_LIM_HI (n j : Nat) : Fld := ⟨ADC_WIN_LIM n j, 16, 16⟩
/-- ADC.WIN_CTL, 10_analogue_and_thermal.md R302. -/
def ADC_WIN_CTL (n j : Nat) : Nat := 0x40600204 + 0x1000 * n + 0x8 * j
def ADC_WIN_CTL_HYST (n j : Nat) : Fld := ⟨ADC_WIN_CTL n j, 0, 16⟩
def ADC_WIN_CTL_EN (n j : Nat) : Fld := ⟨ADC_WIN_CTL n j, 16, 1⟩
def ADC_WIN_CTL_OUT (n j : Nat) : Fld := ⟨ADC_WIN_CTL n j, 17, 1⟩
def ADC_WIN_CTL_EVENT (n j : Nat) : Fld := ⟨ADC_WIN_CTL n j, 18, 1⟩
def ADC_WIN_CTL_IRQ_EN (n j : Nat) : Fld := ⟨ADC_WIN_CTL n j, 19, 1⟩

/-- CMP.CTL, 10_analogue_and_thermal.md R303. -/
def CMP_CTL (n : Nat) : Nat := 0x40610000 + 0x40 * n
def CMP_CTL_EN (n : Nat) : Fld := ⟨CMP_CTL n, 0, 1⟩
def CMP_CTL_MODE (n : Nat) : Fld := ⟨CMP_CTL n, 1, 2⟩
def CMP_CTL_RES (n : Nat) : Fld := ⟨CMP_CTL n, 3, 2⟩
def CMP_CTL_HYST (n : Nat) : Fld := ⟨CMP_CTL n, 5, 2⟩
def CMP_CTL_POL (n : Nat) : Fld := ⟨CMP_CTL n, 7, 1⟩
def CMP_CTL_LATCH (n : Nat) : Fld := ⟨CMP_CTL n, 8, 2⟩
def CMP_CTL_PWM_SEL (n : Nat) : Fld := ⟨CMP_CTL n, 10, 4⟩
def CMP_CTL_INIT (n : Nat) : Fld := ⟨CMP_CTL n, 14, 2⟩
def CMP_CTL_IRQ_EN (n : Nat) : Fld := ⟨CMP_CTL n, 16, 1⟩
def CMP_CTL_WAKE_EN (n : Nat) : Fld := ⟨CMP_CTL n, 17, 1⟩
/-- CMP.DAC, 10_analogue_and_thermal.md R303. -/
def CMP_DAC (n : Nat) : Nat := 0x40610004 + 0x40 * n
def CMP_DAC_CODE (n : Nat) : Fld := ⟨CMP_DAC n, 0, 12⟩
/-- CMP.STAT, 10_analogue_and_thermal.md R303. -/
def CMP_STAT (n : Nat) : Nat := 0x40610008 + 0x40 * n
def CMP_STAT_OUT (n : Nat) : Fld := ⟨CMP_STAT n, 0, 1⟩
def CMP_STAT_RAW (n : Nat) : Fld := ⟨CMP_STAT n, 1, 1⟩
def CMP_STAT_HELD (n : Nat) : Fld := ⟨CMP_STAT n, 2, 1⟩
def CMP_STAT_LATCHED (n : Nat) : Fld := ⟨CMP_STAT n, 3, 1⟩
def CMP_STAT_SETTLING (n : Nat) : Fld := ⟨CMP_STAT n, 4, 1⟩
def CMP_STAT_MODE_ACT (n : Nat) : Fld := ⟨CMP_STAT n, 5, 2⟩
def CMP_STAT_EVENT (n : Nat) : Fld := ⟨CMP_STAT n, 7, 1⟩
/-- CMP.CLR, 10_analogue_and_thermal.md R303. -/
def CMP_CLR (n : Nat) : Nat := 0x4061000c + 0x40 * n
def CMP_CLR_LATCH (n : Nat) : Fld := ⟨CMP_CLR n, 0, 1⟩
/-- CMP.CNT, 10_analogue_and_thermal.md R303. -/
def CMP_CNT (n : Nat) : Nat := 0x40610010 + 0x40 * n
def CMP_CNT_ASSERTS (n : Nat) : Fld := ⟨CMP_CNT n, 0, 16⟩

/-- ANA.REF_CTL, 10_analogue_and_thermal.md R303. -/
def ANA_REF_CTL : Nat := 0x40610800
def ANA_REF_CTL_EN : Fld := ⟨ANA_REF_CTL, 0, 1⟩
def ANA_REF_CTL_READY : Fld := ⟨ANA_REF_CTL, 1, 1⟩
/-- ANA.WAKE, 10_analogue_and_thermal.md R303. -/
def ANA_WAKE : Nat := 0x40610804
def ANA_WAKE_TT_EN : Fld := ⟨ANA_WAKE, 0, 1⟩
def ANA_WAKE_TT_SEL : Fld := ⟨ANA_WAKE, 1, 5⟩
def ANA_WAKE_CAUSE : Fld := ⟨ANA_WAKE, 8, 5⟩

/-- ETH.CTL, 11_clocks_timebase_network_time.md R340. -/
def ETH_CTL (n : Nat) : Nat := 0x40700000 + 0x10000 * n
def ETH_CTL_EN (n : Nat) : Fld := ⟨ETH_CTL n, 0, 1⟩
def ETH_CTL_MODE (n : Nat) : Fld := ⟨ETH_CTL n, 1, 1⟩
def ETH_CTL_AN_EN (n : Nat) : Fld := ⟨ETH_CTL n, 2, 1⟩
def ETH_CTL_FWD (n : Nat) : Fld := ⟨ETH_CTL n, 3, 1⟩
def ETH_CTL_TS_APPLY (n : Nat) : Fld := ⟨ETH_CTL n, 4, 1⟩
def ETH_CTL_IRQ_EN (n : Nat) : Fld := ⟨ETH_CTL n, 5, 1⟩
/-- ETH.STAT, 11_clocks_timebase_network_time.md R340. -/
def ETH_STAT (n : Nat) : Nat := 0x40700004 + 0x10000 * n
def ETH_STAT_LINK (n : Nat) : Fld := ⟨ETH_STAT n, 0, 1⟩
def ETH_STAT_AN_DONE (n : Nat) : Fld := ⟨ETH_STAT n, 1, 1⟩
def ETH_STAT_PCS_SYNC (n : Nat) : Fld := ⟨ETH_STAT n, 2, 1⟩
def ETH_STAT_SPEED_ERR (n : Nat) : Fld := ⟨ETH_STAT n, 3, 1⟩
/-- ETH.MAC_LO, 11_clocks_timebase_network_time.md R340. -/
def ETH_MAC_LO (n : Nat) : Nat := 0x40700008 + 0x10000 * n
def ETH_MAC_LO_ADDR (n : Nat) : Fld := ⟨ETH_MAC_LO n, 0, 32⟩
/-- ETH.MAC_HI, 11_clocks_timebase_network_time.md R340. -/
def ETH_MAC_HI (n : Nat) : Nat := 0x4070000c + 0x10000 * n
def ETH_MAC_HI_ADDR (n : Nat) : Fld := ⟨ETH_MAC_HI n, 0, 16⟩
/-- ETH.TS_FIX, 11_clocks_timebase_network_time.md R340. -/
def ETH_TS_FIX (n : Nat) : Nat := 0x40700010 + 0x10000 * n
def ETH_TS_FIX_TX (n : Nat) : Fld := ⟨ETH_TS_FIX n, 0, 16⟩
def ETH_TS_FIX_RX (n : Nat) : Fld := ⟨ETH_TS_FIX n, 16, 16⟩
/-- ETH.TS_EXT, 11_clocks_timebase_network_time.md R340. -/
def ETH_TS_EXT (n : Nat) : Nat := 0x40700014 + 0x10000 * n
def ETH_TS_EXT_TX_EXT (n : Nat) : Fld := ⟨ETH_TS_EXT n, 0, 16⟩
def ETH_TS_EXT_RX_EXT (n : Nat) : Fld := ⟨ETH_TS_EXT n, 16, 16⟩
/-- ETH.TXR_BASE, 11_clocks_timebase_network_time.md R340. -/
def ETH_TXR_BASE (n : Nat) : Nat := 0x40700020 + 0x10000 * n
def ETH_TXR_BASE_ADDR (n : Nat) : Fld := ⟨ETH_TXR_BASE n, 4, 18⟩
/-- ETH.RXR_BASE, 11_clocks_timebase_network_time.md R340. -/
def ETH_RXR_BASE (n : Nat) : Nat := 0x40700030 + 0x10000 * n
def ETH_RXR_BASE_ADDR (n : Nat) : Fld := ⟨ETH_RXR_BASE n, 4, 18⟩
/-- ETH.TXR_LEN, 11_clocks_timebase_network_time.md R340. -/
def ETH_TXR_LEN (n : Nat) : Nat := 0x40700024 + 0x10000 * n
def ETH_TXR_LEN_LEN (n : Nat) : Fld := ⟨ETH_TXR_LEN n, 0, 9⟩
/-- ETH.RXR_LEN, 11_clocks_timebase_network_time.md R340. -/
def ETH_RXR_LEN (n : Nat) : Nat := 0x40700034 + 0x10000 * n
def ETH_RXR_LEN_LEN (n : Nat) : Fld := ⟨ETH_RXR_LEN n, 0, 9⟩
/-- ETH.TX_TAIL, 11_clocks_timebase_network_time.md R340. -/
def ETH_TX_TAIL (n : Nat) : Nat := 0x40700028 + 0x10000 * n
def ETH_TX_TAIL_TAIL (n : Nat) : Fld := ⟨ETH_TX_TAIL n, 0, 8⟩
/-- ETH.RX_TAIL, 11_clocks_timebase_network_time.md R340. -/
def ETH_RX_TAIL (n : Nat) : Nat := 0x40700038 + 0x10000 * n
def ETH_RX_TAIL_TAIL (n : Nat) : Fld := ⟨ETH_RX_TAIL n, 0, 8⟩
/-- ETH.TX_HEAD, 11_clocks_timebase_network_time.md R340. -/
def ETH_TX_HEAD (n : Nat) : Nat := 0x4070002c + 0x10000 * n
def ETH_TX_HEAD_HEAD (n : Nat) : Fld := ⟨ETH_TX_HEAD n, 0, 8⟩
/-- ETH.RX_HEAD, 11_clocks_timebase_network_time.md R340. -/
def ETH_RX_HEAD (n : Nat) : Nat := 0x4070003c + 0x10000 * n
def ETH_RX_HEAD_HEAD (n : Nat) : Fld := ⟨ETH_RX_HEAD n, 0, 8⟩
/-- ETH.CNT, 11_clocks_timebase_network_time.md R340. -/
def ETH_CNT (n : Nat) : Nat := 0x40700040 + 0x10000 * n
def ETH_CNT_RX_DROP (n : Nat) : Fld := ⟨ETH_CNT n, 0, 16⟩
def ETH_CNT_FCS_ERR (n : Nat) : Fld := ⟨ETH_CNT n, 16, 16⟩
/-- ETH.CNT2, 11_clocks_timebase_network_time.md R340. -/
def ETH_CNT2 (n : Nat) : Nat := 0x40700044 + 0x10000 * n
def ETH_CNT2_FWD (n : Nat) : Fld := ⟨ETH_CNT2 n, 0, 16⟩
def ETH_CNT2_FWD_DROP (n : Nat) : Fld := ⟨ETH_CNT2 n, 16, 16⟩
/-- ETH.MS_CTL, 11_clocks_timebase_network_time.md R340. -/
def ETH_MS_CTL (n : Nat) : Nat := 0x40700100 + 0x10000 * n
def ETH_MS_CTL_EN (n : Nat) : Fld := ⟨ETH_MS_CTL n, 0, 1⟩
def ETH_MS_CTL_ENCRYPT (n : Nat) : Fld := ⟨ETH_MS_CTL n, 1, 1⟩
def ETH_MS_CTL_VALIDATE (n : Nat) : Fld := ⟨ETH_MS_CTL n, 2, 2⟩
def ETH_MS_CTL_REPLAY (n : Nat) : Fld := ⟨ETH_MS_CTL n, 4, 1⟩
def ETH_MS_CTL_INCL_SCI (n : Nat) : Fld := ⟨ETH_MS_CTL n, 5, 1⟩
def ETH_MS_CTL_TX_AN (n : Nat) : Fld := ⟨ETH_MS_CTL n, 6, 2⟩
/-- ETH.MS_WIN, 11_clocks_timebase_network_time.md R340. -/
def ETH_MS_WIN (n : Nat) : Nat := 0x40700104 + 0x10000 * n
def ETH_MS_WIN_WIN (n : Nat) : Fld := ⟨ETH_MS_WIN n, 0, 32⟩
/-- ETH.MS_TXSCI_LO, 11_clocks_timebase_network_time.md R340. -/
def ETH_MS_TXSCI_LO (n : Nat) : Nat := 0x40700108 + 0x10000 * n
def ETH_MS_TXSCI_LO_SCI (n : Nat) : Fld := ⟨ETH_MS_TXSCI_LO n, 0, 32⟩
/-- ETH.MS_TXSCI_HI, 11_clocks_timebase_network_time.md R340. -/
def ETH_MS_TXSCI_HI (n : Nat) : Nat := 0x4070010c + 0x10000 * n
def ETH_MS_TXSCI_HI_SCI (n : Nat) : Fld := ⟨ETH_MS_TXSCI_HI n, 0, 32⟩
/-- ETH.RX_SCI_LO, 11_clocks_timebase_network_time.md R340. -/
def ETH_RX_SCI_LO (n j : Nat) : Nat := 0x40700140 + 0x10000 * n + 0x40 * j
def ETH_RX_SCI_LO_SCI (n j : Nat) : Fld := ⟨ETH_RX_SCI_LO n j, 0, 32⟩
/-- ETH.RX_SCI_HI, 11_clocks_timebase_network_time.md R340. -/
def ETH_RX_SCI_HI (n j : Nat) : Nat := 0x40700144 + 0x10000 * n + 0x40 * j
def ETH_RX_SCI_HI_SCI (n j : Nat) : Fld := ⟨ETH_RX_SCI_HI n j, 0, 32⟩
/-- ETH.MS_TXSA, 11_clocks_timebase_network_time.md R340. -/
def ETH_MS_TXSA (n j : Nat) : Nat := 0x40700110 + 0x10000 * n + 0x4 * j
def ETH_MS_TXSA_KEY (n j : Nat) : Fld := ⟨ETH_MS_TXSA n j, 0, 4⟩
def ETH_MS_TXSA_EN (n j : Nat) : Fld := ⟨ETH_MS_TXSA n j, 4, 1⟩
/-- ETH.MS_TXPN, 11_clocks_timebase_network_time.md R340. -/
def ETH_MS_TXPN (n j : Nat) : Nat := 0x40700120 + 0x10000 * n + 0x4 * j
def ETH_MS_TXPN_NEXT_PN (n j : Nat) : Fld := ⟨ETH_MS_TXPN n j, 0, 32⟩
/-- ETH.RXEN, 11_clocks_timebase_network_time.md R340. -/
def ETH_RXEN (n j : Nat) : Nat := 0x40700148 + 0x10000 * n + 0x40 * j
def ETH_RXEN_EN (n j : Nat) : Fld := ⟨ETH_RXEN n j, 0, 1⟩
/-- ETH.MS_CNT, 11_clocks_timebase_network_time.md R340. -/
def ETH_MS_CNT (n : Nat) : Nat := 0x40700300 + 0x10000 * n
def ETH_MS_CNT_BAD (n : Nat) : Fld := ⟨ETH_MS_CNT n, 0, 16⟩
def ETH_MS_CNT_LATE (n : Nat) : Fld := ⟨ETH_MS_CNT n, 16, 16⟩
/-- ETH.MS_CNT2, 11_clocks_timebase_network_time.md R340. -/
def ETH_MS_CNT2 (n : Nat) : Nat := 0x40700304 + 0x10000 * n
def ETH_MS_CNT2_NOSA (n : Nat) : Fld := ⟨ETH_MS_CNT2 n, 0, 16⟩
def ETH_MS_CNT2_PN_EXH (n : Nat) : Fld := ⟨ETH_MS_CNT2 n, 16, 16⟩
/-- ETH.RXSA0, 11_clocks_timebase_network_time.md R340. -/
def ETH_RXSA0 (n j : Nat) : Nat := 0x40700150 + 0x10000 * n + 0x40 * j
def ETH_RXSA0_KEY (n j : Nat) : Fld := ⟨ETH_RXSA0 n j, 0, 4⟩
def ETH_RXSA0_EN (n j : Nat) : Fld := ⟨ETH_RXSA0 n j, 4, 1⟩
/-- ETH.RXLPN0, 11_clocks_timebase_network_time.md R340. -/
def ETH_RXLPN0 (n j : Nat) : Nat := 0x40700160 + 0x10000 * n + 0x40 * j
def ETH_RXLPN0_LOWEST_PN (n j : Nat) : Fld := ⟨ETH_RXLPN0 n j, 0, 32⟩
/-- ETH.RXSA1, 11_clocks_timebase_network_time.md R340. -/
def ETH_RXSA1 (n j : Nat) : Nat := 0x40700154 + 0x10000 * n + 0x40 * j
def ETH_RXSA1_KEY (n j : Nat) : Fld := ⟨ETH_RXSA1 n j, 0, 4⟩
def ETH_RXSA1_EN (n j : Nat) : Fld := ⟨ETH_RXSA1 n j, 4, 1⟩
/-- ETH.RXLPN1, 11_clocks_timebase_network_time.md R340. -/
def ETH_RXLPN1 (n j : Nat) : Nat := 0x40700164 + 0x10000 * n + 0x40 * j
def ETH_RXLPN1_LOWEST_PN (n j : Nat) : Fld := ⟨ETH_RXLPN1 n j, 0, 32⟩
/-- ETH.RXSA2, 11_clocks_timebase_network_time.md R340. -/
def ETH_RXSA2 (n j : Nat) : Nat := 0x40700158 + 0x10000 * n + 0x40 * j
def ETH_RXSA2_KEY (n j : Nat) : Fld := ⟨ETH_RXSA2 n j, 0, 4⟩
def ETH_RXSA2_EN (n j : Nat) : Fld := ⟨ETH_RXSA2 n j, 4, 1⟩
/-- ETH.RXLPN2, 11_clocks_timebase_network_time.md R340. -/
def ETH_RXLPN2 (n j : Nat) : Nat := 0x40700168 + 0x10000 * n + 0x40 * j
def ETH_RXLPN2_LOWEST_PN (n j : Nat) : Fld := ⟨ETH_RXLPN2 n j, 0, 32⟩
/-- ETH.RXSA3, 11_clocks_timebase_network_time.md R340. -/
def ETH_RXSA3 (n j : Nat) : Nat := 0x4070015c + 0x10000 * n + 0x40 * j
def ETH_RXSA3_KEY (n j : Nat) : Fld := ⟨ETH_RXSA3 n j, 0, 4⟩
def ETH_RXSA3_EN (n j : Nat) : Fld := ⟨ETH_RXSA3 n j, 4, 1⟩
/-- ETH.RXLPN3, 11_clocks_timebase_network_time.md R340. -/
def ETH_RXLPN3 (n j : Nat) : Nat := 0x4070016c + 0x10000 * n + 0x40 * j
def ETH_RXLPN3_LOWEST_PN (n j : Nat) : Fld := ⟨ETH_RXLPN3 n j, 0, 32⟩

/-- PTP.CFG, 11_clocks_timebase_network_time.md R341. -/
def PTP_CFG : Nat := 0x40720000
def PTP_CFG_EN : Fld := ⟨PTP_CFG, 0, 1⟩
def PTP_CFG_TC_EN : Fld := ⟨PTP_CFG, 1, 1⟩
def PTP_CFG_TC_MODE : Fld := ⟨PTP_CFG, 2, 1⟩
/-- PTP.PDLY, 11_clocks_timebase_network_time.md R341. -/
def PTP_PDLY (j : Nat) : Nat := 0x40720010 + 0x10 * j
def PTP_PDLY_D (j : Nat) : Fld := ⟨PTP_PDLY j, 0, 24⟩
def PTP_PDLY_VALID (j : Nat) : Fld := ⟨PTP_PDLY j, 31, 1⟩
/-- PTP.PDLY_USE, 11_clocks_timebase_network_time.md R341. -/
def PTP_PDLY_USE (j : Nat) : Nat := 0x40720014 + 0x10 * j
def PTP_PDLY_USE_D (j : Nat) : Fld := ⟨PTP_PDLY_USE j, 0, 24⟩
/-- PTP.PCNT, 11_clocks_timebase_network_time.md R341. -/
def PTP_PCNT (j : Nat) : Nat := 0x40720018 + 0x10 * j
def PTP_PCNT_PD_TO (j : Nat) : Fld := ⟨PTP_PCNT j, 0, 16⟩
def PTP_PCNT_PD_DONE (j : Nat) : Fld := ⟨PTP_PCNT j, 16, 16⟩
/-- PTP.CNT, 11_clocks_timebase_network_time.md R341. -/
def PTP_CNT : Nat := 0x40720040
def PTP_CNT_TC_CORR : Fld := ⟨PTP_CNT, 0, 16⟩
def PTP_CNT_NOCORR : Fld := ⟨PTP_CNT, 16, 16⟩

/-- CAN.CTL, 18_can_fd.md R490. -/
def CAN_CTL (n : Nat) : Nat := 0x40800000 + 0x10000 * n
def CAN_CTL_INIT (n : Nat) : Fld := ⟨CAN_CTL n, 0, 1⟩
def CAN_CTL_MODE (n : Nat) : Fld := ⟨CAN_CTL n, 1, 2⟩
def CAN_CTL_FDOE (n : Nat) : Fld := ⟨CAN_CTL n, 3, 1⟩
def CAN_CTL_BRSE (n : Nat) : Fld := ⟨CAN_CTL n, 4, 1⟩
def CAN_CTL_ABO (n : Nat) : Fld := ⟨CAN_CTL n, 5, 1⟩
def CAN_CTL_PXHD (n : Nat) : Fld := ⟨CAN_CTL n, 6, 1⟩
def CAN_CTL_SAM (n : Nat) : Fld := ⟨CAN_CTL n, 7, 1⟩
def CAN_CTL_RECOVER (n : Nat) : Fld := ⟨CAN_CTL n, 8, 1⟩
/-- CAN.STAT, 18_can_fd.md R490. -/
def CAN_STAT (n : Nat) : Nat := 0x40800004 + 0x10000 * n
def CAN_STAT_STATE (n : Nat) : Fld := ⟨CAN_STAT n, 0, 2⟩
def CAN_STAT_RECOV (n : Nat) : Fld := ⟨CAN_STAT n, 2, 1⟩
def CAN_STAT_ACT (n : Nat) : Fld := ⟨CAN_STAT n, 3, 2⟩
def CAN_STAT_SAM_IGN (n : Nat) : Fld := ⟨CAN_STAT n, 5, 1⟩
def CAN_STAT_PXE (n : Nat) : Fld := ⟨CAN_STAT n, 6, 1⟩
def CAN_STAT_CLKSTOP (n : Nat) : Fld := ⟨CAN_STAT n, 7, 1⟩
def CAN_STAT_PEND (n : Nat) : Fld := ⟨CAN_STAT n, 8, 7⟩
/-- CAN.ECNT, 18_can_fd.md R490. -/
def CAN_ECNT (n : Nat) : Nat := 0x40800008 + 0x10000 * n
def CAN_ECNT_TEC (n : Nat) : Fld := ⟨CAN_ECNT n, 0, 8⟩
def CAN_ECNT_REC (n : Nat) : Fld := ⟨CAN_ECNT n, 8, 7⟩
def CAN_ECNT_RP (n : Nat) : Fld := ⟨CAN_ECNT n, 15, 1⟩
def CAN_ECNT_BOC (n : Nat) : Fld := ⟨CAN_ECNT n, 16, 8⟩
/-- CAN.NBT, 18_can_fd.md R490. -/
def CAN_NBT (n : Nat) : Nat := 0x4080000c + 0x10000 * n
def CAN_NBT_NBRP (n : Nat) : Fld := ⟨CAN_NBT n, 0, 8⟩
def CAN_NBT_NTSEG1 (n : Nat) : Fld := ⟨CAN_NBT n, 8, 8⟩
def CAN_NBT_NSJW (n : Nat) : Fld := ⟨CAN_NBT n, 16, 7⟩
def CAN_NBT_NTSEG2 (n : Nat) : Fld := ⟨CAN_NBT n, 24, 7⟩
/-- CAN.DBT, 18_can_fd.md R490. -/
def CAN_DBT (n : Nat) : Nat := 0x40800010 + 0x10000 * n
def CAN_DBT_DBRP (n : Nat) : Fld := ⟨CAN_DBT n, 0, 5⟩
def CAN_DBT_DTSEG1 (n : Nat) : Fld := ⟨CAN_DBT n, 8, 5⟩
def CAN_DBT_DTSEG2 (n : Nat) : Fld := ⟨CAN_DBT n, 16, 4⟩
def CAN_DBT_DSJW (n : Nat) : Fld := ⟨CAN_DBT n, 24, 4⟩
/-- CAN.TDC, 18_can_fd.md R490. -/
def CAN_TDC (n : Nat) : Nat := 0x40800014 + 0x10000 * n
def CAN_TDC_TDCO (n : Nat) : Fld := ⟨CAN_TDC n, 0, 7⟩
def CAN_TDC_TDCF (n : Nat) : Fld := ⟨CAN_TDC n, 8, 7⟩
def CAN_TDC_EN (n : Nat) : Fld := ⟨CAN_TDC n, 15, 1⟩
def CAN_TDC_TDCV (n : Nat) : Fld := ⟨CAN_TDC n, 16, 7⟩
/-- CAN.TSC, 18_can_fd.md R490. -/
def CAN_TSC (n : Nat) : Nat := 0x40800018 + 0x10000 * n
def CAN_TSC_TSPRE (n : Nat) : Fld := ⟨CAN_TSC n, 0, 8⟩
def CAN_TSC_EN (n : Nat) : Fld := ⟨CAN_TSC n, 8, 1⟩
/-- CAN.TSCNT, 18_can_fd.md R490. -/
def CAN_TSCNT (n : Nat) : Nat := 0x4080001c + 0x10000 * n
def CAN_TSCNT_COUNT (n : Nat) : Fld := ⟨CAN_TSCNT n, 0, 32⟩
/-- CAN.TSCAP, 18_can_fd.md R490. -/
def CAN_TSCAP (n : Nat) : Nat := 0x40800020 + 0x10000 * n
def CAN_TSCAP_GO (n : Nat) : Fld := ⟨CAN_TSCAP n, 0, 1⟩
def CAN_TSCAP_SRC (n : Nat) : Fld := ⟨CAN_TSCAP n, 1, 1⟩
def CAN_TSCAP_TT (n : Nat) : Fld := ⟨CAN_TSCAP n, 2, 5⟩
def CAN_TSCAP_DONE (n : Nat) : Fld := ⟨CAN_TSCAP n, 7, 1⟩
/-- CAN.CAP_CNT, 18_can_fd.md R490. -/
def CAN_CAP_CNT (n : Nat) : Nat := 0x40800024 + 0x10000 * n
def CAN_CAP_CNT_CNT_VAL (n : Nat) : Fld := ⟨CAN_CAP_CNT n, 0, 32⟩
/-- CAN.CAP_NS, 18_can_fd.md R490. -/
def CAN_CAP_NS (n : Nat) : Nat := 0x40800028 + 0x10000 * n
def CAN_CAP_NS_NS (n : Nat) : Fld := ⟨CAN_CAP_NS n, 0, 30⟩
def CAN_CAP_NS_S (n : Nat) : Fld := ⟨CAN_CAP_NS n, 30, 2⟩
/-- CAN.CAP_SEC, 18_can_fd.md R490. -/
def CAN_CAP_SEC (n : Nat) : Nat := 0x4080002c + 0x10000 * n
def CAN_CAP_SEC_SEC (n : Nat) : Fld := ⟨CAN_CAP_SEC n, 0, 32⟩
/-- CAN.IR, 18_can_fd.md R490. -/
def CAN_IR (n : Nat) : Nat := 0x40800030 + 0x10000 * n
def CAN_IR_IR (n : Nat) : Fld := ⟨CAN_IR n, 0, 9⟩
/-- CAN.IE, 18_can_fd.md R490. -/
def CAN_IE (n : Nat) : Nat := 0x40800034 + 0x10000 * n
def CAN_IE_IE (n : Nat) : Fld := ⟨CAN_IE n, 0, 9⟩
/-- CAN.CNT, 18_can_fd.md R490. -/
def CAN_CNT (n : Nat) : Nat := 0x40800038 + 0x10000 * n
def CAN_CNT_TX_OK (n : Nat) : Fld := ⟨CAN_CNT n, 0, 16⟩
def CAN_CNT_TX_CANC (n : Nat) : Fld := ⟨CAN_CNT n, 16, 16⟩
/-- CAN.CNT2, 18_can_fd.md R490. -/
def CAN_CNT2 (n : Nat) : Nat := 0x4080003c + 0x10000 * n
def CAN_CNT2_RX_OK (n : Nat) : Fld := ⟨CAN_CNT2 n, 0, 16⟩
def CAN_CNT2_NOMATCH (n : Nat) : Fld := ⟨CAN_CNT2 n, 16, 16⟩
/-- CAN.CNT3, 18_can_fd.md R490. -/
def CAN_CNT3 (n : Nat) : Nat := 0x40800040 + 0x10000 * n
def CAN_CNT3_ERR (n : Nat) : Fld := ⟨CAN_CNT3 n, 0, 16⟩
def CAN_CNT3_ARB_LOST (n : Nat) : Fld := ⟨CAN_CNT3 n, 16, 16⟩
/-- CAN.OBJ_OCFG, 18_can_fd.md R490. -/
def CAN_OBJ_OCFG (n j : Nat) : Nat := 0x40801000 + 0x10000 * n + 0x80 * j
def CAN_OBJ_OCFG_EN (n j : Nat) : Fld := ⟨CAN_OBJ_OCFG n j, 0, 1⟩
def CAN_OBJ_OCFG_DIR (n j : Nat) : Fld := ⟨CAN_OBJ_OCFG n j, 1, 1⟩
def CAN_OBJ_OCFG_XTD (n j : Nat) : Fld := ⟨CAN_OBJ_OCFG n j, 2, 1⟩
def CAN_OBJ_OCFG_FDF (n j : Nat) : Fld := ⟨CAN_OBJ_OCFG n j, 3, 1⟩
def CAN_OBJ_OCFG_BRS (n j : Nat) : Fld := ⟨CAN_OBJ_OCFG n j, 4, 1⟩
def CAN_OBJ_OCFG_RTR (n j : Nat) : Fld := ⟨CAN_OBJ_OCFG n j, 5, 1⟩
def CAN_OBJ_OCFG_DLC (n j : Nat) : Fld := ⟨CAN_OBJ_OCFG n j, 8, 4⟩
/-- CAN.OBJ_OID, 18_can_fd.md R490. -/
def CAN_OBJ_OID (n j : Nat) : Nat := 0x40801004 + 0x10000 * n + 0x80 * j
def CAN_OBJ_OID_ID (n j : Nat) : Fld := ⟨CAN_OBJ_OID n j, 0, 29⟩
/-- CAN.OBJ_OMASK, 18_can_fd.md R490. -/
def CAN_OBJ_OMASK (n j : Nat) : Nat := 0x40801008 + 0x10000 * n + 0x80 * j
def CAN_OBJ_OMASK_MASK (n j : Nat) : Fld := ⟨CAN_OBJ_OMASK n j, 0, 29⟩
def CAN_OBJ_OMASK_MFDF (n j : Nat) : Fld := ⟨CAN_OBJ_OMASK n j, 30, 1⟩
/-- CAN.OBJ_RXS, 18_can_fd.md R490. -/
def CAN_OBJ_RXS (n j : Nat) : Nat := 0x4080100c + 0x10000 * n + 0x80 * j
def CAN_OBJ_RXS_NEWDAT (n j : Nat) : Fld := ⟨CAN_OBJ_RXS n j, 0, 1⟩
def CAN_OBJ_RXS_MSGLST (n j : Nat) : Fld := ⟨CAN_OBJ_RXS n j, 1, 1⟩
def CAN_OBJ_RXS_ESI (n j : Nat) : Fld := ⟨CAN_OBJ_RXS n j, 2, 1⟩
def CAN_OBJ_RXS_RFDF (n j : Nat) : Fld := ⟨CAN_OBJ_RXS n j, 8, 1⟩
def CAN_OBJ_RXS_RBRS (n j : Nat) : Fld := ⟨CAN_OBJ_RXS n j, 9, 1⟩
def CAN_OBJ_RXS_RXTD (n j : Nat) : Fld := ⟨CAN_OBJ_RXS n j, 10, 1⟩
def CAN_OBJ_RXS_RRTR (n j : Nat) : Fld := ⟨CAN_OBJ_RXS n j, 11, 1⟩
def CAN_OBJ_RXS_RDLC (n j : Nat) : Fld := ⟨CAN_OBJ_RXS n j, 4, 4⟩
/-- CAN.OBJ_TXS, 18_can_fd.md R490. -/
def CAN_OBJ_TXS (n j : Nat) : Nat := 0x40801010 + 0x10000 * n + 0x80 * j
def CAN_OBJ_TXS_TXREQ (n j : Nat) : Fld := ⟨CAN_OBJ_TXS n j, 0, 1⟩
def CAN_OBJ_TXS_CANC_PEND (n j : Nat) : Fld := ⟨CAN_OBJ_TXS n j, 3, 1⟩
def CAN_OBJ_TXS_TRANSMITTED (n j : Nat) : Fld := ⟨CAN_OBJ_TXS n j, 1, 1⟩
def CAN_OBJ_TXS_CANCELLED (n j : Nat) : Fld := ⟨CAN_OBJ_TXS n j, 2, 1⟩
def CAN_OBJ_TXS_WCOLL (n j : Nat) : Fld := ⟨CAN_OBJ_TXS n j, 4, 1⟩
/-- CAN.OBJ_OCTL, 18_can_fd.md R490. -/
def CAN_OBJ_OCTL (n j : Nat) : Nat := 0x40801014 + 0x10000 * n + 0x80 * j
def CAN_OBJ_OCTL_SETREQ (n j : Nat) : Fld := ⟨CAN_OBJ_OCTL n j, 0, 1⟩
def CAN_OBJ_OCTL_CANCEL (n j : Nat) : Fld := ⟨CAN_OBJ_OCTL n j, 1, 1⟩
/-- CAN.OBJ_STAMP, 18_can_fd.md R490. -/
def CAN_OBJ_STAMP (n j : Nat) : Nat := 0x40801018 + 0x10000 * n + 0x80 * j
def CAN_OBJ_STAMP_STAMP (n j : Nat) : Fld := ⟨CAN_OBJ_STAMP n j, 0, 32⟩
/-- CAN.OBJ_RXID, 18_can_fd.md R490. -/
def CAN_OBJ_RXID (n j : Nat) : Nat := 0x4080101c + 0x10000 * n + 0x80 * j
def CAN_OBJ_RXID_ID (n j : Nat) : Fld := ⟨CAN_OBJ_RXID n j, 0, 29⟩
/-- CAN.OBJ_DATA0, 18_can_fd.md R490. -/
def CAN_OBJ_DATA0 (n j : Nat) : Nat := 0x40801020 + 0x10000 * n + 0x80 * j
def CAN_OBJ_DATA0_BYTES (n j : Nat) : Fld := ⟨CAN_OBJ_DATA0 n j, 0, 32⟩
/-- CAN.OBJ_DATA1, 18_can_fd.md R490. -/
def CAN_OBJ_DATA1 (n j : Nat) : Nat := 0x40801024 + 0x10000 * n + 0x80 * j
def CAN_OBJ_DATA1_BYTES (n j : Nat) : Fld := ⟨CAN_OBJ_DATA1 n j, 0, 32⟩
/-- CAN.OBJ_DATA2, 18_can_fd.md R490. -/
def CAN_OBJ_DATA2 (n j : Nat) : Nat := 0x40801028 + 0x10000 * n + 0x80 * j
def CAN_OBJ_DATA2_BYTES (n j : Nat) : Fld := ⟨CAN_OBJ_DATA2 n j, 0, 32⟩
/-- CAN.OBJ_DATA3, 18_can_fd.md R490. -/
def CAN_OBJ_DATA3 (n j : Nat) : Nat := 0x4080102c + 0x10000 * n + 0x80 * j
def CAN_OBJ_DATA3_BYTES (n j : Nat) : Fld := ⟨CAN_OBJ_DATA3 n j, 0, 32⟩
/-- CAN.OBJ_DATA4, 18_can_fd.md R490. -/
def CAN_OBJ_DATA4 (n j : Nat) : Nat := 0x40801030 + 0x10000 * n + 0x80 * j
def CAN_OBJ_DATA4_BYTES (n j : Nat) : Fld := ⟨CAN_OBJ_DATA4 n j, 0, 32⟩
/-- CAN.OBJ_DATA5, 18_can_fd.md R490. -/
def CAN_OBJ_DATA5 (n j : Nat) : Nat := 0x40801034 + 0x10000 * n + 0x80 * j
def CAN_OBJ_DATA5_BYTES (n j : Nat) : Fld := ⟨CAN_OBJ_DATA5 n j, 0, 32⟩
/-- CAN.OBJ_DATA6, 18_can_fd.md R490. -/
def CAN_OBJ_DATA6 (n j : Nat) : Nat := 0x40801038 + 0x10000 * n + 0x80 * j
def CAN_OBJ_DATA6_BYTES (n j : Nat) : Fld := ⟨CAN_OBJ_DATA6 n j, 0, 32⟩
/-- CAN.OBJ_DATA7, 18_can_fd.md R490. -/
def CAN_OBJ_DATA7 (n j : Nat) : Nat := 0x4080103c + 0x10000 * n + 0x80 * j
def CAN_OBJ_DATA7_BYTES (n j : Nat) : Fld := ⟨CAN_OBJ_DATA7 n j, 0, 32⟩
/-- CAN.OBJ_DATA8, 18_can_fd.md R490. -/
def CAN_OBJ_DATA8 (n j : Nat) : Nat := 0x40801040 + 0x10000 * n + 0x80 * j
def CAN_OBJ_DATA8_BYTES (n j : Nat) : Fld := ⟨CAN_OBJ_DATA8 n j, 0, 32⟩
/-- CAN.OBJ_DATA9, 18_can_fd.md R490. -/
def CAN_OBJ_DATA9 (n j : Nat) : Nat := 0x40801044 + 0x10000 * n + 0x80 * j
def CAN_OBJ_DATA9_BYTES (n j : Nat) : Fld := ⟨CAN_OBJ_DATA9 n j, 0, 32⟩
/-- CAN.OBJ_DATA10, 18_can_fd.md R490. -/
def CAN_OBJ_DATA10 (n j : Nat) : Nat := 0x40801048 + 0x10000 * n + 0x80 * j
def CAN_OBJ_DATA10_BYTES (n j : Nat) : Fld := ⟨CAN_OBJ_DATA10 n j, 0, 32⟩
/-- CAN.OBJ_DATA11, 18_can_fd.md R490. -/
def CAN_OBJ_DATA11 (n j : Nat) : Nat := 0x4080104c + 0x10000 * n + 0x80 * j
def CAN_OBJ_DATA11_BYTES (n j : Nat) : Fld := ⟨CAN_OBJ_DATA11 n j, 0, 32⟩
/-- CAN.OBJ_DATA12, 18_can_fd.md R490. -/
def CAN_OBJ_DATA12 (n j : Nat) : Nat := 0x40801050 + 0x10000 * n + 0x80 * j
def CAN_OBJ_DATA12_BYTES (n j : Nat) : Fld := ⟨CAN_OBJ_DATA12 n j, 0, 32⟩
/-- CAN.OBJ_DATA13, 18_can_fd.md R490. -/
def CAN_OBJ_DATA13 (n j : Nat) : Nat := 0x40801054 + 0x10000 * n + 0x80 * j
def CAN_OBJ_DATA13_BYTES (n j : Nat) : Fld := ⟨CAN_OBJ_DATA13 n j, 0, 32⟩
/-- CAN.OBJ_DATA14, 18_can_fd.md R490. -/
def CAN_OBJ_DATA14 (n j : Nat) : Nat := 0x40801058 + 0x10000 * n + 0x80 * j
def CAN_OBJ_DATA14_BYTES (n j : Nat) : Fld := ⟨CAN_OBJ_DATA14 n j, 0, 32⟩
/-- CAN.OBJ_DATA15, 18_can_fd.md R490. -/
def CAN_OBJ_DATA15 (n j : Nat) : Nat := 0x4080105c + 0x10000 * n + 0x80 * j
def CAN_OBJ_DATA15_BYTES (n j : Nat) : Fld := ⟨CAN_OBJ_DATA15 n j, 0, 32⟩

/-- SADL.CFG, 12_redundant_pair.md R365. -/
def SADL_CFG : Nat := 0x40900000
def SADL_CFG_EN : Fld := ⟨SADL_CFG, 0, 1⟩
def SADL_CFG_TKO_EN : Fld := ⟨SADL_CFG, 1, 1⟩
def SADL_CFG_MISS : Fld := ⟨SADL_CFG, 4, 3⟩
def SADL_CFG_HB_MISS : Fld := ⟨SADL_CFG, 8, 3⟩
def SADL_CFG_HOLD : Fld := ⟨SADL_CFG, 16, 16⟩
/-- SADL.CTL, 12_redundant_pair.md R365. -/
def SADL_CTL : Nat := 0x40900004
def SADL_CTL_TAKE : Fld := ⟨SADL_CTL, 0, 1⟩
def SADL_CTL_YIELD : Fld := ⟨SADL_CTL, 1, 1⟩
/-- SADL.STAT, 12_redundant_pair.md R365. -/
def SADL_STAT : Nat := 0x40900008
def SADL_STAT_ROLE : Fld := ⟨SADL_STAT, 0, 2⟩
def SADL_STAT_HB_OK : Fld := ⟨SADL_STAT, 2, 1⟩
def SADL_STAT_TALIGN : Fld := ⟨SADL_STAT, 3, 1⟩
def SADL_STAT_READY : Fld := ⟨SADL_STAT, 4, 1⟩
def SADL_STAT_DIVERGED : Fld := ⟨SADL_STAT, 5, 1⟩
def SADL_STAT_TAKE_REF : Fld := ⟨SADL_STAT, 6, 1⟩
def SADL_STAT_HOLD_ACT : Fld := ⟨SADL_STAT, 7, 1⟩
def SADL_STAT_LANES : Fld := ⟨SADL_STAT, 8, 4⟩
def SADL_STAT_YIELD_RX : Fld := ⟨SADL_STAT, 12, 1⟩
def SADL_STAT_YIELD_TX : Fld := ⟨SADL_STAT, 13, 1⟩
def SADL_STAT_LOOPED : Fld := ⟨SADL_STAT, 14, 1⟩
/-- SADL.EPOCH, 12_redundant_pair.md R365. -/
def SADL_EPOCH : Nat := 0x4090000c
def SADL_EPOCH_EPOCH : Fld := ⟨SADL_EPOCH, 0, 32⟩
/-- SADL.P_EPOCH, 12_redundant_pair.md R365. -/
def SADL_P_EPOCH : Nat := 0x40900010
def SADL_P_EPOCH_EPOCH : Fld := ⟨SADL_P_EPOCH, 0, 32⟩
/-- SADL.P_ID, 12_redundant_pair.md R365. -/
def SADL_P_ID : Nat := 0x40900014
def SADL_P_ID_DEVID : Fld := ⟨SADL_P_ID, 0, 16⟩
def SADL_P_ID_STATE : Fld := ⟨SADL_P_ID, 16, 3⟩
def SADL_P_ID_ROLE : Fld := ⟨SADL_P_ID, 19, 2⟩
def SADL_P_ID_VALID : Fld := ⟨SADL_P_ID, 21, 1⟩
/-- SADL.TOFS, 12_redundant_pair.md R365. -/
def SADL_TOFS : Nat := 0x40900018
def SADL_TOFS_OFS : Fld := ⟨SADL_TOFS, 0, 24⟩
def SADL_TOFS_RING : Fld := ⟨SADL_TOFS, 30, 1⟩
def SADL_TOFS_VALID : Fld := ⟨SADL_TOFS, 31, 1⟩
/-- SADL.TKO_LOG, 12_redundant_pair.md R365. -/
def SADL_TKO_LOG : Nat := 0x4090001c
def SADL_TKO_LOG_FRAME : Fld := ⟨SADL_TKO_LOG, 0, 32⟩
/-- SADL.TKO_CAUSE, 12_redundant_pair.md R365. -/
def SADL_TKO_CAUSE : Nat := 0x40900020
def SADL_TKO_CAUSE_CAUSE : Fld := ⟨SADL_TKO_CAUSE, 0, 3⟩
def SADL_TKO_CAUSE_CHAIN : Fld := ⟨SADL_TKO_CAUSE, 3, 5⟩
/-- SADL.CNT, 12_redundant_pair.md R365. -/
def SADL_CNT : Nat := 0x40900024
def SADL_CNT_TAKEOVERS : Fld := ⟨SADL_CNT, 0, 16⟩
def SADL_CNT_DEMOTIONS : Fld := ⟨SADL_CNT, 16, 16⟩
/-- SADL.CNT2, 12_redundant_pair.md R365. -/
def SADL_CNT2 : Nat := 0x40900028
def SADL_CNT2_HB_LOSS : Fld := ⟨SADL_CNT2, 0, 16⟩
def SADL_CNT2_DIG_MIS : Fld := ⟨SADL_CNT2, 16, 16⟩
/-- SADL.CNT3, 12_redundant_pair.md R365. -/
def SADL_CNT3 : Nat := 0x4090002c
def SADL_CNT3_MIR_DROP : Fld := ⟨SADL_CNT3, 0, 16⟩
def SADL_CNT3_SLOT_ERR : Fld := ⟨SADL_CNT3, 16, 16⟩
/-- SADL.DIG, 12_redundant_pair.md R365. -/
def SADL_DIG : Nat := 0x40900030
def SADL_DIG_LIM : Fld := ⟨SADL_DIG, 0, 8⟩
/-- SADL.MIR, 12_redundant_pair.md R365. -/
def SADL_MIR (j : Nat) : Nat := 0x40900100 + 0x4 * j
def SADL_MIR_LADDR (j : Nat) : Fld := ⟨SADL_MIR j, 0, 16⟩
def SADL_MIR_LEN (j : Nat) : Fld := ⟨SADL_MIR j, 16, 6⟩
def SADL_MIR_ENG (j : Nat) : Fld := ⟨SADL_MIR j, 22, 4⟩
def SADL_MIR_SLOT (j : Nat) : Fld := ⟨SADL_MIR j, 26, 3⟩
def SADL_MIR_EN (j : Nat) : Fld := ⟨SADL_MIR j, 29, 1⟩
/-- SADL.PTRANS, 12_redundant_pair.md R365. -/
def SADL_PTRANS (j : Nat) : Nat := 0x40900200 + 0x4 * j
def SADL_PTRANS_T (j : Nat) : Fld := ⟨SADL_PTRANS j, 0, 24⟩
def SADL_PTRANS_VALID (j : Nat) : Fld := ⟨SADL_PTRANS j, 31, 1⟩

/-- TRC.CTL, 19_host_interface_and_trace.md R508. -/
def TRC_CTL : Nat := 0x40a00000
def TRC_CTL_MODE : Fld := ⟨TRC_CTL, 0, 2⟩
def TRC_CTL_ARM : Fld := ⟨TRC_CTL, 2, 1⟩
def TRC_CTL_STOP : Fld := ⟨TRC_CTL, 3, 1⟩
def TRC_CTL_FORCE : Fld := ⟨TRC_CTL, 4, 1⟩
/-- TRC.TRIG, 19_host_interface_and_trace.md R508. -/
def TRC_TRIG : Nat := 0x40a00004
def TRC_TRIG_SRC : Fld := ⟨TRC_TRIG, 0, 2⟩
def TRC_TRIG_SEL : Fld := ⟨TRC_TRIG, 2, 5⟩
def TRC_TRIG_MINSEV : Fld := ⟨TRC_TRIG, 8, 3⟩
def TRC_TRIG_CLASSES : Fld := ⟨TRC_TRIG, 16, 13⟩
/-- TRC.PRE, 19_host_interface_and_trace.md R508. -/
def TRC_PRE : Nat := 0x40a00008
def TRC_PRE_N : Fld := ⟨TRC_PRE, 0, 20⟩
/-- TRC.POST, 19_host_interface_and_trace.md R508. -/
def TRC_POST : Nat := 0x40a0000c
def TRC_POST_N : Fld := ⟨TRC_POST, 0, 20⟩
/-- TRC.STAT, 19_host_interface_and_trace.md R508. -/
def TRC_STAT : Nat := 0x40a00010
def TRC_STAT_STATE : Fld := ⟨TRC_STAT, 0, 2⟩
def TRC_STAT_WRAP : Fld := ⟨TRC_STAT, 2, 1⟩
def TRC_STAT_DONE : Fld := ⟨TRC_STAT, 3, 1⟩
/-- TRC.WPTR, 19_host_interface_and_trace.md R508. -/
def TRC_WPTR : Nat := 0x40a00014
def TRC_WPTR_IDX : Fld := ⟨TRC_WPTR, 0, 20⟩
/-- TRC.TRIG_IDX, 19_host_interface_and_trace.md R508. -/
def TRC_TRIG_IDX : Nat := 0x40a00018
def TRC_TRIG_IDX_IDX : Fld := ⟨TRC_TRIG_IDX, 0, 20⟩
def TRC_TRIG_IDX_VALID : Fld := ⟨TRC_TRIG_IDX, 31, 1⟩
/-- TRC.CNT, 19_host_interface_and_trace.md R508. -/
def TRC_CNT : Nat := 0x40a0001c
def TRC_CNT_DROP : Fld := ⟨TRC_CNT, 0, 16⟩
def TRC_CNT_IGN : Fld := ⟨TRC_CNT, 16, 16⟩
/-- TRC.STR_BASE_LO, 19_host_interface_and_trace.md R508. -/
def TRC_STR_BASE_LO : Nat := 0x40a00040
def TRC_STR_BASE_LO_ADDR : Fld := ⟨TRC_STR_BASE_LO, 12, 20⟩
/-- TRC.STR_BASE_HI, 19_host_interface_and_trace.md R508. -/
def TRC_STR_BASE_HI : Nat := 0x40a00044
def TRC_STR_BASE_HI_ADDR : Fld := ⟨TRC_STR_BASE_HI, 0, 32⟩
/-- TRC.STR_PAGES, 19_host_interface_and_trace.md R508. -/
def TRC_STR_PAGES : Nat := 0x40a00048
def TRC_STR_PAGES_N : Fld := ⟨TRC_STR_PAGES, 0, 19⟩
/-- TRC.STR_CREDIT, 19_host_interface_and_trace.md R508. -/
def TRC_STR_CREDIT : Nat := 0x40a0004c
def TRC_STR_CREDIT_ADD : Fld := ⟨TRC_STR_CREDIT, 0, 19⟩
/-- TRC.STR_HELD, 19_host_interface_and_trace.md R508. -/
def TRC_STR_HELD : Nat := 0x40a00050
def TRC_STR_HELD_N : Fld := ⟨TRC_STR_HELD, 0, 19⟩
/-- TRC.STR_GRANT, 19_host_interface_and_trace.md R508. -/
def TRC_STR_GRANT : Nat := 0x40a00054
def TRC_STR_GRANT_N : Fld := ⟨TRC_STR_GRANT, 0, 32⟩
/-- TRC.STR_DONE, 19_host_interface_and_trace.md R508. -/
def TRC_STR_DONE : Nat := 0x40a00058
def TRC_STR_DONE_N : Fld := ⟨TRC_STR_DONE, 0, 32⟩
/-- TRC.STR_WPTR_LO, 19_host_interface_and_trace.md R508. -/
def TRC_STR_WPTR_LO : Nat := 0x40a0005c
def TRC_STR_WPTR_LO_ADDR : Fld := ⟨TRC_STR_WPTR_LO, 3, 29⟩
/-- TRC.STR_WPTR_HI, 19_host_interface_and_trace.md R508. -/
def TRC_STR_WPTR_HI : Nat := 0x40a00060
def TRC_STR_WPTR_HI_ADDR : Fld := ⟨TRC_STR_WPTR_HI, 0, 32⟩
/-- TRC.STR_RATE, 19_host_interface_and_trace.md R508. -/
def TRC_STR_RATE : Nat := 0x40a00064
def TRC_STR_RATE_MBPS : Fld := ⟨TRC_STR_RATE, 0, 12⟩
/-- TRC.STR_LOW, 19_host_interface_and_trace.md R508. -/
def TRC_STR_LOW : Nat := 0x40a00068
def TRC_STR_LOW_N : Fld := ⟨TRC_STR_LOW, 0, 18⟩
/-- TRC.STR_DROP, 19_host_interface_and_trace.md R508. -/
def TRC_STR_DROP : Nat := 0x40a0006c
def TRC_STR_DROP_N : Fld := ⟨TRC_STR_DROP, 0, 32⟩
/-- TRC.STR_STAT, 19_host_interface_and_trace.md R508. -/
def TRC_STR_STAT : Nat := 0x40a00070
def TRC_STR_STAT_CREDIT_ERR : Fld := ⟨TRC_STR_STAT, 0, 8⟩
def TRC_STR_STAT_QDROP : Fld := ⟨TRC_STR_STAT, 8, 8⟩
def TRC_STR_STAT_RDROP : Fld := ⟨TRC_STR_STAT, 16, 16⟩
/-- TRC.PROBE, 19_host_interface_and_trace.md R508. -/
def TRC_PROBE (j : Nat) : Nat := 0x40a00100 + 0x4 * j
def TRC_PROBE_SRC (j : Nat) : Fld := ⟨TRC_PROBE j, 0, 2⟩
def TRC_PROBE_EN (j : Nat) : Fld := ⟨TRC_PROBE j, 2, 1⟩
def TRC_PROBE_STREAM (j : Nat) : Fld := ⟨TRC_PROBE j, 3, 1⟩
def TRC_PROBE_CELL (j : Nat) : Fld := ⟨TRC_PROBE j, 4, 8⟩
def TRC_PROBE_WORD (j : Nat) : Fld := ⟨TRC_PROBE j, 12, 5⟩

/-- SAFE.STATE, 14_safety_island.md R407. -/
def SAFE_STATE : Nat := 0x40b00000
def SAFE_STATE_STATE : Fld := ⟨SAFE_STATE, 0, 3⟩
def SAFE_STATE_TOKENS : Fld := ⟨SAFE_STATE, 3, 1⟩
def SAFE_STATE_SOK : Fld := ⟨SAFE_STATE, 4, 1⟩
def SAFE_STATE_PROOF_DUE : Fld := ⟨SAFE_STATE, 5, 1⟩
def SAFE_STATE_JAMMED : Fld := ⟨SAFE_STATE, 6, 1⟩
def SAFE_STATE_DEMAND : Fld := ⟨SAFE_STATE, 8, 5⟩
def SAFE_STATE_LATCH : Fld := ⟨SAFE_STATE, 13, 5⟩
def SAFE_STATE_HOLD : Fld := ⟨SAFE_STATE, 18, 5⟩
/-- SAFE.IO, 14_safety_island.md R407. -/
def SAFE_IO : Nat := 0x40b00004
def SAFE_IO_IN : Fld := ⟨SAFE_IO, 0, 6⟩
def SAFE_IO_OUT : Fld := ⟨SAFE_IO, 6, 4⟩
def SAFE_IO_POS : Fld := ⟨SAFE_IO, 10, 2⟩
/-- SAFE.CHECK, 14_safety_island.md R407. -/
def SAFE_CHECK : Nat := 0x40b00008
def SAFE_CHECK_CRC : Fld := ⟨SAFE_CHECK, 0, 32⟩
/-- SAFE.CONF_REC, 14_safety_island.md R407. -/
def SAFE_CONF_REC : Nat := 0x40b0000c
def SAFE_CONF_REC_CRC : Fld := ⟨SAFE_CONF_REC, 0, 32⟩
/-- SAFE.CONFIRM, 14_safety_island.md R407. -/
def SAFE_CONFIRM : Nat := 0x40b00010
def SAFE_CONFIRM_KEY : Fld := ⟨SAFE_CONFIRM, 0, 32⟩
/-- SAFE.CONF_STAT, 14_safety_island.md R407. -/
def SAFE_CONF_STAT : Nat := 0x40b00014
def SAFE_CONF_STAT_ARMED : Fld := ⟨SAFE_CONF_STAT, 0, 1⟩
def SAFE_CONF_STAT_DONE : Fld := ⟨SAFE_CONF_STAT, 1, 1⟩
def SAFE_CONF_STAT_REFUSED : Fld := ⟨SAFE_CONF_STAT, 2, 1⟩
def SAFE_CONF_STAT_WHY : Fld := ⟨SAFE_CONF_STAT, 3, 3⟩
/-- SAFE.PROOF, 14_safety_island.md R407. -/
def SAFE_PROOF : Nat := 0x40b00018
def SAFE_PROOF_HOURS : Fld := ⟨SAFE_PROOF, 0, 32⟩
/-- SAFE.SDM, 14_safety_island.md R407. -/
def SAFE_SDM (j : Nat) : Nat := 0x40b00020 + 0x4 * j
def SAFE_SDM_VALUE (j : Nat) : Fld := ⟨SAFE_SDM j, 0, 16⟩
def SAFE_SDM_STUCK (j : Nat) : Fld := ⟨SAFE_SDM j, 16, 1⟩
/-- SAFE.CNT, 14_safety_island.md R407. -/
def SAFE_CNT : Nat := 0x40b00030
def SAFE_CNT_SACK_REF : Fld := ⟨SAFE_CNT, 0, 16⟩
def SAFE_CNT_TRIPS : Fld := ⟨SAFE_CNT, 16, 16⟩
/-- SAFE.MB_IN, 14_safety_island.md R407. -/
def SAFE_MB_IN : Nat := 0x40b00040
def SAFE_MB_IN_DATA : Fld := ⟨SAFE_MB_IN, 0, 32⟩
/-- SAFE.MB_IN_STAT, 14_safety_island.md R407. -/
def SAFE_MB_IN_STAT : Nat := 0x40b00044
def SAFE_MB_IN_STAT_OCC : Fld := ⟨SAFE_MB_IN_STAT, 0, 5⟩
def SAFE_MB_IN_STAT_BUSY : Fld := ⟨SAFE_MB_IN_STAT, 5, 1⟩
/-- SAFE.MB_OUT, 14_safety_island.md R407. -/
def SAFE_MB_OUT : Nat := 0x40b00048
def SAFE_MB_OUT_DATA : Fld := ⟨SAFE_MB_OUT, 0, 32⟩
/-- SAFE.MB_OUT_STAT, 14_safety_island.md R407. -/
def SAFE_MB_OUT_STAT : Nat := 0x40b0004c
def SAFE_MB_OUT_STAT_OCC : Fld := ⟨SAFE_MB_OUT_STAT, 0, 5⟩
/-- SAFE.PARAM, 14_safety_island.md R407. -/
def SAFE_PARAM (j : Nat) : Nat := 0x40b00100 + 0x4 * j
def SAFE_PARAM_WORD (j : Nat) : Fld := ⟨SAFE_PARAM j, 0, 32⟩

/-- HOST.PCI_ID, 19_host_interface_and_trace.md R507. -/
def HOST_PCI_ID : Nat := 0x40c00000
def HOST_PCI_ID_VID : Fld := ⟨HOST_PCI_ID, 0, 16⟩
def HOST_PCI_ID_DID : Fld := ⟨HOST_PCI_ID, 16, 16⟩
/-- HOST.LINK, 19_host_interface_and_trace.md R507. -/
def HOST_LINK : Nat := 0x40c00004
def HOST_LINK_WIDTH : Fld := ⟨HOST_LINK, 0, 4⟩
def HOST_LINK_SPEED : Fld := ⟨HOST_LINK, 4, 3⟩
def HOST_LINK_UP : Fld := ⟨HOST_LINK, 7, 1⟩
def HOST_LINK_BME : Fld := ⟨HOST_LINK, 8, 1⟩
/-- HOST.DB_VAL, 19_host_interface_and_trace.md R507. -/
def HOST_DB_VAL (j : Nat) : Nat := 0x40c00010 + 0x4 * j
def HOST_DB_VAL_VAL (j : Nat) : Fld := ⟨HOST_DB_VAL j, 0, 32⟩
/-- HOST.DB_STAT, 19_host_interface_and_trace.md R507. -/
def HOST_DB_STAT : Nat := 0x40c00030
def HOST_DB_STAT_PEND : Fld := ⟨HOST_DB_STAT, 0, 8⟩
def HOST_DB_STAT_OVR : Fld := ⟨HOST_DB_STAT, 8, 8⟩
/-- HOST.DB_ROUTE, 19_host_interface_and_trace.md R507. -/
def HOST_DB_ROUTE : Nat := 0x40c00034
def HOST_DB_ROUTE_ENG (i : Nat) : Fld := ⟨HOST_DB_ROUTE, 2 * i + 0, 2⟩
def HOST_DB_ROUTE_MBX : Fld := ⟨HOST_DB_ROUTE, 16, 2⟩
/-- HOST.H2D_W, 19_host_interface_and_trace.md R507. -/
def HOST_H2D_W : Nat := 0x40c00040
def HOST_H2D_W_WORD : Fld := ⟨HOST_H2D_W, 0, 32⟩
/-- HOST.D2H_W, 19_host_interface_and_trace.md R507. -/
def HOST_D2H_W : Nat := 0x40c00048
def HOST_D2H_W_WORD : Fld := ⟨HOST_D2H_W, 0, 32⟩
/-- HOST.H2D_R, 19_host_interface_and_trace.md R507. -/
def HOST_H2D_R : Nat := 0x40c00044
def HOST_H2D_R_WORD : Fld := ⟨HOST_H2D_R, 0, 32⟩
/-- HOST.D2H_R, 19_host_interface_and_trace.md R507. -/
def HOST_D2H_R : Nat := 0x40c0004c
def HOST_D2H_R_WORD : Fld := ⟨HOST_D2H_R, 0, 32⟩
/-- HOST.MBX_STAT, 19_host_interface_and_trace.md R507. -/
def HOST_MBX_STAT : Nat := 0x40c00050
def HOST_MBX_STAT_H2D_OCC : Fld := ⟨HOST_MBX_STAT, 0, 6⟩
def HOST_MBX_STAT_D2H_OCC : Fld := ⟨HOST_MBX_STAT, 8, 6⟩
def HOST_MBX_STAT_D2H_FULL : Fld := ⟨HOST_MBX_STAT, 14, 1⟩
def HOST_MBX_STAT_H2D_DROP : Fld := ⟨HOST_MBX_STAT, 16, 16⟩
/-- HOST.MSIX_SEND, 19_host_interface_and_trace.md R507. -/
def HOST_MSIX_SEND : Nat := 0x40c00060
def HOST_MSIX_SEND_VEC : Fld := ⟨HOST_MSIX_SEND, 0, 5⟩
def HOST_MSIX_SEND_GO : Fld := ⟨HOST_MSIX_SEND, 31, 1⟩
/-- HOST.DMA_CTL, 19_host_interface_and_trace.md R507. -/
def HOST_DMA_CTL (j : Nat) : Nat := 0x40c00100 + 0x20 * j
def HOST_DMA_CTL_EN (j : Nat) : Fld := ⟨HOST_DMA_CTL j, 0, 1⟩
def HOST_DMA_CTL_IRQ_EN (j : Nat) : Fld := ⟨HOST_DMA_CTL j, 1, 1⟩
/-- HOST.DMA_RING_BASE, 19_host_interface_and_trace.md R507. -/
def HOST_DMA_RING_BASE (j : Nat) : Nat := 0x40c00104 + 0x20 * j
def HOST_DMA_RING_BASE_ADDR (j : Nat) : Fld := ⟨HOST_DMA_RING_BASE j, 5, 17⟩
/-- HOST.DMA_RING_LEN, 19_host_interface_and_trace.md R507. -/
def HOST_DMA_RING_LEN (j : Nat) : Nat := 0x40c00108 + 0x20 * j
def HOST_DMA_RING_LEN_LEN (j : Nat) : Fld := ⟨HOST_DMA_RING_LEN j, 0, 9⟩
/-- HOST.DMA_TAIL, 19_host_interface_and_trace.md R507. -/
def HOST_DMA_TAIL (j : Nat) : Nat := 0x40c0010c + 0x20 * j
def HOST_DMA_TAIL_TAIL (j : Nat) : Fld := ⟨HOST_DMA_TAIL j, 0, 8⟩
/-- HOST.DMA_HEAD, 19_host_interface_and_trace.md R507. -/
def HOST_DMA_HEAD (j : Nat) : Nat := 0x40c00110 + 0x20 * j
def HOST_DMA_HEAD_HEAD (j : Nat) : Fld := ⟨HOST_DMA_HEAD j, 0, 8⟩
/-- HOST.DMA_ERR, 19_host_interface_and_trace.md R507. -/
def HOST_DMA_ERR (j : Nat) : Nat := 0x40c00114 + 0x20 * j
def HOST_DMA_ERR_COUNT (j : Nat) : Fld := ⟨HOST_DMA_ERR j, 0, 16⟩
/-- HOST.MSIX_ADDR_LO, 19_host_interface_and_trace.md R507. -/
def HOST_MSIX_ADDR_LO (j : Nat) : Nat := 0x40c01000 + 0x10 * j
def HOST_MSIX_ADDR_LO_ADDR (j : Nat) : Fld := ⟨HOST_MSIX_ADDR_LO j, 0, 32⟩
/-- HOST.MSIX_ADDR_HI, 19_host_interface_and_trace.md R507. -/
def HOST_MSIX_ADDR_HI (j : Nat) : Nat := 0x40c01004 + 0x10 * j
def HOST_MSIX_ADDR_HI_ADDR (j : Nat) : Fld := ⟨HOST_MSIX_ADDR_HI j, 0, 32⟩
/-- HOST.MSIX_DATA, 19_host_interface_and_trace.md R507. -/
def HOST_MSIX_DATA (j : Nat) : Nat := 0x40c01008 + 0x10 * j
def HOST_MSIX_DATA_DATA (j : Nat) : Fld := ⟨HOST_MSIX_DATA j, 0, 32⟩
/-- HOST.MSIX_VCTL, 19_host_interface_and_trace.md R507. -/
def HOST_MSIX_VCTL (j : Nat) : Nat := 0x40c0100c + 0x10 * j
def HOST_MSIX_VCTL_MASK (j : Nat) : Fld := ⟨HOST_MSIX_VCTL j, 0, 1⟩
/-- HOST.MSIX_PBA, 19_host_interface_and_trace.md R507. -/
def HOST_MSIX_PBA : Nat := 0x40c01800
def HOST_MSIX_PBA_PEND : Fld := ⟨HOST_MSIX_PBA, 0, 32⟩
/-- HOST.MSIX_PBA_HI, 19_host_interface_and_trace.md R507. -/
def HOST_MSIX_PBA_HI : Nat := 0x40c01804
def HOST_MSIX_PBA_HI_PEND : Fld := ⟨HOST_MSIX_PBA_HI, 0, 32⟩

end Sys2Proof.Machine
end

