-- ==== Sys2Proof/Machine/RegMap.lean ====
section
/-! DEFINITION. Machine/RegMap.lean: the register tables as data: for every register its offset, repetition, cold value, the bits a
warm reset keeps, and each field's place, access code (00_scope.md R10) and the values its table leaves unreserved (R12). -/
namespace Sys2Proof.Machine

/-- The access codes of 00_scope.md R10. -/
inductive Acc where
 | rw | ro | wo | w1c | w1s | rc | rwl | rws
deriving DecidableEq, Repr

/-- A field's row: place, width, access code, and the least and greatest value that is not reserved (00_scope.md R12). -/
structure FieldD where
 lo : Nat
 w : Nat
 acc : Acc
 vmin : Nat := 0
 vmax : Nat := 0xffffffff
deriving DecidableEq, Repr

/-- A register's row: offset in its block, repetition inside the block, cold value, bits kept by a warm reset, fields. -/
structure RegD where
 off : Nat
 step : Nat
 reps : Nat
 cold : Nat
 keep : Nat
 fields : List FieldD
deriving DecidableEq, Repr

/-- A block's row (20_register_index.md R511): base, stride, number of repetitions, registers. -/
structure BlockD where
 base : Nat
 stride : Nat
 count : Nat
 regs : List RegD
deriving DecidableEq, Repr

def regsSYS0 : List RegD := [
 ⟨0x0, 0x4, 1, 0x4192, 0x0, [⟨0, 32, .ro, 0, 0xffffffff⟩]⟩,
 ⟨0x4, 0x4, 1, 0xb1, 0x0, [⟨0, 32, .ro, 0, 0xffffffff⟩]⟩,
 ⟨0x8, 0x4, 1, 0x0, 0xffff, [⟨0, 16, .rws, 0, 0xffffffff⟩]⟩,
 ⟨0xc, 0x4, 1, 0x8, 0x0, [⟨0, 3, .ro, 0, 0xffffffff⟩, ⟨3, 1, .ro, 0, 0xffffffff⟩, ⟨4, 2, .ro, 0, 0xffffffff⟩]⟩,
 ⟨0x10, 0x4, 1, 0x0, 0x0, [⟨0, 3, .rw, 0, 0xffffffff⟩, ⟨3, 1, .w1c, 0, 0xffffffff⟩]⟩,
 ⟨0x14, 0x4, 1, 0x0, 0x0, [⟨0, 16, .rc, 0, 0xffffffff⟩, ⟨16, 1, .ro, 0, 0xffffffff⟩]⟩,
 ⟨0x18, 0x4, 1, 0x7, 0x0, [⟨0, 2, .ro, 0, 0xffffffff⟩, ⟨2, 4, .ro, 0, 0xffffffff⟩, ⟨8, 3, .ro, 0, 0xffffffff⟩]⟩,
 ⟨0x1c, 0x4, 1, 0x3e80000, 0x0, [⟨0, 1, .wo, 0, 0xffffffff⟩, ⟨16, 16, .rw, 1, 0xffff⟩]⟩,
 ⟨0x20, 0x4, 1, 0x0, 0x0, [⟨0, 24, .rw, 0, 0x800000⟩, ⟨31, 1, .wo, 0, 0xffffffff⟩]⟩]
/-- The SYS block. -/
def blockSYS : BlockD := ⟨0x40000000, 0x10000, 1, regsSYS0⟩

def regsRST0 : List RegD := [
 ⟨0x0, 0x4, 1, 0x0, 0x0, [⟨0, 2, .ro, 0, 0xffffffff⟩, ⟨2, 2, .ro, 0, 0xffffffff⟩, ⟨4, 2, .ro, 0, 0xffffffff⟩, ⟨6, 2, .ro, 0, 0xffffffff⟩, ⟨8, 2, .ro, 0, 0xffffffff⟩, ⟨10, 2, .ro, 0, 0xffffffff⟩]⟩,
 ⟨0x4, 0x4, 1, 0x0, 0x0, [⟨0, 6, .ro, 0, 0xffffffff⟩, ⟨8, 2, .ro, 0, 0xffffffff⟩, ⟨10, 1, .ro, 0, 0xffffffff⟩, ⟨11, 1, .ro, 0, 0xffffffff⟩]⟩,
 ⟨0x8, 0x4, 1, 0x1, 0xffffffff, [⟨0, 8, .rc, 0, 0xffffffff⟩, ⟨8, 8, .rc, 0, 0xffffffff⟩, ⟨16, 8, .rc, 0, 0xffffffff⟩, ⟨24, 8, .rc, 0, 0xffffffff⟩]⟩,
 ⟨0x10, 0x4, 1, 0x0, 0x0, [⟨0, 7, .rw, 0, 0xffffffff⟩, ⟨7, 1, .rw, 0, 0xffffffff⟩, ⟨31, 1, .wo, 0, 0xffffffff⟩]⟩,
 ⟨0x14, 0x4, 1, 0x0, 0x0, [⟨0, 1, .ro, 0, 0xffffffff⟩, ⟨1, 1, .w1c, 0, 0xffffffff⟩, ⟨2, 1, .w1c, 0, 0xffffffff⟩, ⟨3, 1, .w1c, 0, 0xffffffff⟩, ⟨4, 1, .w1c, 0, 0xffffffff⟩, ⟨5, 1, .w1c, 0, 0xffffffff⟩]⟩,
 ⟨0x18, 0x4, 1, 0xfffffff, 0x0, [⟨0, 28, .ro, 0, 0xffffffff⟩]⟩,
 ⟨0x1c, 0x4, 1, 0x7fffffff, 0x0, [⟨0, 31, .ro, 0, 0xffffffff⟩]⟩]
/-- The RST block. -/
def blockRST : BlockD := ⟨0x40010000, 0x10000, 1, regsRST0⟩

def regsCLKS0 : List RegD := [
 ⟨0x0, 0x4, 1, 0x28c00, 0x0, [⟨0, 1, .rw, 0, 0xffffffff⟩, ⟨1, 1, .ro, 0, 0xffffffff⟩, ⟨8, 5, .rw, 6, 0x14⟩, ⟨13, 3, .rw, 1, 0x7⟩, ⟨16, 8, .rw, 1, 0xff⟩]⟩,
 ⟨0x4, 0x4, 1, 0x0, 0x0, [⟨0, 1, .ro, 0, 0xffffffff⟩, ⟨1, 1, .ro, 0, 0xffffffff⟩, ⟨2, 1, .ro, 0, 0xffffffff⟩, ⟨3, 1, .ro, 0, 0xffffffff⟩, ⟨4, 1, .ro, 0, 0xffffffff⟩, ⟨8, 6, .ro, 0, 0xffffffff⟩]⟩,
 ⟨0x8, 0x4, 1, 0x50c3500, 0x0, [⟨0, 20, .rw, 0, 0xffffffff⟩, ⟨20, 8, .rw, 1, 0xff⟩, ⟨31, 1, .wo, 0, 0xffffffff⟩]⟩,
 ⟨0xc, 0x4, 1, 0x0, 0x0, [⟨0, 7, .rw, 0, 0x64⟩, ⟨8, 1, .rw, 0, 0xffffffff⟩]⟩,
 ⟨0x10, 0x4, 1, 0x61a8, 0x0, [⟨0, 20, .ro, 0, 0xffffffff⟩]⟩,
 ⟨0x14, 0x4, 1, 0x0, 0x3f00, [⟨0, 1, .ro, 0, 0xffffffff⟩, ⟨1, 1, .w1c, 0, 0xffffffff⟩, ⟨2, 1, .w1c, 0, 0xffffffff⟩, ⟨3, 3, .ro, 0, 0xffffffff⟩, ⟨8, 1, .ro, 0, 0xffffffff⟩, ⟨9, 1, .w1c, 0, 0xffffffff⟩, ⟨10, 1, .w1c, 0, 0xffffffff⟩, ⟨11, 3, .ro, 0, 0xffffffff⟩]⟩]
/-- The CLKS block. -/
def blockCLKS : BlockD := ⟨0x40020000, 0x40, 1, regsCLKS0⟩

def regsCLKT0 : List RegD := [
 ⟨0x0, 0x4, 1, 0x28c00, 0xffff07, [⟨0, 1, .rw, 0, 0xffffffff⟩, ⟨1, 1, .rw, 0, 0xffffffff⟩, ⟨2, 1, .rw, 0, 0xffffffff⟩, ⟨8, 5, .rw, 6, 0x14⟩, ⟨13, 3, .rw, 1, 0x7⟩, ⟨16, 8, .rw, 1, 0xff⟩]⟩,
 ⟨0x4, 0x4, 1, 0x0, 0x3f7f, [⟨0, 1, .ro, 0, 0xffffffff⟩, ⟨1, 1, .ro, 0, 0xffffffff⟩, ⟨2, 1, .ro, 0, 0xffffffff⟩, ⟨3, 1, .ro, 0, 0xffffffff⟩, ⟨4, 1, .ro, 0, 0xffffffff⟩, ⟨5, 1, .ro, 0, 0xffffffff⟩, ⟨6, 1, .ro, 0, 0xffffffff⟩, ⟨8, 6, .ro, 0, 0xffffffff⟩]⟩,
 ⟨0x8, 0x4, 1, 0xa0000, 0xffffff, [⟨0, 16, .rw, 0, 0xffffffff⟩, ⟨16, 8, .rw, 1, 0xff⟩, ⟨31, 1, .wo, 0, 0xffffffff⟩]⟩,
 ⟨0xc, 0x4, 1, 0x1ace1, 0x1ffff, [⟨0, 16, .rw, 1, 0xffff⟩, ⟨16, 1, .rw, 0, 0xffffffff⟩]⟩,
 ⟨0x10, 0x4, 1, 0x0, 0x80ffffff, [⟨0, 24, .ro, 0, 0xffffffff⟩, ⟨31, 1, .w1c, 0, 0xffffffff⟩]⟩,
 ⟨0x14, 0x4, 1, 0x0, 0xffffff, [⟨0, 8, .rc, 0, 0xffffffff⟩, ⟨8, 8, .rc, 0, 0xffffffff⟩, ⟨16, 8, .rc, 0, 0xffffffff⟩]⟩]
/-- The CLKT block. -/
def blockCLKT : BlockD := ⟨0x40020040, 0x1000, 1, regsCLKT0⟩

def regsTB0 : List RegD := [
 ⟨0x0, 0x4, 1, 0x0, 0xffffffff, [⟨0, 30, .ro, 0, 0xffffffff⟩, ⟨30, 2, .ro, 0, 0xffffffff⟩]⟩,
 ⟨0x4, 0x4, 1, 0x0, 0xffffffff, [⟨0, 32, .ro, 0, 0xffffffff⟩]⟩,
 ⟨0x8, 0x4, 1, 0x0, 0xffff, [⟨0, 16, .ro, 0, 0xffffffff⟩]⟩,
 ⟨0xc, 0x4, 1, 0x0, 0xffffff, [⟨0, 24, .ro, 0, 0xffffffff⟩]⟩,
 ⟨0x10, 0x4, 1, 0x2000000, 0xffffffff, [⟨0, 32, .rw, 33551104, 0x2000d00⟩]⟩,
 ⟨0x14, 0x4, 1, 0x0, 0xffffff, [⟨0, 24, .rw, 0, 0xffffffff⟩]⟩,
 ⟨0x18, 0x4, 1, 0x100, 0x1c0fff, [⟨0, 12, .rw, 1, 0xd00⟩, ⟨16, 1, .wo, 0, 0xffffffff⟩, ⟨17, 1, .wo, 0, 0xffffffff⟩, ⟨18, 1, .ro, 0, 0xffffffff⟩, ⟨19, 1, .w1c, 0, 0xffffffff⟩, ⟨20, 1, .w1c, 0, 0xffffffff⟩]⟩,
 ⟨0x1c, 0x4, 1, 0x0, 0xffffff, [⟨0, 24, .ro, 0, 0xffffffff⟩]⟩,
 ⟨0x20, 0x4, 1, 0x0, 0x3fffffff, [⟨0, 30, .rw, 0, 0xffffffff⟩]⟩,
 ⟨0x24, 0x4, 1, 0x0, 0xffffffff, [⟨0, 32, .rw, 0, 0xffffffff⟩]⟩,
 ⟨0x28, 0x4, 1, 0x0, 0xffff, [⟨0, 16, .rw, 0, 0xffffffff⟩]⟩,
 ⟨0x2c, 0x4, 1, 0x0, 0x0, [⟨0, 1, .wo, 0, 0xffffffff⟩]⟩]
/-- The TB block. -/
def blockTB : BlockD := ⟨0x40030000, 0x40, 1, regsTB0⟩

def regsCAP0 : List RegD := [
 ⟨0x0, 0x4, 1, 0x0, 0x0, [⟨0, 5, .rw, 0, 0x18⟩, ⟨5, 1, .rw, 0, 0xffffffff⟩, ⟨6, 1, .rw, 0, 0xffffffff⟩]⟩,
 ⟨0x4, 0x4, 1, 0x0, 0x0, [⟨0, 30, .ro, 0, 0xffffffff⟩, ⟨30, 2, .ro, 0, 0xffffffff⟩]⟩,
 ⟨0x8, 0x4, 1, 0x0, 0x0, [⟨0, 32, .ro, 0, 0xffffffff⟩]⟩,
 ⟨0xc, 0x4, 1, 0x0, 0x0, [⟨0, 1, .w1c, 0, 0xffffffff⟩, ⟨16, 16, .rc, 0, 0xffffffff⟩]⟩]
/-- The CAP block. -/
def blockCAP : BlockD := ⟨0x40030040, 0x10, 8, regsCAP0⟩

def regsPPS0 : List RegD := [
 ⟨0x0, 0x4, 1, 0x6400, 0x0, [⟨0, 5, .rw, 0, 0xffffffff⟩, ⟨5, 1, .rw, 0, 0xffffffff⟩, ⟨8, 14, .rw, 1, 0x3fff⟩]⟩]
/-- The PPS block. -/
def blockPPS : BlockD := ⟨0x400300c0, 0x40, 1, regsPPS0⟩

def regsTT0 : List RegD := [
 ⟨0x0, 0x4, 1, 0x0, 0x0, [⟨0, 2, .rw, 0, 0xffffffff⟩, ⟨2, 1, .rw, 0, 0xffffffff⟩, ⟨3, 8, .rw, 0, 0xbf⟩, ⟨11, 6, .rw, 0, 0xffffffff⟩]⟩,
 ⟨0x4, 0x4, 1, 0x0, 0x0, [⟨0, 30, .rw, 0, 0xffffffff⟩]⟩,
 ⟨0x8, 0x4, 1, 0x0, 0x0, [⟨0, 32, .rw, 0, 0xffffffff⟩]⟩,
 ⟨0xc, 0x4, 1, 0x3b9aca00, 0x0, [⟨0, 30, .rw, 100, 0x3b9aca00⟩]⟩,
 ⟨0x10, 0x4, 1, 0x0, 0x0, [⟨0, 24, .rw, 0, 0xffffffff⟩]⟩,
 ⟨0x14, 0x4, 1, 0x0, 0x0, [⟨0, 16, .rc, 0, 0xffffffff⟩, ⟨16, 1, .w1c, 0, 0xffffffff⟩]⟩,
 ⟨0x18, 0x4, 1, 0x0, 0x0, [⟨0, 32, .ro, 0, 0xffffffff⟩]⟩]
/-- The TT block. -/
def blockTT : BlockD := ⟨0x40030100, 0x20, 32, regsTT0⟩

def regsFLT0 : List RegD := [
 ⟨0x0, 0x4, 1, 0x1fff, 0x1fff, [⟨0, 13, .rws, 0, 0xffffffff⟩]⟩,
 ⟨0x4, 0x4, 1, 0x0, 0x1fff3fff, [⟨0, 13, .ro, 0, 0xffffffff⟩, ⟨13, 1, .ro, 0, 0xffffffff⟩, ⟨14, 1, .ro, 0, 0xffffffff⟩, ⟨16, 13, .ro, 0, 0xffffffff⟩]⟩,
 ⟨0x8, 0x4, 1, 0x0, 0xffffffff, [⟨0, 32, .ro, 0, 0xffffffff⟩]⟩,
 ⟨0xc, 0x4, 1, 0x0, 0xffffffff, [⟨0, 32, .rw, 0, 0xffffffff⟩]⟩,
 ⟨0x10, 0x4, 1, 0x0, 0x0, [⟨0, 13, .wo, 0, 0xffffffff⟩]⟩,
 ⟨0x14, 0x4, 1, 0x0, 0xffff0fff, [⟨0, 5, .ro, 0, 0xffffffff⟩, ⟨5, 1, .ro, 0, 0xffffffff⟩, ⟨6, 1, .ro, 0, 0xffffffff⟩, ⟨7, 5, .ro, 0, 0xffffffff⟩, ⟨16, 16, .rc, 0, 0xffffffff⟩]⟩,
 ⟨0x18, 0x4, 1, 0x0, 0xffff, [⟨0, 16, .rc, 0, 0xffffffff⟩]⟩,
 ⟨0x20, 0x4, 1, 0x3, 0x3, [⟨0, 1, .rw, 0, 0xffffffff⟩, ⟨1, 1, .rw, 0, 0xffffffff⟩]⟩]
/-- The FLT block. -/
def blockFLT : BlockD := ⟨0x40040000, 0x40, 1, regsFLT0⟩

def regsCLS0 : List RegD := [
 ⟨0x0, 0x4, 1, 0x0, 0xffffffff, [⟨0, 32, .ro, 0, 0xffffffff⟩]⟩,
 ⟨0x4, 0x4, 1, 0x0, 0xffffffff, [⟨0, 32, .ro, 0, 0xffffffff⟩]⟩,
 ⟨0x8, 0x4, 1, 0x0, 0xffffffff, [⟨0, 32, .ro, 0, 0xffffffff⟩]⟩,
 ⟨0xc, 0x4, 1, 0x0, 0xffffffff, [⟨0, 32, .ro, 0, 0xffffffff⟩]⟩,
 ⟨0x10, 0x4, 1, 0x0, 0xffffffff, [⟨0, 16, .rc, 0, 0xffffffff⟩, ⟨16, 16, .rc, 0, 0xffffffff⟩]⟩]
/-- The CLS block. -/
def blockCLS : BlockD := ⟨0x40040040, 0x20, 13, regsCLS0⟩

def regsHIST0 : List RegD := [
 ⟨0x0, 0x4, 1, 0x0, 0xffffffff, [⟨0, 32, .ro, 0, 0xffffffff⟩]⟩,
 ⟨0x4, 0x4, 1, 0x0, 0xffffffff, [⟨0, 32, .ro, 0, 0xffffffff⟩]⟩,
 ⟨0x8, 0x4, 1, 0x0, 0xffffffff, [⟨0, 30, .ro, 0, 0xffffffff⟩, ⟨30, 2, .ro, 0, 0xffffffff⟩]⟩,
 ⟨0xc, 0x4, 1, 0x0, 0xffffffff, [⟨0, 32, .ro, 0, 0xffffffff⟩]⟩,
 ⟨0x10, 0x4, 1, 0x0, 0xffffffff, [⟨0, 32, .ro, 0, 0xffffffff⟩]⟩,
 ⟨0x14, 0x4, 1, 0x0, 0x1f, [⟨0, 3, .ro, 0, 0xffffffff⟩, ⟨3, 1, .ro, 0, 0xffffffff⟩, ⟨4, 1, .ro, 0, 0xffffffff⟩]⟩]
/-- The HIST block. -/
def blockHIST : BlockD := ⟨0x40040400, 0x20, 32, regsHIST0⟩

def regsAGE0 : List RegD := [
 ⟨0x0, 0x4, 1, 0x0, 0x0, [⟨0, 1, .rws, 0, 0xffffffff⟩, ⟨1, 1, .rws, 0, 0xffffffff⟩, ⟨2, 1, .rw, 0, 0xffffffff⟩]⟩,
 ⟨0x4, 0x4, 1, 0x0, 0x0, [⟨8, 14, .rw, 0, 0xffffffff⟩]⟩,
 ⟨0x8, 0x4, 1, 0x0, 0x0, [⟨0, 1, .wo, 0, 0xffffffff⟩, ⟨1, 1, .wo, 0, 0xffffffff⟩]⟩,
 ⟨0xc, 0x4, 1, 0x0, 0x0, [⟨0, 2, .ro, 0, 0xffffffff⟩, ⟨2, 1, .w1c, 0, 0xffffffff⟩, ⟨3, 1, .w1c, 0, 0xffffffff⟩, ⟨4, 1, .w1c, 0, 0xffffffff⟩, ⟨5, 1, .ro, 0, 0xffffffff⟩, ⟨6, 1, .ro, 0, 0xffffffff⟩, ⟨8, 4, .ro, 0, 0xffffffff⟩, ⟨12, 5, .ro, 0, 0xffffffff⟩]⟩,
 ⟨0x10, 0x4, 1, 0x0, 0x0, [⟨0, 32, .ro, 0, 0xffffffff⟩]⟩,
 ⟨0x14, 0x4, 1, 0x0, 0xffffffff, [⟨0, 32, .ro, 0, 0xffffffff⟩]⟩,
 ⟨0x18, 0x4, 1, 0x0, 0x1, [⟨0, 1, .w1s, 0, 0xffffffff⟩]⟩,
 ⟨0x20, 0x4, 1, 0x1000, 0x0, [⟨0, 1, .wo, 0, 0xffffffff⟩, ⟨1, 1, .ro, 0, 0xffffffff⟩, ⟨2, 1, .w1c, 0, 0xffffffff⟩, ⟨8, 5, .rw, 10, 0x14⟩]⟩,
 ⟨0x24, 0x4, 1, 0x0, 0x0, [⟨0, 4, .rw, 0, 0xc⟩, ⟨4, 1, .wo, 0, 0xffffffff⟩, ⟨5, 1, .ro, 0, 0xffffffff⟩, ⟨6, 1, .w1c, 0, 0xffffffff⟩]⟩,
 ⟨0x28, 0x4, 1, 0x0, 0x1ffff, [⟨0, 16, .ro, 0, 0xffffffff⟩, ⟨16, 1, .ro, 0, 0xffffffff⟩]⟩,
 ⟨0x2c, 0x4, 1, 0x0, 0x0, [⟨0, 20, .rc, 0, 0xffffffff⟩, ⟨20, 4, .rc, 0, 0xffffffff⟩, ⟨24, 8, .rc, 0, 0xffffffff⟩]⟩,
 ⟨0x30, 0x4, 1, 0x0, 0x0, [⟨0, 5, .ro, 0, 0xffffffff⟩, ⟨16, 16, .rc, 0, 0xffffffff⟩]⟩,
 ⟨0x40, 0x4, 1, 0x0, 0x0, [⟨0, 8, .rw, 0, 0xffffffff⟩, ⟨8, 8, .rw, 0, 0xffffffff⟩, ⟨16, 8, .rw, 0, 0xffffffff⟩, ⟨24, 8, .rw, 0, 0xffffffff⟩]⟩,
 ⟨0x44, 0x4, 1, 0x0, 0x0, [⟨0, 32, .rw, 0, 0xffffffff⟩]⟩,
 ⟨0x48, 0x4, 1, 0x0, 0x0, [⟨0, 16, .rw, 0, 0xffffffff⟩]⟩,
 ⟨0x4c, 0x4, 1, 0x2, 0x2, [⟨0, 1, .wo, 0, 0xffffffff⟩, ⟨1, 1, .rw, 0, 0xffffffff⟩]⟩,
 ⟨0x50, 0x4, 1, 0x0, 0x4, [⟨0, 1, .ro, 0, 0xffffffff⟩, ⟨1, 1, .w1c, 0, 0xffffffff⟩, ⟨2, 1, .ro, 0, 0xffffffff⟩]⟩,
 ⟨0x54, 0x4, 1, 0x0, 0x0, [⟨0, 18, .ro, 0, 0xffffffff⟩]⟩,
 ⟨0x100, 0x4, 64, 0x0, 0x0, [⟨0, 32, .rw, 0, 0xffffffff⟩]⟩,
 ⟨0x200, 0x4, 64, 0x0, 0x0, [⟨0, 32, .ro, 0, 0xffffffff⟩]⟩,
 ⟨0x400, 0x8, 32, 0xffff0000, 0xffffffff, [⟨0, 16, .rwl, 0, 0xffffffff⟩, ⟨16, 16, .rwl, 0, 0xffffffff⟩]⟩,
 ⟨0x404, 0x8, 32, 0x0, 0xffff, [⟨0, 16, .rwl, 0, 0xffffffff⟩]⟩,
 ⟨0x600, 0x4, 48, 0x0, 0x0, [⟨0, 24, .ro, 0, 0xffffffff⟩]⟩,
 ⟨0x700, 0x4, 16, 0x0, 0x0, [⟨0, 6, .ro, 0, 0xffffffff⟩, ⟨6, 1, .ro, 0, 0xffffffff⟩]⟩]
/-- The AGE block. -/
def blockAGE : BlockD := ⟨0x40050000, 0x10000, 1, regsAGE0⟩

def regsSEC0 : List RegD := [
 ⟨0x0, 0x4, 1, 0x0, 0x37f, [⟨0, 7, .w1c, 0, 0xffffffff⟩, ⟨8, 1, .ro, 0, 0xffffffff⟩, ⟨9, 1, .ro, 0, 0xffffffff⟩, ⟨10, 1, .ro, 0, 0xffffffff⟩]⟩,
 ⟨0x4, 0x4, 1, 0x0, 0x80003fff, [⟨0, 2, .rwl, 0, 0xffffffff⟩, ⟨2, 2, .rwl, 0, 0xffffffff⟩, ⟨4, 2, .rwl, 0, 0xffffffff⟩, ⟨6, 2, .rwl, 0, 0xffffffff⟩, ⟨8, 2, .rwl, 0, 0xffffffff⟩, ⟨10, 2, .rwl, 0, 0xffffffff⟩, ⟨12, 2, .rwl, 0, 0xffffffff⟩, ⟨31, 1, .w1s, 0, 0xffffffff⟩]⟩,
 ⟨0x8, 0x4, 1, 0x0, 0x0, [⟨0, 4, .ro, 0, 0xffffffff⟩, ⟨4, 4, .ro, 0, 0xffffffff⟩, ⟨8, 6, .ro, 0, 0xffffffff⟩, ⟨14, 1, .ro, 0, 0xffffffff⟩]⟩,
 ⟨0xc, 0x4, 1, 0x0, 0x0, [⟨0, 2, .ro, 0, 0xffffffff⟩, ⟨8, 8, .ro, 0, 0xffffffff⟩]⟩,
 ⟨0x10, 0x4, 1, 0x0, 0x0, [⟨0, 1, .wo, 0, 0xffffffff⟩]⟩,
 ⟨0x14, 0x4, 1, 0x0, 0x0, [⟨0, 2, .rw, 0, 0xffffffff⟩, ⟨31, 1, .wo, 0, 0xffffffff⟩]⟩,
 ⟨0x18, 0x4, 1, 0x0, 0x0, [⟨0, 1, .ro, 0, 0xffffffff⟩, ⟨1, 1, .w1c, 0, 0xffffffff⟩]⟩,
 ⟨0x20, 0x4, 1, 0x0, 0x0, [⟨0, 3, .wo, 0, 0xffffffff⟩, ⟨8, 4, .wo, 0, 0xffffffff⟩]⟩,
 ⟨0x24, 0x4, 1, 0x0, 0x0, [⟨0, 2, .ro, 0, 0xffffffff⟩, ⟨2, 1, .ro, 0, 0xffffffff⟩, ⟨3, 1, .w1c, 0, 0xffffffff⟩, ⟨4, 1, .w1c, 0, 0xffffffff⟩, ⟨5, 1, .ro, 0, 0xffffffff⟩, ⟨16, 16, .ro, 0, 0xffffffff⟩]⟩,
 ⟨0x28, 0x4, 1, 0x0, 0x3, [⟨0, 2, .ro, 0, 0xffffffff⟩]⟩,
 ⟨0x40, 0x4, 8, 0x0, 0x0, [⟨0, 32, .wo, 0, 0xffffffff⟩]⟩,
 ⟨0x60, 0x4, 12, 0x0, 0x0, [⟨0, 32, .rw, 0, 0xffffffff⟩]⟩,
 ⟨0x100, 0x4, 24, 0x0, 0x0, [⟨0, 32, .ro, 0, 0xffffffff⟩]⟩,
 ⟨0x200, 0x4, 24, 0x0, 0x0, [⟨0, 32, .ro, 0, 0xffffffff⟩]⟩]
/-- The SEC block. -/
def blockSEC : BlockD := ⟨0x40060000, 0x10000, 1, regsSEC0⟩

def regsTHM0 : List RegD := [
 ⟨0x0, 0x4, 1, 0x0, 0x0, [⟨0, 12, .wo, 0, 0xffffffff⟩]⟩,
 ⟨0x4, 0x4, 1, 0x0, 0x0, [⟨0, 12, .ro, 0, 0xffffffff⟩, ⟨12, 4, .ro, 0, 0xffffffff⟩, ⟨16, 1, .ro, 0, 0xffffffff⟩]⟩,
 ⟨0x8, 0x4, 1, 0x0, 0x0, [⟨0, 12, .ro, 0, 0xffffffff⟩]⟩,
 ⟨0xc, 0x4, 1, 0x0, 0xffffffff, [⟨0, 16, .rc, 0, 0xffffffff⟩, ⟨16, 16, .rc, 0, 0xffffffff⟩]⟩,
 ⟨0x10, 0x4, 12, 0x0, 0x0, [⟨0, 32, .ro, 0, 0xffffffff⟩]⟩]
/-- The THM block. -/
def blockTHM : BlockD := ⟨0x40070000, 0x10000, 1, regsTHM0⟩

def regsPWR0 : List RegD := [
 ⟨0x0, 0x4, 1, 0x0, 0x0, [⟨0, 10, .ro, 0, 0xffffffff⟩, ⟨10, 1, .ro, 0, 0xffffffff⟩]⟩,
 ⟨0x4, 0x4, 1, 0x0, 0x3ff, [⟨0, 10, .w1c, 0, 0xffffffff⟩]⟩,
 ⟨0x10, 0x4, 10, 0x0, 0xffff, [⟨0, 16, .rc, 0, 0xffffffff⟩]⟩]
/-- The PWR block. -/
def blockPWR : BlockD := ⟨0x40080000, 0x10000, 1, regsPWR0⟩

def regsNVC0 : List RegD := [
 ⟨0x0, 0x4, 1, 0x1801, 0x0, [⟨0, 1, .rw, 0, 0xffffffff⟩, ⟨8, 8, .rw, 1, 0xff⟩]⟩,
 ⟨0x4, 0x4, 1, 0x0, 0x0, [⟨0, 1, .ro, 0, 0xffffffff⟩, ⟨1, 1, .ro, 0, 0xffffffff⟩, ⟨2, 5, .ro, 0, 0xffffffff⟩]⟩,
 ⟨0x8, 0x4, 1, 0x0, 0xffffffff, [⟨0, 32, .rc, 0, 0xffffffff⟩]⟩,
 ⟨0xc, 0x4, 1, 0x0, 0xffff, [⟨0, 16, .rc, 0, 0xffffffff⟩]⟩,
 ⟨0x10, 0x4, 1, 0x0, 0x803ffff8, [⟨3, 19, .ro, 0, 0xffffffff⟩, ⟨31, 1, .w1c, 0, 0xffffffff⟩]⟩,
 ⟨0x14, 0x4, 1, 0x0, 0x7ffff, [⟨0, 19, .ro, 0, 0xffffffff⟩]⟩,
 ⟨0x18, 0x4, 1, 0x0, 0xffffffff, [⟨0, 32, .ro, 0, 0xffffffff⟩]⟩,
 ⟨0x1c, 0x4, 1, 0x0, 0xffff, [⟨0, 16, .rc, 0, 0xffffffff⟩]⟩]
/-- The NVC block. -/
def blockNVC : BlockD := ⟨0x40090000, 0x10000, 1, regsNVC0⟩

def regsLANE0 : List RegD := [
 ⟨0x0, 0x4, 1, 0x0, 0x0, [⟨0, 1, .rw, 0, 0xffffffff⟩, ⟨1, 1, .wo, 0, 0xffffffff⟩, ⟨2, 1, .rw, 0, 0xffffffff⟩, ⟨3, 1, .rw, 0, 0xffffffff⟩, ⟨4, 1, .wo, 0, 0xffffffff⟩]⟩,
 ⟨0x4, 0x4, 1, 0x1000, 0x0, [⟨0, 4, .ro, 0, 0xffffffff⟩, ⟨4, 3, .ro, 0, 0xffffffff⟩, ⟨8, 2, .ro, 0, 0xffffffff⟩, ⟨10, 1, .ro, 0, 0xffffffff⟩, ⟨11, 1, .ro, 0, 0xffffffff⟩, ⟨12, 1, .ro, 0, 0xffffffff⟩, ⟨13, 1, .ro, 0, 0xffffffff⟩, ⟨14, 1, .w1c, 0, 0xffffffff⟩, ⟨16, 8, .ro, 0, 0xffffffff⟩, ⟨24, 2, .ro, 0, 0xffffffff⟩]⟩,
 ⟨0x8, 0x4, 1, 0x80000000, 0x0, [⟨0, 16, .rws, 0, 0xffffffff⟩, ⟨16, 5, .rws, 0, 0x1b⟩, ⟨24, 2, .rws, 0, 0xffffffff⟩, ⟨31, 1, .rws, 0, 0xffffffff⟩]⟩,
 ⟨0xc, 0x4, 1, 0x2106b04, 0x0, [⟨0, 6, .rw, 0, 0xffffffff⟩, ⟨8, 7, .rw, 0, 0xffffffff⟩, ⟨16, 6, .rw, 0, 0xffffffff⟩, ⟨24, 2, .rw, 0, 0xffffffff⟩]⟩,
 ⟨0x10, 0x4, 1, 0x1, 0x0, [⟨0, 2, .rw, 0, 0xffffffff⟩]⟩,
 ⟨0x14, 0x4, 1, 0x0, 0x0, [⟨0, 1, .wo, 0, 0xffffffff⟩]⟩,
 ⟨0x18, 0x4, 1, 0x0, 0x0, [⟨0, 1, .ro, 0, 0xffffffff⟩, ⟨1, 1, .ro, 0, 0xffffffff⟩, ⟨2, 1, .w1c, 0, 0xffffffff⟩, ⟨4, 7, .ro, 0, 0xffffffff⟩, ⟨16, 7, .ro, 0, 0xffffffff⟩]⟩,
 ⟨0x1c, 0x4, 1, 0x640064, 0x0, [⟨0, 16, .rw, 0, 0xffffffff⟩, ⟨16, 8, .rw, 1, 0xff⟩]⟩,
 ⟨0x20, 0x4, 1, 0x0, 0x0, [⟨0, 16, .rc, 0, 0xffffffff⟩, ⟨16, 16, .rc, 0, 0xffffffff⟩]⟩,
 ⟨0x24, 0x4, 1, 0x0, 0x0, [⟨0, 8, .rc, 0, 0xffffffff⟩, ⟨8, 8, .rc, 0, 0xffffffff⟩, ⟨16, 8, .rc, 0, 0xffffffff⟩, ⟨24, 8, .rc, 0, 0xffffffff⟩]⟩,
 ⟨0x28, 0x4, 1, 0x0, 0x0, [⟨0, 32, .rc, 0, 0xffffffff⟩]⟩,
 ⟨0x30, 0x4, 1, 0x0, 0x0, [⟨0, 7, .rw, 0, 0xffffffff⟩, ⟨8, 8, .rw, 0, 0xffffffff⟩, ⟨16, 5, .rw, 0, 0x1e⟩, ⟨24, 1, .wo, 0, 0xffffffff⟩]⟩,
 ⟨0x34, 0x4, 1, 0x0, 0x0, [⟨0, 1, .ro, 0, 0xffffffff⟩, ⟨1, 1, .w1c, 0, 0xffffffff⟩, ⟨2, 1, .w1c, 0, 0xffffffff⟩, ⟨3, 1, .w1c, 0, 0xffffffff⟩]⟩,
 ⟨0x38, 0x4, 1, 0x0, 0x0, [⟨0, 32, .ro, 0, 0xffffffff⟩]⟩,
 ⟨0x3c, 0x4, 1, 0x0, 0x0, [⟨0, 32, .ro, 0, 0xffffffff⟩]⟩]
/-- The LANE block. -/
def blockLANE : BlockD := ⟨0x40100000, 0x1000, 28, regsLANE0⟩

def regsCHAIN0 : List RegD := [
 ⟨0x0, 0x4, 1, 0x800, 0x0, [⟨0, 2, .rws, 0, 0x2⟩, ⟨2, 1, .rws, 0, 0xffffffff⟩, ⟨8, 8, .rws, 2, 0xff⟩, ⟨31, 1, .rws, 0, 0xffffffff⟩]⟩,
 ⟨0x4, 0x4, 1, 0x0, 0x0, [⟨0, 1, .wo, 0, 0xffffffff⟩]⟩,
 ⟨0x8, 0x4, 1, 0x0, 0xffff0000, [⟨0, 3, .ro, 0, 0xffffffff⟩, ⟨4, 4, .ro, 0, 0xffffffff⟩, ⟨8, 1, .ro, 0, 0xffffffff⟩, ⟨9, 1, .ro, 0, 0xffffffff⟩, ⟨16, 16, .ro, 0, 0xffffffff⟩]⟩,
 ⟨0xc, 0x4, 1, 0x0, 0x0, [⟨0, 24, .ro, 0, 0xffffffff⟩, ⟨31, 1, .ro, 0, 0xffffffff⟩]⟩,
 ⟨0x10, 0x4, 1, 0x0, 0x0, [⟨0, 8, .rws, 0, 0xffffffff⟩, ⟨8, 8, .rws, 0, 0xffffffff⟩, ⟨16, 16, .rws, 0, 0xffffffff⟩]⟩,
 ⟨0x14, 0x4, 1, 0x0, 0x0, [⟨0, 16, .rc, 0, 0xffffffff⟩, ⟨16, 16, .rc, 0, 0xffffffff⟩]⟩,
 ⟨0x18, 0x4, 1, 0x0, 0x0, [⟨0, 16, .rc, 0, 0xffffffff⟩, ⟨16, 16, .rc, 0, 0xffffffff⟩]⟩,
 ⟨0x1c, 0x4, 1, 0x0, 0x0, [⟨0, 8, .ro, 0, 0xffffffff⟩, ⟨8, 8, .ro, 0, 0xffffffff⟩]⟩]
/-- The CHAIN block. -/
def blockCHAIN : BlockD := ⟨0x40200000, 0x1000, 24, regsCHAIN0⟩

def regsCELLCTL0 : List RegD := [
 ⟨0x0, 0x4, 1, 0x2, 0x0, [⟨0, 1, .rws, 0, 0xffffffff⟩, ⟨1, 3, .rw, 1, 0x5⟩, ⟨4, 1, .rws, 0, 0xffffffff⟩, ⟨16, 16, .rws, 0, 0xffffffff⟩]⟩,
 ⟨0x4, 0x4, 1, 0x0, 0x0, [⟨0, 3, .ro, 0, 0xffffffff⟩, ⟨4, 3, .ro, 0, 0xffffffff⟩, ⟨8, 1, .ro, 0, 0xffffffff⟩, ⟨9, 1, .ro, 0, 0xffffffff⟩, ⟨10, 1, .ro, 0, 0xffffffff⟩, ⟨11, 1, .ro, 0, 0xffffffff⟩, ⟨12, 1, .ro, 0, 0xffffffff⟩]⟩,
 ⟨0x8, 0x4, 1, 0x0, 0x0, [⟨0, 5, .ro, 0, 0xffffffff⟩, ⟨8, 3, .ro, 0, 0xffffffff⟩, ⟨16, 8, .ro, 0, 0xffffffff⟩, ⟨24, 8, .ro, 0, 0xffffffff⟩]⟩,
 ⟨0xc, 0x4, 1, 0x0, 0x0, [⟨0, 24, .ro, 0, 0xffffffff⟩]⟩,
 ⟨0x10, 0x4, 1, 0x0, 0x0, [⟨0, 24, .ro, 0, 0xffffffff⟩]⟩,
 ⟨0x14, 0x4, 1, 0x0, 0x0, [⟨0, 16, .ro, 0, 0xffffffff⟩, ⟨16, 16, .ro, 0, 0xffffffff⟩]⟩,
 ⟨0x18, 0x4, 1, 0x0, 0x0, [⟨0, 16, .rw, 0, 0xffffffff⟩, ⟨16, 8, .rw, 0, 0xffffffff⟩]⟩,
 ⟨0x1c, 0x4, 1, 0x0, 0x0, [⟨0, 32, .rw, 0, 0xffffffff⟩]⟩,
 ⟨0x20, 0x4, 1, 0x0, 0x0, [⟨0, 32, .rw, 0, 0xffffffff⟩]⟩,
 ⟨0x24, 0x4, 1, 0x0, 0x0, [⟨0, 1, .wo, 0, 0xffffffff⟩, ⟨1, 1, .ro, 0, 0xffffffff⟩, ⟨2, 1, .w1c, 0, 0xffffffff⟩]⟩,
 ⟨0x28, 0x4, 1, 0x0, 0x0, [⟨0, 8, .ro, 0, 0xffffffff⟩, ⟨8, 3, .ro, 0, 0xffffffff⟩, ⟨16, 16, .ro, 0, 0xffffffff⟩]⟩,
 ⟨0x2c, 0x4, 1, 0x0, 0x0, [⟨0, 32, .ro, 0, 0xffffffff⟩]⟩]
/-- The CELLCTL block. -/
def blockCELLCTL : BlockD := ⟨0x40280000, 0x100, 192, regsCELLCTL0⟩

def regsMOD0 : List RegD := [
 ⟨0x0, 0x4, 1, 0x500, 0x0, [⟨0, 1, .rws, 0, 0xffffffff⟩, ⟨8, 8, .rws, 0, 0xffffffff⟩]⟩,
 ⟨0x4, 0x4, 1, 0x0, 0x0, [⟨0, 32, .rws, 0, 0xffffffff⟩]⟩,
 ⟨0x8, 0x4, 1, 0x0, 0x0, [⟨0, 32, .wo, 0, 0xffffffff⟩]⟩,
 ⟨0xc, 0x4, 1, 0x3e807d0, 0x0, [⟨0, 16, .rw, 0, 0xffffffff⟩, ⟨16, 16, .rw, 0, 0xffffffff⟩]⟩,
 ⟨0x10, 0x4, 1, 0x310, 0x0, [⟨0, 8, .rw, 4, 0xff⟩, ⟨8, 1, .rw, 0, 0xffffffff⟩, ⟨9, 1, .rw, 0, 0xffffffff⟩]⟩,
 ⟨0x14, 0x4, 1, 0x0, 0x0, [⟨0, 16, .w1c, 0, 0xffffffff⟩]⟩,
 ⟨0x18, 0x4, 1, 0x0, 0x0, [⟨0, 16, .rc, 0, 0xffffffff⟩, ⟨16, 16, .rc, 0, 0xffffffff⟩]⟩,
 ⟨0x20, 0x4, 1, 0x400, 0x0, [⟨0, 8, .rw, 0, 0xbf⟩, ⟨8, 3, .rw, 4, 0x5⟩, ⟨11, 2, .rw, 0, 0xffffffff⟩, ⟨30, 1, .ro, 0, 0xffffffff⟩, ⟨31, 1, .wo, 0, 0xffffffff⟩]⟩,
 ⟨0x24, 0x4, 1, 0x0, 0x0, [⟨0, 24, .rw, 0, 0xffffffff⟩]⟩,
 ⟨0x28, 0x4, 1, 0x0, 0x0, [⟨0, 32, .rw, 0, 0xffffffff⟩]⟩,
 ⟨0x200, 0x4, 24, 0x0, 0x0, [⟨0, 3, .rws, 0, 0xffffffff⟩, ⟨4, 3, .rws, 0, 0xffffffff⟩, ⟨8, 3, .rws, 0, 0xffffffff⟩, ⟨12, 3, .rws, 0, 0xffffffff⟩, ⟨16, 3, .rws, 0, 0xffffffff⟩, ⟨20, 3, .rws, 0, 0xffffffff⟩, ⟨24, 3, .rws, 0, 0xffffffff⟩, ⟨28, 3, .rws, 0, 0xffffffff⟩, ⟨3, 1, .rws, 0, 0xffffffff⟩, ⟨7, 1, .rws, 0, 0xffffffff⟩, ⟨11, 1, .rws, 0, 0xffffffff⟩, ⟨15, 1, .rws, 0, 0xffffffff⟩, ⟨19, 1, .rws, 0, 0xffffffff⟩, ⟨23, 1, .rws, 0, 0xffffffff⟩, ⟨27, 1, .rws, 0, 0xffffffff⟩, ⟨31, 1, .rws, 0, 0xffffffff⟩]⟩]
/-- The MOD block. -/
def blockMOD : BlockD := ⟨0x40300000, 0x1000, 1, regsMOD0⟩

def regsSTR0 : List RegD := [
 ⟨0x0, 0x4, 1, 0x0, 0x0, [⟨0, 5, .rws, 0, 0xffffffff⟩, ⟨8, 1, .rws, 0, 0xffffffff⟩]⟩,
 ⟨0x4, 0x4, 1, 0x2710, 0x0, [⟨0, 20, .rw, 10000, 0xf4240⟩]⟩,
 ⟨0x8, 0x4, 1, 0x0, 0x0, [⟨0, 24, .rw, 0, 0xffffffff⟩]⟩,
 ⟨0xc, 0x4, 1, 0x0, 0x0, [⟨0, 8, .ro, 0, 0xffffffff⟩, ⟨8, 8, .ro, 0, 0xffffffff⟩]⟩,
 ⟨0x10, 0x4, 1, 0x0, 0x0, [⟨0, 16, .rc, 0, 0xffffffff⟩, ⟨16, 16, .rc, 0, 0xffffffff⟩]⟩]
/-- The STR block. -/
def blockSTR : BlockD := ⟨0x40300100, 0x20, 8, regsSTR0⟩

def regsMODCH0 : List RegD := [
 ⟨0x0, 0x4, 1, 0x0, 0x0, [⟨0, 2, .rw, 0, 0x2⟩, ⟨2, 1, .rw, 0, 0xffffffff⟩, ⟨4, 5, .rws, 0, 0xffffffff⟩, ⟨12, 4, .rws, 0, 0xffffffff⟩, ⟨16, 1, .rws, 0, 0xffffffff⟩]⟩,
 ⟨0x4, 0x4, 1, 0x2710, 0x0, [⟨0, 20, .ro, 0, 0xffffffff⟩]⟩,
 ⟨0x8, 0x4, 1, 0x0, 0x0, [⟨0, 24, .ro, 0, 0xffffffff⟩]⟩,
 ⟨0xc, 0x4, 1, 0x0, 0x0, [⟨0, 24, .ro, 0, 0xffffffff⟩]⟩,
 ⟨0x10, 0x4, 1, 0x0, 0x0, [⟨0, 24, .ro, 0, 0xffffffff⟩]⟩,
 ⟨0x14, 0x4, 1, 0x2710, 0x0, [⟨0, 20, .rw, 10000, 0xf4240⟩]⟩,
 ⟨0x18, 0x4, 1, 0x0, 0x0, [⟨0, 24, .rw, 0, 0xffffffff⟩]⟩,
 ⟨0x1c, 0x4, 1, 0x0, 0x0, [⟨0, 24, .rw, 0, 0xffffffff⟩]⟩,
 ⟨0x20, 0x4, 1, 0x0, 0x0, [⟨0, 24, .rw, 0, 0xffffffff⟩]⟩,
 ⟨0x24, 0x4, 1, 0x300, 0x0, [⟨0, 4, .ro, 0, 0xffffffff⟩, ⟨4, 1, .ro, 0, 0xffffffff⟩, ⟨5, 1, .w1c, 0, 0xffffffff⟩, ⟨6, 1, .ro, 0, 0xffffffff⟩, ⟨7, 1, .w1c, 0, 0xffffffff⟩, ⟨8, 2, .ro, 0, 0xffffffff⟩]⟩,
 ⟨0x28, 0x4, 1, 0x0, 0x0, [⟨0, 16, .ro, 0, 0xffffffff⟩, ⟨16, 16, .ro, 0, 0xffffffff⟩]⟩,
 ⟨0x2c, 0x4, 1, 0x0, 0x0, [⟨0, 16, .rc, 0, 0xffffffff⟩, ⟨16, 16, .rc, 0, 0xffffffff⟩]⟩,
 ⟨0x30, 0x4, 1, 0x0, 0x0, [⟨0, 16, .rc, 0, 0xffffffff⟩, ⟨16, 16, .rc, 0, 0xffffffff⟩]⟩,
 ⟨0x34, 0x4, 1, 0x0, 0x0, [⟨0, 30, .ro, 0, 0xffffffff⟩]⟩]
/-- The MODCH block. -/
def blockMODCH : BlockD := ⟨0x40310000, 0x40, 768, regsMODCH0⟩

def regsLPWM0 : List RegD := [
 ⟨0x0, 0x4, 1, 0x0, 0x0, [⟨0, 2, .rw, 0, 0x1⟩, ⟨2, 1, .rws, 0, 0xffffffff⟩, ⟨3, 1, .rws, 0, 0xffffffff⟩, ⟨4, 5, .rws, 0, 0xffffffff⟩, ⟨12, 4, .rws, 0, 0xffffffff⟩, ⟨16, 1, .rws, 0, 0xffffffff⟩, ⟨17, 1, .rws, 0, 0xffffffff⟩, ⟨18, 5, .rws, 0, 0x17⟩, ⟨23, 1, .rw, 0, 0xffffffff⟩]⟩,
 ⟨0x24, 0x4, 1, 0x1900190, 0x0, [⟨0, 12, .rws, 4, 0xfff⟩, ⟨16, 12, .rws, 4, 0xfff⟩]⟩,
 ⟨0x28, 0x4, 1, 0x0, 0x8000, [⟨0, 4, .ro, 0, 0xffffffff⟩, ⟨4, 1, .ro, 0, 0xffffffff⟩, ⟨5, 1, .w1c, 0, 0xffffffff⟩, ⟨8, 1, .ro, 0, 0xffffffff⟩, ⟨9, 1, .ro, 0, 0xffffffff⟩, ⟨10, 1, .w1c, 0, 0xffffffff⟩, ⟨11, 1, .ro, 0, 0xffffffff⟩, ⟨12, 1, .ro, 0, 0xffffffff⟩, ⟨13, 2, .ro, 0, 0xffffffff⟩, ⟨15, 1, .ro, 0, 0xffffffff⟩]⟩,
 ⟨0x2c, 0x4, 1, 0x0, 0x0, [⟨0, 1, .wo, 0, 0xffffffff⟩]⟩,
 ⟨0x30, 0x4, 1, 0x0, 0x0, [⟨0, 16, .rc, 0, 0xffffffff⟩, ⟨16, 16, .rc, 0, 0xffffffff⟩]⟩,
 ⟨0x4, 0x4, 1, 0x2710, 0x0, [⟨0, 20, .ro, 0, 0xffffffff⟩]⟩,
 ⟨0x8, 0x4, 1, 0x0, 0x0, [⟨0, 24, .ro, 0, 0xffffffff⟩]⟩,
 ⟨0xc, 0x4, 1, 0x0, 0x0, [⟨0, 24, .ro, 0, 0xffffffff⟩]⟩,
 ⟨0x10, 0x4, 1, 0x0, 0x0, [⟨0, 24, .ro, 0, 0xffffffff⟩]⟩,
 ⟨0x14, 0x4, 1, 0x2710, 0x0, [⟨0, 20, .rw, 1000, 0xf4240⟩]⟩,
 ⟨0x18, 0x4, 1, 0x0, 0x0, [⟨0, 24, .rw, 0, 0xffffffff⟩]⟩,
 ⟨0x1c, 0x4, 1, 0x0, 0x0, [⟨0, 24, .rw, 0, 0xffffffff⟩]⟩,
 ⟨0x20, 0x4, 1, 0x0, 0x0, [⟨0, 24, .rw, 0, 0xffffffff⟩]⟩]
/-- The LPWM block. -/
def blockLPWM : BlockD := ⟨0x40380000, 0x100, 16, regsLPWM0⟩

def regsLOOP0 : List RegD := [
 ⟨0x0, 0x4, 1, 0x5, 0x0, [⟨0, 7, .rws, 2, 0x40⟩, ⟨8, 1, .rws, 0, 0xffffffff⟩]⟩,
 ⟨0x4, 0x4, 1, 0x0, 0x0, [⟨0, 32, .rws, 0, 0xffffffff⟩]⟩,
 ⟨0x8, 0x4, 1, 0x0, 0x0, [⟨0, 32, .ro, 0, 0xffffffff⟩]⟩,
 ⟨0xc, 0x4, 1, 0x0, 0xffffffff, [⟨0, 32, .ro, 0, 0xffffffff⟩]⟩,
 ⟨0x10, 0x4, 1, 0x0, 0x0, [⟨0, 16, .rc, 0, 0xffffffff⟩]⟩]
/-- The LOOP block. -/
def blockLOOP : BlockD := ⟨0x40400000, 0x100, 1, regsLOOP0⟩

def regsLOOPCH0 : List RegD := [
 ⟨0x0, 0x4, 1, 0x3000c800, 0x0, [⟨0, 6, .rws, 0, 0xffffffff⟩, ⟨8, 8, .rws, 50, 0xc8⟩, ⟨16, 10, .rws, 0, 0xffffffff⟩, ⟨28, 3, .rws, 0, 0xffffffff⟩, ⟨31, 1, .rws, 0, 0xffffffff⟩]⟩,
 ⟨0x4, 0x4, 1, 0x0, 0x0, [⟨0, 24, .ro, 0, 0xffffffff⟩, ⟨31, 1, .ro, 0, 0xffffffff⟩]⟩,
 ⟨0x8, 0x4, 1, 0x0, 0x0, [⟨0, 24, .ro, 0, 0xffffffff⟩, ⟨24, 4, .ro, 0, 0xffffffff⟩]⟩,
 ⟨0xc, 0x4, 1, 0x0, 0x0, [⟨0, 16, .ro, 0, 0xffffffff⟩, ⟨16, 1, .ro, 0, 0xffffffff⟩]⟩,
 ⟨0x10, 0x4, 1, 0x0, 0x0, [⟨0, 16, .rc, 0, 0xffffffff⟩, ⟨16, 16, .rc, 0, 0xffffffff⟩]⟩]
/-- The LOOPCH block. -/
def blockLOOPCH : BlockD := ⟨0x40400100, 0x20, 24, regsLOOPCH0⟩

def regsLOOPE0 : List RegD := [
 ⟨0x0, 0x4, 1, 0x0, 0x0, [⟨0, 4, .rw, 0, 0xffffffff⟩, ⟨4, 4, .rw, 0, 0xffffffff⟩, ⟨8, 1, .wo, 0, 0xffffffff⟩, ⟨9, 1, .ro, 0, 0xffffffff⟩, ⟨10, 1, .w1c, 0, 0xffffffff⟩, ⟨11, 1, .w1c, 0, 0xffffffff⟩]⟩,
 ⟨0x4, 0x4, 1, 0x0, 0x0, [⟨0, 32, .rw, 0, 0xffffffff⟩]⟩,
 ⟨0x8, 0x4, 1, 0x3e8, 0x0, [⟨0, 16, .rw, 1, 0xffff⟩, ⟨16, 1, .ro, 0, 0xffffffff⟩]⟩,
 ⟨0xc, 0x4, 1, 0x0, 0x0, [⟨0, 16, .w1c, 0, 0xffffffff⟩]⟩,
 ⟨0x10, 0x4, 1, 0x0, 0x0, [⟨0, 4, .rw, 0, 0xffffffff⟩]⟩]
/-- The LOOPE block. -/
def blockLOOPE : BlockD := ⟨0x40400400, 0x100, 1, regsLOOPE0⟩

def regsENG0 : List RegD := [
 ⟨0x0, 0x4, 1, 0x0, 0x0, [⟨0, 1, .rw, 0, 0xffffffff⟩, ⟨1, 1, .wo, 0, 0xffffffff⟩, ⟨2, 1, .wo, 0, 0xffffffff⟩]⟩,
 ⟨0x4, 0x4, 1, 0x0, 0x0, [⟨0, 3, .ro, 0, 0xffffffff⟩, ⟨3, 1, .ro, 0, 0xffffffff⟩, ⟨4, 3, .ro, 0, 0xffffffff⟩, ⟨8, 8, .ro, 0, 0xffffffff⟩]⟩,
 ⟨0x8, 0x4, 1, 0x0, 0x0, [⟨0, 16, .ro, 0, 0xffffffff⟩, ⟨16, 4, .ro, 0, 0xffffffff⟩]⟩,
 ⟨0xc, 0x4, 1, 0x0, 0x0, [⟨0, 32, .ro, 0, 0xffffffff⟩]⟩,
 ⟨0x10, 0x4, 1, 0x0, 0x0, [⟨0, 1, .ro, 0, 0xffffffff⟩, ⟨1, 1, .w1c, 0, 0xffffffff⟩, ⟨2, 1, .w1c, 0, 0xffffffff⟩, ⟨8, 8, .rc, 0, 0xffffffff⟩]⟩,
 ⟨0x14, 0x4, 1, 0x0, 0x0, [⟨0, 16, .rc, 0, 0xffffffff⟩, ⟨16, 16, .rc, 0, 0xffffffff⟩]⟩,
 ⟨0x18, 0x4, 1, 0x0, 0x0, [⟨0, 16, .rw, 0, 0xffffffff⟩]⟩,
 ⟨0x1c, 0x4, 1, 0x0, 0x0, [⟨0, 16, .w1c, 0, 0xffffffff⟩]⟩,
 ⟨0x20, 0x4, 1, 0x1, 0x0, [⟨0, 1, .rw, 0, 0xffffffff⟩]⟩,
 ⟨0x300, 0x10, 16, 0x0, 0x0, [⟨8, 24, .rw, 0, 0xffffffff⟩]⟩,
 ⟨0x304, 0x10, 16, 0x0, 0x0, [⟨8, 24, .rw, 0, 0xffffffff⟩]⟩,
 ⟨0x308, 0x10, 16, 0x0, 0x0, [⟨0, 1, .rw, 0, 0xffffffff⟩, ⟨1, 1, .rw, 0, 0xffffffff⟩, ⟨2, 1, .rw, 0, 0xffffffff⟩, ⟨3, 1, .rw, 0, 0xffffffff⟩, ⟨4, 1, .rw, 0, 0xffffffff⟩]⟩,
 ⟨0x100, 0x20, 8, 0x0, 0x0, [⟨0, 1, .rw, 0, 0xffffffff⟩, ⟨1, 5, .rws, 0, 0xffffffff⟩, ⟨6, 1, .rws, 0, 0xffffffff⟩, ⟨7, 5, .rws, 0, 0xffffffff⟩, ⟨16, 16, .rws, 0, 0xffffffff⟩]⟩,
 ⟨0x104, 0x20, 8, 0x0, 0x0, [⟨0, 24, .rws, 0, 0xffffffff⟩]⟩,
 ⟨0x108, 0x20, 8, 0x0, 0x0, [⟨0, 24, .rws, 0, 0xffffffff⟩]⟩,
 ⟨0x10c, 0x20, 8, 0xffffffff, 0x0, [⟨0, 8, .rws, 0, 0xffffffff⟩, ⟨8, 8, .rws, 0, 0xffffffff⟩, ⟨16, 8, .rws, 0, 0xffffffff⟩, ⟨24, 8, .rws, 0, 0xffffffff⟩]⟩,
 ⟨0x110, 0x20, 8, 0xffffffff, 0x0, [⟨0, 8, .rws, 0, 0xffffffff⟩, ⟨8, 8, .rws, 0, 0xffffffff⟩, ⟨16, 8, .rws, 0, 0xffffffff⟩, ⟨24, 8, .rws, 0, 0xffffffff⟩]⟩,
 ⟨0x114, 0x20, 8, 0xffffffff, 0x0, [⟨0, 8, .rws, 0, 0xffffffff⟩, ⟨8, 8, .rws, 0, 0xffffffff⟩, ⟨16, 8, .rws, 0, 0xffffffff⟩, ⟨24, 8, .rws, 0, 0xffffffff⟩]⟩,
 ⟨0x118, 0x20, 8, 0x0, 0x0, [⟨0, 16, .rc, 0, 0xffffffff⟩, ⟨16, 16, .rc, 0, 0xffffffff⟩]⟩,
 ⟨0x11c, 0x20, 8, 0x0, 0x0, [⟨0, 24, .rc, 0, 0xffffffff⟩, ⟨24, 8, .rc, 0, 0xffffffff⟩]⟩,
 ⟨0x200, 0x8, 16, 0x0, 0x0, [⟨0, 22, .rws, 0, 0xffffffff⟩]⟩,
 ⟨0x204, 0x8, 16, 0x0, 0x0, [⟨0, 16, .rws, 0, 0xffffffff⟩, ⟨16, 6, .rws, 1, 0x20⟩, ⟨22, 3, .rws, 0, 0xffffffff⟩, ⟨25, 1, .rws, 0, 0xffffffff⟩, ⟨26, 1, .rws, 0, 0xffffffff⟩]⟩]
/-- The ENG block. -/
def blockENG : BlockD := ⟨0x40410000, 0x1000, 20, regsENG0⟩

def regsGLUT0 : List RegD := [
 ⟨0x0, 0x4, 4, 0x0, 0x0, [⟨0, 5, .rw, 0, 0xffffffff⟩, ⟨8, 1, .rw, 0, 0xffffffff⟩, ⟨12, 1, .ro, 0, 0xffffffff⟩, ⟨13, 1, .ro, 0, 0xffffffff⟩, ⟨16, 1, .wo, 0, 0xffffffff⟩]⟩,
 ⟨0x100, 0x4, 128, 0x0, 0x0, [⟨0, 16, .rw, 0, 0xffffffff⟩, ⟨16, 16, .rw, 0, 0xffffffff⟩]⟩,
 ⟨0x300, 0x4, 1, 0x0, 0x0, [⟨0, 16, .rw, 0, 0xffffffff⟩]⟩,
 ⟨0x500, 0x4, 128, 0x0, 0x0, [⟨0, 16, .rw, 0, 0xffffffff⟩, ⟨16, 16, .rw, 0, 0xffffffff⟩]⟩,
 ⟨0x700, 0x4, 1, 0x0, 0x0, [⟨0, 16, .rw, 0, 0xffffffff⟩]⟩,
 ⟨0x900, 0x4, 128, 0x0, 0x0, [⟨0, 16, .rw, 0, 0xffffffff⟩, ⟨16, 16, .rw, 0, 0xffffffff⟩]⟩,
 ⟨0xb00, 0x4, 1, 0x0, 0x0, [⟨0, 16, .rw, 0, 0xffffffff⟩]⟩,
 ⟨0xd00, 0x4, 128, 0x0, 0x0, [⟨0, 16, .rw, 0, 0xffffffff⟩, ⟨16, 16, .rw, 0, 0xffffffff⟩]⟩,
 ⟨0xf00, 0x4, 1, 0x0, 0x0, [⟨0, 16, .rw, 0, 0xffffffff⟩]⟩]
/-- The GLUT block. -/
def blockGLUT : BlockD := ⟨0x40440000, 0x1000, 16, regsGLUT0⟩

def regsPGEN0 : List RegD := [
 ⟨0x0, 0x4, 1, 0x0, 0x0, [⟨0, 3, .rws, 0, 0xffffffff⟩, ⟨4, 1, .rw, 0, 0xffffffff⟩, ⟨5, 1, .rws, 0, 0xffffffff⟩, ⟨6, 1, .wo, 0, 0xffffffff⟩]⟩,
 ⟨0x4, 0x4, 1, 0x10000, 0x0, [⟨0, 32, .rw, 1, 0xffffffff⟩]⟩,
 ⟨0x8, 0x4, 1, 0x10000, 0x0, [⟨0, 32, .rw, 1, 0xffffffff⟩]⟩,
 ⟨0xc, 0x4, 1, 0x10000, 0x0, [⟨0, 32, .rw, 1, 0xffffffff⟩]⟩,
 ⟨0x10, 0x4, 1, 0x0, 0x0, [⟨0, 32, .rw, 0, 0xffffffff⟩]⟩,
 ⟨0x14, 0x4, 1, 0x0, 0x0, [⟨0, 32, .ro, 0, 0xffffffff⟩]⟩,
 ⟨0x18, 0x4, 1, 0x0, 0x0, [⟨0, 32, .ro, 0, 0xffffffff⟩]⟩,
 ⟨0x1c, 0x4, 1, 0x0, 0x0, [⟨0, 32, .ro, 0, 0xffffffff⟩]⟩,
 ⟨0x20, 0x4, 1, 0x0, 0x0, [⟨0, 32, .rw, 0, 0xffffffff⟩]⟩,
 ⟨0x24, 0x4, 1, 0x2, 0x0, [⟨0, 1, .ro, 0, 0xffffffff⟩, ⟨1, 1, .ro, 0, 0xffffffff⟩, ⟨2, 1, .ro, 0, 0xffffffff⟩, ⟨3, 1, .ro, 0, 0xffffffff⟩, ⟨4, 1, .w1c, 0, 0xffffffff⟩, ⟨16, 16, .rc, 0, 0xffffffff⟩]⟩]
/-- The PGEN block. -/
def blockPGEN : BlockD := ⟨0x40460000, 0x100, 16, regsPGEN0⟩

def regsPROT0 : List RegD := [
 ⟨0x0, 0x4, 1, 0x140340, 0x0, [⟨0, 1, .rws, 0, 0xffffffff⟩, ⟨1, 2, .rws, 0, 0xffffffff⟩, ⟨4, 4, .rw, 1, 0xf⟩, ⟨8, 3, .rw, 0, 0xffffffff⟩, ⟨16, 10, .rw, 1, 0x3e8⟩]⟩,
 ⟨0x4, 0x4, 1, 0x3c, 0x0, [⟨0, 12, .rw, 1, 0xe10⟩]⟩,
 ⟨0x8, 0x4, 1, 0x0, 0x0, [⟨0, 8, .ro, 0, 0xffffffff⟩, ⟨8, 8, .ro, 0, 0xffffffff⟩, ⟨16, 1, .ro, 0, 0xffffffff⟩]⟩,
 ⟨0xc, 0x4, 1, 0x0, 0x0, [⟨0, 8, .rc, 0, 0xffffffff⟩, ⟨8, 4, .rc, 0, 0xffffffff⟩, ⟨12, 4, .rc, 0, 0xffffffff⟩, ⟨16, 1, .rc, 0, 0xffffffff⟩]⟩,
 ⟨0x10, 0x4, 1, 0x0, 0x0, [⟨0, 5, .ro, 0, 0xffffffff⟩, ⟨16, 16, .rc, 0, 0xffffffff⟩]⟩,
 ⟨0x14, 0x4, 1, 0x0, 0x0, [⟨0, 8, .rw, 0, 0xbf⟩, ⟨31, 1, .wo, 0, 0xffffffff⟩]⟩,
 ⟨0x18, 0x4, 1, 0x0, 0x0, [⟨0, 16, .rc, 0, 0xffffffff⟩, ⟨16, 16, .rc, 0, 0xffffffff⟩]⟩,
 ⟨0x1c, 0x4, 1, 0x0, 0x0, [⟨0, 16, .rc, 0, 0xffffffff⟩, ⟨16, 16, .rc, 0, 0xffffffff⟩]⟩,
 ⟨0x20, 0x4, 1, 0x2580014, 0x0, [⟨0, 1, .rw, 0, 0xffffffff⟩, ⟨1, 7, .rw, 1, 0x64⟩, ⟨16, 16, .rw, 1, 0xffff⟩]⟩,
 ⟨0x24, 0x4, 1, 0x1f4, 0x0, [⟨0, 24, .rw, 0, 0xffffffff⟩]⟩,
 ⟨0x28, 0x4, 1, 0x0, 0x0, [⟨0, 8, .ro, 0, 0xffffffff⟩, ⟨8, 4, .ro, 0, 0xffffffff⟩, ⟨12, 1, .ro, 0, 0xffffffff⟩, ⟨16, 16, .rc, 0, 0xffffffff⟩]⟩,
 ⟨0x30, 0x4, 1, 0x0, 0x0, [⟨0, 1, .rws, 0, 0xffffffff⟩, ⟨1, 5, .rws, 0, 0x17⟩, ⟨6, 1, .rws, 0, 0xffffffff⟩, ⟨8, 8, .rw, 0, 0xffffffff⟩]⟩,
 ⟨0x34, 0x4, 1, 0x0, 0x0, [⟨0, 1, .ro, 0, 0xffffffff⟩, ⟨1, 1, .ro, 0, 0xffffffff⟩, ⟨2, 2, .ro, 0, 0xffffffff⟩, ⟨16, 16, .rc, 0, 0xffffffff⟩]⟩]
/-- The PROT block. -/
def blockPROT : BlockD := ⟨0x40500000, 0x1000, 1, regsPROT0⟩

def regsPARC0 : List RegD := [
 ⟨0x0, 0x4, 4, 0xc8, 0x0, [⟨0, 12, .rw, 10, 0xfff⟩]⟩,
 ⟨0x10, 0x4, 12, 0xbc28, 0x0, [⟨0, 7, .rw, 4, 0x78⟩, ⟨8, 7, .rw, 20, 0x78⟩, ⟨15, 1, .rw, 0, 0xffffffff⟩]⟩,
 ⟨0x40, 0x4, 1, 0x320ffff, 0x0, [⟨0, 16, .rw, 0, 0xffffffff⟩, ⟨16, 16, .rw, 0, 0xffffffff⟩]⟩,
 ⟨0x44, 0x4, 1, 0x0, 0x0, [⟨0, 1, .wo, 0, 0xffffffff⟩, ⟨1, 1, .rw, 0, 0xffffffff⟩, ⟨2, 1, .rw, 0, 0xffffffff⟩]⟩,
 ⟨0x48, 0x4, 1, 0x0, 0x0, [⟨0, 32, .rw, 0, 0xffffffff⟩]⟩,
 ⟨0x4c, 0x4, 1, 0x0, 0x0, [⟨0, 17, .ro, 0, 0xffffffff⟩, ⟨17, 1, .ro, 0, 0xffffffff⟩, ⟨18, 1, .w1c, 0, 0xffffffff⟩]⟩,
 ⟨0x50, 0x4, 1, 0x0, 0x0, [⟨0, 2, .ro, 0, 0xffffffff⟩, ⟨16, 10, .ro, 0, 0xffffffff⟩]⟩,
 ⟨0x54, 0x4, 1, 0x0, 0x0, [⟨0, 12, .ro, 0, 0xffffffff⟩, ⟨16, 12, .ro, 0, 0xffffffff⟩]⟩]
/-- The PARC block. -/
def blockPARC : BlockD := ⟨0x40501000, 0x80, 192, regsPARC0⟩

def regsSREC0 : List RegD := [
 ⟨0x0, 0x4, 1, 0x0, 0x0, [⟨0, 1, .ro, 0, 0xffffffff⟩, ⟨1, 1, .ro, 0, 0xffffffff⟩, ⟨3, 3, .ro, 0, 0xffffffff⟩, ⟨16, 16, .rc, 0, 0xffffffff⟩]⟩,
 ⟨0x4, 0x4, 1, 0x0, 0x0, [⟨0, 30, .ro, 0, 0xffffffff⟩, ⟨30, 2, .ro, 0, 0xffffffff⟩]⟩,
 ⟨0x8, 0x4, 1, 0x0, 0x0, [⟨0, 32, .ro, 0, 0xffffffff⟩]⟩,
 ⟨0xc, 0x4, 1, 0x0, 0x0, [⟨0, 24, .ro, 0, 0xffffffff⟩, ⟨24, 1, .ro, 0, 0xffffffff⟩, ⟨25, 1, .ro, 0, 0xffffffff⟩]⟩]
/-- The SREC block. -/
def blockSREC : BlockD := ⟨0x40508000, 0x10, 2304, regsSREC0⟩

def regsLREC0 : List RegD := [
 ⟨0x8, 0x4, 1, 0x0, 0x0, [⟨0, 30, .ro, 0, 0xffffffff⟩, ⟨30, 2, .ro, 0, 0xffffffff⟩]⟩,
 ⟨0xc, 0x4, 1, 0x0, 0x0, [⟨0, 32, .ro, 0, 0xffffffff⟩]⟩,
 ⟨0x0, 0x4, 1, 0x0, 0x0, [⟨0, 1, .rw, 0, 0xffffffff⟩]⟩,
 ⟨0x4, 0x4, 1, 0x0, 0x0, [⟨0, 3, .ro, 0, 0xffffffff⟩, ⟨3, 1, .w1c, 0, 0xffffffff⟩, ⟨4, 1, .ro, 0, 0xffffffff⟩, ⟨16, 16, .rc, 0, 0xffffffff⟩]⟩]
/-- The LREC block. -/
def blockLREC : BlockD := ⟨0x40518000, 0x10, 16, regsLREC0⟩

def regsADC0 : List RegD := [
 ⟨0x0, 0x4, 1, 0x0, 0x0, [⟨0, 1, .rw, 0, 0xffffffff⟩, ⟨1, 2, .rw, 0, 0xffffffff⟩, ⟨3, 5, .rw, 0, 0xffffffff⟩, ⟨8, 4, .rw, 0, 0xffffffff⟩, ⟨16, 16, .rw, 0, 0xffffffff⟩]⟩,
 ⟨0x4, 0x4, 1, 0x0, 0x0, [⟨0, 3, .rw, 0, 0xffffffff⟩, ⟨4, 3, .rw, 0, 0xffffffff⟩, ⟨8, 3, .rw, 0, 0xffffffff⟩, ⟨12, 3, .rw, 0, 0xffffffff⟩, ⟨16, 3, .rw, 0, 0xffffffff⟩, ⟨20, 3, .rw, 0, 0xffffffff⟩, ⟨24, 3, .rw, 0, 0xffffffff⟩, ⟨28, 3, .rw, 0, 0xffffffff⟩]⟩,
 ⟨0x8, 0x4, 1, 0x0, 0x0, [⟨0, 3, .rw, 0, 0xffffffff⟩, ⟨4, 3, .rw, 0, 0xffffffff⟩, ⟨8, 3, .rw, 0, 0xffffffff⟩, ⟨12, 3, .rw, 0, 0xffffffff⟩, ⟨16, 3, .rw, 0, 0xffffffff⟩, ⟨20, 3, .rw, 0, 0xffffffff⟩, ⟨24, 3, .rw, 0, 0xffffffff⟩, ⟨28, 3, .rw, 0, 0xffffffff⟩]⟩,
 ⟨0xc, 0x4, 1, 0x0, 0x0, [⟨0, 3, .rw, 0, 0xffffffff⟩, ⟨31, 1, .wo, 0, 0xffffffff⟩]⟩,
 ⟨0x10, 0x4, 1, 0x0, 0x0, [⟨0, 1, .ro, 0, 0xffffffff⟩, ⟨1, 1, .ro, 0, 0xffffffff⟩, ⟨2, 1, .ro, 0, 0xffffffff⟩, ⟨3, 1, .ro, 0, 0xffffffff⟩, ⟨4, 4, .ro, 0, 0xffffffff⟩, ⟨8, 1, .ro, 0, 0xffffffff⟩, ⟨9, 1, .ro, 0, 0xffffffff⟩]⟩,
 ⟨0x14, 0x4, 1, 0x0, 0x0, [⟨0, 16, .rc, 0, 0xffffffff⟩, ⟨16, 16, .rc, 0, 0xffffffff⟩]⟩,
 ⟨0x18, 0x4, 1, 0x0, 0x0, [⟨0, 5, .rw, 0, 0xffffffff⟩, ⟨8, 8, .rw, 0, 0xffffffff⟩, ⟨16, 1, .wo, 0, 0xffffffff⟩, ⟨17, 1, .w1c, 0, 0xffffffff⟩, ⟨24, 8, .rc, 0, 0xffffffff⟩]⟩,
 ⟨0x1c, 0x4, 1, 0x0, 0x0, [⟨0, 1, .rw, 0, 0xffffffff⟩, ⟨3, 19, .rw, 0, 0xffffffff⟩]⟩,
 ⟨0x100, 0x8, 16, 0x0, 0x0, [⟨0, 32, .ro, 0, 0xffffffff⟩]⟩,
 ⟨0x20, 0x4, 1, 0x0, 0x0, [⟨0, 32, .ro, 0, 0xffffffff⟩]⟩,
 ⟨0x104, 0x8, 16, 0x0, 0x0, [⟨0, 32, .ro, 0, 0xffffffff⟩]⟩,
 ⟨0x24, 0x4, 1, 0x0, 0x0, [⟨0, 32, .ro, 0, 0xffffffff⟩]⟩,
 ⟨0x200, 0x8, 16, 0xffff0000, 0x0, [⟨0, 16, .rw, 0, 0xffffffff⟩, ⟨16, 16, .rw, 0, 0xffffffff⟩]⟩,
 ⟨0x204, 0x8, 16, 0x0, 0x0, [⟨0, 16, .rw, 0, 0xffffffff⟩, ⟨16, 1, .rw, 0, 0xffffffff⟩, ⟨17, 1, .ro, 0, 0xffffffff⟩, ⟨18, 1, .w1c, 0, 0xffffffff⟩, ⟨19, 1, .rw, 0, 0xffffffff⟩]⟩]
/-- The ADC block. -/
def blockADC : BlockD := ⟨0x40600000, 0x1000, 4, regsADC0⟩

def regsCMP0 : List RegD := [
 ⟨0x0, 0x4, 1, 0x0, 0x0, [⟨0, 1, .rw, 0, 0xffffffff⟩, ⟨1, 2, .rw, 0, 0x2⟩, ⟨3, 2, .rw, 0, 0xffffffff⟩, ⟨5, 2, .rw, 0, 0xffffffff⟩, ⟨7, 1, .rw, 0, 0xffffffff⟩, ⟨8, 2, .rw, 0, 0xffffffff⟩, ⟨10, 4, .rw, 0, 0xffffffff⟩, ⟨14, 2, .rw, 0, 0x2⟩, ⟨16, 1, .rw, 0, 0xffffffff⟩, ⟨17, 1, .rw, 0, 0xffffffff⟩]⟩,
 ⟨0x4, 0x4, 1, 0x0, 0x0, [⟨0, 12, .rw, 0, 0xffffffff⟩]⟩,
 ⟨0x8, 0x4, 1, 0x0, 0x0, [⟨0, 1, .ro, 0, 0xffffffff⟩, ⟨1, 1, .ro, 0, 0xffffffff⟩, ⟨2, 1, .ro, 0, 0xffffffff⟩, ⟨3, 1, .ro, 0, 0xffffffff⟩, ⟨4, 1, .ro, 0, 0xffffffff⟩, ⟨5, 2, .ro, 0, 0xffffffff⟩, ⟨7, 1, .w1c, 0, 0xffffffff⟩]⟩,
 ⟨0xc, 0x4, 1, 0x0, 0x0, [⟨0, 1, .wo, 0, 0xffffffff⟩]⟩,
 ⟨0x10, 0x4, 1, 0x0, 0x0, [⟨0, 16, .rc, 0, 0xffffffff⟩]⟩]
/-- The CMP block. -/
def blockCMP : BlockD := ⟨0x40610000, 0x40, 24, regsCMP0⟩

def regsANA0 : List RegD := [
 ⟨0x0, 0x4, 1, 0x0, 0x0, [⟨0, 1, .rw, 0, 0xffffffff⟩, ⟨1, 1, .ro, 0, 0xffffffff⟩]⟩,
 ⟨0x4, 0x4, 1, 0x0, 0x0, [⟨0, 1, .rw, 0, 0xffffffff⟩, ⟨1, 5, .rw, 0, 0xffffffff⟩, ⟨8, 5, .ro, 0, 0xffffffff⟩]⟩]
/-- The ANA block. -/
def blockANA : BlockD := ⟨0x40610800, 0x800, 1, regsANA0⟩

def regsETH0 : List RegD := [
 ⟨0x0, 0x4, 1, 0x14, 0x0, [⟨0, 1, .rw, 0, 0xffffffff⟩, ⟨1, 1, .rws, 0, 0xffffffff⟩, ⟨2, 1, .rw, 0, 0xffffffff⟩, ⟨3, 1, .rw, 0, 0xffffffff⟩, ⟨4, 1, .rw, 0, 0xffffffff⟩, ⟨5, 1, .rw, 0, 0xffffffff⟩]⟩,
 ⟨0x4, 0x4, 1, 0x0, 0x0, [⟨0, 1, .ro, 0, 0xffffffff⟩, ⟨1, 1, .ro, 0, 0xffffffff⟩, ⟨2, 1, .ro, 0, 0xffffffff⟩, ⟨3, 1, .ro, 0, 0xffffffff⟩]⟩,
 ⟨0x8, 0x4, 1, 0x0, 0x0, [⟨0, 32, .rw, 0, 0xffffffff⟩]⟩,
 ⟨0xc, 0x4, 1, 0x0, 0x0, [⟨0, 16, .rw, 0, 0xffffffff⟩]⟩,
 ⟨0x10, 0x4, 1, 0x10600ba8, 0x0, [⟨0, 16, .ro, 0, 0xffffffff⟩, ⟨16, 16, .ro, 0, 0xffffffff⟩]⟩,
 ⟨0x14, 0x4, 1, 0x0, 0x0, [⟨0, 16, .rw, 0, 0xffffffff⟩, ⟨16, 16, .rw, 0, 0xffffffff⟩]⟩,
 ⟨0x20, 0x4, 1, 0x0, 0x0, [⟨4, 18, .rws, 0, 0xffffffff⟩]⟩,
 ⟨0x30, 0x4, 1, 0x0, 0x0, [⟨4, 18, .rws, 0, 0xffffffff⟩]⟩,
 ⟨0x24, 0x4, 1, 0x10, 0x0, [⟨0, 9, .rws, 16, 0x100⟩]⟩,
 ⟨0x34, 0x4, 1, 0x10, 0x0, [⟨0, 9, .rws, 16, 0x100⟩]⟩,
 ⟨0x28, 0x4, 1, 0x0, 0x0, [⟨0, 8, .rw, 0, 0xffffffff⟩]⟩,
 ⟨0x38, 0x4, 1, 0x0, 0x0, [⟨0, 8, .rw, 0, 0xffffffff⟩]⟩,
 ⟨0x2c, 0x4, 1, 0x0, 0x0, [⟨0, 8, .ro, 0, 0xffffffff⟩]⟩,
 ⟨0x3c, 0x4, 1, 0x0, 0x0, [⟨0, 8, .ro, 0, 0xffffffff⟩]⟩,
 ⟨0x40, 0x4, 1, 0x0, 0x0, [⟨0, 16, .rc, 0, 0xffffffff⟩, ⟨16, 16, .rc, 0, 0xffffffff⟩]⟩,
 ⟨0x44, 0x4, 1, 0x0, 0x0, [⟨0, 16, .rc, 0, 0xffffffff⟩, ⟨16, 16, .rc, 0, 0xffffffff⟩]⟩,
 ⟨0x100, 0x4, 1, 0x3a, 0x0, [⟨0, 1, .rws, 0, 0xffffffff⟩, ⟨1, 1, .rw, 0, 0xffffffff⟩, ⟨2, 2, .rw, 0, 0x2⟩, ⟨4, 1, .rw, 0, 0xffffffff⟩, ⟨5, 1, .rw, 0, 0xffffffff⟩, ⟨6, 2, .rw, 0, 0xffffffff⟩]⟩,
 ⟨0x104, 0x4, 1, 0x0, 0x0, [⟨0, 32, .rw, 0, 0xffffffff⟩]⟩,
 ⟨0x108, 0x4, 1, 0x0, 0x0, [⟨0, 32, .rw, 0, 0xffffffff⟩]⟩,
 ⟨0x10c, 0x4, 1, 0x0, 0x0, [⟨0, 32, .rw, 0, 0xffffffff⟩]⟩,
 ⟨0x140, 0x40, 4, 0x0, 0x0, [⟨0, 32, .rw, 0, 0xffffffff⟩]⟩,
 ⟨0x144, 0x40, 4, 0x0, 0x0, [⟨0, 32, .rw, 0, 0xffffffff⟩]⟩,
 ⟨0x110, 0x4, 4, 0x0, 0x0, [⟨0, 4, .rw, 0, 0xffffffff⟩, ⟨4, 1, .rw, 0, 0xffffffff⟩]⟩,
 ⟨0x120, 0x4, 4, 0x1, 0x0, [⟨0, 32, .rw, 1, 0xffffffff⟩]⟩]
def regsETH1 : List RegD := [
 ⟨0x148, 0x40, 4, 0x0, 0x0, [⟨0, 1, .rw, 0, 0xffffffff⟩]⟩,
 ⟨0x300, 0x4, 1, 0x0, 0x0, [⟨0, 16, .rc, 0, 0xffffffff⟩, ⟨16, 16, .rc, 0, 0xffffffff⟩]⟩,
 ⟨0x304, 0x4, 1, 0x0, 0x0, [⟨0, 16, .rc, 0, 0xffffffff⟩, ⟨16, 16, .rc, 0, 0xffffffff⟩]⟩,
 ⟨0x150, 0x40, 4, 0x0, 0x0, [⟨0, 4, .rw, 0, 0xffffffff⟩, ⟨4, 1, .rw, 0, 0xffffffff⟩]⟩,
 ⟨0x160, 0x40, 4, 0x1, 0x0, [⟨0, 32, .rw, 0, 0xffffffff⟩]⟩,
 ⟨0x154, 0x40, 4, 0x0, 0x0, [⟨0, 4, .rw, 0, 0xffffffff⟩, ⟨4, 1, .rw, 0, 0xffffffff⟩]⟩,
 ⟨0x164, 0x40, 4, 0x1, 0x0, [⟨0, 32, .rw, 0, 0xffffffff⟩]⟩,
 ⟨0x158, 0x40, 4, 0x0, 0x0, [⟨0, 4, .rw, 0, 0xffffffff⟩, ⟨4, 1, .rw, 0, 0xffffffff⟩]⟩,
 ⟨0x168, 0x40, 4, 0x1, 0x0, [⟨0, 32, .rw, 0, 0xffffffff⟩]⟩,
 ⟨0x15c, 0x40, 4, 0x0, 0x0, [⟨0, 4, .rw, 0, 0xffffffff⟩, ⟨4, 1, .rw, 0, 0xffffffff⟩]⟩,
 ⟨0x16c, 0x40, 4, 0x1, 0x0, [⟨0, 32, .rw, 0, 0xffffffff⟩]⟩]
/-- The ETH block. -/
def blockETH : BlockD := ⟨0x40700000, 0x10000, 2, regsETH0 ++ regsETH1⟩

def regsPTP0 : List RegD := [
 ⟨0x0, 0x4, 1, 0x0, 0x0, [⟨0, 1, .rw, 0, 0xffffffff⟩, ⟨1, 1, .rw, 0, 0xffffffff⟩, ⟨2, 1, .rw, 0, 0xffffffff⟩]⟩,
 ⟨0x10, 0x10, 2, 0x0, 0x0, [⟨0, 24, .ro, 0, 0xffffffff⟩, ⟨31, 1, .ro, 0, 0xffffffff⟩]⟩,
 ⟨0x14, 0x10, 2, 0x0, 0x0, [⟨0, 24, .rw, 0, 0xffffffff⟩]⟩,
 ⟨0x18, 0x10, 2, 0x0, 0x0, [⟨0, 16, .rc, 0, 0xffffffff⟩, ⟨16, 16, .rc, 0, 0xffffffff⟩]⟩,
 ⟨0x40, 0x4, 1, 0x0, 0x0, [⟨0, 16, .rc, 0, 0xffffffff⟩, ⟨16, 16, .rc, 0, 0xffffffff⟩]⟩]
/-- The PTP block. -/
def blockPTP : BlockD := ⟨0x40720000, 0x10000, 1, regsPTP0⟩

def regsCAN0 : List RegD := [
 ⟨0x0, 0x4, 1, 0x1, 0x0, [⟨0, 1, .rw, 0, 0xffffffff⟩, ⟨1, 2, .rw, 0, 0x2⟩, ⟨3, 1, .rw, 0, 0xffffffff⟩, ⟨4, 1, .rw, 0, 0xffffffff⟩, ⟨5, 1, .rw, 0, 0xffffffff⟩, ⟨6, 1, .rw, 0, 0xffffffff⟩, ⟨7, 1, .rw, 0, 0xffffffff⟩, ⟨8, 1, .wo, 0, 0xffffffff⟩]⟩,
 ⟨0x4, 0x4, 1, 0x0, 0x0, [⟨0, 2, .ro, 0, 0xffffffff⟩, ⟨2, 1, .ro, 0, 0xffffffff⟩, ⟨3, 2, .ro, 0, 0xffffffff⟩, ⟨5, 1, .ro, 0, 0xffffffff⟩, ⟨6, 1, .w1c, 0, 0xffffffff⟩, ⟨7, 1, .w1c, 0, 0xffffffff⟩, ⟨8, 7, .ro, 0, 0xffffffff⟩]⟩,
 ⟨0x8, 0x4, 1, 0x0, 0x0, [⟨0, 8, .ro, 0, 0xffffffff⟩, ⟨8, 7, .ro, 0, 0xffffffff⟩, ⟨15, 1, .ro, 0, 0xffffffff⟩, ⟨16, 8, .ro, 0, 0xffffffff⟩]⟩,
 ⟨0xc, 0x4, 1, 0x1f1f7e00, 0x0, [⟨0, 8, .rw, 0, 0xffffffff⟩, ⟨8, 8, .rw, 0, 0xffffffff⟩, ⟨16, 7, .rw, 0, 0xffffffff⟩, ⟨24, 7, .rw, 0, 0xffffffff⟩]⟩,
 ⟨0x10, 0x4, 1, 0x3030e00, 0x0, [⟨0, 5, .rw, 0, 0xffffffff⟩, ⟨8, 5, .rw, 0, 0xffffffff⟩, ⟨16, 4, .rw, 0, 0xffffffff⟩, ⟨24, 4, .rw, 0, 0xffffffff⟩]⟩,
 ⟨0x14, 0x4, 1, 0x8010, 0x0, [⟨0, 7, .rw, 0, 0xffffffff⟩, ⟨8, 7, .rw, 0, 0xffffffff⟩, ⟨15, 1, .rw, 0, 0xffffffff⟩, ⟨16, 7, .ro, 0, 0xffffffff⟩]⟩,
 ⟨0x18, 0x4, 1, 0x0, 0x0, [⟨0, 8, .rw, 0, 0xffffffff⟩, ⟨8, 1, .rw, 0, 0xffffffff⟩]⟩,
 ⟨0x1c, 0x4, 1, 0x0, 0x0, [⟨0, 32, .ro, 0, 0xffffffff⟩]⟩,
 ⟨0x20, 0x4, 1, 0x0, 0x0, [⟨0, 1, .wo, 0, 0xffffffff⟩, ⟨1, 1, .rw, 0, 0xffffffff⟩, ⟨2, 5, .rw, 0, 0xffffffff⟩, ⟨7, 1, .w1c, 0, 0xffffffff⟩]⟩,
 ⟨0x24, 0x4, 1, 0x0, 0x0, [⟨0, 32, .ro, 0, 0xffffffff⟩]⟩,
 ⟨0x28, 0x4, 1, 0x0, 0x0, [⟨0, 30, .ro, 0, 0xffffffff⟩, ⟨30, 2, .ro, 0, 0xffffffff⟩]⟩,
 ⟨0x2c, 0x4, 1, 0x0, 0x0, [⟨0, 32, .ro, 0, 0xffffffff⟩]⟩,
 ⟨0x30, 0x4, 1, 0x0, 0x0, [⟨0, 9, .w1c, 0, 0xffffffff⟩]⟩,
 ⟨0x34, 0x4, 1, 0x0, 0x0, [⟨0, 9, .rw, 0, 0xffffffff⟩]⟩,
 ⟨0x38, 0x4, 1, 0x0, 0x0, [⟨0, 16, .rc, 0, 0xffffffff⟩, ⟨16, 16, .rc, 0, 0xffffffff⟩]⟩,
 ⟨0x3c, 0x4, 1, 0x0, 0x0, [⟨0, 16, .rc, 0, 0xffffffff⟩, ⟨16, 16, .rc, 0, 0xffffffff⟩]⟩,
 ⟨0x40, 0x4, 1, 0x0, 0x0, [⟨0, 16, .rc, 0, 0xffffffff⟩, ⟨16, 16, .rc, 0, 0xffffffff⟩]⟩,
 ⟨0x1000, 0x80, 64, 0x0, 0x0, [⟨0, 1, .rw, 0, 0xffffffff⟩, ⟨1, 1, .rw, 0, 0xffffffff⟩, ⟨2, 1, .rw, 0, 0xffffffff⟩, ⟨3, 1, .rw, 0, 0xffffffff⟩, ⟨4, 1, .rw, 0, 0xffffffff⟩, ⟨5, 1, .rw, 0, 0xffffffff⟩, ⟨8, 4, .rw, 0, 0xffffffff⟩]⟩,
 ⟨0x1004, 0x80, 64, 0x0, 0x0, [⟨0, 29, .rw, 0, 0xffffffff⟩]⟩,
 ⟨0x1008, 0x80, 64, 0x0, 0x0, [⟨0, 29, .rw, 0, 0xffffffff⟩, ⟨30, 1, .rw, 0, 0xffffffff⟩]⟩,
 ⟨0x100c, 0x80, 64, 0x0, 0x0, [⟨0, 1, .rc, 0, 0xffffffff⟩, ⟨1, 1, .w1c, 0, 0xffffffff⟩, ⟨2, 1, .ro, 0, 0xffffffff⟩, ⟨8, 1, .ro, 0, 0xffffffff⟩, ⟨9, 1, .ro, 0, 0xffffffff⟩, ⟨10, 1, .ro, 0, 0xffffffff⟩, ⟨11, 1, .ro, 0, 0xffffffff⟩, ⟨4, 4, .ro, 0, 0xffffffff⟩]⟩,
 ⟨0x1010, 0x80, 64, 0x0, 0x0, [⟨0, 1, .ro, 0, 0xffffffff⟩, ⟨3, 1, .ro, 0, 0xffffffff⟩, ⟨1, 1, .w1c, 0, 0xffffffff⟩, ⟨2, 1, .w1c, 0, 0xffffffff⟩, ⟨4, 1, .w1c, 0, 0xffffffff⟩]⟩,
 ⟨0x1014, 0x80, 64, 0x0, 0x0, [⟨0, 1, .wo, 0, 0xffffffff⟩, ⟨1, 1, .wo, 0, 0xffffffff⟩]⟩,
 ⟨0x1018, 0x80, 64, 0x0, 0x0, [⟨0, 32, .ro, 0, 0xffffffff⟩]⟩]
def regsCAN1 : List RegD := [
 ⟨0x101c, 0x80, 64, 0x0, 0x0, [⟨0, 29, .ro, 0, 0xffffffff⟩]⟩,
 ⟨0x1020, 0x80, 64, 0x0, 0x0, [⟨0, 32, .rw, 0, 0xffffffff⟩]⟩,
 ⟨0x1024, 0x80, 64, 0x0, 0x0, [⟨0, 32, .rw, 0, 0xffffffff⟩]⟩,
 ⟨0x1028, 0x80, 64, 0x0, 0x0, [⟨0, 32, .rw, 0, 0xffffffff⟩]⟩,
 ⟨0x102c, 0x80, 64, 0x0, 0x0, [⟨0, 32, .rw, 0, 0xffffffff⟩]⟩,
 ⟨0x1030, 0x80, 64, 0x0, 0x0, [⟨0, 32, .rw, 0, 0xffffffff⟩]⟩,
 ⟨0x1034, 0x80, 64, 0x0, 0x0, [⟨0, 32, .rw, 0, 0xffffffff⟩]⟩,
 ⟨0x1038, 0x80, 64, 0x0, 0x0, [⟨0, 32, .rw, 0, 0xffffffff⟩]⟩,
 ⟨0x103c, 0x80, 64, 0x0, 0x0, [⟨0, 32, .rw, 0, 0xffffffff⟩]⟩,
 ⟨0x1040, 0x80, 64, 0x0, 0x0, [⟨0, 32, .rw, 0, 0xffffffff⟩]⟩,
 ⟨0x1044, 0x80, 64, 0x0, 0x0, [⟨0, 32, .rw, 0, 0xffffffff⟩]⟩,
 ⟨0x1048, 0x80, 64, 0x0, 0x0, [⟨0, 32, .rw, 0, 0xffffffff⟩]⟩,
 ⟨0x104c, 0x80, 64, 0x0, 0x0, [⟨0, 32, .rw, 0, 0xffffffff⟩]⟩,
 ⟨0x1050, 0x80, 64, 0x0, 0x0, [⟨0, 32, .rw, 0, 0xffffffff⟩]⟩,
 ⟨0x1054, 0x80, 64, 0x0, 0x0, [⟨0, 32, .rw, 0, 0xffffffff⟩]⟩,
 ⟨0x1058, 0x80, 64, 0x0, 0x0, [⟨0, 32, .rw, 0, 0xffffffff⟩]⟩,
 ⟨0x105c, 0x80, 64, 0x0, 0x0, [⟨0, 32, .rw, 0, 0xffffffff⟩]⟩]
/-- The CAN block. -/
def blockCAN : BlockD := ⟨0x40800000, 0x10000, 4, regsCAN0 ++ regsCAN1⟩

def regsSADL0 : List RegD := [
 ⟨0x0, 0x4, 1, 0x640322, 0x0, [⟨0, 1, .rws, 0, 0xffffffff⟩, ⟨1, 1, .rw, 0, 0xffffffff⟩, ⟨4, 3, .rw, 1, 0x7⟩, ⟨8, 3, .rw, 1, 0x7⟩, ⟨16, 16, .rw, 0, 0xffffffff⟩]⟩,
 ⟨0x4, 0x4, 1, 0x0, 0x0, [⟨0, 1, .wo, 0, 0xffffffff⟩, ⟨1, 1, .wo, 0, 0xffffffff⟩]⟩,
 ⟨0x8, 0x4, 1, 0x0, 0x0, [⟨0, 2, .ro, 0, 0xffffffff⟩, ⟨2, 1, .ro, 0, 0xffffffff⟩, ⟨3, 1, .ro, 0, 0xffffffff⟩, ⟨4, 1, .ro, 0, 0xffffffff⟩, ⟨5, 1, .w1c, 0, 0xffffffff⟩, ⟨6, 1, .w1c, 0, 0xffffffff⟩, ⟨7, 1, .ro, 0, 0xffffffff⟩, ⟨8, 4, .ro, 0, 0xffffffff⟩, ⟨12, 1, .ro, 0, 0xffffffff⟩, ⟨13, 1, .ro, 0, 0xffffffff⟩, ⟨14, 1, .ro, 0, 0xffffffff⟩]⟩,
 ⟨0xc, 0x4, 1, 0x0, 0xffffffff, [⟨0, 32, .ro, 0, 0xffffffff⟩]⟩,
 ⟨0x10, 0x4, 1, 0x0, 0x0, [⟨0, 32, .ro, 0, 0xffffffff⟩]⟩,
 ⟨0x14, 0x4, 1, 0x0, 0x0, [⟨0, 16, .ro, 0, 0xffffffff⟩, ⟨16, 3, .ro, 0, 0xffffffff⟩, ⟨19, 2, .ro, 0, 0xffffffff⟩, ⟨21, 1, .ro, 0, 0xffffffff⟩]⟩,
 ⟨0x18, 0x4, 1, 0x0, 0x0, [⟨0, 24, .ro, 0, 0xffffffff⟩, ⟨30, 1, .ro, 0, 0xffffffff⟩, ⟨31, 1, .ro, 0, 0xffffffff⟩]⟩,
 ⟨0x1c, 0x4, 1, 0x0, 0xffffffff, [⟨0, 32, .ro, 0, 0xffffffff⟩]⟩,
 ⟨0x20, 0x4, 1, 0x0, 0xff, [⟨0, 3, .ro, 0, 0xffffffff⟩, ⟨3, 5, .ro, 0, 0xffffffff⟩]⟩,
 ⟨0x24, 0x4, 1, 0x0, 0xffffffff, [⟨0, 16, .rc, 0, 0xffffffff⟩, ⟨16, 16, .rc, 0, 0xffffffff⟩]⟩,
 ⟨0x28, 0x4, 1, 0x0, 0x0, [⟨0, 16, .rc, 0, 0xffffffff⟩, ⟨16, 16, .rc, 0, 0xffffffff⟩]⟩,
 ⟨0x2c, 0x4, 1, 0x0, 0x0, [⟨0, 16, .rc, 0, 0xffffffff⟩, ⟨16, 16, .rc, 0, 0xffffffff⟩]⟩,
 ⟨0x30, 0x4, 1, 0x3, 0x0, [⟨0, 8, .rw, 1, 0xff⟩]⟩,
 ⟨0x100, 0x4, 32, 0x0, 0x0, [⟨0, 16, .rws, 0, 0xffffffff⟩, ⟨16, 6, .rws, 1, 0x20⟩, ⟨22, 4, .rws, 0, 0xffffffff⟩, ⟨26, 3, .rws, 0, 0xffffffff⟩, ⟨29, 1, .rws, 0, 0xffffffff⟩]⟩,
 ⟨0x200, 0x4, 24, 0x0, 0x0, [⟨0, 24, .ro, 0, 0xffffffff⟩, ⟨31, 1, .ro, 0, 0xffffffff⟩]⟩]
/-- The SADL block. -/
def blockSADL : BlockD := ⟨0x40900000, 0x10000, 1, regsSADL0⟩

def regsTRC0 : List RegD := [
 ⟨0x0, 0x4, 1, 0x0, 0x0, [⟨0, 2, .rws, 0, 0xffffffff⟩, ⟨2, 1, .wo, 0, 0xffffffff⟩, ⟨3, 1, .wo, 0, 0xffffffff⟩, ⟨4, 1, .wo, 0, 0xffffffff⟩]⟩,
 ⟨0x4, 0x4, 1, 0x0, 0x0, [⟨0, 2, .rw, 0, 0xffffffff⟩, ⟨2, 5, .rw, 0, 0xffffffff⟩, ⟨8, 3, .rw, 0, 0xffffffff⟩, ⟨16, 13, .rw, 0, 0xffffffff⟩]⟩,
 ⟨0x8, 0x4, 1, 0x0, 0x0, [⟨0, 20, .rw, 0, 0xffffffff⟩]⟩,
 ⟨0xc, 0x4, 1, 0x0, 0x0, [⟨0, 20, .rw, 0, 0xffffffff⟩]⟩,
 ⟨0x10, 0x4, 1, 0x0, 0x0, [⟨0, 2, .ro, 0, 0xffffffff⟩, ⟨2, 1, .ro, 0, 0xffffffff⟩, ⟨3, 1, .w1c, 0, 0xffffffff⟩]⟩,
 ⟨0x14, 0x4, 1, 0x0, 0x0, [⟨0, 20, .ro, 0, 0xffffffff⟩]⟩,
 ⟨0x18, 0x4, 1, 0x0, 0x0, [⟨0, 20, .ro, 0, 0xffffffff⟩, ⟨31, 1, .ro, 0, 0xffffffff⟩]⟩,
 ⟨0x1c, 0x4, 1, 0x0, 0x0, [⟨0, 16, .rc, 0, 0xffffffff⟩, ⟨16, 16, .rc, 0, 0xffffffff⟩]⟩,
 ⟨0x40, 0x4, 1, 0x0, 0x0, [⟨12, 20, .rws, 0, 0xffffffff⟩]⟩,
 ⟨0x44, 0x4, 1, 0x0, 0x0, [⟨0, 32, .rws, 0, 0xffffffff⟩]⟩,
 ⟨0x48, 0x4, 1, 0x1, 0x0, [⟨0, 19, .rws, 1, 0x40000⟩]⟩,
 ⟨0x4c, 0x4, 1, 0x0, 0x0, [⟨0, 19, .wo, 0, 0xffffffff⟩]⟩,
 ⟨0x50, 0x4, 1, 0x0, 0x0, [⟨0, 19, .ro, 0, 0xffffffff⟩]⟩,
 ⟨0x54, 0x4, 1, 0x0, 0x0, [⟨0, 32, .ro, 0, 0xffffffff⟩]⟩,
 ⟨0x58, 0x4, 1, 0x0, 0x0, [⟨0, 32, .ro, 0, 0xffffffff⟩]⟩,
 ⟨0x5c, 0x4, 1, 0x0, 0x0, [⟨3, 29, .rws, 0, 0xffffffff⟩]⟩,
 ⟨0x60, 0x4, 1, 0x0, 0x0, [⟨0, 32, .rws, 0, 0xffffffff⟩]⟩,
 ⟨0x64, 0x4, 1, 0x7d0, 0x0, [⟨0, 12, .rw, 1, 0xc80⟩]⟩,
 ⟨0x68, 0x4, 1, 0x10, 0x0, [⟨0, 18, .rw, 0, 0xffffffff⟩]⟩,
 ⟨0x6c, 0x4, 1, 0x0, 0x0, [⟨0, 32, .rc, 0, 0xffffffff⟩]⟩,
 ⟨0x70, 0x4, 1, 0x0, 0x0, [⟨0, 8, .rc, 0, 0xffffffff⟩, ⟨8, 8, .rc, 0, 0xffffffff⟩, ⟨16, 16, .rc, 0, 0xffffffff⟩]⟩,
 ⟨0x100, 0x4, 64, 0x0, 0x0, [⟨0, 2, .rw, 0, 0xffffffff⟩, ⟨2, 1, .rw, 0, 0xffffffff⟩, ⟨3, 1, .rw, 0, 0xffffffff⟩, ⟨4, 8, .rw, 0, 0xffffffff⟩, ⟨12, 5, .rw, 0, 0xffffffff⟩]⟩]
/-- The TRC block. -/
def blockTRC : BlockD := ⟨0x40a00000, 0x10000, 1, regsTRC0⟩

def regsSAFE0 : List RegD := [
 ⟨0x0, 0x4, 1, 0x0, 0x0, [⟨0, 3, .ro, 0, 0xffffffff⟩, ⟨3, 1, .ro, 0, 0xffffffff⟩, ⟨4, 1, .ro, 0, 0xffffffff⟩, ⟨5, 1, .ro, 0, 0xffffffff⟩, ⟨6, 1, .ro, 0, 0xffffffff⟩, ⟨8, 5, .ro, 0, 0xffffffff⟩, ⟨13, 5, .ro, 0, 0xffffffff⟩, ⟨18, 5, .ro, 0, 0xffffffff⟩]⟩,
 ⟨0x4, 0x4, 1, 0xc00, 0x0, [⟨0, 6, .ro, 0, 0xffffffff⟩, ⟨6, 4, .ro, 0, 0xffffffff⟩, ⟨10, 2, .ro, 0, 0xffffffff⟩]⟩,
 ⟨0x8, 0x4, 1, 0x0, 0x0, [⟨0, 32, .ro, 0, 0xffffffff⟩]⟩,
 ⟨0xc, 0x4, 1, 0x0, 0x0, [⟨0, 32, .ro, 0, 0xffffffff⟩]⟩,
 ⟨0x10, 0x4, 1, 0x0, 0x0, [⟨0, 32, .wo, 0, 0xffffffff⟩]⟩,
 ⟨0x14, 0x4, 1, 0x0, 0x0, [⟨0, 1, .ro, 0, 0xffffffff⟩, ⟨1, 1, .w1c, 0, 0xffffffff⟩, ⟨2, 1, .w1c, 0, 0xffffffff⟩, ⟨3, 3, .ro, 0, 0xffffffff⟩]⟩,
 ⟨0x18, 0x4, 1, 0x0, 0x0, [⟨0, 32, .ro, 0, 0xffffffff⟩]⟩,
 ⟨0x20, 0x4, 4, 0x0, 0x0, [⟨0, 16, .ro, 0, 0xffffffff⟩, ⟨16, 1, .ro, 0, 0xffffffff⟩]⟩,
 ⟨0x30, 0x4, 1, 0x0, 0x0, [⟨0, 16, .rc, 0, 0xffffffff⟩, ⟨16, 16, .rc, 0, 0xffffffff⟩]⟩,
 ⟨0x40, 0x4, 1, 0x0, 0x0, [⟨0, 32, .wo, 0, 0xffffffff⟩]⟩,
 ⟨0x44, 0x4, 1, 0x0, 0x0, [⟨0, 5, .ro, 0, 0xffffffff⟩, ⟨5, 1, .w1c, 0, 0xffffffff⟩]⟩,
 ⟨0x48, 0x4, 1, 0x0, 0x0, [⟨0, 32, .rc, 0, 0xffffffff⟩]⟩,
 ⟨0x4c, 0x4, 1, 0x0, 0x0, [⟨0, 5, .ro, 0, 0xffffffff⟩]⟩,
 ⟨0x100, 0x4, 128, 0x0, 0x0, [⟨0, 32, .ro, 0, 0xffffffff⟩]⟩]
/-- The SAFE block. -/
def blockSAFE : BlockD := ⟨0x40b00000, 0x10000, 1, regsSAFE0⟩

def regsHOST0 : List RegD := [
 ⟨0x0, 0x4, 1, 0x41920000, 0x0, [⟨0, 16, .ro, 0, 0xffffffff⟩, ⟨16, 16, .ro, 0, 0xffffffff⟩]⟩,
 ⟨0x4, 0x4, 1, 0x0, 0x0, [⟨0, 4, .ro, 0, 0xffffffff⟩, ⟨4, 3, .ro, 0, 0xffffffff⟩, ⟨7, 1, .ro, 0, 0xffffffff⟩, ⟨8, 1, .ro, 0, 0xffffffff⟩]⟩,
 ⟨0x10, 0x4, 8, 0x0, 0x0, [⟨0, 32, .rw, 0, 0xffffffff⟩]⟩,
 ⟨0x30, 0x4, 1, 0x0, 0x0, [⟨0, 8, .w1c, 0, 0xffffffff⟩, ⟨8, 8, .w1c, 0, 0xffffffff⟩]⟩,
 ⟨0x34, 0x4, 1, 0x0, 0x0, [⟨0, 2, .rw, 0, 0xffffffff⟩, ⟨2, 2, .rw, 0, 0xffffffff⟩, ⟨4, 2, .rw, 0, 0xffffffff⟩, ⟨6, 2, .rw, 0, 0xffffffff⟩, ⟨8, 2, .rw, 0, 0xffffffff⟩, ⟨10, 2, .rw, 0, 0xffffffff⟩, ⟨12, 2, .rw, 0, 0xffffffff⟩, ⟨14, 2, .rw, 0, 0xffffffff⟩, ⟨16, 2, .rw, 0, 0xffffffff⟩]⟩,
 ⟨0x40, 0x4, 1, 0x0, 0x0, [⟨0, 32, .wo, 0, 0xffffffff⟩]⟩,
 ⟨0x48, 0x4, 1, 0x0, 0x0, [⟨0, 32, .wo, 0, 0xffffffff⟩]⟩,
 ⟨0x44, 0x4, 1, 0x0, 0x0, [⟨0, 32, .rc, 0, 0xffffffff⟩]⟩,
 ⟨0x4c, 0x4, 1, 0x0, 0x0, [⟨0, 32, .rc, 0, 0xffffffff⟩]⟩,
 ⟨0x50, 0x4, 1, 0x0, 0x0, [⟨0, 6, .ro, 0, 0xffffffff⟩, ⟨8, 6, .ro, 0, 0xffffffff⟩, ⟨14, 1, .w1c, 0, 0xffffffff⟩, ⟨16, 16, .rc, 0, 0xffffffff⟩]⟩,
 ⟨0x60, 0x4, 1, 0x0, 0x0, [⟨0, 5, .wo, 0, 0xffffffff⟩, ⟨31, 1, .wo, 0, 0xffffffff⟩]⟩,
 ⟨0x100, 0x20, 4, 0x0, 0x0, [⟨0, 1, .rw, 0, 0xffffffff⟩, ⟨1, 1, .rw, 0, 0xffffffff⟩]⟩,
 ⟨0x104, 0x20, 4, 0x0, 0x0, [⟨5, 17, .rw, 0, 0xffffffff⟩]⟩,
 ⟨0x108, 0x20, 4, 0x10, 0x0, [⟨0, 9, .rw, 16, 0x100⟩]⟩,
 ⟨0x10c, 0x20, 4, 0x0, 0x0, [⟨0, 8, .rw, 0, 0xffffffff⟩]⟩,
 ⟨0x110, 0x20, 4, 0x0, 0x0, [⟨0, 8, .ro, 0, 0xffffffff⟩]⟩,
 ⟨0x114, 0x20, 4, 0x0, 0x0, [⟨0, 16, .rc, 0, 0xffffffff⟩]⟩,
 ⟨0x1000, 0x10, 32, 0x0, 0x0, [⟨0, 32, .rw, 0, 0xffffffff⟩]⟩,
 ⟨0x1004, 0x10, 32, 0x0, 0x0, [⟨0, 32, .rw, 0, 0xffffffff⟩]⟩,
 ⟨0x1008, 0x10, 32, 0x0, 0x0, [⟨0, 32, .rw, 0, 0xffffffff⟩]⟩,
 ⟨0x100c, 0x10, 32, 0x1, 0x0, [⟨0, 1, .rw, 0, 0xffffffff⟩]⟩,
 ⟨0x1800, 0x4, 1, 0x0, 0x0, [⟨0, 32, .ro, 0, 0xffffffff⟩]⟩,
 ⟨0x1804, 0x4, 1, 0x0, 0x0, [⟨0, 32, .ro, 0, 0xffffffff⟩]⟩]
/-- The HOST block. -/
def blockHOST : BlockD := ⟨0x40c00000, 0x10000, 1, regsHOST0⟩

/-- All blocks in the order in which an address is looked up: those below and from 0x40400000. The strings stand inside the span of
the modulator's block and come before it. -/
def blocksLow : List BlockD := [blockSYS, blockRST, blockCLKS, blockCLKT, blockTB, blockCAP, blockPPS, blockTT, blockFLT, blockCLS, blockHIST, blockAGE, blockSEC, blockTHM, blockPWR, blockNVC, blockLANE, blockCHAIN, blockCELLCTL, blockSTR, blockMOD, blockMODCH, blockLPWM]
def blocksHigh : List BlockD := [blockLOOP, blockLOOPCH, blockLOOPE, blockENG, blockGLUT, blockPGEN, blockPROT, blockPARC, blockSREC, blockLREC, blockADC, blockCMP, blockANA, blockETH, blockPTP, blockCAN, blockSADL, blockTRC, blockSAFE, blockHOST]

end Sys2Proof.Machine
end

