-- ==== Sys2Proof/Machine/LinkTypes.lean ====
section
/-! DEFINITION. Machine/LinkTypes.lean: the state of the lanes, the chains, the cell state table and the cell nodes that the
register tables do not show (chapters 02 to 05). Times are in sixteenths of a nanosecond of the timebase. -/
namespace Sys2Proof.Machine

/-- What a lane holds besides its registers (03_cell_lanes.md R65, R70 to R79). -/
structure LaneH where
  /-- Consecutive accepted sets, matching sets and TSB sets (R73, R75). -/
  runOk : Nat := 0
  runMatch : Nat := 0
  runTsb : Nat := 0
  /-- The identity fault of this attempt has been posted (R74). -/
  idPosted : Bool := false
  /-- In the 10 us of electrical idle after a failed attempt (R78). -/
  idle : Bool := false
  /-- The receive half has seen countdown 0; valid blocks since (R75). -/
  rxHos : Bool := false
  rxGood : Nat := 0
  /-- Validity of the last 64 headers, newest first: true is invalid (R76). -/
  hist : List Bool := []
  /-- Blocks and invalid headers of the current slip window (R77). -/
  winBlk : Nat := 0
  winBad : Nat := 0
  /-- TXEQ in force (R65). -/
  txeqAct : Nat := 0x02106B04
  /-- Descrambler history, bit 0 newest (R71). -/
  scr : Nat := 0
  /-- Receive queue: block of the frame and payload (01_architecture.md R22, 04_cell_link_protocol.md R86). -/
  rxq : List (Nat × BitVec 64) := []
  /-- Framing: the last block was a control block; a frame is being received; blocks since its block 0 (04_cell_link_protocol.md
  R86). -/
  rxCtl : Bool := false
  rxIn : Bool := false
  rxPos : Nat := 95
  /-- Running disparity of the received code groups, once there is one (R68, R70). -/
  rxRd : Option Bool := none
  /-- Symbols 1 to 15 of the training set being sent, and the code groups sent: of that set, or of the last handover (R68, R69,
  R75). -/
  txSet : List Byte := []
  txGrp : List (BitVec 10) := []
  /-- The blocks of the last frame sent with the idle blocks before it, sync header and scrambled payload; its frame; the
  scrambler after it (R71, 04_cell_link_protocol.md R84). -/
  txBlk : List (BitVec 2 × BitVec 64) := []
  txAt : Option Nat := none
  txScr : Nat := 0
  /-- The nanosecond at which the eye-scan run started (R82). -/
  esAt : Nat := 0
  /-- REARM_DUE has been set in this stay in FAILED; the nanosecond of the entry (R78). -/
  rearmFired : Bool := false
  rearmTime : Nat := 0
  /-- The last frame the lane sent: header bytes and the eight sections (04_cell_link_protocol.md R91, R92). -/
  txHdr : List Byte := []
  txSec : List (List Byte) := []
  /-- The path that the frame being received took; it is of foreign origin (R90). -/
  rxPath : Option Nat := none
  rxOther : Bool := false
deriving DecidableEq, Repr

/-- What a chain holds besides its registers (04_cell_link_protocol.md R99 to R102). -/
structure ChainH where
  /-- Transits of the last good headers on the forward and reverse path, newest first, at most 16 (R100). -/
  tr0 : List Nat := []
  tr1 : List Nat := []
  /-- T_ring in use since the cycle start, and in the cycle before (02_control_cycle.md R47). -/
  tUse : Nat := 0
  tPrev : Nat := 0
  /-- First frame of the current link generation (R105). -/
  genFrame : Nat := 0
  /-- The topology fault of this stay in WAIT has been posted (R114). -/
  topoPosted : Bool := false
  /-- A returned own frame is being taken in topology 2, frames since the last one (12_redundant_pair.md R344). -/
  looped : Bool := false
  loopAge : Nat := 0
  /-- Partner headers missed in a row, whether the last one carried ACTIVE, and its epoch (12_redundant_pair.md R357). -/
  pmiss : Nat := 0
  pact : Bool := false
  /-- Hops of the last valid header (R91). -/
  hdrHops : Nat := 0
deriving DecidableEq, Repr

/-- A write of the configuration mailbox (R108, R111); `lead`: it applies LEAD frames after its departure, and its data is taken
then from the image (09_power_stage_protection.md R260); `spare`: it charges no try (R268). -/
structure MbW where
  tag : Nat
  addr : Nat
  data : Nat
  apply : Nat
  lead : Bool := false
  spare : Bool := false
deriving DecidableEq, Repr

/-- An edge entry on the device side: absolute execution time, leg, state (0 Z, 1 L, 2 H), REFRESH LAST SYNC flags, and whether
its deadline frame has been reached (04_cell_link_protocol.md R94, 06_modulation_and_pwm.md R156). -/
structure Edge where
  t : Nat
  leg : Nat
  st : Nat
  fl : Nat := 0
deriving DecidableEq, Repr

/-- What the device puts in a cell's command section besides TCORR and the token: the same in both copies of a frame (R92, R104). -/
structure SecCmd where
  mode : Nat := 0
  smp : Option Nat := none
  edges : List Edge := []
  mb : Option MbW := none
deriving DecidableEq, Repr

/-- What the device holds for a cell besides CELLCTL (R93, R104 to R107, 06_modulation_and_pwm.md R156 to R159). -/
structure CellH where
  /-- Books open (R105). -/
  opened : Bool := false
  /-- (frame number, S, mailbox S) at the end of each of the last 16 frames, newest first (R104, R107). -/
  hist : List (Nat × Nat × Nat) := []
  /-- Mailbox writes sent modulo 32, and the last MB_DONE used (R107). -/
  mbS : Nat := 0
  mbE : Nat := 0
  /-- Reports collected in MEASURE (R99). -/
  rpts : Nat := 0
  /-- Books must reopen at the first report naming this frame or a later one, and the frame of the report that reopened them
  (12_redundant_pair.md R360). -/
  reopen : Option Nat := none
  reopened : Option Nat := none
  /-- Mailbox writes of the protection manager waiting to be sent, and writes sent and not yet acknowledged. -/
  mbq : List MbW := []
  out : List MbW := []
  /-- Send order of edge entries, and the state each leg 0-5 will have after them (3 unknown). -/
  sendq : List Edge := []
  legs : List Nat := [3, 3, 3, 3, 3, 3]
  /-- The command section of the last frame that departed, by frame; frames with a mailbox credit that a staged write has waited
  for PROT (09_power_stage_protection.md R262); writes to send again (12_redundant_pair.md R362); in topology 1, acknowledgements
  seen on one path whose copy on the other is to come: path, tag, status (R110). -/
  cmd : Option (Nat × SecCmd) := none
  mbWait : Nat := 0
  resend : List MbW := []
  ackDup : List (Nat × Nat × Nat) := []
  /-- FAULT word of the last good report. -/
  fault : Nat := 0
  /-- Fault AGE_LIM posted in this run of stale commits (02_control_cycle.md R51). -/
  agePosted : Bool := false
deriving DecidableEq, Repr

/-- The two copies of a CST entry: which bank holds the committed one, what the fill copy holds, and the last cycle whose swap is
done (02_control_cycle.md R47 to R53). -/
structure CstE where
  cur : Nat := 0
  /-- The committed copy holds a report, with this sample time; the frame in which its check completed. -/
  curT : Option Nat := none
  curFr : Nat := 0
  /-- The fill copy holds a newer report, with this sample time, frame, and whether it is late. -/
  fillT : Option Nat := none
  fillFr : Nat := 0
  fillLate : Bool := false
  /-- The number of the last cycle whose swap has been done, and whether that swap exchanged the copies. -/
  done : Int := -1
  exch : Bool := false
deriving DecidableEq, Repr

/-- The cycle grid (02_control_cycle.md R43). -/
structure GridH where
  /-- Frame of the full timebase at which cycle 0 starts. -/
  anchor : Int := 0
  /-- FRAMES in force. -/
  frames : Nat := 5
  /-- Number of the next cycle of the grid in force. -/
  next : Int := 0
  /-- FRAMES or START_FRAME was changed while EN is 1. -/
  regrid : Bool := false
  /-- A cycle of the grid is in progress. -/
  inCycle : Bool := false
deriving DecidableEq, Repr

/-- What the designer of a cell node states (05_cell_endpoint_contract.md R145). -/
structure Designer where
  design : Nat := 0
  tconv : Nat := 200
  resid : Nat := 40
  byp : Bool := true
  dump : Bool := true
  dab : Bool := true
  bypPwr : Bool := false
  ovMax : Nat := 0xFFFF
deriving DecidableEq, Repr

/-- An acknowledgement waiting for a report (04_cell_link_protocol.md R110). -/
structure Ack where
  tag : Nat
  stat : Nat
  rdata : Nat
deriving DecidableEq, Repr

/-- A sample of a cell (R124, R95): frame, offset, bytes 12 to 49 of the report as values. -/
structure Sample where
  frame : Nat := 0
  ofs : Nat := 0
  vdc : Nat := 0
  iarm : Nat := 0
  idab : Nat := 0
  temp : List Nat := []
  von : List Nat := List.replicate 12 0xFFFF
deriving DecidableEq, Repr

/-- One path through a cell node (R117, R118): running disparity of its input, once known, and of its output; the path forwards
64b/66b; the code groups of the last training set, the blocks and the bytes of the last frame it forwarded. -/
structure NodePath where
  rdIn : Option Bool := none
  rdOut : Bool := false
  blk : Bool := false
  grp : List (BitVec 10) := []
  out : List (BitVec 2 × BitVec 64) := []
  frame : List Byte := []
deriving DecidableEq, Repr

/-- A cell node (05_cell_endpoint_contract.md R116 to R145). -/
structure NodeS where
  d : Designer := {}
  /-- Mode of R127: 0 INIT, 1 SAFE_BLOCK, 2 SAFE_BYPASS, 3 ARMED, 4 RUN, 5 HOLD; the mode taken for the next frame start. -/
  mode : Nat := 0
  req : Option Nat := none
  /-- Time (R121, R122). -/
  nt : Nat := 0
  tsync : Bool := false
  agree : Nat := 0
  /-- Position on P0 and P1 (R118); output of the path in electrical idle (R117). -/
  pos0 : Nat := 0
  pos1 : Nat := 0
  idle0 : Bool := false
  idle1 : Bool := false
  path0 : NodePath := {}
  path1 : NodePath := {}
  /-- PROF of the last header whose HCRC passed (R120). -/
  prof : Nat := 0
  /-- Obeyed source: epoch and DEVID (R137). -/
  obey : Option (Nat × Nat) := none
  /-- LINKGEN of the last section taken from a source, and the frame and source of the last section taken. -/
  gen : Option (Nat × Nat × Nat) := none
  lastF : Option Nat := none
  cmdFr : Nat := 0
  /-- Token checker: gate enable, consecutive valid tokens, last valid token (epoch, DEVID, FRAME, SEQ) (R134, R135). -/
  gate : Bool := false
  tokRun : Nat := 0
  tokLast : Option (Nat × Nat × Nat × Nat) := none
  /-- Frame of the last valid token from the obeyed source; the token timer runs (R135). -/
  tokFr : Option Nat := none
  tokTmr : Bool := false
  /-- Edge queue and EXEC_CNT (R129, R130). -/
  q : List Edge := []
  exec : Nat := 0
  /-- Mailbox queue, MB_DONE, triples of the last 8 consumed writes, acknowledgements waiting on P0 and P1 (R108 to R110, R144). -/
  mbq : List (MbW × Bool) := []
  mbDone : Nat := 0
  done8 : List (Nat × Nat × Nat) := []
  ack0 : List Ack := []
  ack1 : List Ack := []
  /-- Endpoint registers of R145 that differ from their node-reset values, by address. -/
  ep : List (Nat × Word) := []
  /-- Commanded state of legs 0-5; switches on; instants the switches were last turned off, and the ends of the dead times that
  began then; the ends of the blanking that began when the switches were last turned on (R139); turn-ons waiting for dead time
  (R131); switches that BSUV holds off until their leg's next entry (R140, R141). -/
  legs : List Nat := [0, 0, 0, 0, 0, 0]
  sw : Nat := 0
  offAt : List Nat := []
  deadTo : List Nat := []
  blankTo : List Nat := []
  wait : List (Nat × Nat) := []
  held : Nat := 0
  /-- Bypass to close at this instant (R127). -/
  bypAt : Option Nat := none
  /-- Command loss count and whether a section was taken in this frame (R138); empty-queue frames in HOLD, and whether this frame
  began with an empty queue in HOLD (R127). -/
  loss : Nat := 0
  took : Bool := false
  hold : Nat := 0
  holdQ : Bool := false
  /-- FAULT bits: [1] and [2] in force; [5:3] pending on each path (R132, R135, R138). -/
  fTok : Bool := false
  fCmd : Bool := false
  fl0 : Nat := 0
  fl1 : Nat := 0
  /-- Sampling (R124): sample instants to come, conversion running, the last converted sample. -/
  smpAt : List Nat := []
  conv : Option Sample := none
  smp : Option Sample := none
  /-- Local protection: dump held on (R142), bootstrap supplies low now (R140). -/
  ov : Bool := false
  bsuvLow : Nat := 0
  /-- Leakage test running on this switch (R143). -/
  leak : Option Nat := none
  /-- The last report section written, the last training set forwarded (R97, R118). -/
  rep : List Byte := []
  fwd : List Byte := []
deriving DecidableEq, Repr

end Sys2Proof.Machine
end

