-- ==== Sys2Proof/Machine/ModTypes.lean ====
section
/-! DEFINITION. Machine/ModTypes.lean: the state of the modulator that the register tables do not show (chapter 06). -/
namespace Sys2Proof.Machine

/-- A set of channel values (06_modulation_and_pwm.md R146, R152): mode, PERIOD in ns, compares and phase in sixteenths. -/
structure PSet where
  mode : Nat := 0
  period : Nat := 10000
  onc : Nat := 0
  offc : Nat := 0
  phase : Nat := 0
deriving DecidableEq, Repr

/-- A channel of the modulator, remote 0-767 or local 768-783 (R147 to R168). -/
structure ChanH where
  /-- Start of the next period to plan, when planning has started (R147), in sixteenths of a nanosecond of the timebase. -/
  z : Option Nat := none
  /-- Pending set (R152); periods planned whose carrier zero has not come: start, set, full duty (R153). -/
  pend : Option PSet := none
  taken : List (Nat × PSet × Bool) := []
  /-- Values in force for planning, and the anchor of the grid in force, in frames of the full timebase. -/
  cur : PSet := {}
  anchor : Int := 0
  /-- State the planned entries leave the leg in: 0 Z, 1 L, 2 H, 3 unknown; the next period planned starts with a SYNC entry
  (R158). -/
  pst : Nat := 3
  sync : Bool := true
  /-- The commanded waveform (R163): edges to come, the state since an instant, the instant up to which the budgets count. -/
  wav : List (Nat × Nat) := []
  wst : Nat := 3
  wsince : Nat := 0
  wt : Nat := 0
  /-- Budgets of the upper switches of half-legs a and b, in sixteenths of a nanosecond; whether each stands at 0 with nothing
  more to post (R163). -/
  budA : Nat := 0
  budB : Nat := 0
  empA : Bool := true
  empB : Bool := true
  /-- Extensions of turn-offs to come: T_c, the string of the notch compensated, the carrier zero of the period (R166). -/
  ext : List (Nat × Nat × Nat) := []
  /-- The end of the last interval at L that a substitution made on the leg (R164, R177). -/
  subst : Nat := 0
deriving DecidableEq, Repr

/-- Planned entries of a cell that have not joined its send order, and how far each leg is planned (R156, R157). -/
structure CellPlan where
  planned : List Edge := []
  upto : List Nat := [0, 0, 0, 0]
deriving DecidableEq, Repr

/-- A local channel's output side (R172 to R176): edge queue (time, state, late), entries waiting for a full queue, state of the
waveform, outputs on and when each was last turned off, turn-on waiting for its dead time (pin m or m + 1), off until re-armed after a pulse block, stopped at
the fused safe level (R171). -/
structure LpwmH where
  q : List (Nat × Nat × Bool) := []
  waiting : List (Nat × Nat × Bool) := []
  wst : Nat := 0
  onA : Bool := false
  onB : Bool := false
  offA : Nat := 0
  offB : Nat := 0
  want : Nat := 0
  pbOff : Bool := false
  stopped : Bool := false
deriving DecidableEq, Repr

end Sys2Proof.Machine
end

