-- ==== Sys2Proof/Machine/EngTypes.lean ====
section
/-! DEFINITION. Machine/EngTypes.lean: the state of the cores (08_qorov_instruction_set.md R215, R249) and of the engines' task
units (chapter 07). Cores are numbered 0-15 LE0-LE15, 16-19 SE0-SE3, 20 SC0, 21 SC1. -/
namespace Sys2Proof.Machine

/-- Where a result in flight goes: a general register, an accumulator, a predicate, bytes of data memory, or
the flags it sets. -/
inductive Dst where
  | gpr (r : Nat) (v : Word)
  | acc (n : Nat) (v : Acc72)
  | pred (n : Nat) (v : Bool)
  | data (addr : Nat) (bs : List Byte)
  | flags (f : BitVec 8)
deriving DecidableEq, Repr

/-- A result in flight: the cycle from which it is seen, its place in the order of issue, and where it goes (R222). -/
structure Flight where
  due : Nat
  key : Nat
  dst : Dst
deriving DecidableEq, Repr

/-- A plan of a profile generator (07_lupin_engines.md R202): its start state, scaled by 2^64, its phases of constant jerk, each
a jerk and a duration in units of 2^-16 ns, and the nanoseconds of it that have passed. -/
structure PgenPlan where
  p : Int := 0
  v : Int := 0
  a : Int := 0
  ph : List (Int × Nat) := []
  el : Nat := 0
deriving DecidableEq, Repr

/-- A profile generator before a `pstep` (07_lupin_engines.md R190, R201): TARGET write waiting, target followed, re-plan due, state and plan,
and its register STAT. -/
structure PgenBack where
  tgtWait : Option Nat
  tgt : Nat
  replan : Bool
  pos : Int
  vel : Int
  acc : Int
  plan : Option PgenPlan
  stat : Nat
deriving DecidableEq, Repr

/-- One core (R215, R249). -/
structure CoreS where
  /-- g1 to g31 that are not 0; acc0 to acc3 as seen by `accr`, and as the next MAC accumulates onto (R231). -/
  g : List (Nat × Word) := []
  acc : List (Nat × Acc72) := []
  accIn : List (Nat × Acc72) := []
  p : BitVec 8 := 1
  pc : Word := 0
  tsk : Nat := 0
  /-- On an Aster engine or a safety core the periods of the instructions issued since reset; those of its waits join them where cyc is read
  (R215, notes/assumptions/81.md). -/
  cyc : Word := 0
  fl : BitVec 8 := 0
  /-- Cycle of the bundle in issue, results in flight by due cycle and then issue order, and the cycles the bundle in issue
  takes (R222, R223). -/
  now : Nat := 0
  fly : List Flight := []
  gap : Nat := 1
  /-- Address of the next bundle or instruction to issue (R221, R238). -/
  next : Nat := 0
  /-- STATUS, EPC, ECAUSE, BADADDR, VBASE, SCRATCH (R249). -/
  status : Word := 2
  epc : Word := 0
  ecause : Word := 0
  badaddr : Word := 0
  vbase : Word := 0
  scratch : Word := 0
  /-- The block in the 32 B read buffer (R237); the last timebase snapshot (R243); a `wait` in progress: rd and target in ns
  (R244); `idle` in progress (R250). -/
  rbuf : Option Nat := none
  snap : Nat := 0
  wait : Option (Nat × Nat) := none
  idle : Bool := false
  /-- What an exception takes back of the X slot of the bundle in issue (07_lupin_engines.md R190): the accumulators and the
  results in flight as the bundle found them, the generator before its `pstep`, and what that `pstep` does outside the generator once the bundle is complete (0 nothing, 1 it
  looks for the end of a controlled stop, 2 it posts the fault of a wrong slot). -/
  accWas : List (Nat × Acc72) := []
  flyWas : List Flight := []
  pgWas : Option PgenBack := none
  after : Nat := 0
deriving DecidableEq, Repr

/-- A core as a reset of reach C leaves it (R216, R249): SE0 starts at the boot ROM (07_lupin_engines.md R205). -/
def coreCold (n : Nat) : CoreS :=
  if n = 16 then { pc := 0x09000000, next := 0x09000000, vbase := 0x09000000 }
  else if 17 ≤ n ∧ n < 20 then { vbase := BitVec.ofNat 32 (0x04000000 + n * 0x20000) }
  else {}

/-- A generator's record of a PGEN slot (12_redundant_pair.md R346): flags, POS, VEL, ACC in Q32.32, TARGET, STOP_TGT. -/
structure PgenRec where
  flags : Nat
  pos : Int
  vel : Int
  acc : Int
  tgt : Nat
  stop : Nat
deriving DecidableEq, Repr

/-- Task units of an engine besides its registers (R183 to R209). -/
structure EngH where
  /-- PROG_CRC is being computed (R183). -/
  crc : Bool := false
  /-- Slots whose releases wait, in order of arrival (R185); releases held for a migration (R209). -/
  relq : List Nat := []
  held : List Nat := []
  /-- CTL.EN was cleared while a task runs (R212). -/
  off : Bool := false
  /-- The state the engine was halted in (R189). -/
  was : Nat := 1
  /-- IN descriptors started and not complete; slots whose IN descriptors started at PF_TT and are complete or running (R191). -/
  pfIn : List Nat := []
  /-- OUT descriptors whose data is not yet in staging; data in staging: descriptor, SRAM address, bytes (R192). -/
  stage : List Nat := []
  out : List (Nat × Nat × List Byte) := []
  /-- Snapshot view of the running release: (cell, bank, overwritten) and STRADDLE (R195, R196). -/
  view : Option (List (Nat × Nat × Bool) × Bool) := none
  /-- GLUT active pages: point number 512 t + i, SHIFT and ASYM in force at 2048 + t and 2052 + t (R199). -/
  glut : List (Nat × Nat) := []
  /-- PGEN: TARGET write waiting, target followed, a re-plan is due at the next step (R201 to R204). -/
  tgtWait : Option Nat := none
  tgt : Nat := 0
  replan : Bool := false
  /-- POS, VEL and ACC in Q32.32, and the plan in progress. -/
  pos : Int := 0
  vel : Int := 0
  acc : Int := 0
  plan : Option PgenPlan := none
  /-- Mirror sets waiting for the next start of their slots (12_redundant_pair.md R352): slot, address and bytes; PGEN record. -/
  mirror : List (Nat × Nat × List Byte) := []
  pgenMir : Option PgenRec := none
  /-- The engine to which the pending migration moves this one's slots, and whether their releases are held for it (R209). -/
  migTo : Option Nat := none
  migr : Bool := false
deriving DecidableEq, Repr

end Sys2Proof.Machine
end

