-- ==== Sys2Proof/Machine/HostTypes.lean ====
section
/-! DEFINITION. Machine/HostTypes.lean: the state of trace and of the host interface besides their registers (chapter 19). -/
namespace Sys2Proof.Machine

/-- Trace (19_host_interface_and_trace.md R501 to R504). -/
structure TraceH where
  /-- Records waiting, each of four words, oldest first; records made; the last record was dropped. -/
  q : List (Word × Word × Word × Word) := []
  seq : Nat := 0
  dropRun : Bool := false
  /-- Records written since ARM; records to write after the trigger. -/
  written : Nat := 0
  left : Nat := 0
  /-- Records in the open page; its number in the buffer, or that of the next one; bytes written; a drop has been posted since the last grant;
  thousandths of a byte left in the rate bucket, and when it was last filled. -/
  page : Option Nat := none
  pg : Nat := 0
  bytes : Nat := 0
  dropPosted : Bool := false
  bucket : Nat := 4096000
  fillNs : Nat := 0
deriving DecidableEq, Repr

/-- The host block (R498): the two mailbox queues, oldest first; the last 16 writes that left for host memory, newest first, each an
address and its bytes (MSI-X messages, DMA data, stream records and WPTR: R499, R500, R503). -/
structure HostH where
  h2d : List Word := []
  d2h : List Word := []
  out : List (Nat × List Byte) := []
deriving DecidableEq, Repr

end Sys2Proof.Machine
end

