-- ==== Sys2Proof/Machine/BlkTypes.lean ====
section
/-! DEFINITION. Machine/BlkTypes.lean: the state of protection and of the redundant pair besides their registers (chapters 09, 12). -/
namespace Sys2Proof.Machine

/-- Protection of one cell (09_power_stage_protection.md R264 to R267, R261). -/
structure ProtC where
  /-- End of the retry wait, in ns of the timebase; the re-arm waits to be sent (R263). -/
  waitEnd : Nat := 0
  due : Bool := false
  /-- The switches named in the re-arm that was sent; it charges no try; a new link generation has begun since. -/
  sent : Nat := 0
  spare : Bool := false
  newGen : Bool := false
  /-- Open windows: switch and the instant it opened, in ns. -/
  win : List (Nat × Nat) := []
  /-- MISMATCH was set since the last push began. -/
  mis : Bool := false
deriving DecidableEq, Repr

/-- Protection as a whole (R257, R263, R271, R272, R273). -/
structure ProtH where
  evq : List Word := []
  evLost : Bool := false
  /-- REARM_HELD has been posted since the policy engine last ran; the one posted last names a local channel. -/
  heldPosted : Bool := false
  heldLocal : Bool := false
  /-- The running leakage test has been acknowledged. -/
  leakAck : Bool := false
  /-- Windows of the local channels; local re-arms that wait for the policy
  engine or for EN. -/
  lwin : List (Nat × Nat) := []
  lheld : List Nat := []
  /-- The one-shot of the dump path runs. -/
  shot : Bool := false
  /-- Leakage results waiting in LKQ, and whether a loss has been posted (15_ageing_and_margins.md R412). -/
  lkq : List Word := []
  lkLost : Bool := false
deriving DecidableEq, Repr

/-- A mailbox write of the ACTIVE device on its way to the STANDBY (12_redundant_pair.md R346): cell, write, departure frame. -/
structure MbRec where
  cell : Nat
  w : MbW
  fr : Nat
deriving DecidableEq, Repr

/-- A part of a mirror set: part number, local address, data. -/
structure MirPart where
  part : Nat
  addr : Nat
  data : List Byte
deriving DecidableEq, Repr

/-- A mirror set in assembly (R352): descriptor, cycle, engine, slot, parts that have arrived. -/
structure MirSet where
  d : Nat
  cyc : Nat
  eng : Nat
  slot : Nat
  parts : List MirPart
deriving DecidableEq, Repr

/-- The pair (12_redundant_pair.md R344 to R362). -/
structure PairH where
  /-- Frames since the last valid Saddle header, and since the last one on each Saddle lane. -/
  hbAge : Nat := 0
  laneAge : List Nat := [255, 255, 255, 255]
  /-- Frames since a valid partner header with ACTIVE = 1 on any chain or Saddle lane. -/
  actAge : Nat := 255
  /-- The epoch record in MRAM (R354). -/
  record : Nat := 0
  /-- Arrival of the partner's last Saddle header on each lane: its frame and the instant in sixteenths (RX_T). -/
  rx : List (Option (Nat × Nat)) := [none, none, none, none]
  /-- Offset samples of the last 16 frames: frame, sample in sixteenths; frames in a row within TALIGN; last frame judged. -/
  ofs : List (Nat × Int) := []
  align : Nat := 0
  judged : Nat := 0
  /-- Frames since the last HEALTH slot, and its LIVE bits. -/
  healthAge : Nat := 255
  live : Nat := 0
  /-- Own digests of the last cycles: cycle, CST_DIG, LOOP_DIG; the partner's that wait for them; cycles differing in a row. -/
  digs : List (Nat × Nat × Nat) := []
  pdigs : List (Nat × Nat × Nat) := []
  differ : Nat := 0
  /-- Regions of the MIR descriptors taken at the last `tend` of their slots. -/
  regions : List (Nat × List Byte) := []
  /-- Mirror sets in assembly. -/
  asm : List MirSet := []
  /-- Send queues: MBOX records, generators, mirror parts (each a slot payload), plan parts. -/
  mboxq : List MbRec := []
  pgenq : List Nat := []
  mirq : List (List Byte) := []
  planq : List Nat := []
  planCyc : Nat := 0
  /-- Parts of the partner's plan, and the plan to validate on takeover. -/
  planIn : List (Nat × List Byte) := []
  /-- The active's outstanding writes (R362). -/
  outst : List MbRec := []
  /-- First raised-epoch frame of the takeover in progress and the epoch before it; an epoch record waits for MRAM (R354). -/
  raised : Option Nat := none
  was : Nat := 0
  epochPend : Bool := false
  sameId : Bool := false
deriving DecidableEq, Repr

/-- The safety island (14_safety_island.md R387 to R404). Times are in ns of the timebase. -/
structure IslH where
  /-- Frame counter; a resynchronisation comes with the next strobe; strobes passed since the strobe hold began. -/
  fc : Nat := 0
  resync : Bool := false
  good : Nat := 0
  /-- Epoch of the tokens, the frame they began with under it, and the frames whose banks are written, newest first, each with
  its epoch, first frame and whether its tokens are valid. -/
  epoch : Nat := 0
  f0 : Option Nat := none
  banks : List (Nat × Nat × Nat × Bool) := []
  /-- Inputs latched as discrepant: 0 PB, 1 DOOR, 2 position. -/
  disc : List Nat := []
  /-- CURRENT channels in an SLC demand, and above WARN; codes of the two position channels. -/
  slc : List Nat := []
  warn : List Nat := []
  posA : Nat := 3
  posB : Nat := 3
  /-- The voltage channel has read below V_ABS since; tokens have been withheld since. -/
  lowV : Option Nat := none
  off : Nat := 0
  /-- SACK has been low since; a release attempt is in progress. -/
  sackLow : Option Nat := some 0
  sack : Bool := false
  /-- Proof test: openings and closings of the door channels, in ns, and both openings seen. -/
  openA : Option Nat := none
  openB : Option Nat := none
  closeA : Option Nat := none
  closeB : Option Nat := none
  proofOpen : Bool := false
  overPosted : Bool := false
  /-- Operating time since PROOF.HOURS last changed, in ns. -/
  opNs : Nat := 0
  /-- The parameter block held is valid. -/
  blockOk : Bool := false
  /-- The record of the confirmed check value is not absent (17_reset_power_boot.md R461). -/
  conf : Bool := false
  mbin : List Word := []
  mbout : List Word := []
deriving DecidableEq, Repr

end Sys2Proof.Machine
end

