-- ==== Sys2Proof/Machine/SysTypes.lean ====
section
/-! DEFINITION. Machine/SysTypes.lean: the state of the analogue parts, of the supplies, resets and non-volatile memory that the
register tables do not show (chapters 01, 10 and 17). Times are in sixteenths of a nanosecond of the timebase. -/
namespace Sys2Proof.Machine

/-- A converter (10_analogue_and_thermal.md R282 to R289). -/
structure AdcH where
  /-- Events E that occurred: each with its sample instant and SEQ_LEN as CTL gave them at E (R283). -/
  evq : List (Nat × Nat) := []
  /-- The running sequence: sample instant of step 0, last step, delayed under R286, and the input that its step sampled, once it has. A
  trigger waits for an urgent conversion: its sample instant and SEQ_LEN. -/
  at0 : Nat := 0
  last : Nat := 0
  late : Bool := false
  ain : Option Nat := none
  waitE : Option (Nat × Nat) := none
  /-- The running urgent conversion: sample instant and input. -/
  urgAt : Nat := 0
  urgIn : Nat := 0
  /-- When the calibration window opened. -/
  win : Option Nat := none
  /-- Last sequence numbers that are not 0, and full shadows, by result register: 0-15 RES, 16 URES. -/
  seq : List (Nat × Nat) := []
  shadow : List (Nat × Word) := []
deriving DecidableEq, Repr

/-- A comparator (R291 to R296): the CTL and DAC settings that have reached the mixed-signal die; between which codes besides the present one
its level stands while it settles. -/
structure CmpH where
  ctl : Nat := 0
  dac : Nat := 0
  lo : Nat := 0
  hi : Nat := 0
deriving DecidableEq, Repr

/-- An ADPLL (11_clocks_timebase_network_time.md R306, R309): consecutive windows within and beyond TOL, and whether it re-locks
after it coasted. -/
structure PllH where
  good : Nat := 0
  bad : Nat := 0
  relock : Bool := false
  k : Nat := 12
  m : Nat := 4
  tol : Nat := 2
deriving DecidableEq, Repr

/-- A time trigger as armed (R323): the next instant of mode 1, START and PERIOD in ns, OFFSET in ns, and the instants due in modes 2
and 3, in sixteenths. -/
structure TtH where
  next : Option Nat := none
  start : Nat := 0
  period : Nat := 0
  ofs : Nat := 0
  dues : List Nat := []
deriving DecidableEq, Repr

/-- An entry of the trigger queue (01_architecture.md R22): the trigger, and whether it has still to release tasks and to start
prefetches. -/
structure TrigE where
  t : Nat
  rel : Bool
  pf : Bool
deriving DecidableEq, Repr

/-- The Heath monitor (15_ageing_and_margins.md R410 to R426): the plan captured or PENDING, whether it skips the step check, the
cells pushed by the plan in force, a record held by a supply warning, the group of the running SRAM measurement, and the
difference stored at the first reference measurement. -/
structure AgeH where
  plan : List Word := []
  skipStep : Bool := false
  pushed : List Nat := []
  held : Option (List Byte) := none
  srm : Nat := 0
  bg0 : Option Int := none
deriving DecidableEq, Repr

/-- The device as a whole. -/
structure SysH where
  /-- Flits in the die-to-die inbound queue while CK_CORE stands still (01_architecture.md R22). -/
  d2dq : Nat := 0
  /-- Loads of flits that failed their CRC, whose results or settings are lost (R17). -/
  lost : List D2dLoad := []
  /-- Sensors whose measurement is running (R298). -/
  thm : List Nat := []
  /-- Rails below their reset level (17_reset_power_boot.md R448), by index. -/
  low : List Nat := []
  /-- The ADPLLs; the reference a change of R310 goes to and whether its ramp runs; where the system ramp goes, in kHz. -/
  pllS : PllH := {}
  pllT : PllH := {}
  swTo : Option Nat := none
  swRamp : Bool := false
  rampTo : Nat := 0
  /-- The offset of the timebase DCO in 0.01 ppm and where its ramp goes (R313); the seed its dither sequence started from (R314). -/
  tbOfs : Int := 0
  tbTo : Int := 0
  dith : Nat := 0xACE1
  /-- What a slew has not applied, in units of 2^-24 ns (R320); PPS_OUT is high. -/
  slew : Int := 0
  pps : Bool := false
  /-- The NVC block (17_reset_power_boot.md R449, R458, R460, R462): writes waiting for a pulse, oldest first (the first 16 are in
  the write buffer, further ones wait with their writers); the write whose pulse runs; words with an uncorrectable error; a
  reset is held off by the pulse. -/
  nvq : List (Nat × List Byte) := []
  nvRun : Option (Nat × List Byte) := none
  nvBad : List Nat := []
  heldOff : Bool := false
  /-- Resets (R451 to R458): sources asserted now and since the episode opened, in the order of R451 (none: no episode is open; the
  power-on episode is open at reset); the reset of the episode was held off. -/
  asserted : List Nat := []
  epi : List Nat := [0]
  wasHeld : Bool := false
  /-- The block reset that runs (R463 to R465): code, self-test requested, and the block was not idle. -/
  blk : Option (Nat × Bool × Bool) := none
  /-- Engines whose memory failed its self-test (R465, R470). -/
  bistBad : List Nat := []
  /-- Boot (R467, R470): the fuse BOOT_SRC, what the boot in progress meets, CFG_ENTRY of the verified image, and the limit of
  step 8 has expired. -/
  bootSrc : Nat := 0
  boot : Option BootIn := none
  cfgEntry : Nat := 0
  cfgTmo : Bool := false
  /-- The island's MRAM record says that a proof test is due (14_safety_island.md R400). -/
  proofDue : Bool := false
deriving DecidableEq, Repr

end Sys2Proof.Machine
end

