-- ==== Sys2Proof/Machine/NetTypes.lean ====
section
/-! DEFINITION. Machine/NetTypes.lean: the state of the Ethernet ports, the CAN controllers and security that the register tables do
not show (chapters 11, 16 and 18). Instants are in sixteenths of a nanosecond of the timebase. -/
namespace Sys2Proof.Machine

/-- The outstanding Pdelay_Req of a port (11_clocks_timebase_network_time.md R333): sequenceId, t1, and once a two-step response has
come, t4, its correctionField and t2 in units of 2^-16 ns. -/
structure PdReq where
  seq : Nat
  t1 : Int
  resp : Option (Int × Int × Int) := none
deriving DecidableEq, Repr

/-- A forwarded frame waiting for its egress (R329, R334): its bytes, its ingress instant at the balls, the delay to add to a Sync in
sixteenths, and whether it is a PTP event message. -/
structure EthFwd where
  frame : List Byte
  t : Int
  add : Nat
  ev : Bool
deriving DecidableEq, Repr

/-- An Ethernet port (R327 to R336): the outstanding request, the forwarded frames waiting here, and the last frame sent, before
protection, with its packet number. -/
structure EthH where
  pd : Option PdReq := none
  fwd : List EthFwd := []
  last : List Byte := []
  lastPn : Option Nat := none
deriving DecidableEq, Repr

/-- A CAN controller (18_can_fd.md R481, R482, R485, R487): the objects that can have been selected since the last frame ended, bus-off in
force, frozen since CK_CAN stopped, and periods of CK_CAN since TSCNT advanced. -/
structure CanH where
  cands : List Nat := []
  off : Bool := false
  frozen : Bool := false
  sub : Nat := 0
deriving DecidableEq, Repr

/-- Security (16_security.md R431 to R443): the policies in the fuses, the burn that runs (none of a slot: the rollback floor), valid
helper data in MRAM, the keys of the slots and whether an identity key is held, the vault command that runs, the slots whose image
verified, the debug challenge, when the last attempt failed, in ns, and failures since the last pass. -/
structure SecH where
  fused : List Nat := [0, 0, 0, 0, 0, 0, 0]
  burn : Option (Option Nat) := none
  helper : Bool := false
  keys : List (Nat × List Word) := []
  idKey : Option Nat := none
  cmd : Option (Nat × Nat) := none
  chal : Option Nat := none
  failAt : Option Nat := none
  fails : Nat := 0
deriving DecidableEq, Repr

end Sys2Proof.Machine
end

