-- ==== Sys2Proof/Machine/State.lean ====
section
/-! DEFINITION. Machine/State.lean: the state of the KT4192 as plain data, and the reasons a command can stop. -/
namespace Sys2Proof.Machine

/-- Why the machine stops with a fault. -/
inductive Fault where
  /-- A command whose payload is not as long as its rule says (a section that is not 88 B): raised by the meanings of the
  commands WellFormed.lean checks; safe, the model stops where there is no such event. -/
  | illFormed
deriving DecidableEq, Repr

/-- Why a command has no meaning. -/
inductive Refusal where
  /-- Raised by the arm of a command that has no meaning yet; safe. -/
  | notModelled (mnemonic : String)
deriving DecidableEq, Repr

/-- A fault queue of a source domain (01_architecture.md R22, 13_fault_collection.md R371): messages, the held message, how
many were discarded, their highest severity and its last class, how many of the discarded drive the wired lines. -/
structure FaultQ where
  msgs : List Msg := []
  held : Option Msg := none
  lost : Nat := 0
  lostWired : Nat := 0
  hiSev : Nat := 0
  hiCls : Nat := 0
deriving DecidableEq, Repr

structure State where
  /-- Commands waiting, first in first out. -/
  pending : List Instr := []
  /-- The model's own counter of free values drawn (Config.freeValue). -/
  free : Nat := 0
  /-- Registers that differ from their cold values, by address (20_register_index.md R511). -/
  regs : List (Nat × Word) := []
  /-- Memory bytes that differ from those of a memory nothing has written, by address (20_register_index.md R509). -/
  mem : List Host.Cell := []
  /-- The timebase, in units of 2^-24 ns (11_clocks_timebase_network_time.md R318), and the frames started. -/
  tb : Nat := 0
  frames : Nat := 0
  /-- Fault queues by source domain; S4 and S5 messages driven on the wired lines and not yet in the books (R24, R374). -/
  fq : List (Nat × FaultQ) := []
  wired : Nat := 0
  /-- Chapters 02 to 05. -/
  grid : GridH := {}
  lanes : List (Nat × LaneH) := []
  chains : List (Nat × ChainH) := []
  cells : List (Nat × CellH) := []
  cst : List (Nat × CstE) := []
  nodes : List (Nat × NodeS) := []
  /-- Chapter 06. -/
  chans : List (Nat × ChanH) := []
  plans : List (Nat × CellPlan) := []
  /-- Cells whose first starvation since RUN has been posted (06_modulation_and_pwm.md R157). -/
  starved : List Nat := []
  /-- The cell whose AUX entry awaits its place in the send order (R159). -/
  aux : Option Nat := none
  /-- MOD.ANCHOR as a frame of the full timebase (06_modulation_and_pwm.md R147). -/
  modA : Int := 0
  lpwm : List (Nat × LpwmH) := []
  /-- Chapters 07 and 08. -/
  cores : List (Nat × CoreS) := []
  engs : List (Nat × EngH) := []
  /-- Chapters 09 and 12. -/
  protc : List (Nat × ProtC) := []
  prot : ProtH := {}
  pair : PairH := {}
  /-- Chapters 01, 10 and 17. -/
  adcs : List (Nat × AdcH) := []
  cmps : List (Nat × CmpH) := []
  sys : SysH := {}
  /-- Chapter 11: the time triggers, and the trigger queue (01_architecture.md R22). -/
  tts : List (Nat × TtH) := []
  trigq : List TrigE := []
  /-- Chapter 15. -/
  age : AgeH := {}
  /-- Chapter 14. -/
  isl : IslH := {}
  /-- Chapters 11, 16 and 18. -/
  eths : List (Nat × EthH) := []
  cans : List (Nat × CanH) := []
  sec : SecH := {}
  /-- Chapter 19. -/
  trc : TraceH := {}
  host : HostH := {}
deriving DecidableEq, Repr

/-- The machine right after reset: every register at its cold value, nothing waiting, nothing listed in memory. -/
def State.reset : State := {}

end Sys2Proof.Machine
end

