-- ==== Sys2Proof/Machine/Ops.lean ====
section
/-! DEFINITION. Machine/Ops.lean: the named operations over registers, memory, time, faults and free values that every meaning
is written with. -/
namespace Sys2Proof.Machine

/-- What the meaning of a command answers. -/
abbrev Out := Host.Outcome State Fault Refusal

/-! ### The register map -/

/-- The block of a list in which an address falls. -/
def findBlock (a : Nat) : List BlockD → Option BlockD
  | [] => none
  | b :: t => if b.base ≤ a ∧ a < b.base + b.stride * b.count then some b else findBlock a t

/-- The first block of the lists in which an address of the register space falls. -/
def blockOf (a : Nat) : Option BlockD := if a < 0x40400000 then findBlock a blocksLow else findBlock a blocksHigh

/-- The register row whose repetitions include offset `o` in its block. -/
def findRegD (o : Nat) : List RegD → Option RegD
  | [] => none
  | r :: t => if r.off ≤ o ∧ (o - r.off) % r.step = 0 ∧ (o - r.off) / r.step < r.reps then some r else findRegD o t

/-- The register row that an address names (20_register_index.md R511). -/
def regOf (a : Nat) : Option RegD :=
  match blockOf a with
  | none => none
  | some b => findRegD ((a - b.base) % b.stride) b.regs

/-- The cold value of a register: that of its table; ENG CTL.EN of SE0 and STAT.KIND of the Aster engines as R212 states. -/
def coldOf (a : Nat) : Word :=
  if a = 0x40420000 then 1
  else if a = 0x40420004 ∨ a = 0x40421004 ∨ a = 0x40422004 ∨ a = 0x40423004 then 8
  else match regOf a with
    | none => 0
    | some r => BitVec.ofNat 32 r.cold

/-! ### Registers -/

/-- The value of the register at an address, as a number. -/
def State.reg (s : State) (a : Nat) : Nat := (Tbl.get coldOf s.regs a).toNat

/-- Store a whole register. -/
def State.setReg (s : State) (a v : Nat) : State := { s with regs := Tbl.set coldOf s.regs a (BitVec.ofNat 32 v) }

/-- The value of a field. -/
def State.rd (s : State) (f : Fld) : Nat := bitsOf (s.reg f.addr) f.lo f.w

/-- Store a field, leaving the rest of its register. -/
def State.wr (s : State) (f : Fld) (x : Nat) : State := s.setReg f.addr (putBits (s.reg f.addr) f.lo f.w x)

/-- Whether a field is not 0. -/
def State.on (s : State) (f : Fld) : Bool := s.rd f != 0

/-- Set a one-bit field. -/
def State.set1 (s : State) (f : Fld) : State := s.wr f 1

/-- Clear a field. -/
def State.clr (s : State) (f : Fld) : State := s.wr f 0

/-- Add to a saturating count. -/
def State.addSat (s : State) (f : Fld) (n : Nat) : State := s.wr f (satN f.w (s.rd f + n))

/-- Count one event in a saturating count. -/
def State.bump (s : State) (f : Fld) : State := s.addSat f 1

/-- Set bit `i` of a field. -/
def State.setBit (s : State) (f : Fld) (i : Nat) : State := s.wr { f with lo := f.lo + i, w := 1 } 1

/-- Clear bit `i` of a field. -/
def State.clrBit (s : State) (f : Fld) (i : Nat) : State := s.wr { f with lo := f.lo + i, w := 1 } 0

/-- Bit `i` of a field. -/
def State.bitAt (s : State) (f : Fld) (i : Nat) : Bool := s.rd { f with lo := f.lo + i, w := 1 } != 0

/-- Apply a change when a condition holds. -/
def State.when (s : State) (b : Bool) (f : State → State) : State := if b then f s else s

/-- Apply a change for each element of a list, in order. -/
def State.forEach {α : Type} (s : State) (l : List α) (f : State → α → State) : State := l.foldl f s

/-! ### Free values -/

/-- The next free value of `w` bits; `State.drawn` advances past it. -/
def State.freeNat (s : State) (w : Nat) : Nat := (Config.freeValue w s.free).toNat

/-- The free value `i` places on; `State.drawnN` advances past the next `k`. -/
def State.freeAt (s : State) (w i : Nat) : Nat := (Config.freeValue w (s.free + i)).toNat
def State.drawnN (s : State) (k : Nat) : State := { s with free := s.free + k }

/-- The state after a free value has been drawn. -/
def State.drawn (s : State) : State := { s with free := s.free + 1 }

/-- Store a free value in a field. -/
def State.wrFree (s : State) (f : Fld) : State := (s.wr f (s.freeNat f.w)).drawn

/-! ### Memory -/

/-- What a byte of memory that nothing has written reads as (notes/assumptions/3.md): 0, but for CUR, bit 3 of byte 0x58 of an entry,
which is 1 in the bank that holds the committed copies after reset (02_control_cycle.md R53). -/
def memDefault (a : Nat) : Byte := if 0x08000000 ≤ a ∧ a < 0x0800C000 ∧ a % 0x100 = 0x58 then 8 else 0

/-- One byte of memory. -/
def State.byte (s : State) (a : Nat) : Byte := Tbl.get memDefault s.mem a

/-- Store one byte. -/
def State.setByte (s : State) (a : Nat) (b : Byte) : State := { s with mem := Tbl.set memDefault s.mem a b }

/-- `k` bytes from an address. -/
def State.bytes (s : State) (a : Nat) : Nat → List Byte
  | 0 => []
  | k + 1 => s.byte a :: s.bytes (a + 1) k

/-- Store bytes from an address. -/
def State.setBytes (s : State) (a : Nat) : List Byte → State
  | [] => s
  | b :: t => (s.setByte a b).setBytes (a + 1) t

/-- A little-endian number of `k` bytes (00_scope.md R8). -/
def State.load (s : State) (a k : Nat) : Nat := ofBytes (s.bytes a k)

/-- Store a little-endian number of `k` bytes. -/
def State.store (s : State) (a k n : Nat) : State := s.setBytes a (toBytes k n)

/-- Whether an address names shared SRAM, trace memory, and so on (20_register_index.md R509). -/
def inSram (a : Nat) : Bool := decide (a < 0x400000)
def inTrace (a : Nat) : Bool := decide (0x1000000 ≤ a ∧ a < 0x1800000)
def inMram (a : Nat) : Bool := decide (0x2000000 ≤ a ∧ a < 0x2400000)
def inLocal (a : Nat) : Bool := decide (0x4000000 ≤ a ∧ a < 0x4000000 + 20 * 0x20000)
def inCst (a : Nat) : Bool := decide ((0x8000000 ≤ a ∧ a < 0x800C000) ∨ (0x8010000 ≤ a ∧ a < 0x801C000))
def inRom (a : Nat) : Bool := decide (0x9000000 ≤ a ∧ a < 0x9010000)
def inRegs (a : Nat) : Bool := decide (0x40000000 ≤ a ∧ a < 0x41000000)

/-- Data memory of engine `n`. -/
def dataBase (n : Nat) : Nat := 0x4000000 + n * 0x20000 + 0x10000

/-- Program memory of engine `n`. -/
def progBase (n : Nat) : Nat := 0x4000000 + n * 0x20000

/-- The island's memories (14_safety_island.md R386) stand in `mem` above the device's address space. -/
def islBase : Nat := 0x100000000

/-! ### Tables of repeated units -/

def State.lane (s : State) (n : Nat) : LaneH := Tbl.get (fun _ => {}) s.lanes n
def State.setLane (s : State) (n : Nat) (x : LaneH) : State := { s with lanes := Tbl.set (fun _ => {}) s.lanes n x }
def State.chain (s : State) (n : Nat) : ChainH := Tbl.get (fun _ => {}) s.chains n
def State.setChain (s : State) (n : Nat) (x : ChainH) : State := { s with chains := Tbl.set (fun _ => {}) s.chains n x }
def State.cell (s : State) (c : Nat) : CellH := Tbl.get (fun _ => {}) s.cells c
def State.setCell (s : State) (c : Nat) (x : CellH) : State := { s with cells := Tbl.set (fun _ => {}) s.cells c x }
def State.cstE (s : State) (c : Nat) : CstE := Tbl.get (fun _ => {}) s.cst c
def State.setCst (s : State) (c : Nat) (x : CstE) : State := { s with cst := Tbl.set (fun _ => {}) s.cst c x }
def State.node (s : State) (c : Nat) : NodeS := Tbl.get (fun _ => {}) s.nodes c
def State.setNode (s : State) (c : Nat) (x : NodeS) : State := { s with nodes := Tbl.set (fun _ => {}) s.nodes c x }
def State.chan (s : State) (n : Nat) : ChanH := Tbl.get (fun _ => {}) s.chans n
def State.setChan (s : State) (n : Nat) (x : ChanH) : State := { s with chans := Tbl.set (fun _ => {}) s.chans n x }
def State.plan (s : State) (c : Nat) : CellPlan := Tbl.get (fun _ => {}) s.plans c
def State.setPlan (s : State) (c : Nat) (x : CellPlan) : State := { s with plans := Tbl.set (fun _ => {}) s.plans c x }
def State.lp (s : State) (m : Nat) : LpwmH := Tbl.get (fun _ => {}) s.lpwm m
def State.setLp (s : State) (m : Nat) (x : LpwmH) : State := { s with lpwm := Tbl.set (fun _ => {}) s.lpwm m x }
def State.core (s : State) (n : Nat) : CoreS := Tbl.get coreCold s.cores n
def State.setCore (s : State) (n : Nat) (x : CoreS) : State := { s with cores := Tbl.set coreCold s.cores n x }
def State.eng (s : State) (n : Nat) : EngH := Tbl.get (fun _ => {}) s.engs n
def State.setEng (s : State) (n : Nat) (x : EngH) : State := { s with engs := Tbl.set (fun _ => {}) s.engs n x }
def State.pc (s : State) (c : Nat) : ProtC := Tbl.get (fun _ => {}) s.protc c
def State.setPc (s : State) (c : Nat) (x : ProtC) : State := { s with protc := Tbl.set (fun _ => {}) s.protc c x }
def State.adc (s : State) (a : Nat) : AdcH := Tbl.get (fun _ => {}) s.adcs a
def State.setAdc (s : State) (a : Nat) (x : AdcH) : State := { s with adcs := Tbl.set (fun _ => {}) s.adcs a x }
def State.cmp (s : State) (i : Nat) : CmpH := Tbl.get (fun _ => {}) s.cmps i
def State.setCmp (s : State) (i : Nat) (x : CmpH) : State := { s with cmps := Tbl.set (fun _ => {}) s.cmps i x }

def State.tt (s : State) (t : Nat) : TtH := Tbl.get (fun _ => {}) s.tts t
def State.setTt (s : State) (t : Nat) (x : TtH) : State := { s with tts := Tbl.set (fun _ => {}) s.tts t x }
def State.eth (s : State) (p : Nat) : EthH := Tbl.get (fun _ => {}) s.eths p
def State.setEth (s : State) (p : Nat) (x : EthH) : State := { s with eths := Tbl.set (fun _ => {}) s.eths p x }
def State.can (s : State) (m : Nat) : CanH := Tbl.get (fun _ => {}) s.cans m
def State.setCan (s : State) (m : Nat) (x : CanH) : State := { s with cans := Tbl.set (fun _ => {}) s.cans m x }
def State.setSec (s : State) (x : SecH) : State := { s with sec := x }
def State.setSys (s : State) (x : SysH) : State := { s with sys := x }

/-! ### The read buffers of the Aster engines (08_qorov_instruction_set.md R237) -/

/-- A read buffer that holds a block with one of the `k` bytes from `a` is dropped. -/
def State.dropBuf (s : State) (a k : Nat) : State :=
  s.forEach [16, 17, 18, 19] fun s n =>
    s.when ((s.core n).rbuf.any fun b => decide (a < 32 * b + 32 ∧ 32 * b < a + k)) fun s => s.setCore n { s.core n with rbuf := none }

/-- A write of memory by a master: it drops the read buffers that hold its blocks. -/
def State.putMem (s : State) (a : Nat) (bs : List Byte) : State := (s.dropBuf a bs.length).setBytes a bs

/-! ### Results in flight (08_qorov_instruction_set.md R222) -/

def Flight.toData (f : Flight) : Bool :=
  match f.dst with
  | .data _ _ => true
  | _ => false

/-- A result reaches its place; g0 and p0 take none (R215). -/
def State.land (s : State) (n : Nat) (f : Flight) : State :=
  let c := s.core n
  match f.dst with
  | .gpr r v => s.setCore n { c with g := if r = 0 then c.g else Tbl.set (fun _ => 0) c.g r v }
  | .acc k v => s.setCore n { c with acc := Tbl.set (fun _ => 0) c.acc k v }
  | .pred k v => s.setCore n { c with p := if k = 0 then c.p else BitVec.ofNat 8 (putBits c.p.toNat k 1 (bit v)) }
  | .data a bs => s.putMem a bs
  | .flags v => s.setCore n { c with fl := c.fl ||| v }

/-- Results due by cycle `t` reach their places, in order. -/
def State.landTo (s : State) (n t : Nat) : State :=
  let q := (s.core n).fly
  let s := s.setCore n { s.core n with fly := q.filter fun f => decide (t < f.due) }
  s.forEach (q.filter fun f => decide (f.due ≤ t)) fun s f => s.land n f

/-- Results in flight to data memory complete. -/
def State.landData (s : State) (n : Nat) : State :=
  let q := (s.core n).fly
  let s := s.setCore n { s.core n with fly := q.filter fun f => !f.toData }
  s.forEach (q.filter Flight.toData) fun s f => s.land n f

/-- All results in flight complete (R222, R247, R252). -/
def State.settle (s : State) (n : Nat) : State :=
  let q := (s.core n).fly
  (s.setCore n { s.core n with fly := [] }).forEach q fun s f => s.land n f

/-! ### Time -/

/-- Whole nanoseconds of the timebase since its zero. -/
def State.ns (s : State) : Nat := s.tb / 2 ^ 24
/-- Seconds, nanoseconds within the second, fraction (11_clocks_timebase_network_time.md R318). -/
def State.tbSec (s : State) : Nat := s.ns / 1000000000
def State.tbNs (s : State) : Nat := s.ns % 1000000000
def State.tbFrac (s : State) : Nat := s.tb % 2 ^ 24
/-- Sixteenths of a nanosecond since zero. -/
def State.t16 (s : State) : Nat := s.tb / 2 ^ 20
/-- Frame of the full timebase (02_control_cycle.md R41). -/
def State.frame (s : State) : Nat := s.ns / 1000
/-- Nanoseconds in [29:0] and seconds [1:0] in [31:30]: the stamp format of R53. -/
def State.stampNs (s : State) : Nat := s.tbNs + (s.tbSec % 4) * 2 ^ 30

/-- Set the timebase; LOOP.FRAME_NUM follows it (R41). -/
def State.setTb (s : State) (t : Nat) : State :=
  { s with tb := t }.wr LOOP_FRAME_NUM_FRAME (t / 2 ^ 24 / 1000)

/-- What a running slew of `left` applies while the timebase passes `d`: each tick gains `inc` and up to `rate`; the last tick's part is
left to the tick itself (11_clocks_timebase_network_time.md R320). -/
def slewPart (left : Int) (inc rate d : Nat) : Int :=
  let tick := ((inc : Int) + (if left < 0 then -(rate : Int) else rate)).toNat
  let n := min (d / tick) (ceilDiv left.natAbs rate - 1)
  if left < 0 then -((n * rate : Nat) : Int) else (n * rate : Nat)

/-- The timebase passes `d`: the slew that runs has that much less to apply. -/
def State.slewPass (s : State) (d : Nat) : State :=
  if s.on TB_SLEW_CTL_BUSY then
    { s with sys := { s.sys with slew := s.sys.slew - slewPart s.sys.slew (s.reg TB_INC) (s.rd TB_SLEW_CTL_RATE) d } }
  else s

/-- Time has come to an instant given in units of 2^-24 ns; it never goes back. -/
def State.timeTo (s : State) (t : Nat) : State := (s.slewPass (t - s.tb)).setTb (max s.tb t)

/-! ### Device state -/

/-- SYS.DEV_STATE.STATE (01_architecture.md R32): 0 BOOT 1 READY 2 ARMED 3 RUN 4 STOPPED 5 DORMANT. -/
def State.dev (s : State) : Nat := s.rd SYS_DEV_STATE_STATE
def State.inRun (s : State) : Bool := s.dev == 3
def State.limp (s : State) : Bool := s.on SYS_DEV_STATE_LIMP
/-- 0 none, 1 LATENCY, 2 CAPACITY (R28). -/
def State.profile (s : State) : Nat := s.rd SYS_DEV_STATE_PROFILE

/-- Whether a cell number names a cell (00_scope.md R9, 04_cell_link_protocol.md R88). -/
def State.hasCell (s : State) (c : Nat) : Bool :=
  !(s.profile == 1 && 4 ≤ c % 8) && !(12 ≤ c / 8 && s.rd (CHAIN_CFG_TOPO (c / 8 - 12)) == 1)

/-! ### Interrupts of the Aster engines -/

/-- Set source `i` pending in SE`k` (07_lupin_engines.md R206). -/
def State.irqTo (s : State) (k i : Nat) : State := s.setBit (ENG_IRQ_PEND_PEND (16 + k)) i

/-- Set source `i` pending in every Aster engine. -/
def State.irq (s : State) (i : Nat) : State := (((s.irqTo 0 i).irqTo 1 i).irqTo 2 i).irqTo 3 i

end Sys2Proof.Machine
end

