-- ==== Sys2Proof/Machine/Faults.lean ====
section
/-! DEFINITION. Machine/Faults.lean: posting a fault message (13_fault_collection.md R366 to R371, 01_architecture.md R22), the
reactions that do not wait for a queue (R24, R373, R374), and the device states (R32). -/
namespace Sys2Proof.Machine

/-! ### Source blocks of R367 -/

def srcSYS : Nat := 0x001
def srcRST : Nat := 0x002
def srcCLK : Nat := 0x003
def srcTB : Nat := 0x004
def srcFLT : Nat := 0x005
def srcAGE : Nat := 0x006
def srcSEC : Nat := 0x007
def srcTHM : Nat := 0x008
def srcPWR : Nat := 0x009
def srcNVC : Nat := 0x00A
def srcLANE : Nat := 0x010
def srcCHAIN : Nat := 0x011
def srcMOD : Nat := 0x018
def srcLOOP : Nat := 0x020
def srcENG : Nat := 0x021
def srcPROG : Nat := 0x024
def srcPROT : Nat := 0x028
def srcANA : Nat := 0x030
def srcETH : Nat := 0x038
def srcPTP : Nat := 0x039
def srcCAN : Nat := 0x03A
def srcSADL : Nat := 0x040
def srcTRC : Nat := 0x041
def srcSAFE : Nat := 0x042
def srcHOST : Nat := 0x043
def srcMEM : Nat := 0x045

/-! ### Classes of R368 -/

def clsTIMING : Nat := 0
def clsLINK : Nat := 1
def clsSTAGE : Nat := 2
def clsSUPPLY : Nat := 3
def clsTHERMAL : Nat := 4
def clsMEMORY : Nat := 5
def clsCLOCK : Nat := 6
def clsANALOG : Nat := 7
def clsPROGRAM : Nat := 8
def clsPAIR : Nat := 9
def clsSECURITY : Nat := 10
def clsSAFETY : Nat := 11
def clsCONFIG : Nat := 12

/-! ### Device states -/

/-- Enter a device state (R32): entering ARMED clears the controlled-stop locks (07_lupin_engines.md R204), leaving RUN ends
the controlled stop. -/
def State.setDev (s : State) (n : Nat) : State :=
  let s := s.wr SYS_DEV_STATE_STATE n
  let s := s.when (n == 2) fun s => s.forEach (List.range 16) fun s e => s.clr (PGEN_STAT_LOCKED e)
  s.clr LOOP_CSTOP_ACTIVE

/-- Whether every locked generator reports AT_TGT (R204). -/
def State.allAtTgt (s : State) : Bool :=
  (List.range 16).all fun n => !s.on (PGEN_STAT_LOCKED n) || s.on (PGEN_STAT_AT_TGT n)

/-- End the controlled stop when every locked generator has arrived (R204). -/
def State.cstopCheck (s : State) : State :=
  s.when (s.on LOOP_CSTOP_ACTIVE && s.allAtTgt) fun s => s.setDev 4

/-- Lock one generator of the controlled stop and have it re-plan to STOP_TGT (R204). -/
def State.lockPgen (s : State) (n : Nat) : State :=
  let t := s.reg (PGEN_STOP_TGT n)
  let e := s.eng n
  let still := e.pos == toInt 32 t * 65536 && e.vel == 0 && e.acc == 0
  let s := s.set1 (PGEN_STAT_LOCKED n)
  let s := s.wr (PGEN_STAT_AT_TGT n) (bit still)
  let s := s.when still fun s => (s.clr (PGEN_STAT_MOVING n)).clr (PGEN_STAT_OVERSHOOT n)
  s.setEng n { s.eng n with tgt := t, tgtWait := none, replan := !still, plan := if still then none else e.plan }

/-- Start the controlled stop, in RUN (R204). -/
def State.cstopStart (s : State) : State :=
  s.when (s.inRun && !s.on LOOP_CSTOP_ACTIVE) fun s =>
    let s := s.set1 LOOP_CSTOP_ACTIVE
    let s := s.forEach (List.range 16) fun s n => s.when (s.on (PGEN_CFG_CSTOP n)) fun s => s.lockPgen n
    s.cstopCheck

/-! ### The pulse block -/

/-- Whether a class holds an unacknowledged message up to the number in the register at `a` (R372). -/
def State.ahead (s : State) (a k : Nat) : Bool :=
  let x := s.reg a
  let y := s.reg (FLT_CLS_SEQ_ACK k)
  x != 0 && (y == 0 || later32 x y)

/-- STAT.UNACK, UNACK_HI and PB follow the books (R372, R374). -/
def State.books (s : State) : State :=
  let s := s.forEach (List.range 13) fun s k =>
    let s := s.wr ⟨FLT_STAT, k, 1⟩ (bit (s.ahead (FLT_CLS_SEQ_LAST k) k))
    s.wr ⟨FLT_STAT, 16 + k, 1⟩ (bit (s.ahead (FLT_CLS_SEQ_S3 k) k))
  s.wr FLT_STAT_PB (bit (s.wired != 0 || (List.range 13).any fun k => s.ahead (FLT_CLS_SEQ_S4 k) k))

/-! ### Outputs of the local channels (06_modulation_and_pwm.md R171 to R174) -/

/-- Whether a local channel is the odd one of a pair: its values, mode and trip settings are ignored (R172). -/
def State.oddOfPair (s : State) (m : Nat) : Bool := m % 2 == 1 && s.on (LPWM_CTL_PAIR (m - 1))

/-- The level of a pin: its on level, its off level, or its fused safe level (R173, R171). -/
def State.pinLevel (s : State) (m : Nat) (on : Bool) (safe : Bool) : Nat :=
  if safe then (if s.rd (LPWM_STAT_SAFE_LVL m) = 1 then 1 else 0)
  else if on then s.rd (LPWM_CTL_POL m) else 1 - s.rd (LPWM_CTL_POL m)

/-- STAT.PIN of a channel, and of its partner in a pair, follows the outputs; in a pair the even channel drives both. -/
def State.pins (s : State) (m : Nat) : State :=
  let m := if s.oddOfPair m then m - 1 else m
  let safe := (s.lp m).stopped || s.dev < 2 || s.dev == 5 || s.sys.heldOff
  let s := s.wr (LPWM_STAT_PIN m) (s.pinLevel m (s.lp m).onA safe)
  s.when (m % 2 == 0 && s.on (LPWM_CTL_PAIR m)) fun s => s.wr (LPWM_STAT_PIN (m + 1)) (s.pinLevel (m + 1) (s.lp m).onB safe)

/-- Both outputs go off at once; the dead times run from there (R174). -/
def State.lpOff (s : State) (m : Nat) : State :=
  let x := s.lp m
  let s := s.setLp m { x with onA := false, onB := false, want := 0, offA := if x.onA then s.t16 else x.offA
                              offB := if x.onB then s.t16 else x.offB }
  s.pins m

/-- The odd output of a channel that enters or leaves a pair starts off: the other output's dead time runs from there (R172, R174). -/
def State.pairOff (s : State) (m : Nat) : State :=
  let x := s.lp (m + 1)
  let t := if x.onA then s.t16 else x.offA
  let s := s.setLp (m + 1) { x with onA := false, onB := false, want := 0, offA := t }
  (s.setLp m { s.lp m with offB := max t (s.lp m).offB }).pins (m + 1)

/-- A local output goes off and stays off until it is re-armed (R174, R176). -/
def State.lpwmOff (s : State) (m : Nat) : State := (s.setLp m { s.lp m with pbOff := true }).lpOff m

/-- The S4 reaction (R374): the pulse block and, in ARMED and RUN, STOPPED at once. -/
def State.pulseBlock (s : State) : State :=
  let s := s.set1 FLT_STAT_PB
  let s := s.forEach (List.range 16) fun s m => s.lpwmOff m
  s.when (s.dev == 2 || s.dev == 3) fun s => s.setDev 4

/-- The S5 reaction: FAULT_RST_REQ, and YIELD of an ACTIVE pair member (R377, 12_redundant_pair.md R356). -/
def State.resetRequest (s : State) : State :=
  let s := s.set1 FLT_STAT_RSTREQ
  s.when (s.rd SADL_STAT_ROLE == 3) fun s => s.set1 SADL_STAT_YIELD_TX

/-- The reactions a source of severity `sev` drives at detection (R24). -/
def State.wiredReact (s : State) (sev : Nat) : State :=
  let s := s.when (4 ≤ sev) fun s => s.pulseBlock
  s.when (5 ≤ sev) fun s => s.resetRequest

/-- An element of the power-conversion set is lost (R38). -/
def State.powerLost (s : State) : State := s.when (s.dev == 2 || s.dev == 3) fun s => s.setDev 4

/-! ### Fault queues -/

/-- The message of R366. -/
def msgOf (src inst kind cls sev datum : Nat) : Msg :=
  BitVec.ofNat 64 (src % 1024 * 2 ^ 54 + inst % 256 * 2 ^ 46 + kind % 256 * 2 ^ 38 + cls % 16 * 2 ^ 34 + sev % 8 * 2 ^ 31 +
    datum % 2 ^ 31)

/-- The source domain of a block (R371): notes/assumptions/6.md. -/
def domainOf (src inst : Nat) : Nat :=
  if src = srcTB then 1
  else if src = srcETH ∨ src = srcPTP then 2
  else if src = srcHOST then 3
  else if src = srcCAN then 4
  else if src = srcANA then 5
  else if src = srcSAFE ∨ (src = srcPROG ∧ 20 ≤ inst) then 6
  else if src = srcRST ∨ src = srcPWR ∨ src = srcCLK ∨ src = srcTHM then 7
  else if src = srcLANE then 8 + inst
  else 0

/-- The queue of a domain. -/
def State.fqOf (s : State) (d : Nat) : FaultQ := Tbl.get (fun _ => {}) s.fq d
def State.setFq (s : State) (d : Nat) (q : FaultQ) : State := { s with fq := Tbl.set (fun _ => {}) s.fq d q }

/-- A message joins its queue of 16, is held, or is counted (R22, R371). -/
def FaultQ.push (q : FaultQ) (m : Msg) (sev cls : Nat) : FaultQ :=
  if q.msgs.length < 16 ∧ q.held = none then { q with msgs := q.msgs ++ [m] }
  else if q.held = none then { q with held := some m }
  else { q with
    lost := q.lost + 1
    lostWired := q.lostWired + bit (4 ≤ sev)
    hiSev := max q.hiSev sev
    hiCls := if q.hiSev ≤ sev then cls else q.hiCls }

/-- Post a fault message; an S4 or S5 source also drives the wired lines (R24, R370). -/
def State.post (s : State) (src inst kind cls sev datum : Nat) : State :=
  let d := domainOf src inst
  let s := s.setFq d ((s.fqOf d).push (msgOf src inst kind cls sev datum) sev cls)
  let s := s.when (4 ≤ sev) fun s => { s with wired := s.wired + 1 }
  s.wiredReact sev

/-- A CONFIG fault of kind 0xF0 to 0xF2 or under R31 and R510 (R533). -/
def postConfig (src inst kind sev a : Nat) (s : State) : State := s.post src inst kind clsCONFIG sev a

/-- The memory instance of 13_fault_collection.md R367. -/
def memInst (a : Nat) : Nat :=
  if inSram a then 0 else if inCst a then 1 else if inTrace a then 2
  else if inLocal a then 3 + (a - 0x4000000) / 0x20000 else if inRom a then 23 else 24

/-- SOURCE and INSTANCE of a fault about an address (R533). R533 gives the instance of the registers of a repetition; for an address past
the last repetition of a block the division goes on, modulo 256: the model's choice (notes/assumptions/116.md). -/
def srcAt (a : Nat) : Nat × Nat :=
  if a < 0x40000000 then (if inMram a then (srcNVC, 0) else (srcMEM, memInst a))
  else if a < 0x40010000 then (srcSYS, 0)
  else if a < 0x40020000 then (srcRST, 0)
  else if a < 0x40030000 then (srcCLK, if a < 0x40020040 then 0 else 1)
  else if a < 0x40040000 then (srcTB, if 0x40030100 ≤ a ∧ a < 0x40030500 then (a - 0x40030100) / 0x20 else 32)
  else if a < 0x40050000 then (srcFLT, 0xFF)
  else if a < 0x40060000 then (srcAGE, 0)
  else if a < 0x40070000 then (srcSEC, 0)
  else if a < 0x40080000 then (srcTHM, if THM_RES 0 ≤ a ∧ a < THM_RES 12 then (a - THM_RES 0) / 4 else 12)
  else if a < 0x40090000 then (srcPWR, 0)
  else if a < 0x40100000 then (srcNVC, 0)
  else if a < 0x40200000 then (srcLANE, (a - 0x40100000) / 0x1000)
  else if a < 0x40280000 then (srcCHAIN, (a - 0x40200000) / 0x1000)
  else if a < 0x40300000 then (srcCHAIN, (a - 0x40280000) / 0x800)
  else if a < 0x40400000 then (srcMOD, 0)
  else if a < 0x40410000 then (srcLOOP, 16)
  else if a < 0x40440000 then (srcENG, (a - 0x40410000) / 0x1000)
  else if a < 0x40460000 then (srcLOOP, (a - 0x40440000) / 0x1000)
  else if a < 0x40500000 then (srcLOOP, (a - 0x40460000) / 0x100)
  else if a < 0x40600000 then (srcPROT, 0)
  else if a < 0x40610000 then (srcANA, (a - 0x40600000) / 0x1000)
  else if a < 0x40700000 then (srcANA, 5)
  else if a < 0x40720000 then (srcETH, (a - 0x40700000) / 0x10000)
  else if a < 0x40800000 then (srcPTP, 0)
  else if a < 0x40900000 then (srcCAN, (a - 0x40800000) / 0x10000)
  else if a < 0x40A00000 then (srcSADL, 0)
  else if a < 0x40B00000 then (srcTRC, 0)
  else if a < 0x40C00000 then (srcSAFE, 0)
  else (srcHOST, 0)

/-- A write that would change a locked field is refused (00_scope.md R12). -/
def State.locked (s : State) (a : Nat) : State := s.post (srcAt a).1 (srcAt a).2 0xF0 clsCONFIG 1 a
/-- A write of a reserved value, or one a rule refuses under R12 for another reason than a lock. -/
def State.reserved (s : State) (a : Nat) : State := s.post (srcAt a).1 (srcAt a).2 0xF1 clsCONFIG 1 a
/-- An access that names nothing (R13). -/
def State.unmapped (s : State) (a : Nat) : State := s.post (srcAt a).1 (srcAt a).2 0xF2 clsCONFIG 0 a

/-- A write of `v` to an RWS field: refused in RUN when it would change the field (00_scope.md R10, R12), else the change `g`; a write
of the value the field holds changes nothing. -/
def State.rws (s : State) (f : Fld) (v src inst : Nat) (g : State → State) : State :=
  if s.rd f = v then s else if s.inRun then postConfig src inst 0xF0 1 f.addr s else g s

/-! ### MSI-X -/

/-- The endpoint may write to the host: the link is up and Bus Master Enable set (19_host_interface_and_trace.md R495, R496). -/
def State.master (s : State) : Bool := s.on HOST_LINK_BME && s.on HOST_LINK_UP

/-- A write to host memory leaves. -/
def State.hostPut (s : State) (a : Nat) (bs : List Byte) : State :=
  s.when s.master fun s => { s with host := { s.host with out := ((a, bs) :: s.host.out).take 16 } }

/-- The message of vector `v` (R499). -/
def State.msixPut (s : State) (v : Nat) : State :=
  s.hostPut (s.reg (HOST_MSIX_ADDR_LO v) + 2 ^ 32 * s.reg (HOST_MSIX_ADDR_HI v)) (toBytes 4 (s.reg (HOST_MSIX_DATA v)))

/-- Send MSI-X vector `v`: a masked vector, or one sent while Bus Master Enable is clear or the link down, stays pending in
the PBA (R496, R499). -/
def State.msix (s : State) (v : Nat) : State :=
  if s.on (HOST_MSIX_VCTL_MASK v) || !s.master then s.setBit HOST_MSIX_PBA_PEND v else s.msixPut v

end Sys2Proof.Machine
end

