-- ==== Sys2Proof/Machine/Crc.lean ====
section
/-! DEFINITION. Machine/Crc.lean: the check sums: CRC-8 of training sets (03_cell_lanes.md R69) and tokens (14_safety_island.md
R389), CRC-16 and CRC-32C of sections and headers (04_cell_link_protocol.md R98). -/
namespace Sys2Proof.Machine

/-- One bit of a left-shifting CRC of width `w` with polynomial `p`. -/
def crcStepL (w p c : Nat) : Nat :=
  if c / 2 ^ (w - 1) % 2 = 1 then Nat.xor (c * 2 % 2 ^ w) p else c * 2 % 2 ^ w

/-- `k` steps of a left-shifting CRC. -/
def crcStepsL (w p : Nat) : Nat → Nat → Nat
  | 0, c => c
  | k + 1, c => crcStepsL w p k (crcStepL w p c)

/-- A left-shifting CRC of width `w` over bytes, most significant bit first. -/
def crcL (w p : Nat) : Nat → List Byte → Nat
  | c, [] => c
  | c, b :: t => crcL w p (crcStepsL w p 8 (Nat.xor c (b.toNat * 2 ^ (w - 8)))) t

/-- `k` steps of a right-shifting CRC with reflected polynomial `p`. -/
def crcStepsR (p : Nat) : Nat → Nat → Nat
  | 0, c => c
  | k + 1, c => crcStepsR p k (if c % 2 = 1 then Nat.xor (c / 2) p else c / 2)

/-- A right-shifting CRC over bytes. -/
def crcR (p : Nat) : Nat → List Byte → Nat
  | c, [] => c
  | c, b :: t => crcR p (crcStepsR p 8 (Nat.xor c b.toNat)) t

/-- CRC-8, polynomial x^8 + x^2 + x + 1, initial value 0, most significant bit first: R69 gives no bit order (DESIGN CHOICE,
notes/assumptions/95.md). -/
def crc8 (bs : List Byte) : Nat := crcL 8 0x07 0 bs

/-- CRC-16, polynomial 0x1021, initial value 0xFFFF (R98). -/
def crc16 (bs : List Byte) : Nat := crcL 16 0x1021 0xFFFF bs

/-- CRC-32C (R98). -/
def crc32c (bs : List Byte) : Nat := Nat.xor (crcR 0x82F63B78 0xFFFFFFFF bs) 0xFFFFFFFF

end Sys2Proof.Machine
end

