-- ==== Sys2Proof/Machine/Line.lean ====
section
/-! DEFINITION. Machine/Line.lean: the two line codes of a lane (03_cell_lanes.md R68 to R71) and the blocks of a frame
(04_cell_link_protocol.md R84, R85). A code group is a number of ten bits, bit 9 (a) sent first. -/
namespace Sys2Proof.Machine

/-! ### 8b/10b (IEEE 802.3 Clause 36, R68). `false` is negative running disparity. -/

/-- Sub-block abcdei of D.0 to D.31 at negative running disparity. -/
def code6 : List Nat :=
  [0b100111, 0b011101, 0b101101, 0b110001, 0b110101, 0b101001, 0b011001, 0b111000,
   0b111001, 0b100101, 0b010101, 0b110100, 0b001101, 0b101100, 0b011100, 0b010111] ++
  [0b011011, 0b100011, 0b010011, 0b110010, 0b001011, 0b101010, 0b011010, 0b111010,
   0b110011, 0b100110, 0b010110, 0b110110, 0b001110, 0b101110, 0b011110, 0b101011]

/-- Sub-block fghj of D.x.0 to D.x.7 at negative running disparity. -/
def code4 : List Nat := [0b1011, 0b1001, 0b0101, 0b1100, 0b1101, 0b1010, 0b0110, 0b1110]

/-- Ones among the low `w` bits. -/
def onesOf (w v : Nat) : Nat := (List.range w).countP v.testBit

/-- Running disparity after a sub-block of `w` bits. -/
def rdAfter (w v : Nat) (rd : Bool) : Bool :=
  if w < 2 * onesOf w v then true
  else if 2 * onesOf w v < w then false
  else if v = 2 ^ (w / 2) - 1 then true
  else if v = 2 ^ w - 2 ^ (w / 2) then false
  else rd

/-- Running disparity after a code group. -/
def rdGroup (g : Nat) (rd : Bool) : Bool := rdAfter 4 (g % 16) (rdAfter 6 (g / 16) rd)

/-- A sub-block in the column of the running disparity: an unbalanced one, and one of equal runs, is complemented. -/
def column (w v : Nat) (runs rd : Bool) : Nat :=
  if rd && (runs || 2 * onesOf w v != w) then 2 ^ w - 1 - v else v

/-- The code group of a data byte. -/
def encode8 (rd : Bool) (b : Nat) : Nat :=
  let x := b % 32
  let y := b / 32 % 8
  let six := column 6 ((code6[x]?).getD 0) (x == 7) rd
  let rd' := rdAfter 6 six rd
  let alt := y == 7 && (if rd' then x == 11 || x == 13 || x == 14 else x == 17 || x == 18 || x == 20)
  let four := column 4 (if alt then 0b0111 else (code4[y]?).getD 0) (y == 3) rd'
  six * 16 + four

/-- K28.5. -/
def comma (rd : Bool) : Nat := if rd then 0b1100000101 else 0b0011111010

/-- The byte of a data code group, when the group is valid at this running disparity. -/
def decode10 (rd : Bool) (g : Nat) : Option Nat :=
  let six := g / 16
  let x := (List.range 32).find? fun x => column 6 ((code6[x]?).getD 0) (x == 7) rd == six
  x.bind fun x => ((List.range 8).map fun y => x + 32 * y).find? fun b => encode8 rd b == g

/-- The code groups of data bytes, and the running disparity after them. -/
def encodeBytes : Bool → List Byte → List (BitVec 10) × Bool
  | rd, [] => ([], rd)
  | rd, b :: t =>
    let g := encode8 rd b.toNat
    let r := encodeBytes (rdGroup g rd) t
    (BitVec.ofNat 10 g :: r.1, r.2)

/-- The code groups of an ordered set with symbols 1 to 15 (R69). -/
def encodeSet (rd : Bool) (set : List Byte) : List (BitVec 10) × Bool :=
  let r := encodeBytes (rdGroup (comma rd) rd) set
  (BitVec.ofNat 10 (comma rd) :: r.1, r.2)

/-- The bytes of valid data groups. -/
def decodeBytes : Bool → List (BitVec 10) → Option (List Byte)
  | _, [] => some []
  | rd, g :: t =>
    match decode10 rd g.toNat with
    | none => none
    | some b => (decodeBytes (rdGroup g.toNat rd) t).map fun l => BitVec.ofNat 8 b :: l

/-- The running disparity in which a receiver takes a set: the one it holds, else the one of the set's K28.5. -/
def setRd (rd : Option Bool) (gs : List (BitVec 10)) : Bool :=
  rd.getD ((gs.head?).map BitVec.toNat == some (comma true))

/-- Symbols 1 to 15 of an ordered set: K28.5 stands at symbol 0 and every group is valid, with no disparity error (R70). -/
def decodeSet (rd : Bool) (gs : List (BitVec 10)) : Option (List Byte) :=
  match gs with
  | k :: t => if k.toNat = comma rd then decodeBytes (rdGroup k.toNat rd) t else none
  | [] => none

/-- Running disparity after groups, valid or not. -/
def rdGroups (rd : Bool) (gs : List (BitVec 10)) : Bool := gs.foldl (fun r g => rdGroup g.toNat r) rd

/-! ### 64b/66b (R71): the scrambler x^58 + x^39 + 1, lowest bit first; bit 0 of the history is the newest -/

/-- Bits through the descrambler: history and output. -/
def descramble : Nat → Nat → Nat → Nat → Nat → Nat × Nat
  | 0, _, _, h, out => (h, out)
  | k + 1, p, w, h, out =>
    let i := p % 2
    let o := (i + h / 2 ^ 38 % 2 + h / 2 ^ 57 % 2) % 2
    descramble k (p / 2) (w * 2) ((h * 2 + i) % 2 ^ 58) (out + o * w)

/-- Bits through the scrambler: history and output. -/
def scramble : Nat → Nat → Nat → Nat → Nat → Nat × Nat
  | 0, _, _, h, out => (h, out)
  | k + 1, p, w, h, out =>
    let o := (p % 2 + h / 2 ^ 38 % 2 + h / 2 ^ 57 % 2) % 2
    scramble k (p / 2) (w * 2) ((h * 2 + o) % 2 ^ 58) (out + o * w)

/-- Blocks (sync header and plain payload) as they leave a transmitter whose scrambler holds `h`. -/
def sendBlocks : Nat → List (Nat × Nat) → List (BitVec 2 × BitVec 64) × Nat
  | h, [] => ([], h)
  | h, (y, p) :: t =>
    let r := scramble 64 p 1 h 0
    let q := sendBlocks r.1 t
    ((BitVec.ofNat 2 y, BitVec.ofNat 64 r.2) :: q.1, q.2)

/-- Payload of an IDLE block (R84). -/
def idlePayload : Nat := 0x1E

/-- The payloads of `k` blocks of a frame: byte b is payload byte b mod 8 of block b/8 (R85). -/
def payloads : Nat → List Byte → List Nat
  | 0, _ => []
  | k + 1, bs => ofBytes (bs.take 8) :: payloads k (bs.drop 8)

/-- First block of the header or of the slot that holds block `i` of a frame (02_control_cycle.md R44). -/
def partOf (i : Nat) : Nat := if i < 5 then 0 else 5 + (i - 5) / 11 * 11

/-- The end of a receive queue that holds blocks of an unfinished part goes (R86). -/
def dropPart (i : Nat) (q : List (Nat × BitVec 64)) : List (Nat × BitVec 64) :=
  (q.reverse.dropWhile fun w => decide (partOf i ≤ w.1 ∧ w.1 < i)).reverse

/-- Take `n` blocks of a frame from block `a` on out of a receive queue, with what stood before them: their bytes, when the first
of them is there; fewer bytes than blocks where words were lost. -/
def takePart (a n : Nat) (q : List (Nat × BitVec 64)) : Option (List Byte) × List (Nat × BitVec 64) :=
  let isIn := fun (w : Nat × BitVec 64) => decide (a ≤ w.1 ∧ w.1 < a + n)
  let r := q.dropWhile fun w => !isIn w
  if r = [] then (none, q)
  else (some ((r.takeWhile isIn).flatMap fun w => toBytes 8 w.2.toNat), r.dropWhile isIn)

end Sys2Proof.Machine
end

