-- ==== Sys2Proof/Machine/Links.lean ====
section
/-! DEFINITION. Machine/Links.lean: the lanes and the chains as shared operations (chapters 03 and 04): paths, liveness, the chain
states of R99, transit times, and what a lane does on entering each state of R73. -/
namespace Sys2Proof.Machine

/-! ### Topologies and paths (04_cell_link_protocol.md R88). Path 0 is the forward path, path 1 the reverse path. -/

def State.topo (s : State) (n : Nat) : Nat := s.rd (CHAIN_CFG_TOPO n)

/-- Chain and receive path that a cell lane serves. -/
def State.chainOfLane (s : State) (l : Nat) : Nat × Nat :=
  if 12 ≤ l ∧ s.topo (l - 12) = 1 then (l - 12, 0)
  else if s.topo l = 1 then (l, 1)
  else if s.topo l = 2 then (l, 1 - s.rd (CHAIN_CFG_SIDE l))
  else (l, 0)

/-- Receive paths of a chain at this device, with the lane of each. -/
def State.rxPaths (s : State) (n : Nat) : List (Nat × Nat) :=
  if s.topo n = 0 then [(0, n)]
  else if s.topo n = 1 then [(0, n + 12), (1, n)]
  else if s.topo n = 2 then [(1 - s.rd (CHAIN_CFG_SIDE n), n)]
  else []

/-- Transmit paths of a chain at this device, with the lane of each. -/
def State.txPaths (s : State) (n : Nat) : List (Nat × Nat) :=
  if s.topo n = 0 then [(0, n)]
  else if s.topo n = 1 then [(0, n), (1, n + 12)]
  else if s.topo n = 2 then [(s.rd (CHAIN_CFG_SIDE n), n)]
  else []

def CHAIN_MISS_P (n p : Nat) : Fld := ⟨CHAIN_MISS n, 8 * p, 8⟩
def CHAIN_LIVE_P (n p : Nat) : Fld := ⟨CHAIN_STAT n, 8 + p, 1⟩
def CELLCTL_TCORR_P (c p : Nat) : Fld := ⟨CELLCTL_TCORR0 c + 4 * p, 0, 24⟩
/-- TCORR sent to a cell on a path, in sixteenths, two's complement (R92). -/
def State.tcorrAt (s : State) (c p : Nat) : Int := toInt 24 (s.rd (CELLCTL_TCORR_P c p))
def CELLCTL_RESID_P (c p : Nat) : Fld := ⟨CELLCTL_RESID c, 16 * p, 16⟩
/-- Residence of a cell on a path: the one reported there, else the one of the other path (R101, notes/assumptions/86.md). -/
def State.residOf (s : State) (c p : Nat) : Nat :=
  let r := s.rd (CELLCTL_RESID_P c p)
  if r = 0 then s.rd (CELLCTL_RESID_P c (1 - p)) else r

/-- State of a lane's receive half (R73). -/
def State.laneSt (s : State) (l : Nat) : Nat := s.rd (LANE_STAT_STATE l)
/-- Whether a lane's transmit half is in BLOCK. -/
def State.txBlock (s : State) (l : Nat) : Bool := s.rd (LANE_STAT_TX_MODE l) == 2
/-- State of a chain (R99). -/
def State.chainSt (s : State) (n : Nat) : Nat := s.rd (CHAIN_STAT_STATE n)
/-- Whether a chain is in service (R35). -/
def State.inService (s : State) (n : Nat) : Bool := s.chainSt n == 4 || s.chainSt n == 5
/-- The cells of a chain. -/
def cellsOf (n : Nat) : List Nat := (List.range 8).map (8 * n + ·)
def State.cellEn (s : State) (c : Nat) : Bool := s.hasCell c && s.on (CELLCTL_CFG_EN c)
def State.cellLost (s : State) (c : Nat) : Bool := s.on (CELLCTL_STAT_LOST c)
/-- The timebase runs: its ADPLL is enabled (11_clocks_timebase_network_time.md R318). -/
def State.tbRuns (s : State) : Bool := s.on CLK_TB_CTL_EN
/-- An engine runs: its state is IDLE or TASK (06_modulation_and_pwm.md R176). -/
def State.engRuns (s : State) (e : Nat) : Bool := s.rd (ENG_STAT_STATE e) == 1 || s.rd (ENG_STAT_STATE e) == 2
/-- An Aster engine runs, which AGE, ETH and CAN need (01_architecture.md R19). -/
def State.asterRuns (s : State) : Bool := s.engRuns 16 || (!s.limp && (s.engRuns 17 || s.engRuns 18 || s.engRuns 19))
/-- The modulator runs: it needs the timebase and the DLL (01_architecture.md R19). -/
def State.modRuns (s : State) : Bool := s.on CLK_TB_STAT_LOCK && s.on CLK_TB_STAT_DLL_LOCK
/-- Ethernet and time run: they need the timebase and an Aster engine (01_architecture.md R19). -/
def State.ethRuns (s : State) : Bool := s.on CLK_TB_STAT_LOCK && s.asterRuns
/-- The device keeps no books: a pair member in LISTEN or STANDBY (12_redundant_pair.md R360). -/
def State.standby (s : State) : Bool := s.rd SADL_STAT_ROLE == 1 || s.rd SADL_STAT_ROLE == 2
/-- The device is a single device or ACTIVE. -/
def State.activeDev (s : State) : Bool := s.rd SADL_STAT_ROLE == 0 || s.rd SADL_STAT_ROLE == 3

/-- A LINK fault of a lane, and the interrupt source of R206. -/
def State.postLane (s : State) (l kind sev : Nat) : State := (s.post srcLANE l kind clsLINK sev l).irq 1
/-- A LINK fault of a chain. -/
def State.postChain (s : State) (n kind sev datum : Nat) : State := s.post srcCHAIN n kind clsLINK sev datum

/-! ### Transit (R100) -/

/-- Mean of a list, rounded down (notes/assumptions/8.md). -/
def meanN (l : List Nat) : Nat := l.sum / l.length

/-- Transit samples of a path. -/
def ChainH.tr (x : ChainH) (p : Nat) : List Nat := if p = 0 then x.tr0 else x.tr1
def ChainH.addTr (x : ChainH) (p t : Nat) : ChainH :=
  if p = 0 then { x with tr0 := (t :: x.tr0).take 16 } else { x with tr1 := (t :: x.tr1).take 16 }

/-- T_ring of a chain from the samples it holds, when it has any (R100, 12_redundant_pair.md R344). A counter-rotating ring without a
sample of its forward path takes the reverse path's mean (DESIGN CHOICE, notes/assumptions/102.md). -/
def State.ringT (s : State) (n : Nat) : Option Nat :=
  let x := s.chain n
  if s.topo n = 2 then
    let o := s.rd (CHAIN_CFG_SIDE n)
    if x.looped && !(x.tr o).isEmpty then some (meanN (x.tr o))
    else if (x.tr (1 - o)).isEmpty || !s.on (SADL_PTRANS_VALID n) then none
    else some (meanN (x.tr (1 - o)) + s.rd (SADL_PTRANS_T n))
  else if !x.tr0.isEmpty then some (meanN x.tr0)
  else if !x.tr1.isEmpty then some (meanN x.tr1)
  else none

/-- Transit of a path the device sends on (R101): the mean as it stands at the departure (DESIGN CHOICE, notes/assumptions/102.md). -/
def State.pathT (s : State) (n p : Nat) : Option Nat :=
  let x := s.chain n
  if s.topo n = 2 then (if s.on (SADL_PTRANS_VALID n) then some (s.rd (SADL_PTRANS_T n)) else none)
  else if !(x.tr p).isEmpty then some (meanN (x.tr p)) else none

/-- TRING follows the samples (R100). -/
def State.setRing (s : State) (n : Nat) : State :=
  match s.ringT n with
  | none => s
  | some t => (s.wr (CHAIN_TRING_TRING n) (satN 24 t)).set1 (CHAIN_TRING_VALID n)

/-! ### Chain states (R99) -/

/-- A receive path is live: its lane in SERVICE or SLIP_SEARCH, and fewer than LOSS_FR headers missed (R99). -/
def State.pathLive (s : State) (n : Nat) (q : Nat × Nat) : Bool :=
  (s.laneSt q.2 == 4 || s.laneSt q.2 == 5) && decide (s.rd (CHAIN_MISS_P n q.1) < s.rd (CHAIN_CFG_LOSS_FR n))

def State.anyLive (s : State) (n : Nat) : Bool := (s.rxPaths n).any (s.pathLive n)
def State.allLive (s : State) (n : Nat) : Bool := (s.rxPaths n).all (s.pathLive n)

/-- Enter a chain state; every change is an event of R206, and losing the last chain in service is R38. -/
def State.setChainSt (s : State) (n st : Nat) : State :=
  let was := s.inService n
  let s := (s.wr (CHAIN_STAT_STATE n) st).irq 2
  s.when (was && !((List.range 24).any s.inService)) fun s => s.powerLost

/-- Close the books of a chain's cells; CREDIT reads 0 (R105, R360). -/
def State.closeBooks (s : State) (n : Nat) : State :=
  s.forEach (cellsOf n) fun s c =>
    (s.setCell c { s.cell c with opened := false, rpts := 0 }).setReg (CELLCTL_CREDIT c) 0

/-- Enter OFF. -/
def State.chainOff (s : State) (n : Nat) : State :=
  let s := s.setChainSt n 0
  let s := s.setReg (CHAIN_MISS n) 0
  let s := s.wr ⟨CHAIN_STAT n, 8, 2⟩ 0
  s.closeBooks n

/-- Enter WAIT: TCORR falls to 0 at once (R102). -/
def State.chainWait (s : State) (n : Nat) : State :=
  let s := s.setChainSt n 1
  let s := s.closeBooks n
  let s := s.forEach (cellsOf n) fun s c => (s.clr (CELLCTL_TCORR0_TCORR c)).clr (CELLCTL_TCORR1_TCORR c)
  s.setChain n { s.chain n with topoPosted := false }

/-- Whether the chain's topology equals PARTNER.TOPO of its lanes, and a paired ring has its pair (R114,
12_redundant_pair.md R342). -/
def State.topoOk (s : State) (n : Nat) : Bool :=
  ((s.rxPaths n ++ s.txPaths n).all fun q => s.rd (LANE_PARTNER_TOPO q.2) == s.topo n) &&
    (s.topo n != 2 || s.on SADL_CFG_EN)

/-- HOPS of the chain: from the training sets of a live receive path, else from its headers (R99, R91). -/
def State.hopsOf (s : State) (n : Nat) : Nat :=
  match ((s.rxPaths n).filter (s.pathLive n)).map (fun q => s.rd (LANE_STAT_HOPS q.2)) |>.filter (· != 0) with
  | h :: _ => h
  | [] => (s.chain n).hdrHops

/-- Enter MEASURE (R99): a new link generation, LOST cleared, cells beyond HOPS marked LOST. -/
def State.chainMeasure (s : State) (n : Nat) : State :=
  let s := s.setChainSt n 2
  let s := s.wr (CHAIN_STAT_LINKGEN n) (s.rd (CHAIN_STAT_LINKGEN n) + 1)
  let s := s.wr (CHAIN_STAT_HOPS n) (s.hopsOf n)
  let s := s.setChain n { s.chain n with tr0 := [], tr1 := [], genFrame := s.frame + 1 }
  let s := s.closeBooks n
  s.forEach (cellsOf n) fun s c =>
    let s := s.setCell c { s.cell c with reopen := none, reopened := none, out := [], resend := [], ackDup := [] }
    let s := s.when (s.rd (PROT_PARC_RSTAT_STATE c) == 2) fun s => s.setPc c { s.pc c with newGen := true }
    let s := s.clr (CELLCTL_STAT_LOST c)
    s.when (s.cellEn c && decide (s.rd (CHAIN_STAT_HOPS n) ≤ c % 8)) fun s =>
      (s.set1 (CELLCTL_STAT_LOST c)).postChain n 2 1 c

/-- Enter LOST (R113): every enabled cell marked LOST with MODE_REQ its LOSS_MODE, LINK S2. -/
def State.chainLost (s : State) (n : Nat) : State :=
  let s := s.forEach (cellsOf n) fun s c => s.when (s.cellEn c) fun s =>
    (s.set1 (CELLCTL_STAT_LOST c)).wr (CELLCTL_CFG_MODE_REQ c) (1 + s.rd (CELLCTL_CFG_LOSS_MODE c))
  let s := s.closeBooks n
  (s.setChainSt n 6).postChain n 4 2 n

/-- Every enabled cell that is not LOST reports TSYNC and has open books, or the device keeps none (R99, R360). -/
def State.syncDone (s : State) (n : Nat) : Bool :=
  (cellsOf n).all fun c => !s.cellEn c || s.cellLost c ||
    (s.on (CELLCTL_STAT_TSYNC c) && ((s.cell c).opened || s.standby))

/-- The path whose headers serve T_ring: the forward path, which is the only one that can be missing in a counter-rotating ring with
one live path; the reverse path serves there (DESIGN CHOICE, notes/assumptions/102.md). In a paired ring, the path of the frames
that return here, else the partner's (R100, 12_redundant_pair.md R344). -/
def State.ringPath (s : State) (n : Nat) : Nat :=
  let o := s.rd (CHAIN_CFG_SIDE n)
  if s.topo n = 2 then (if (s.chain n).looped && !((s.chain n).tr o).isEmpty then o else 1 - o)
  else if s.topo n = 1 ∧ s.rd (CHAIN_LIVE_P n 0) = 0 then 1
  else 0

/-- MEASURE is done: 16 headers of the path of T_ring and 4 reports of each enabled cell that is not LOST, with a value for T_ring
(R99, R100). -/
def State.measured (s : State) (n : Nat) : Bool :=
  decide (16 ≤ ((s.chain n).tr (s.ringPath n)).length) && (s.ringT n).isSome &&
    (cellsOf n).all fun c => !s.cellEn c || s.cellLost c || decide (4 ≤ (s.cell c).rpts)

/-- From MEASURE and SYNC onwards (R99). -/
def State.chainProgress (s : State) (n : Nat) : State :=
  let s := s.when (s.chainSt n == 2 && s.measured n) fun s => (s.setRing n).setChainSt n 3
  s.when (s.chainSt n == 3 && s.syncDone n) fun s => s.setChainSt n 4

/-- WAIT: post a topology fault once, or enter MEASURE when the receive paths are live (R99, R114). -/
def State.chainTryWait (s : State) (n : Nat) : State :=
  s.when (s.chainSt n == 1) fun s =>
    if s.topoOk n then s.when (if s.topo n = 1 then s.anyLive n else s.allLive n) fun s => s.chainMeasure n
    else s.when (!(s.chain n).topoPosted) fun s =>
      (s.post srcCHAIN n 6 clsCONFIG 1 n).setChain n { s.chain n with topoPosted := true }

/-- Follow the liveness of the receive paths (R99). -/
def State.chainEval (s : State) (n : Nat) : State :=
  s.when (s.chainSt n != 0) fun s =>
    let s := s.forEach (s.rxPaths n) fun s q => s.wr (CHAIN_LIVE_P n q.1) (bit (s.pathLive n q))
    let any := s.anyLive n
    let all := s.allLive n
    let st := s.chainSt n
    let s :=
      if (st == 2 || st == 3) && !any then s.chainWait n
      else if (st == 4 || st == 5) && !any then s.chainLost n
      else if st == 4 && !all then (s.setChainSt n 5).postChain n 3 1 n
      else if st == 5 && all then s.setChainSt n 4
      else if st == 6 && any then s.chainWait n
      else s
    s.chainTryWait n

/-- The chain served by a lane follows a change of the lane (R99). -/
def State.laneMoved (s : State) (l : Nat) : State :=
  s.when (decide (l < 24)) fun s => s.chainEval (s.chainOfLane l).1

/-! ### Lane states (03_cell_lanes.md R73) -/

/-- End an eye-scan run early (R82): ES_BITS and ES_ERR hold the counts reached. The bits compared follow from the nanoseconds of the
run at 6.25 bits each, the disagreements among them are free (DESIGN CHOICE, notes/assumptions/101.md). -/
def State.esAbort (s : State) (l : Nat) : State :=
  s.when (s.on (LANE_ES_STAT_BUSY l)) fun s =>
    let s := (s.clr (LANE_ES_STAT_BUSY l)).set1 (LANE_ES_STAT_ABORTED l)
    let bits := min ((s.ns - (s.lane l).esAt) * 25 / 4) (2 ^ (s.rd (LANE_ES_CTL_DWELL l) + 10))
    let s := s.wr (LANE_ES_BITS_KBITS l) (bits / 1024)
    (s.wr (LANE_ES_ERR_ERR l) (min (s.freeNat 32) bits)).drawn

/-- Enter a lane state; BLK_LOCK is held in SERVICE. -/
def State.setLaneSt (s : State) (l st : Nat) : State :=
  (s.wr (LANE_STAT_STATE l) st).wr (LANE_STAT_BLK_LOCK l) (bit (st == 4))

/-- The halves are bound: in topologies 1 and 2 until the transmit half reaches BLOCK, in the others always (R72). -/
def State.laneBound (s : State) (l : Nat) : Bool :=
  !(s.txBlock l && (s.rd (LANE_PARTNER_TOPO l) == 1 || s.rd (LANE_PARTNER_TOPO l) == 2))

/-- The transmit half while it is bound (R72). -/
def State.boundTx (s : State) (l mode : Nat) : State := s.when (s.laneBound l) fun s => s.wr (LANE_STAT_TX_MODE l) mode

/-! ### What a transmit half sends while it trains (R68, R69) -/

/-- Symbols 1 to 15 of a set that lane `l` sends: its type and countdown. -/
def State.setOf (s : State) (l ty cnt : Nat) : List Byte :=
  let body := toBytes 1 ty ++ toBytes 2 (s.rd SYS_DEV_ID_DEVID) ++ toBytes 1 (l + 32 * s.rd (LANE_PARTNER_TOPO l)) ++ toBytes 1 0 ++
    toBytes 1 (s.rd (LANE_STAT_ATTEMPT l)) ++ toBytes 1 cnt ++ List.replicate 7 0
  body ++ toBytes 1 (crc8 body)

/-- The sets of COMMA: TSA, and TSB once 8 consecutive matching sets have been accepted (R69, R73). -/
def State.trainSet (s : State) (l : Nat) : List Byte := s.setOf l (if (s.lane l).runMatch = 8 then 0x4B else 0x4A) 0

/-- The output of a transmit half in COMMA or in electrical idle. The running disparity in which a new set begins follows from the
number of sets sent before it, which nothing states: it is free (notes/assumptions/96.md). -/
def State.laneShow (s : State) (l : Nat) : State :=
  let m := s.rd (LANE_STAT_TX_MODE l)
  if m = 0 then s.setLane l { s.lane l with txSet := [], txGrp := [], txBlk := [], txAt := none }
  else if m = 1 ∧ (s.lane l).txSet ≠ s.trainSet l then
    (s.setLane l { s.lane l with txSet := s.trainSet l, txGrp := (encodeSet (s.freeNat 1 == 1) (s.trainSet l)).1
                                 txBlk := [], txAt := none }).drawn
  else s

/-- The code groups of a handover: `k` fillers, then HOS sets of COUNTDOWN 15 to 0 (R75). -/
def State.hosGroups (s : State) (l k : Nat) (rd : Bool) : List (BitVec 10) :=
  let fill := encodeBytes rd (List.replicate k 0xC5)
  (((List.range 16).map fun i => s.setOf l 0x4C (15 - i)).foldl (fun (r : List (BitVec 10) × Bool) set =>
    let q := encodeSet r.2 set
    (r.1 ++ q.1, q.2)) fill).1

/-- Enter DOWN (R73). -/
def State.laneDown (s : State) (l : Nat) : State :=
  let s := s.esAbort l
  let s := s.setLaneSt l 0
  let s := s.wr (LANE_STAT_TX_MODE l) 0
  let s := s.clr (LANE_STAT_CDR_LOCK l)
  let s := s.setLane l { s.lane l with runOk := 0, runMatch := 0, runTsb := 0, idle := false, rxHos := false, rxGood := 0, hist := []
                                       rxq := [], rxRd := none, rearmFired := false }
  (s.laneShow l).laneMoved l

/-- Enter TRAIN_COMMA: the CTLE setting takes effect (R66), HOP_LIM clears (R83). -/
def State.laneComma (s : State) (l : Nat) : State :=
  let s := (s.setLaneSt l 1).clr (LANE_STAT_HOP_LIM l)
  s.wr (LANE_STAT_CTLE_ACT l) (s.rd (LANE_RXCFG_CTLE l))

/-- Start an attempt in TRAIN_COMMA (R73, R78). -/
def State.laneTrain (s : State) (l attempt : Nat) : State :=
  let s := s.laneComma l
  let s := s.wr (LANE_STAT_ATTEMPT l) attempt
  let s := s.boundTx l 1
  let s := s.setLane l { s.lane l with runOk := 0, runMatch := 0, runTsb := 0, idPosted := false, idle := false
                                       rxHos := false, rxGood := 0, rxRd := none, rearmFired := false }
  s.laneShow l

/-- Leave DOWN when CTL.EN is set, outside limp mode, with the profile known and the lane blocks powered (R73,
01_architecture.md R32). -/
def State.laneTry (s : State) (l : Nat) : State :=
  s.when (s.on (LANE_CTL_EN l) && s.laneSt l == 0 && !s.limp && s.profile != 0 && s.dev != 5) fun s => s.laneTrain l 0

/-- Every enabled lane leaves DOWN as soon as it may (R73). -/
def State.lanesTry (s : State) : State := s.forEach (List.range 28) fun s l => s.laneTry l

/-- The transmit half of bound halves is in the mode of the receive half's state: a write of PARTNER.TOPO can bind them (R72, R73). -/
def State.laneFollow (s : State) (l : Nat) : State :=
  let st := s.laneSt l
  let s := if st = 0 ∨ st = 6 ∨ st = 7 ∨ (st = 1 ∧ (s.lane l).idle) then s.boundTx l 0
    else if st = 1 ∨ st = 2 then s.boundTx l 1
    else s
  s.laneShow l

/-- Enter RECOVER (R73). -/
def State.laneRecover (s : State) (l : Nat) : State :=
  let s := s.esAbort l
  let s := s.setLaneSt l 6
  let s := s.bump (LANE_LOCKCNT_RECOVERS l)
  let s := (s.boundTx l 0).laneShow l
  s.laneMoved l

/-- Enter FAILED (R78). -/
def State.laneFail (s : State) (l : Nat) : State :=
  let s := s.setLaneSt l 7
  let s := (s.boundTx l 0).laneShow l
  let s := s.setLane l { s.lane l with rearmFired := false, rearmTime := s.ns, idle := false }
  s.laneMoved l

/-- A failed attempt (R78). -/
def State.laneAttemptFailed (s : State) (l : Nat) : State :=
  if s.rd (LANE_STAT_ATTEMPT l) = 7 then (s.laneFail l).postLane l 5 2
  else
    let s := ((s.laneComma l).boundTx l 0).laneShow l
    s.setLane l { s.lane l with idle := true, rxHos := false, rxGood := 0, rxRd := none }

/-- Enter SLIP_SEARCH (R77). GOOD clears with WIN_DONE, and BAD keeps the count of the last window: the spec states only what the end
of a window writes (DESIGN CHOICE, notes/assumptions/97.md). -/
def State.laneSlipSearch (s : State) (l : Nat) : State :=
  let s := s.setLaneSt l 5
  let s := ((s.clr (LANE_SLIP_STAT_WIN_DONE l)).clr (LANE_SLIP_STAT_SLIPS l)).clr (LANE_SLIP_STAT_GOOD l)
  let s := s.setLane l { s.lane l with winBlk := 0, winBad := 0, idle := false }
  s.laneMoved l

/-- Enter SERVICE (R75, R77). -/
def State.laneService (s : State) (l : Nat) : State :=
  let s := s.setLaneSt l 4
  let s := s.setLane l { s.lane l with hist := [], rxCtl := false, rxIn := false, rxPos := 95
                                       rxq := if (s.lane l).rxIn then dropPart (s.lane l).rxPos (s.lane l).rxq else (s.lane l).rxq }
  s.laneMoved l

/-- A search that fails, or times out: RECOVER and LINK S1 (R77). -/
def State.laneSlipFail (s : State) (l : Nat) : State := (s.laneRecover l).postLane l 4 1

/-- The CDR loses lock (R73, R76, R82). -/
def State.laneCdrLost (s : State) (l : Nat) : State :=
  let s := s.clr (LANE_STAT_CDR_LOCK l)
  let s := s.esAbort l
  match s.laneSt l with
  | 1 => s.setLane l { s.lane l with runOk := 0, rxRd := none }
  | 2 => ((s.laneComma l).setLane l { s.lane l with runOk := 0, runMatch := 0, runTsb := 0, rxRd := none }).laneShow l
  | 3 => s.laneAttemptFailed l
  | 4 => (s.laneRecover l).postLane l 1 1
  | 5 => (s.laneRecover l).postLane l 1 1
  | _ => s

/-- The transmit half completes its handover: after fillers, in a number that its alignment to the block grid needs and that is free
here, and 16 HOS sets, block 0 starts at H (R72, R75). -/
def State.laneTxHandover (s : State) (l : Nat) : State :=
  let gs := s.hosGroups l (s.freeNat 6 % 33) (s.freeAt 1 1 == 1)
  let s := (s.setLane l { s.lane l with txSet := s.setOf l 0x4C 0, txGrp := gs, txBlk := [], txAt := none }).drawnN 2
  let s := s.wr (LANE_STAT_TX_MODE l) 2
  s.when (s.laneSt l == 2) fun s => s.setLaneSt l 3

/-- SERVICE when both halves have completed (R75). -/
def State.laneTryService (s : State) (l : Nat) : State :=
  s.when (s.laneSt l == 3 && s.txBlock l && decide (64 ≤ (s.lane l).rxGood)) fun s => s.laneService l

end Sys2Proof.Machine
end

