-- ==== Sys2Proof/Machine/Books.lean ====
section
/-! DEFINITION. Machine/Books.lean: the credit books of the edge and mailbox queues (04_cell_link_protocol.md R104 to R107,
12_redundant_pair.md R360) and the fields of a report section (R95). -/
namespace Sys2Proof.Machine

/-! ### Report sections -/

/-- `k` bytes from byte `i` of a section, as a little-endian number. -/
def fieldAt (bs : List Byte) (i k : Nat) : Nat := ofBytes ((bs.drop i).take k)

/-- Whether the SCRC of a section passes (R98). -/
def scrcOk (bs : List Byte) : Bool := crc16 (bs.take 86) == fieldAt bs 86 2

/-- The latest frame, not later than `fr`, whose number has the low `w` bits `x` (R96). -/
def latestFrame (w fr x : Nat) : Nat := fr - subMod w fr x

/-! ### History -/

/-- S and the mailbox S at the end of frame `fr` enter the history of 16 frames (R104). -/
def CellH.histPut (x : CellH) (fr s mb : Nat) : CellH :=
  { x with hist := ((fr, s, mb) :: x.hist.filter (fun e => e.1 != fr)).take 16 }

/-- The history entry of frame `fr`, seen in frame `now`: the counts as they stood after the last departure up to `fr`, when `fr` is
one of the last 16 frames. -/
def CellH.histAt (x : CellH) (now fr : Nat) : Option (Nat × Nat) :=
  if now ≤ fr + 16 then (x.hist.find? (fun e => decide (e.1 ≤ fr))).map (·.2) else none

/-- Open the books at given counts (R105, R360): S, E, credits, mailbox S, E, credits. -/
def State.openBooks (s : State) (c sE e cr mbS mbE mbCr : Nat) : State :=
  let s := s.wr (CELLCTL_CREDIT_CR c) cr
  let s := s.wr (CELLCTL_CREDIT_MBCR c) mbCr
  let s := s.wr (CELLCTL_CREDIT_SENT c) sE
  let s := s.wr (CELLCTL_CREDIT_EXEC c) e
  let s := s.clr (CELLCTL_STAT_HOLD_AUDIT c)
  s.setCell c { s.cell c with opened := true, mbS := mbS, mbE := mbE, reopen := none
                              hist := (List.range 16).map fun i => (s.frame - i, sE, mbS) }

/-- A failed audit (R104): MISMATCH, the audit hold and LINK S2. -/
def State.auditFail (s : State) (c : Nat) : State :=
  let s := s.bump (CHAIN_AUDIT_MISMATCH (c / 8))
  let s := s.set1 (CELLCTL_STAT_HOLD_AUDIT c)
  s.postChain (c / 8) 5 2 c

/-- The device keeps open books of the cell and holds no audit against it. -/
def State.booksOn (s : State) (c : Nat) : Bool :=
  (s.cell c).opened && !s.on (CELLCTL_STAT_HOLD_AUDIT c) && !s.standby

/-- Credit return of the edge books from EXEC_CNT, as a signed 8-bit difference (R104). -/
def State.edgeReturn (s : State) (c exec : Nat) : State :=
  let e := s.rd (CELLCTL_CREDIT_EXEC c)
  let d := toInt 8 (subMod 8 exec e)
  if d > (subMod 8 (s.rd (CELLCTL_CREDIT_SENT c)) e : Nat) then s.auditFail c
  else if 0 < d then
    (s.wr (CELLCTL_CREDIT_CR c) (s.rd (CELLCTL_CREDIT_CR c) + d.toNat)).wr (CELLCTL_CREDIT_EXEC c) exec
  else s

/-- Credit return of the mailbox books from MB_DONE, as a signed 5-bit difference (R107). -/
def State.mbReturn (s : State) (c done : Nat) : State :=
  let x := s.cell c
  let d := toInt 5 (subMod 5 done x.mbE)
  if d > (subMod 5 x.mbS x.mbE : Nat) then s.auditFail c
  else if 0 < d then
    (s.wr (CELLCTL_CREDIT_MBCR c) (s.rd (CELLCTL_CREDIT_MBCR c) + d.toNat)).setCell c { x with mbE := done }
  else s

/-- What a report with good SCRC does to the books of cell `c` (R104, R105, R107, 12_redundant_pair.md R360). `fr` is the frame in
which its check completes. -/
def State.reportBooks (s : State) (c fr : Nat) (bs : List Byte) : State :=
  let x := s.cell c
  let exec := fieldAt bs 1 1
  let occ := fieldAt bs 4 1 % 32
  let mbOcc := fieldAt bs 4 1 / 32
  let done := fieldAt bs 6 1 / 8
  let cmd := latestFrame 8 fr (fieldAt bs 7 1)
  if s.standby then s
  else match x.reopen with
  | some r =>
    s.when (decide (r ≤ cmd)) fun s =>
      let s := s.openBooks c ((exec + occ) % 256) exec (16 - occ) ((done + mbOcc) % 32) done (4 - mbOcc)
      s.setCell c { s.cell c with reopened := some fr }
  | none =>
    if x.opened then
      s.when (s.booksOn c) fun s => (s.edgeReturn c exec).when (s.booksOn c) fun s => s.mbReturn c done
    else
      s.when (decide ((s.chain (c / 8)).genFrame ≤ cmd) && occ == 0 && mbOcc == 0 && exec == 0 && done == 0 &&
          (s.chainSt (c / 8) == 3 || s.inService (c / 8))) fun s => s.openBooks c 0 0 16 0 0 4

/-- The audit at a swap that commits a fresh report received in frame `fr` (R104, R107). One SKIPPED counts a report whose CMD_FR lies
outside the history, for both books together (DESIGN CHOICE, notes/assumptions/103.md). -/
def State.audit (s : State) (c fr : Nat) (bs : List Byte) : State :=
  let x := s.cell c
  if !s.booksOn c || x.reopened == some fr then s
  else match x.histAt s.frame (latestFrame 8 fr (fieldAt bs 7 1)) with
  | none => s.bump (CHAIN_AUDIT_SKIPPED (c / 8))
  | some (se, mb) =>
    if subMod 8 se (fieldAt bs 1 1) ≠ fieldAt bs 4 1 % 32 then s.auditFail c
    else if subMod 5 mb (fieldAt bs 6 1 / 8) ≠ fieldAt bs 4 1 / 32 then s.auditFail c
    else s

end Sys2Proof.Machine
end

