-- ==== Sys2Proof/Machine/Trace.lean ====
section
/-! DEFINITION. Machine/Trace.lean: trace probes, capture and streaming (19_host_interface_and_trace.md R501 to R504). -/
namespace Sys2Proof.Machine

/-- Records that trace memory holds (R502, 01_architecture.md R31). -/
def State.trcCap (s : State) : Nat := if s.profile = 2 then 524288 else 131072

/-- A probe's record enters the record queue of 64, or is dropped (R501). -/
def State.makeRec (s : State) (p src eng : Nat) (w2 w3 : Nat) : State :=
  let x := s.trc
  let w1 := p + src * 64 + eng * 256 + x.seq % 65536 * 65536
  let x := { x with seq := (x.seq + 1) % 65536 }
  if x.q.length < 64 then
    { s with trc := { x with q := x.q ++ [(BitVec.ofNat 32 s.stampNs, BitVec.ofNat 32 w1, BitVec.ofNat 32 w2, BitVec.ofNat 32 w3)]
                             dropRun := false } }
  else
    let s := { s with trc := { x with dropRun := true } }.bump TRC_CNT_DROP
    s.when (!x.dropRun) fun s => s.post srcTRC 0 1 clsTIMING 0 p

/-- Probes with EN set whose SRC is `src` and which satisfy `c`, in ascending order, make a record each (R501). -/
def State.probes (s : State) (src : Nat) (c : Nat → Bool) (w2 : Nat → Nat) (w3 : Nat) : State :=
  s.forEach (List.range 64) fun s p =>
    s.when (s.on (TRC_PROBE_EN p) && s.rd (TRC_PROBE_SRC p) == src && c p) fun s => s.makeRec p src 0 (w2 p) w3

/-- A capture ends: DONE, vector 5 and Aster source 13 (R502). -/
def State.trcDone (s : State) : State :=
  (((s.wr TRC_STAT_STATE 3).set1 TRC_STAT_DONE).msix 5).irq 13

/-- A trigger (R502): taken while armed, not yet triggered and after PRE records, with vector 5 (R499); any other is counted in
IGN. -/
def State.trcTrigger (s : State) : State :=
  if s.rd TRC_CTL_MODE = 3 then s
  else if s.rd TRC_STAT_STATE = 1 ∧ s.rd TRC_PRE_N ≤ s.trc.written then
    let s := s.wr TRC_STAT_STATE 2
    let s := (s.wr TRC_TRIG_IDX_IDX (s.rd TRC_WPTR_IDX)).set1 TRC_TRIG_IDX_VALID
    let s := { s with trc := { s.trc with left := s.rd TRC_POST_N } }
    let s := s.msix 5
    s.when (s.rd TRC_POST_N == 0) fun s => s.trcDone
  else s.bump TRC_CNT_IGN

/-- A fault entered at `sev` in class `k`; an event of TT `t`; a rise of the trip line of CMP `c` (R502). -/
def State.trcFault (s : State) (sev k : Nat) : State :=
  s.when (s.rd TRC_TRIG_SRC == 1 && decide (s.rd TRC_TRIG_MINSEV ≤ sev) && s.bitAt TRC_TRIG_CLASSES k) fun s => s.trcTrigger
def State.trcTt (s : State) (t : Nat) : State :=
  s.when (s.rd TRC_TRIG_SRC == 2 && s.rd TRC_TRIG_SEL == t) fun s => s.trcTrigger
def State.trcCmp (s : State) (c : Nat) : State :=
  s.when (s.rd TRC_TRIG_SRC == 3 && s.rd TRC_TRIG_SEL == c) fun s => s.trcTrigger

/-! ### Capture -/

/-- A record's 16 B (R501). -/
def recBytes (r : Word × Word × Word × Word) : List Byte :=
  toBytes 4 r.1.toNat ++ toBytes 4 r.2.1.toNat ++ toBytes 4 r.2.2.1.toNat ++ toBytes 4 r.2.2.2.toNat

/-- Write a record to trace memory at WPTR. -/
def State.trcStore (s : State) (r : Word × Word × Word × Word) : State :=
  let i := s.rd TRC_WPTR_IDX
  let a := 0x1000000 + 16 * i
  let s := s.putMem a (recBytes r)
  let n := i + 1
  let s := if n = s.trcCap then (s.wr TRC_WPTR_IDX 0).set1 TRC_STAT_WRAP else s.wr TRC_WPTR_IDX n
  { s with trc := { s.trc with written := s.trc.written + 1 } }

/-- A record in ONE-SHOT or RING (R502). -/
def State.trcCapture (s : State) (r : Word × Word × Word × Word) : State :=
  let st := s.rd TRC_STAT_STATE
  if st = 1 ∨ st = 2 then
    let s := s.trcStore r
    if st = 2 then
      let s := { s with trc := { s.trc with left := s.trc.left - 1 } }
      if s.trc.left = 0 ∨ (s.rd TRC_CTL_MODE = 1 ∧ s.trc.written = s.trcCap) then s.trcDone else s
    else s.when (s.rd TRC_CTL_MODE == 1 && s.trc.written == s.trcCap) fun s => s.trcDone
  else s

/-! ### Streaming -/

/-- The total of bytes written goes to STR_WPTR (R503). -/
def State.streamProgress (s : State) : State :=
  s.hostPut (8 * s.rd TRC_STR_WPTR_LO_ADDR + 2 ^ 32 * s.rd TRC_STR_WPTR_HI_ADDR) (toBytes 8 s.trc.bytes)

/-- Records go to record `k` on of the page in the buffer (R503). -/
def State.streamOut (s : State) (k : Nat) (bs : List Byte) : State :=
  let base := 4096 * s.rd TRC_STR_BASE_LO_ADDR + 2 ^ 32 * s.rd TRC_STR_BASE_HI_ADDR
  let s := s.hostPut (base + 4096 * (s.trc.pg % s.rd TRC_STR_PAGES_N) + 16 * k) bs
  { s with trc := { s.trc with page := some (k + bs.length / 16), bytes := (s.trc.bytes + bs.length) % 2 ^ 64 } }

/-- The page is complete: STR_DONE, and the progress goes to the host (R503). -/
def State.pageDone (s : State) : State :=
  let s := { s with trc := { s.trc with page := none, pg := (s.trc.pg + 1) % s.rd TRC_STR_PAGES_N } }
  (s.bump TRC_STR_DONE_N).streamProgress

/-- A record takes its place in the open page, opening one with a credit when none is open (R503). -/
def State.streamPut (s : State) (r : Word × Word × Word × Word) : State :=
  match s.trc.page with
  | some k => (s.streamOut k (recBytes r)).when (k + 1 == 256) fun s => s.pageDone
  | none =>
    if s.rd TRC_STR_HELD_N = 0 then
      let s := s.bump TRC_STR_DROP_N
      s.when (!s.trc.dropPosted) fun s =>
        { s with trc := { s.trc with dropPosted := true } }.post srcTRC 0 2 clsLINK 0 0
    else
      let h := s.rd TRC_STR_HELD_N - 1
      let s := (s.wr TRC_STR_HELD_N h).streamOut 0 (recBytes r)
      s.when (h == s.rd TRC_STR_LOW_N) fun s => s.msix 5

/-- The rate bucket of 4 KiB, filled at STR_RATE MB/s (R503): whether 16 B fit, and the state after. -/
def State.rateTake (s : State) : Bool × State :=
  let x := s.trc
  let lvl := min 4096000 (x.bucket + s.rd TRC_STR_RATE_MBPS * (s.ns - x.fillNs))
  if 16000 ≤ lvl then (true, { s with trc := { x with bucket := lvl - 16000, fillNs := s.ns } })
  else (false, { s with trc := { x with bucket := lvl, fillNs := s.ns } })

/-- A record in STREAM: kept only for probes with STREAM set, within the rate, while the outbound path takes it (R502, R503). -/
def State.trcStream (s : State) (r : Word × Word × Word × Word) (full : Bool) : State :=
  if !s.on (TRC_PROBE_STREAM (r.2.1.toNat % 64)) || s.rd TRC_STAT_STATE == 3 then s
  else
    let t := s.rateTake
    if !t.1 then t.2.bump TRC_STR_STAT_RDROP
    else if full || !s.master then t.2.bump TRC_STR_STAT_QDROP
    else t.2.streamPut r

/-- The queue passes one record. `full`: the outbound PCIe queue has no room for it (01_architecture.md R22). -/
def execRecordDrain (full : Bool) (s : State) : Out :=
  match s.trc.q with
  | [] => .next s
  | r :: t =>
    let s := { s with trc := { s.trc with q := t } }
    let m := s.rd TRC_CTL_MODE
    .next (if m = 0 then s else if m = 3 then s.trcStream r full else s.trcCapture r)

/-- A write of CTL.ARM arms a capture from the base of trace memory (R502). -/
def State.doTraceArm (s : State) : State :=
  let s := s.wr TRC_STAT_STATE 1
  let s := (s.clr TRC_STAT_WRAP).setReg TRC_WPTR 0
  let s := s.clr TRC_TRIG_IDX_VALID
  { s with trc := { s.trc with written := 0, left := 0 } }

def execTraceArm (s : State) : Out := .next s.doTraceArm

/-- `k` pad records: SRC is 3, the rest is not stated (R501, R504). -/
def padBytes (v k : Nat) : List Byte := (List.replicate k (toBytes 16 (putBits v 38 2 3))).flatten

/-- A write of CTL.STOP: the capture ends; a stream's open page is filled with pad records and completed, and its progress goes to the host
(R502 to R504). -/
def State.doTraceStop (s : State) : State :=
  let s := match s.trc.page with
    | none => s.when (s.rd TRC_CTL_MODE == 3) State.streamProgress
    | some k => (s.drawn.streamOut k (padBytes (s.freeNat 128) (256 - k))).pageDone
  s.when (s.rd TRC_STAT_STATE == 1 || s.rd TRC_STAT_STATE == 2 || s.rd TRC_CTL_MODE == 3) fun s => s.trcDone

def execTraceStop (s : State) : Out := .next s.doTraceStop

/-- A write of CTL.FORCE triggers at once (R502). -/
def execTraceForce (s : State) : Out := .next s.trcTrigger

/-- A grant of stream credits, refused whole beyond the buffer (R503). -/
def State.doStreamCredit (s : State) (n : Nat) : State :=
  let open' := bit s.trc.page.isSome
  if s.rd TRC_STR_PAGES_N < s.rd TRC_STR_HELD_N + n + open' then
    (s.bump TRC_STR_STAT_CREDIT_ERR).post srcTRC 0 3 clsCONFIG 1 n
  else
    let s := s.wr TRC_STR_HELD_N (s.rd TRC_STR_HELD_N + n)
    let s := s.addSat TRC_STR_GRANT_N n
    { s with trc := { s.trc with dropPosted := false } }

def execStreamCredit (add : BitVec 19) (s : State) : Out := .next (s.doStreamCredit add.toNat)

end Sys2Proof.Machine
end

