-- ==== Sys2Proof/Machine/Cycle.lean ====
section
/-! DEFINITION. Machine/Cycle.lean: the block grid, the cycle grid, the cell state table and the latency ratio as shared operations
(chapter 02). -/
namespace Sys2Proof.Machine

/-- Post a fault whose datum the spec does not state (13_fault_collection.md R367): a free value. -/
def State.postF (s : State) (src inst kind cls sev : Nat) : State := (s.post src inst kind cls sev (s.freeNat 31)).drawn

/-! ### The block grid (R42), in units of 1/1600 ns: a block is 16,896 units -/

/-- Departure of the header of frame `k` of the full timebase. -/
def departure (k : Nat) : Nat := ceilDiv (k * 1600000) 16896 * 16896
/-- The same in sixteenths of a nanosecond, exact when it is a whole number of them; the fraction is below one sixteenth. -/
def departure16 (k : Nat) : Nat := departure k / 100

/-! ### The cycle grid (R43) -/

/-- Set up the grid as EN or a change of it does (R43): no swap of a cycle before its first one is due. -/
def State.setGrid (s : State) : State :=
  let f := s.rd LOOP_CYC_CFG_FRAMES
  let d := toInt 32 (subMod 32 (s.reg LOOP_CYC_START) (s.reg LOOP_FRAME_NUM))
  let now : Int := s.frame
  let anchor := now + d
  let next := if 0 < d then 0 else (-d) / f + 1
  let s := { s with grid := { anchor := anchor, frames := f, next := next, regrid := false, inCycle := false } }
  s.forEach (List.range 192) fun s c => s.setCst c { s.cstE c with done := next - 1 }

/-- The grid number of the cycle that a frame falls in. -/
def GridH.cycleAt (g : GridH) (fr : Int) : Int := (fr - g.anchor) / g.frames

/-- The cycle of a sample taken at `t` sixteenths (R50): its window begins 200 ns before the start of its report frame. -/
def State.cycleOfSample (s : State) (n t : Nat) : Int :=
  let g := s.grid
  let rpt : Int := (s.rd (LOOP_CHCYC_RPT_FRAME n) % g.frames : Nat)
  (((t : Int) + 3200) - (g.anchor + rpt) * 16000) / (g.frames * 16000 : Nat)

/-! ### The cell state table (R47 to R53) -/

/-- Address of the entry of a cell in a bank. -/
def cstAddr (bank c : Nat) : Nat := 0x08000000 + bank * 0x10000 + c * 0x100

/-- The committed copy of an entry. -/
def State.cstCom (s : State) (c : Nat) : Nat := cstAddr (s.cstE c).cur c
/-- The fill copy of an entry. -/
def State.cstFillA (s : State) (c : Nat) : Nat := cstAddr (1 - (s.cstE c).cur) c

/-- An entry swaps in every cycle of the grid (R47). -/
def State.swaps (s : State) (c : Nat) : Bool :=
  let n := c / 8
  s.on LOOP_CYC_CFG_EN && s.grid.inCycle && s.on (LOOP_CHCYC_EN n) && s.on (CHAIN_TRING_VALID n) && s.hasCell c &&
    decide (c % 8 < s.rd (CHAIN_STAT_HOPS n))

/-- The cycle in progress. -/
def State.cycNow (s : State) : Int := s.grid.next - 1

/-- The report frame of chain `n` in its cycle. -/
def State.rptFrame (s : State) (n : Nat) : Nat := s.rd (LOOP_CHCYC_RPT_FRAME n) % s.grid.frames

/-- The earliest report frame of a cycle over all enabled chains. -/
def State.firstRpt (s : State) : Nat :=
  (((List.range 24).filter fun n => s.on (CHAIN_CFG_EN n) && s.on (LOOP_CHCYC_EN n)).map s.rptFrame).foldl min (s.grid.frames - 1)

/-- The swap instant of entry `c` in cycle `m`, in units of 1/1600 ns (R47): the first tick of 2 ns at or after E + 44.54 ns, plus MARGIN,
or the tick before the start of the earliest report frame of the next cycle. -/
def State.swapAt (s : State) (c : Nat) (m : Int) : Nat :=
  let n := c / 8
  let g := s.grid
  let i := if s.profile = 1 then 2 * (c % 8) + 1 else c % 8
  let ring := if m = s.cycNow then (s.chain n).tUse else (s.chain n).tPrev
  let e := departure (g.anchor + m * g.frames + s.rptFrame n).toNat + 270336 + 185856 * i + ring * 100
  let t := ceilDiv (e + 71264) 3200 * 3200 + s.rd (LOOP_CHCYC_MARGIN n) * 3200
  let lim := (g.anchor + (m + 1) * g.frames + s.firstRpt).toNat * 1600000
  if lim ≤ t then lim - 3200 else t

/-- The start of cycle `m`, in the same units. -/
def State.cycStart (s : State) (m : Int) : Nat := (s.grid.anchor + m * s.grid.frames).toNat * 1600000

/-- The swap of entry `c` in the cycle before the one in progress falls into the present one and is still to come. -/
def State.spills (s : State) (c : Nat) : Bool :=
  decide ((s.cstE c).done < s.cycNow - 1) && decide (s.cycStart s.cycNow ≤ s.swapAt c (s.cycNow - 1))

/-- The sample instant a report names, in sixteenths: the latest frame with the low 16 bits of SMP_FRAME, plus SMP_OFS. -/
def sampleTime (fr : Nat) (bs : List Byte) : Nat := latestFrame 16 fr (fieldAt bs 8 2) * 16000 + fieldAt bs 10 2

def newer (t : Nat) : Option Nat → Bool
  | none => true
  | some u => decide (u < t)

/-- A lane writes into a copy: every view that pins it knows (07_lupin_engines.md R196). -/
def State.pinnedOver (s : State) (c bank : Nat) : State :=
  s.forEach (List.range 16) fun s n =>
    let e := s.eng n
    match e.view with
    | none => s
    | some (v, st) => s.setEng n { e with view := some (v.map fun x => if x.1 = c ∧ x.2.1 = bank then (x.1, x.2.1, true) else x, st) }

/-- A report section that is newer enters the fill copy (R48); it is late from the swap instant of its
sample's cycle on (R49). Its sample is compared with the sample time that the committed copy had in full, also after a setting of
the timebase (notes/assumptions/100.md). -/
def State.cstFill (s : State) (c : Nat) (bs : List Byte) : State :=
  let e := s.cstE c
  let t := sampleTime s.frame bs
  s.when (fieldAt bs 0 1 / 32 % 2 == 1 && newer t e.curT && newer t e.fillT) fun s =>
    let a := s.cstFillA c
    let s := s.putMem a bs
    let s := s.putMem (a + 0x58) <| toBytes 4 (((s.cycleOfSample (c / 8) t) % 65536).toNat * 65536)
    let s := s.putMem (a + 0x5C) (toBytes 4 s.stampNs)
    let s := s.pinnedOver c (1 - e.cur)
    let cyc := s.cycleOfSample (c / 8) t
    let late := s.swaps c && (decide (cyc < s.cycNow - 1) || decide (cyc ≤ e.done) ||
      (decide (cyc ≤ s.cycNow) && decide (s.swapAt c cyc * 2 ^ 24 ≤ s.tb * 1600)))
    s.setCst c { e with fillT := some t, fillFr := s.frame, fillLate := late }

/-- AGE reaches AGE_LIM: LINK S1, once per run of stale commits (R51). -/
def State.ageLim (s : State) (c age : Nat) : State :=
  let lim := s.rd (LOOP_CHCYC_AGE_LIM (c / 8))
  if age = 0 then s.setCell c { s.cell c with agePosted := false }
  else s.when (lim != 0 && decide (lim ≤ age) && !(s.cell c).agePosted) fun s =>
    (s.setCell c { s.cell c with agePosted := true }).postChain (c / 8) 1 1 c

/-- The swap of cycle `m` exchanges the copies (R50), makes the tap records (19_host_interface_and_trace.md R501) and audits (R104). -/
def State.cstCommit (s : State) (c t : Nat) (m : Int) : State :=
  let e := s.cstE c
  let old := cstAddr e.cur c
  let new := cstAddr (1 - e.cur) c
  let cyc := s.cycleOfSample (c / 8) t
  let age := min 255 (m - cyc).toNat
  let s := s.putMem (old + 0x58) <| toBytes 4 (putBits (s.load (old + 0x58) 4) 3 1 0)
  let st := (cyc % 65536).toNat * 65536 + age * 256 + 8 + 2 * bit e.fillLate + bit (age != 0)
  let s := s.putMem (new + 0x58) (toBytes 4 st)
  let s := s.when e.fillLate fun s => s.bump (LOOP_CHCNT_LATE (c / 8))
  let s := s.setCst c { e with cur := 1 - e.cur, curT := some t, curFr := e.fillFr, fillT := none, fillLate := false, exch := true }
  let s := s.ageLim c age
  let s := s.probes 1 (fun p => s.rd (TRC_PROBE_CELL p) == c && decide (s.rd (TRC_PROBE_WORD p) ≤ 23))
    (fun p => s.load (new + 4 * s.rd (TRC_PROBE_WORD p)) 4) (c + (cyc % 65536).toNat * 65536)
  s.when (age == 0) fun s => s.audit c e.fillFr (s.bytes new 88)

/-- The swap is skipped (R50). -/
def State.cstSkip (s : State) (c : Nat) : State :=
  let a := s.cstCom c
  let w := s.load (a + 0x58) 4
  let age := satN 8 (bitsOf w 8 8 + 1)
  let s := s.putMem (a + 0x58) <| toBytes 4 (putBits (putBits w 8 8 age) 0 1 1)
  (s.bump (LOOP_CHCNT_MISSED (c / 8))).ageLim c age

/-- The cycle whose swap of entry `c` is the next one due. -/
def State.swapCyc (s : State) (c : Nat) : Int := if s.spills c then s.cycNow - 1 else s.cycNow

/-- The swap of an entry comes at its swap instant (R47, R50). -/
def State.cstSwap (s : State) (c : Nat) : State :=
  let m := s.swapCyc c
  s.when (s.swaps c && decide ((s.cstE c).done < m)) fun s =>
    let s := s.timeTo (ceilDiv (s.swapAt c m * 2 ^ 24) 1600)
    let s := s.setCst c { s.cstE c with done := m, exch := false }
    match (s.cstE c).fillT with
    | some t => s.cstCommit c t m
    | none => s.cstSkip c

/-! ### The latency ratio (R55 to R57), in units of 1/1600 ns -/

/-- The smallest n of R56, for T_ring + 150 ns + MARGIN + D. -/
def clrN (x : Nat) : Nat := max 1 (ceilDiv (33 * ceilDiv x 16896) 3125)

/-- FLOOR, ACH, NFR, RATIO and OVER of a chain in service with an enabled cell whose residence is measured (R57); OVER compares the
rounded ACH with the limit times the rounded FLOOR. -/
def State.clrUpdate (s : State) (n : Nat) : State :=
  let p := (((s.rxPaths n)[0]?).getD (0, n)).1
  let rs := ((((cellsOf n).filter s.cellEn).filter fun c => decide (c % 8 < s.rd (CHAIN_STAT_HOPS n))).map fun c => s.residOf c p).filter (· != 0)
  match rs with
  | [] => s
  | r :: t =>
    let rmin := t.foldl min r
    let ring := (s.chain n).tUse * 100
    let tconv := s.rd (LOOP_CHCYC_TCONV n) * 1600
    let margin := s.rd (LOOP_CHCYC_MARGIN n) * 3200
    let lat := s.profile == 1
    let d := if lat then 354816 else 168960
    let g : Int := if lat then -168960 else 16896
    let k := clrN (ring + 240000 + margin + d)
    let smax := ceilDiv (3125 * k) 33 * 16896
    let l := ((smax + tconv : Nat) + g - (rmin * 100 : Nat)).toNat
    let floor := tconv + ring + 202752
    let past := decide ((if lat then 130 else 160) * (floor / 100) < 100 * ceilDiv l 100)
    let was := s.on (LOOP_CHCLR_OVER n)
    let s := (s.wr (LOOP_CHFLOOR_FLOOR n) (satN 24 (floor / 100))).set1 (LOOP_CHFLOOR_VALID n)
    let s := (s.wr (LOOP_CHACH_ACH n) (satN 24 (ceilDiv l 100))).wr (LOOP_CHACH_NFR n) (min 15 k)
    let s := (s.wr (LOOP_CHCLR_RATIO n) (satN 16 (ceilDiv (l * 4096) floor))).wr (LOOP_CHCLR_OVER n) (bit past)
    s.when (past && !was) fun s => s.postF srcLOOP 16 3 clsTIMING 0

/-- What a cycle start does to every chain: T_ring in use, the latency ratio (R47, R57). -/
def State.cycleChains (s : State) : State :=
  s.forEach (List.range 24) fun s n =>
    let s := s.setChain n { s.chain n with tUse := s.rd (CHAIN_TRING_TRING n), tPrev := (s.chain n).tUse }
    s.when (s.inService n && s.on (CHAIN_CFG_EN n) && s.on (CHAIN_TRING_VALID n) && s.profile != 0) fun s => s.clrUpdate n

end Sys2Proof.Machine
end

