-- ==== Sys2Proof/Machine/Modulator.lean ====
section
/-! DEFINITION. Machine/Modulator.lean: channels, carriers, the load-all capture, planning, the send order, bootstrap budgets,
strings, and the local outputs as shared operations (chapter 06). Channels 0 to 767 are MODCH, 768 to 783 LPWM. -/
namespace Sys2Proof.Machine

/-! ### Registers of a channel (R179, R180): MODCH and LPWM share the offsets of the value registers -/

def chAddr (n : Nat) : Nat := if n < 768 then MODCH_CTL n else LPWM_CTL (n - 768)
def chMode (n : Nat) : Fld := ⟨chAddr n, 0, 2⟩
def chGroup (n : Nat) : Fld := ⟨chAddr n, 4, 5⟩
def chOwner (n : Nat) : Fld := ⟨chAddr n, 12, 4⟩
def chOwnEn (n : Nat) : Fld := ⟨chAddr n, 16, 1⟩
def chPairChk (n : Nat) : Fld := if n < 768 then ⟨chAddr n, 2, 1⟩ else ⟨chAddr n, 23, 1⟩
def chPERIOD (n : Nat) : Nat := chAddr n + 4
def chONC (n : Nat) : Nat := chAddr n + 8
def chOFFC (n : Nat) : Nat := chAddr n + 0xC
def chPHASE (n : Nat) : Nat := chAddr n + 0x10
/-- Shadow `f`: 0 PERIOD_S, 1 ONC_S, 2 OFFC_S, 3 PHASE_S. -/
def chShadow (n f : Nat) : Nat := chAddr n + 0x14 + 4 * f
def chSTAT (n : Nat) : Nat := if n < 768 then MODCH_STAT n else LPWM_STAT (n - 768)
def chDirty (n : Nat) : Fld := ⟨chSTAT n, 0, 4⟩
def chPend (n : Nat) : Fld := ⟨chSTAT n, 4, 1⟩
def chPairRef (n : Nat) : Fld := ⟨chSTAT n, 5, 1⟩

/-- The cell of a remote channel, its leg. -/
def chCell (n : Nat) : Nat := n / 4
def chLeg (n : Nat) : Nat := n % 4

/-- Whether a channel exists: a remote channel of a cell, or a local one. -/
def State.hasChan (s : State) (n : Nat) : Bool := decide (768 ≤ n) || s.hasCell (chCell n)

/-- A channel in the task group of engine `e` (R170). -/
def State.owns (s : State) (e n : Nat) : Bool := s.on (chOwnEn n) && s.rd (chOwner n) == e

def State.tref16 (s : State) : Nat := s.rd MOD_BOOT1_TREF * 400

/-! ### Shadows (R151) -/

/-- Whether a shadow value is not reserved: only PERIOD_S has a range (R179, R180). -/
def shadowOk (n f v : Nat) : Bool :=
  f != 0 || (decide ((if n < 768 then 10000 else 1000) ≤ v % 2 ^ 20) && decide (v % 2 ^ 20 ≤ 1000000))

/-- A shadow write sets the field and its DIRTY bit; bits beyond the field's width are ignored. -/
def State.putShadow (s : State) (n f v : Nat) : State :=
  let s := s.setReg (chShadow n f) (v % 2 ^ (if f = 0 then 20 else 24))
  s.setBit (chDirty n) f

/-! ### Strings (R160 to R162) -/

def State.member (s : State) (c : Nat) : Bool := s.hasCell c && s.on (MOD_CELLSTR_MEMBER (c / 8) (c % 8))
def State.strOf (s : State) (c : Nat) : Nat := s.rd (MOD_CELLSTR_STR (c / 8) (c % 8))
/-- Member cells of string `j`, ascending. -/
def State.members (s : State) (j : Nat) : List Nat := (List.range 192).filter fun c => s.member c && s.strOf c == j
/-- A cell of a string is active (R160). -/
def State.cellActive (s : State) (c : Nat) : Bool :=
  s.cellEn c && !s.on (CELLCTL_STAT_LOCKOUT c) && !s.cellLost c && s.rd (CELLCTL_CFG_MODE_REQ c) != 2
def State.activeCells (s : State) (j : Nat) : List Nat := (s.members j).filter s.cellActive

/-- The shadows of legs 0 and 1 of the `i`-th active cell of a string (R161). -/
def State.respaceCell (s : State) (c i period base d : Nat) : State :=
  let p16 := period * 16
  let s := s.putShadow (4 * c) 0 period
  let s := s.putShadow (4 * c + 1) 0 period
  let s := s.putShadow (4 * c) 3 ((base + i * d) % p16)
  s.putShadow (4 * c + 1) 3 ((base + i * d + p16 / 2) % p16)

/-- The AUTO capture of a string spaces its active cells evenly (R161). -/
def State.respace (s : State) (j : Nat) : State :=
  let act := s.activeCells j
  let n := act.length
  let s := s.wr (MOD_STR_STAT_NACT j) n
  if n = 0 then s
  else
    let period := s.rd (MOD_STR_PERIOD_PERIOD j)
    let base := s.rd (MOD_STR_BASE_BASE j)
    let d := (period * 16 + n) / (2 * n)
    s.forEach (act.zipIdx) fun s x => s.respaceCell x.1 x.2 period base d

/-! ### Capture (R152, R154) -/

/-- A capture that PAIRCHK refuses. -/
def State.pairRefused (s : State) (n : Nat) : Bool :=
  let d := s.rd (chDirty n)
  let per := d % 2 == 1
  let cmp := d / 2 % 4 != 0
  s.on (chPairChk n) && ((per && !cmp) || (cmp && !per))

/-- Capture one channel. -/
def State.captureCh (s : State) (n : Nat) : State :=
  if s.pairRefused n then
    let s := s.bump MOD_CNT_PAIR_REF
    (s.set1 (chPairRef n)).post srcMOD 0 1 clsPROGRAM 1 n
  else
    let x := s.chan n
    let period := s.reg (chShadow n 0)
    let p : PSet := { mode := s.rd (chMode n), period := period, onc := s.reg (chShadow n 1), offc := s.reg (chShadow n 2)
                      phase := s.reg (chShadow n 3) % (period * 16) }
    let s := s.when (x.pend.isSome && decide (n < 768)) fun s => s.bump (MODCH_CNT2_SUPERSEDE n)
    let s := s.setChan n { x with pend := some p }
    (s.set1 (chPend n)).clr (chDirty n)

/-- The load-all capture of the groups of a mask (R152), with its strings (R161) and its tap records
(19_host_interface_and_trace.md R501). -/
def State.capture (s : State) (mask : Nat) : State :=
  s.when s.modRuns fun s =>
    let strs := (List.range 8).filter fun j => s.on (MOD_STR_CFG_AUTO j) && mask.testBit (s.rd (MOD_STR_CFG_GROUP j))
    let s := s.forEach strs fun s j => s.respace j
    let inStr := fun (s : State) (n : Nat) =>
      decide (n < 768) && decide (n % 4 < 2) && s.member (chCell n) && strs.contains (s.strOf (chCell n))
    let s := s.forEach (List.range 784) fun s n =>
      s.when (s.hasChan n && !(decide (768 ≤ n) && s.oddOfPair (n - 768)) && (mask.testBit (s.rd (chGroup n)) || inStr s n)) fun s =>
        s.captureCh n
    let s := s.bump MOD_CNT_CAPTURES
    s.probes 2 (fun p => mask.testBit (s.rd (TRC_PROBE_CELL p) % 32)) (fun _ => mask) (s.rd MOD_CNT_CAPTURES)

/-! ### Bootstrap budgets (R163) -/

/-- Account one interval [wt, te) of the commanded waveform; `tref` and `full` in sixteenths. The half-leg b of legs 2 and 3 is at
L while the leg is at H (05_cell_endpoint_contract.md R126). -/
def ChanH.account (x : ChanH) (te : Nat) (dab : Bool) : ChanH :=
  let d := te - x.wt
  { x with wt := max x.wt te
           budA := if x.wst = 2 then x.budA - d else x.budA
           budB := if dab && x.wst == 1 then x.budB - d else x.budB }

/-- The waveform changes state at `te`: an interval at L of at least TREF restores (R163). -/
def ChanH.edgeAt (x : ChanH) (te st tref full : Nat) (dab : Bool) : ChanH :=
  let x := x.account te dab
  let long := tref ≤ te - x.wsince
  let x := if x.wst = 1 ∧ long ∧ st ≠ 1 then { x with budA := full, empA := false } else x
  let x := if dab ∧ x.wst = 2 ∧ long ∧ st ≠ 2 then { x with budB := full, empB := false } else x
  if st = x.wst then x else { x with wst := st, wsince := te }

/-- Bring the budgets to instant `t`. -/
def ChanH.advance (x : ChanH) (t tref full : Nat) (dab : Bool) : ChanH :=
  let due := x.wav.filter fun e => decide (e.1 ≤ t)
  let y := due.foldl (fun (y : ChanH) e => y.edgeAt e.1 e.2 tref full dab) x
  { y.account t dab with wav := x.wav.filter fun e => decide (t < e.1) }

/-- The channel with its budgets at the present instant, and the BUDGET register showing them in µs. -/
def State.budgetNow (s : State) (n : Nat) : State :=
  let dab := decide (2 ≤ chLeg n)
  let x := (s.chan n).advance s.t16 s.tref16 (s.rd MOD_BOOT0_BUDGET * 16000) dab
  let s := s.setChan n x
  (s.wr (MODCH_BUDGET_BUD_A n) (satN 16 (x.budA / 16000))).wr (MODCH_BUDGET_BUD_B n) (if dab then satN 16 (x.budB / 16000) else 0)

/-- Whether a budget stands below THRESH. -/
def State.belowThresh (s : State) (bud : Nat) : Bool := decide (bud < s.rd MOD_BOOT0_THRESH * 16000)

/-! ### Deadline frames (R155, R156), in units of 1/1600 ns -/

/-- Slot of the command section of a cell in its frames on the chain's first transmit path (02_control_cycle.md R45,
04_cell_link_protocol.md R89). -/
def State.cmdSlot (s : State) (c path : Nat) : Nat :=
  let h := c % 8
  let p := if path = 0 then h else s.rd (CHAIN_STAT_HOPS (c / 8)) - 1 - h
  if s.profile = 1 then 2 * p else p

/-- From the departure of a header to the end of the cell's command section at the cell's input. -/
def State.sectionDelay (s : State) (c : Nat) : Nat :=
  let path := (((s.txPaths (c / 8))[0]?).getD (0, 0)).1
  (((270336 + 185856 * s.cmdSlot c path : Nat) : Int) + s.tcorrAt c path * 100).toNat

/-- The latest frame whose command section for cell `c` is complete at least GUARD before instant `t` (sixteenths). -/
def State.deadline (s : State) (c t : Nat) : Nat :=
  (t * 100 - (s.sectionDelay c + s.rd MOD_CFG_GUARD * 16000)) / 16896 * 16896 / 1600000

/-- The plan instant of a period that starts at `z`: 60 ns before the departure of the deadline frame, or 100 ns before `z`. -/
def State.planInstant (s : State) (n z : Nat) : Nat :=
  if n < 768 then (departure (s.deadline (chCell n) z) - 96000) / 100 else z - 1600

/-! ### Carriers (R147 to R150) -/

/-- MOD.ANCHOR names the frame of the full timebase nearest to the present one (notes/assumptions/27.md), from the write of ANCHOR or
the rise of CFG.EN on. -/
def State.setAnchor (s : State) : State :=
  { s with modA := (s.frame : Int) + toInt 32 (subMod 32 (s.reg MOD_ANCHOR) (s.reg LOOP_FRAME_NUM)) }

/-- The frame whose start is A (R147). -/
def State.anchorFrame (s : State) : Int := s.modA

/-- The first carrier zero of a grid at or after `t`. -/
def gridZero (anchor : Int) (p : PSet) (t : Nat) : Nat :=
  let p16 : Int := (p.period * 16 : Nat)
  let a := anchor * 16000 + p.phase
  ((t : Int) + (a - t) % p16).toNat

/-- The first carrier zero of the grid in force whose plan instant has not passed (R147). -/
def State.firstZero (s : State) (n : Nat) (x : ChanH) : Nat → Nat → Nat
  | 0, z => z
  | k + 1, z => if s.t16 ≤ s.planInstant n z then z else State.firstZero s n x k (z + x.cur.period * 16)

/-- A compare in a period of `lt` sixteenths, scaled in a transition period (R150). -/
def scaled (p : PSet) (lt : Nat) (trans : Bool) (v : Nat) : Nat :=
  if trans then (2 * v * lt + p.period * 16) / (2 * (p.period * 16)) else v

/-- The waveform of a period of `lt` sixteenths: state at its start, edges inside it, full duty (R148 to R150). -/
def shape (p : PSet) (lt : Nat) (trans : Bool) : Nat × List (Nat × Nat) × Bool :=
  let p16 := p.period * 16
  let sc := scaled p lt trans
  if p.mode = 0 then (0, [], false)
  else if p.mode = 2 then (2, [(lt / 2, 1)], false)
  else if p16 ≤ p.onc ∨ p16 ≤ p.offc then (2, [], true)
  else
    let a := sc p.onc
    let b := sc p.offc
    if lt ≤ a ∨ lt ≤ b then (2, [], true)
    else if a = b then (1, [], false)
    else if a < b then (if a = 0 then (2, [(b, 1)], false) else (1, [(a, 2), (b, 1)], false))
    else (if b = 0 then (1, [(a, 2)], false) else (2, [(b, 1), (a, 2)], false))

/-- The longest interval at state `w` in a waveform that stands at `st` from `t`. -/
def longest (w lt : Nat) : Nat → Nat → List (Nat × Nat) → Nat
  | st, t, [] => if st = w then lt - t else 0
  | st, t, (u, v) :: r => max (if st = w then u - t else 0) (longest w lt v u r)

/-- Total time at state `w`. -/
def timeAt (w lt : Nat) : Nat → Nat → List (Nat × Nat) → Nat
  | st, t, [] => if st = w then lt - t else 0
  | st, t, (u, v) :: r => (if st = w then u - t else 0) + timeAt w lt v u r

/-! ### The send order (R156 to R158, R164) -/

/-- Insert an entry by execution time and leg. -/
def insEdge (e : Edge) : List Edge → List Edge
  | [] => [e]
  | f :: t => if e.t < f.t ∨ (e.t = f.t ∧ e.leg < f.leg) then e :: f :: t else f :: insEdge e t

/-- The substitution of R164 at the head `e` of the planned entries, when it applies: the changed second boundary entry among the
rest. `l0`, `l1` are the states of legs 0 and 1 before `e`. -/
def substRest (tref : Nat) (e : Edge) : List Edge → Option (List Edge)
  | [] => none
  | f :: r =>
    if f.leg < 2 ∧ f.st ≠ 2 then
      if f.st = 1 ∧ tref ≤ f.t - e.t then some ({ f with leg := 1 - f.leg, st := 2 } :: r) else none
    else (substRest tref e r).map (f :: ·)

/-- The head of the planned entries joins the send order, at the place of its execution time (R156, R159). -/
def State.joinOne (s : State) (c : Nat) (e : Edge) (rest : List Edge) : State :=
  let x := s.cell c
  let st := fun k => (x.legs[k]?).getD 3
  let low := s.belowThresh (s.chan (4 * c)).budA || s.belowThresh (s.chan (4 * c + 1)).budA
  let sub := if s.on MOD_BOOT1_SUBST_EN && decide (e.leg < 2) && e.st == 2 && st (1 - e.leg) == 2 && st e.leg == 1 && low
    then substRest s.tref16 e rest else none
  let (e, rest) := match sub with
    | none => (e, rest)
    | some r => ({ e with leg := 1 - e.leg, st := 1 }, r)
  let s := s.when sub.isSome fun s =>
    let te := (((sub.getD []).find? fun f => decide (f.leg < 2)).map Edge.t).getD e.t
    let s := s.bump (MODCH_CNT_SUBST (4 * c))
    s.forEach [4 * c, 4 * c + 1] fun s n => s.setChan n { s.chan n with subst := max te (s.chan n).subst }
  let s := s.setCell c { x with sendq := insEdge e x.sendq, legs := x.legs.set e.leg e.st }
  let s := s.when (decide (e.leg < 4)) fun s =>
    s.setChan (4 * c + e.leg) { s.chan (4 * c + e.leg) with wav := (s.chan (4 * c + e.leg)).wav ++ [(e.t, e.st)] }
  s.setPlan c { s.plan c with planned := rest.foldl (fun l f => insEdge f l) [] }

/-- Planned entries join while every leg is planned up to their execution time (R156). -/
def State.joinAll (s : State) (c : Nat) : Nat → State
  | 0 => s
  | k + 1 =>
    match (s.plan c).planned with
    | [] => s
    | e :: rest => if (s.plan c).upto.all (fun u => decide (e.t < u)) then (s.joinOne c e rest).joinAll c k else s

/-- AUX.PEND clears when no entry of AUX awaits its place (R159). -/
def State.auxDone (s : State) (c : Nat) : State :=
  s.when (s.aux == some c && !((s.plan c).planned.any fun e => decide (4 ≤ e.leg))) fun s =>
    ({ s with aux := none }).clr MOD_AUX_PEND

/-- Join what can join (R156). -/
def State.join (s : State) (c : Nat) : State :=
  let s := (s.budgetNow (4 * c)).budgetNow (4 * c + 1)
  (s.joinAll c (s.plan c).planned.length).auxDone c

/-- The leg state of a channel is unknown, and its next period planned starts with a SYNC entry (R157, R158). -/
def State.unknown (s : State) (n : Nat) : State := (s.setChan n { s.chan n with pst := 3, sync := true }).wr (MODCH_STAT_LEG n) 3

/-- The commanded waveform of the channels of a cell after what is unsent is discarded: `keep`, the cell executes what it was sent and
stays there (R157; R127 in HOLD); else it discards its queue and drives its legs to Z (R128). -/
def State.cutWaves (s : State) (c : Nat) (keep : Bool) : State :=
  s.forEach (List.range 4) fun s k =>
    let x := s.chan (4 * c + k)
    let unsent := (s.cell c).sendq.filter fun e => e.leg == k
    s.setChan (4 * c + k) { x with
      wav := if keep then x.wav.filter fun e => !unsent.any fun q => q.t == e.1 && q.st == e.2
             else (x.wav.filter fun e => decide (e.1 ≤ s.t16)) ++ [(s.t16, 3)] }

/-- NEXTZ of a channel: the first carrier zero that has not come, on the grid in force where none is planned. -/
def State.showNext (s : State) (n : Nat) : State :=
  let x := s.chan n
  let z := match x.taken with
    | r :: _ => r.1
    | [] => x.z.getD (gridZero s.anchorFrame x.cur s.t16)
  s.wr (MODCH_NEXTZ_NS n) (z / 16 % 1000000000)

/-- Every entry of a cell that is planned and not sent is discarded; its legs are unknown and its next periods begin with SYNC
entries (R157, R158). -/
def State.discardCell (s : State) (c : Nat) (keep : Bool) : State :=
  let s := s.cutWaves c keep
  let s := s.forEach (List.range 4) fun s k =>
    let s := s.unknown (4 * c + k)
    (s.setChan (4 * c + k) { s.chan (4 * c + k) with z := none }).showNext (4 * c + k)
  let s := s.setCell c { s.cell c with sendq := [], legs := [3, 3, 3, 3, 3, 3] }
  let s := s.setPlan c {}
  s.auxDone c

/-- Starvation (R157): STARVE and STARVED on each channel that lost entries, TIMING S1 on the first since RUN. -/
def State.starve (s : State) (c : Nat) : State :=
  let lost := (s.cell c).sendq ++ (s.plan c).planned
  let s := s.forEach (List.range 4) fun s k => s.when (lost.any fun e => e.leg == k) fun s =>
    (s.set1 (MODCH_STAT_STARVE (4 * c + k))).bump (MODCH_CNT2_STARVED (4 * c + k))
  let s := s.when (!s.starved.contains c) fun s => { s with starved := c :: s.starved }.post srcMOD 0 2 clsTIMING 1 c
  s.discardCell c true

/-! ### Planning a period -/

/-- Refresh notch (R165): L for TREF from the carrier zero, edges inside it dropped, and one to H that would follow it. -/
def notched (tref : Nat) (w : Nat × List (Nat × Nat) × Bool) : List (Nat × Nat × Nat) :=
  (0, 1, 5) :: (tref, 2, 6) :: ((w.2.1.filter fun e => decide (tref < e.1)).dropWhile fun e => e.2 == 2).map fun e => (e.1, e.2, 0)

/-- VDC of the committed entry of a cell, unless the entry is STALE (R166). -/
def State.vdcOf (s : State) (c : Nat) : Nat :=
  if s.load (s.cstCom c + 0x58) 4 % 2 = 1 then 0 else s.load (s.cstCom c + 12) 2

/-- T_c of R166, rounded to the nearest sixteenth. -/
def State.compTime (s : State) (x y : Nat) : Nat :=
  let a := s.vdcOf x
  let b := s.vdcOf y
  let t := s.tref16
  if a = 0 ∨ b = 0 then t
  else if b < 2 * a ∧ 2 * b < a then 2 * t
  else if 2 * a < b then (t + 1) / 2
  else (2 * t * a + b) / (2 * b)

/-- What a channel plans for the period that starts at `z` with the anchor at frame `a`: set, length, transition (R150, R153). -/
def nextPeriod (a : Int) (x : ChanH) (z : Nat) : PSet × Nat × Bool :=
  let p := x.pend.getD x.cur
  let p16 := p.period * 16
  if p.period = x.cur.period ∧ p.phase = x.cur.phase ∧ a = x.anchor then (p, p16, false)
  else (p, gridZero a p (z + p16 / 2) - z, true)

/-- The start of the period to plan: the channel's next one, or the first on the grid in force (R147). -/
def State.periodStart (s : State) (n : Nat) (x : ChanH) : Nat :=
  match x.z with
  | some z => z
  | none => s.firstZero n x 64 (gridZero s.anchorFrame x.cur s.t16)

/-- The first period of channel `n` that is not planned and begins after `z`: its start and, when it is not at full duty, its time at L
(R166). -/
def State.lowAfter (s : State) (n z : Nat) : Nat × Option Nat :=
  let x := s.chan n
  let a := s.anchorFrame
  let z0 := s.periodStart n x
  let r := nextPeriod a (if x.z.isSome then x else { x with anchor := a }) z0
  let low := fun (p : PSet) lt tr =>
    let w := shape p lt tr
    if w.2.2 then none else some (timeAt 1 lt w.1 0 w.2.1)
  if z < z0 then (z0, low r.1 r.2.1 r.2.2)
  else
    let p16 := r.1.period * 16
    let z1 := z0 + r.2.1
    (if z < z1 then z1 else z1 + ((z - z1) / p16 + 1) * p16, low r.1 p16 false)

/-- Extensions of the period of a channel that starts at `z` (R166). -/
def ChanH.extOf (x : ChanH) (z : Nat) : Nat := ((x.ext.filter fun e => e.2.2 == z).map (·.1)).sum

/-- Whether channel `n` of cell `y` can compensate a notch of cell `x` in [z, e): the start of its period and its time at L, less what
it already lends to another notch (R166). -/
def State.compCand (s : State) (x y n z e : Nat) : Option (Nat × Nat) :=
  let r := s.lowAfter n z
  if r.1 < e ∧ y ≠ x ∧ s.rd (CELLCTL_STAT_MODE_SENT y) = 4 then
    (r.2.map fun l => (r.1, l - (s.chan n).extOf r.1)).filter fun q => decide (s.compTime x y + s.tref16 ≤ q.2)
  else none

/-- The candidate (cell, start, time at L) with the largest time at L, the lower cell on a tie. -/
def bestCand : List (Nat × Nat × Nat) → Option (Nat × Nat × Nat)
  | [] => none
  | a :: r => match bestCand r with
    | none => some a
    | some b => if b.2.2 ≤ a.2.2 then some a else some b

/-- An uncompensated notch (R167). -/
def State.uncomp (s : State) (j : Nat) : State := (s.bump (MOD_STR_CNT_UNCOMP j)).post srcMOD 0 5 clsSTAGE 1 j

/-- Count a notch of channel `n` in [z, e) and compensate it (R165 to R167). -/
def State.notch (s : State) (n z e : Nat) : State :=
  let c := chCell n
  let k := chLeg n
  let s := s.bump (MODCH_CNT_NOTCH n)
  if !s.member c then s
  else
    let j := s.strOf c
    let s := s.bump (MOD_STR_CNT_NOTCH j)
    if !s.on MOD_BOOT1_COMP_EN then s
    else
      let cands := (s.activeCells j).filterMap fun y => (s.compCand c y (4 * y + k) z e).map fun l => (y, l)
      match bestCand cands with
      | none => s.uncomp j
      | some (y, zy, _) =>
        s.setChan (4 * y + k) { s.chan (4 * y + k) with ext := (s.chan (4 * y + k)).ext ++ [(s.compTime c y, j, zy)] }

/-- Whether a high-side switch of the leg needs a notch in a period: each half-leg is at L in its own part of the period, half-leg b of
legs 2 and 3 while the leg is at H (R165, R126). A substitution that has joined and not ended is a refresh of its leg (R177). -/
def State.needsNotch (s : State) (n lt : Nat) (p : PSet) (w : Nat × List (Nat × Nat) × Bool) : Bool :=
  let x := s.chan n
  let short := fun st => decide (longest st lt w.1 0 w.2.1 < s.tref16)
  p.mode == 1 && ((s.belowThresh x.budA && short 1 && decide (x.subst ≤ s.t16)) ||
    (decide (2 ≤ chLeg n) && s.belowThresh x.budB && short 2))

/-- Entries of a remote period as (offset, state, flags): the entry at the carrier zero only when the state changes there or a
SYNC entry is due (R148, R156, R158). -/
def periodEntries (st0 : Nat) (sync : Bool) (w : Nat × List (Nat × Nat) × Bool) : List (Nat × Nat × Nat) :=
  let es := w.2.1.map fun e => (e.1, e.2, 0)
  if sync ∨ w.1 ≠ st0 then (0, w.1, 1) :: es else es

/-- LAST on the last entry of a period. -/
def markLast : List (Nat × Nat × Nat) → List (Nat × Nat × Nat)
  | [] => []
  | [e] => [(e.1, e.2.1, e.2.2 ||| 2)]
  | e :: r => e :: markLast r

/-- Move the turn-off of a period later (R166). A turn-off on the carrier zero leaves it; a period at L throughout has its two
edges at the compare `a`. -/
def extendOff (t a : Nat) (w : Nat × List (Nat × Nat) × Bool) : Nat × List (Nat × Nat) × Bool :=
  match w with
  | (1, [], f) => if a = 0 then (2, [(t, 1)], f) else (1, [(a, 2), (a + t, 1)], f)
  | (1, [(b, 2)], f) => (2, [(t, 1), (b, 2)], f)
  | w => (w.1, w.2.1.map fun e => if e.2 = 1 then (e.1 + t, e.2) else e, w.2.2)

/-- The planned period [z, z + lt) of channel `n` with the entries `es` takes effect: its record, its notch and its edges (R145 to R167). -/
def State.periodPlanned (s : State) (n z lt : Nat) (p : PSet) (w : Nat × List (Nat × Nat) × Bool) (notch : Bool)
    (es : List (Nat × Nat × Nat)) (last : Nat) (x : ChanH) : State :=
  let c := chCell n
  let s := s.setChan n { x with z := some (z + lt), pend := none, cur := p, pst := last, sync := false
                                ext := x.ext.filter fun e => decide (z < e.2.2), taken := x.taken ++ [(z, p, w.2.2)] }
  let s := (s.wr (MODCH_STAT_LEG n) last).showNext n
  let s := s.when notch fun s => s.notch n z (z + lt)
  let pl := s.plan c
  let s := s.setPlan c { pl with
    planned := es.foldl (fun l e => insEdge { t := z + e.1, leg := chLeg n, st := e.2.1, fl := e.2.2 } l) pl.planned
    upto := pl.upto.set (chLeg n) (z + lt) }
  s.join c

/-- Plan one period of a remote channel (R155 to R158, R165, R166). -/
def State.planRemote (s : State) (n : Nat) : State :=
  let a := s.anchorFrame
  let z := s.periodStart n (s.chan n)
  let s := (s.timeTo (s.planInstant n z * 2 ^ 20)).budgetNow n
  let c := chCell n
  let x := s.chan n
  let (p, lt, tr) := nextPeriod a (if x.z.isSome then x else { x with anchor := a }) z
  let w0 := shape p lt tr
  let due := x.ext.filter fun e => decide (e.2.2 ≤ z)
  let w := if due ≠ [] ∧ s.cellActive c then extendOff (due.map (·.1)).sum (scaled p lt tr p.onc) w0 else w0
  let s := if s.cellActive c then s else s.forEach due fun s e => s.uncomp e.2.1
  let notch := s.needsNotch n lt p w
  let es := if notch then markLast (notched s.tref16 w) else markLast (periodEntries x.pst x.sync w)
  let last := (es.getLast?.map fun e => e.2.1).getD x.pst
  s.periodPlanned n z lt p w notch es last { x with anchor := a }

/-- The plan instant of a remote channel whose cell is not sent RUN: the values take effect at the carrier zero, nothing is planned and
the leg state is unknown (R153, R158, notes/assumptions/91.md). -/
def State.planIdle (s : State) (n : Nat) : State :=
  let a := s.anchorFrame
  let z := s.periodStart n (s.chan n)
  let s := s.timeTo (s.planInstant n z * 2 ^ 20)
  let x := s.chan n
  let (p, lt, tr) := nextPeriod a (if x.z.isSome then x else { x with anchor := a }) z
  let s := s.forEach (x.ext.filter fun e => decide (e.2.2 ≤ z)) fun s e => s.uncomp e.2.1
  let s := s.setChan n { x with z := some (z + lt), pend := none, cur := p, anchor := a
                                ext := x.ext.filter fun e => decide (z < e.2.2), taken := x.taken ++ [(z, p, (shape p lt tr).2.2)] }
  (s.when (x.pst != 3) fun s => s.unknown n).showNext n

/-- An edge of a local channel enters its queue of 16, or waits (01_architecture.md R22); it is late when its time has passed. -/
def State.pushLocal (s : State) (m t st : Nat) : State :=
  let x := s.lp m
  let e := (t, st, decide (t < s.t16))
  if x.q.length < 16 then s.setLp m { x with q := x.q ++ [e] } else s.setLp m { x with waiting := x.waiting ++ [e] }

/-- To the nearest 250 ps. -/
def to250 (t : Nat) : Nat := (t + 2) / 4 * 4

/-- Plan one period of a local channel: the carrier zero, which carries the phase, and the compares are rounded to 250 ps each
(R146). -/
def State.planLocal (s : State) (n : Nat) : State :=
  let m := n - 768
  let a := s.anchorFrame
  let x := s.chan n
  let z := s.periodStart n x
  let s := s.timeTo (s.planInstant n z * 2 ^ 20)
  let (p, lt, tr) := nextPeriod a (if x.z.isSome then x else { x with anchor := a }) z
  let w := shape p lt tr
  let es := periodEntries x.pst x.sync w
  let last := (es.getLast?.map fun e => e.2.1).getD x.pst
  let s := s.setChan n { x with z := if p.mode = 0 then none else some (z + lt), pend := none, cur := p, anchor := a
                                pst := last, sync := false, taken := x.taken ++ [(z, p, w.2.2)] }
  s.forEach es fun s e => s.pushLocal m (to250 z + to250 e.1) e.2.1

/-- The plan instant of a channel's next period (R155, R158). -/
def State.planAt (s : State) (n : Nat) : State :=
  if !s.modRuns || !s.on MOD_CFG_EN || !s.hasChan n then s
  else if n < 768 then
    if s.rd (CELLCTL_STAT_MODE_SENT (chCell n)) = 4 then s.planRemote n else s.planIdle n
  else
    let x := s.chan n
    if s.oddOfPair (n - 768) || (x.cur.mode == 0 && (x.pend.map PSet.mode).getD 0 == 0 && x.pend.isNone) then s
    else s.planLocal n

/-! ### Local outputs (R172 to R176) -/

/-- The outputs of a channel are held off: tripped, halted, not yet re-armed, stopped, or outside the states in which local
channels may switch (01_architecture.md R32). -/
def State.lpBlocked (s : State) (m : Nat) : Bool :=
  s.on (LPWM_STAT_TRIPPED m) || s.on (LPWM_STAT_HALTED m) || s.on (LPWM_STAT_ARM_PEND m) || (s.lp m).pbOff || (s.lp m).stopped ||
    s.dev < 2 || s.dev == 5

/-- The outputs take the state of the waveform, with the dead times of a pair (R172, R174). -/
def State.lpDrive (s : State) (m : Nat) : State :=
  let x := s.lp m
  let t := s.t16
  let s :=
    if s.lpBlocked m || s.oddOfPair m then s
    else if m % 2 = 0 ∧ s.on (LPWM_CTL_PAIR m) then
      if x.wst = 2 then
        let ob := if x.onB then t else x.offB
        let now := decide (ob + s.rd (LPWM_DT_RISE m) * 4 ≤ t)
        s.setLp m { x with onB := false, offB := ob, onA := x.onA || now, want := if x.onA || now then 0 else 1 }
      else if x.wst = 1 then
        let oa := if x.onA then t else x.offA
        let now := decide (oa + s.rd (LPWM_DT_FALL m) * 4 ≤ t)
        s.setLp m { x with onA := false, offA := oa, onB := x.onB || now, want := if x.onB || now then 0 else 2 }
      else s.lpOff m
    else s.setLp m { x with onA := x.wst == 2 }
  s.pins m

/-- A trip of a channel latches and turns its outputs off (R175). -/
def State.lpTrip (s : State) (m : Nat) : State :=
  s.when (s.on (LPWM_CTL_TRIP_EN m) && s.on (LPWM_STAT_TRIP_IN m) && !s.on (LPWM_STAT_TRIPPED m) && !s.oddOfPair m) fun s =>
    let s := (s.set1 (LPWM_STAT_TRIPPED m)).bump (LPWM_CNT_TRIPS m)
    (s.clr (LPWM_STAT_ARM_PEND m)).lpOff m

/-- A write of TRIP_CTL.REARM (R176); it also re-arms an output that a pulse block turned off (13_fault_collection.md R374).
Whether it was accepted. -/
def State.lpRearm (s : State) (m : Nat) : Bool × State :=
  if s.oddOfPair m then (false, s)
  else if !s.on (LPWM_STAT_TRIPPED m) && !s.on (LPWM_STAT_HALTED m) && !(s.lp m).pbOff then (false, s)
  else if s.on (LPWM_STAT_TRIP_IN m) || (s.on (LPWM_CTL_OWN_EN m) && !s.engRuns (s.rd (LPWM_CTL_OWNER m))) then
    (false, s.set1 (LPWM_STAT_CLEAR_REFUSED m))
  else
    let s := (s.clr (LPWM_STAT_TRIPPED m)).clr (LPWM_STAT_HALTED m)
    let s := s.setLp m { s.lp m with pbOff := (s.lp m).pbOff && s.on FLT_STAT_PB }
    (true, s.set1 (LPWM_STAT_ARM_PEND m))

/-! ### Engine halt (R170) -/

/-- The bundle is complete: what its `pstep` does outside the generator (07_lupin_engines.md R201, R204). -/
def State.bundleEnd (s : State) (n : Nat) : State :=
  let k := (s.core n).after
  if k = 0 then s
  else
    let s := s.setCore n { s.core n with after := 0 }
    if k = 1 then s.cstopCheck else s.postF srcLOOP n 7 clsPROGRAM 1

/-- The task group of engine `e` goes safe. -/
def State.groupSafe (s : State) (e : Nat) : State :=
  let s := s.forEach ((List.range 768).filter fun n => s.hasChan n && s.owns e n) fun s n =>
    s.wr (CELLCTL_CFG_MODE_REQ (chCell n)) (1 + s.rd (CELLCTL_CFG_LOSS_MODE (chCell n)))
  s.forEach ((List.range 16).filter fun m => s.owns e (768 + m) && !s.oddOfPair m) fun s m =>
    (s.set1 (LPWM_STAT_HALTED m)).lpOff m

end Sys2Proof.Machine
end

