-- ==== Sys2Proof/Machine/Mram.lean ====
section
/-! DEFINITION. Machine/Mram.lean: write pulses of the MRAM (17_reset_power_boot.md R448, R449, R458, R460) and the device records kept
there as two copies (R459, R461). -/
namespace Sys2Proof.Machine

/-! ### Write pulses -/

/-- The vault's area reads 0 to others (R461). -/
def inVault (a : Nat) : Bool := decide (0x02002000 ≤ a ∧ a < 0x02004000)

/-- NVC.STAT follows the write buffer and the running pulse. -/
def State.nvShow (s : State) : State :=
  let s := s.wr NVC_STAT_PULSE (bit s.sys.nvRun.isSome)
  let s := s.wr NVC_STAT_WBUF (min 16 s.sys.nvq.length)
  s.wr NVC_STAT_SUSP (s.rd PWR_STAT_SUSP)

/-- A write of the zeroisation, which no suspension holds (R449, 16_security.md R440). -/
def State.nvUrgent (s : State) (w : Nat × List Byte) : Bool := inVault w.1 && s.on SEC_STAT_ERASED

/-- Start the next write pulse, unless one runs, pulses are suspended, or a reset waits for the end of a pulse (R448, R458). -/
def State.nvStart (s : State) : State :=
  match s.sys.nvRun, s.sys.nvq with
  | none, w :: q =>
    if (s.on PWR_STAT_SUSP && !s.nvUrgent w) || s.sys.heldOff then s.nvShow
    else (s.setSys { s.sys with nvRun := some w, nvq := q }).nvShow
  | _, _ => s.nvShow

/-- The words of 8 B that a write of bytes takes (R460). -/
def nvWords (a : Nat) (bs : List Byte) : Nat → List (Nat × List Byte)
  | 0 => []
  | k + 1 => if bs.isEmpty then [] else (a, bs.take (8 - a % 8)) :: nvWords (a + (8 - a % 8)) (bs.drop (8 - a % 8)) k

/-- A write waits for its pulses (R449). -/
def State.nvPut (s : State) (a : Nat) (bs : List Byte) : State :=
  (s.setSys { s.sys with nvq := s.sys.nvq ++ nvWords a bs bs.length }).nvStart

/-- A byte of MRAM as a read sees it: a waiting write is returned before it is programmed (R460). -/
def State.nvByte (s : State) (a : Nat) : Byte :=
  let ws := (match s.sys.nvRun with | some w => [w] | none => []) ++ s.sys.nvq
  match ws.reverse.find? fun w => decide (w.1 ≤ a ∧ a < w.1 + w.2.length) with
  | some w => (w.2[a - w.1]?).getD 0
  | none => s.byte a

def State.nvBytes (s : State) (a k : Nat) : List Byte := (List.range k).map fun i => s.nvByte (a + i)

/-- A word is programmed: it no longer holds an uncorrectable error. -/
def State.nvProgram (s : State) (w : Nat × List Byte) : State :=
  let s := s.putMem w.1 w.2
  s.setSys { s.sys with nvBad := s.sys.nvBad.filter (· != (w.1 - 0x02000000) / 8) }

/-- The running pulse ends: its bytes are programmed. -/
def State.nvPulseEnd (s : State) : State :=
  match s.sys.nvRun with
  | none => s
  | some w => (s.setSys { s.sys with nvRun := none }).nvProgram w

/-! ### Device records (R459): 0 epoch, 1 confirmed check value, 2 latched trips, 3 proof pass and island hours, 4 the vault's headers.
A copy is its generation, its content and the CRC-32C of both; the places are the model's choice (DESIGN CHOICE,
notes/assumptions/66.md). -/

def recBase (i : Nat) : Nat :=
  if i = 0 then 0x02000000 else if i = 1 then 0x02001000 else if i = 2 then 0x02001100 else if i = 3 then 0x02001200 else 0x02002000

/-- Bytes of content. -/
def recLen (i : Nat) : Nat := if i < 3 then 4 else 8

/-- Where copy `c` stands. -/
def recCopyAt (i c : Nat) : Nat := recBase i + 0x80 * c

/-- Generation and content of a copy whose CRC is valid; a word with an uncorrectable error makes the copy fail. -/
def State.recCopy (s : State) (i c : Nat) : Option (Nat × List Byte) :=
  let a := recCopyAt i c
  let n := recLen i + 4
  let b := s.nvBytes a n
  let lost := s.sys.nvBad.any fun w => decide ((a - 0x02000000) / 8 ≤ w ∧ w < (a - 0x02000000 + n + 4 + 7) / 8)
  if !lost && crc32c b == ofBytes (s.nvBytes (a + n) 4) then some (ofBytes (b.take 4), b.drop 4) else none

/-- The copy that a read takes, its generation and content. -/
def State.recNewest (s : State) (i : Nat) : Option (Nat × Nat × List Byte) :=
  match s.recCopy i 0, s.recCopy i 1 with
  | some a, some b => if a.1 < b.1 then some (1, b) else some (0, a)
  | some a, none => some (0, a)
  | none, some b => some (1, b)
  | none, none => none

/-- The words that a write of a record programs: the copy that a read does not take, with the next generation. -/
def State.recWords (s : State) (i : Nat) (p : List Byte) : List (Nat × List Byte) :=
  let (c, g) := match s.recNewest i with
    | some (c, g, _) => (1 - c, (g + 1) % 2 ^ 32)
    | none => (0, 1)
  let b := toBytes 4 g ++ p
  nvWords (recCopyAt i c) (b ++ toBytes 4 (crc32c b)) (b.length + 4)

/-- A record is written. -/
def State.recPut (s : State) (i : Nat) (p : List Byte) : State :=
  (s.setSys { s.sys with nvq := s.sys.nvq ++ s.recWords i p }).nvStart

/-- The zeroisation writes the vault's headers before every other waiting write, and no write of the vault is made after it
(16_security.md R440). -/
def State.recErase (s : State) (p : List Byte) : State :=
  let s := s.setSys { s.sys with nvq := s.sys.nvq.filter fun w => !inVault w.1 }
  (s.setSys { s.sys with nvq := s.recWords 4 p ++ s.sys.nvq }).nvStart

/-- A record is read; one whose copies both fail counts as absent. -/
def State.recLoad (s : State) (i : Nat) : Option (List Byte) × State :=
  match s.recNewest i with
  | some (_, _, p) => (some p, s)
  | none => (none, (s.bump NVC_REC_BAD_COUNT).post srcNVC 0 3 clsMEMORY 1 (recBase i - 0x02000000))

/-- At a reset of reach C or W, words of records that wait are programmed first, unless a supply warning suspends their pulses; those
of a zeroisation always are (DEDUCED from R399 and R445, notes/assumptions/66.md). -/
def State.recFlush (s : State) : State :=
  s.forEach (s.sys.nvq.filter fun w => decide (w.1 < 0x02004000) && (!s.on PWR_STAT_SUSP || s.nvUrgent w)) State.nvProgram

end Sys2Proof.Machine
end

