-- ==== Sys2Proof/Machine/Island.lean ====
section
/-! DEFINITION. Machine/Island.lean: the safety island: inputs, demands, permission, tokens, parameter block and confirmation
(14_safety_island.md R384 to R405), and its commands. -/
namespace Sys2Proof.Machine

/-! ### Fields -/

def SAFE_IN (i : Nat) : Fld := ⟨SAFE_IO, i, 1⟩
def SAFE_OUT (i : Nat) : Fld := ⟨SAFE_IO, 6 + i, 1⟩
def SAFE_DEM (i : Nat) : Fld := ⟨SAFE_STATE, 8 + i, 1⟩
def SAFE_LAT (i : Nat) : Fld := ⟨SAFE_STATE, 13 + i, 1⟩
def SAFE_HLD (i : Nat) : Fld := ⟨SAFE_STATE, 18 + i, 1⟩

def State.islSt (s : State) : Nat := s.rd SAFE_STATE_STATE
def State.setIsl (s : State) (x : IslH) : State := { s with isl := x }
def State.postSafe (s : State) (kind cls sev datum : Nat) : State := s.post srcSAFE 0 kind cls sev datum

/-- `k` bytes from byte `i` of the parameter block held (R401). -/
def State.param (s : State) (i k : Nat) : Nat :=
  ofBytes ((List.range k).map fun j => BitVec.ofNat 8 (s.reg (SAFE_PARAM ((i + j) / 4)) / 2 ^ (8 * ((i + j) % 4))))
def State.sdmRole (s : State) (i : Nat) : Nat := s.param (0x28 + 16 * i) 1

/-! ### Permission (R387) -/

/-- No permission in BOOT, where there are no tokens and both SAFE_OK stand open (01_architecture.md R32). -/
def State.permitted (s : State) : Bool :=
  s.rd SAFE_STATE_DEMAND == 0 && s.rd SAFE_STATE_LATCH == 0 && s.rd SAFE_STATE_HOLD == 0 && s.on (SAFE_IN 2) && s.on (SAFE_IN 3) &&
    s.rd SAFE_IO_POS != 2 && s.rd SAFE_IO_POS != 3 && s.dev != 0

/-- Tokens stop: the power-conversion set is lost (01_architecture.md R38). -/
def State.tokensOff (s : State) : State :=
  let was := s.on SAFE_STATE_TOKENS
  let s := (s.clr SAFE_STATE_TOKENS).setIsl { s.isl with off := if was then s.ns else s.isl.off }
  s.when was State.powerLost

/-- EARTH_PERMIT's conditions (R397), in SAFE: in the other states it is off (R387). -/
def State.earthOk (s : State) : Bool :=
  s.islSt == 2 && (s.rd SAFE_IO_POS == 1 || s.rd SAFE_IO_POS == 2) &&
    (match s.isl.lowV with
      | some t => decide (10000000000 ≤ s.ns - t)
      | none => false)

/-- EARTH_PERMIT follows its conditions; DOOR_LOCK locks again when a condition of its release fails (R397). -/
def State.earthEval (s : State) : State :=
  let s := s.wr (SAFE_OUT 3) (bit s.earthOk)
  s.when (!(s.earthOk && s.rd SAFE_IO_POS == 2)) fun s => s.clr (SAFE_OUT 2)

/-- Enter RUN or leave it as permission says (R387, R393). -/
def State.islEval (s : State) : State :=
  if s.islSt = 3 ∧ !s.permitted then ((s.wr SAFE_STATE_STATE 2).tokensOff).earthEval
  else if s.islSt = 2 ∧ s.permitted ∧ !s.on SAFE_STATE_PROOF_DUE then
    let s := (s.wr SAFE_STATE_STATE 3).set1 SAFE_STATE_SOK
    ((s.set1 (SAFE_OUT 0)).set1 (SAFE_OUT 1)).earthEval
  else s.earthEval

/-- Enter FAIL: both SAFE_OK open at once (R385, R393). -/
def State.islFail (s : State) : State :=
  ((s.wr SAFE_STATE_STATE 4).clr SAFE_STATE_SOK).wr SAFE_IO_OUT 0 |>.tokensOff

/-- The functions of the island run (R387): all of them in SAFE and RUN; in UNCONFIRMED the input filters too. -/
def State.islRuns (s : State) : Bool := s.islSt == 2 || s.islSt == 3
def State.islSees (s : State) : Bool := s.islSt == 1 || s.islRuns

/-! ### Records in MRAM (17_reset_power_boot.md R459, R461) -/

/-- The record of the latched trips follows LATCH (R399). -/
def State.recTrips (s : State) : State := s.recPut 2 (toBytes 4 (s.rd SAFE_STATE_LATCH))

/-- The record of the proof test: the hours since the last pass, and whether a test is due (R400). -/
def State.recProof (s : State) : State := s.recPut 3 (toBytes 4 (s.reg SAFE_PROOF) ++ toBytes 4 (s.rd SAFE_STATE_PROOF_DUE))

/-- The island takes its records; of absent ones: unconfirmed, every trip latched, proof test due. -/
def State.islRecords (s : State) : State :=
  let (c, s) := s.recLoad 1
  let s := match c with
    | some b => (s.setReg SAFE_CONF_REC (ofBytes b)).setIsl { s.isl with conf := true }
    | none => (s.setReg SAFE_CONF_REC 0).setIsl { s.isl with conf := false }
  let (l, s) := s.recLoad 2
  let s := s.wr SAFE_STATE_LATCH (match l with | some b => ofBytes b | none => 0x1F)
  let (p, s) := s.recLoad 3
  let s := s.setReg SAFE_PROOF (match p with | some b => ofBytes (b.take 4) | none => 0)
  s.setSys { s.sys with proofDue := match p with | some b => ofBytes (b.drop 4) != 0 | none => true }

/-- A trip of kind `d` is latched; TRIPS counts it unless it was latched already (R399, R407). -/
def State.trip (s : State) (d : Nat) : State :=
  s.when (!s.on (SAFE_LAT d)) fun s => ((s.bump SAFE_CNT_TRIPS).set1 (SAFE_LAT d)).recTrips

/-- A demand of kind `d` begins and latches its trip (R394). -/
def State.demand (s : State) (d : Nat) : State := (s.set1 (SAFE_DEM d)).trip d

/-- Holds that are not latched: 0 heartbeat, 1 clock, 2 thermal, 3 strobe, 4 DORMANT indication (R399). -/
def State.islHold (s : State) (h : Nat) (b : Bool) : State := (s.wr (SAFE_HLD h) (bit b)).islEval

/-! ### Inputs (R391, R398) -/

/-- Whether the channels of a discrepant input still disagree. -/
def State.disagree (s : State) (k : Nat) : Bool :=
  if k = 0 then s.rd (SAFE_IN 0) != s.rd (SAFE_IN 1)
  else if k = 1 then s.rd (SAFE_IN 2) != s.rd (SAFE_IN 3)
  else s.isl.posA != s.isl.posB

/-- The discrepancy demand lasts while channels disagree. -/
def State.discEval (s : State) : State :=
  let l := s.isl.disc.filter s.disagree
  (s.setIsl { s.isl with disc := l }).wr (SAFE_DEM 4) (bit (!l.isEmpty))

/-- The two channels of a two-channel input that are open, as bits. -/
def State.openBits (s : State) (i : Nat) : Nat := bit (!s.on (SAFE_IN i)) + 2 * bit (!s.on (SAFE_IN (i + 1)))

/-- A channel of the pulse-block input is open: the SPB demand (R394). -/
def State.spbOpen (s : State) : State :=
  s.when (s.openBits 0 != 0 && !s.on (SAFE_DEM 0)) fun s => (s.demand 0).postSafe 3 clsSAFETY 1 (s.openBits 0)

/-- A door channel opens (R394, R398, R400): in RUN a demand; forced against its lock in SAFE, a trip. -/
def State.doorOpen (s : State) (i : Nat) : State :=
  if s.islSt = 3 then (s.demand 3).postSafe 8 clsSAFETY 1 (s.openBits 2)
  else if s.islSt = 2 ∧ !s.on (SAFE_OUT 2) then (s.trip 3).postSafe 8 clsSAFETY 1 (s.openBits 2)
  else
    let x := s.isl
    let x := if i = 2 then { x with openA := some s.ns } else { x with openB := some s.ns }
    let both := match x.openA, x.openB with
      | some a, some b => decide (max a b - min a b ≤ 100000000) && s.on (SAFE_OUT 2)
      | _, _ => false
    s.setIsl { x with proofOpen := both, closeA := none, closeB := none }

/-- A proof pass is recorded (R400). -/
def State.proofPass (s : State) : State :=
  (((s.clr SAFE_STATE_PROOF_DUE).setReg SAFE_PROOF 0).setIsl { s.isl with overPosted := false, opNs := 0 }).recProof

/-- Operating time passes: `ns` between two strobes (R400). -/
def State.opTime (s : State) (ns : Nat) : State :=
  let t := s.isl.opNs + ns
  let s := s.setIsl { s.isl with opNs := t % 3600000000000 }
  s.when (decide (3600000000000 ≤ t)) fun s =>
    (s.setReg SAFE_PROOF (min (2 ^ 32 - 1) (s.reg SAFE_PROOF + t / 3600000000000))).recProof

/-- A door channel closes (R400). -/
def State.doorClose (s : State) (i : Nat) : State :=
  let x := s.isl
  let x := if i = 2 then { x with closeA := some s.ns, openA := none } else { x with closeB := some s.ns, openB := none }
  let pass := match x.closeA, x.closeB with
    | some a, some b => decide (max a b - min a b ≤ 100000000) && x.proofOpen && s.on (SAFE_OUT 2)
    | _, _ => false
  let s := s.setIsl (if pass then { x with proofOpen := false, closeA := none, closeB := none } else x)
  let s := s.when pass State.proofPass
  s.when (s.openBits 2 == 0) fun s => s.clr (SAFE_DEM 3)

/-- A channel counts open: 0 PB_A, 1 PB_B, 2 DOOR_A, 3 DOOR_B, 4 SACK, 5 EXPORT_PERMIT. -/
def State.doInputOpen (s : State) (i : Nat) : State :=
  let s := s.clr (SAFE_IN i)
  let s := if i < 2 then s.when s.islSees State.spbOpen
    else if i < 4 then s.doorOpen i
    else if i = 4 then s.setIsl { s.isl with sackLow := some s.ns, sack := false }
    else s
  s.discEval.islEval

def execSafeInputOpen (i : Fin 6) (s : State) : Out := .next (s.when (s.on (SAFE_IN i)) fun s => s.doInputOpen i)

/-- A channel counts closed. -/
def State.doInputClose (s : State) (i : Nat) : State :=
  let s := s.set1 (SAFE_IN i)
  let s := if i < 2 then s.when (s.openBits 0 == 0) fun s => s.clr (SAFE_DEM 0)
    else if i < 4 then s.doorClose i
    else if i = 5 then s.clr (SAFE_DEM 2)
    else s
  s.discEval.islEval

def execSafeInputClose (i : Fin 6) (s : State) : Out := .next (s.when (!s.on (SAFE_IN i)) fun s => s.doInputClose i)

/-- The channels of an input have disagreed for longer than DISC_T (R391, R397). -/
def execDiscrepancy (k : Fin 3) (s : State) : Out :=
  .next (s.when (s.islSees && s.disagree k && !s.isl.disc.contains k.val) fun s =>
    let s := s.setIsl { s.isl with disc := k.val :: s.isl.disc }
    ((s.demand 4).postSafe 7 clsSAFETY 1 k).islEval)

/-! ### Sigma-delta channels (R392, R395, R396) -/

def absW (v : Nat) : Nat := (toInt 16 v).natAbs

/-- A VOLTAGE result below V_ABS keeps or starts the 10 s of R397. -/
def State.voltage (s : State) (low : Bool) : State :=
  s.setIsl { s.isl with lowV := if low then some (s.isl.lowV.getD s.ns) else none }

/-- I_dir of R396. -/
def State.iDir (s : State) : Int :=
  let c := s.param 0x68 1 % 4
  let v := toInt 16 (s.rd (SAFE_SDM_VALUE c))
  if s.param (0x29 + 16 * c) 1 % 2 = 1 then -v else v

/-- Export above the limit without the permit. -/
def State.spdOver (s : State) : Bool := !s.on (SAFE_IN 5) && decide (s.iDir < -(s.param 0x6A 2 : Int))

/-- A result of a channel; `live`: the line had a transition in the last 64 periods. -/
def State.doSdmResult (s : State) (i v : Nat) (live : Bool) : State :=
  let s := (s.wr (SAFE_SDM_VALUE i) v).when live fun s => s.clr (SAFE_SDM_STUCK i)
  let r := s.sdmRole i
  let a := absW v
  let stuck := s.on (SAFE_SDM_STUCK i)
  let s := s.when (r == 1) fun s =>
    let x := s.isl
    let past := decide (s.param (0x2C + 16 * i) 2 < a)
    let s := s.setIsl { x with warn := if past then i :: x.warn.filter (· != i) else x.warn.filter (· != i) }
    let s := s.when (s.islRuns && past && !x.warn.contains i) fun s => s.postSafe 5 clsSAFETY 0 i
    let s := s.when (decide (a ≤ s.param (0x2E + 16 * i) 2) && !stuck) fun s =>
      let l := s.isl.slc.filter (· != i)
      (s.setIsl { s.isl with slc := l }).wr (SAFE_DEM 1) (bit (!l.isEmpty))
    s.when (!s.spdOver) fun s => s.clr (SAFE_DEM 2)
  let s := s.when (r == 2) fun s => s.voltage (decide (a < s.param 0x70 2) && !stuck)
  s.islEval

def execSdmResult (i : Fin 4) (v : BitVec 16) (live : Bool) (s : State) : Out := .next (s.doSdmResult i v.toNat live)

/-- The position code: equal valid codes of both channels, else invalid (R397). -/
def State.setPos (s : State) : State :=
  let x := s.isl
  (s.wr SAFE_IO_POS (if x.posA = x.posB then x.posA else 3)).discEval.islEval

/-- A line without a transition is stuck (R392). -/
def State.doSdmStuck (s : State) (i : Nat) : State :=
  let s := (s.set1 (SAFE_SDM_STUCK i)).postSafe 0xD clsSAFETY 1 i
  let r := s.sdmRole i
  let s := s.when (r == 2) fun s => s.voltage false
  let s := s.when (r == 3) fun s => s.setIsl { s.isl with posA := 3, posB := 3 }
  s.setPos

def execSdmStuck (i : Fin 4) (s : State) : Out := .next (s.when (!s.on (SAFE_SDM_STUCK i)) fun s => s.doSdmStuck i)

/-- A current above TRIP on every result for T_TRIP (R395); a stuck channel reads above TRIP. -/
def execSlcTrip (i : Fin 4) (s : State) : Out :=
  .next (s.when (s.islRuns && s.sdmRole i == 1 && !s.isl.slc.contains i.val &&
      (s.on (SAFE_SDM_STUCK i) || decide (s.param (0x2E + 16 * i) 2 < absW (s.rd (SAFE_SDM_VALUE i))))) fun s =>
    let s := s.setIsl { s.isl with slc := i.val :: s.isl.slc }
    ((s.demand 1).postSafe 4 clsSAFETY 1 i).islEval)

/-- Export without the permit for T_SPD (R396). -/
def execSpdTrip (s : State) : Out :=
  .next (s.when (s.islRuns && s.spdOver && !s.on (SAFE_DEM 2)) fun s => ((s.demand 2).postSafe 6 clsSAFETY 1 0).islEval)

/-! ### Position and door (R397) -/

/-- The position that a density in per cent codes. -/
def posCode (d : Nat) : Nat :=
  if 10 ≤ d ∧ d ≤ 20 then 0 else if 40 ≤ d ∧ d ≤ 60 then 1 else if 80 ≤ d ∧ d ≤ 90 then 2 else 3

/-- The densities of both position channels over 1 ms. -/
def execPositionUpdate (a b : Fin 101) (s : State) : Out :=
  .next (s.setIsl { s.isl with posA := posCode a, posB := posCode b }).setPos

/-- DOOR_LOCK releases (R397). -/
def execDoorLockRelease (s : State) : Out :=
  .next (s.when (s.earthOk && s.rd SAFE_IO_POS == 2 && !s.on SAFE_STATE_TOKENS &&
      decide (s.param 0x72 2 * 1000000000 ≤ s.ns - s.isl.off) && s.islSt == 2) fun s => s.set1 (SAFE_OUT 2))

/-! ### Safe pulse block outputs (R393) -/

def execSafeOkOpen (s : State) : Out :=
  .next (s.when (s.islSt != 3) fun s => ((s.clr SAFE_STATE_SOK).clr (SAFE_OUT 0)).clr (SAFE_OUT 1))

/-- 1 ms after the entry to RUN the first token bank is written. -/
def execIslandTokensStart (s : State) : Out := .next (s.when (s.islSt == 3 && s.dev != 0) fun s => s.set1 SAFE_STATE_TOKENS)

/-! ### Acknowledgement (R399) -/

/-- SACK has been low for 100 ms, by the timebase (notes/assumptions/99.md). -/
def State.sackReady (s : State) : Bool := s.isl.sackLow.any fun t => decide (100000000 ≤ s.ns - t)

/-- SACK rises. -/
def State.doSackRise (s : State) : State :=
  let ready := s.sackReady
  let s := (s.set1 (SAFE_IN 4)).setIsl { s.isl with sackLow := none, sack := false }
  if !(ready && s.islRuns) then s
  else
    let s := s.clr SAFE_STATE_JAMMED
    if s.rd SAFE_STATE_DEMAND ≠ 0 then s.bump SAFE_CNT_SACK_REF else s.setIsl { s.isl with sack := true }

def execSackRise (s : State) : Out := .next (s.when (!s.on (SAFE_IN 4)) State.doSackRise)

/-- SACK has stayed high for 10 ms. -/
def execSackRelease (s : State) : Out :=
  .next (s.when (s.isl.sack && s.islRuns) fun s =>
    let s := s.setIsl { s.isl with sack := false }
    if s.rd SAFE_STATE_DEMAND ≠ 0 then s.bump SAFE_CNT_SACK_REF else (s.wr SAFE_STATE_LATCH 0).recTrips.islEval)

/-- SACK has stayed high for more than 5 s. -/
def execSackJam (s : State) : Out :=
  .next (s.when (s.islRuns && s.on (SAFE_IN 4) && !s.on SAFE_STATE_JAMMED) fun s =>
    (((s.set1 SAFE_STATE_JAMMED).setIsl { s.isl with sack := false })).postSafe 9 clsSAFETY 1 0)

/-! ### Proof test and confirmation (R400, R403) -/

/-- PROOF_INT days of operating time have passed since the last pass. -/
def State.proofExpired (s : State) : Bool := decide (24 * s.param 0x78 2 ≤ s.reg SAFE_PROOF)

def execProofIntervalExpiry (s : State) : Out :=
  .next (s.when (s.islSees && s.proofExpired) fun s =>
    let s := s.when (!s.on SAFE_STATE_PROOF_DUE) fun s => (s.set1 SAFE_STATE_PROOF_DUE).recProof
    s.when (s.islSt == 3 && !s.isl.overPosted) fun s =>
      (s.setIsl { s.isl with overPosted := true }).postSafe 0xE clsSAFETY 1 0)

/-- A word that finds the inbound queue full is refused (01_architecture.md R22). -/
def State.mbinFull (s : State) : Bool := decide (16 ≤ s.isl.mbin.length)

/-- The first write of CONFIRM: 0x5AFE_0001 arms; in LOAD and FAIL nothing reads it. -/
def State.confirmArm (s : State) : State :=
  if s.mbinFull then s.set1 SAFE_MB_IN_STAT_BUSY else s.when s.islSees fun s => s.set1 SAFE_CONF_STAT_ARMED

def execConfirmArm (s : State) : Out := .next s.confirmArm

/-- Why a second write is refused, 0 when it is not. -/
def State.confirmWhy (s : State) (v : Nat) : Nat :=
  if !s.on SAFE_CONF_STAT_ARMED then 1
  else if !s.on (SAFE_DEM 0) then 2
  else if v ≠ s.reg SAFE_CHECK then 3
  else if !s.isl.blockOk then 4
  else 0

/-- The second write of CONFIRM; in LOAD and FAIL nothing reads it. -/
def State.confirmCheck (s : State) (v : Nat) : State :=
  if s.mbinFull then s.set1 SAFE_MB_IN_STAT_BUSY
  else if !s.islSees then s
  else
    let why := s.confirmWhy v
    let s := s.clr SAFE_CONF_STAT_ARMED
    if why = 0 then
      let s := s.when (!s.isl.conf || s.reg SAFE_CONF_REC != v) fun s => (s.set1 SAFE_STATE_PROOF_DUE).recProof
      let s := ((s.setReg SAFE_CONF_REC v).setIsl { s.isl with conf := true }).set1 SAFE_CONF_STAT_DONE
      let s := s.recPut 1 (toBytes 4 v)
      let s := s.postSafe 0xF clsSAFETY 0 v
      (s.wr SAFE_STATE_STATE 2).islEval
    else ((s.set1 SAFE_CONF_STAT_REFUSED).wr SAFE_CONF_STAT_WHY why).postSafe 0x10 clsCONFIG 1 why

def execConfirmCheck (v : BitVec 32) (s : State) : Out := .next (s.confirmCheck v.toNat)

/-- A write of CONFIRM: the key arms, unless it is the second write of an armed confirmation. -/
def State.confirmWrite (s : State) (v : Nat) : State :=
  if v = 0x5AFE0001 ∧ !s.on SAFE_CONF_STAT_ARMED then s.confirmArm else s.confirmCheck v

def execConfirmWindowExpiry (s : State) : Out := .next (s.clr SAFE_CONF_STAT_ARMED)

/-! ### Loading (R402, R404) -/

/-- Offset of the first invalid byte of a block, if it has one (R402). -/
def blockBad (devid : Nat) (b : List Byte) : Option Nat :=
  let f := fieldAt b
  let role := fun i => f (0x28 + 16 * i) 1
  let roles := [role 0, role 1, role 2, role 3]
  let checks : List (Nat × Bool) := [
    (0, f 0 2 == 1), (2, f 2 2 == 0x200), (4, f 4 2 == devid || f 4 2 == 0xFFFF), (0x20, decide (10 ≤ f 0x20 2 ∧ f 0x20 2 ≤ 1000)),
    (0x22, decide (f 0x22 1 ≤ 93)), (0x28, decide (role 0 ≤ 3)),
    (0x28, roles.count 2 == 1 && roles.count 3 == 2),
    (0x30, role 0 != 1 || decide (10 ≤ f 0x30 2 ∧ f 0x30 2 ≤ 10000)), (0x38, decide (role 1 ≤ 3)),
    (0x40, role 1 != 1 || decide (10 ≤ f 0x40 2 ∧ f 0x40 2 ≤ 10000)), (0x48, decide (role 2 ≤ 3)),
    (0x50, role 2 != 1 || decide (10 ≤ f 0x50 2 ∧ f 0x50 2 ≤ 10000)), (0x58, decide (role 3 ≤ 3)),
    (0x60, role 3 != 1 || decide (10 ≤ f 0x60 2 ∧ f 0x60 2 ≤ 10000)),
    (0x68, decide (f 0x68 1 ≤ 3) && role (f 0x68 1 % 4) == 1), (0x6C, decide (1 ≤ f 0x6C 2 ∧ f 0x6C 2 ≤ 1000)),
    (0x72, decide (1 ≤ f 0x72 2 ∧ f 0x72 2 ≤ 600)), (0x78, decide (1 ≤ f 0x78 2 ∧ f 0x78 2 ≤ 365)),
    (0x1FC, crc32c (b.take 0x1FC) == f 0x1FC 4)]
  (checks.find? fun c => !c.2).map (·.1)

/-- LOAD_END with the CRCs of the image header, after the safety program `p` and the parameter block `b` (R404). -/
def State.doLoadEnd (s : State) (pcrc bcrc : Nat) (p b : List Byte) : State :=
  if crc32c p ≠ pcrc then s.islFail.postSafe 0x11 clsSAFETY 4 0
  else if crc32c b ≠ bcrc then s.islFail.postSafe 0x11 clsSAFETY 4 1
  else
    let s := s.forEach (List.range 128) fun s w => s.setReg (SAFE_PARAM w) (fieldAt b (4 * w) 4)
    let s := s.setBytes (islBase + 0x10000) p
    let crc := crc32c (b.take 0x1FC)
    let s := s.setReg SAFE_CHECK crc
    let s := s.setIsl { s.isl with fc := s.reg LOOP_FRAME_NUM, mbin := [] }
    let s := s.clr SAFE_MB_IN_STAT_OCC
    let s := (s.wr SAFE_STATE_PROOF_DUE (bit s.sys.proofDue)).setSys { s.sys with proofDue := false }
    match blockBad (s.rd SYS_DEV_ID_DEVID) b with
    | some o => ((s.wr SAFE_STATE_STATE 1).postSafe 0xA clsCONFIG 1 o).spbOpen
    | none =>
      let s := s.setIsl { s.isl with blockOk := true }
      (s.wr SAFE_STATE_STATE (if s.isl.conf ∧ crc = s.reg SAFE_CONF_REC then 2 else 1)).spbOpen.islEval

/-! ### Mailbox (R404, R407) -/

def State.mbinWrite (s : State) (w : Nat) : State :=
  if s.mbinFull then s.set1 SAFE_MB_IN_STAT_BUSY
  else
    let s := s.setIsl { s.isl with mbin := s.isl.mbin ++ [BitVec.ofNat 32 w] }
    s.wr SAFE_MB_IN_STAT_OCC s.isl.mbin.length

def execSafeMbInWrite (w : BitVec 32) (s : State) : Out := .next (s.mbinWrite w.toNat)

/-- A read of MB_OUT: the oldest word, and the state after. -/
def State.mboutRead (s : State) : Nat × State :=
  match s.isl.mbout with
  | [] => (0, s)
  | w :: t => (w.toNat, (s.setIsl { s.isl with mbout := t }).wr SAFE_MB_OUT_STAT_OCC t.length)

def execSafeMbOutRead (s : State) : Out := .next s.mboutRead.2

/-! ### Tokens (R388 to R390) -/

/-- The token bank of frame `k` is written (R389). -/
def State.bankWrite (s : State) (k : Nat) : State :=
  let x := s.isl
  let e := s.reg SADL_EPOCH
  let f0 := if e = x.epoch then x.f0.getD k else k
  s.setIsl { x with epoch := e, f0 := some f0, banks := ((k, e, f0, s.on SAFE_STATE_TOKENS) :: x.banks).take 4 }

/-- The token of cell `c` for frame `k` as the lane finds it: valid, or withheld with TCRC inverted (R389, R394, R22). -/
def State.token (s : State) (c k : Nat) : List Byte :=
  let b := s.isl.banks.find? fun b => b.1 == k
  let (e, f0, ok) := match b with
    | some (_, e, f0, ok) => (e, f0, ok)
    | none => (s.reg SADL_EPOCH, k, false)
  let ok := ok && s.on SAFE_STATE_TOKENS && decide (s.param (8 + c / 8) 1 / 2 ^ (c % 8) % 2 = 1)
  let head := toBytes 2 (subMod 32 k f0) ++ toBytes 1 (c % 8)
  let crc := Nat.xor (crcL 8 0x2F 0xFF (toBytes 4 k ++ toBytes 2 (s.rd SYS_DEV_ID_DEVID) ++ toBytes 4 e ++ head)) 0xFF
  head ++ toBytes 1 (if ok then crc else Nat.xor crc 0xFF)

/-- A strobe fails a check. -/
def State.strobeBad (s : State) (ns : Nat) : State :=
  let was := s.on (SAFE_HLD 3)
  let s := (s.setIsl { s.isl with good := 0 }).islHold 3 true
  s.when (!was) fun s => s.postSafe 0xC clsCLOCK 4 ns

/-- A frame strobe, `ns` after the one before it (R388); the island has taken the words waiting in its mailbox. -/
def State.doStrobe (s : State) (ns : Nat) : State :=
  let s := s.opTime ns
  let s := (s.setIsl { s.isl with mbin := [] }).clr SAFE_MB_IN_STAT_OCC
  let x := s.isl
  let k := s.reg LOOP_FRAME_NUM
  let s :=
    if x.resync then (s.setIsl { x with fc := k, resync := false, good := 0 }).islHold 3 true
    else
      let fc := (x.fc + 1) % 2 ^ 32
      let s := s.setIsl { x with fc := fc }
      if ns < 900 ∨ 1100 < ns ∨ fc ≠ k then s.strobeBad ns
      else if s.on (SAFE_HLD 3) then
        let g := x.good + 1
        let s := s.setIsl { s.isl with good := g }
        s.when (decide (16 ≤ g)) fun s => s.islHold 3 false
      else s
  s.when (s.islSt == 3 && s.on SAFE_STATE_TOKENS) fun s => s.bankWrite ((s.isl.fc + 1) % 2 ^ 32)

def execIslandFrameStrobe (ns : Nat) (s : State) : Out :=
  .next (s.when (s.islSt != 0 && s.islSt != 4) fun s => s.doStrobe ns)

/-- A strobe is missing for `ns` (R388). -/
def execStrobeMissing (ns : Nat) (s : State) : Out :=
  .next (s.when (s.islSt != 0 && s.islSt != 4) fun s => s.strobeBad ns)

/-- The epoch word changes: the bank of the next frame to depart is rewritten (R390). -/
def execEpochWordChange (s : State) : Out :=
  let x := s.isl
  let e := s.reg SADL_EPOCH
  .next (s.when (e != x.epoch) fun s => match x.banks with
    | (k, _, _, ok) :: t =>
      if later32 k (s.reg LOOP_FRAME_NUM) then s.setIsl { x with epoch := e, f0 := some k, banks := (k, e, k, ok) :: t }
      else s.setIsl { x with epoch := e, f0 := none }
    | [] => s.setIsl { x with epoch := e, f0 := none })

/-! ### Monitors (R39, R171, R385) -/

/-- Two consecutive heartbeats missed (01_architecture.md R39). -/
def execHeartbeatMiss (s : State) : Out :=
  .next (s.when (!s.on (SAFE_HLD 4) && !s.on (SAFE_HLD 0)) fun s => (s.islHold 0 true).postF srcSAFE 0 1 clsSAFETY 4)

/-- CK_CORE shows no edge for 64 CK_SAFE periods (06_modulation_and_pwm.md R171): lanes in electrical idle, tokens withheld, local
pins at their fused safe levels. -/
def execCoreClockStop (s : State) : Out :=
  .next (s.when (!s.on (SAFE_HLD 4) && !s.on (SAFE_HLD 1)) fun s =>
    let s := s.forEach (List.range 28) fun s l => (s.wr (LANE_STAT_TX_MODE l) 0).laneShow l
    let s := s.forEach (List.range 16) fun s m =>
      (s.setLp m { s.lp m with stopped := true }).lpOff m
    let s := s.islHold 1 true
    s.postF srcSAFE 0 2 clsCLOCK 4)

/-- CK_CORE shows edges again: the hold ends by itself (R399). -/
def execCoreClockResume (s : State) : Out :=
  .next (s.when (s.on (SAFE_HLD 1)) fun s =>
    (s.forEach (List.range 16) fun s m => (s.setLp m { s.lp m with stopped := false }).pins m).islHold 1 false)

/-- The cores differ, or one raises an exception (R385). -/
def State.safetyFail (s : State) (pc : Nat) : State := s.when (s.islSt != 4) fun s => s.islFail.postSafe 0xB clsSAFETY 4 pc

def execLockstepFail (pc : BitVec 32) (s : State) : Out := .next (s.safetyFail pc.toNat)

end Sys2Proof.Machine
end

