-- ==== Sys2Proof/Machine/Prot.lean ====
section
/-! DEFINITION. Machine/Prot.lean: the protection manager as shared operations (09_power_stage_protection.md R254 to R275) and its
commands. -/
namespace Sys2Proof.Machine

/-! ### Events (R256, R257) -/

/-- An event enters the event queue of 16, or is lost (R257); bits [30:12] of the datum of EVQ_LOST are 0, the others are not stated (R256). -/
def State.evPush (s : State) (kind cs : Nat) : State :=
  let x := s.prot
  if x.evq.length < 16 then
    let e := BitVec.ofNat 32 (cs / 16 % 256 + cs % 16 * 256 + kind * 4096 + 65536)
    ({ s with prot := { x with evq := x.evq ++ [e] } }.wr PROT_EVQ_STAT_OCC (x.evq.length + 1)).irq 8
  else
    let s := { s with prot := { x with evLost := true } }.bump PROT_EVQ_STAT_LOST
    let s := s.when (!x.evLost) fun s => (s.post srcPROT 0 0xB clsSTAGE 0 (s.freeNat 12)).drawn
    s.irq 8

/-- Post an event about switch `sw` of cell `c`; `sw` is 0xF for the whole cell. -/
def State.protCell (s : State) (kind sev c sw : Nat) : State :=
  (s.post srcPROT 0 kind clsSTAGE sev (c * 16 + sw)).evPush kind (c * 16 + sw)

/-- Post an event about local channel `m`; the switch of its queue entry is not stated. -/
def State.protLocal (s : State) (kind sev m : Nat) : State :=
  let s := s.post srcPROT 0 kind clsSTAGE sev m
  (s.evPush kind (m * 16 + s.freeNat 4)).drawn

/-! ### Holding (R263) -/

/-- The policy engine is in IDLE or TASK. -/
def State.policyRuns (s : State) : Bool :=
  let st := s.rd (ENG_STAT_STATE (16 + s.rd PROT_CFG_PENG))
  st == 1 || st == 2

/-- Re-arms, pushes and tests may be issued. -/
def State.protOk (s : State) : Bool := s.on PROT_CFG_EN && s.policyRuns

/-- Cells whose re-arm is due, and how many re-arms are held: while the policy engine does not run, every re-arm that is due. -/
def State.dueCells (s : State) : List Nat := (s.protc.filter fun x => x.2.due).map (·.1)
def State.heldRearms (s : State) : Nat := if s.policyRuns then 0 else s.dueCells.length + s.prot.lheld.length

/-- The first hold since the policy engine last ran posts REARM_HELD for cell `c`. -/
def State.protHold (s : State) (c : Nat) : State :=
  s.when (!s.policyRuns && !s.prot.heldPosted) fun s =>
    { s with prot := { s.prot with heldPosted := true, heldLocal := false } }.protCell 0xA 1 c 0xF

/-- The same for local channel `m`. -/
def State.protHoldLocal (s : State) (m : Nat) : State :=
  s.when (!s.policyRuns && !s.prot.heldPosted) fun s =>
    { s with prot := { s.prot with heldPosted := true, heldLocal := true } }.protLocal 0xA 1 m

/-! ### Re-arming (R264 to R268) -/

def State.rstate (s : State) (c : Nat) : Nat := s.rd (PROT_PARC_RSTAT_STATE c)

/-- The write of a re-arm, a push or a test start that waits for its departure. -/
def rearmW (spare : Bool) : MbW := { tag := 0xF1, addr := 0x88, data := 0, apply := 0, lead := true, spare := spare }

/-- Put a re-arm at the head of the cell's writes, before a leakage start (R276). -/
def State.queueRearm (s : State) (c : Nat) (spare : Bool) : State :=
  let x := s.cell c
  let s := s.setCell c { x with mbq := rearmW spare :: x.mbq.filter (fun w => w.tag != 0xF1) }
  s.setPc c { s.pc c with due := true }

/-- Withdraw a re-arm that has not been sent. -/
def State.dropRearm (s : State) (c : Nat) : State :=
  let x := s.cell c
  let s := s.setCell c { x with mbq := x.mbq.filter (fun w => w.tag != 0xF1) }
  s.setPc c { s.pc c with due := false }

/-- Enter WAIT, or restart its wait (R264). -/
def State.protWait (s : State) (c : Nat) : State :=
  let s := s.dropRearm c
  let w := s.rd PROT_CFG_WAIT
  let s := s.setPc c { s.pc c with waitEnd := s.ns + w * 1000000 }
  (s.wr (PROT_PARC_RSTAT_STATE c) 1).wr (PROT_PARC_RSTAT_WAIT_LEFT c) w

/-- Lock a cell out (R265, R268). -/
def State.lockOut (s : State) (c : Nat) : State :=
  s.when (s.rstate c != 3) fun s =>
    let s := s.dropRearm c
    let s := (s.wr (PROT_PARC_RSTAT_STATE c) 3).clr (PROT_PARC_RSTAT_WAIT_LEFT c)
    let s := (s.set1 (CELLCTL_STAT_LOCKOUT c)).wr PROT_STAT_LOCKED (s.rd PROT_STAT_LOCKED + 1)
    (s.bump PROT_CNT2_LOCKOUTS).protCell 5 2 c 0xF

/-- Open a window at the first trip while none is open (R265). -/
def State.openWin (s : State) (c sw : Nat) : State :=
  let x := s.pc c
  let isOpen := x.win.any fun w => w.1 == sw && decide (s.ns - w.2 < s.rd PROT_RETRY_WIN_WIN * 1000000000)
  s.when (!isOpen) fun s =>
    let s := s.setPc c { x with win := (sw, s.ns) :: x.win.filter fun w => w.1 != sw }
    (s.clr (PROT_SREC_ST_TRIES (12 * c + sw))).setReg (PROT_SREC_T_WIN (12 * c + sw)) s.tbSec

/-- A new trip; `k`: 0 desaturation, 1 bootstrap (R255, R264, R265). -/
def State.newTrip (s : State) (c sw k : Nat) : State :=
  let i := 12 * c + sw
  let s := (s.set1 (PROT_SREC_ST_LATCHED i)).wr (PROT_SREC_ST_KIND i) k
  let s := (s.bump (PROT_SREC_ST_TRIPS i)).setReg (PROT_SREC_T_TRIP i) s.stampNs
  let s := s.setBit (if k = 0 then PROT_PARC_RPEND_DESAT c else PROT_PARC_RPEND_BSUV c) sw
  let s := s.bump (if k = 0 then PROT_CNT_DESAT else PROT_CNT_BSUV)
  let s := (s.openWin c sw).protCell (1 + k) 0 c sw
  if s.rstate c = 3 then s
  else if s.rd (PROT_SREC_ST_TRIES i) = s.rd PROT_CFG_TRIES then s.lockOut c
  else if s.rstate c = 2 then s
  else s.protWait c

/-- The switches named in a re-arm's data. -/
def named (d : Nat) : List Nat := (List.range 12).filter fun i => d.testBit i || d.testBit (16 + i)

/-- A named switch whose bits read 0 clears LATCHED. -/
def State.unlatch (s : State) (c sw : Nat) : State :=
  ((s.clr (PROT_SREC_ST_LATCHED (12 * c + sw))).clrBit (PROT_PARC_RPEND_DESAT c) sw).clrBit (PROT_PARC_RPEND_BSUV c) sw

/-- Charge one try. -/
def State.charge (s : State) (c sw : Nat) (spare : Bool) : State :=
  s.when (!spare) fun s => s.bump (PROT_SREC_ST_TRIES (12 * c + sw))

/-- After a re-arm was decided: IDLE with no latched switch left, else WAIT (R266). -/
def State.rearmDone (s : State) (c : Nat) : State :=
  if s.reg (PROT_PARC_RPEND c) = 0 then (s.dropRearm c).wr (PROT_PARC_RSTAT_STATE c) 0 else s.protWait c

/-- The acknowledgement of a re-arm (R266); in LISTEN and STANDBY as if in SENT (12_redundant_pair.md R362). -/
def State.rearmAck (s : State) (c stat rdata data : Nat) (spare : Bool) : State :=
  if s.rstate c = 2 ∨ (s.standby ∧ s.rstate c = 1) then
    if stat = 1 ∨ stat = 2 then
      let s := s.when (!spare) fun s => s.bump PROT_CNT2_REARMS
      let s := s.forEach (named data) fun s sw =>
        (s.charge c sw spare).when (!(rdata.testBit sw || rdata.testBit (16 + sw))) fun s => s.unlatch c sw
      s.rearmDone c
    else s.protWait c
  else s

/-- What the first report of a new link generation, with latches `now`, says of switch `sw` named in the data `d`: a named bit that reads 0
counts as applied and charges the switch; a switch none of whose named bits reads 1 clears LATCHED (R267). -/
def State.rearmBits (s : State) (c sw d now : Nat) (spare : Bool) : State :=
  let gone := fun i => d.testBit i && !now.testBit i
  let stays := fun i => d.testBit i && now.testBit i
  let s := s.when (gone sw || gone (16 + sw)) fun s => s.charge c sw spare
  let s := s.when (gone sw) fun s => s.clrBit (PROT_PARC_RPEND_DESAT c) sw
  let s := s.when (gone (16 + sw)) fun s => s.clrBit (PROT_PARC_RPEND_BSUV c) sw
  s.when (!(stays sw || stays (16 + sw))) fun s => s.clr (PROT_SREC_ST_LATCHED (12 * c + sw))

/-- The first report of a new link generation decides a re-arm that was sent (R267); one that charges a try counts as a re-arm. -/
def State.rearmGen (s : State) (c desat bsuv : Nat) : State :=
  let x := s.pc c
  let now := desat + 65536 * bsuv
  s.when (x.newGen) fun s =>
    let s := s.setPc c { x with newGen := false }
    s.when (s.rstate c == 2) fun s =>
      let s := s.forEach (named x.sent) fun s sw => s.rearmBits c sw x.sent now x.spare
      let s := s.when (!x.spare && Nat.land x.sent now != x.sent) fun s => s.bump PROT_CNT2_REARMS
      s.rearmDone c

/-- A re-arm departs (R264): what it names. -/
def State.rearmSent (s : State) (c : Nat) (w : MbW) : State :=
  let s := s.setPc c { s.pc c with due := false, sent := w.data, spare := w.spare, newGen := false }
  (s.wr (PROT_PARC_RSTAT_STATE c) 2).clr (PROT_PARC_RSTAT_WAIT_LEFT c)

/-! ### Parameters (R259 to R261) -/

/-- SYNC of R261: no DIRTY bit, and MISMATCH clear since the last push began. -/
def State.syncUpd (s : State) (c : Nat) : State :=
  s.wr (PROT_PARC_PSTAT_SYNC c) (bit (s.rd (PROT_PARC_PSTAT_DIRTY c) == 0 && !s.on (PROT_PARC_PSTAT_MISMATCH c) && !(s.pc c).mis))

/-- Address of image register `i` in the device, and of the endpoint register it stands for. -/
def imageReg (c i : Nat) : Nat := PROT_PARC_DT c 0 + 4 * i
def imageEp (i : Nat) : Nat := if i < 4 then 0x20 + 4 * i else if i < 16 then 0x40 + 4 * (i - 4) else 0x80

/-- An image register was written (R259). -/
def State.imageDirty (s : State) (c i : Nat) : State := (s.setBit (PROT_PARC_PSTAT_DIRTY c) i).clr (PROT_PARC_PSTAT_SYNC c)

/-- Start a push of the dirty registers (R260), with MB_APPLY at frame `f` when one is named. -/
def State.pushWith (s : State) (c : Nat) (f : Option Nat) : State :=
  let s := s.setPc c { s.pc c with mis := s.on (PROT_PARC_PSTAT_MISMATCH c) }
  let regs := (List.range 17).filter fun i => s.bitAt (PROT_PARC_PSTAT_DIRTY c) i && (i != 16 || s.on (PROT_PARC_PCTL_OV_EN c))
  let ws := regs.map fun i => ({ tag := 0xF0, addr := imageEp i, data := 0, apply := f.getD 0, lead := f.isNone } : MbW)
  let x := s.cell c
  let s := s.setCell c { x with mbq := x.mbq.filter (fun w => w.tag != 0xF0) ++ ws }
  (s.syncUpd c).protHold c

/-- A push: at PUSH_F with USE_F set, else at the departure frame plus LEAD (R260). -/
def State.pushStart (s : State) (c : Nat) : State :=
  s.pushWith c (if s.on (PROT_PARC_PCTL_USE_F c) then some (s.reg (PROT_PARC_PUSH_F c)) else none)

/-- The books of the chain opened in a new link generation: every image register is pushed, OV with OV_EN (R260). -/
def State.pushAll (s : State) (c : Nat) : State :=
  let s := s.wr (PROT_PARC_PSTAT_DIRTY c) (Nat.lor (s.rd (PROT_PARC_PSTAT_DIRTY c)) (0xFFFF + 65536 * bit (s.on (PROT_PARC_PCTL_OV_EN c))))
  s.pushStart c

/-- The acknowledgement of a pushed write (R261). -/
def State.pushAck (s : State) (c stat rdata : Nat) (w : MbW) : State :=
  let i := if w.addr < 0x40 then (w.addr - 0x20) / 4 else if w.addr < 0x80 then 4 + (w.addr - 0x40) / 4 else 16
  if (stat = 1 ∨ stat = 2 ∨ stat = 3) ∧ rdata = w.data then (s.clrBit (PROT_PARC_PSTAT_DIRTY c) i).syncUpd c
  else
    let s := (s.set1 (PROT_PARC_PSTAT_MISMATCH c)).setPc c { s.pc c with mis := true }
    (s.syncUpd c).protCell 6 1 c 0xF

/-! ### Leakage tests (R270, R271) -/

/-- A result enters LKQ (15_ageing_and_margins.md R412). -/
def State.lkqPush (s : State) (c sw na : Nat) : State :=
  let x := s.prot
  if x.lkq.length < 16 then
    { s with prot := { x with lkq := x.lkq ++ [BitVec.ofNat 32 (satN 20 na + sw * 2 ^ 20 + c * 2 ^ 24)] } }.wr AGE_LKQ_STAT_OCC
      (x.lkq.length + 1)
  else
    let s := { s with prot := { x with lkLost := true } }.bump AGE_LKQ_STAT_LOST
    s.when (!x.lkLost) fun s => s.post srcAGE 0 5 clsSTAGE 0 0

/-- The test of switch `12 c + sw` is next. -/
def State.leakAt (s : State) (i : Nat) : State :=
  (s.wr PROT_LEAK_STAT_CELL (i / 12)).wr PROT_LEAK_STAT_SWITCH (i % 12)
def State.leakIdx (s : State) : Nat := 12 * s.rd PROT_LEAK_STAT_CELL + s.rd PROT_LEAK_STAT_SWITCH

def State.leakAbort (s : State) : State :=
  ((s.clr PROT_LEAK_STAT_BUSY).bump PROT_LEAK_STAT_ABORTS)

/-- Whether switch `i` of the round can be tested. -/
def State.leakElig (s : State) (i : Nat) : Bool :=
  let c := i / 12
  let safe := fun m => m == 1 || m == 2
  s.cellEn c && safe (s.rd (CELLCTL_STAT_MODE_SENT c)) && safe (s.rd (CELLCTL_STAT_MODE_RPT c)) && s.inService (c / 8) &&
    (s.cell c).opened && (decide (i % 12 < 4) || (s.node c).d.dab)

/-- The acknowledgement of a test start. -/
def State.leakAcked (s : State) (c stat : Nat) : State :=
  s.when (s.on PROT_LEAK_STAT_BUSY && s.rd PROT_LEAK_STAT_CELL == c) fun s =>
    if stat = 1 ∨ stat = 2 then { s with prot := { s.prot with leakAck := true } }
    else s.when (stat == 5) fun s => s.leakAbort

/-- LEAK of a report of the tested cell (R271). -/
def State.leakReport (s : State) (c w : Nat) : State :=
  s.when (s.on PROT_LEAK_STAT_BUSY && s.rd PROT_LEAK_STAT_CELL == c && s.prot.leakAck && bitsOf w 5 1 == 0) fun s =>
    if bitsOf w 4 1 = 0 then s.leakAbort
    else s.when (bitsOf w 0 4 == s.rd PROT_LEAK_STAT_SWITCH) fun s =>
      let i := s.leakIdx
      let na := bitsOf w 8 24
      let high := decide (s.rd PROT_LEAK_LIM_NA < na)
      let s := s.setReg (PROT_SREC_LEAK i) (na + 2 ^ 24 + 2 ^ 25 * bit high)
      let s := s.when high fun s => s.protCell 4 1 c (i % 12)
      ((s.lkqPush c (i % 12) na).clr PROT_LEAK_STAT_BUSY).leakAt ((i + 1) % 2304)

/-! ### Reports (R255) -/

/-- What PROT takes from a report with good SCRC; `gen`: it belongs to the present link generation. -/
def State.protReport (s : State) (c : Nat) (gen : Bool) (bs : List Byte) : State :=
  let bsuv := fieldAt bs 50 2 % 4096
  let desat := fieldAt bs 52 2 % 4096
  let fault := fieldAt bs 54 2
  let s := s.when gen fun s => s.rearmGen c desat bsuv
  let s := s.forEach (List.range 12) fun s sw =>
    s.when ((desat.testBit sw || bsuv.testBit sw) && !s.on (PROT_SREC_ST_LATCHED (12 * c + sw))) fun s =>
      s.newTrip c sw (if desat.testBit sw then 0 else 1)
  let s := s.when (fault % 2 == 1 && (s.cell c).fault % 2 == 0) fun s => s.protCell 3 0 c 0xF
  let s := s.setCell c { s.cell c with fault := fault }
  s.leakReport c (fieldAt bs 56 4)

/-- PROT claims an acknowledgement with one of its tags (R262). -/
def State.protAck (s : State) (c tag stat rdata : Nat) (w : Option MbW) : State :=
  if tag = 0xF0 then (match w with
    | some w => s.pushAck c stat rdata w
    | none => s)
  else if tag = 0xF1 then (match w with
    | some w => s.rearmAck c stat rdata w.data w.spare
    | none => s.rearmAck c stat rdata (s.pc c).sent (s.pc c).spare)
  else if tag = 0xF2 then s.leakAcked c stat
  else s

/-! ### Local channels (R272) -/

/-- A local channel trips. With AUTO set, a trip that finds TRIES at CFG.TRIES, or past it after refused re-arms, uses up the tries
(notes/assumptions/110.md). -/
def State.protTrip (s : State) (m : Nat) : State :=
  let x := s.prot
  let s := (s.bump (PROT_LREC_ST_TRIPS m)).setReg (PROT_LREC_T_TRIP m) s.stampNs
  let isOpen := x.lwin.any fun w => w.1 == m && decide (s.ns - w.2 < s.rd PROT_RETRY_WIN_WIN * 1000000000)
  let s := s.when (!isOpen) fun s =>
    let s := { s with prot := { s.prot with lwin := (m, s.ns) :: x.lwin.filter fun w => w.1 != m } }
    (s.clr (PROT_LREC_ST_TRIES m)).setReg (PROT_LREC_T_WIN m) s.tbSec
  let s := s.protLocal 7 0 m
  if !s.on (PROT_LREC_CFG_AUTO m) then s
  else if s.rd PROT_CFG_TRIES ≤ s.rd (PROT_LREC_ST_TRIES m) then
    let s := (s.clr (PROT_LREC_ST_WAIT m)).set1 (PROT_LREC_ST_EXHAUST m)
    s.protLocal 8 2 m
  else s.when (!s.on (PROT_LREC_ST_EXHAUST m)) fun s => s.set1 (PROT_LREC_ST_WAIT m)

/-- Write REARM for a channel whose wait has passed: accepted or refused, it charges one try, and a refused one starts a new wait. A channel
that a program re-armed meanwhile needs none. -/
def State.protRearmLocal (s : State) (m : Nat) : State :=
  if !s.on (LPWM_STAT_TRIPPED m) then s.clr (PROT_LREC_ST_WAIT m)
  else
    let r := s.lpRearm m
    let s := r.2.bump (PROT_LREC_ST_TRIES m)
    s.wr (PROT_LREC_ST_WAIT m) (bit (!r.1))

/-- The retry wait of a local channel ends. -/
def State.protWaitEnd (s : State) (m : Nat) : State :=
  s.when (s.on (PROT_LREC_ST_WAIT m) && s.on (PROT_LREC_CFG_AUTO m) && !s.on (PROT_LREC_ST_EXHAUST m)) fun s =>
    if s.protOk then s.protRearmLocal m
    else
      let s := s.when (!s.prot.lheld.contains m) fun s => { s with prot := { s.prot with lheld := s.prot.lheld ++ [m] } }
      s.protHoldLocal m

/-- The policy engine, or CFG, changed: once the engine runs, the next hold posts again, and with EN the local re-arms that waited go; when it
stops, the re-arms that are due are held (R263, R276). -/
def State.protRelease (s : State) : State :=
  if s.policyRuns then
    let s := { s with prot := { s.prot with heldPosted := false } }
    s.when (s.on PROT_CFG_EN) fun s =>
      let l := s.prot.lheld
      { s with prot := { s.prot with lheld := [] } }.forEach l fun s m => s.protRearmLocal m
  else match s.dueCells, s.prot.lheld with
    | c :: _, _ => s.protHold c
    | [], m :: _ => s.protHoldLocal m
    | [], [] => s

/-! ### The dump path (R273) -/

/-- DUMP_OUT turns on. -/
def State.dumpOn (s : State) : State :=
  s.when (!s.on PROT_DUMP_STAT_ACTIVE) fun s =>
    let s := { s with prot := { s.prot with shot := true } }
    let s := (s.set1 PROT_DUMP_STAT_ACTIVE).bump PROT_DUMP_STAT_COUNT
    let d := s.freeNat 12
    let s := s.post srcPROT 0 9 clsSTAGE 1 d
    (s.evPush 9 d).drawn

/-- The level of DUMP_OUT: 0 low, 1 high, 2 high impedance. In BOOT, while a reset is held off, and while the path is not enabled, its fused safe level; else its on level
POL while ACTIVE, and its off level (R273, R275, 01_architecture.md R32). -/
def State.dumpPin (s : State) : Nat :=
  if s.dev = 0 ∨ s.sys.heldOff ∨ !s.on PROT_DUMP_CFG_EN then s.rd PROT_DUMP_STAT_SAFE_LVL
  else if s.on PROT_DUMP_STAT_ACTIVE then s.rd PROT_DUMP_CFG_POL else 1 - s.rd PROT_DUMP_CFG_POL

/-- The trip line of the dump comparator, or the enable, changed. -/
def State.dumpEval (s : State) (line : Bool) : State :=
  let s := s.wr PROT_DUMP_STAT_IN (bit line)
  if !s.on PROT_DUMP_CFG_EN then { s.clr PROT_DUMP_STAT_ACTIVE with prot := { s.prot with shot := false } }
  else if line then s.dumpOn
  else if s.prot.shot then s
  else s.clr PROT_DUMP_STAT_ACTIVE

/-! ### Commands -/

/-- A retry wait ends (R263, R264). -/
def State.doRetryWaitEnd (s : State) (c : Nat) : State :=
  s.when (s.rstate c == 1 && !(s.pc c).due) fun s =>
    ((s.clr (PROT_PARC_RSTAT_WAIT_LEFT c)).queueRearm c false).protHold c

def execRetryWaitEnd (c : Fin 192) (s : State) : Out := .next (s.doRetryWaitEnd c)

/-- A write of UNLOCK with GO (R268). -/
def State.doUnlock (s : State) (c : Nat) : State :=
  let m := s.rd (CELLCTL_STAT_MODE_RPT c)
  if m = 1 ∨ m = 2 then
    let s := s.wr PROT_UNLOCK_CELL c
    let s := s.when (s.rstate c == 3) fun s => s.wr PROT_STAT_LOCKED (s.rd PROT_STAT_LOCKED - 1)
    let s := s.clr (CELLCTL_STAT_LOCKOUT c)
    let s := s.forEach (List.range 12) fun s sw => s.clr (PROT_SREC_ST_TRIES (12 * c + sw))
    let s := s.setPc c { s.pc c with win := [] }
    if s.reg (PROT_PARC_RPEND c) = 0 then (s.dropRearm c).wr (PROT_PARC_RSTAT_STATE c) 0
    else
      ((s.wr (PROT_PARC_RSTAT_STATE c) 1).queueRearm c true).protHold c
  else postConfig srcPROT 0 0xF1 1 PROT_UNLOCK s

def execProtUnlock (c : Fin 192) (s : State) : Out := .next (s.doUnlock c)

def execParamPush (c : Fin 192) (s : State) : Out := .next (s.pushStart c)

/-- A read of EVQ returns the oldest entry and removes it (R257): its value, and the state after. -/
def State.evqRead (s : State) : Nat × State :=
  match s.prot.evq with
  | [] => (0, s)
  | e :: t =>
    (e.toNat, { s with prot := { s.prot with evq := t, evLost := s.prot.evLost && !t.isEmpty } }.wr PROT_EVQ_STAT_OCC t.length)

def execEvqRead (s : State) : Out := .next s.evqRead.2

/-- The next test of the round starts (R270). -/
def State.doLeakInterval (s : State) : State :=
  s.when (s.on PROT_LEAK_CFG_EN && !s.on PROT_LEAK_STAT_BUSY) fun s =>
    match ((List.range 2304).map fun k => (s.leakIdx + k) % 2304).find? s.leakElig with
    | none => s
    | some i =>
      let s := (s.leakAt i).set1 PROT_LEAK_STAT_BUSY
      let s := { s with prot := { s.prot with leakAck := false } }
      let c := i / 12
      let x := s.cell c
      let w : MbW := { tag := 0xF2, addr := 0x90, data := i % 12 + 256 + s.rd PROT_LEAK_CFG_DUR * 65536, apply := 0, lead := true }
      (s.setCell c { x with mbq := x.mbq ++ [w] }).protHold c

def execLeakInterval (s : State) : Out := .next s.doLeakInterval

/-- No result by DUR + 10 ms after the apply frame (R271). -/
def execLeakTimeout (s : State) : Out := .next (s.when (s.on PROT_LEAK_STAT_BUSY) State.leakAbort)

def execLpwmRetryWaitEnd (m : Fin 16) (s : State) : Out := .next (s.protWaitEnd m)

/-- The one-shot of the dump path and EXT have ended (R273). -/
def execDumpOneshotEnd (s : State) : Out :=
  let s := { s with prot := { s.prot with shot := false } }
  .next (s.when (!s.on PROT_DUMP_STAT_IN) fun s => s.clr PROT_DUMP_STAT_ACTIVE)

/-- The trip input of a local channel is active (06_modulation_and_pwm.md R175), and PROT records the trip (R272). -/
def execLpwmTrip (m : Fin 16) (s : State) : Out :=
  let t := s.lpTrip m
  .next (t.when (!s.on (LPWM_STAT_TRIPPED m) && t.on (LPWM_STAT_TRIPPED m)) fun s => s.protTrip m)

end Sys2Proof.Machine
end

