-- ==== Sys2Proof/Machine/Analogue.lean ====
section
/-! DEFINITION. Machine/Analogue.lean: the die-to-die link (01_architecture.md R16, R17), converters, comparators, temperature and
wake (10_analogue_and_thermal.md R280 to R301), as shared operations. -/
namespace Sys2Proof.Machine

def State.postAna (s : State) (inst kind sev : Nat) : State := s.postF srcANA inst kind clsANALOG sev

/-- The die-to-die link is up. -/
def State.linkUp (s : State) : Bool := s.on SYS_D2D_STAT_UP

/-- A flit that passed its CRC arrives: whether the inbound queue of 32 takes it, or discards and counts it (01_architecture.md R22). The
queue only fills while CK_CORE stands still. -/
def State.flitIn (s : State) : Bool × State :=
  if !s.on (SAFE_HLD 1) && s.dev != 5 then (true, { s with sys := { s.sys with d2dq := 0 } })
  else if s.sys.d2dq < 32 then (true, { s with sys := { s.sys with d2dq := s.sys.d2dq + 1 } })
  else (false, (s.bump SYS_D2D_STAT_CRC_ERR).postAna 4 3 1)

/-- A flit with a load fails its CRC: the load is lost (01_architecture.md R17). -/
def State.loseLoad (s : State) (x : D2dLoad) : State := s.when (x != .idle) fun s => s.setSys { s.sys with lost := x :: s.sys.lost }

/-- Whether the next load of a kind was lost, and the state once it was due. -/
def State.takeLoss (s : State) (x : D2dLoad) : Bool × State :=
  (s.sys.lost.contains x, s.setSys { s.sys with lost := s.sys.lost.erase x })

/-! ### Comparators (R291 to R296) -/

def cEN (x : CmpH) : Bool := x.ctl % 2 == 1
def cMODE (x : CmpH) : Nat := bitsOf x.ctl 1 2
def cRES (x : CmpH) : Nat := bitsOf x.ctl 3 2
def cLATCH (x : CmpH) : Nat := bitsOf x.ctl 8 2
def cINIT (x : CmpH) : Nat := bitsOf x.ctl 14 2

/-- The DAC code in use: coarser resolutions ignore low bits (R291). -/
def cCode (x : CmpH) : Nat := x.dac / 4 ^ cRES x * 4 ^ cRES x

/-- VREF in nanovolts (R280). -/
def vref : Nat := 2500000000

/-- A level in nanovolts, times 4,096: CODE * VREF (R291). -/
def cLevel (x : CmpH) : Int := (cCode x * vref : Nat)
/-- HYST in nanovolts (R293). -/
def cHyst (x : CmpH) : Int := ([0, 10000000, 20000000, 40000000][bitsOf x.ctl 5 2]?).getD 0
def cPOL (x : CmpH) : Bool := bitsOf x.ctl 7 1 == 1

/-- An input of `v` nV asserts, or deasserts, the raw output against a level of `l` (R293); between the two switching points it does neither. -/
def rawAsserts (x : CmpH) (l v : Int) : Bool := if cPOL x then decide (v * 4096 < l) else decide (l < v * 4096)
def rawDeasserts (x : CmpH) (l v : Int) : Bool :=
  if cPOL x then decide (l + cHyst x * 4096 < v * 4096) else decide (v * 4096 < l - cHyst x * 4096)

/-- The level of comparator `i` now, times 4096, and the state once it was taken: while the DAC settles somewhere between the old level and the
new; while the reference is not ready undefined (R281, R291). -/
def State.cmpLevel (s : State) (i : Nat) : Int × State :=
  let x := s.cmp i
  if !s.on ANA_REF_CTL_READY then ((s.freeNat 44 : Nat), s.drawn)
  else if s.on (CMP_STAT_SETTLING i) then
    let lo := min x.lo (cCode x)
    let hi := max x.hi (cCode x)
    ((lo * vref + s.freeNat 32 * ((hi - lo) * vref) / 2 ^ 32 : Nat), s.drawn)
  else (cLevel x, s)

/-- A protection route names comparator `i` (R294). -/
def State.routed (s : State) (i : Nat) : Bool :=
  ((List.range 16).any fun m => s.on (LPWM_CTL_TRIP_EN m) && s.rd (LPWM_CTL_TRIP_SEL m) == i) ||
    (s.on PROT_DUMP_CFG_EN && s.rd PROT_DUMP_CFG_CMP == i)

/-- INIT_STATE (R294). -/
def State.initState (s : State) (i : Nat) : Bool :=
  let k := cINIT (s.cmp i)
  if k = 0 then s.routed i else k == 1

/-- The output of comparator `i` after its hold, before the latch (R294, R295). -/
def State.cmpHeldOut (s : State) (i : Nat) : Bool :=
  if s.on (CMP_STAT_HELD i) then s.initState i else cEN (s.cmp i) && s.on (CMP_STAT_RAW i)

/-- An edge of capture source `src`, 0 to 23 the trip lines and 24 PPS_IN, reaches capture unit `k`, `q` quarters of a nanosecond after
the present tick (11_clocks_timebase_network_time.md R326). -/
def State.doCapture (s : State) (k src : Nat) (rising : Bool) (q : Nat) : State :=
  s.when (s.tbRuns && s.on (TB_CAP_CFG_EN k) && s.rd (TB_CAP_CFG_SRC k) == src && s.on (TB_CAP_CFG_EDGE k) != rising) fun s =>
    if s.on (TB_CAP_STAT_NEW k) then s.bump (TB_CAP_STAT_OVR k)
    else
      let t := s.tb / 2 ^ 22 + q
      let n := t / 4
      let s := (s.wr (TB_CAP_NS_NS k) (n % 1000000000)).wr (TB_CAP_NS_QTR k) (t % 4)
      (s.setReg (TB_CAP_SEC k) (n / 1000000000)).set1 (TB_CAP_STAT_NEW k)

/-- The destinations of a trip line follow it: captures, local trips (06_modulation_and_pwm.md R175), DUMP_OUT
(09_power_stage_protection.md R273) and, at a rise, the trace trigger (19_host_interface_and_trace.md R502). -/
def State.tripLine (s : State) (i : Nat) (b : Bool) : State :=
  let s := s.forEach (List.range 8) fun s k => s.doCapture k i b 0
  let s := s.forEach (List.range 16) fun s m => s.when (s.rd (LPWM_CTL_TRIP_SEL m) == i) fun s => s.wr (LPWM_STAT_TRIP_IN m) (bit b)
  let s := s.when (s.rd PROT_DUMP_CFG_CMP == i) fun s => s.dumpEval b
  s.when b fun s => s.trcCmp i

/-- The device leaves DORMANT (R301, 01_architecture.md R39): cause, READY, the comparators' configured modes, the indication to
the island. -/
def State.wake (s : State) (cause : Nat) : State :=
  s.when (s.dev == 5) fun s =>
    let s := s.wr ANA_WAKE_CAUSE cause
    let s := (s.setDev 1).lanesTry
    let s := s.forEach (List.range 24) fun s i => s.wr (CMP_STAT_MODE_ACT i) (cMODE (s.cmp i))
    let s := s.islHold 4 false
    s.forEach (List.range 16) fun s m => s.pins m

/-- The output on the trip line of comparator `i` follows its hold and latch (R295). -/
def State.cmpEval (s : State) (i : Nat) : State :=
  let x := s.cmp i
  let h := s.cmpHeldOut i
  let lat := (cLATCH x == 1 || cLATCH x == 2) && (s.on (CMP_STAT_LATCHED i) || h)
  let s := s.wr (CMP_STAT_LATCHED i) (bit lat)
  let out := h || (cEN x && lat)
  let was := s.on (CMP_STAT_OUT i)
  let s := s.wr (CMP_STAT_OUT i) (bit out)
  if out && !was then
    let s := (s.set1 (CMP_STAT_EVENT i)).bump (CMP_CNT_ASSERTS i)
    let s := s.when (s.on (CMP_CTL_IRQ_EN i)) fun s => s.irq 10
    let s := s.tripLine i true
    s.when (s.on (CMP_CTL_WAKE_EN i)) fun s => s.wake i
  else if !out && was then s.tripLine i false
  else s

/-- The output is held at INIT_STATE (R294). -/
def State.cmpHold (s : State) (i : Nat) : State := (s.set1 (CMP_STAT_HELD i)).cmpEval i

/-- The settings of comparator `i` reach the mixed-signal die, when the link is up (R291, R292, R294, R296, 01_architecture.md
R17); those in a flit whose CRC failed do not. The DAC settles after enable, from a level left open, and after a change of the code bits
in use. -/
def State.cmpApply (s : State) (i : Nat) : State :=
  let x := s.cmp i
  let y : CmpH := { x with ctl := s.reg (CMP_CTL i), dac := s.reg (CMP_DAC i) }
  let r := s.takeLoss (.setting (Fin.ofNat 24 i))
  if !s.linkUp || x == y then s
  else if r.1 then r.2
  else
    let moves := cEN y && (!cEN x || cCode x != cCode y)
    let s := s.setCmp i (if !moves then y else if !cEN x then { y with lo := 0, hi := 4095 }
      else if s.on (CMP_STAT_SETTLING i) then { y with lo := min x.lo (cCode x), hi := max x.hi (cCode x) }
      else { y with lo := cCode x, hi := cCode x })
    let s := s.when moves fun s => s.set1 (CMP_STAT_SETTLING i)
    let s := s.wr (CMP_STAT_MODE_ACT i) (if s.dev = 5 ∧ cEN y then 2 else cMODE y)
    if cEN y && !cEN x then s.cmpHold i
    else if !cEN y then ((s.clr (CMP_STAT_HELD i)).clr (CMP_STAT_SETTLING i)).cmpEval i
    else s.cmpEval i

/-- Enabling a protection route re-holds the comparator it names (R294). -/
def State.routeOn (s : State) (i : Nat) : State := s.when (decide (i < 24) && cEN (s.cmp i)) fun s => s.cmpHold i

/-- A route no longer names comparator `i`: an output still held follows INIT_STATE (R294). -/
def State.routeOff (s : State) (i : Nat) : State := s.when (decide (i < 24) && s.on (CMP_STAT_HELD i)) fun s => s.cmpEval i

/-- The carrier zero of local channel `m` clears latches of LATCH = 2 (R295). -/
def State.cmpCarrier (s : State) (m : Nat) : State :=
  s.forEach (List.range 24) fun s i =>
    let x := s.cmp i
    s.when (cLATCH x == 2 && bitsOf x.ctl 10 4 == m && !s.cmpHeldOut i) fun s => (s.clr (CMP_STAT_LATCHED i)).cmpEval i

/-! ### Link (01_architecture.md R17) -/

/-- A valid flit after the link was down: the settings held are sent first. -/
def State.linkRetrain (s : State) : State :=
  let s := s.set1 SYS_D2D_STAT_UP
  let s := s.forEach (List.range 4) fun s a => s.clr (ADC_STAT_LINK_DN a)
  s.forEach (List.range 24) fun s i => s.cmpApply i

/-- The link goes down. -/
def State.linkDown (s : State) : State :=
  s.when s.linkUp fun s =>
    let s := s.clr SYS_D2D_STAT_UP
    let s := s.forEach (List.range 4) fun s a => s.set1 (ADC_STAT_LINK_DN a)
    s.postAna 4 2 3

/-! ### Converters (R280 to R290) -/

/-- A conversion or a sequence is in progress (R285, R286). -/
def State.adcBusy (s : State) (a : Nat) : Bool := s.on (ADC_STAT_BUSY a)

/-- Start the sequence of a trigger whose sample instant was to be `t0`; `late`: an urgent conversion delayed it (R286). -/
def State.adcStart (s : State) (a t0 len : Nat) (late : Bool) : State :=
  let s := s.setAdc a { s.adc a with at0 := max t0 s.t16, last := len, late := late, ain := none, waitE := none }
  ((s.set1 (ADC_STAT_BUSY a)).set1 (ADC_STAT_SEQ a)).clr (ADC_STAT_STEP a)

/-- A trigger is missed (R286). -/
def State.trigMiss (s : State) (a : Nat) : State := (s.bump (ADC_DROP_COUNT_TRIG_MISS a)).postAna a 4 0

/-- An event of source `src` (1 a time trigger, 2 a carrier zero, 3 a turn-on edge of a local channel) with number `sel`: E of the converters
whose CTL selects it, with S = E + 40 ns + DELAY (R283); in DORMANT it is ignored (R286). -/
def State.adcEvent (s : State) (src sel : Nat) : State :=
  s.forEach (List.range 4) fun s a =>
    s.when (s.dev != 5 && s.on (ADC_CTL_EN a) && s.rd (ADC_CTL_TRIG_SRC a) == src && s.rd (ADC_CTL_TRIG_SEL a) == sel) fun s =>
      s.setAdc a { s.adc a with evq := (s.adc a).evq ++ [(s.t16 + 640 + 16 * s.rd (ADC_CTL_DELAY a), s.rd (ADC_CTL_SEQ_LEN a))] }

/-- The oldest event E reaches the converter (R283, R286). -/
def State.adcTrigger (s : State) (a : Nat) : State :=
  match (s.adc a).evq with
  | [] => s
  | (t0, len) :: q =>
    let s := s.setAdc a { s.adc a with evq := q }
    if !s.linkUp then s.trigMiss a
    else if s.on (ADC_STAT_SEQ a) || s.on (ADC_STAT_CAL a) || (s.adc a).waitE.isSome then s.trigMiss a
    else if s.on (ADC_STAT_URG a) then s.setAdc a { s.adc a with waitE := some (t0, len) }
    else s.adcStart a t0 len false

/-- A request for an urgent conversion (R285, R286); an event E that has occurred goes first. -/
def State.adcUrgent (s : State) (a : Nat) : State :=
  if s.dev = 5 ∨ !s.on (ADC_CTL_EN a) then s
  else if !s.linkUp || s.adcBusy a || !(s.adc a).evq.isEmpty then s.bump (ADC_DROP_COUNT_DROPS a)
  else
    let s := s.setAdc a { s.adc a with urgAt := s.t16 + 640, urgIn := 8 * a + s.rd (ADC_URG_IN a) }
    (s.set1 (ADC_STAT_BUSY a)).set1 (ADC_STAT_URG a)

/-- LO word of a record and the window of its register (R288, R290): (state OUTSIDE after it, EVENT). -/
def State.window (s : State) (a k v : Nat) : Bool × Bool :=
  let out := s.on (ADC_WIN_CTL_OUT a k)
  let lo := s.rd (ADC_WIN_LIM_LO a k)
  let hi := s.rd (ADC_WIN_LIM_HI a k)
  let h := s.rd (ADC_WIN_CTL_HYST a k)
  if !s.on (ADC_WIN_CTL_EN a k) then (out, false)
  else if v < lo ∨ hi < v then (true, !out)
  else if lo + h ≤ v ∧ v + h ≤ hi then (false, false)
  else (out, false)

/-- A record reaches register `k` (16 is URES) and its copy in shared SRAM (R284, R288). -/
def State.adcRecord (s : State) (a k v ain t : Nat) (late urg : Bool) (seq : Nat) : State :=
  let (out, ev) := if k < 16 then s.window a k v else (false, false)
  let s := s.when (decide (k < 16)) fun s => s.wr (ADC_WIN_CTL_OUT a k) (bit out)
  let s := s.when ev fun s =>
    (s.set1 (ADC_WIN_CTL_EVENT a k)).when (s.on (ADC_WIN_CTL_IRQ_EN a k)) fun s => s.irq 10
  let lo := v + ain * 2 ^ 16 + bit (!s.on ANA_REF_CTL_READY) * 2 ^ 21 + bit late * 2 ^ 22 + bit urg * 2 ^ 23 + bit out * 2 ^ 24 +
    seq * 2 ^ 28
  let hi := (t / 16 % 1000000000) % 2 ^ 28 + seq * 2 ^ 28
  let s := if k < 16 then (s.setReg (ADC_RES_LO a k) lo).setReg (ADC_RES_HI a k) hi
    else (s.setReg (ADC_URES_LO a) lo).setReg (ADC_URES_HI a) hi
  s.when (s.on (ADC_DST_EN a)) fun s =>
    let d := s.rd (ADC_DST_ADDR a) * 8 + 8 * k
    s.when (inSram (d + 7)) fun s => s.putMem d (toBytes 4 lo ++ toBytes 4 hi)

/-- A conversion ends with code `v`: its record, with the incremented sequence number (R288), is delivered while the link is up, its flit
is good and the inbound queue takes it. -/
def State.adcDeliver (s : State) (a k v ain t : Nat) (late urg : Bool) : State :=
  let x := s.adc a
  let seq := (Tbl.get (fun _ => 0) x.seq k + 1) % 16
  let s := s.setAdc a { x with seq := Tbl.set (fun _ => 0) x.seq k seq }
  let l := s.takeLoss (.result (Fin.ofNat 4 a))
  let s := l.2
  if !s.linkUp || l.1 then s
  else
    let r := s.flitIn
    if r.1 then r.2.adcRecord a k v ain t late urg seq else r.2

/-- The input of step `i` of a sequence. -/
def State.adcIn (s : State) (a i : Nat) : Nat := 8 * a + (if i < 8 then s.rd (ADC_SEQA_IN a i) else s.rd (ADC_SEQB_IN a (i - 8)))

/-- The result code of an input of `v` nV: floor(VIN * 65,536 / VREF), saturated (R280). -/
def adcCode (v : Int) : Nat := (min 65535 (v * 65536 / vref)).toNat

/-- The running conversion of converter `a`, of an input at `v` nV, ends 200 ns after its sample instant (R282, R284, R286). The next step of a
sequence samples at that instant. -/
def State.adcDone (s : State) (a : Nat) (v : Int) : State :=
  let x := s.adc a
  if s.on (ADC_STAT_URG a) then
    let s := s.timeTo ((x.urgAt + 3200) * 2 ^ 20)
    let s := (s.clr (ADC_STAT_URG a)).clr (ADC_STAT_BUSY a)
    let s := s.adcDeliver a 16 (adcCode v) x.urgIn x.urgAt false true
    match x.waitE with
    | some (t0, len) => s.adcStart a t0 len true
    | none => s
  else if s.on (ADC_STAT_SEQ a) then
    let i := s.rd (ADC_STAT_STEP a)
    let s := s.timeTo ((x.at0 + 3200 * (i + 1)) * 2 ^ 20)
    let s := s.adcDeliver a i (adcCode v) (x.ain.getD (s.adcIn a i)) (x.at0 + 3200 * i) x.late false
    if i = x.last then
      (((s.clr (ADC_STAT_SEQ a)).clr (ADC_STAT_BUSY a)).clr (ADC_STAT_STEP a)).setAdc a { s.adc a with ain := none }
    else (s.wr (ADC_STAT_STEP a) (i + 1)).setAdc a { s.adc a with ain := some (s.adcIn a (i + 1)) }
  else s

/-- Before SEQA or SEQB changes, the step of a running sequence whose sample instant has passed keeps the input it sampled. -/
def State.adcSampled (s : State) (a : Nat) : State :=
  let x := s.adc a
  s.when (s.on (ADC_STAT_SEQ a) && x.ain.isNone && decide (x.at0 ≤ s.t16)) fun s =>
    s.setAdc a { x with ain := some (s.adcIn a (s.rd (ADC_STAT_STEP a))) }

/-- A request for a calibration (R287), a command of the die-to-die link (01_architecture.md R16): without the link it is refused
(notes/assumptions/94.md); one in a bad flit is lost. -/
def State.adcCalReq (s : State) (a : Nat) : State :=
  let ok := match (s.adc a).win with
    | some w => decide (s.t16 + 640000 ≤ w + 16000 * s.rd (ADC_CAL_WIN_LEN a))
    | none => false
  let l := s.takeLoss (.cal (Fin.ofNat 4 a))
  if !(ok && !s.adcBusy a && s.dev != 5 && s.linkUp) then s.bump (ADC_CAL_REFUSED a)
  else if l.1 then l.2
  else (s.set1 (ADC_STAT_BUSY a)).set1 (ADC_STAT_CAL a)

/-- The converters stop on entry to DORMANT (R301). -/
def State.adcStop (s : State) (a : Nat) : State :=
  let s := ((s.clr (ADC_STAT_BUSY a)).clr (ADC_STAT_SEQ a)).clr (ADC_STAT_URG a)
  ((s.clr (ADC_STAT_CAL a)).clr (ADC_STAT_STEP a)).setAdc a { s.adc a with waitE := none, evq := [], ain := none }

/-- Windows of calibration open at each event of trigger `tt` (R287). -/
def State.adcWindows (s : State) (tt : Nat) : State :=
  s.forEach (List.range 4) fun s a => s.when (s.rd (ADC_CAL_WIN_TT a) == tt) fun s => s.setAdc a { s.adc a with win := some s.t16 }

/-! ### Temperature (R297 to R300) -/

/-- Too-hot votes of group `g`. -/
def State.hotVotes (s : State) (g : Nat) : Nat :=
  ([0, 1, 2].filter fun i => s.bitAt THM_HOT_HOT (3 * g + i) || s.bitAt THM_STAT_BROKEN (3 * g + i)).length

/-- The votes follow the sensors; a shutdown that begins drives S4 and S5 and withholds tokens (R299, R300). `sn` is the sensor
at which it began. -/
def State.voteEval (s : State) (sn : Nat) : State :=
  let s := s.forEach (List.range 4) fun s g => s.wr ⟨THM_STAT, 12 + g, 1⟩ (bit (decide (2 ≤ s.hotVotes g)))
  let sd := s.on THM_STAT_VOTE
  let was := s.on THM_STAT_SD
  let s := s.wr THM_STAT_SD (bit sd)
  let s := s.when (sd != was) fun s => s.islHold 2 sd
  s.when (sd && !was) fun s => (s.bump THM_CNT_SHUTDOWNS).postF srcTHM sn 2 clsTHERMAL 5

/-- Start a measurement of a sensor; a running one is shared (R246, R298). -/
def State.thmStart (s : State) (i : Nat) : State :=
  s.when (!s.sys.thm.contains i) fun s =>
    { s.wr ⟨THM_RES i, 21, 1⟩ 1 with sys := { s.sys with thm := i :: s.sys.thm } }

/-- A measurement ends at `v` sixteenths of a degree (08_qorov_instruction_set.md R245, R246, R298). -/
def State.thmDone (s : State) (i v : Nat) : State :=
  s.when (s.sys.thm.contains i) fun s =>
    let l := s.takeLoss (.temp (Fin.ofNat 12 i))
    let bad := s.bitAt THM_STAT_BROKEN i || (decide (9 ≤ i) && (!s.linkUp || l.1))
    let s := s.when (decide (9 ≤ i)) fun _ => l.2
    let n := (bitsOf (s.reg (THM_RES i)) 16 4 + 1) % 16
    let t := if bad then s.freeNat 16 else v
    let s := { s with sys := { s.sys with thm := s.sys.thm.filter (· != i) } }
    (s.when bad State.drawn).setReg (THM_RES i) (t + n * 2 ^ 16 + bit (!bad) * 2 ^ 20)

/-! ### DORMANT (R301, 01_architecture.md R39) -/

/-- A comparator that would wake the device now. -/
def State.wakeNow (s : State) : Option Nat := (List.range 24).find? fun i => s.on (CMP_CTL_WAKE_EN i) && s.on (CMP_STAT_OUT i)

/-- Wake the device when a comparator calls for it. -/
def State.wakeIfDue (s : State) : State :=
  match s.wakeNow with
  | some i => s.wake i
  | none => s

/-- Enter DORMANT: lanes DOWN, converters stopped, comparators LOW, the indication to the island. -/
def State.dormant (s : State) : State :=
  let s := s.setDev 5
  let s := s.forEach (List.range 28) fun s l => s.when (s.laneSt l != 0) fun s => s.laneDown l
  let s := s.forEach (List.range 4) fun s a => s.adcStop a
  let s := s.forEach (List.range 24) fun s i => s.when (cEN (s.cmp i)) fun s => s.wr (CMP_STAT_MODE_ACT i) 2
  let s := s.islHold 4 true
  let s := s.forEach (List.range 16) fun s m => s.lpOff m
  s.wakeIfDue

end Sys2Proof.Machine
end

