-- ==== Sys2Proof/Machine/System.lean ====
section
/-! DEFINITION. Machine/System.lean: the set for power conversion (01_architecture.md R35, R38) and requests for a device state
(R32, R33). -/
namespace Sys2Proof.Machine

/-- Slot `j` of engine `n` is enabled. -/
def State.slotEn (s : State) (n j : Nat) : Bool := s.on (ENG_TASK_CFG_EN n j)
def State.anySlot (s : State) (n : Nat) : Bool := (List.range 8).any (s.slotEn n)

/-- Rails above their reset levels. -/
def State.railsUp (s : State) (l : List Nat) : Bool := l.all fun r => !s.sys.low.contains r

/-- REFCLK is present: qualified, or the system ADPLL is locked or coasts, which counts as locked (R37, notes/assumptions/94.md). -/
def State.refPresent (s : State) : Bool := s.on CLK_SYS_STAT_REF_OK || s.on CLK_SYS_STAT_LOCK

/-- The first row of R35, debug authentication apart: VCORE, VIO, VIO33 and VSAFE, REFCLK, SE0. -/
def State.baseSet (s : State) : Bool := s.railsUp [0, 4, 5, 8] && s.refPresent && s.engRuns 16
/-- The second row of R35, the host link apart: VPHY and VPHYH besides. -/
def State.hostSet (s : State) : Bool := s.baseSet && s.railsUp [2, 3]

/-- The set for power conversion (R35); an ADPLL that coasts counts as locked (R37). -/
def State.powerSet (s : State) : Bool :=
  s.hostSet && s.railsUp [1, 9] && s.on CLK_SYS_STAT_LOCK && s.on CLK_TB_STAT_LOCK && !s.limp &&
    s.on SAFE_STATE_TOKENS && ((List.range 16).any fun n => s.engRuns n && s.anySlot n) && (List.range 24).any s.inService

/-- An element of the set may have been lost (R38). -/
def State.powerCheck (s : State) : State := s.when (!s.powerSet) State.powerLost

/-- A request is refused (R33). -/
def State.stateRefuse (s : State) (t : Nat) : State :=
  ((s.wr SYS_STATE_REQ_TARGET t).set1 SYS_STATE_REQ_REFUSED).post srcSYS 0 1 clsCONFIG 1 t

/-- A request of state `t` is accepted or refused. -/
def State.stateReq (s : State) (t : Nat) (ok : Bool) (f : State → State) : State :=
  if ok then f ((s.wr SYS_STATE_REQ_TARGET t).clr SYS_STATE_REQ_REFUSED) else s.stateRefuse t

/-- READY: from ARMED or STOPPED; the local pins take their fused safe levels (R32). -/
def State.reqReady (s : State) : State :=
  s.stateReq 1 (s.dev == 2 || s.dev == 4) fun s => (s.setDev 1).forEach (List.range 16) fun s m => s.lpOff m

/-- ARMED: from READY, or from STOPPED once no S3 or higher fault is unacknowledged; not during a thermal shutdown
(10_analogue_and_thermal.md R300). -/
def State.reqArmed (s : State) : State :=
  s.stateReq 2 ((s.dev == 1 || (s.dev == 4 && s.rd FLT_STAT_UNACK_HI == 0)) && s.powerSet && !s.on THM_STAT_SD) fun s =>
    (s.setDev 2).forEach (List.range 16) fun s m => s.pins m

/-- RUN: from ARMED, with the set met, tokens flowing and the safety parameters confirmed, which the island's state shows. -/
def State.reqRun (s : State) : State :=
  s.stateReq 3 (s.dev == 2 && s.powerSet && s.rd SAFE_STATE_STATE == 3 && !s.on THM_STAT_SD) fun s => s.setDev 3

/-- STOPPED: from ARMED at once, from RUN through the controlled stop (07_lupin_engines.md R204). -/
def State.reqStopped (s : State) : State :=
  s.stateReq 4 (s.dev == 2 || s.dev == 3) fun s => if s.dev = 3 then s.cstopStart else s.setDev 4

/-- DORMANT: from READY or STOPPED. -/
def State.reqDormant (s : State) : State := s.stateReq 5 (s.dev == 1 || s.dev == 4) State.dormant

/-- A request of state `t`; when a fault forces a transition in the same CK_CORE period the request is refused (R33). -/
def State.reqUnless (s : State) (forced : Bool) (t : Nat) (f : State → State) : Out :=
  .next (if forced then s.stateRefuse t else f s)

def execStateReqReady (forced : Bool) (s : State) : Out := s.reqUnless forced 1 State.reqReady
def execStateReqArmed (forced : Bool) (s : State) : Out := s.reqUnless forced 2 State.reqArmed
def execStateReqRun (forced : Bool) (s : State) : Out := s.reqUnless forced 3 State.reqRun
def execStateReqStopped (forced : Bool) (s : State) : Out := s.reqUnless forced 4 State.reqStopped
def execStateReqDormant (forced : Bool) (s : State) : Out := s.reqUnless forced 5 State.reqDormant

end Sys2Proof.Machine
end

