-- ==== Sys2Proof/Machine/Pgen.lean ====
section
/-! DEFINITION. Machine/Pgen.lean: the profile generator (07_lupin_engines.md R201 to R204). Positions, velocities, accelerations and
jerks are integers scaled by 2^64, times are in units of 2^-16 ns; every division rounds down (notes/assumptions/11.md). -/
namespace Sys2Proof.Machine

/-- Units of time in a second. -/
def pgSec : Int := 65536000000000

/-- Square root, rounded down, from bit `k` down. -/
def isqrtGo (n : Nat) : Nat → Nat → Nat
  | 0, r => r
  | k + 1, r => isqrtGo n k (if (r + 2 ^ k) * (r + 2 ^ k) ≤ n then r + 2 ^ k else r)
def isqrt (n : Nat) : Nat := isqrtGo n 160 0

/-- The state after a time at constant jerk. -/
def PgenPlan.run (x : PgenPlan) (j : Int) (t : Nat) : PgenPlan :=
  let d := pgSec
  { x with
    p := x.p + (6 * d * d * x.v * t + 3 * d * x.a * t * t + j * t * t * t) / (6 * d * d * d)
    v := x.v + (2 * d * x.a * t + j * t * t) / (2 * d * d)
    a := x.a + j * t / d }

/-- The state after a time along phases. -/
def PgenPlan.follow (x : PgenPlan) : List (Int × Nat) → Nat → PgenPlan
  | [], _ => x
  | (j, d) :: r, t => if t ≤ d then x.run j t else (x.run j d).follow r (t - d)

def phTime (l : List (Int × Nat)) : Nat := (l.map (·.2)).sum

/-- The first `t` of phases. -/
def phTake : List (Int × Nat) → Nat → List (Int × Nat)
  | [], _ => []
  | (j, d) :: r, t => if t ≤ d then [(j, t)] else (j, d) :: phTake r (t - d)

def sgn (x : Int) : Int := if 0 < x then 1 else if x < 0 then -1 else 0

/-- The time-shortest phases that bring a velocity difference `v` and acceleration `a` to 0 within `am` and `jm` (R202). -/
def stopPhases (v a am jm : Int) : List (Int × Nat) :=
  let vz := 2 * jm * v + a * (a.natAbs : Int)
  if vz = 0 then [(-(sgn a) * jm, ((a.natAbs : Int) * pgSec / jm).toNat)]
  else
    let g := -(sgn vz)
    let a' := g * a
    let v' := g * v
    let ap : Int := isqrt (((a' * a' - 2 * jm * v') / 2).toNat)
    let pk := min ap am
    let up := if a' ≤ pk then 1 else (-1 : Int)
    let d1 := up * (pk * pk - a' * a')
    let left := -(2 * jm * v') - d1 - pk * pk
    let hold := if 0 < left ∧ 0 < pk then left * pgSec / (2 * jm * pk) else 0
    [(g * up * jm, (up * (pk - a') * pgSec / jm).toNat), (0, hold.toNat), (-(g * jm), (pk * pgSec / jm).toNat)]

/-- Where the stopping profile ends. -/
def PgenPlan.stopAt (x : PgenPlan) (am jm : Int) : Int :=
  let ph := stopPhases x.v x.a am jm
  (x.follow ph (phTime ph)).p

/-- The latest time along `go` from which the stopping profile does not pass `t` in direction `g`, from bit `k` down. -/
def lastStop (x : PgenPlan) (go : List (Int × Nat)) (am jm t g : Int) : Nat → Nat → Nat
  | 0, r => r
  | k + 1, r =>
    let r' := r + 2 ^ k
    lastStop x go am jm t g k
      (if r' ≤ phTime go ∧ g * (x.follow go r').stopAt am jm ≤ g * t then r' else r)

/-- The time-shortest phases to rest at `t` that never pass it, from a state whose stopping point lies short of it (R202). -/
def reachPhases (x : PgenPlan) (t vm am jm : Int) : List (Int × Nat) :=
  let g := sgn (t - x.p)
  let go := stopPhases (x.v - g * vm) x.a am jm
  let t1 := lastStop x go am jm t g 64 0
  let y := x.follow go t1
  let left := g * (t - y.stopAt am jm)
  let cruise := if t1 = phTime go ∧ 0 < left then [((0 : Int), (left * pgSec / vm).toNat)] else []
  phTake go t1 ++ cruise ++ stopPhases y.v y.a am jm

/-- A value at scale 2^64 rounded to scale 2^32. -/
def round32 (x : Int) : Int := (x + 2147483648) / 4294967296

/-- The plan to `t` from a state, all at scale 2^32, under limits in Q16.16; whether it overshoots (R202). -/
def makePlan (p v a t : Int) (vm am jm : Nat) : PgenPlan × Bool :=
  let k : Int := 4294967296
  let x : PgenPlan := { p := p * k, v := v * k, a := a * k }
  let vm : Int := vm * 281474976710656
  let am : Int := am * 281474976710656
  let jm : Int := jm * 281474976710656
  let e := round32 (x.stopAt am jm)
  if (p ≤ e ∧ e ≤ t) ∨ (t ≤ e ∧ e ≤ p) then
    if p = t ∧ v = 0 ∧ a = 0 then (x, false)
    else if e = t then ({ x with ph := stopPhases x.v x.a am jm }, false)
    else ({ x with ph := reachPhases x (t * k) vm am jm }, false)
  else
    let y : PgenPlan := { p := e * k }
    ({ x with ph := stopPhases x.v x.a am jm ++ reachPhases y (t * k) vm am jm }, true)

/-- POS, VEL and ACC follow the state. -/
def State.pgenShow (s : State) (n : Nat) (p v a : Int) : State :=
  let s := s.setEng n { s.eng n with pos := p, vel := v, acc := a }
  let f := fun x : Int => ofInt 32 (x / 65536)
  ((s.setReg (PGEN_POS n) (f p)).setReg (PGEN_VEL n) (f v)).setReg (PGEN_ACC n) (f a)

/-- A re-plan to the target followed (R202, R203). -/
def State.pgenReplan (s : State) (n : Nat) : State :=
  let e := s.eng n
  let t := toInt 32 e.tgt * 65536
  let (pl, past) := makePlan e.pos e.vel e.acc t (s.reg (PGEN_VMAX n)) (s.reg (PGEN_AMAX n)) (s.reg (PGEN_JMAX n))
  let s := s.setEng n { e with plan := some pl, replan := false }
  let s := (s.wr (PGEN_STAT_OVERSHOOT n) (bit past)).bump (PGEN_STAT_REPLANS n)
  (s.set1 (PGEN_STAT_MOVING n)).clr (PGEN_STAT_AT_TGT n)

/-- Advance the plan by `dt` ns (R201, R202). -/
def State.pgenAdvance (s : State) (n dt : Nat) : State :=
  match (s.eng n).plan with
  | none => s
  | some pl =>
    let el := pl.el + dt
    if phTime pl.ph ≤ el * 65536 then
      let s := s.pgenShow n (toInt 32 (s.eng n).tgt * 65536) 0 0
      let s := s.setEng n { s.eng n with plan := none }
      let s := (s.clr (PGEN_STAT_MOVING n)).clr (PGEN_STAT_OVERSHOOT n)
      s.set1 (PGEN_STAT_AT_TGT n)
    else
      let y := pl.follow pl.ph (el * 65536)
      let s := s.setEng n { s.eng n with plan := some { pl with el := el } }
      s.pgenShow n (y.p / 4294967296) (y.v / 4294967296) (y.a / 4294967296)

/-- The step time of slot `j` of engine `n` in ns (R201, 11_clocks_timebase_network_time.md R323); none in mode 0. -/
def State.stepTime (s : State) (n j : Nat) : Option Nat :=
  let t := s.rd (ENG_TASK_CFG_TT n j)
  let f := s.rd LOOP_CYC_CFG_FRAMES * 1000
  match s.rd (TB_TT_CFG_MODE t) with
  | 0 => none
  | 1 => some (s.reg (TB_TT_PERIOD t))
  | 2 => some ((s.rd (TB_TT_CFG_DIV t) + 1) * f)
  | _ => some f

/-- A new target for the generator (R201, R202). -/
def State.pgenTarget (s : State) (n t : Nat) : State :=
  let e := s.eng n
  s.setEng n { e with tgt := t, tgtWait := none, replan := e.replan || e.tgt != t }

/-- One `pstep` of slot `j` of engine `n`, with a target or keeping it (R201). -/
def State.pstep (s : State) (n j : Nat) (t : Option Nat) : State :=
  if s.rd (PGEN_CFG_SLOT n) ≠ j then s.set1 (PGEN_STAT_WRONG_SLOT n)
  else if !s.on (PGEN_CFG_EN n) then s
  else
    let e := s.eng n
    let s := if s.on (PGEN_STAT_LOCKED n) then s.setEng n { e with tgtWait := none }
      else match t, e.tgtWait with
        | some v, _ => s.pgenTarget n v
        | none, some v => s.pgenTarget n v
        | none, none => s
    let s := s.when (s.eng n).replan fun s => s.pgenReplan n
    match s.stepTime n j with
    | none => s
    | some dt => s.pgenAdvance n dt

/-- The generator as an exception of the bundle of its `pstep` restores it (R190). -/
def State.pgenBack (s : State) (n : Nat) : PgenBack :=
  let e := s.eng n
  ⟨e.tgtWait, e.tgt, e.replan, e.pos, e.vel, e.acc, e.plan, s.reg (PGEN_STAT n)⟩
def State.pgenRestore (s : State) (n : Nat) (x : PgenBack) : State :=
  let s := s.setEng n { s.eng n with tgtWait := x.tgtWait, tgt := x.tgt, replan := x.replan, plan := x.plan }
  (s.pgenShow n x.pos x.vel x.acc).setReg (PGEN_STAT n) x.stat

/-- A write of PGEN.CFG.INIT, ignored while EN is 1 (R214). A locked generator keeps STOP_TGT as its target (R204): it plans to it from
there. -/
def State.pgenInit (s : State) (n : Nat) : State :=
  if s.on (PGEN_CFG_EN n) then s
  else
    let t := s.reg (PGEN_TARGET n)
    let lock := s.on (PGEN_STAT_LOCKED n)
    let still := !lock || t == (s.eng n).tgt
    let s := s.pgenShow n (toInt 32 t * 65536) 0 0
    let s := s.setEng n { s.eng n with plan := none, tgt := if lock then (s.eng n).tgt else t, tgtWait := none, replan := !still }
    let s := (s.clr (PGEN_STAT_MOVING n)).clr (PGEN_STAT_OVERSHOOT n)
    (s.wr (PGEN_STAT_AT_TGT n) (bit still)).cstopCheck

/-- A mirrored record replaces the generator (12_redundant_pair.md R352). -/
def State.pgenMirror (s : State) (n : Nat) : State :=
  match (s.eng n).pgenMir with
  | none => s
  | some r =>
    let s := s.pgenShow n r.pos r.vel r.acc
    let s := s.setReg (PGEN_STOP_TGT n) r.stop
    let s := (s.wr (PGEN_CFG_EN n) (r.flags % 2)).wr (PGEN_STAT_LOCKED n) (r.flags / 2 % 2)
    s.setEng n { s.eng n with pgenMir := none, tgt := if r.flags / 2 % 2 = 1 then r.stop else r.tgt, tgtWait := none, replan := true }

end Sys2Proof.Machine
end

