-- ==== Sys2Proof/Machine/Engines.lean ====
section
/-! DEFINITION. Machine/Engines.lean: tasks, prefetch, snapshots views, gain tables, self-test and migration of the engines
(07_lupin_engines.md R181 to R210), and their commands. -/
namespace Sys2Proof.Machine

/-! ### States of STAT: 0 OFF, 1 IDLE, 2 TASK, 3 HALTED, 4 FAULTED, 5 LST -/

def State.engSt (s : State) (n : Nat) : Nat := s.rd (ENG_STAT_STATE n)
/-- STATE changes; that of the policy engine holds or releases the re-arms of PROT (09_power_stage_protection.md R263). -/
def State.setEngSt (s : State) (n st : Nat) : State :=
  (s.wr (ENG_STAT_STATE n) st).when (n == 16 + s.rd PROT_CFG_PENG) State.protRelease

/-- A task is running, or halted in its middle (R189). -/
def State.inTask (s : State) (n : Nat) : Bool := s.engSt n == 2 || (s.engSt n == 3 && (s.eng n).was == 2)

/-- PEND shows the waiting slots (R185). -/
def State.setRelq (s : State) (n : Nat) (q : List Nat) : State :=
  (s.setEng n { s.eng n with relq := q }).wr (ENG_STAT_PEND n) ((q.map fun j => 2 ^ j).sum)

/-- Waiting releases are discarded and counted in SKIP (R190). -/
def State.skipAll (s : State) (n : Nat) : State :=
  let q := (s.eng n).relq
  (s.setRelq n []).forEach q fun s j => s.bump (ENG_TASK_CNT_SKIP n j)

/-- An engine becomes IDLE, or OFF when CTL.EN is clear. -/
def State.engIdle (s : State) (n : Nat) : State :=
  if s.on (ENG_CTL_EN n) then s.setEngSt n 1 else (s.setRelq n []).setEngSt n 0

/-- Enter FAULTED with a cause and a program counter (R190). -/
def State.engFaulted (s : State) (n cause pc : Nat) : State :=
  let s := (s.wr (ENG_FAULT_CAUSE n) cause).wr (ENG_FAULT_PC n) pc
  let s := (s.setEngSt n 4).skipAll n
  s.setEng n { s.eng n with off := false }

/-- An exception of a Lupin engine (R190). -/
def State.engException (s : State) (n cause pc : Nat) : State :=
  let s := (s.engFaulted n cause pc).groupSafe n
  ((s.post srcENG n 1 clsPROGRAM 2 cause).irq 7).powerCheck

/-! ### Descriptors (R191, R192) -/

def State.pfdLen (s : State) (n d : Nat) : Nat := 8 * s.rd (ENG_PFD_DCTL_LEN n d)

/-- The bytes a descriptor moves: those that lie in data memory and in shared SRAM (notes/assumptions/108.md). -/
def State.pfdMoved (s : State) (n d : Nat) : Nat :=
  min (s.pfdLen n d) (min (0x10000 - s.rd (ENG_PFD_DCTL_LADDR n d)) (0x400000 - s.rd (ENG_PFD_SADDR_ADDR n d)))

/-- Enabled descriptors of slot `j` in one direction, ascending. -/
def State.descs (s : State) (n j : Nat) (out : Bool) : List Nat :=
  (List.range 16).filter fun d => s.on (ENG_PFD_DCTL_EN n d) && s.rd (ENG_PFD_DCTL_SLOT n d) == j && s.on (ENG_PFD_DCTL_OUT n d) == out

/-- Mirror sets of slot `j` overwrite its data memory (12_redundant_pair.md R352). -/
def State.applyMirror (s : State) (n j : Nat) : State :=
  let e := s.eng n
  let s := s.setEng n { e with mirror := e.mirror.filter (·.1 != j) }
  s.forEach (e.mirror.filter (·.1 == j)) fun s x => s.putMem (dataBase n + x.2.1) x.2.2

/-- The IN descriptors of slot `j` start. -/
def State.pfStart (s : State) (n j : Nat) : State :=
  let s := s.applyMirror n j
  s.setEng n { s.eng n with pfIn := ((s.eng n).pfIn ++ s.descs n j false).eraseDups }

/-- An IN descriptor of slot `j` is incomplete. -/
def State.pfBusy (s : State) (n j : Nat) : Bool := (s.eng n).pfIn.any fun d => s.rd (ENG_PFD_DCTL_SLOT n d) == j

/-! ### Releases (R184 to R189) -/

/-- A release that is skipped as an overrun (R187). -/
def State.overrun (s : State) (n j : Nat) : State :=
  let s := (s.bump (ENG_TASK_CNT_OVERRUN n j)).setBit LOOP_OVR_SUM_ENG n
  (s.post srcLOOP n 1 clsTIMING 1 (8 * n + j)).irq 7

/-- A release of slot `j` of engine `n`. -/
def State.release (s : State) (n j : Nat) : State :=
  let st := s.engSt n
  if s.limp ∨ st = 3 ∨ st = 4 then s.bump (ENG_TASK_CNT_SKIP n j)
  else if st = 0 then s
  else if (st = 2 ∧ s.rd (ENG_STAT_CUR_SLOT n) = j) ∨ (s.eng n).relq.contains j ∨ (s.eng n).held.contains j then s.overrun n j
  else if (s.eng n).migr then s.setEng n { s.eng n with held := (s.eng n).held ++ [j] }
  else
    let s := s.setRelq n ((s.eng n).relq ++ [j])
    s.when (!s.on (ENG_TASK_CFG_PF_EN n j)) fun s => s.pfStart n j

/-- An event of time trigger `tt` reaches the engines (R184). -/
def State.taskRelease (s : State) (tt : Nat) : State :=
  s.forEach (List.range 16) fun s n => s.forEach (List.range 8) fun s j =>
    s.when (s.slotEn n j && s.rd (ENG_TASK_CFG_TT n j) == tt) fun s => s.release n j

/-- An event of a prefetch trigger starts the IN descriptors of the slots that name it (R191). -/
def State.prefetchTrigger (s : State) (tt : Nat) : State :=
  s.forEach (List.range 16) fun s n => s.forEach (List.range 8) fun s j =>
    s.when (s.slotEn n j && s.on (ENG_TASK_CFG_PF_EN n j) && s.rd (ENG_TASK_CFG_PF_TT n j) == tt && s.engSt n != 0 && !s.limp)
      fun s => s.pfStart n j

/-- Engine `n` could start its next release but for its IN descriptors (R185, R192). -/
def State.engFree (s : State) (n : Nat) : Bool := s.engSt n == 1 && (s.eng n).stage.isEmpty && !s.limp

/-- A clearing of a slot's EN withdraws its waiting release, one held for a migration too (R185, R209). -/
def State.withdraw (s : State) (n j : Nat) : State :=
  let s := s.setEng n { s.eng n with held := (s.eng n).held.filter (· != j) }
  s.when ((s.eng n).relq.contains j) fun s => s.setRelq n ((s.eng n).relq.filter (· != j))

/-- An IN descriptor completes: its bytes are in data memory; a first bundle that an early prefetch delayed is counted (R191,
R192). -/
def State.doInDone (s : State) (n d : Nat) : State :=
  s.when ((s.eng n).pfIn.contains d) fun s =>
    let j := s.rd (ENG_PFD_DCTL_SLOT n d)
    let s := s.putMem (dataBase n + s.rd (ENG_PFD_DCTL_LADDR n d)) (s.bytes (s.rd (ENG_PFD_SADDR_ADDR n d)) (s.pfdMoved n d))
    let s := s.setEng n { s.eng n with pfIn := (s.eng n).pfIn.filter (· != d) }
    s.when (s.engFree n && (s.eng n).relq.head? == some j && !s.pfBusy n j && s.on (ENG_TASK_CFG_PF_EN n j)) fun s =>
      s.bump (ENG_SNAPCNT_PFWAIT n)

def execPrefetchInDone (n : Fin 16) (d : Fin 16) (s : State) : Out := .next (s.doInDone n d)

/-! ### Gain tables (R199): active points at 512 t + i of the engine, SHIFT and ASYM in force at 2048 + t and 2052 + t -/

def State.glutAct (s : State) (n k : Nat) : Nat := Tbl.get (fun _ => 0) (s.eng n).glut k
def State.setGlutAct (s : State) (n k v : Nat) : State :=
  s.setEng n { s.eng n with glut := Tbl.set (fun _ => 0) (s.eng n).glut k v }

/-- Point `i` of the inactive page of table `t`. -/
def glutPoint (n t i : Nat) : Fld := ⟨0x40440100 + 0x1000 * n + 0x400 * t + 4 * (i / 2), 16 * (i % 2), 16⟩

/-- Exchange the pages of table `t`. -/
def State.glutSwap (s : State) (n t : Nat) : State :=
  let s := s.forEach (List.range 257) fun s i =>
    let a := s.glutAct n (512 * t + i)
    (s.setGlutAct n (512 * t + i) (s.rd (glutPoint n t i))).wr (glutPoint n t i) a
  let s := (s.setGlutAct n (2048 + t) (s.rd (GLUT_CFG_SHIFT n t))).setGlutAct n (2052 + t) (s.rd (GLUT_CFG_ASYM n t))
  (s.wr (GLUT_CFG_PAGE n t) (1 - s.rd (GLUT_CFG_PAGE n t))).clr (GLUT_CFG_SWAP_PEND n t)

def execGlutSwapRequest (n : Fin 16) (t : Fin 4) (s : State) : Out :=
  .next (if s.inTask n then s.set1 (GLUT_CFG_SWAP_PEND n t) else s.glutSwap n t)

/-! ### Task start -/

/-- The next waiting release starts (R185, R216). How many periods pass between the last bundle of the engine and the first of the task is left
open (notes/assumptions/71.md): results still in flight then reach their places at their latencies (08_qorov_instruction_set.md R222). -/
def State.doTaskStart (s : State) (n : Nat) : State :=
  match (s.eng n).relq with
  | [] => s
  | j :: q =>
    s.when (s.engFree n && !s.pfBusy n j) fun s =>
      let s := s.setRelq n q
      let s := (s.setEngSt n 2).wr (ENG_STAT_CUR_SLOT n) j
      let s := s.forEach (List.range 4) fun s t => s.when (s.on (GLUT_CFG_SWAP_PEND n t)) fun s => s.glutSwap n t
      let s := s.applyMirror n j
      let s := s.when (s.rd (PGEN_CFG_SLOT n) == j) fun s => s.pgenMirror n
      let s := s.setEng n { s.eng n with view := none }
      let e := s.rd (ENG_TASK_CFG_ENTRY n j)
      let c := s.core n
      (s.setCore n { c with pc := BitVec.ofNat 32 e, next := e, tsk := j, cyc := 0, fl := 0, now := c.now + 1 + s.freeNat 16, gap := 0 }).drawn

def execTaskStart (n : Fin 16) (s : State) : Out := .next (s.doTaskStart n)

/-- The bytes of the first waiting OUT descriptor are in the staging buffer of 1 KiB (R192). -/
def State.doOutStage (s : State) (n : Nat) : State :=
  match (s.eng n).stage with
  | [] => s
  | d :: r =>
    let used := ((s.eng n).out.map fun x => x.2.2.length).sum
    s.when (decide (used + s.pfdLen n d ≤ 1024)) fun s =>
      let bs := s.bytes (dataBase n + s.rd (ENG_PFD_DCTL_LADDR n d)) (s.pfdMoved n d)
      s.setEng n { s.eng n with stage := r, out := (s.eng n).out ++ [(d, s.rd (ENG_PFD_SADDR_ADDR n d), bs)] }

def execOutStageDone (n : Fin 16) (s : State) : Out := .next (s.doOutStage n)

/-- The first staged descriptor is written to shared SRAM, whole (R192). -/
def execPrefetchOutDone (n : Fin 16) (s : State) : Out :=
  .next (match (s.eng n).out with
    | [] => s
    | (_, a, bs) :: r => (s.setEng n { s.eng n with out := r }).putMem a bs)

/-! ### Enable, disable, restart (R183, R190, R212) -/

/-- CTL.EN rises: the program CRC runs while the engine is OFF. -/
def State.engEnable (s : State) (n : Nat) : State :=
  if s.on (ENG_CTL_EN n) then s
  else
    let s := s.set1 (ENG_CTL_EN n)
    s.setEng n { s.eng n with off := false, crc := s.engSt n == 0 && !s.sys.bistBad.contains n }

def execEngineEnable (n : Fin 20) (s : State) : Out := .next (s.engEnable n)

/-- A write of one word of program memory by another master (R183). -/
def execProgMemWrite (n : Fin 16) (word : Fin 16384) (v : BitVec 32) (s : State) : Out :=
  let a := progBase n + 4 * word
  .next (if s.engSt n = 0 ∧ !(s.eng n).crc then s.putMem a (toBytes 4 v.toNat) else s.postF srcENG n 3 clsCONFIG 1)

/-- The program CRC is complete: a Lupin engine is IDLE, an Aster engine runs from the base of its
program memory (R183, R205). -/
def State.doCrcDone (s : State) (n : Nat) : State :=
  s.when (s.eng n).crc fun s =>
    let s := s.setReg (ENG_PROG_CRC n) (crc32c (s.bytes (progBase n) 65536))
    let s := s.setEng n { s.eng n with crc := false }
    if n < 16 then (s.setEngSt n 1).powerCheck
    else
      let b := progBase n
      (s.setEngSt n 2).setCore n { s.core n with pc := BitVec.ofNat 32 b, next := b }

def execProgCrcDone (n : Fin 20) (s : State) : Out := .next (s.doCrcDone n)

/-- CTL.EN falls: OFF, after any running task has ended. -/
def State.engDisable (s : State) (n : Nat) : State :=
  let s := s.clr (ENG_CTL_EN n)
  let s := s.setEng n { s.eng n with crc := false }
  if n < 16 ∧ s.inTask n then s.setEng n { s.eng n with off := true }
  else (((s.setRelq n []).setEng n { (s.setRelq n []).eng n with pfIn := [] }).setEngSt n 0).powerCheck

def execEngineDisable (n : Fin 20) (s : State) : Out := .next (s.engDisable n)

/-- A write of CTL.RESTART leaves FAULTED (R190). -/
def execEngineRestart (n : Fin 20) (s : State) : Out :=
  .next (s.when (s.engSt n == 4) fun s => s.engIdle n)

/-! ### Controlled stop, self-test -/

def execPgenInit (n : Fin 16) (s : State) : Out := .next (s.pgenInit n)

/-- CSTOP.TMO expires (R204). -/
def execCstopTimeout (s : State) : Out :=
  .next (s.when (s.on LOOP_CSTOP_ACTIVE) fun s => s.postF srcLOOP 16 5 clsTIMING 4)

/-- A write of CTL.LST_START (R208). -/
def State.lstStart (s : State) (n : Nat) : State :=
  if s.engSt n = 1 ∧ !(decide (n < 16) && s.anySlot n) then
    let s := (s.setEngSt n 5).set1 (ENG_LST_BUSY n)
    s.setCore n { s.core n with g := [], acc := [], accIn := [], p := 1, fly := [] }
  else s.bump (ENG_LST_REFUSED n)

def execSelfTestStart (n : Fin 20) (s : State) : Out := .next (s.lstStart n)

/-- The self-test ends (R208). -/
def State.lstDone (s : State) (n : Nat) (pass : Bool) : State :=
  s.when (s.on (ENG_LST_BUSY n)) fun s =>
    let s := (s.clr (ENG_LST_BUSY n)).irq 14
    if pass then (s.set1 (ENG_LST_PASS n)).engIdle n
    else
      let s := (s.set1 (ENG_LST_FAIL n)).engFaulted n 6 (s.core n).pc.toNat
      let s := s.when (decide (n < 16)) fun s => s.groupSafe n
      s.postF srcENG n 2 clsPROGRAM 2

def execSelfTestDone (n : Fin 20) (pass : Bool) (s : State) : Out := .next (s.lstDone n pass)

/-! ### Migration (R209) -/

def State.migrateRefuse (s : State) : State := (s.set1 LOOP_MIGRATE_REFUSED).postF srcLOOP 16 6 clsCONFIG 1

/-- The two engines allow the migration. -/
def State.migrateOk (s : State) (a b : Nat) : Bool :=
  s.reg (ENG_PROG_CRC a) == s.reg (ENG_PROG_CRC b) && !s.anySlot b && s.engSt b == 1

/-- The engines of the pending migration, as its GO named them. -/
def State.migrating (s : State) : Option (Nat × Nat) :=
  (List.range 16).findSome? fun a => (s.eng a).migTo.map fun b => (a, b)

/-- A write of MIGRATE with GO. SRC and DST take the values written; a migration that is pending keeps its own. -/
def State.doMigrate (s : State) (a b : Nat) : State :=
  let d := subMod 32 (s.reg LOOP_MIG_CYCLE) (s.reg LOOP_CYC_NUM)
  let s := (s.wr LOOP_MIGRATE_SRC a).wr LOOP_MIGRATE_DST b
  if s.on LOOP_MIGRATE_PEND || !s.migrateOk a b || d == 0 || decide (2 ^ 31 ≤ d) then s.migrateRefuse
  else (s.set1 LOOP_MIGRATE_PEND).setEng a { (s.set1 LOOP_MIGRATE_PEND).eng a with migTo := some b }

def execMigrateRequest (src dst : Fin 16) (s : State) : Out := .next (s.doMigrate src dst)

/-- The start of the cycle named by MIG_CYCLE: releases of SRC are held for DST; the request is refused when the engines no longer
allow it. -/
def State.migrateCycle (s : State) : State :=
  match s.migrating with
  | none => s
  | some (a, b) =>
    s.when (s.reg LOOP_MIG_CYCLE == s.reg LOOP_CYC_NUM && !(s.eng a).migr) fun s =>
      if s.migrateOk a b then
        let q := (s.eng a).relq
        (s.setRelq a []).setEng a { (s.setRelq a []).eng a with migr := true, held := q }
      else ((s.setEng a { s.eng a with migTo := none }).clr LOOP_MIGRATE_PEND).migrateRefuse

/-- Copy one register of SRC to DST. -/
def State.copyReg (s : State) (x y : Nat) : State := s.setReg y (s.reg x)

/-- The copy is complete: data memory, slots, descriptors, PGEN, active gain pages, owners. -/
def State.doCopyDone (s : State) : State :=
  match s.migrating with
  | none => s
  | some (a, b) => s.when ((s.eng a).migr && !s.inTask a && (s.eng a).stage.isEmpty) fun s =>
    let s := s.putMem (dataBase b) (s.bytes (dataBase a) 65536)
    let s := s.forEach (List.range 8) fun s j => s.forEach (List.range 6) fun s k =>
      s.copyReg (ENG_TASK_CFG a j + 4 * k) (ENG_TASK_CFG b j + 4 * k)
    let s := s.forEach (List.range 16) fun s d => (s.copyReg (ENG_PFD_SADDR a d) (ENG_PFD_SADDR b d)).copyReg (ENG_PFD_DCTL a d) (ENG_PFD_DCTL b d)
    let s := s.forEach (List.range 10) fun s k => s.copyReg (PGEN_CFG a + 4 * k) (PGEN_CFG b + 4 * k)
    let x := s.eng a
    let s := s.setEng b { s.eng b with pos := x.pos, vel := x.vel, acc := x.acc, plan := x.plan, tgt := x.tgt, tgtWait := x.tgtWait
                                       replan := x.replan, glut := x.glut }
    let s := s.forEach (List.range 784) fun s c => s.when (s.hasChan c && s.on (chOwnEn c) && s.rd (chOwner c) == a) fun s => s.wr (chOwner c) b
    let s := s.forEach (List.range 8) fun s j => s.clr (ENG_TASK_CFG_EN a j)
    let s := s.setEng a { s.eng a with migTo := none, migr := false, held := [], pfIn := [] }
    let s := s.forEach x.held fun s j => s.release b j
    ((s.clr LOOP_MIGRATE_PEND).set1 LOOP_MIGRATE_DONE).irq 14

def execMigrationCopyDone (s : State) : Out := .next s.doCopyDone

end Sys2Proof.Machine
end

