-- ==== Sys2Proof/Machine/ModCmds.lean ====
section
/-! DEFINITION. Machine/ModCmds.lean: the commands of the modulator and of the local outputs (06_modulation_and_pwm.md). -/
namespace Sys2Proof.Machine

/-- CFG.EN rises: every channel starts planning anew (R147). -/
def State.modStart (s : State) : State :=
  (s.set1 MOD_CFG_EN).setAnchor.forEach (List.range 784) fun s n =>
    let s := s.setChan n { s.chan n with z := none, sync := true }
    s.when (decide (n < 768)) fun s => s.showNext n

/-- A write of 1 to MOD.CFG.EN, a field that is RWS. -/
def execModEnable (s : State) : Out := .next (s.rws MOD_CFG_EN 1 srcMOD 0 State.modStart)

/-- A write of MOD.ANCHOR; each channel takes the new grid at its next planned carrier zero (R147). -/
def execModAnchorWrite (frame : BitVec 32) (s : State) : Out :=
  .next (s.rws MOD_ANCHOR_FRAME frame.toNat srcMOD 0 fun s => (s.setReg MOD_ANCHOR frame.toNat).setAnchor)

/-- A write of MOD.COMMIT (R152). -/
def execModCommit (mask : BitVec 32) (s : State) : Out := .next (s.capture mask.toNat)

/-- The plan instant of the next carrier period of channel `ch` (R155). -/
def execPlanInstant (ch : Fin 784) (s : State) : Out := .next (s.planAt ch)

/-- What a carrier zero of a local channel does: it ends latches of LATCH = 2 and is an event of the converters (10_analogue_and_thermal.md
R283, R295), and a channel that was
re-armed resumes in the state its waveform has (R176). -/
def State.localZero (s : State) (m : Nat) : State :=
  let s := (s.cmpCarrier m).adcEvent 2 m
  s.when (s.on (LPWM_STAT_ARM_PEND m)) fun s => (s.clr (LPWM_STAT_ARM_PEND m)).lpDrive m

/-- A carrier zero of a channel for which no period is planned, as planning is off, or its mode is: the zeros of its grid go on (R147). -/
def State.bareZero (s : State) (n : Nat) : State :=
  let x := s.chan n
  let z := gridZero s.anchorFrame x.cur s.t16
  let s := s.timeTo (z * 2 ^ 20)
  if n < 768 then s.wr (MODCH_NEXTZ_NS n) ((z + x.cur.period * 16) / 16 % 1000000000) else s.localZero (n - 768)

/-- The carrier zero of a planned period: its values are in force (R153); a local channel that was re-armed resumes (R176). -/
def State.doCarrierZero (s : State) (n : Nat) : State :=
  let x := s.chan n
  if !s.modRuns then s else match x.taken with
  | [] => s.when (s.hasChan n && (!s.on MOD_CFG_EN || x.z.isNone)) fun s => s.bareZero n
  | (z, p, full) :: rest =>
    let s := (s.timeTo (z * 2 ^ 20)).setChan n { x with taken := rest }
    let s := ((s.setReg (chPERIOD n) p.period).setReg (chONC n) p.onc).setReg (chOFFC n) p.offc
    let s := s.setReg (chPHASE n) p.phase
    let s := s.wr (chPend n) (bit (x.pend.isSome || rest.any fun r => r.2.1 != p))
    if n < 768 then (s.wr (MODCH_STAT_FULL n) (bit full)).showNext n
    else s.localZero (n - 768)

def execCarrierZero (ch : Fin 784) (s : State) : Out := .next (s.doCarrierZero ch)

/-- A write of MOD.AUX.GO (R159). -/
def State.doAuxGo (s : State) : State :=
  if s.on MOD_AUX_PEND || !s.modRuns then s
  else
    let c := s.rd MOD_AUX_CELL
    let f : Int := (s.frame : Int) + toInt 32 (subMod 32 (s.reg MOD_AUX_F) (s.reg LOOP_FRAME_NUM))
    let t := (f * 16000).toNat + s.reg MOD_AUX_T
    if f < 0 ∨ departure (s.deadline c t) ≤ s.t16 * 100 then s.postF srcMOD 0 6 clsPROGRAM 1
    else
      let e : Edge := { t := t, leg := s.rd MOD_AUX_LEG, st := s.rd MOD_AUX_STATE }
      let s := s.setPlan c { s.plan c with planned := insEdge e (s.plan c).planned }
      let s := ({ s with aux := some c }).set1 MOD_AUX_PEND
      s.join c

def execAuxGo (s : State) : Out := .next s.doAuxGo

/-- A budget counter falls to 0: STAGE S0 (R163). `b`: the switch of half-leg b. -/
def State.doBudgetEmpty (s : State) (n : Nat) (b : Bool) : State :=
  let s := s.budgetNow n
  let x := s.chan n
  s.when (if b then x.budB == 0 && !x.empB else x.budA == 0 && !x.empA) fun s =>
    (s.setChan n (if b then { x with empB := true } else { x with empA := true })).post srcMOD 0 4 clsSTAGE 0 n

def execBudgetEmpty (n : Fin 768) (b : Bool) (s : State) : Out := .next (s.doBudgetEmpty n b)

/-- The end of an interval at L: the budgets of the channel follow its waveform up to the present (R163). -/
def execBudgetRestore (n : Fin 768) (s : State) : Out := .next (s.budgetNow n)

/-- A halt of engine LE`e` for debug (R170, 07_lupin_engines.md R189). -/
def State.doDebugHalt (s : State) (e : Nat) : State :=
  let st := s.rd (ENG_STAT_STATE e)
  s.when (st == 1 || st == 2 || st == 5) fun s =>
    let s := (s.bundleEnd e).settle e
    let s := s.setEng e { s.eng e with was := st }
    let s := (s.wr (ENG_STAT_STATE e) 3).groupSafe e
    ((s.setBit MOD_HALT_ENG e).post srcMOD 0 3 clsPROGRAM 2 e).powerCheck

def execDebugHalt (e : Fin 16) (s : State) : Out := .next (s.doDebugHalt e)

/-- The engine resumes; nothing else returns on its own (R170, R189). -/
def execDebugResume (e : Fin 16) (s : State) : Out :=
  .next (s.when (s.rd (ENG_STAT_STATE e) == 3) fun s => s.wr (ENG_STAT_STATE e) (s.eng e).was)

/-- The head of a local edge queue executes; an entry that waited takes its place (R174, 01_architecture.md R22). A turn-on edge is an event of
the converters (10_analogue_and_thermal.md R283). -/
def State.doLpwmEdge (s : State) (m : Nat) : State :=
  let x := s.lp m
  if !s.modRuns then s else match x.q with
  | [] => s
  | (t, st, late) :: q =>
    let s := s.timeTo (t * 2 ^ 20)
    let was := x.wst
    let x := { x with wst := st }
    let x := match x.waiting with
      | [] => { x with q := q }
      | (t', st', l) :: w => { x with q := q ++ [(t', st', l || decide (t' < s.t16))], waiting := w }
    let s := (s.setLp m x).lpDrive m
    let s := s.when (st == 2 && was != 2) fun s => s.adcEvent 3 m
    s.when late fun s => (s.bump (LPWM_CNT_LATE m)).postF srcMOD 0 7 clsTIMING 1

def execLpwmEdge (m : Fin 16) (s : State) : Out := .next (s.doLpwmEdge m)

/-- A write of TRIP_CTL.REARM (R176). -/
def execLpwmRearm (m : Fin 16) (s : State) : Out := .next (s.lpRearm m).2

/-- The dead time of a pair's output that is to turn on has passed (R174). -/
def State.doDeadtimeOn (s : State) (m : Nat) : State :=
  let x := s.lp m
  s.when (s.modRuns && !s.lpBlocked m) fun s =>
    if x.want = 1 then
      ((s.timeTo ((x.offB + s.rd (LPWM_DT_RISE m) * 4) * 2 ^ 20)).setLp m { x with onA := true, want := 0 }).pins m
    else if x.want = 2 then
      ((s.timeTo ((x.offA + s.rd (LPWM_DT_FALL m) * 4) * 2 ^ 20)).setLp m { x with onB := true, want := 0 }).pins m
    else s

def execLpwmDeadtimeTurnOn (m : Fin 16) (s : State) : Out := .next (s.doDeadtimeOn m)

end Sys2Proof.Machine
end

