-- ==== Sys2Proof/Machine/Clocks.lean ====
section
/-! DEFINITION. Machine/Clocks.lean: the two ADPLLs, ramps, spread, limp mode, the timebase, time triggers and captures
(11_clocks_timebase_network_time.md R305 to R326), and their commands. -/
namespace Sys2Proof.Machine

/-! ### The ADPLLs: 0 system, 1 timebase -/

def pllEN (p : Nat) : Fld := if p = 0 then CLK_SYS_CTL_EN else CLK_TB_CTL_EN
def pllLOCK (p : Nat) : Fld := if p = 0 then CLK_SYS_STAT_LOCK else CLK_TB_STAT_LOCK
def pllCOAST (p : Nat) : Fld := if p = 0 then CLK_SYS_STAT_COAST else CLK_TB_STAT_COAST
def pllBAND (p : Nat) : Fld := if p = 0 then CLK_SYS_STAT_BAND else CLK_TB_STAT_BAND
def pllTOL (p : Nat) : Fld := if p = 0 then CLK_SYS_CTL_TOL else CLK_TB_CTL_TOL
def pllK (p : Nat) : Fld := if p = 0 then CLK_SYS_CTL_K else CLK_TB_CTL_K
def pllM (p : Nat) : Fld := if p = 0 then CLK_SYS_CTL_M else CLK_TB_CTL_M
/-- References: 0 REFCLK, 1 TBREF_IN. -/
def refOK (r : Nat) : Fld := if r = 0 then CLK_TB_STAT_REF0_OK else CLK_TB_STAT_REF1_OK

def State.pll (s : State) (p : Nat) : PllH := if p = 0 then s.sys.pllS else s.sys.pllT
def State.setPll (s : State) (p : Nat) (x : PllH) : State :=
  s.setSys (if p = 0 then { s.sys with pllS := x } else { s.sys with pllT := x })

/-- The runs of windows of an ADPLL begin again. -/
def State.pllAgain (s : State) (p : Nat) (relock : Bool) : State := s.setPll p { s.pll p with good := 0, bad := 0, relock := relock }
/-- The next window of an ADPLL begins: it takes K, M and TOL from the registers (R306). -/
def State.pllWindow (s : State) (p : Nat) : State :=
  s.setPll p { s.pll p with k := s.rd (pllK p), m := s.rd (pllM p), tol := s.rd (pllTOL p) }

/-- The reference an ADPLL uses. -/
def State.refOf (s : State) (p : Nat) : Nat := if p = 0 then 0 else s.rd CLK_TB_STAT_SRC_ACT

/-- Enter limp mode outside BOOT (R315): CK_CORE from REFCLK, lanes DOWN, Lupin engines halted as for debug. -/
def State.limpEnter (s : State) : State :=
  let s := (s.set1 SYS_DEV_STATE_LIMP).clr CLK_SYS_CTL_SEL
  let s := s.wr CLK_SYS_FREQ_KHZ 25000
  let s := s.forEach (List.range 28) fun s l => s.when (s.laneSt l != 0) fun s => s.laneDown l
  let s := s.forEach (List.range 16) fun s e => s.when (s.engSt e == 1 || s.engSt e == 2) fun s => s.doDebugHalt e
  s.powerCheck

/-- The first lock in BOOT switches CK_CORE to the DCO (R315). -/
def State.limpExit (s : State) : State :=
  let s := (s.clr SYS_DEV_STATE_LIMP).set1 CLK_SYS_CTL_SEL
  let s := s.wr CLK_SYS_FREQ_KHZ 800000
  s.lanesTry

/-- The DCO of an ADPLL loses lock (R306, R37); a system ramp is abandoned (R337). -/
def State.lockLost (s : State) (p : Nat) : State :=
  let s := ((s.clr (pllLOCK p)).clr (pllCOAST p)).bump CLK_CLK_CNT_LOL
  let s := s.pllAgain p false
  let s := s.when (p == 0) fun s => (s.clr CLK_RAMP_STAT_S_BUSY).clr CLK_SYS_STAT_RAMPING
  let s := s.postF srcCLK p 3 clsCLOCK 4
  s.when (p == 0 && s.dev != 0 && !s.limp) State.limpEnter

/-- EN rises: the search and the windows begin (R306). -/
def State.adpllOn (s : State) (p : Nat) : State :=
  s.when (!s.on (pllEN p)) fun s =>
    let s := ((s.set1 (pllEN p)).pllAgain p false).pllWindow p
    s.when (p == 1) fun s => s.wr CLK_TB_STAT_SRC_ACT (s.rd CLK_TB_CTL_SRC)

/-- EN falls: a DCO that was locked loses lock; a ramp or change of reference of the timebase ADPLL ends with it
(DEDUCED, notes/assumptions/111.md). -/
def State.adpllOff (s : State) (p : Nat) : State :=
  s.when (s.on (pllEN p)) fun s =>
    let s := s.clr (pllEN p)
    let s := s.when (p == 1) fun s =>
      ((s.setSys { s.sys with swTo := none, swRamp := false }).clr CLK_RAMP_STAT_T_BUSY).clr CLK_TB_STAT_RAMPING
    if s.on (pllLOCK p) then s.lockLost p else (s.pllAgain p false).clr (pllCOAST p)

def execSysAdpllEnable (s : State) : Out := .next (s.adpllOn 0)
def execTbAdpllEnable (s : State) : Out := .next (s.adpllOn 1)

/-- LOCK rises, or an ADPLL that coasted is locked again (R306, R309); the dither sequence of the timebase DCO restarts from SEED
(R314). The band found is not stated. -/
def State.lockRise (s : State) (p : Nat) : State :=
  let s := s.pllAgain p false
  let s := s.clr (pllCOAST p)
  let s := s.when (p == 1) fun s => s.setSys { s.sys with dith := s.rd CLK_TB_DITHER_SEED }
  s.when (!s.on (pllLOCK p)) fun s =>
    let s := (s.set1 (pllLOCK p)).wrFree (pllBAND p)
    s.when (p == 0 && s.dev == 0 && s.limp) State.limpExit

/-- Down-spread in force, in units of 0.01 % (R312). -/
def State.spreadNow (s : State) : Nat := if s.on CLK_SYS_STAT_SPREAD then s.rd CLK_SYS_SPREAD_DEPTH else 0

/-- The ratios of the target to the nominal frequency in a window, the least and the greatest, over a common denominator: a ramp that
runs lies between its start and its end, spread between its depth and the centre (DEDUCED, notes/assumptions/111.md). -/
def State.pllTarget (s : State) (p : Nat) : Nat × Nat × Nat :=
  if p = 0 then
    let c := if s.limp then 800000 else s.rd CLK_SYS_FREQ_KHZ
    let e := if s.on CLK_RAMP_STAT_S_BUSY then s.sys.rampTo else c
    (min c e * (10000 - s.spreadNow), max c e * 10000, 800000 * 10000)
  else
    let c := s.sys.tbOfs
    let e := if s.on CLK_RAMP_STAT_T_BUSY && s.sys.swTo.isNone then s.sys.tbTo else c
    ((100000000 + min c e).toNat, (100000000 + max c e).toNat, 100000000)

/-- A window counts as within TOL of the expected count, 2^K times the ratio, rounded (R306). -/
def State.windowGood (s : State) (p count : Nat) : Bool :=
  let x := s.pll p
  let (lo, hi, d) := s.pllTarget p
  let want := fun r : Nat => (2 * 2 ^ x.k * r + d) / (2 * d)
  decide (want lo ≤ count + x.tol) && decide (count ≤ want hi + x.tol)

/-- What the end of a lock window does (R306). During a reference change it is the window of step 2 of R310, which the new reference
must show. -/
def State.judge (s : State) (p count : Nat) : State :=
  let x := s.pll p
  if s.on (pllCOAST p) && !x.relock then s
  else if s.windowGood p count then
    let s := s.setPll p { x with good := x.good + 1, bad := 0 }
    s.when (decide (x.m ≤ x.good + 1) && (!s.on (pllLOCK p) || s.on (pllCOAST p))) fun s => s.lockRise p
  else
    let s := s.setPll p { x with good := 0, bad := x.bad + 1 }
    s.when (decide (2 ≤ x.bad + 1) && s.on (pllLOCK p) && s.on (refOK (s.refOf p))) fun s => s.lockLost p

/-- A lock window of an ADPLL ends with a count of DCO/N; N is such that the nominal frequency counts one a reference cycle. -/
def State.doWindow (s : State) (p count : Nat) : State :=
  s.when (s.on (pllEN p)) fun s =>
    let s := if p = 1 ∧ s.sys.swTo.isSome then
        s.when (!s.sys.swRamp && s.sys.swTo.any fun r => s.on (refOK r)) fun s =>
          (s.setSys { s.sys with swRamp := true }).set1 CLK_TB_STAT_RAMPING
      else s.judge p count
    s.pllWindow p

/-- Start a change of reference (R310). -/
def State.refSwitch (s : State) (r : Nat) : State :=
  let s := s.setSys { s.sys with swTo := some r, swRamp := false }
  (s.set1 CLK_RAMP_STAT_T_BUSY).set1 CLK_TB_STAT_COAST

/-- An ADPLL coasts after the loss of its reference (R308). -/
def State.coast (s : State) (p : Nat) : State :=
  let s := (s.set1 (pllCOAST p)).pllAgain p false
  (s.bump (if p = 0 then CLK_CLK_CNT_S_LOSS else CLK_CLK_CNT_T_LOSS)).postF srcCLK p 1 clsCLOCK 1

/-- Reference `r` is lost (R308, R310, R317); a loss that no ADPLL sees is posted all the same. -/
def State.doRefLoss (s : State) (r : Nat) : State :=
  s.when (s.on (refOK r)) fun s =>
    let s := s.clr (refOK r)
    let s := s.when (r == 0) fun s => s.clr CLK_SYS_STAT_REF_OK
    let s := s.when (r == 0 && s.on CLK_SYS_CTL_EN) fun s => s.coast 0
    if s.sys.swTo = some r then
      let s := s.setSys { s.sys with swTo := none, swRamp := false }
      ((s.clr CLK_RAMP_STAT_T_BUSY).clr CLK_TB_STAT_RAMPING).coast 1
    else if s.on CLK_TB_CTL_EN && s.rd CLK_TB_STAT_SRC_ACT == r then
      let s := s.coast 1
      s.when (s.on CLK_TB_CTL_AUTO_SW && s.on (refOK (1 - r)) && s.sys.swTo.isNone) fun s => s.refSwitch (1 - r)
    else s.when (r == 1 || !s.on CLK_SYS_CTL_EN) fun s => s.postF srcCLK 1 1 clsCLOCK 1

def execRefLoss (r : Fin 2) (s : State) : Out := .next (s.doRefLoss r)

/-- `j` reduced into (-P/2, +P/2], P the period of reference `r` in sixteenths of a nanosecond: 40 ns or 100 ns (R307, R309). -/
def jumpOf (r : Nat) (j : Int) : Int :=
  let p : Int := if r = 0 then 640 else 1600
  let m := j % p
  if 2 * m ≤ p then m else m - p

/-- The timebase ADPLL reports the phase jump of reference `r`, whose edge arrived `j` sixteenths after its predicted arrival, and takes
a new phase origin (R309). -/
def State.phaseJump (s : State) (r j : Nat) : State :=
  let x := jumpOf r (toInt 24 j)
  let s := (s.wr CLK_REF_PHASE_JUMP_JUMP (ofInt 24 x)).set1 CLK_REF_PHASE_JUMP_VALID
  (s.pllAgain 1 true).post srcCLK 1 2 clsCLOCK 1 (ofInt 31 x)

/-- A reference is qualified (again): an ADPLL that coasts on it re-locks (R309). -/
def State.doRefQualified (s : State) (r j : Nat) : State :=
  s.when (!s.on (refOK r)) fun s =>
    let s := s.set1 (refOK r)
    let s := s.when (r == 0) fun s => s.set1 CLK_SYS_STAT_REF_OK
    let s := s.when (r == 0 && s.on CLK_SYS_STAT_COAST) fun s => s.pllAgain 0 true
    s.when (s.on CLK_TB_STAT_COAST && s.rd CLK_TB_STAT_SRC_ACT == r && s.sys.swTo.isNone) fun s => s.phaseJump r j

def execRefQualified (r : Fin 2) (j : BitVec 24) (s : State) : Out := .next (s.doRefQualified r j.toNat)

/-- A write of TB_CTL.SRC (R310): it starts a change to another reference, and one to the reference in use when the ADPLL coasts beside
it, a change having been broken off (DEDUCED, notes/assumptions/111.md). -/
def State.tbSrc (s : State) (r : Nat) : State :=
  let s := s.wr CLK_TB_CTL_SRC r
  if !s.on CLK_TB_CTL_EN then s.wr CLK_TB_STAT_SRC_ACT r
  else s.when ((s.rd CLK_TB_STAT_SRC_ACT != r && s.sys.swTo != some r) ||
      (s.on CLK_TB_STAT_COAST && s.on (refOK r) && !(s.pll 1).relock && s.sys.swTo.isNone)) fun s => s.refSwitch r

def execTbRefSwitch (r : Fin 2) (s : State) : Out := .next (s.tbSrc r)

/-- Step 4 of R310, once the window of step 2 has passed: the DCO has reached the frequency of the new reference. -/
def State.refSwitchDone (s : State) (j : Nat) : State :=
  match s.sys.swTo with
  | none => s
  | some r =>
    s.when s.sys.swRamp fun s =>
      let s := s.setSys { s.sys with swTo := none, swRamp := false, tbOfs := 0 }
      let s := (s.clr CLK_RAMP_STAT_T_BUSY).clr CLK_TB_STAT_RAMPING
      ((s.set1 CLK_RAMP_STAT_T_DONE).wr CLK_TB_STAT_SRC_ACT r).phaseJump r j

def execTbRefSwitchDone (j : BitVec 24) (s : State) : Out := .next (s.refSwitchDone j.toNat)

/-! ### Ramps and spread (R311 to R313, 07_lupin_engines.md R197) -/

/-- Every enabled slot fits at `khz` with down-spread `d` (R197). -/
def State.allFit (s : State) (khz d : Nat) : Bool :=
  (List.range 16).all fun n => (List.range 8).all fun j => !s.slotEn n j ||
    decide ((s.rd (ENG_TASK_BUDGET_CYCLES n j) + 10) * 10000000000 + 2 * (khz * (10000 - d)) ≤
      s.rd (ENG_TASK_DEADLINE_NS n j) * (khz * (10000 - d)))

/-- Why a system ramp to `khz` is refused; 0 when it is not. -/
def State.rampWhy (s : State) (khz : Nat) : Nat :=
  if !s.allFit khz s.spreadNow then 1
  else if s.on CLK_RAMP_STAT_S_BUSY then 2
  else if khz < 400000 ∨ 800000 < khz then 3
  else if !s.on CLK_SYS_CTL_EN || !s.on CLK_SYS_STAT_LOCK then 4
  else if s.limp then 5
  else 0

/-- A system ramp or spread request is refused. -/
def State.sysRefused (s : State) (why : Nat) : State :=
  ((s.set1 CLK_RAMP_STAT_S_REF).wr CLK_RAMP_STAT_S_WHY why).post srcCLK 0 4 clsCLOCK 1 why

/-- Start a system ramp. -/
def State.rampStart (s : State) (khz : Nat) : State :=
  ((s.setSys { s.sys with rampTo := khz }).set1 CLK_RAMP_STAT_S_BUSY).set1 CLK_SYS_STAT_RAMPING

/-- A write of SYS_RAMP.GO with the END and RATE the register holds. -/
def State.sysRampGo (s : State) : State :=
  let f := s.rd CLK_SYS_RAMP_END
  let why := s.rampWhy f
  if why = 0 then s.rampStart f else s.sysRefused why

def execSysRampGo (s : State) : Out := .next s.sysRampGo

def State.sysRampDone (s : State) : State :=
  s.when (s.on CLK_RAMP_STAT_S_BUSY) fun s =>
    let s := (s.clr CLK_RAMP_STAT_S_BUSY).clr CLK_SYS_STAT_RAMPING
    (s.set1 CLK_RAMP_STAT_S_DONE).wr CLK_SYS_FREQ_KHZ s.sys.rampTo

def execSysRampDone (s : State) : Out := .next s.sysRampDone

/-- The centre frequency in force, or the one a running ramp will reach. -/
def State.centre (s : State) : Nat := if s.on CLK_RAMP_STAT_S_BUSY then s.sys.rampTo else s.rd CLK_SYS_FREQ_KHZ

/-- Spread `d` fits, or is no deeper than the one in force (R312). -/
def State.spreadOk (s : State) (en : Bool) (d : Nat) : Bool := !en || decide (d ≤ s.spreadNow) && s.on CLK_SYS_STAT_SPREAD || s.allFit s.centre d

/-- Spread takes a new setting. -/
def State.spreadSet (s : State) (en : Bool) (d : Nat) : State :=
  ((s.wr CLK_SYS_SPREAD_DEPTH d).wr CLK_SYS_SPREAD_EN (bit en)).wr CLK_SYS_STAT_SPREAD (bit en)

/-- A write of SYS_SPREAD. -/
def State.spreadWrite (s : State) (en : Bool) (d : Nat) : State :=
  if 100 < d then s.reserved CLK_SYS_SPREAD
  else if s.spreadOk en d then s.spreadSet en d
  else s.sysRefused 1

def execSpreadRequest (en : Bool) (depth : BitVec 7) (s : State) : Out := .next (s.spreadWrite en depth.toNat)

/-- Why a timebase ramp is refused; 0 when it is not. -/
def State.tbRampWhy (s : State) : Nat :=
  let e := (toInt 16 (s.rd CLK_TB_RAMP_END)).natAbs
  if s.on CLK_RAMP_STAT_T_BUSY then 2
  else if 10000 < e then 3
  else if !s.on CLK_TB_CTL_EN || !s.on CLK_TB_STAT_LOCK then 4
  else if s.limp then 5
  else 0

/-- A write of TB_RAMP.GO with the END and RATE the register holds. -/
def State.tbRampGo (s : State) : State :=
  let why := s.tbRampWhy
  if why = 0 then
    ((s.setSys { s.sys with tbTo := toInt 16 (s.rd CLK_TB_RAMP_END) }).set1 CLK_RAMP_STAT_T_BUSY).set1 CLK_TB_STAT_RAMPING
  else ((s.set1 CLK_RAMP_STAT_T_REF).wr CLK_RAMP_STAT_T_WHY why).post srcCLK 1 4 clsCLOCK 1 why

def execTbRampGo (s : State) : Out := .next s.tbRampGo

def execTbRampDone (s : State) : Out :=
  .next (s.when (s.on CLK_RAMP_STAT_T_BUSY && s.sys.swTo.isNone) fun s =>
    let s := s.setSys { s.sys with tbOfs := s.sys.tbTo }
    ((s.clr CLK_RAMP_STAT_T_BUSY).clr CLK_TB_STAT_RAMPING).set1 CLK_RAMP_STAT_T_DONE)

/-! ### DLL (R316) and boot (01_architecture.md R34) -/

def execDllLock (s : State) : Out := .next (s.when (s.on CLK_TB_STAT_LOCK) fun s => s.set1 CLK_TB_STAT_DLL_LOCK)

def execDllLost (s : State) : Out :=
  .next (s.when (s.on CLK_TB_STAT_DLL_LOCK) fun s => (s.clr CLK_TB_STAT_DLL_LOCK).postF srcCLK 1 5 clsCLOCK 4)

/-- The lock attempt of BOOT has failed and starts again. -/
def execBootLockRetry (s : State) : Out :=
  .next (s.when (s.dev == 0 && s.limp && !s.on CLK_SYS_STAT_LOCK) fun s => ((s.pllAgain 0 false).pllWindow 0).postF srcCLK 0 6 clsCLOCK 1)

/-! ### The timebase (R318 to R322) -/

/-- A slew completes. -/
def State.slewEnd (s : State) : State :=
  ((s.setSys { s.sys with slew := 0 }).clr TB_SLEW_CTL_BUSY).set1 TB_SLEW_CTL_DONE

/-- The amount a tick adds to INC (R320). -/
def State.slewStep (s : State) : Int :=
  if !s.on TB_SLEW_CTL_BUSY then 0
  else
    let r : Int := s.rd TB_SLEW_CTL_RATE
    max (-r) (min r s.sys.slew)

/-- One tick of CK_TB (R318, R320), which runs while the timebase ADPLL does. -/
def State.idle (s : State) : State :=
  s.when s.tbRuns fun s =>
    let d := s.slewStep
    let s := s.setTb (((s.tb + s.reg TB_INC : Nat) : Int) + d).toNat
    s.when (s.on TB_SLEW_CTL_BUSY) fun s =>
      let s := s.setSys { s.sys with slew := s.sys.slew - d }
      s.when (s.sys.slew == 0) State.slewEnd

/-- The increment and the rate together leave the range of R320. -/
def slewOver (inc rate : Nat) : Bool := decide (0x0D00 < ((inc : Int) - 0x2000000).natAbs + rate)

/-- A write of SLEW_CTL.GO with the RATE the register holds. -/
def State.slewGo (s : State) : State :=
  if s.on TB_SLEW_CTL_BUSY then s.set1 TB_SLEW_CTL_COLL
  else if slewOver (s.reg TB_INC) (s.rd TB_SLEW_CTL_RATE) then s.reserved TB_SLEW_CTL
  else
    let a := toInt 24 (s.rd TB_SLEW_AMT_AMT)
    let s := (s.setSys { s.sys with slew := a * 1048576 }).set1 TB_SLEW_CTL_BUSY
    s.when (a == 0) State.slewEnd

def execSlewGo (s : State) : Out := .next s.slewGo

/-- A write of STOP. -/
def State.slewStop (s : State) : State := s.clr TB_SLEW_CTL_BUSY

def execSlewStop (s : State) : Out := .next s.slewStop

/-- Where the timebase stands when the ticks that a slew still needs have passed. -/
def State.slewTo (s : State) : Nat :=
  let n := ceilDiv s.sys.slew.natAbs (max 1 (s.rd TB_SLEW_CTL_RATE))
  (((s.tb + n * s.reg TB_INC : Nat) : Int) + s.sys.slew).toNat

/-- The last tick of a slew passes, with the ticks that remain before it; it comes in the frame in progress, since no slew skips a
frame (02_control_cycle.md R41): the starts of the frames between are commands of their own. -/
def State.slewDone (s : State) : State :=
  s.when (s.tbRuns && s.on TB_SLEW_CTL_BUSY && decide (s.slewTo < (max s.frame s.frames + 1) * 1000 * 2 ^ 24)) fun s =>
    (s.setTb s.slewTo).slewEnd

def execSlewDone (s : State) : Out := .next s.slewDone

/-- A read of NOW_NS takes the snapshot (R322). -/
def State.nowRead (s : State) : State :=
  let s := s.setReg TB_NOW_NS s.stampNs
  let s := (s.setReg TB_NOW_SEC (s.tbSec % 2 ^ 32)).wr TB_NOW_SECH_SECH (s.tbSec / 2 ^ 32)
  s.wr TB_NOW_FRAC_FRAC s.tbFrac

def execTimebaseSnapshotRead (s : State) : Out := .next s.nowRead

/-! ### Time triggers (R323, R324) -/

/-- The first instant of mode 1 after the present (R323). -/
def State.ttFirst (s : State) (start period : Nat) : Nat :=
  if s.ns < start then start else start + ((s.ns - start) / period + 1) * period

/-- A write of CFG arms trigger `t`. -/
def State.ttArm (s : State) (t : Nat) : State :=
  let start := s.reg (TB_TT_START_SEC t) * 1000000000 + s.rd (TB_TT_START_NS_NS t)
  let period := s.rd (TB_TT_PERIOD_NS t)
  let next := if s.rd (TB_TT_CFG_MODE t) = 1 then some (s.ttFirst start period) else none
  s.setTt t { next := next, start := start, period := period, ofs := s.rd (TB_TT_OFFSET_NS t) }

/-- Events of modes 2 and 3 fall due OFFSET ns after the instant `at16` (sixteenths). -/
def State.ttDue (s : State) (t at16 : Nat) : State :=
  let x := s.tt t
  s.setTt t { x with dues := x.dues ++ [at16 + x.ofs * 16] }

/-- Events of mode 2 that are due are dropped: no cycle-mode event falls in frames of no cycle (02_control_cycle.md R43). -/
def State.dropCycleDues (s : State) : State :=
  s.forEach (List.range 32) fun s k => s.when (s.rd (TB_TT_CFG_MODE k) == 2) fun s => s.setTt k { s.tt k with dues := [] }

/-- A cycle starts (R323 mode 2). -/
def State.ttCycle (s : State) : State :=
  s.forEach (List.range 32) fun s t =>
    s.when (s.rd (TB_TT_CFG_MODE t) == 2 && s.reg LOOP_CYC_NUM % (s.rd (TB_TT_CFG_DIV t) + 1) == 0) fun s => s.ttDue t s.t16

/-- Ticks from a swap instant to the first tick after the swap, which takes 2 periods of CK_CORE (02_control_cycle.md R47). -/
def State.swapTicks (s : State) : Nat := 1000000 / max 1 (s.rd CLK_SYS_FREQ_KHZ) + 1

/-- The swap of entry `c` completes, exchanged or skipped (R323 mode 3). -/
def State.ttSwap (s : State) (c : Nat) : State :=
  s.forEach (List.range 32) fun s t =>
    s.when (s.rd (TB_TT_CFG_MODE t) == 3 && s.rd (TB_TT_CFG_CELL t) == c) fun s => s.ttDue t (s.t16 + 32 * s.swapTicks)

/-- Some enabled slot names trigger `t` to release it; to start its prefetch. -/
def State.ttRel (s : State) (t : Nat) : Bool :=
  (List.range 16).any fun n => (List.range 8).any fun j => s.slotEn n j && s.rd (ENG_TASK_CFG_TT n j) == t
def State.ttPf (s : State) (t : Nat) : Bool :=
  (List.range 16).any fun n => (List.range 8).any fun j =>
    s.slotEn n j && s.rd (ENG_TASK_CFG_PF_TT n j) == t

/-- An event enters the trigger queue of 32, or is dropped (01_architecture.md R22). -/
def State.trigPush (s : State) (t : Nat) : State :=
  s.when (s.ttRel t || s.ttPf t) fun s =>
    if s.trigq.length < 32 then { s with trigq := s.trigq ++ [{ t := t, rel := s.ttRel t, pf := s.ttPf t }] }
    else (s.bump (TB_TT_STAT_DROPS t)).post srcTB t 1 clsTIMING 1 t

/-- Remove the duty of the oldest entry of `t` that satisfies `c`; whether there was one. -/
def trigTake (t : Nat) (c : TrigE → Bool) (f : TrigE → TrigE) : List TrigE → Option (List TrigE)
  | [] => none
  | e :: r =>
    if e.t = t ∧ c e then
      let e := f e
      some (if e.rel || e.pf then e :: r else r)
    else (trigTake t c f r).map (e :: ·)

/-- The trigger queue delivers an event to the task slots (07_lupin_engines.md R184). -/
def execTaskRelease (tt : Fin 32) (s : State) : Out :=
  .next (match trigTake tt (·.rel) (fun e => { e with rel := false }) s.trigq with
    | none => s
    | some q => { s with trigq := q }.taskRelease tt)

/-- The trigger queue delivers an event to the prefetches (07_lupin_engines.md R191). -/
def execPrefetchInStart (tt : Fin 32) (s : State) : Out :=
  .next (match trigTake tt (·.pf) (fun e => { e with pf := false }) s.trigq with
    | none => s
    | some q => { s with trigq := q }.prefetchTrigger tt)

/-- TSCNT of a CAN controller after `p` more periods of CK_CAN: it advances every TSPRE + 1 of them (18_can_fd.md R485). -/
def State.canCount (s : State) (m p : Nat) : State :=
  s.when (s.on (CAN_TSC_EN m) && !(s.can m).frozen) fun s =>
    let k := (s.can m).sub + p
    let d := s.rd (CAN_TSC_TSPRE m) + 1
    (s.setCan m { s.can m with sub := k % d }).setReg (CAN_TSCNT m) ((s.reg (CAN_TSCNT m) + k / d) % 2 ^ 32)

/-- IR bit `b` of a controller; source 11 while IE enables it (R490). -/
def State.canIr (s : State) (m b : Nat) : State :=
  (s.setBit (CAN_IR_IR m) b).when (s.bitAt (CAN_IE_IE m) b) fun s => s.irq 11

/-- A CAN controller captures its counter with the timebase (18_can_fd.md R486). -/
def State.tscap (s : State) (m p : Nat) : State :=
  let s := s.canCount m p
  let s := s.setReg (CAN_CAP_CNT m) (s.reg (CAN_TSCNT m))
  (((s.setReg (CAN_CAP_NS m) s.stampNs).setReg (CAN_CAP_SEC m) (s.tbSec % 2 ^ 32)).set1 (CAN_TSCAP_DONE m)).canIr m 8

/-- What an event of trigger `t` does (R324, R325). -/
def State.ttFire (s : State) (t : Nat) : State :=
  let s := (s.set1 (TB_TT_STAT_FIRED t)).setReg (TB_TT_CNT t) (s.reg (TB_TT_CNT t) + 1)
  if s.dev = 5 then s.when (s.on ANA_WAKE_TT_EN && s.rd ANA_WAKE_TT_SEL == t) fun s => s.wake 31
  else
    let s := s.when (s.on (TB_TT_CFG_IRQ t)) fun s => s.irq 6
    let s := s.trigPush t
    let s := ((s.adcWindows t).adcEvent 1 t).trcTt t
    let s := s.forEach (List.range 4) fun s m =>
      s.when (s.on (CAN_TSCAP_SRC m) && s.rd (CAN_TSCAP_TT m) == t) fun s => s.drawn.tscap m (s.freeNat 32)
    s.when (s.on TB_PPS_CFG_EN && s.rd TB_PPS_CFG_TT == t && s.rd (TB_TT_CFG_MODE t) == 1) fun s =>
      s.setSys { s.sys with pps := true }

/-- The first tick of CK_TB at or after an instant in units of 2^-24 ns: ticks lie at even nanoseconds of the timebase
(DESIGN CHOICE, notes/assumptions/112.md). -/
def tickUp (t : Nat) : Nat := ceilDiv t (2 ^ 25) * 2 ^ 25

/-- The instant of the next event of trigger `t` comes; the event occurs at the first tick at or after it. -/
def State.doTtEvent (s : State) (t : Nat) : State :=
  let x := s.tt t
  if s.rd (TB_TT_CFG_MODE t) = 1 then
    match x.next with
    | none => s
    | some i => ((s.timeTo (tickUp (i * 2 ^ 24))).setTt t { x with next := some (i + x.period) }).ttFire t
  else match x.dues with
    | [] => s
    | d :: r => ((s.timeTo (tickUp (d * 2 ^ 20))).setTt t { x with dues := r }).ttFire t

def execTtEvent (t : Fin 32) (s : State) : Out := .next (s.when s.tbRuns fun s => s.doTtEvent t)

/-- An event of trigger `t` is due in the present tick. -/
def State.ttDueNow (s : State) (t : Nat) : Bool :=
  let x := s.tt t
  if s.rd (TB_TT_CFG_MODE t) = 1 then x.next.any fun i => decide (i * 2 ^ 24 ≤ s.tb)
  else (x.dues[0]?).any fun d => decide (d * 2 ^ 20 ≤ s.tb)

/-- PPS_OUT may be high: EN is set and the trigger named is in mode 1 (R325). -/
def State.ppsOk (s : State) : Bool := s.on TB_PPS_CFG_EN && s.rd (TB_TT_CFG_MODE (s.rd TB_PPS_CFG_TT)) == 1
/-- PPS_OUT falls when it may not be high. -/
def State.ppsEval (s : State) : State := s.when (!s.ppsOk) fun s => s.setSys { s.sys with pps := false }

/-- A write of `w` to CFG of trigger `t`; entries 192 to 255 are reserved. An event due in the tick of the write occurs under the old
values (R323). -/
def State.ttWrite (s : State) (t w : Nat) : State :=
  if 192 ≤ bitsOf w 3 8 then s.reserved (TB_TT_CFG t)
  else
    let s := s.when (s.tbRuns && s.ttDueNow t) fun s => s.doTtEvent t
    ((s.setReg (TB_TT_CFG t) (w % 2 ^ 17)).ttArm t).ppsEval

def execTtArm (t : Fin 32) (w : BitVec 32) (s : State) : Out := .next (s.ttWrite t w.toNat)

/-- PPS_OUT has been high for WIDTH us. -/
def execPpsWidthEnd (s : State) : Out := .next (s.setSys { s.sys with pps := false })

/-! ### Setting the timebase (R321) -/

/-- A write of SET_CTL.GO. -/
def State.tbSet (s : State) : State :=
  if s.on LOOP_CYC_CFG_EN || s.on MOD_CFG_EN || (List.range 24).any fun n => s.on (CHAIN_CFG_EN n) then s.reserved TB_SET_CTL
  else
    let sec := s.reg TB_SET_SEC + s.rd TB_SET_SECH_SECH * 2 ^ 32
    let s := s.setTb ((sec * 1000000000 + s.rd TB_SET_NS_NS) * 2 ^ 24)
    let s := { s with frames := s.frame }
    let s := (s.setSys { s.sys with slew := 0 }).clr TB_SLEW_CTL_BUSY
    let s := s.setIsl { s.isl with resync := true }
    s.forEach (List.range 32) fun s t =>
      let x := s.tt t
      s.when x.next.isSome fun s => s.setTt t { x with next := some (s.ttFirst x.start x.period) }

def execTimebaseSet (s : State) : Out := .next s.tbSet

/-! ### Captures (R326) -/

/-- An edge at the ball PPS_IN, as capture unit `k` sees it, `q` quarters of a nanosecond after the present tick; the edges of the trip
lines come with the lines (Analogue.lean). -/
def execCaptureEdge (k : Fin 8) (rising : Bool) (q : Fin 8) (s : State) : Out := .next (s.doCapture k 24 rising q)

end Sys2Proof.Machine
end

