-- ==== Sys2Proof/Machine/Nvc.lean ====
section
/-! DEFINITION. Machine/Nvc.lean: writes and scrub reads of the non-volatile memory (17_reset_power_boot.md R460 to R462) and its commands. -/
namespace Sys2Proof.Machine

/-- An area of the MRAM window that has an owner other than programs (R461); the free part of the Heath area is written by the
Heath program (15_ageing_and_margins.md R414). -/
def nvOwned (a : Nat) : Bool :=
  decide (a < 0x02004000 ∨ (0x02080000 ≤ a ∧ a < 0x02080100) ∨ 0x02090000 ≤ a)

/-- A program's write of bytes into the MRAM window (R461). -/
def State.nvWrite (s : State) (a : Nat) (bs : List Byte) : State := if nvOwned a then s.locked a else s.nvPut a bs

/-- A write of a word of 8 B: the bytes that are not enabled are read and merged (R460); one with no byte enabled writes nothing. -/
def State.nvWriteWord (s : State) (w v be : Nat) : State :=
  let a := 0x02000000 + 8 * w
  if nvOwned a then s.locked a
  else if be % 256 = 0 then s
  else s.nvPut a ((List.range 8).map fun i => if be.testBit i then BitVec.ofNat 8 (v / 2 ^ (8 * i)) else s.nvByte (a + i))

/-- A write of word `w`, with byte enables. -/
def execMramWrite (w : Fin 524288) (v : BitVec 64) (be : BitVec 8) (s : State) : Out :=
  .next (s.nvWriteWord w v.toNat be.toNat)

/-- One scrub read of the word SCRUB.NEXT: 0 good, 1 a single error, 2 a double error (R462). -/
def State.doScrub (s : State) (err : Nat) : State :=
  s.when (s.on NVC_CFG_SCRUB_EN) fun s =>
    let w := s.rd NVC_SCRUB_NEXT
    let a := 0x02000000 + 8 * w
    let s := s.when (err == 1) fun s =>
      ((s.bump NVC_CE_COUNT).post srcNVC 0 1 clsMEMORY 0 w).nvPut a (s.nvBytes a 8)
    let s := s.when (err == 2) fun s =>
      let s := ((s.bump NVC_UE_COUNT).wr NVC_UE_ADDR_ADDR w).set1 NVC_UE_ADDR_VALID
      (s.setSys { s.sys with nvBad := w :: s.sys.nvBad.filter (· != w) }).post srcNVC 0 2 clsMEMORY 1 w
    if w + 1 = 524288 then (s.clr NVC_SCRUB_NEXT).setReg NVC_PASSES (s.reg NVC_PASSES + 1)
    else s.wr NVC_SCRUB_NEXT (w + 1)

def execScrubRead (err : Fin 3) (s : State) : Out := .next (s.doScrub err)

/-- A program's read of an MRAM word that holds an uncorrectable error, and is not being rewritten, returns 0 and posts UE again (R460, R462): whether it does, and the
state after. -/
def State.nvBadRead (s : State) (a : Nat) : Bool × State :=
  let w := (a - 0x02000000) / 8
  let waits := (s.sys.nvRun.toList ++ s.sys.nvq).any fun x => x.1 == 0x02000000 + 8 * w && x.2.length == 8
  if s.sys.nvBad.contains w && !waits then (true, s.post srcNVC 0 2 clsMEMORY 1 w) else (false, s)

end Sys2Proof.Machine
end

