-- ==== Sys2Proof/Machine/Ageing.lean ====
section
/-! DEFINITION. Machine/Ageing.lean: the Heath monitor: measurements, long-term records and margin plans
(15_ageing_and_margins.md R408 to R427), and its commands. -/
namespace Sys2Proof.Machine

/-! ### Measurements (R409 to R412); the monitor needs an Aster engine that runs (01_architecture.md R19) -/

/-- A write of RO_CTL.START, ignored while BUSY is 1. -/
def execRoStart (s : State) : Out := .next (s.set1 AGE_RO_CTL_BUSY)

/-- A run of the ring oscillators ends with its counts. -/
def execRoDone (counts : List (BitVec 24)) (s : State) : Out :=
  if counts.length = 48 then
    .next (s.when (s.asterRuns && s.on AGE_RO_CTL_BUSY) fun s =>
      let s := s.forEach (List.range 48) fun s i => s.wr (AGE_RO_COUNT i) ((counts[i]?).getD 0).toNat
      (s.clr AGE_RO_CTL_BUSY).set1 AGE_RO_CTL_DONE)
  else .fault .illFormed

/-- A write of SRM_CTL.START for the group the register holds. -/
def State.srmStart (s : State) : State :=
  s.when (!s.on AGE_SRM_CTL_BUSY) fun s =>
    ({ s with age := { s.age with srm := s.rd AGE_SRM_CTL_GROUP } }).set1 AGE_SRM_CTL_BUSY

def execSrmStart (s : State) : Out := .next s.srmStart

/-- The SRAM measurement ends: the steps withstood. -/
def execSrmDone (steps : BitVec 6) (s : State) : Out :=
  .next (s.when (s.asterRuns && s.on AGE_SRM_CTL_BUSY) fun s =>
    let s := (s.wr (AGE_SRM_MARGIN s.age.srm) steps.toNat).set1 (AGE_SRM_VALID s.age.srm)
    (s.clr AGE_SRM_CTL_BUSY).set1 AGE_SRM_CTL_DONE)

/-- The comparison of VREF_CAP with the second bandgap gives a difference in ppm (R411). -/
def State.doBandgap (s : State) (d : Int) : State :=
  let b := s.age.bg0.getD d
  (({ s with age := { s.age with bg0 := some b } }).wr AGE_BG_PPM (ofInt 16 (d - b))).set1 AGE_BG_VALID

def execBandgapMeasure (ppm : BitVec 16) (s : State) : Out := .next (s.when s.asterRuns fun s => s.doBandgap ppm.toInt)

/-- A read of LKQ removes the oldest result (R412, R429): its value, and the state after. -/
def State.lkqRead (s : State) : Nat × State :=
  match s.prot.lkq with
  | [] => (0xFFFFFFFF, s)
  | e :: t =>
    (e.toNat, ({ s with prot := { s.prot with lkq := t, lkLost := s.prot.lkLost && !t.isEmpty } }).wr AGE_LKQ_STAT_OCC t.length)

def execLkqRead (s : State) : Out := .next s.lkqRead.2

/-! ### Records (R414 to R416) -/

/-- Address of a record slot. -/
def recAddr (k : Nat) : Nat := 0x02090000 + 16 * k
/-- A record's RCRC passes. -/
def State.recOk (s : State) (k : Nat) : Bool :=
  let b := s.nvBytes (recAddr k) 16
  crc16 (b.take 14) == fieldAt b 14 2
def State.recHour (s : State) (k : Nat) : Nat := ofBytes (s.nvBytes (recAddr k) 4)

/-- The first slot, from `k`, whose record fails or whose HOUR is not greater than that of the slot before it (R416). -/
def State.recScan (s : State) : Nat → Nat → Nat
  | 0, _ => 0
  | f + 1, k =>
    if !s.recOk k || (k != 0 && decide (s.recHour k ≤ s.recHour (k - 1))) then k else State.recScan s f (k + 1)

/-- The search after a reset (R416). -/
def State.recHead (s : State) : State := s.wr AGE_REC_HEAD_HEAD (s.recScan 225280 0)

/-- The record that REC0 to REC2 and HOURS make. -/
def State.recMake (s : State) : List Byte :=
  let b := toBytes 4 (s.reg AGE_HOURS) ++ toBytes 4 (s.reg AGE_REC0) ++ toBytes 4 (s.reg AGE_REC1) ++ toBytes 2 (s.rd AGE_REC2_WORST)
  b ++ toBytes 2 (crc16 b)

/-- Write a record at REC_HEAD and advance; the first time the area fills posts REC_FULL. -/
def State.recAppend (s : State) (b : List Byte) : State :=
  let h := s.rd AGE_REC_HEAD_HEAD
  let full := s.recOk h
  let h' := (h + 1) % 225280
  let s := (s.nvPut (recAddr h) b).wr AGE_REC_HEAD_HEAD h'
  s.when (!full && s.recOk h') fun s => s.post srcAGE 0 3 clsMEMORY 1 0

/-- A write of REC_CTL.COMMIT. -/
def State.recCommit (s : State) : State :=
  if s.on AGE_REC_STAT_PEND then s.set1 AGE_REC_STAT_COLL
  else if s.recOk (s.rd AGE_REC_HEAD_HEAD) && !s.on AGE_REC_CTL_WRAP then s.set1 AGE_REC_STAT_FULL
  else if s.on PWR_STAT_SUSP then
    let s := { s with age := { s.age with held := some s.recMake } }
    (s.set1 AGE_REC_STAT_PEND).post srcAGE 0 4 clsMEMORY 0 (s.reg AGE_HOURS)
  else s.recAppend s.recMake

def execRecordCommit (s : State) : Out := .next s.recCommit

/-- Write pulses resume: a held record is written. -/
def State.recResume (s : State) : State :=
  match s.age.held with
  | none => s
  | some b => (({ s with age := { s.age with held := none } }).clr AGE_REC_STAT_PEND).recAppend b

/-- An hour of timebase time has passed with VCORE present (R415). -/
def execHourTick (s : State) : Out := .next (s.setReg AGE_HOURS (s.reg AGE_HOURS + 1))

/-- A write of ENV_LOCK.LOCK (R418). -/
def execEnvLockSet (s : State) : Out := .next (s.set1 AGE_ENV_LOCK_LOCK)

/-! ### Plan records (R420) -/

def planWord (l : List Word) (i : Nat) : Nat := ((l[i]?).getD 0).toNat
def planVal (l : List Word) (p : Nat) : Nat := bitsOf (planWord l (4 + p / 2)) (16 * (p % 2)) 16
def planChg (l : List Word) (p : Nat) : Bool := (planWord l 3).testBit p
def planBytes (l : List Word) : List Byte := l.flatMap fun w => toBytes 4 w.toNat
/-- A record with its check code. -/
def planSeal (l : List Word) : List Word := l.take 63 ++ [BitVec.ofNat 32 (crc32c ((planBytes l).take 252))]

/-- The range of a parameter (R417). -/
def planRange (p : Nat) : Nat × Nat :=
  if p = 0 then (400, 800) else if p = 1 then (0, 100) else if p ≤ 5 then (10, 4095) else if p = 6 then (4, 120)
  else if p = 7 then (20, 120) else if p = 8 then (4, 255) else if p = 9 then (0, 16) else if p = 10 then (64, 127)
  else if p = 11 then (0, 40) else if p = 12 then (100, 10000) else (0, 65535)

/-- The value of parameter `p` in force. -/
def State.inForce (s : State) (p : Nat) : Nat := bitsOf (s.reg (AGE_ACTIVE (4 + p / 2))) (16 * (p % 2)) 16

/-- The value of parameter `p` under plan `l`. -/
def State.planNew (s : State) (l : List Word) (p : Nat) : Nat := if planChg l p then planVal l p else s.inForce p

/-- The first envelope record of the safety block for a parameter (R418). -/
def State.envBlock (s : State) (p : Nat) : Option Nat := (List.range 31).find? fun r => s.param (0x100 + 8 * r) 1 == p

/-- A parameter whose envelope the safety block holds. -/
def State.envInBlock (s : State) (p : Nat) : Bool :=
  (decide (2 ≤ p) && decide (p ≤ 7)) || p == 13 || (decide (16 ≤ p) && (s.envBlock p).isSome)

/-- MIN, MAX and MAXSTEP of a parameter. -/
def State.envOf (s : State) (p : Nat) : Nat × Nat × Nat :=
  if s.envInBlock p then
    match s.envBlock p with
    | some r => (s.param (0x102 + 8 * r) 2, s.param (0x104 + 8 * r) 2, s.param (0x106 + 8 * r) 2)
    | none => (0, 0, 0)
  else (s.rd (AGE_ENV_MINMAX_MIN p), s.rd (AGE_ENV_MINMAX_MAX p), s.rd (AGE_ENV_STEP_MAXSTEP p))

/-- A parameter has a commissioned envelope (R421). -/
def State.envOk (s : State) (p : Nat) : Bool :=
  if s.envInBlock p then (s.envBlock p).isSome && (s.islSt == 2 || s.islSt == 3) else s.on AGE_ENV_LOCK_LOCK

/-- A TX equaliser setting is valid (03_cell_lanes.md R64). -/
def txeqOk (pre main post : Nat) : Bool :=
  decide (pre + main + post ≤ 127 ∧ 64 ≤ main ∧ pre ≤ 16 ∧ post ≤ 40 ∧ 32 + pre + post ≤ main)

/-- Number of EP registers per cell that a plan changes. -/
def planEp (l : List Word) : Nat :=
  ((List.range 4).filter fun k => planChg l (2 + k)).length + (if planChg l 6 || planChg l 7 then 12 else 0)

/-- First frame, modulo 2^32, of the cycle with number `m` modulo 2^32. -/
def State.cycFrame (s : State) (m : Nat) : Nat :=
  let g := s.grid
  ofInt 32 (g.anchor + (g.next - 1 + toInt 32 (subMod 32 m (s.reg LOOP_CYC_NUM))) * g.frames)

/-- Why a plan is refused and its first offending parameter, where it has one (R421, R422). -/
def State.planWhy (s : State) (l : List Word) : Option (Nat × Option Nat) :=
  let first := !s.on AGE_PLAN_STAT_INFORCE
  let chg := (List.range 32).filter (planChg l)
  let bad := fun (f : Nat → Bool) => chg.find? f
  let noGrid := first && !s.on LOOP_CYC_CFG_EN
  let d := toInt 32 (subMod 32 (planWord l 2) (s.cycFrame (planWord l 1)))
  let khz := s.planNew l 0 * 1000
  let why := (s.spreadSet (s.on CLK_SYS_SPREAD_EN) (s.planNew l 1)).rampWhy khz
  if !s.on AGE_CFG_EN || s.standby then some (9, none)
  else if crc32c ((planBytes l).take 252) ≠ planWord l 63 ∨ planWord l 0 = 0 then some (1, none)
  else match bad fun p => decide (planVal l p < (planRange p).1 ∨ (planRange p).2 < planVal l p) with
  | some p => some (12, some p)
  | none => match bad fun p => !s.envOk p with
  | some p => some (8, some p)
  | none => match bad fun p => decide (planVal l p < (s.envOf p).1 ∨ (s.envOf p).2.1 < planVal l p) with
  | some p => some (2, some p)
  | none => match (if first then (List.range 13).find? fun p => !planChg l p else none) with
  | some p => some (2, some p)
  | none => match (if first || s.age.skipStep then none else bad fun p =>
      (s.envOf p).2.2 != 0 && decide ((s.envOf p).2.2 < ((planVal l p : Int) - s.inForce p).natAbs)) with
  | some p => some (3, some p)
  | none =>
    if (planChg l 9 || planChg l 10 || planChg l 11) && !txeqOk (s.planNew l 9) (s.planNew l 10) (s.planNew l 11) then
      some (4, bad fun p => decide (9 ≤ p ∧ p ≤ 11))
    else if !noGrid && decide (toInt 32 (subMod 32 (planWord l 1) (s.reg LOOP_CYC_NUM)) < 2) then some (6, none)
    else if !noGrid && decide (planEp l ≠ 0) && decide (d < (planEp l + s.rd PROT_CFG_LEAD : Nat) ∨ 2 ^ 20 < d) then some (7, none)
    else if (planChg l 0 || planChg l 1) && !s.allFit khz (s.planNew l 1) then some (5, bad fun p => decide (p ≤ 1))
    else if planChg l 0 && (why == 2 || why == 4 || why == 5) then some (11, some 0)
    else none

/-- A plan is refused (R421). A reason that names no parameter leaves PARAM not stated. -/
def State.planRefuse (s : State) (why : Nat) (p : Option Nat) : State :=
  let k := p.getD (s.freeNat 5)
  let s := if p.isNone then s.drawn else s
  let s := ((s.set1 AGE_PLAN_STAT_REFUSED).wr AGE_PLAN_STAT_WHY why).wr AGE_PLAN_STAT_PARAM k
  (s.post srcAGE 0 1 clsCONFIG 1 (why * 256 + k)).irq 9

/-! ### Applying (R423 to R425) -/

/-- The clock part (R424): whether it was applied. -/
def State.planClock (s : State) (l : List Word) : Bool × State :=
  let khz := s.planNew l 0 * 1000
  let d := s.planNew l 1
  let c0 := planChg l 0
  let c1 := planChg l 1
  let en := s.on CLK_SYS_SPREAD_EN
  let f := if c0 then khz else s.centre
  let why := if (c0 || c1) && !s.allFit f (if en then d else 0) then 1
    else if c0 then (s.when c1 fun s => s.spreadSet en d).rampWhy khz else 0
  if why ≠ 0 then (false, (s.set1 AGE_PLAN_STAT_CLK_DROP).post srcAGE 0 2 clsCLOCK 1 why)
  else
    let s := s.when c0 fun s => (s.wr CLK_SYS_RAMP_END khz).rampStart khz
    (true, s.when c1 fun s => s.spreadSet en d)

/-- The image registers of one cell take the changed values and are pushed (R423); `f`: APPLY_FRAME. -/
def State.planCell (s : State) (l : List Word) (f : Option Nat) (c : Nat) : State :=
  let s := s.forEach ((List.range 4).filter fun k => planChg l (2 + k)) fun s k =>
    (s.wr (PROT_PARC_DT_DT c k) (planVal l (2 + k))).imageDirty c k
  let s := s.when (planChg l 6 || planChg l 7) fun s => s.forEach (List.range 12) fun s k =>
    let s := s.when (planChg l 6) fun s => s.wr (PROT_PARC_DS_BLANK c k) (planVal l 6)
    (s.when (planChg l 7) fun s => s.wr (PROT_PARC_DS_THRESH c k) (planVal l 7)).imageDirty c (4 + k)
  s.pushWith c f

/-- CELLS_SYNC sets once every pushed cell shows SYNC (R423). -/
def State.cellsSync (s : State) : State :=
  s.when (s.on AGE_PLAN_STAT_INFORCE && s.age.pushed.all fun c => s.on (PROT_PARC_PSTAT_SYNC c)) fun s =>
    s.set1 AGE_PLAN_STAT_CELLS_SYNC

/-- The record in force after plan `l`: values that do not change read back as in force. -/
def State.planRec (s : State) (l : List Word) (clk : Bool) : List Word :=
  let v := fun p => if p ≤ 1 ∧ !clk then s.inForce p else s.planNew l p
  planSeal (l.take 4 ++ (List.range 16).map (fun i => BitVec.ofNat 32 (v (2 * i) + v (2 * i + 1) * 65536)) ++ List.replicate 44 0)

/-- The plan takes effect (R423 to R425); `first`: a first plan outside the cycle grid (R422). -/
def State.planApply (s : State) (first : Bool) : State :=
  let l := s.age.plan
  let r := s.planClock l
  let rec' := s.planRec l r.1
  let s := r.2
  let s := s.forEach (List.range 64) fun s i => s.setReg (AGE_ACTIVE i) (planWord rec' i)
  let s := ((s.setReg AGE_APPLY_SEQ (planWord l 0)).set1 AGE_PLAN_STAT_INFORCE).clr AGE_PLAN_STAT_CELLS_SYNC
  let cells := if planEp l = 0 then [] else (List.range 192).filter s.cellEn
  let s := s.forEach cells fun s c => s.planCell l (if first then none else some (planWord l 2)) c
  let s := s.forEach ((List.range 24).filter fun n => s.on (LANE_CTL_EN n)) fun s n =>
    let s := s.when (planChg l 9) fun s => s.wr (LANE_TXEQ_PRE n) (planVal l 9)
    let s := s.when (planChg l 10) fun s => s.wr (LANE_TXEQ_MAIN n) (planVal l 10)
    s.when (planChg l 11) fun s => s.wr (LANE_TXEQ_POST n) (planVal l 11)
  let s := s.when (planChg l 8) fun s => s.wr MOD_BOOT1_TREF (planVal l 8)
  let s := s.when (planChg l 12) fun s => s.forEach ((List.range 8).filter fun j => s.on (MOD_STR_CFG_AUTO j)) fun s j =>
    s.wr (MOD_STR_PERIOD_PERIOD j) (planVal l 12 * 100)
  let s := { s with age := { s.age with plan := [], skipStep := false, pushed := cells } }
  let s := s.clr AGE_PLAN_STAT_STATE
  let s := (s.post srcAGE 0 6 clsCONFIG 0 (planWord l 0)).cellsSync
  let s := s.nvPut 0x02080000 (planBytes rec')
  let s := s.when (s.on AGE_CFG_DST_EN) fun s => s.putMem (s.rd AGE_DST_ADDR * 256) (planBytes rec')
  s.when (s.rd SADL_STAT_ROLE == 3) fun s => { s with pair := { s.pair with planq := [0, 1, 2, 3] } }

/-- A cycle starts: a PENDING plan for it applies. -/
def State.planCycle (s : State) : State :=
  s.when (s.asterRuns && s.rd AGE_PLAN_STAT_STATE == 2 && planWord s.age.plan 1 == s.reg LOOP_CYC_NUM) fun s => s.planApply false

/-! ### Submitting (R421, R422, R426) -/

/-- A record is captured for validation, or refused. -/
def State.planSubmit (s : State) (l : List Word) (skip : Bool) : State :=
  if !s.on AGE_CFG_EN || s.standby then s.planRefuse 9 none
  else if s.rd AGE_PLAN_STAT_STATE ≠ 0 then s.planRefuse 10 none
  else ({ s with age := { s.age with plan := l, skipStep := skip } }).wr AGE_PLAN_STAT_STATE 1

/-- A write of PLAN_CTL.SUBMIT captures SHADOW. -/
def State.doSubmit (s : State) : State :=
  s.planSubmit ((List.range 64).map fun i => BitVec.ofNat 32 (s.reg (AGE_SHADOW i))) false

def execPlanSubmit (s : State) : Out := .next s.doSubmit

/-- Validation ends. -/
def State.planValidated (s : State) : State :=
  s.when (s.asterRuns && s.rd AGE_PLAN_STAT_STATE == 1) fun s =>
    match s.planWhy s.age.plan with
    | some (w, p) => (({ s with age := { s.age with plan := [], skipStep := false } }).clr AGE_PLAN_STAT_STATE).planRefuse w p
    | none =>
      let s := ((s.set1 AGE_PLAN_STAT_ACCEPTED).wr AGE_PLAN_STAT_STATE 2).irq 9
      s.when (!s.on AGE_PLAN_STAT_INFORCE && !s.on LOOP_CYC_CFG_EN) fun s => s.planApply true

def execPlanValidationDone (s : State) : Out := .next s.planValidated

/-- A PENDING plan is withdrawn. -/
def State.planCancel (s : State) : State :=
  s.when (s.rd AGE_PLAN_STAT_STATE == 2) fun s =>
    ({ s with age := { s.age with plan := [], skipStep := false } }).clr AGE_PLAN_STAT_STATE

def execPlanCancel (s : State) : Out := .next s.planCancel

/-- A new ACTIVE device submits the partner's record, when it is whole and not the one in force (R426). -/
def State.planTakeover (s : State) : State :=
  let part := fun k => ((s.pair.planIn.find? fun x => x.1 == k).map (·.2)).getD []
  let bs := part 0 ++ part 1 ++ part 2 ++ part 3
  if bs.length ≠ 256 ∨ fieldAt bs 0 4 = s.reg AGE_APPLY_SEQ then s
  else
    let m := (s.reg LOOP_CYC_NUM + 2) % 2 ^ 32
    let ws := (List.range 64).map fun i =>
      BitVec.ofNat 32 (if i = 1 then m else if i = 2 then s.cycFrame m + 16 else fieldAt bs (4 * i) 4)
    s.planSubmit (planSeal ws) true

end Sys2Proof.Machine
end

