-- ==== Sys2Proof/Machine/AnaCmds.lean ====
section
/-! DEFINITION. Machine/AnaCmds.lean: the commands of the die-to-die link (01_architecture.md R16, R17) and of the analogue parts
(10_analogue_and_thermal.md). -/
namespace Sys2Proof.Machine

/-- A flit arrives, with a good CRC or not; what a bad one carries is lost (01_architecture.md R17). -/
def State.doFlit (s : State) (ok : Bool) (x : D2dLoad) : State :=
  if ok then (s.when (!s.linkUp) State.linkRetrain).flitIn.2
  else ((s.bump SYS_D2D_STAT_CRC_ERR).postAna 4 1 0).loseLoad x

def execD2dFlitReceived (ok : Bool) (load : D2dLoad) (s : State) : Out := .next (s.doFlit ok load)

/-- No valid flit for 1 us. -/
def execD2dDown (s : State) : Out := .next s.linkDown

def execAdcTrigger (a : Fin 4) (s : State) : Out := .next (s.adcTrigger a)
def execAdcConversionDone (a : Fin 4) (vin : Int) (s : State) : Out := .next (s.adcDone a vin)

/-- A write of URG with GO. -/
def execAdcUrgentGo (a : Fin 4) (inp : BitVec 3) (s : State) : Out :=
  .next ((s.wr (ADC_URG_IN a) inp.toNat).adcUrgent a)

def execAdcCalReq (a : Fin 4) (s : State) : Out := .next (s.adcCalReq a)

/-- A calibration ends (R287). -/
def execAdcCalDone (a : Fin 4) (s : State) : Out :=
  .next (s.when (s.on (ADC_STAT_CAL a)) fun s => ((s.clr (ADC_STAT_CAL a)).clr (ADC_STAT_BUSY a)).set1 (ADC_CAL_DONE a))

/-- A read of a LO word fills the shadow (R289); `k` 16 is URES. -/
def execResLoRead (a : Fin 4) (k : Fin 17) (s : State) : Out :=
  let hi := BitVec.ofNat 32 (if k.val < 16 then s.reg (ADC_RES_HI a k) else s.reg (ADC_URES_HI a))
  .next (s.setAdc a { s.adc a with shadow := Tbl.put k.val hi (s.adc a).shadow })

/-- A read of a HI word empties the shadow (R289). -/
def execResHiRead (a : Fin 4) (k : Fin 17) (s : State) : Out :=
  .next (s.setAdc a { s.adc a with shadow := Tbl.drop k.val (s.adc a).shadow })

/-- A write of 1 to REF_CTL.EN (R281). -/
def execRefEnable (s : State) : Out := .next (s.set1 ANA_REF_CTL_EN)

/-- 2,000 CK_AON periods after EN rose (R281). -/
def execRefReady (s : State) : Out :=
  .next (s.when (s.on ANA_REF_CTL_EN) fun s =>
    (s.set1 ANA_REF_CTL_READY).forEach (List.range 4) fun s a => s.set1 (ADC_STAT_REF_RDY a))

/-- A write of 1 to CTL.EN of a comparator (R294). -/
def execCmpEnable (i : Fin 24) (s : State) : Out := .next ((s.set1 (CMP_CTL_EN i)).cmpApply i)

/-- The third consecutive sample, of an input at `vin` nV outside the band, the DAC settled and the reference ready (R294): the output follows
the raw output, which the input has asserted or deasserted (R293). -/
def State.doHoldRelease (s : State) (i : Nat) (v : Int) : State :=
  let x := s.cmp i
  let up := rawAsserts x (cLevel x) v
  s.when (s.on (CMP_STAT_HELD i) && !s.on (CMP_STAT_SETTLING i) && s.on ANA_REF_CTL_READY && (up || rawDeasserts x (cLevel x) v)) fun s =>
    ((s.clr (CMP_STAT_HELD i)).wr (CMP_STAT_RAW i) (bit up)).cmpEval i

def execCmpHoldRelease (i : Fin 24) (vin : Int) (s : State) : Out := .next (s.doHoldRelease i vin)

/-- The DAC has settled (R291). -/
def execDacSettled (i : Fin 24) (s : State) : Out := .next (s.clr (CMP_STAT_SETTLING i))

/-- An input at `v` nV asserts (`b`) or deasserts the raw output, when it stands past that switching point (R293, R295). -/
def State.doRaw (s : State) (i : Nat) (b : Bool) (v : Int) : State :=
  let r := s.cmpLevel i
  let x := s.cmp i
  s.when (cEN x) fun _ =>
    r.2.when (if b then rawAsserts x r.1 v else rawDeasserts x r.1 v) fun s => (s.wr (CMP_STAT_RAW i) (bit b)).cmpEval i

def execCmpOutputAssert (i : Fin 24) (vin : Int) (s : State) : Out := .next (s.doRaw i true vin)
def execCmpOutputDeassert (i : Fin 24) (vin : Int) (s : State) : Out := .next (s.doRaw i false vin)

/-- A write of CLR.LATCH (R295). -/
def execCmpClearLatch (i : Fin 24) (s : State) : Out :=
  .next (s.when (!s.cmpHeldOut i) fun s => (s.clr (CMP_STAT_LATCHED i)).cmpEval i)

/-- A write of THM.REQ (R298). -/
def execThmRequest (mask : BitVec 12) (s : State) : Out :=
  .next (s.forEach ((List.range 12).filter mask.toNat.testBit) fun s i => s.thmStart i)

def execThmMeasureDone (i : Fin 12) (t : BitVec 16) (s : State) : Out := .next (s.thmDone i t.toNat)

/-- A sensor is found broken (R299). -/
def execSensorBroken (i : Fin 12) (s : State) : Out :=
  .next (s.when (!s.bitAt THM_STAT_BROKEN i) fun s =>
    let s := (s.setBit THM_STAT_BROKEN i).bump THM_CNT_BROKEN_EV
    (s.post srcTHM i 1 clsTHERMAL 1 i).voteEval i)

/-- A broken sensor is no longer found broken (R299). -/
def execSensorBrokenClear (i : Fin 12) (s : State) : Out := .next ((s.clrBit THM_STAT_BROKEN i).voteEval i)

/-- A sensor at `t` sixteenths of a degree: its comparator rises above 135 degrees, or falls below 125 degrees (R297, R300). -/
def execSensorHot (i : Fin 12) (t : BitVec 16) (s : State) : Out :=
  .next (s.when (decide (135 * 16 < t.toInt)) fun s => (s.setBit THM_HOT_HOT i).voteEval i)
def execSensorCool (i : Fin 12) (t : BitVec 16) (s : State) : Out :=
  .next (s.when (decide (t.toInt < 125 * 16)) fun s => (s.clrBit THM_HOT_HOT i).voteEval i)

/-- A wake event in DORMANT: comparator 0 to 23, or 31 the time trigger (R301). -/
def execWakeEvent (cause : Fin 32) (s : State) : Out :=
  .next (s.when (if cause.val = 31 then s.on ANA_WAKE_TT_EN else decide (cause.val < 24) && s.on (CMP_CTL_WAKE_EN cause) && s.on (CMP_STAT_OUT cause)) fun s =>
    s.wake cause)

end Sys2Proof.Machine
end

