-- ==== Sys2Proof/Machine/Float.lean ====
section
/-! DEFINITION. Machine/Float.lean: binary32 arithmetic (08_qorov_instruction_set.md R217, R225, R233, R234). Numbers are their bit
patterns; a result carries the bits of `fl` it sets. Rounding is to nearest, ties to even; a subnormal operand is a zero, and a
rounded result that is subnormal is delivered as a zero with UF and NX. -/
namespace Sys2Proof.Machine

/-! ### Flags of `fl` (R225) -/

def flSAT : Nat := 1
def flAOV : Nat := 2
def flDZ : Nat := 4
def flNV : Nat := 8
def flFDZ : Nat := 16
def flOF : Nat := 32
def flUF : Nat := 64
def flNX : Nat := 128

/-! ### Operands -/

def fNeg (a : Nat) : Bool := a.testBit 31
def fExp (a : Nat) : Nat := bitsOf a 23 8
def fFrac (a : Nat) : Nat := bitsOf a 0 23
def fNan (a : Nat) : Bool := fExp a == 255 && fFrac a != 0
/-- A signalling NaN makes an operation invalid. -/
def fSnan (a : Nat) : Bool := fNan a && !a.testBit 22
def fInf (a : Nat) : Bool := fExp a == 255 && fFrac a == 0
def fZero (a : Nat) : Bool := fExp a == 0
/-- The magnitude of a finite number is `fMag a * 2 ^ fPow a`. -/
def fMag (a : Nat) : Nat := if fExp a = 0 then 0 else 8388608 + fFrac a
def fPow (a : Nat) : Int := (fExp a : Int) - 150

def qNan : Nat := 0x7FC00000
/-- A result with a sign. -/
def fSigned (neg : Bool) (x : Nat) : Nat := bit neg * 2 ^ 31 + x
def fInfinity (neg : Bool) : Nat := fSigned neg 0x7F800000

/-- A NaN result, invalid when an operand is a signalling NaN. -/
def fNanOf (l : List Nat) : Nat × Nat := (qNan, if l.any fSnan then flNV else 0)

/-! ### Rounding -/

/-- `m / 2 ^ sh` rounded to nearest, ties to even, and whether it is inexact; `sticky`: the exact value lies above `m`. -/
def roundEven (m sh : Nat) (sticky : Bool) : Nat × Bool :=
  let q := m / 2 ^ sh
  let r := 2 * (m % 2 ^ sh)
  let half := 2 ^ sh
  let up := decide (half < r) || (r == half && decide (0 < sh) && (sticky || q % 2 == 1))
  (q + bit up, decide (0 < r) || sticky)

/-- The binary32 result of the exact value `m * 2 ^ e`, not 0. -/
def fRound (neg : Bool) (m : Nat) (e : Int) (sticky : Bool) : Nat × Nat :=
  let sh : Int := max ((Nat.log2 m : Int) - 23) (-149 - e)
  let (q, inx) := if sh ≤ 0 then (m * 2 ^ (-sh).toNat, sticky) else roundEven m sh.toNat sticky
  let qe := e + sh
  if q < 8388608 then (fSigned neg 0, flUF + flNX)
  else
    let (q, qe) := if q = 16777216 then (8388608, qe + 1) else (q, qe)
    let x := qe + 150
    if 255 ≤ x then (fInfinity neg, flOF + flNX)
    else (fSigned neg (x.toNat * 8388608 + (q - 8388608)), if inx then flNX else 0)

/-- The sum of two exact signed values `x * 2 ^ e` and `y * 2 ^ f`; `z`: the sign of an exact zero. -/
def fSum (x : Int) (e : Int) (y : Int) (f : Int) (z : Bool) : Nat × Nat :=
  let g := min e f
  let v := x * 2 ^ (e - g).toNat + y * 2 ^ (f - g).toNat
  if v = 0 then (fSigned z 0, 0) else fRound (decide (v < 0)) v.natAbs g false

def fInt (a : Nat) : Int := if fNeg a then -(fMag a : Int) else fMag a

/-! ### Operations -/

def fAdd (a b : Nat) : Nat × Nat :=
  if fNan a || fNan b then fNanOf [a, b]
  else if fInf a && fInf b then (if fNeg a == fNeg b then (a, 0) else (qNan, flNV))
  else if fInf a then (a, 0)
  else if fInf b then (b, 0)
  else fSum (fInt a) (fPow a) (fInt b) (fPow b) (fNeg a && fNeg b && fZero a && fZero b)

/-- The operand with its sign inverted. -/
def fFlip (a : Nat) : Nat := a ^^^ 0x80000000

def fSub (a b : Nat) : Nat × Nat := fAdd a (fFlip b)

def fMul (a b : Nat) : Nat × Nat :=
  let neg := fNeg a != fNeg b
  if fNan a || fNan b then fNanOf [a, b]
  else if (fInf a && fZero b) || (fZero a && fInf b) then (qNan, flNV)
  else if fInf a || fInf b then (fInfinity neg, 0)
  else if fZero a || fZero b then (fSigned neg 0, 0)
  else fRound neg (fMag a * fMag b) (fPow a + fPow b) false

def fDiv (a b : Nat) : Nat × Nat :=
  let neg := fNeg a != fNeg b
  if fNan a || fNan b then fNanOf [a, b]
  else if (fInf a && fInf b) || (fZero a && fZero b) then (qNan, flNV)
  else if fInf a then (fInfinity neg, 0)
  else if fInf b || fZero a then (fSigned neg 0, 0)
  else if fZero b then (fInfinity neg, flFDZ)
  else
    let m := fMag a * 2 ^ 40
    fRound neg (m / fMag b) (fPow a - fPow b - 40) (m % fMag b != 0)

/-- `c + a * b`, rounded once; `nv`: whether infinity times zero plus a quiet NaN is invalid, which IEEE 754 leaves open. -/
def fMadd (c a b : Nat) (nv : Bool) : Nat × Nat :=
  let neg := fNeg a != fNeg b
  let bad := (fInf a && fZero b) || (fZero a && fInf b)
  if fNan a || fNan b then fNanOf [a, b, c]
  else if fNan c then (qNan, if fSnan c || (bad && nv) then flNV else 0)
  else if bad then (qNan, flNV)
  else if fInf a || fInf b then (if fInf c && fNeg c != neg then (qNan, flNV) else (fInfinity neg, 0))
  else if fInf c then (c, 0)
  else
    let p : Int := fInt a * fInt b
    fSum p (fPow a + fPow b) (fInt c) (fPow c) (neg && fNeg c && p == 0 && fZero c)

/-- A subnormal operand read as a zero with its sign. -/
def fFlush (a : Nat) : Nat := if fZero a then fSigned (fNeg a) 0 else a

/-- Order of the numbers, with -0 below +0. -/
def fKey (a : Nat) : Int := if fNeg a then -(bitsOf (fFlush a) 0 31 : Int) - 1 else bitsOf (fFlush a) 0 31

/-- `fmin` and `fmax`: `lo` chooses the smaller. -/
def fPick (lo : Bool) (a b : Nat) : Nat :=
  if fNan a && fNan b then qNan
  else if fNan a then fFlush b
  else if fNan b then fFlush a
  else if lo == decide (fKey a ≤ fKey b) then fFlush a else fFlush b

def fAbs (a : Nat) : Nat := if fNan a then qNan else bitsOf (fFlush a) 0 31

/-- The i32 `i` as binary32. -/
def fOfInt (i : Int) : Nat × Nat := if i = 0 then (0, 0) else fRound (decide (i < 0)) i.natAbs 0 false

/-- The nearest i32, saturated. -/
def fToInt (a : Nat) : Nat × Nat :=
  let far := if fNeg a then 0x80000000 else 0x7FFFFFFF
  if fNan a then (0, flNV)
  else if fInf a then (far, flNV)
  else
    let (q, inx) := if 0 ≤ fPow a then (fMag a * 2 ^ (fPow a).toNat, false) else roundEven (fMag a) (-(fPow a)).toNat false
    let v : Int := if fNeg a then -(q : Int) else q
    if satI 32 v = v then (ofInt 32 v, if inx then flNX else 0) else (far, flNV)

/-! ### Compares: zeros are equal -/

def fVal (a : Nat) : Int := if fNeg a then -(bitsOf (fFlush a) 0 31 : Int) else bitsOf (fFlush a) 0 31
def fEq (a b : Nat) : Bool := !fNan a && !fNan b && fVal a == fVal b
/-- An ordered compare, and its flags. -/
def fOrd (le : Bool) (a b : Nat) : Bool × Nat :=
  if fNan a || fNan b then (false, flNV) else (decide (fVal a < fVal b) || (le && fVal a == fVal b), 0)

end Sys2Proof.Machine
end

