-- ==== Sys2Proof/Machine/Qorov.lean ====
section
/-! DEFINITION. Machine/Qorov.lean: the encodings of the Qorov instructions (08_qorov_instruction_set.md R218, R219, R226): the instruction
that a 32-bit word spells. -/
namespace Sys2Proof.Machine

/-- Field [`lo` + 4 : `lo`] of a word, a register number. -/
def qReg (w : BitVec 32) (lo : Nat) : Fin 32 := (w.extractLsb' lo 5).toFin
/-- OP, FN, RD (or RT), RA, RB, the 12-bit field IMM, OFS or K, its bits [11:3], and bits [16:0] of `lil` and `lih` (R218). -/
def qOp (w : BitVec 32) : Nat := (w.extractLsb' 26 6).toNat
def qFn (w : BitVec 32) : Nat := (w.extractLsb' 0 7).toNat
def qRd (w : BitVec 32) : Fin 32 := qReg w 17
def qRa (w : BitVec 32) : Fin 32 := qReg w 12
def qRb (w : BitVec 32) : Fin 32 := qReg w 7
def qImm (w : BitVec 32) : BitVec 12 := w.extractLsb' 0 12
def qK9 (w : BitVec 32) : BitVec 9 := w.extractLsb' 3 9
def qImm17 (w : BitVec 32) : BitVec 17 := w.extractLsb' 0 17

/-- PN and PRED, bits [25] and [24:22]. -/
def qIss (i : Iss) (w : BitVec 32) : Iss := { i with pn := w.getLsbD 25, pred := (w.extractLsb' 22 3).toFin }

/-- A register operation of an OP from its FN. -/
abbrev F3 := Iss → Fin 32 → Fin 32 → Fin 32 → Instr

/-- The integer family (OP 0x00; R228): FN 0x10 + q is `sel`, q in FN[2:0]. -/
def qInteger (w : BitVec 32) : Option F3 :=
  match qFn w with
  | 0x00 => some .add
  | 0x01 => some .sub
  | 0x02 => some .and
  | 0x03 => some .or
  | 0x04 => some .xor
  | 0x05 => some .shl
  | 0x06 => some .shr
  | 0x07 => some .sar
  | 0x08 => some .min
  | 0x09 => some .max
  | n => if 16 ≤ n ∧ n < 24 then some fun i => .sel i (w.extractLsb' 0 3).toFin else none

/-- The multiply and divide family (OP 0x01; R229). -/
def qMulDiv (fn : Nat) : Option F3 :=
  match fn with
  | 0x00 => some .mul
  | 0x01 => some .mulh
  | 0x02 => some .div
  | 0x03 => some .divu
  | 0x04 => some .rem
  | _ => none

/-- The saturating and fixed-point family (OP 0x02; R230). -/
def qSaturating (fn : Nat) : Option F3 :=
  match fn with
  | 0x00 => some .adds
  | 0x01 => some .subs
  | 0x02 => some .abss
  | 0x03 => some .qmul
  | 0x04 => some .add2
  | 0x05 => some .sub2
  | 0x06 => some .mul2
  | 0x07 => some .pack
  | _ => none

/-- The multiply-accumulate family (OP 0x03; R231). -/
def qMac (fn : Nat) : Option F3 :=
  match fn with
  | 0x00 => some .mac
  | 0x01 => some .macu
  | 0x02 => some .mpy
  | 0x03 => some .qmac
  | 0x04 => some .mac2
  | _ => none

/-- The float family (OP 0x04; R233). -/
def qFloat (fn : Nat) : Option F3 :=
  match fn with
  | 0x00 => some .fadd
  | 0x01 => some .fsub
  | 0x02 => some .fmul
  | 0x03 => some .fdiv
  | 0x04 => some .fmadd
  | 0x05 => some .fmin
  | 0x06 => some .fmax
  | 0x07 => some .fabs
  | 0x08 => some .fcvtFi
  | 0x09 => some .fcvtIf
  | _ => none

/-- The compares (OP 0x05; R234). -/
def qCompare (fn : Nat) : Option F3 :=
  match fn with
  | 0x00 => some .ceq
  | 0x01 => some .cne
  | 0x02 => some .clt
  | 0x03 => some .cltu
  | 0x04 => some .fceq
  | 0x05 => some .fclt
  | 0x06 => some .fcle
  | 0x08 => some .pand
  | 0x09 => some .por
  | 0x0A => some .pxor
  | _ => none

/-- The privileged instructions (OP 0x3F; R250): SUB is K[2:0], values 5 to 7 are reserved. -/
def qPrivileged (i : Iss) (w : BitVec 32) : Option Instr :=
  match (w.extractLsb' 0 3).toNat with
  | 0 => some (.rfe i (qRd w) (qRa w) (qK9 w))
  | 1 => some (.idle i (qRd w) (qRa w) (qK9 w))
  | 2 => some (.mfc i (qRd w) (qRa w) (qK9 w))
  | 3 => some (.mtc i (qRd w) (qRa w) (qK9 w))
  | 4 => some (.rgld i (qRd w) (qRa w) (qK9 w))
  | _ => none

/-- The instruction that the word `w` spells in the place `i` describes (R226); none: its OP, FN or SUB is listed in no table, a reserved encoding
(R219). Reserved values of the other fields are refused by the meanings. -/
def decodeQorov (i : Iss) (w : BitVec 32) : Option Instr :=
  let i := qIss i w
  let d := qRd w
  let a := qRa w
  let m := qImm w
  let f3 := fun f : Option F3 => f.map fun f => f i d a (qRb w)
  match qOp w with
  | 0x00 => f3 (qInteger w)
  | 0x01 => f3 (qMulDiv (qFn w))
  | 0x02 => f3 (qSaturating (qFn w))
  | 0x03 => f3 (qMac (qFn w))
  | 0x04 => f3 (qFloat (qFn w))
  | 0x05 => f3 (qCompare (qFn w))
  | 0x08 => some (.addi i d a m)
  | 0x09 => some (.andi i d a m)
  | 0x0A => some (.ori i d a m)
  | 0x0B => some (.shli i d a m)
  | 0x0C => some (.shri i d a m)
  | 0x0D => some (.ceqi i d a m)
  | 0x0E => some (.clti i d a m)
  | 0x10 => some (.lil i d (qImm17 w))
  | 0x11 => some (.lih i d (qImm17 w))
  | 0x18 => some (.ldw i d a m false)
  | 0x19 => some (.ldh i d a m false)
  | 0x1A => some (.ldhu i d a m false)
  | 0x1B => some (.ldbu i d a m false)
  | 0x1C => some (.stw i d a m)
  | 0x1D => some (.sth i d a m)
  | 0x1E => some (.stb i d a m)
  | 0x1F => some (.prf i d a m)
  | 0x20 => some (.br i (w.extractLsb' 0 22))
  | 0x21 => some (.brl i (w.extractLsb' 0 22))
  | 0x22 => some (.jr i d a m)
  | 0x23 => some (.jrl i d a m)
  | 0x28 => some (.csnap i d a m false)
  | 0x29 => some (.msh i d a m)
  | 0x2A => some (.ldall i d a m)
  | 0x2B => some (.glut i d a m)
  | 0x2C => some (if w.getLsbD 0 then .pstepTarget i d a (w.extractLsb' 1 11) else .pstepKeep i d a (w.extractLsb' 1 11))
  | 0x2D => some (if (w.extractLsb' 0 3) = 0 then .tbrdSnapshot i d (qK9 w) else .tbrdPart i d (w.extractLsb' 0 3) (qK9 w))
  | 0x2E => if qFn w = 0 then some (.wait i d a (qRb w)) else none
  | 0x2F => some (.fpost i d a m)
  | 0x30 => some (.tprb i d a m)
  | 0x31 => some (.tmeas i d a m)
  | 0x32 => some (.tend i d a m)
  | 0x33 => some (if w.getLsbD 2 then .mfsClear i d a m else .mfs i d a m)
  | 0x34 => some (.accr i d a m)
  | 0x35 => some (.accw i d a m)
  | 0x3F => qPrivileged i w
  | _ => none

end Sys2Proof.Machine

/-- The word in issue is a reserved encoding: no table of the chapter lists its OP, FN or SUB (08_qorov_instruction_set.md R219). -/
def Sys2Proof.Iss.reserved (i : Sys2Proof.Iss) : Bool := i.word.any fun w => (Sys2Proof.Machine.decodeQorov i w).isNone
end

