-- ==== Sys2Proof/Machine/Can.lean ====
section
/-! DEFINITION. Machine/Can.lean: the CAN FD controllers (chapter 18). What happens on the bus, whose protocol is that of ISO 11898-1,
comes as commands: a frame received or sent, a lost arbitration, an error. -/
namespace Sys2Proof.Machine

def CAN_DATA (m o b : Nat) : Nat := CAN_OBJ_DATA0 m o + 4 * b

/-- A CAN fault (R488). -/
def State.postCan (s : State) (m kind cls sev datum : Nat) : State := s.post srcCAN m kind cls sev datum

/-- The controller is on the bus: error-active or error-passive, and not frozen (R482, R487); an Aster engine runs (01_architecture.md
R19). -/
def State.canOn (s : State) (m : Nat) : Bool :=
  s.asterRuns && (s.rd (CAN_STAT_STATE m) == 1 || s.rd (CAN_STAT_STATE m) == 2) && !(s.can m).frozen

/-- What STAT.ACT and ECNT.BOC read while a frame or a recovery can be under way, which no command tells, is left open. -/
def State.canNow (s : State) (m : Nat) : State :=
  (s.when (s.canOn m) fun s => s.wrFree (CAN_STAT_ACT m)).when (s.on (CAN_STAT_RECOV m)) fun s =>
    (s.wr (CAN_ECNT_BOC m) (s.freeNat 7)).drawn

/-! ### Transmit objects (R478, R481, R483, R484) -/

def State.txreq (s : State) (m o : Nat) : Bool := s.on (CAN_OBJ_TXS_TXREQ m o)
def State.txPending (s : State) (m : Nat) : List Nat := (List.range 64).filter (s.txreq m)

/-- The arbitration field of an object as a number: the lowest wins (R481). -/
def State.arbKey (s : State) (m o : Nat) : Nat :=
  let id := s.rd (CAN_OBJ_OID_ID m o)
  let rtr := s.rd (CAN_OBJ_OCFG_RTR m o)
  if s.on (CAN_OBJ_OCFG_XTD m o) then id / 2 ^ 18 * 2 ^ 21 + 2 ^ 20 + 2 ^ 19 + id % 2 ^ 18 * 2 + rtr
  else id / 2 ^ 18 * 2 ^ 21 + rtr * 2 ^ 20

/-- The pending object that wins: the lowest number among equals. -/
def State.canBest (s : State) (m : Nat) : Option Nat :=
  (s.txPending m).foldl (fun b o => match b with
    | none => some o
    | some c => if s.arbKey m o < s.arbKey m c then some o else some c) none

/-- The pending objects changed: the one that wins now can be selected too. -/
def State.canCand (s : State) (m : Nat) : State :=
  match s.canBest m with
  | none => s
  | some o => if (s.can m).cands.contains o then s else s.setCan m { s.can m with cands := (s.can m).cands ++ [o] }

/-- A frame has ended: a new start point. -/
def State.canStart (s : State) (m : Nat) : State :=
  (s.setCan m { s.can m with cands := (s.canBest m).toList }).wr (CAN_STAT_ACT m) 0

def State.canPend (s : State) (m : Nat) : State := s.wr (CAN_STAT_PEND m) (s.txPending m).length

/-- An object ends: `ok`, TRANSMITTED, else CANCELLED. -/
def State.txEnd (s : State) (m o : Nat) (ok : Bool) : State :=
  let s := (s.clr (CAN_OBJ_TXS_TXREQ m o)).clr (CAN_OBJ_TXS_CANC_PEND m o)
  let s := if ok then ((s.set1 (CAN_OBJ_TXS_TRANSMITTED m o)).bump (CAN_CNT_TX_OK m)).canIr m 1
    else ((s.set1 (CAN_OBJ_TXS_CANCELLED m o)).bump (CAN_CNT_TX_CANC m)).canIr m 2
  s.canPend m

/-- A write of OCTL.SETREQ. -/
def State.setreq (s : State) (m o : Nat) : State :=
  if s.on (CAN_OBJ_OCFG_EN m o) && s.on (CAN_OBJ_OCFG_DIR m o) && !s.txreq m o then
    ((s.set1 (CAN_OBJ_TXS_TXREQ m o)).canPend m).canCand m
  else s.set1 (CAN_OBJ_TXS_WCOLL m o)

def execCanSetreq (m : Fin 4) (o : Fin 64) (s : State) : Out := .next (s.setreq m o)

/-- A write of OCTL.CANCEL; `started`: the object's frame has started when the request reaches the controller. -/
def State.cancel (s : State) (m o : Nat) (started : Bool) : State :=
  s.when (s.txreq m o) fun s =>
    if started && s.canOn m then s.set1 (CAN_OBJ_TXS_CANC_PEND m o)
    else
      let s := s.txEnd m o false
      (s.setCan m { s.can m with cands := (s.can m).cands.filter (· != o) }).canCand m

def execCanCancel (m : Fin 4) (o : Fin 64) (started : Bool) (s : State) : Out := .next (s.cancel m o started)

/-! ### Receiving (R479, R480) -/

/-- Bytes of a frame of a DLC. -/
def dlcLen (fdf : Bool) (d : Nat) : Nat :=
  if d ≤ 8 then d
  else if !fdf then 8
  else ([12, 16, 20, 24, 32, 48, 64][d - 9]?).getD 64

/-- The lowest enabled receive object that matches. -/
def State.canMatch (s : State) (m : Nat) (f : CanFrame) : Option Nat :=
  (List.range 64).find? fun o => s.on (CAN_OBJ_OCFG_EN m o) && !s.on (CAN_OBJ_OCFG_DIR m o) &&
    Nat.land (Nat.xor f.id.toNat (s.rd (CAN_OBJ_OID_ID m o))) (s.rd (CAN_OBJ_OMASK_MASK m o)) == 0 &&
    s.on (CAN_OBJ_OCFG_XTD m o) == f.xtd && (!s.on (CAN_OBJ_OMASK_MFDF m o) || s.on (CAN_OBJ_OCFG_FDF m o) == f.fdf)

/-- The stored frame of an object; NEWDAT last. STAMP is TSCNT at the SOF (R485). -/
def State.canStore (s : State) (m o : Nat) (f : CanFrame) : State :=
  let n := if f.rtr then 0 else dlcLen f.fdf f.dlc.toNat
  let bs := (f.data.take n ++ List.replicate 64 0).take 64
  let s := s.setReg (CAN_OBJ_RXID m o) f.id.toNat
  let s := ((s.wr (CAN_OBJ_RXS_ESI m o) (bit f.esi)).wr (CAN_OBJ_RXS_RFDF m o) (bit f.fdf)).wr (CAN_OBJ_RXS_RBRS m o) (bit f.brs)
  let s := ((s.wr (CAN_OBJ_RXS_RXTD m o) (bit f.xtd)).wr (CAN_OBJ_RXS_RRTR m o) (bit f.rtr)).wr (CAN_OBJ_RXS_RDLC m o) f.dlc.toNat
  let s := s.setReg (CAN_OBJ_STAMP m o) (s.reg (CAN_TSCNT m))
  let s := s.forEach (List.range 16) fun s b => s.setReg (CAN_DATA m o b) (ofBytes ((bs.drop (4 * b)).take 4))
  let s := s.when (s.on (CAN_OBJ_RXS_NEWDAT m o)) fun s =>
    ((s.set1 (CAN_OBJ_RXS_MSGLST m o)).canIr m 6).postCan m 5 clsLINK 0 o
  ((s.set1 (CAN_OBJ_RXS_NEWDAT m o)).bump (CAN_CNT2_RX_OK m)).canIr m 0

/-- A valid frame is matched. -/
def State.canTake (s : State) (m : Nat) (f : CanFrame) : State :=
  match s.canMatch m f with
  | some o => s.canStore m o f
  | none => s.bump (CAN_CNT2_NOMATCH m)

/-- A read of RXS clears NEWDAT. -/
def State.rxsRead (s : State) (m o : Nat) : State := s.clr (CAN_OBJ_RXS_NEWDAT m o)

def execCanRxsRead (m : Fin 4) (o : Fin 64) (s : State) : Out := .next (s.rxsRead m o)

/-! ### Error counters and states (R482) -/

/-- STATE follows the counters: error-passive above 127. -/
def State.canState (s : State) (m : Nat) : State :=
  let passive := decide (128 ≤ s.rd (CAN_ECNT_TEC m)) || s.on (CAN_ECNT_RP m)
  let was := s.rd (CAN_STAT_STATE m)
  let s := s.wr (CAN_STAT_STATE m) (if passive then 2 else 1)
  s.when (passive && was != 2) fun s => (s.canIr m 3).postCan m 1 clsLINK 0 (s.rd (CAN_ECNT_TEC m))

/-- Recovery starts to count. -/
def State.canCount128 (s : State) (m : Nat) : State := (s.set1 (CAN_STAT_RECOV m)).clr (CAN_ECNT_BOC m)

/-- Enter bus-off. -/
def State.busOff (s : State) (m : Nat) : State :=
  let s := (s.setCan m { s.can m with off := true }).wr (CAN_STAT_STATE m) 3
  let s := (s.canIr m 4).postCan m 2 clsLINK 1 0
  s.when (s.on (CAN_CTL_ABO m)) fun s => s.canCount128 m

/-- The transmit error counter grows by 8. -/
def State.tecUp (s : State) (m : Nat) : State :=
  let t := s.rd (CAN_ECNT_TEC m) + 8
  let s := s.wr (CAN_ECNT_TEC m) (min 255 t)
  if 256 ≤ t then s.busOff m else s.canState m

/-- The receive error counter grows. -/
def State.recUp (s : State) (m k : Nat) : State :=
  let r := s.rd (CAN_ECNT_REC m) + k
  let s := s.wr (CAN_ECNT_REC m) (min 127 r)
  (s.when (decide (128 ≤ r)) fun s => s.set1 (CAN_ECNT_RP m)).canState m

/-- A frame received without error: the receive error counter falls by one, or from error-passive to a value of 119 to 127 that
ISO 11898-1 leaves open. -/
def State.recDown (s : State) (m : Nat) : State :=
  let s := if s.on (CAN_ECNT_RP m) then ((s.clr (CAN_ECNT_RP m)).wr (CAN_ECNT_REC m) (119 + s.freeNat 4 % 9)).drawn
    else s.wr (CAN_ECNT_REC m) (s.rd (CAN_ECNT_REC m) - 1)
  s.canState m

/-- A valid frame is received; one of CAN FD only while those are enabled. Its SOF comes `sof` periods of CK_CAN after TSCNT last
counted, its end `len` periods later. -/
def State.canReceive (s : State) (m : Nat) (f : CanFrame) (sof len : Nat) : State :=
  s.when (s.canOn m && (!f.fdf || s.on (CAN_CTL_FDOE m))) fun s =>
    ((((s.canCount m sof).canTake m f).canCount m len).recDown m).canStart m

def execCanFrameReceived (m : Fin 4) (f : CanFrame) (sof len : Nat) (s : State) : Out := .next (s.canReceive m f sof len)

/-- An error while receiving: a protocol exception (R474), else the receive error counter grows by 1, or by 8 where ISO 11898-1
says so. -/
def State.canRxErr (s : State) (m : Nat) (pxe big : Bool) : State :=
  s.when (s.canOn m) fun s =>
    let s := if pxe && !s.on (CAN_CTL_PXHD m) then ((s.set1 (CAN_STAT_PXE m)).canIr m 7).postCan m 7 clsLINK 0 0
      else (s.bump (CAN_CNT3_ERR m)).recUp m (if big then 8 else 1)
    s.canStart m

def execCanRxError (m : Fin 4) (pxe big : Bool) (s : State) : Out := .next (s.canRxErr m pxe big)

/-! ### Sending -/

/-- The frame of a transmit object; with FDOE or BRSE clear it goes without CAN FD format or bit-rate switching (DEDUCED,
notes/assumptions/115.md). -/
def State.canOwn (s : State) (m o : Nat) : CanFrame :=
  let fd := s.on (CAN_OBJ_OCFG_FDF m o) && s.on (CAN_CTL_FDOE m)
  { id := BitVec.ofNat 29 (s.rd (CAN_OBJ_OID_ID m o)), xtd := s.on (CAN_OBJ_OCFG_XTD m o), fdf := fd
    brs := fd && s.on (CAN_OBJ_OCFG_BRS m o) && s.on (CAN_CTL_BRSE m), esi := fd && s.rd (CAN_STAT_STATE m) == 2, rtr := s.on (CAN_OBJ_OCFG_RTR m o)
    dlc := BitVec.ofNat 4 (s.rd (CAN_OBJ_OCFG_DLC m o))
    data := (List.range 16).flatMap fun b => toBytes 4 (s.reg (CAN_DATA m o b)) }

/-- The loop delay of an FD frame with bit-rate switching, measured in periods of CK_CAN (R477). -/
def State.tdcMeasure (s : State) (m o d : Nat) : State :=
  s.when (s.on (CAN_TDC_EN m) && (s.canOwn m o).brs && decide (s.rd (CAN_TDC_TDCF m) ≤ d)) fun s =>
    (s.wr (CAN_TDC_TDCV m) (min 127 d)).when (decide (127 < d)) fun s => s.postCan m 8 clsLINK 1 0

/-- The frame of object `o` completes; `d`: the loop delay measured in it; `sof`, `len`: as of a received frame. -/
def State.canTxDone (s : State) (m o d sof len : Nat) : State :=
  s.when (s.canOn m && s.rd (CAN_CTL_MODE m) != 1 && s.txreq m o && (s.can m).cands.contains o) fun s =>
    let own := s.canOwn m o
    let s := (s.canCount m sof).tdcMeasure m o d
    let s := s.setReg (CAN_OBJ_STAMP m o) (s.reg (CAN_TSCNT m))
    let s := s.txEnd m o true
    let s := (s.wr (CAN_ECNT_TEC m) (s.rd (CAN_ECNT_TEC m) - 1)).canState m
    let s := s.when (s.rd (CAN_CTL_MODE m) == 2) fun s => s.canTake m own
    (s.canCount m len).canStart m

def execCanTxDone (m : Fin 4) (o : Fin 64) (d sof len : Nat) (s : State) : Out := .next (s.canTxDone m o d sof len)

/-- The frame of object `o` loses arbitration, or meets an error; `quiet`: an error that ISO 11898-1 does not count. -/
def State.canTxFail (s : State) (m o : Nat) (arb quiet : Bool) : State :=
  s.when (s.canOn m && s.rd (CAN_CTL_MODE m) != 1 && s.txreq m o && (s.can m).cands.contains o) fun s =>
    let s := if arb then s.bump (CAN_CNT3_ARB_LOST m)
      else (s.bump (CAN_CNT3_ERR m)).when (!quiet) fun s => s.tecUp m
    let s := s.when (s.on (CAN_OBJ_TXS_CANC_PEND m o)) fun s => s.txEnd m o false
    s.canStart m

def execCanTxFail (m : Fin 4) (o : Fin 64) (arb quiet : Bool) (s : State) : Out := .next (s.canTxFail m o arb quiet)

/-! ### Recovery, initialisation, clock (R476, R482, R487) -/

/-- A write of CTL.RECOVER. -/
def State.canRecover (s : State) (m : Nat) : State :=
  s.when (s.rd (CAN_STAT_STATE m) == 3 && !s.on (CAN_STAT_RECOV m) && !(s.can m).frozen) fun s => s.canCount128 m

def execCanRecover (m : Fin 4) (s : State) : Out := .next (s.canRecover m)

/-- The 128th occurrence of 11 recessive bits. -/
def State.canRecovered (s : State) (m : Nat) : State :=
  s.when (s.asterRuns && s.rd (CAN_STAT_STATE m) == 3 && s.on (CAN_STAT_RECOV m) && !(s.can m).frozen) fun s =>
    let s := s.setCan m { s.can m with off := false }
    let s := ((s.wr (CAN_ECNT_TEC m) 0).wr (CAN_ECNT_REC m) 0).clr (CAN_ECNT_RP m)
    let s := ((s.wr (CAN_ECNT_BOC m) 128).clr (CAN_STAT_RECOV m)).wr (CAN_STAT_STATE m) 1
    ((s.canIr m 5).postCan m 3 clsLINK 0 0).canStart m

def execCanBusoffRecovered (m : Fin 4) (s : State) : Out := .next (s.canRecovered m)

/-- Triple sampling does not apply to the nominal timing set (R476). -/
def State.samIgnored (s : State) (m : Nat) : Bool :=
  let b := s.rd (CAN_NBT_NTSEG1 m) + s.rd (CAN_NBT_NTSEG2 m) + 3
  s.on (CAN_CTL_SAM m) && !(decide (320 ≤ (s.rd (CAN_NBT_NBRP m) + 1) * b) && decide (3 ≤ s.rd (CAN_NBT_NTSEG1 m) + 1))

/-- CTL.INIT is cleared: the controller integrates and joins the bus. -/
def State.initClear (s : State) (m : Nat) : State :=
  s.when (s.on (CAN_CTL_INIT m) && !(s.can m).frozen) fun s =>
    let ign := s.samIgnored m
    let s := ((s.clr (CAN_CTL_INIT m)).wr (CAN_STAT_SAM_IGN m) (bit ign)).when ign fun s => s.postCan m 4 clsCONFIG 0 0
    let s := if (s.can m).off then s.wr (CAN_STAT_STATE m) 3 else s.canState m
    (s.canStart m).wr (CAN_STAT_ACT m) 3

def execCanInitClear (m : Fin 4) (s : State) : Out := .next (s.initClear m)

/-- CTL.INIT is set: off the bus. -/
def State.initSet (s : State) (m : Nat) : State :=
  let s := (s.set1 (CAN_CTL_INIT m)).wr (CAN_STAT_STATE m) 0
  (s.setCan m { s.can m with cands := [] }).wr (CAN_STAT_ACT m) 0

/-- A write of TSCAP.GO, `p` periods of CK_CAN after TSCNT last counted. -/
def execCanTscap (m : Fin 4) (p : Nat) (s : State) : Out := .next (s.tscap m p)

/-- CK_CAN has stopped: the controller is frozen. -/
def State.canStop (s : State) (m : Nat) : State :=
  s.when (!(s.can m).frozen) fun s =>
    ((s.setCan m { s.can m with frozen := true }).set1 (CAN_STAT_CLKSTOP m)).postCan m 6 clsCLOCK 1 0

def execCanClockStop (m : Fin 4) (s : State) : Out := .next (s.canStop m)

end Sys2Proof.Machine
end

