-- ==== Sys2Proof/Machine/Security.lean ====
section
/-! DEFINITION. Machine/Security.lean: violations, the key vault, fuses and debug authentication (chapter 16) and their commands. -/
namespace Sys2Proof.Machine

/-- A SECURITY fault of source 0x007 (R444). -/
def State.postSec (s : State) (kind datum : Nat) : State := s.post srcSEC 0 kind clsSECURITY 1 datum

/-- An Aster engine in privileged mode (R433, R437). -/
def State.asterPriv (s : State) (m : Master) : Bool :=
  match m with
  | .aster n => (s.core (16 + n)).status.toNat.testBit 1
  | _ => false

/-! ### The vault (R434 to R440) -/

/-- Keys can be used: the key encryption key is derived and use is not suspended (R436, R439). -/
def State.vaultOk (s : State) : Bool := s.rd SEC_VAULT_STAT_PUF == 2 && !s.on SEC_STAT_LOCKED

/-- SLOTS and ID follow the stored keys. -/
def State.vaultShow (s : State) : State :=
  let s := s.wr SEC_VAULT_STAT_SLOTS ((List.range 16).map fun i => bit (s.sec.keys.any fun k => k.1 == i) * 2 ^ i).sum
  s.wr SEC_VAULT_STAT_ID (bit s.sec.idKey.isSome)

/-! #### Its records in MRAM (R435, R440, 17_reset_power_boot.md R459): helper data, erase flag, identity key and slots -/

def State.vaultHeads (s : State) : List Byte :=
  toBytes 4 (bit s.sec.helper + 2 * bit (s.on SEC_STAT_ERASED) + 4 * bit s.sec.idKey.isSome) ++ toBytes 4 (s.rd SEC_VAULT_STAT_SLOTS)

/-- The vault finds its stored keys; an absent record is no helper data. -/
def State.vaultLoad (s : State) : State :=
  let (r, s) := s.recLoad 4
  let f := match r with | some b => ofBytes (b.take 4) | none => 0
  let m := match r with | some b => ofBytes (b.drop 4) | none => 0
  let x := s.sec
  (s.setSec { x with helper := f.testBit 0, keys := x.keys.filter fun k => m.testBit k.1
                     idKey := if f.testBit 2 then x.idKey else none }).wr SEC_STAT_ERASED (bit (f.testBit 1))

def State.clearKeyIn (s : State) : State := s.forEach (List.range 8) fun s j => s.setReg (SEC_KEY_IN j) 0
def State.clearSig (s : State) : State := s.forEach (List.range 24) fun s j => s.setReg (SEC_SIG j) 0

/-- A command that runs is abandoned; SIG and KEY_IN read 0 after SIGN and IMPORT (R445). -/
def State.vaultAbort (s : State) : State :=
  match s.sec.cmd with
  | none => s
  | some (c, _) =>
    let s := (s.setSec { s.sec with cmd := none }).clr SEC_VAULT_STAT_BUSY
    s.when (c == 2 || c == 5) fun s => s.clearKeyIn.clearSig

/-- ERASE (R440), caused by violation `v`. -/
def State.erase (s : State) (v : Nat) : State :=
  let s := s.vaultAbort
  let s := (s.setSec { s.sec with helper := false, keys := [], idKey := none }).vaultShow
  let s := (s.wr SEC_VAULT_STAT_PUF 0).set1 SEC_STAT_ERASED
  (s.recErase s.vaultHeads).postSec 7 v

/-- A violation (R438, R439): recorded, posted, and its policy. -/
def State.violate (s : State) (v datum : Nat) : State :=
  let s := (s.setBit SEC_STAT_VIOL v).postSec (if v < 2 then 1 else v) datum
  let p := s.rd (SEC_POLICY_POL v)
  let s := s.when (p != 0) fun s => (s.set1 SEC_STAT_LOCKED).clr SEC_STAT_DBG_OPEN
  s.when (decide (2 ≤ p)) fun s => s.erase v

/-- A tamper input reads low for two samples. -/
def execTamper (i : Fin 2) (s : State) : Out := .next (s.violate i i)
def execVglitch (rail : Fin 3) (s : State) : Out := .next (s.violate 2 rail)
def execCglitch (k : Fin 2) (s : State) : Out := .next (s.violate 3 k)
def execLowtemp (s : State) : Out := .next (s.violate 4 0)

/-! ### Vault commands (R437) -/

/-- Whether a command is accepted. -/
def State.vaultAccepts (s : State) (c : Nat) : Bool :=
  let puf := s.rd SEC_VAULT_STAT_PUF
  !s.on SEC_STAT_LOCKED && !s.on SEC_VAULT_STAT_BUSY &&
    if c = 1 then puf != 2
    else if c = 2 ∨ c = 3 then puf == 2
    else if c = 4 then puf == 2 && s.sec.idKey.isNone
    else c == 5 && puf == 2 && s.sec.idKey.isSome

/-- A write of VAULT_CTL with CMD `c` and SLOT `slot`; CMD 0 names no command. -/
def State.vaultCtl (s : State) (m : Master) (c slot : Nat) : State :=
  if !s.asterPriv m then s.locked SEC_VAULT_CTL
  else if c = 0 then s
  else if s.vaultAccepts c then (s.setSec { s.sec with cmd := some (c, slot) }).set1 SEC_VAULT_STAT_BUSY
  else (s.set1 SEC_VAULT_STAT_REFUSED).postSec 9 c

def execVaultEnrol (m : Master) (s : State) : Out := .next (s.vaultCtl m 1 0)
def execVaultImport (m : Master) (slot : Fin 16) (s : State) : Out := .next (s.vaultCtl m 2 slot)
def execVaultClear (m : Master) (slot : Fin 16) (s : State) : Out := .next (s.vaultCtl m 3 slot)
def execVaultGenId (m : Master) (s : State) : Out := .next (s.vaultCtl m 4 0)
def execVaultSign (m : Master) (s : State) : Out := .next (s.vaultCtl m 5 0)

/-- What a command leaves when it completes. A new key and a signature come from the internal random source and are left open. -/
def State.vaultEffect (s : State) (c slot : Nat) : State :=
  if c = 1 then
    ((s.setSec { s.sec with helper := true, keys := [], idKey := none }).wr SEC_VAULT_STAT_PUF 2).clr SEC_STAT_ERASED
  else if c = 2 then
    let key := (List.range 8).map fun j => BitVec.ofNat 32 (s.reg (SEC_KEY_IN j))
    (s.setSec { s.sec with keys := Tbl.put slot key s.sec.keys }).clearKeyIn
  else if c = 3 then s.setSec { s.sec with keys := Tbl.drop slot s.sec.keys }
  else if c = 4 then
    let s := (s.setSec { s.sec with idKey := some (s.freeNat 384) }).drawn
    s.forEach (List.range 24) fun s j => s.wrFree (SEC_ID_PUB_WORD j)
  else s.forEach (List.range 24) fun s j => s.wrFree (SEC_SIG_WORD j)

/-- The command that runs completes. -/
def State.vaultDone (s : State) : State :=
  match s.sec.cmd with
  | none => s
  | some (c, slot) =>
    let s := ((s.setSec { s.sec with cmd := none }).clr SEC_VAULT_STAT_BUSY).set1 SEC_VAULT_STAT_DONE
    let s := (s.vaultEffect c slot).vaultShow
    s.when (c != 5) fun s => s.recPut 4 s.vaultHeads

def execVaultCommandDone (s : State) : Out := .next s.vaultDone

/-- A write of KEY_IN. -/
def State.keyIn (s : State) (m : Master) (j v : Nat) : State :=
  if s.asterPriv m then s.setReg (SEC_KEY_IN j) v else s.locked (SEC_KEY_IN j)

/-! ### Fuses (R433) -/

/-- The conditions of a burn; `x`: the slot to revoke, or the rollback floor. -/
def State.burnOk (s : State) (m : Master) (x : Option Nat) : Bool :=
  s.asterPriv m && s.dev == 1 && !s.on SEC_FUSE_STAT_BUSY &&
    match x with
    | none => decide (s.rd SEC_FUSE_FLOOR < 32) && decide (s.rd SEC_FUSE_FLOOR + 1 ≤ s.rd SEC_BOOT_VERSION)
    | some k => k != s.rd SEC_BOOT_SLOT && decide (s.rd SEC_FUSE_FLOOR ≤ s.rd SEC_BOOT_VERSION)

/-- A burn starts, or the write is refused. -/
def State.burn (s : State) (m : Master) (x : Option Nat) (a : Nat) : State :=
  if s.burnOk m x then (s.setSec { s.sec with burn := some x }).set1 SEC_FUSE_STAT_BUSY
  else if s.asterPriv m then s.reserved a
  else s.locked a

def execRollbackBurn (m : Master) (s : State) : Out := .next (s.burn m none SEC_ROLLBACK)

/-- A write of REVOKE with GO names its slot; a refused one leaves the register as it is (00_scope.md R12). -/
def State.revoke (s : State) (m : Master) (k : Nat) : State :=
  let ok := s.burnOk m (some k)
  let s := s.burn m (some k) SEC_REVOKE
  s.when ok fun s => s.wr SEC_REVOKE_SLOT k

def execRevokeBurn (m : Master) (slot : Fin 4) (s : State) : Out := .next (s.revoke m slot)

/-- The burn completes. -/
def State.burnDone (s : State) : State :=
  match s.sec.burn with
  | none => s
  | some x =>
    let s := (s.setSec { s.sec with burn := none }).clr SEC_FUSE_STAT_BUSY
    match x with
    | none => s.wr SEC_FUSE_FLOOR (s.rd SEC_FUSE_FLOOR + 1)
    | some k => s.setBit SEC_FUSE_REVOKED k

def execFuseBurnDone (s : State) : Out := .next s.burnDone

/-- A burn meets a supply warning of VIO33. -/
def State.burnAbort (s : State) : State :=
  s.when s.sec.burn.isSome fun s =>
    ((s.setSec { s.sec with burn := none }).clr SEC_FUSE_STAT_BUSY).set1 SEC_FUSE_STAT_BURN_ERR

/-! ### Debug authentication (R443) -/

/-- The tool reads a challenge: a new one is issued, but only 1 s after a failure. -/
def State.challenge (s : State) : State :=
  let ok := match s.sec.failAt with
    | none => true
    | some t => decide (1000000000 ≤ s.ns - t)
  s.when ok fun s => (s.setSec { s.sec with chal := some (s.freeNat 384) }).drawn

def execDebugChallengeRead (s : State) : Out := .next s.challenge

/-- The tool answers the challenge: `keyOk`, the key has the fused hash; `sigOk`, the signature verifies. -/
def State.debugAuth (s : State) (keyOk sigOk : Bool) : State :=
  s.when s.sec.chal.isSome fun s =>
    let s := s.setSec { s.sec with chal := none }
    if keyOk && sigOk && s.on SEC_FUSE_DBG_KEY && !s.on SEC_STAT_LOCKED then
      ((s.setSec { s.sec with failAt := none, fails := 0 }).clr SEC_DBG_FAILS).set1 SEC_STAT_DBG_OPEN
    else
      let s := s.setSec { s.sec with failAt := some s.ns, fails := s.sec.fails + 1 }
      let k := s.rd SEC_DBG_FAILS + 1
      if k < 3 then s.wr SEC_DBG_FAILS k else (s.clr SEC_DBG_FAILS).violate 5 s.sec.fails

def execDebugAuthResponse (keyOk sigOk : Bool) (s : State) : Out := .next (s.debugAuth keyOk sigOk)

end Sys2Proof.Machine
end

