-- ==== Sys2Proof/Machine/Eth.lean ====
section
/-! DEFINITION. Machine/Eth.lean: the Ethernet ports, PTP and MACsec (11_clocks_timebase_network_time.md R327 to R337). A frame is
its bytes without FCS and without protection; the layout of a PTP message is that of IEEE 1588-2019 (notes/assumptions/30.md). -/
namespace Sys2Proof.Machine

/-! ### Frames -/

/-- A number of `k` bytes from byte `i`, most significant byte first. -/
def beAt (f : List Byte) (i k : Nat) : Nat := ofBytes ((f.drop i).take k).reverse
/-- `f` with `k` bytes from byte `i` on replaced by a number, most significant byte first. -/
def bePut (f : List Byte) (i k v : Nat) : List Byte := f.take i ++ (toBytes k v).reverse ++ f.drop (i + k)

/-- Where the Ethertype of a frame stands, behind one 802.1Q tag or none. -/
def typeAt (f : List Byte) : Nat := if beAt f 12 2 = 0x8100 then 16 else 12
/-- Where the PTP message of a frame begins, when it carries one. -/
def ptpAt (f : List Byte) : Option Nat := if beAt f (typeAt f) 2 = 0x88F7 then some (typeAt f + 2) else none
/-- messageType of a PTP frame: 0 Sync, 1 Delay_Req, 2 Pdelay_Req, 3 Pdelay_Resp, 9 Delay_Resp, 10 Pdelay_Resp_Follow_Up. -/
def ptpType (f : List Byte) : Option Nat := (ptpAt f).map fun o => beAt f o 1 % 16
/-- A PTP event message. -/
def ptpEvent (f : List Byte) : Bool := match ptpType f with
  | some t => decide (t < 4)
  | none => false
/-- A PTP message over UDP, to port 319 or 320. -/
def ptpUdp (f : List Byte) : Bool :=
  let o := typeAt f + 2
  let port := fun i => beAt f i 2 == 319 || beAt f i 2 == 320
  (beAt f (o - 2) 2 == 0x0800 && beAt f (o + 9) 1 == 17 && port (o + 4 * (beAt f o 1 % 16) + 2)) ||
    (beAt f (o - 2) 2 == 0x86DD && beAt f (o + 6) 1 == 17 && port (o + 42))
def ptpSeq (f : List Byte) (o : Nat) : Nat := beAt f (o + 30) 2
def ptpTwoStep (f : List Byte) (o : Nat) : Bool := beAt f (o + 6) 1 / 2 % 2 == 1
/-- correctionField, in units of 2^-16 ns. -/
def ptpCorr (f : List Byte) (o : Nat) : Int := toInt 64 (beAt f (o + 8) 8)
def ptpAddCorr (f : List Byte) (o : Nat) (d : Int) : List Byte := bePut f (o + 8) 8 (ofInt 64 (ptpCorr f o + d))
/-- The timestamp in the body of a message, in units of 2^-16 ns. -/
def ptpStamp (f : List Byte) (o : Nat) : Int := (((beAt f (o + 34) 6 * 1000000000 + beAt f (o + 40) 4) * 65536 : Nat) : Int)

/-! ### Stamps (R330), in sixteenths of a nanosecond -/

def ETH_SA (p r an : Nat) : Nat := ETH_RXSA0 p r + 4 * an
def ETH_LPN (p r an : Nat) : Nat := ETH_RXLPN0 p r + 4 * an

/-- The fixed RX delay for the mode in use. -/
def State.ethFixRx (s : State) (p : Nat) : Nat := if s.on (ETH_CTL_MODE p) then 0x10E0 else 0x1060

/-- An ingress stamp of `q` quarters of a nanosecond at the GMII boundary, moved to the balls when TS_APPLY says so. -/
def State.ingress (s : State) (p q : Nat) : Int :=
  if s.on (ETH_CTL_TS_APPLY p) then (4 * q : Nat) - (s.ethFixRx p : Int) - toInt 16 (s.rd (ETH_TS_EXT_RX_EXT p)) else (4 * q : Nat)
/-- An egress stamp. -/
def State.egress (s : State) (p q : Nat) : Int :=
  if s.on (ETH_CTL_TS_APPLY p) then (4 * q : Nat) + 0x0BA8 + toInt 16 (s.rd (ETH_TS_EXT_TX_EXT p)) else (4 * q : Nat)

/-! ### Rings (R328) -/

def State.rxOwned (s : State) (p : Nat) : Nat :=
  let l := s.rd (ETH_RXR_LEN_LEN p)
  (s.rd (ETH_RX_TAIL_TAIL p) + l - s.rd (ETH_RX_HEAD_HEAD p)) % l
def State.txOwned (s : State) (p : Nat) : Nat :=
  let l := s.rd (ETH_TXR_LEN_LEN p)
  (s.rd (ETH_TX_TAIL_TAIL p) + l - s.rd (ETH_TX_HEAD_HEAD p)) % l
def State.rxDesc (s : State) (p : Nat) : Nat := 16 * (s.rd (ETH_RXR_BASE_ADDR p) + s.rd (ETH_RX_HEAD_HEAD p))
def State.txDesc (s : State) (p : Nat) : Nat := 16 * (s.rd (ETH_TXR_BASE_ADDR p) + s.rd (ETH_TX_HEAD_HEAD p))

/-- A write of TX_TAIL: refused when it would take a descriptor from the port, or names none. -/
def State.txTail (s : State) (p v : Nat) : State :=
  let t := s.wr (ETH_TX_TAIL_TAIL p) v
  if v < s.rd (ETH_TXR_LEN_LEN p) ∧ s.txOwned p ≤ t.txOwned p then t else s.reserved (ETH_TX_TAIL p)
def State.rxTail (s : State) (p v : Nat) : State :=
  let t := s.wr (ETH_RX_TAIL_TAIL p) v
  if v < s.rd (ETH_RXR_LEN_LEN p) ∧ s.rxOwned p ≤ t.rxOwned p then t else s.reserved (ETH_RX_TAIL p)

def execEthTxTailWrite (p : Fin 2) (v : BitVec 8) (s : State) : Out := .next (s.txTail p v.toNat)
def execEthRxTailWrite (p : Fin 2) (v : BitVec 8) (s : State) : Out := .next (s.rxTail p v.toNat)

/-- Source 12 for a completed descriptor. -/
def State.ethIrq (s : State) (p : Nat) : State := s.when (s.on (ETH_CTL_IRQ_EN p)) fun s => s.irq 12

/-- DMA stores bytes; descriptors and buffers lie in shared SRAM (R328). -/
def State.dmaPut (s : State) (a : Nat) (bs : List Byte) : State :=
  if inSram a && inSram (a + bs.length - 1) then s.putMem a bs else s.unmapped a

/-! ### Peer delay (R333) -/

/-- D of a completed exchange, given twice its value in units of 2^-16 ns: to the nearest sixteenth. -/
def State.pdelayDone (s : State) (p : Nat) (d2 : Int) : State :=
  let d := (d2 + 4096) / 8192
  let s := s.setEth p { s.eth p with pd := none }
  ((s.wr (PTP_PDLY_D p) (ofInt 24 (satI 24 d))).set1 (PTP_PDLY_VALID p)).bump (PTP_PCNT_PD_DONE p)

/-- A Pdelay_Resp or its Follow_Up arrives at `t` sixteenths. -/
def State.pdelayIn (s : State) (p : Nat) (f : List Byte) (t : Int) : State :=
  match ptpAt f, (s.eth p).pd with
  | some o, some r =>
    if !s.on PTP_CFG_EN || ptpSeq f o != r.seq then s
    else if ptpType f = some 3 then
      if ptpTwoStep f o then s.setEth p { s.eth p with pd := some { r with resp := some (t * 4096, ptpCorr f o, ptpStamp f o) } }
      else s.pdelayDone p ((t - r.t1) * 4096 - ptpCorr f o)
    else match r.resp with
      | some (t4, c, t2) =>
        if ptpType f = some 10 then s.pdelayDone p (t4 - r.t1 * 4096 - (ptpStamp f o - t2) - c - ptpCorr f o) else s
      | none => s
  | _, _ => s

def execPdelayTimeout (p : Fin 2) (s : State) : Out :=
  .next (s.when (s.ethRuns && (s.eth p).pd.isSome) fun s => (s.setEth p { s.eth p with pd := none }).bump (PTP_PCNT_PD_TO p))

/-! ### MACsec (R335, R336) -/

/-- An association has a key: its slot is installed and the vault can be used (16_security.md R436). -/
def State.keyed (s : State) (k : Nat) : Bool := s.vaultOk && s.sec.keys.any fun x => x.1 == k

/-- The receive channel of an SCI. -/
def State.rxSc (s : State) (p : Nat) (t : SecTag) : Option Nat :=
  (List.range 4).find? fun r => s.on (ETH_RXEN_EN p r) && s.reg (ETH_RX_SCI_LO p r) == t.sci.toNat % 2 ^ 32 &&
    s.reg (ETH_RX_SCI_HI p r) == t.sci.toNat / 2 ^ 32

/-- What verification says of a frame: dropped, verified. -/
def State.secRx (s : State) (p : Nat) (tag : Option SecTag) : Bool × Bool × State :=
  let strict := s.rd (ETH_MS_CTL_VALIDATE p) == 2
  let bad := fun s : State => s.bump (ETH_MS_CNT_BAD p)
  if !s.on (ETH_MS_CTL_EN p) || s.rd (ETH_MS_CTL_VALIDATE p) == 0 then (false, false, s)
  else match tag with
    | none => (strict, false, bad s)
    | some t =>
      match s.rxSc p t with
      | none => (strict, false, s.bump (ETH_MS_CNT2_NOSA p))
      | some r =>
        let an := t.an.val
        let lpn := s.reg (ETH_LPN p r an)
        if !(s.reg (ETH_SA p r an)).testBit 4 then (strict, false, s.bump (ETH_MS_CNT2_NOSA p))
        else if s.on (ETH_MS_CTL_REPLAY p) && decide (t.pn.toNat < lpn) then (true, false, s.bump (ETH_MS_CNT_LATE p))
        else if !(t.good && s.keyed (s.reg (ETH_SA p r an) % 16)) then (strict, false, bad s)
        else (false, true, s.setReg (ETH_LPN p r an) (min (2 ^ 32 - 1) (max lpn (t.pn.toNat + 1 - s.reg (ETH_MS_WIN p)))))

/-- A frame for transmission takes a packet number, or is discarded. The kinds of the faults are not stated. -/
def State.secTx (s : State) (p : Nat) : Bool × Option Nat × State :=
  let an := s.rd (ETH_MS_CTL_TX_AN p)
  if !s.on (ETH_MS_CTL_EN p) then (true, none, s)
  else if !(s.on (ETH_MS_TXSA_EN p an) && s.keyed (s.rd (ETH_MS_TXSA_KEY p an))) then (false, none, s.bump (ETH_MS_CNT2_NOSA p))
  else
    let pn := s.reg (ETH_MS_TXPN p an)
    if pn = 0xFFFFFFFF then (false, none, s.bump (ETH_MS_CNT2_PN_EXH p))
    else
      let s := s.setReg (ETH_MS_TXPN p an) (pn + 1)
      let post := fun (sev : Nat) (s : State) => (s.post srcETH p (s.freeNat 8) clsSECURITY sev ((s.drawn).freeNat 31)).drawn.drawn
      let s := s.when (pn + 1 == 0xF0000000) (post 0)
      (true, some pn, s.when (pn + 1 == 0xFFFFFFFF) (post 1))

/-! ### Receiving (R328, R329) -/

def State.ethAddr (s : State) (p : Nat) : Nat := s.reg (ETH_MAC_LO p) + s.rd (ETH_MAC_HI_ADDR p) * 2 ^ 32

/-- Forward a frame to the other port: it joins the frames waiting there, unless they leave no room in the transmit queue of 16 KiB
(01_architecture.md R22). -/
def State.ethForward (s : State) (p : Nat) (f : List Byte) (t : Int) : State :=
  let x := s.eth (1 - p)
  let used := (x.fwd.map fun y => y.frame.length).sum
  if 16384 < used + f.length then s.bump (ETH_CNT2_FWD_DROP p)
  else
    let s := s.setEth (1 - p) { x with fwd := x.fwd ++ [{ frame := f, t := t, add := s.rd (PTP_PDLY_USE_D p), ev := ptpEvent f }] }
    (s.bump (ETH_CNT2_FWD p)).when (ptpUdp f) fun s => s.bump PTP_CNT_NOCORR

/-- Deliver a frame to the next owned descriptor, or drop it. -/
def State.ethDeliver (s : State) (p : Nat) (f : List Byte) (t : Int) (verified fwd : Bool) : State :=
  if s.rxOwned p = 0 ∨ 1536 < f.length then s.bump (ETH_CNT_RX_DROP p)
  else
    let d := s.rxDesc p
    let q := (t / 4).toNat
    let (w2, w3, s) := if s.on PTP_CFG_EN then (q / 4 % 1000000000 + q % 4 * 2 ^ 30, q / 4 / 1000000000, s)
      else (s.freeNat 32, s.drawn.freeNat 32, s.drawn.drawn)
    let s := s.dmaPut (s.load d 4) f
    let w1 := f.length % 2048 + bit (ptpEvent f) * 2 ^ 17 + bit verified * 2 ^ 18 + bit fwd * 2 ^ 19
    let s := s.dmaPut (d + 4) (toBytes 4 w1 ++ toBytes 4 w2 ++ toBytes 4 w3)
    (s.wr (ETH_RX_HEAD_HEAD p) ((s.rd (ETH_RX_HEAD_HEAD p) + 1) % s.rd (ETH_RXR_LEN_LEN p))).ethIrq p

/-- A frame arrives on port `p`; its stamp is `q` quarters of a nanosecond of the timebase at the GMII boundary. -/
def State.ethReceive (s : State) (p q : Nat) (fcsOk : Bool) (tag : Option SecTag) (f : List Byte) : State :=
  s.when (s.ethRuns && s.on (ETH_CTL_EN p) && s.on (ETH_STAT_LINK p)) fun s =>
    if !fcsOk then s.bump (ETH_CNT_FCS_ERR p)
    else
      let t := s.ingress p q
      let (drop, ver, s) := s.secRx p tag
      if drop then s
      else
        let s := s.pdelayIn p f t
        let dst := fieldAt f 0 6
        let own := dst == s.ethAddr p
        let tcDrop := s.on PTP_CFG_EN && s.on PTP_CFG_TC_EN && s.on (ETH_CTL_FWD p) && s.rd PTP_CFG_TC_MODE == 0 &&
          (ptpType f == some 1 || ptpType f == some 9)
        let fwd := s.on (ETH_CTL_FWD p) && !own && beAt f 0 6 != 0x0180C200000E
        let mine := !s.on (ETH_CTL_FWD p) || own || fieldAt f 0 1 % 2 == 1
        s.when (!tcDrop) fun s =>
          let s := s.when fwd fun s => s.ethForward p f t
          s.when mine fun s => s.ethDeliver p f t ver fwd

def execEthFrameReceived (p : Fin 2) (q : Nat) (fcsOk : Bool) (tag : Option SecTag) (f : List Byte) (s : State) : Out :=
  .next (s.ethReceive p q fcsOk tag f)

/-! ### Sending (R328, R332 to R334, R336) -/

/-- A frame leaves: it is the last one sent. -/
def State.ethSent (s : State) (p : Nat) (f : List Byte) (pn : Option Nat) : State :=
  s.setEth p { s.eth p with last := f, lastPn := pn }

/-- A forwarded frame with its correction (R334). -/
def State.tcCorrect (s : State) (p : Nat) (x : EthFwd) (t : Int) : List Byte × State :=
  match ptpAt x.frame with
  | none => (x.frame, s)
  | some o =>
    let ty := beAt x.frame o 1 % 16
    let e2e := s.on PTP_CFG_TC_MODE
    if s.on PTP_CFG_EN && s.on PTP_CFG_TC_EN && s.on (ETH_CTL_FWD (1 - p)) && (ty == 0 || (ty == 1 && e2e)) then
      let add := if ty = 0 ∧ !e2e then x.add else 0
      (ptpAddCorr x.frame o ((t - x.t + (add : Nat)) * 4096), s.bump PTP_CNT_TC_CORR)
    else (x.frame, s)

/-- The next forwarded frame leaves: event messages first. -/
def State.sendFwd (s : State) (p : Nat) (t : Int) : State :=
  let l := (s.eth p).fwd
  match l.find? (·.ev) <|> l.head? with
  | none => s
  | some x =>
    let s := s.setEth p { s.eth p with fwd := l.erase x }
    let r := s.tcCorrect p x t
    let m := r.2.secTx p
    if m.1 then m.2.2.ethSent p r.1 m.2.1 else m.2.2

/-- One-step insertion, turnaround and t1 (R332, R333): the frame as it leaves, and the status. -/
def State.oneStep (s : State) (p d : Nat) (f : List Byte) (t : Int) : List Byte × Nat × State :=
  let w1 := s.load (d + 4) 4
  if w1 / 2 ^ 17 % 8 = 0 then (f, 0, s)
  else match ptpAt f with
    | none => (f, 2, s)
    | some o =>
      if !s.on PTP_CFG_EN then (f, 2, s)
      else
        let n := (t / 16).toNat
        let ty := beAt f o 1 % 16
        let f1 := if w1.testBit 17 && ty == 0 then
            ptpAddCorr (bePut (bePut f (o + 34) 6 (n / 1000000000)) (o + 40) 4 (n % 1000000000)) o (t % 16 * 4096)
          else f
        let t2 : Int := ((s.load (d + 12) 4 * 1000000000 + s.load (d + 8) 4 % 2 ^ 30) * 16 + s.load (d + 8) 4 / 2 ^ 30 * 4 : Nat)
        let f2 := if w1.testBit 19 && ty == 3 then ptpAddCorr f1 o ((t % (16000000000 * 2 ^ 32 : Nat) - t2) * 4096) else f1
        let s := s.when (w1.testBit 18 && ty == 2) fun s => s.setEth p { s.eth p with pd := some { seq := ptpSeq f o, t1 := t } }
        (f2, 0, s)

/-- The descriptor at HEAD is returned with a status. -/
def State.txReturn (s : State) (p st : Nat) : State :=
  let d := s.txDesc p
  let s := s.dmaPut (d + 4) (toBytes 4 (s.load (d + 4) 4 % 2 ^ 16 + s.load (d + 4) 4 / 2 ^ 17 % 8 * 2 ^ 17 + st * 2 ^ 28))
  (s.wr (ETH_TX_HEAD_HEAD p) ((s.rd (ETH_TX_HEAD_HEAD p) + 1) % s.rd (ETH_TXR_LEN_LEN p))).ethIrq p

/-- The frame of the next descriptor leaves. -/
def State.sendLocal (s : State) (p : Nat) (t : Int) : State :=
  s.when (s.txOwned p != 0) fun s =>
    let d := s.txDesc p
    let f := s.bytes (s.load d 4) (s.load (d + 4) 4 % 2048)
    let m := s.secTx p
    if m.1 then
      let r := m.2.2.oneStep p d f t
      (r.2.2.ethSent p r.1 m.2.1).txReturn p r.2.1
    else m.2.2.txReturn p 1

/-- A frame leaves port `p` at `q` quarters of a nanosecond at the GMII boundary: a forwarded one, or that of the next descriptor.
Forwarded event messages go before other local frames. -/
def State.ethSend (s : State) (p : Nat) (fwd : Bool) (q : Nat) : State :=
  s.when (s.ethRuns && s.on (ETH_CTL_EN p) && s.on (ETH_STAT_LINK p)) fun s =>
    let t := s.egress p q
    let localEv := s.load (s.txDesc p + 4) 4 / 2 ^ 17 % 8 != 0
    if fwd || ((s.eth p).fwd.any (·.ev) && !localEv) then s.sendFwd p t else s.sendLocal p t

def execEthFrameSent (p : Fin 2) (fwd : Bool) (q : Nat) (s : State) : Out := .next (s.ethSend p fwd q)

/-! ### Link (R327) -/

/-- The link comes up; `ok`: the partner offers 1000 Mbit/s full duplex, or negotiation is off. -/
def State.ethUp (s : State) (p : Nat) (ok : Bool) : State :=
  s.when (s.ethRuns && s.on (ETH_CTL_EN p)) fun s =>
    let s := s.set1 (ETH_STAT_PCS_SYNC p)
    if ok || !s.on (ETH_CTL_AN_EN p) then
      ((s.set1 (ETH_STAT_LINK p)).wr (ETH_STAT_AN_DONE p) (s.rd (ETH_CTL_AN_EN p))).clr (ETH_STAT_SPEED_ERR p)
    else (s.clr (ETH_STAT_LINK p)).set1 (ETH_STAT_SPEED_ERR p)

def execEthLinkUp (p : Fin 2) (ok : Bool) (s : State) : Out := .next (s.ethUp p ok)

def State.ethDown (s : State) (p : Nat) : State :=
  ((s.clr (ETH_STAT_LINK p)).clr (ETH_STAT_AN_DONE p)).clr (ETH_STAT_PCS_SYNC p)

def execEthLinkDown (p : Fin 2) (s : State) : Out := .next (s.ethDown p)

end Sys2Proof.Machine
end

