-- ==== Sys2Proof/Machine/Host.lean ====
section
/-! DEFINITION. Machine/Host.lean: the PCI Express endpoint, doorbells, the host mailbox, MSI-X and DMA (19_host_interface_and_trace.md
R492 to R500). -/
namespace Sys2Proof.Machine

def State.postHost (s : State) (kind sev datum : Nat) : State := s.post srcHOST 0 kind clsLINK sev datum

/-! ### MSI-X (R496, R499) -/

/-- Pending vectors that can be sent are sent. -/
def State.msixFlush (s : State) : State :=
  s.when s.master fun s =>
    s.forEach ((List.range 32).filter fun v => !s.on (HOST_MSIX_VCTL_MASK v) && s.bitAt HOST_MSIX_PBA_PEND v) fun s v =>
      (s.clrBit HOST_MSIX_PBA_PEND v).msixPut v

/-- The mask of a vector is cleared. -/
def State.msixUnmask (s : State) (v : Nat) : State := (s.clr (HOST_MSIX_VCTL_MASK v)).msixFlush

def execMsixUnmask (v : Fin 32) (s : State) : Out := .next (s.msixUnmask v)

/-- A write of MSIX_SEND with GO; vectors 0 to 7 are reserved. -/
def State.msixGo (s : State) (v : Nat) : State := if v < 8 then s.reserved HOST_MSIX_SEND else s.msix v

def execMsixSend (v : Fin 32) (s : State) : Out := .next (s.msixGo v)

/-! ### Doorbells and mailbox (R497, R498) -/

/-- A host write of DB_VAL. -/
def State.doorbell (s : State) (i w : Nat) : State :=
  let was := s.bitAt HOST_DB_STAT_PEND i
  let s := ((s.setReg (HOST_DB_VAL i) w).setBit HOST_DB_STAT_PEND i).irqTo (s.rd (HOST_DB_ROUTE_ENG i)) 4
  s.when was fun s => (s.setBit HOST_DB_STAT_OVR i).postHost 4 0 i

def execDoorbellWrite (i : Fin 8) (w : BitVec 32) (s : State) : Out := .next (s.when (s.on HOST_LINK_UP) fun s => s.doorbell i w.toNat)

def State.setH2d (s : State) (l : List Word) : State :=
  ({ s with host := { s.host with h2d := l } }.wr HOST_MBX_STAT_H2D_OCC l.length).when (!l.isEmpty) fun s =>
    s.irqTo (s.rd HOST_DB_ROUTE_MBX) 4
def State.setD2h (s : State) (l : List Word) : State :=
  ({ s with host := { s.host with d2h := l } }.wr HOST_MBX_STAT_D2H_OCC l.length).when (!l.isEmpty) fun s => s.msix 6

/-- A host write of H2D_W. -/
def State.h2dWrite (s : State) (w : Word) : State :=
  if s.host.h2d.length < 32 then s.setH2d (s.host.h2d ++ [w]) else (s.bump HOST_MBX_STAT_H2D_DROP).postHost 1 0 0

/-- A read of H2D_R. -/
def State.h2dRead (s : State) : Nat × State :=
  match s.host.h2d with
  | [] => (0, s)
  | w :: r => (w.toNat, s.setH2d r)

/-- An Aster write of D2H_W. -/
def State.d2hWrite (s : State) (w : Word) : State :=
  if s.host.d2h.length < 32 then s.setD2h (s.host.d2h ++ [w]) else s.set1 HOST_MBX_STAT_D2H_FULL

/-- A read of D2H_R. -/
def State.d2hRead (s : State) : Nat × State :=
  match s.host.d2h with
  | [] => (0, s)
  | w :: r => (w.toNat, s.setD2h r)

def execH2dWrite (w : BitVec 32) (s : State) : Out := .next (s.when (s.on HOST_LINK_UP) fun s => s.h2dWrite w)
def execH2dRead (s : State) : Out := .next s.h2dRead.2
def execD2hWrite (w : BitVec 32) (s : State) : Out := .next (s.d2hWrite w)
def execD2hRead (s : State) : Out := .next (s.when (s.on HOST_LINK_UP) fun s => s.d2hRead.2)

/-! ### DMA (R500) -/

def State.dmaOwned (s : State) (d : Nat) : Nat :=
  let l := s.rd (HOST_DMA_RING_LEN_LEN d)
  (s.rd (HOST_DMA_TAIL_TAIL d) + l - s.rd (HOST_DMA_HEAD_HEAD d)) % l
def State.dmaDesc (s : State) (d : Nat) : Nat := 32 * (s.rd (HOST_DMA_RING_BASE_ADDR d) + s.rd (HOST_DMA_HEAD_HEAD d))

/-- A write of TAIL: refused when it would take a descriptor from the channel, or names none. -/
def State.dmaTail (s : State) (d v : Nat) : State :=
  let t := s.wr (HOST_DMA_TAIL_TAIL d) v
  if v < s.rd (HOST_DMA_RING_LEN_LEN d) ∧ s.dmaOwned d ≤ t.dmaOwned d then t else s.reserved (HOST_DMA_TAIL d)

def execDmaTailWrite (d : Fin 4) (v : BitVec 8) (s : State) : Out := .next (s.dmaTail d v.toNat)

/-- A descriptor of the channel is in progress. -/
def State.dmaBusy (s : State) (d : Nat) : Bool :=
  s.on (HOST_DMA_CTL_EN d) && s.dmaOwned d != 0 && s.master

/-- The descriptor at HEAD is returned with a status. -/
def State.dmaReturn (s : State) (d st : Nat) : State :=
  let a := s.dmaDesc d
  let w := s.load (a + 12) 4
  let s := s.dmaPut (a + 12) (toBytes 4 (putBits (putBits w 25 1 0) 28 4 st) ++ toBytes 4 s.stampNs)
  let s := s.wr (HOST_DMA_HEAD_HEAD d) ((s.rd (HOST_DMA_HEAD_HEAD d) + 1) % s.rd (HOST_DMA_RING_LEN_LEN d))
  let s := s.when (w.testBit 26 && s.on (HOST_DMA_CTL_IRQ_EN d)) fun s => s.msix (1 + d)
  s.when (st != 0) fun s => (s.bump (HOST_DMA_ERR_COUNT d)).postHost 2 1 d

/-- Trace memory as the profile leaves it (01_architecture.md R31). -/
def State.traceTop (s : State) : Nat := if s.profile = 1 then 0x1200000 else 0x1800000

/-- The device range of a descriptor is one DMA reaches. -/
def State.dmaOk (s : State) (a n : Nat) (wr : Bool) : Bool :=
  decide (a + n ≤ 0x400000) ||
    (decide (0x1000000 ≤ a) && decide (a + n ≤ s.traceTop) && !(wr && s.rd TRC_CTL_MODE != 0))

/-- The descriptor in progress completes; `err`: the host answers with an error; `data`: what it delivers, an error when that is less than
LEN. -/
def State.dmaDone (s : State) (d : Nat) (err : Bool) (data : List Byte) : State :=
  s.when (s.dmaBusy d) fun s =>
    let a := s.dmaDesc d
    let w := s.load (a + 12) 4
    let dst := s.load (a + 8) 4
    let n := w % 2 ^ 21
    let toDev := !w.testBit 24
    if !s.dmaOk dst n toDev then s.dmaReturn d 2
    else if err || (toDev && decide (data.length < n)) then s.dmaReturn d 1
    else if toDev then (s.putMem dst (data.take n)).dmaReturn d 0
    else (s.hostPut (s.load a 4 + 2 ^ 32 * s.load (a + 4) 4) (s.bytes dst n)).dmaReturn d 0

def execDmaDescriptorDone (d : Fin 4) (err : Bool) (data : List Byte) (s : State) : Out := .next (s.dmaDone d err data)

/-! ### Link (R492, R495, R496) -/

/-- Descriptors in progress end with status 3, the link is down. -/
def State.pcieDown (s : State) : State :=
  s.when (s.on HOST_LINK_UP) fun s =>
    let s := s.forEach ((List.range 4).filter s.dmaBusy) fun s d => s.dmaReturn d 3
    (((s.clr HOST_LINK_UP).clr HOST_LINK_WIDTH).clr HOST_LINK_SPEED).postHost 3 1 0

def execPcieLinkDown (s : State) : Out := .next s.pcieDown

/-- The link comes up on 1, 2 or 4 lanes (`w` 0, 1, 2) at a speed of 2.5, 5 or 8 GT/s (`v` 0, 1, 2). -/
def execPcieLinkUp (w v : Fin 3) (s : State) : Out :=
  .next ((((s.wr HOST_LINK_WIDTH (2 ^ w.val)).wr HOST_LINK_SPEED (v + 1)).set1 HOST_LINK_UP).msixFlush)

def execBmeSet (s : State) : Out := .next (s.set1 HOST_LINK_BME).msixFlush
def execBmeClear (s : State) : Out := .next (s.clr HOST_LINK_BME)

/-- HOST registers that PERST_N resets: all but the doorbells and the mailbox, which a link that is down keeps. -/
def hostReset : List Nat :=
  [HOST_DB_ROUTE, HOST_LINK] ++ (List.range 4).flatMap (fun d => [HOST_DMA_CTL d, HOST_DMA_RING_BASE d, HOST_DMA_RING_LEN d,
    HOST_DMA_TAIL d, HOST_DMA_HEAD d, HOST_DMA_ERR d]) ++ [HOST_MSIX_PBA, HOST_MSIX_PBA_HI] ++
    (List.range 32).flatMap fun v => [HOST_MSIX_ADDR_LO v, HOST_MSIX_ADDR_HI v, HOST_MSIX_DATA v, HOST_MSIX_VCTL v]

/-- PERST_N (R495). -/
def State.perst (s : State) : State := s.pcieDown.forEach hostReset fun s a => s.setReg a (coldOf a).toNat

def execPerst (s : State) : Out := .next s.perst

end Sys2Proof.Machine
end

