-- ==== Sys2Proof/Machine/LaneCmds.lean ====
section
/-! DEFINITION. Machine/LaneCmds.lean: the commands of the cell and Saddle lanes (03_cell_lanes.md R60 to R83). -/
namespace Sys2Proof.Machine

/-- Setting LANE.CTL.EN (R73). -/
def State.doLaneEnable (s : State) (l : Nat) : State := (s.set1 (LANE_CTL_EN l)).laneTry l

def execLaneEnable (n : Fin 28) (s : State) : Out := .next (s.doLaneEnable n)

/-- Clearing LANE.CTL.EN takes the lane to DOWN (R73). -/
def State.doLaneDisable (s : State) (l : Nat) : State := (s.clr (LANE_CTL_EN l)).laneDown l

def execLaneDisable (n : Fin 28) (s : State) : Out := .next (s.doLaneDisable n)

/-- A write of CTL.REARM, ignored outside FAILED (R78). -/
def State.doLaneRearm (s : State) (l : Nat) : State := s.when (s.laneSt l == 7) fun s => s.laneTrain l 0

def execLaneRearm (n : Fin 28) (s : State) : Out := .next (s.doLaneRearm n)

/-- A write of CTL.TXCOMMA: the transmit half leaves BLOCK for COMMA and the halves are bound again (R72). -/
def State.doLaneTxcomma (s : State) (l : Nat) : State :=
  s.when (!s.laneBound l) fun s => (s.wr (LANE_STAT_TX_MODE l) 1).laneShow l

def execLaneTxcomma (n : Fin 28) (s : State) : Out := .next (s.doLaneTxcomma n)

/-- A new TXEQ setting takes effect at an idle block, all fields together (R65). -/
def execTxeqApply (n : Fin 28) (s : State) : Out :=
  .next (s.setLane n { s.lane n with txeqAct := s.reg (LANE_TXEQ n) })

/-- Loss of signal holds the CDR unlocked (R67). -/
def execLosAssert (n : Fin 28) (s : State) : Out :=
  .next ((s.set1 (LANE_STAT_LOS n)).when (s.on (LANE_STAT_CDR_LOCK n)) fun s => s.laneCdrLost n)

def execLosDeassert (n : Fin 28) (s : State) : Out := .next (s.clr (LANE_STAT_LOS n))

/-- The CDR locks, unless loss of signal holds it unlocked or the lane is DOWN (R67, R73). -/
def execCdrLock (n : Fin 28) (s : State) : Out :=
  .next (s.when (!s.on (LANE_STAT_LOS n) && s.laneSt n != 0) fun s => s.set1 (LANE_STAT_CDR_LOCK n))

def execCdrLockLoss (n : Fin 28) (s : State) : Out :=
  .next (s.when (s.on (LANE_STAT_CDR_LOCK n)) fun s => s.laneCdrLost n)

/-! ### Training sets (R69, R70, R74, R75). A set is given by its symbols 1 to 15. -/

/-- A symbol of the set, numbered as in R69. -/
def symOf (set : List Byte) (i : Nat) : Nat := ((set[i - 1]?).getD 0).toNat

/-- The CRC-8 of a set matches (R70). -/
def setGood (set : List Byte) : Bool := crc8 (set.take 14) == symOf set 15

/-- The identity check of R74. -/
def State.setMatches (s : State) (l : Nat) (set : List Byte) : Bool :=
  !s.on (LANE_PARTNER_CHECK l) ||
    (symOf set 2 + 256 * symOf set 3 == s.rd (LANE_PARTNER_DEVID l) &&
      symOf set 4 % 32 == s.rd (LANE_PARTNER_LANE l) && symOf set 4 / 32 % 4 == s.rd (LANE_PARTNER_TOPO l))

/-- Whether a hop count is in the range of R74. -/
def State.hopOk (s : State) (l h : Nat) : Bool :=
  if 24 ≤ l then h == 0
  else if s.profile = 2 then decide (1 ≤ h ∧ h ≤ 8)
  else decide (1 ≤ h ∧ h ≤ 4)

/-- A run of consecutive sets: 8 of them stay reached, fewer break. -/
def brokenRun (k : Nat) : Nat := if k = 8 then 8 else 0

/-- An accepted set's type in the run of TSB sets, whoever sent it (R75). -/
def State.countTsb (s : State) (l : Nat) (set : List Byte) : State :=
  let x := s.lane l
  s.setLane l { x with runTsb := if symOf set 1 = 0x4B then min 8 (x.runTsb + 1) else brokenRun x.runTsb }

/-- A set of matching identity: HOPS, the hop range and the run of matching sets (R74). -/
def State.setMatched (s : State) (l : Nat) (set : List Byte) : State :=
  let h := symOf set 5
  let s := s.wr (LANE_STAT_HOPS l) h
  if s.hopOk l h then s.setLane l { s.lane l with runMatch := min 8 ((s.lane l).runMatch + 1) }
  else ((s.laneFail l).set1 (LANE_STAT_HOP_LIM l)).postLane l 3 1

/-- A set of another identity (R74). -/
def State.setMismatched (s : State) (l : Nat) : State :=
  let x := s.lane l
  let s := s.bump (LANE_ERRCNT_ID_ERR l)
  let s := s.setLane l { x with runMatch := brokenRun x.runMatch, idPosted := true }
  s.when (!x.idPosted) fun s => s.postLane l 2 1

/-- What follows an accepted set in TRAIN_SET and HANDOVER: the own handover starts after 8 matching and 8 TSB sets, an accepted HOS
takes the lane to HANDOVER, and the one of COUNTDOWN 0 is followed by block 0 (R73, R75). -/
def State.setFollow (s : State) (l : Nat) (set : List Byte) : State :=
  s.when (s.laneSt l == 2 || s.laneSt l == 3) fun s =>
    let x := s.lane l
    let s := s.laneShow l
    let s := s.when (decide (x.runMatch = 8 ∧ x.runTsb = 8) && s.rd (LANE_STAT_TX_MODE l) == 1) fun s => s.laneTxHandover l
    let s := s.when (symOf set 1 == 0x4C) fun s =>
      let s := s.when (s.laneSt l == 2) fun s => s.setLaneSt l 3
      s.when (symOf set 7 == 0) fun s => s.setLane l { s.lane l with rxHos := true, rxGood := 0 }
    s.laneTryService l

/-- An accepted set (R70, R73, R74). -/
def State.setAccepted (s : State) (l : Nat) (set : List Byte) : State :=
  if s.laneSt l = 1 then
    let k := (s.lane l).runOk + 1
    if 8 ≤ k then (s.setLaneSt l 2).setLane l { s.lane l with runOk := 0, runMatch := 0, runTsb := 0 }
    else s.setLane l { s.lane l with runOk := k }
  else
    let s := s.countTsb l set
    (if s.setMatches l set then s.setMatched l set else s.setMismatched l).setFollow l set

/-- A set that is discarded (R70). -/
def State.setDiscarded (s : State) (l : Nat) : State :=
  let x := s.lane l
  (s.bump (LANE_ERRCNT_SET_ERR l)).setLane l { x with runOk := 0, runMatch := brokenRun x.runMatch, runTsb := brokenRun x.runTsb }

/-- The 16 code groups of a training set arrive in a state that counts sets. The receiver keeps its running disparity through them as
IEEE 802.3 Clause 36 states, and takes it from the first K28.5 where it holds none yet (DESIGN CHOICE, notes/assumptions/96.md). -/
def State.doOrderedSet (s : State) (l : Nat) (gs : List (BitVec 10)) : State :=
  let st := s.laneSt l
  if !(st == 1 || st == 2 || st == 3) || (s.lane l).idle then s
  else
    let rd := setRd (s.lane l).rxRd gs
    let s := s.setLane l { s.lane l with rxRd := some (rdGroups rd gs) }
    match decodeSet rd gs with
    | some set => if setGood set then s.setAccepted l set else s.setDiscarded l
    | none => s.setDiscarded l

def execOrderedSetReceived (n : Fin 28) (groups : List (BitVec 10)) (s : State) : Out :=
  if groups.length = 16 then .next (s.doOrderedSet n groups) else .fault .illFormed

/-- With SOLO set, a transmit half in COMMA hands over whatever the state of its receive half (R75). -/
def execSoloHandover (n : Fin 28) (s : State) : Out :=
  .next (s.when (s.on (LANE_CTL_SOLO n) && s.rd (LANE_STAT_TX_MODE n) == 1) fun s => (s.laneTxHandover n).laneTryService n)

/-! ### Blocks (R71, R76, R77) -/

/-- Block `i` of a frame is put in the receive queue of 32 words, or discarded (01_architecture.md R22). -/
def State.deliver (s : State) (l i : Nat) (p : Nat) : State :=
  let x := s.lane l
  if x.rxq.length < 32 then s.setLane l { x with rxq := x.rxq ++ [(i, BitVec.ofNat 64 p)] }
  else (s.bump (LANE_ERRCNT_RXQ_OVER l)).postLane l 6 1

/-- A delivered block in the frames of the lane (04_cell_link_protocol.md R84, R86): an IDLE block, or an invalid one 93 or 94 blocks
after block 0, is a control block and ends a frame short of its 93 blocks with what is complete of it; block 0 follows a control
block; blocks after 92 belong to no frame. -/
def State.frameBlock (s : State) (l hdr p : Nat) : State :=
  let x := s.lane l
  let idle := hdr == 2 && p == idlePayload
  if idle || (hdr != 1 && (x.rxPos == 93 || x.rxPos == 94)) then
    s.setLane l { x with rxCtl := true, rxIn := false, rxPos := min 95 (x.rxPos + 1)
                         rxq := if x.rxIn && decide (x.rxPos < 93) then dropPart x.rxPos x.rxq else x.rxq }
  else
    let i := if x.rxCtl then 0 else x.rxPos
    let live := x.rxCtl || x.rxIn
    let s := s.setLane l { x with rxCtl := false, rxIn := live, rxPos := min 95 (i + 1) }
    s.when (live && decide (i < 93)) fun s => s.deliver l i p

/-- A block in SERVICE: 16 invalid headers within 64 blocks lose block lock (R76). -/
def State.blockInService (s : State) (l hdr p : Nat) : State :=
  let bad := hdr == 0 || hdr == 3
  let s := s.setLane l { s.lane l with hist := (bad :: (s.lane l).hist).take 64 }
  if 16 ≤ (s.lane l).hist.countP id then
    let s := s.bump (LANE_LOCKCNT_LOSSES l)
    let s := if s.on (LANE_STAT_CDR_LOCK l) then s.laneSlipSearch l else s.laneRecover l
    s.postLane l 1 1
  else s.frameBlock l hdr p

/-- A 66-bit block arrives. Sync headers are looked at from the start of the handover on, and each invalid one is counted in HDR_ERR,
in HANDOVER and SLIP_SEARCH as in SERVICE (DESIGN CHOICE, notes/assumptions/98.md). -/
def State.doBlock (s : State) (l hdr : Nat) (p : Nat) : State :=
  let x := s.lane l
  let st := s.laneSt l
  let r := descramble 64 p 1 x.scr 0
  let bad := hdr == 0 || hdr == 3
  if !(st == 3 || st == 4 || st == 5) then s
  else
    let s := s.setLane l { x with scr := r.1 }
    let s := s.when bad fun s => s.bump (LANE_HDR_ERR_COUNT l)
    if st = 3 then
      if !x.rxHos then s
      else if bad then (if x.rxGood < 64 then s.laneAttemptFailed l else s)
      else (s.setLane l { s.lane l with rxGood := min 64 (x.rxGood + 1) }).laneTryService l
    else if st = 4 then s.blockInService l hdr r.2
    else s.when (decide (x.winBlk < 64)) fun s =>
      s.setLane l { s.lane l with winBlk := x.winBlk + 1, winBad := x.winBad + bit bad }

def execBlockReceived (n : Fin 28) (hdr : BitVec 2) (payload : BitVec 64) (s : State) : Out :=
  .next (s.doBlock n hdr.toNat payload.toNat)

/-- The end of a window of 64 blocks in SLIP_SEARCH (R77). -/
def State.doSlipWindowEnd (s : State) (l : Nat) : State :=
  let x := s.lane l
  s.when (s.laneSt l == 5 && !s.on (LANE_SLIP_STAT_WIN_DONE l) && x.winBlk == 64) fun s =>
    let s := s.set1 (LANE_SLIP_STAT_WIN_DONE l)
    let s := s.wr (LANE_SLIP_STAT_BAD l) x.winBad
    let s := s.wr (LANE_SLIP_STAT_GOOD l) (bit (x.winBad == 0))
    if x.winBad = 0 then s.laneService l
    else if 66 ≤ s.rd (LANE_SLIP_STAT_SLIPS l) then s.laneSlipFail l
    else s

def execSlipWindowEnd (n : Fin 28) (s : State) : Out := .next (s.doSlipWindowEnd n)

/-- A write of LANE.SLIP (R77). -/
def State.doLaneSlip (s : State) (l : Nat) : State :=
  s.when (s.laneSt l == 5) fun s =>
    if s.on (LANE_SLIP_STAT_WIN_DONE l) then
      let s := s.addSat (LANE_SLIP_STAT_SLIPS l) 1
      let s := s.clr (LANE_SLIP_STAT_WIN_DONE l)
      s.setLane l { s.lane l with winBlk := 0, winBad := 0 }
    else s.set1 (LANE_SLIP_STAT_EARLY l)

def execLaneSlip (n : Fin 28) (s : State) : Out := .next (s.doLaneSlip n)

/-- No slip within SLIP_TMO of WIN_DONE (R77). -/
def execSlipTimeout (n : Fin 28) (s : State) : Out :=
  .next (s.when (s.laneSt n == 5 && s.on (LANE_SLIP_STAT_WIN_DONE n)) fun s => s.laneSlipFail n)

/-! ### Attempts (R73, R78, R79) -/

def execRecoverEnd (n : Fin 28) (s : State) : Out := .next (s.when (s.laneSt n == 6) fun s => s.laneTrain n 0)

/-- 10 ms without SERVICE fail the attempt (R78). -/
def execAttemptTimeout (n : Fin 28) (s : State) : Out :=
  .next (s.when ((s.laneSt n == 1 || s.laneSt n == 2 || s.laneSt n == 3) && !(s.lane n).idle) fun s => s.laneAttemptFailed n)

def execAttemptIdleEnd (n : Fin 28) (s : State) : Out :=
  .next (s.when (s.laneSt n == 1 && (s.lane n).idle) fun s => s.laneTrain n (s.rd (LANE_STAT_ATTEMPT n) + 1))

/-- The re-arm timer reaches REARM_INT, once for each stay in FAILED; 0 stops it (R78). -/
def State.doRearmDue (s : State) (l : Nat) : State :=
  s.when (s.laneSt l == 7 && !(s.lane l).rearmFired && s.rd (LANE_TMO_REARM_INT l) != 0) fun s =>
    ((s.set1 (LANE_STAT_REARM_DUE l)).setLane l { s.lane l with rearmFired := true }).irq 1

def execRearmDue (n : Fin 28) (s : State) : Out := .next (s.doRearmDue n)

/-- A write of TMO during FAILED that the time already reaches sets REARM_DUE at the write (R78). The time in FAILED is taken on the
timebase (DESIGN CHOICE, notes/assumptions/99.md). -/
def State.rearmCheck (s : State) (l : Nat) : State :=
  s.when (decide (s.rd (LANE_TMO_REARM_INT l) * 10000000 ≤ s.ns - (s.lane l).rearmTime)) fun s => s.doRearmDue l

/-- JOIN in TRAIN_COMMA with CDR lock held without a comma, in topologies 1 and 2 (R79). -/
def execJoinTimeout (n : Fin 28) (s : State) : Out :=
  let t := s.rd (LANE_PARTNER_TOPO n)
  .next (s.when (s.laneSt n == 1 && s.on (LANE_CTL_JOIN n) && s.on (LANE_STAT_CDR_LOCK n) && (t == 1 || t == 2) && !(s.lane n).idle)
    fun s => s.laneSlipSearch n)

/-! ### Eye scan (R81, R82) -/

/-- A write of ES_CTL.START. -/
def State.doEsStart (s : State) (l : Nat) : State :=
  if s.on (LANE_ES_STAT_BUSY l) then s.set1 (LANE_ES_STAT_COLL l)
  else if s.on (LANE_STAT_CDR_LOCK l) then (s.set1 (LANE_ES_STAT_BUSY l)).setLane l { s.lane l with esAt := s.ns }
  else s.set1 (LANE_ES_STAT_ABORTED l)

def execEsStart (n : Fin 28) (s : State) : Out := .next (s.doEsStart n)

def execEsRunDone (n : Fin 28) (errs : Nat) (s : State) : Out :=
  .next (s.when (s.on (LANE_ES_STAT_BUSY n)) fun s =>
    let s := (s.clr (LANE_ES_STAT_BUSY n)).set1 (LANE_ES_STAT_DONE n)
    let s := s.wr (LANE_ES_ERR_ERR n) (min (satN 32 errs) (2 ^ (s.rd (LANE_ES_CTL_DWELL n) + 10)))
    s.wr (LANE_ES_BITS_KBITS n) (2 ^ s.rd (LANE_ES_CTL_DWELL n)))

end Sys2Proof.Machine
end

