-- ==== Sys2Proof/Machine/Node.lean ====
section
/-! DEFINITION. Machine/Node.lean: a cell node: its registers, legs and switches, mailbox, token checker and reports
(05_cell_endpoint_contract.md R116 to R145), and its commands. -/
namespace Sys2Proof.Machine

/-! ### Registers of the required endpoint map (R145) -/

/-- The node-reset value of an endpoint register. -/
def epCold (d : Designer) (a : Nat) : Word :=
  BitVec.ofNat 32 (
    if a = 0 then 0x0100 + d.design * 65536
    else if a = 4 then d.tconv + d.resid * 256 + bit d.byp * 65536 + bit d.dump * 131072 + bit d.dab * 262144 + bit d.bypPwr * 524288
    else if a = 0xC then d.ovMax
    else if a = 0x10 then 3
    else if a = 0x14 then 0x10
    else if 0x20 ≤ a ∧ a < 0x30 then 0xC8
    else if 0x40 ≤ a ∧ a < 0x70 then 0xBC28
    else if a = 0x80 then 0x3200000 + d.ovMax
    else if a = 0x90 then 0xA0000
    else 0)

/-- An endpoint register that is stored. -/
def NodeS.epGet (n : NodeS) (a : Nat) : Nat := (Tbl.get (epCold n.d) n.ep a).toNat
def NodeS.epPut (n : NodeS) (a v : Nat) : NodeS := { n with ep := Tbl.set (epCold n.d) n.ep a (BitVec.ofNat 32 v) }

/-- Latched trips: DESAT in [11:0], BSUV in [27:16]. -/
def NodeS.trip (n : NodeS) : Nat := n.epGet 0x84
def NodeS.desatLatched (n : NodeS) : Bool := bitsOf n.trip 0 12 != 0

/-- What a read of an endpoint register returns; EP_STAT is formed from the node's state, a read of TRIP_CLR returns TRIP. -/
def NodeS.epRead (n : NodeS) (a : Nat) : Nat :=
  if a = 8 then n.mode + 8 * bit n.tsync + 16 * bit n.gate + 32 * bit (n.trip != 0) + 64 * bit n.ov + 128 * bit n.leak.isSome
  else if a = 0x88 then n.trip
  else n.epGet a

/-- Registers that can be written, and registers that can only be read. -/
def epWritable (a : Nat) : Bool :=
  a == 0x10 || a == 0x14 || (decide (0x20 ≤ a) && decide (a < 0x30)) || (decide (0x40 ≤ a) && decide (a < 0x70)) || a == 0x80 ||
    a == 0x88 || a == 0x90
def epReadOnly (a : Nat) : Bool := a == 0 || a == 4 || a == 8 || a == 0xC || a == 0x84 || a == 0x94

/-- The bits of a register that a write sets. -/
def epMask (a : Nat) : Nat :=
  if a = 0x10 then 0x10F else if a = 0x14 then 0xFF else if a < 0x30 then 0xFFF else if a < 0x70 then 0xFF7F
  else if a = 0x80 then 0xFFFFFFFF else 0x7F000F

/-- Whether a value is not reserved (R145). -/
def NodeS.epOk (n : NodeS) (a v : Nat) : Bool :=
  if a = 0x10 then decide (2 ≤ bitsOf v 0 4 ∧ bitsOf v 0 4 ≤ 8)
  else if 0x20 ≤ a ∧ a < 0x30 then decide (10 ≤ bitsOf v 0 12)
  else if 0x40 ≤ a ∧ a < 0x70 then
    decide (4 ≤ bitsOf v 0 7 ∧ bitsOf v 0 7 ≤ 120 ∧ 20 ≤ bitsOf v 8 7 ∧ bitsOf v 8 7 ≤ 120)
  else if a = 0x80 then decide (bitsOf v 0 16 ≤ n.d.ovMax)
  else if a = 0x90 then decide (bitsOf v 0 4 ≤ 11 ∧ 1 ≤ bitsOf v 16 7 ∧ bitsOf v 16 7 ≤ 100)
  else true

/-! ### Legs and switches (R126, R131, R132, R135, R140) -/

/-- Switches that a leg state holds on. -/
def legOn (k st : Nat) : Nat :=
  if st = 2 then (if k = 0 then 0x1 else if k = 1 then 0x4 else if k = 2 then 0x90 else 0x900)
  else if st = 1 then (if k = 0 then 0x2 else if k = 1 then 0x8 else if k = 2 then 0x60 else 0x600)
  else 0

/-- The leg a switch belongs to. -/
def legOfSw (i : Nat) : Nat := if i < 4 then i / 2 else 2 + (i - 4) / 4

/-- The switches of a leg. -/
def legSws (k : Nat) : Nat := if k = 0 then 0x3 else if k = 1 then 0xC else if k = 2 then 0xF0 else 0xF00

/-- The other switch of the half-leg. -/
def compSw (i : Nat) : Nat := if i % 2 = 0 then i + 1 else i - 1

def NodeS.leg (n : NodeS) (k : Nat) : Nat := (n.legs[k]?).getD 0
def NodeS.setLeg (n : NodeS) (k st : Nat) : NodeS := { n with legs := n.legs.set k st }

/-- Dead time of leg `k` in sixteenths of a nanosecond. -/
def NodeS.dead (n : NodeS) (k : Nat) : Nat := bitsOf (n.epGet (0x20 + 4 * k)) 0 12 * 80

/-- Switches commanded on: those of the leg states, while the gate enable is up, but for locked-out ones. -/
def NodeS.want (n : NodeS) : Nat :=
  if n.gate then
    let w := legOn 0 (n.leg 0) + legOn 1 (n.leg 1) + legOn 2 (n.leg 2) + legOn 3 (n.leg 3)
    Nat.xor w (Nat.land w (Nat.lor n.held (bitsOf n.trip 16 12)))
  else 0

/-- A switch turns on; its blanking runs to its end with the BLANK of this instant (R139, R144). -/
def NodeS.switchOn (n : NodeS) (i : Nat) : NodeS :=
  let e := n.nt + bitsOf (n.epGet (0x40 + 4 * i)) 0 7 * 400
  { n with sw := n.sw + 2 ^ i, blankTo := (List.range 12).map fun j => if j = i then e else (n.blankTo[j]?).getD 0 }

/-- Turn one switch on when its dead time has passed, or let it wait (R131). -/
def NodeS.turnOn (n : NodeS) (i : Nat) : NodeS :=
  let due := (n.deadTo[compSw i]?).getD 0
  if due ≤ n.nt then n.switchOn i else { n with wait := n.wait ++ [(i, due)] }

/-- The gate-command outputs follow the leg states. -/
def NodeS.drive (n : NodeS) : NodeS :=
  let w := n.want
  let off := (List.range 12).map fun i => if n.sw.testBit i && !w.testBit i then n.nt else (n.offAt[i]?).getD 0
  let dead := (List.range 12).map fun i =>
    if n.sw.testBit i && !w.testBit i then n.nt + n.dead (legOfSw i) else (n.deadTo[i]?).getD 0
  let n := { n with offAt := off, deadTo := dead, sw := Nat.land n.sw w, wait := [] }
  ((List.range 12).filter fun i => w.testBit i && !n.sw.testBit i).foldl (fun n i => n.turnOn i) n

/-- Legs 0 to 3 go to Z. -/
def NodeS.legsZ (n : NodeS) : NodeS := { n with legs := [0, 0, 0, 0] ++ n.legs.drop 4 }.drive

/-- Flags of FAULT[5:3] wait for the next report on each path. -/
def NodeS.flag (n : NodeS) (b : Nat) : NodeS := { n with fl0 := Nat.lor n.fl0 (2 ^ b), fl1 := Nat.lor n.fl1 (2 ^ b) }

/-- An entry is removed: EXEC_CNT counts it. -/
def NodeS.removed (n : NodeS) (k : Nat) : NodeS := { n with exec := (n.exec + k) % 256 }

/-- The edge queue is discarded, its entries counted as removed (R128, R138). -/
def NodeS.discard (n : NodeS) : NodeS := { n with q := [] }.removed n.q.length

/-! ### Modes (R127, R128) -/

/-- A leakage test stops (R143). -/
def NodeS.leakStop (n : NodeS) : NodeS :=
  match n.leak with
  | none => n
  | some k => { n with leak := none }.epPut 0x94 k

/-- When the bypass closes on entry to SAFE_BYPASS: the larger dead time after the switches of legs 0 and 1 went off (R127). -/
def NodeS.bypDue (n : NodeS) : Nat :=
  let off := (n.offAt.take 4).foldl max 0
  if off = 0 then n.nt else max n.nt (off + max (n.dead 0) (n.dead 1))

/-- Enter a mode. -/
def NodeS.enter (n : NodeS) (m : Nat) : NodeS :=
  let n := if (n.mode = 4 ∨ n.mode = 5) ∧ m ≤ 3 then n.discard.legsZ else n
  let n := if m = 3 then n.discard else n
  let n := if m = 1 ∨ m = 2 then n else n.leakStop
  if m = 2 then
    if n.mode = 2 then n else { n with mode := 2, hold := 0, bypAt := some n.bypDue }
  else if m = n.mode then n
  else if m = 5 ∨ n.mode = 5 ∧ m = 4 then { n with mode := m, hold := 0 }
  else { n with mode := m, hold := 0, bypAt := none }.setLeg 4 0

/-- Whether a request is allowed from the present mode and its conditions hold (R127). -/
def NodeS.allowed (n : NodeS) (m : Nat) : Bool :=
  if m = 1 ∨ m = 2 then n.mode != 0 || n.tsync
  else if m = 3 then n.mode != 0 && n.tsync
  else if m = 4 then n.mode == 4 || ((n.mode == 3 || n.mode == 5) && n.tsync && n.gate)
  else if m = 5 then n.mode == 4 || n.mode == 5
  else false

/-! ### Edge entries (R129, R132) -/

/-- Whether the leg of an entry is present and its state is one the leg takes. -/
def NodeS.entryOk (n : NodeS) (e : Edge) : Bool :=
  decide (e.leg < 6) && e.st != 3 && !(e.st == 1 && decide (4 ≤ e.leg)) &&
    !(e.leg == 4 && !n.d.byp) && !(e.leg == 5 && !n.d.dump) && !((e.leg == 2 || e.leg == 3) && !n.d.dab)

/-- The bypass interlock against the states left by the entries queued ahead (R132). -/
def NodeS.bypOk (n : NodeS) (e : Edge) : Bool :=
  let l := n.q.foldl (fun l (f : Edge) => l.set f.leg f.st) n.legs
  let at' := fun k => (l[k]?).getD 0
  if e.leg ≤ 1 ∧ e.st ≠ 0 then at' 4 == 0
  else if e.leg = 4 ∧ e.st ≠ 0 then at' 0 == 0 && at' 1 == 0
  else true

/-- One entry arrives; `run`: RUN is in effect or takes effect from its section. -/
def NodeS.arrive (n : NodeS) (run : Bool) (e : Edge) : NodeS :=
  if !run || !n.entryOk e || !n.bypOk e then (n.removed 1).flag 3
  else if n.q.length < 16 then { n with q := n.q ++ [e] }
  else n

/-- The edge entries of a section (R94); offsets count from the start of frame `fr`. -/
def entriesOf (fr : Nat) (sec : List Byte) : List Edge :=
  (List.range (min 16 (fieldAt sec 1 1 % 32))).map fun i =>
    let w := fieldAt sec (8 + 4 * i) 4
    { t := fr * 16000 + bitsOf w 0 24, leg := bitsOf w 29 3, st := bitsOf w 27 2, fl := bitsOf w 24 3 }

/-! ### Mailbox (R108 to R110, R144) -/

/-- An acknowledgement waits for a report on each path; at most 8 wait, a ninth is dropped (R110; DESIGN CHOICE,
notes/assumptions/104.md). -/
def NodeS.ackWith (n : NodeS) (w : MbW) (stat rdata : Nat) : NodeS :=
  let a : Ack := { tag := w.tag, stat := stat, rdata := rdata }
  { n with ack0 := if n.ack0.length < 8 then n.ack0 ++ [a] else n.ack0
           ack1 := if n.ack1.length < 8 then n.ack1 ++ [a] else n.ack1
           mbDone := (n.mbDone + 1) % 32
           done8 := ((w.tag, w.addr, w.apply) :: n.done8).take 8 }

/-- Whether a write is a duplicate (R109). -/
def NodeS.dup (n : NodeS) (w : MbW) : Bool :=
  n.done8.contains (w.tag, w.addr, w.apply) ||
    n.mbq.any fun x => x.1.tag == w.tag && x.1.addr == w.addr && x.1.apply == w.apply

/-- A write arrives in the section of frame `fr` (R108, R109, R144): one that finds the queue full is discarded, whatever it is. The
second value of a queued write: it is late. `free` is a read of a register of the designer's area. -/
def NodeS.mbArrive (n : NodeS) (fr : Nat) (w : MbW) (free : Nat) : NodeS :=
  let d := toInt 32 (subMod 32 w.apply fr)
  if 4 ≤ n.mbq.length then n
  else if n.dup w then n.ackWith w 3 (if 0x8000 ≤ w.addr then free else n.epRead w.addr)
  else if w.addr % 4 ≠ 0 ∨ d > 2 ^ 20 then n.ackWith w 5 0
  else if 0x8000 ≤ w.addr ∨ (epWritable w.addr ∧ n.epOk w.addr w.data) then
    { n with mbq := n.mbq ++ [(w, decide (d ≤ 0))] }
  else if epReadOnly w.addr then n.ackWith w 4 (n.epRead w.addr)
  else n.ackWith w 5 0

/-- A write is rejected whenever it arrives: no register of the map, a misaligned address, a reserved value. -/
def NodeS.refuses (n : NodeS) (w : MbW) : Bool :=
  w.addr % 4 != 0 || !(decide (0x8000 ≤ w.addr) || (epWritable w.addr && n.epOk w.addr w.data) || epReadOnly w.addr)

/-- Start a leakage test (R143). -/
def NodeS.leakStart (n : NodeS) (v : Nat) : NodeS :=
  let k := bitsOf v 0 4
  { (n.epPut 0x90 (Nat.land v 0x7F000F)) with leak := some k }.epPut 0x94 (k + 32)

/-- A write applies (R108, R141, R143); `free` is the read-back of a register of the designer's area. -/
def NodeS.mbApply (n : NodeS) (w : MbW) (late : Bool) (free : Nat) : NodeS :=
  let ok := if late then 2 else 1
  if 0x8000 ≤ w.addr then n.ackWith w ok free
  else if w.addr = 0x88 then
    let keep := n.bsuvLow * 65536
    let clear := Nat.land n.trip (Nat.xor w.data (Nat.land w.data keep))
    let n := n.epPut 0x84 (n.trip - clear)
    n.ackWith w ok n.trip
  else if w.addr = 0x90 ∧ bitsOf w.data 8 1 = 1 then
    if n.mode = 1 ∨ n.mode = 2 then (n.leakStart w.data).ackWith w ok (Nat.land w.data 0x7F000F) else n.ackWith w 5 0
  else
    let n := n.epPut w.addr (Nat.land w.data (epMask w.addr))
    n.ackWith w ok (n.epRead w.addr)

/-- Apply the writes that are due in frame `fr` in the order received; `free`: read-backs of the designer's area. -/
def NodeS.mbDue (n : NodeS) (fr : Nat) (free : Nat → Nat) : NodeS :=
  let due := n.mbq.filter fun x => x.2 || !later32 x.1.apply fr
  let n := { n with mbq := n.mbq.filter fun x => !(x.2 || !later32 x.1.apply fr) }
  (due.zip (List.range due.length)).foldl (fun n x => n.mbApply x.1.1 x.1.2 (free x.2)) n

/-! ### Taking a section (R105, R112, R121, R122) -/

/-- The frame of the node's timeline whose number is `k`. -/
def NodeS.fullFrame (n : NodeS) (k : Nat) : Nat :=
  let f := n.nt / 16000
  ((f : Int) + toInt 32 (subMod 32 k f)).toNat

/-- DEP of a header plus TCORR of a section, in units of 2^-16 ns. -/
def sectionTime (h sec : List Byte) : Int :=
  ((fieldAt h 4 6 * 1000000000 + fieldAt h 10 4 % 2 ^ 30) * 65536 + fieldAt h 14 2 : Nat) + toInt 24 (fieldAt sec 4 3) * 4096

/-- Set the time and TSYNC; `run` is the running time at the arrival of the header, like `t` in units of 2^-16 ns (R121, R122). The
time that has passed since is kept; the instant a node stands at is counted in sixteenths of a nanosecond, rounded down (DESIGN
CHOICE, notes/assumptions/107.md). -/
def NodeS.setTime (n : NodeS) (t : Int) (run : Nat) : NodeS :=
  let d := (t - run).natAbs
  let agree := if d ≤ 2 * 65536 then min 4 (n.agree + 1) else 0
  let n := { n with nt := (t.toNat + (n.nt * 4096 - run)) / 4096, agree := agree,
                    tsync := (n.tsync && decide (d ≤ 4 * 65536)) || agree == 4 }
  if n.tsync then n else n.legsZ

/-- A new link generation of the same source discards both queues (R105), and no on-state voltage of it is known (R125). -/
def NodeS.linkGen (n : NodeS) (src : Nat × Nat) (g : Nat) : NodeS :=
  let same := match n.gen with
    | some (e, d, x) => e == src.1 && d == src.2 && x != g
    | none => false
  let n := { n with gen := some (src.1, src.2, g) }
  if same then
    let none12 := List.replicate 12 0xFFFF
    let n := { n with q := [], mbq := [], exec := 0, mbDone := 0, leak := none
                      smp := n.smp.map fun (x : Sample) => { x with von := none12 }
                      conv := n.conv.map fun (x : Sample) => { x with von := none12 } }
    if n.mode = 5 then n.enter 3 else n
  else n

/-- Conditions of R112. -/
def NodeS.takes (n : NodeS) (h sec : List Byte) : Bool :=
  crc32c (h.take 36) == fieldAt h 36 4 && scrcOk sec && fieldAt sec 0 1 % 8 != 0 &&
    (match n.lastF with
      | none => true
      | some f => later32 (fieldAt h 0 4) f) &&
    n.obey == some (fieldAt h 18 4, fieldAt h 16 2)

/-- Take a section; `free` is a read of a register of the designer's area. -/
def NodeS.take (n : NodeS) (h sec : List Byte) (run free : Nat) : NodeS :=
  let k := fieldAt h 0 4
  let b := fieldAt sec 0 1
  let n := n.linkGen (fieldAt h 18 4, fieldAt h 16 2) (fieldAt h 26 2)
  let n := n.setTime (sectionTime h sec) run
  let fr := n.fullFrame k
  let n := { n with lastF := some k, cmdFr := k, loss := 0, took := true, fCmd := false }
  let n := if b / 8 % 2 = 1 then { n with smpAt := n.smpAt ++ [fr * 16000 + fieldAt sec 2 2] } else n
  let m := b % 8
  let ok := n.allowed m
  let n := { n with req := if ok then some m else n.req }
  let n := if m = 4 then (entriesOf fr sec).foldl (fun n e => n.arrive ok e) n else n
  if b / 16 % 2 = 1 then
    n.mbArrive k { tag := fieldAt sec 7 1, addr := fieldAt sec 72 2, data := fieldAt sec 74 4, apply := fieldAt sec 78 4 } free
  else n

/-! ### Token checker (R134, R135, R137) -/

/-- Whether the source of (epoch, DEVID) outranks another (R137). -/
def outranks (a b : Nat × Nat) : Bool := decide (b.1 < a.1) || (a.1 == b.1 && decide (a.2 < b.2))

/-- Validity of a token. -/
def NodeS.tokenOk (n : NodeS) (h sec : List Byte) : Bool :=
  let fr := fieldAt h 0 4
  let seq := fieldAt sec 82 2
  let bytes := (h.take 4) ++ ((h.drop 16).take 6) ++ ((sec.drop 82).take 3)
  Nat.xor (crcL 8 0x2F 0xFF bytes) 0xFF == fieldAt sec 85 1 && fieldAt sec 84 1 % 8 == n.pos0 &&
    (!n.tsync || fr == n.nt / 16000 % 2 ^ 32 || (fr + 1) % 2 ^ 32 == n.nt / 16000 % 2 ^ 32) &&
    (match n.tokLast with
      | some (e, d, f, q) => !(e == fieldAt h 18 4 && d == fieldAt h 16 2) ||
          (later32 fr f && subMod 16 seq q == subMod 32 fr f % 65536)
      | none => true)

/-- A section's token is checked. A frame counts once towards the release, whichever sources' tokens it carried. -/
def NodeS.token (n : NodeS) (h sec : List Byte) : NodeS :=
  if n.tokenOk h sec then
    let fr := fieldAt h 0 4
    let src := (fieldAt h 18 4, fieldAt h 16 2)
    let n := { n with tokLast := some (src.1, src.2, fr, fieldAt sec 82 2) }
    let n := if (match n.obey with | none => true | some o => outranks src o) then { n with obey := some src } else n
    if n.obey = some src then
      let run := match n.tokFr with
        | some f => if f = fr then n.tokRun else if (f + 1) % 2 ^ 32 = fr then min 3 (n.tokRun + 1) else 1
        | none => 1
      let n := { n with tokRun := run, tokFr := some fr, tokTmr := true }
      if run = 3 ∧ !n.gate then { n with gate := true, fTok := false }.drive else n
    else n
  else n

/-! ### Reports (R95 to R97) -/

/-- Bytes 0 to 85 of the report on path `p`. -/
def NodeS.report (n : NodeS) (p resid : Nat) (user : List Byte) : List Byte :=
  let a := ((if p = 0 then n.ack0 else n.ack1).head?).getD { tag := 0, stat := 0, rdata := 0 }
  let smp := n.smp.getD {}
  let ok := n.smp.isSome && n.conv.isNone
  let at' := fun (l : List Nat) i => toBytes 2 ((l[i]?).getD 0)
  toBytes 1 (n.mode + 8 * bit n.tsync + 16 * bit n.gate + 32 * bit ok) ++ toBytes 1 n.exec ++ toBytes 2 resid ++
    toBytes 1 (n.q.length + 32 * n.mbq.length) ++ toBytes 1 a.tag ++ toBytes 1 (a.stat + 8 * n.mbDone) ++ toBytes 1 n.cmdFr ++
    toBytes 2 smp.frame ++ toBytes 2 smp.ofs ++ toBytes 2 smp.vdc ++ toBytes 2 smp.iarm ++ toBytes 2 smp.idab ++
    ((List.range 4).flatMap (at' smp.temp)) ++ ((List.range 12).flatMap (at' smp.von)) ++
    toBytes 2 (bitsOf n.trip 16 12) ++ toBytes 2 (bitsOf n.trip 0 12) ++
    toBytes 2 (bit n.ov + 2 * bit n.fTok + 4 * bit n.fCmd + (if p = 0 then n.fl0 else n.fl1)) ++ toBytes 4 (n.epGet 0x94) ++
    toBytes 4 a.rdata ++ toBytes 2 ((n.obey.getD (0, 0)).1) ++ toBytes 2 ((n.obey.getD (0, 0)).2) ++ user

/-- Position of the node on a path (R118). -/
def NodeS.posAt (n : NodeS) (p : Nat) : Nat := if p = 0 then n.pos0 else n.pos1
def NodeS.idleAt (n : NodeS) (p : Nat) : Bool := if p = 0 then n.idle0 else n.idle1
def NodeS.path (n : NodeS) (p : Nat) : NodePath := if p = 0 then n.path0 else n.path1
def NodeS.setPath (n : NodeS) (p : Nat) (x : NodePath) : NodeS := if p = 0 then { n with path0 := x } else { n with path1 := x }

/-- PROF of a header (R91). -/
def profOf (f : List Byte) : Nat := fieldAt f 23 1 % 2
/-- The slots of a node at position `k`: the one it reads its command in, and the one it writes its report in (R120). -/
def cmdSlotOf (prof k : Nat) : Nat := if prof = 1 then k else 2 * k
def repSlotOf (prof k : Nat) : Nat := if prof = 1 then k else 2 * k + 1
/-- The bytes of slot `i` of a frame, as many as were received (R44). -/
def slotBytes (f : List Byte) (i : Nat) : List Byte := if i < 8 then (f.drop (40 + 88 * i)).take 88 else []
/-- A frame with slot `i` replaced, as far as its blocks go (R87). -/
def withSlot (f : List Byte) (i : Nat) (bs : List Byte) : List Byte :=
  let a := 40 + 88 * i
  f.take a ++ bs.take (f.length - a) ++ f.drop (a + 88)
/-- Whether the HCRC of a frame's header passes (R98). -/
def headOk (f : List Byte) : Bool := decide (40 ≤ f.length) && crc32c (f.take 36) == fieldAt f 36 4

/-- The slot of the report in a frame. A cell takes no field from a header whose HCRC fails: it then writes in the slot of the last
good header (DESIGN CHOICE, notes/assumptions/106.md). -/
def NodeS.repSlot (n : NodeS) (p : Nat) (f : List Byte) : Nat := repSlotOf (if headOk f then profOf f else n.prof) (n.posAt p)

/-- Write a report on path `p`: one acknowledgement is used up, the flags of R132 clear for the path. -/
def NodeS.write (n : NodeS) (p resid : Nat) (user : List Byte) : NodeS :=
  let body := n.report p resid user
  let n := { n with rep := body ++ toBytes 2 (crc16 body) }
  if p = 0 then { n with ack0 := n.ack0.drop 1, fl0 := 0 } else { n with ack1 := n.ack1.drop 1, fl1 := 0 }

/-- Forward a frame on path `p`: every block as received but for the own report slot; `scr` is the node's scrambler (R87, R97, R118). -/
def NodeS.forward (n : NodeS) (p resid : Nat) (f user : List Byte) (scr : Nat) : NodeS :=
  let i := n.repSlot p f
  let here := decide (i < 8 ∧ 40 + 88 * i < f.length)
  let m := if here then n.write p resid user else n
  let g := if here then withSlot f i m.rep else f
  let m := { m with prof := if headOk f then profOf f else m.prof }
  m.setPath p { m.path p with frame := g, blk := true
                              out := (sendBlocks scr ((payloads (g.length / 8) g).map fun w => (1, w))).1 }

/-! ### Events of a node -/

/-- Command loss (R138). -/
def NodeS.cmdLoss (n : NodeS) : NodeS :=
  let n := { n with tsync := false, agree := 0, fCmd := true, req := none }
  let n := n.discard.legsZ
  n.enter (1 + bitsOf (n.epGet 0x10) 8 1)

/-- A frame starts in node time (R108, R127, R128, R138). -/
def NodeS.frameStart (n : NodeS) (free : Nat → Nat) : NodeS :=
  let n := { n with nt := (n.nt / 16000 + 1) * 16000 }
  let n := if n.mode = 0 ∨ n.took then { n with loss := 0 } else { n with loss := n.loss + 1 }
  let n := { n with took := false }
  let n := { n with hold := if n.mode = 5 ∧ n.q = [] ∧ n.holdQ then n.hold + 1 else 0 }
  let n := if n.loss ≠ 0 ∧ bitsOf (n.epGet 0x10) 0 4 ≤ n.loss ∧ !n.fCmd then n.cmdLoss else n
  let n := match n.req with
    | some m => { n with req := none }.enter m
    | none => n
  let n := n.mbDue (n.nt / 16000 % 2 ^ 32) free
  { n with holdQ := decide (n.mode = 5 ∧ n.q = []) }

/-- An accepted entry acts on its leg (R130 to R132, R140, R141). -/
def NodeS.act (n : NodeS) (e : Edge) : NodeS :=
  if e.leg = 5 then n.setLeg 5 e.st
  else if e.leg = 4 then
    if e.st ≠ 0 ∧ ¬(n.leg 0 = 0 ∧ n.leg 1 = 0) then n.flag 4 else n.setLeg 4 e.st
  else if e.leg ≤ 1 ∧ e.st ≠ 0 ∧ n.leg 4 ≠ 0 then n.flag 4
  else
    let n := { n with held := n.held - Nat.land n.held (legSws e.leg) }
    if Nat.land (legOn e.leg e.st) (bitsOf n.trip 16 12) ≠ 0 then (n.setLeg e.leg 0).drive else (n.setLeg e.leg e.st).drive

/-- The head of the edge queue falls due (R122, R130, R141). -/
def NodeS.execute (n : NodeS) : NodeS :=
  match n.q with
  | [] => n
  | e :: q =>
    if n.mode = 4 ∨ n.mode = 5 then
      let late := decide (e.t < n.nt)
      let n := { n with q := q, nt := max n.nt e.t }.removed 1
      let n := if late then n.flag 5 else n
      if !n.tsync || n.desatLatched then n else n.act e
    else n

/-- A switch whose dead time has passed turns on; 12 is the bypass of SAFE_BYPASS (R127, R131). -/
def NodeS.deadEnd (n : NodeS) (i : Nat) : NodeS :=
  if i = 12 then
    match n.bypAt with
    | some t => if n.leg 0 = 0 ∧ n.leg 1 = 0 then { n with nt := max n.nt t, bypAt := none }.setLeg 4 2 else n
    | none => n
  else match n.wait.find? (fun w => w.1 == i) with
    | none => n
    | some (_, t) =>
      let n := { n with nt := max n.nt t, wait := n.wait.filter fun w => w.1 != i }
      if n.want.testBit i && !n.sw.testBit i && !n.sw.testBit (compSw i) then n.switchOn i else n

/-- The on-state voltage of a switch, in millivolts, sensed at instant `t` of node time (R139): above THRESH, after the blanking, of a
switch that is on, it is a desaturation. -/
def NodeS.desat (n : NodeS) (i t mv : Nat) : NodeS :=
  let n := { n with nt := max n.nt t }
  let r := n.epGet (0x40 + 4 * i)
  if n.sw.testBit i ∧ bitsOf r 15 1 = 1 ∧ (n.blankTo[i]?).getD 0 ≤ n.nt ∧ bitsOf r 8 7 * 100 < mv then
    (n.epPut 0x84 (Nat.lor n.trip (2 ^ i))).legsZ
  else n

/-- A bootstrap supply falls below its level, or is back above it (R140): only the upper switches have one. -/
def NodeS.bsuv (n : NodeS) (i : Nat) (low : Bool) : NodeS :=
  if i % 2 = 1 then n
  else if low then ({ n with bsuvLow := Nat.lor n.bsuvLow (2 ^ i), held := Nat.lor n.held (2 ^ i) }.epPut 0x84 (Nat.lor n.trip (2 ^ (16 + i)))).drive
  else { n with bsuvLow := n.bsuvLow - Nat.land n.bsuvLow (2 ^ i) }

/-! ### Commands -/

/-- Apply a change to a node. -/
def State.nodeUp (s : State) (c : Nat) (f : NodeS → NodeS) : State := s.setNode c (f (s.node c))

/-- A received frame is given by the bytes of its blocks, up to the block at which it was cut short (R86). -/
def frameOk (f : List Byte) : Bool := decide (f.length ≤ 744) && f.length % 8 == 0

/-- The command section of a node in a frame of path `p`, when it has arrived whole. -/
def NodeS.sectionOf (n : NodeS) (p : Nat) (f : List Byte) : Option (List Byte) :=
  let b := slotBytes f (cmdSlotOf (profOf f) (n.posAt p))
  if b.length = 88 ∧ !n.idleAt p then some b else none

/-- The frame of path `p` reaches a node, whose running time was `run` at the arrival of its header. -/
def NodeS.section (n : NodeS) (p : Nat) (f : List Byte) (run free : Nat) : NodeS :=
  match n.sectionOf p f with
  | some b => if n.takes (f.take 40) b then n.take (f.take 40) b run free else n
  | none => n

def execCellSectionTaken (c : Fin 192) (p : Fin 2) (f : List Byte) (run : Nat) (s : State) : Out :=
  if frameOk f then .next (s.nodeUp c fun n => n.section p f run (s.freeNat 32)).drawn else .fault .illFormed

/-- The checker takes the fields of the header and of the section as they arrive (R134). -/
def execCellTokenCheck (c : Fin 192) (p : Fin 2) (f : List Byte) (s : State) : Out :=
  if frameOk f then
    .next (s.nodeUp c fun n => match n.sectionOf p f with
      | some b => n.token (f.take 40) b
      | none => n)
  else .fault .illFormed

/-- The token timer expires: the gate enable falls, or stays down, and FAULT[1] is set (R135). -/
def execTokenTimerExpiry (c : Fin 192) (s : State) : Out :=
  .next (s.nodeUp c fun n =>
    if n.tokTmr then { n with gate := false, tokRun := 0, tokTmr := false, fTok := true }.drive else n)

def execCellFrameStart (c : Fin 192) (s : State) : Out := .next ((s.nodeUp c fun n => n.frameStart (s.freeAt 32)).drawnN (s.node c).mbq.length)

/-- A leakage test ends with a gate current in nA (R143). -/
def execLeakTestEnd (c : Fin 192) (na : BitVec 24) (s : State) : Out :=
  .next (s.nodeUp c fun n => match n.leak with
    | none => n
    | some k => { n with leak := none }.epPut 0x94 (k + 16 + na.toNat * 256))

def execCellEdgeExecute (c : Fin 192) (s : State) : Out := .next (s.nodeUp c NodeS.execute)

def execCellDeadtimeTurnOn (c : Fin 192) (sw : Fin 13) (s : State) : Out := .next (s.nodeUp c fun n => n.deadEnd sw)

/-- The queue has been empty for HOLD_TMO frames in HOLD (R127). -/
def execHoldTimeout (c : Fin 192) (s : State) : Out :=
  .next (s.nodeUp c fun n =>
    let k := bitsOf (n.epGet 0x14) 0 8
    if n.mode = 5 ∧ n.q = [] ∧ k ≠ 0 ∧ k ≤ n.hold then n.legsZ else n)

/-- The node samples at the first instant ordered, or at once when that has passed; VON of a switch that is not on keeps its value
(R124, R125). -/
def NodeS.sample (n : NodeS) (x : Sample) : NodeS :=
  match n.smpAt with
  | [] => n
  | t :: r =>
    let t := max n.nt t
    let old := ((n.conv <|> n.smp).getD {}).von
    let von := (List.range 12).map fun i => ((if n.sw.testBit i then x.von[i]? else old[i]?)).getD 0xFFFF
    { n with nt := t, smpAt := r, conv := some { x with frame := t / 16000 % 65536, ofs := t % 16000, von := von } }

/-- A sample is taken, with the values its conversion will give. -/
def execCellSample (c : Fin 192) (vdc iarm idab : BitVec 16) (temp von : List (BitVec 16)) (s : State) : Out :=
  if temp.length = 4 ∧ von.length = 12 then
    .next (s.nodeUp c fun n => n.sample { vdc := vdc.toNat, iarm := iarm.toNat, idab := idab.toNat
                                          temp := temp.map BitVec.toNat, von := von.map BitVec.toNat })
  else .fault .illFormed

def execCellConversionDone (c : Fin 192) (s : State) : Out :=
  .next (s.nodeUp c fun n => match n.conv with
    | none => n
    | some x => { n with smp := some x, conv := none })

/-- The node forwards a frame of path `p` with its report, the residence it measured and the designer's bytes (R87, R95, R97). The
state of its scrambler is free (notes/assumptions/96.md). -/
def execCellReportWrite (c : Fin 192) (p : Fin 2) (f : List Byte) (resid : BitVec 16) (user : List Byte) (s : State) : Out :=
  if frameOk f ∧ user.length = 18 then
    .next (s.nodeUp c fun n => if n.idleAt p then n else n.forward p resid.toNat f user (s.freeNat 58)).drawn
  else .fault .illFormed

/-- An input loses signal or CDR lock: its output goes to electrical idle (R117), the path is back in comma search
(03_cell_lanes.md R78). -/
def execCellInputLos (c : Fin 192) (p : Fin 2) (s : State) : Out :=
  .next (s.nodeUp c fun n =>
    let n := n.setPath p { n.path p with rdIn := none, blk := false, grp := [], out := [], frame := [] }
    if p.val = 0 then { n with idle0 := true } else { n with idle1 := true })

def execCellInputRelock (c : Fin 192) (p : Fin 2) (s : State) : Out :=
  .next (s.nodeUp c fun n => if p.val = 0 then { n with idle0 := false } else { n with idle1 := false })

/-- A set as a node forwards it: HOP counted up, saturating, and the CRC-8 of the changed set (R118). -/
def setForwarded (set : List Byte) : List Byte :=
  let body := (set.set 4 (BitVec.ofNat 8 (min 255 (symOf set 5 + 1)))).take 14
  body ++ toBytes 1 (crc8 body)

/-- A training set on path `p` (R118): an accepted one is forwarded with its HOP counted up, in the running disparity of the output,
and gives the position; the HOS of COUNTDOWN 0 ends the 8b/10b stream; any other is forwarded as it came. -/
def NodeS.orderedSet (n : NodeS) (p : Nat) (gs : List (BitVec 10)) : NodeS :=
  let x := n.path p
  let rd := setRd x.rdIn gs
  match (decodeSet rd gs).filter setGood with
  | some set =>
    let r := encodeSet x.rdOut (setForwarded set)
    let n := n.setPath p { x with rdIn := some (rdGroups rd gs), rdOut := r.2, grp := r.1, out := [], frame := []
                                  blk := symOf set 1 == 0x4C && symOf set 7 == 0 }
    let n := { n with fwd := setForwarded set }
    if p = 0 then { n with pos0 := symOf set 5 } else { n with pos1 := symOf set 5 }
  | none => n.setPath p { x with rdIn := some (rdGroups rd gs), rdOut := rdGroups x.rdOut gs, grp := gs, blk := false, out := [], frame := [] }

def execCellOrderedSetForward (c : Fin 192) (p : Fin 2) (groups : List (BitVec 10)) (s : State) : Out :=
  if groups.length = 16 then .next (s.nodeUp c fun n => if n.idleAt p then n else n.orderedSet p groups) else .fault .illFormed

def execDesatTrip (c : Fin 192) (sw : Fin 12) (t mv : Nat) (s : State) : Out := .next (s.nodeUp c fun n => n.desat sw t mv)

def execBsuvLockout (c : Fin 192) (sw : Fin 12) (low : Bool) (s : State) : Out := .next (s.nodeUp c fun n => n.bsuv sw low)

/-- VDC reaches OV_ON, and falls below OV_ON less OV_HYST (R142). -/
def execCellDumpOn (c : Fin 192) (s : State) : Out := .next (s.nodeUp c fun n => if n.d.dump then { n with ov := true } else n)

def execCellDumpOff (c : Fin 192) (s : State) : Out := .next (s.nodeUp c fun n => { n with ov := false })

/-- A node reset: every value at its Cold column, the bypass as at power-up (R127, R137, R145). An output whose input has lost its
signal stays in electrical idle (R117). -/
def execNodeReset (c : Fin 192) (s : State) : Out :=
  .next (s.nodeUp c fun n => { d := n.d, idle0 := n.idle0, idle1 := n.idle1, legs := [0, 0, 0, 0, if n.d.bypPwr then 2 else 0, 0] })

end Sys2Proof.Machine
end

