-- ==== Sys2Proof/Machine/Pair.lean ====
section
/-! DEFINITION. Machine/Pair.lean: the redundant pair as shared operations: roles, epochs, takeover, time offset, digests
(12_redundant_pair.md R348 to R362). -/
namespace Sys2Proof.Machine

def State.role (s : State) : Nat := s.rd SADL_STAT_ROLE
def State.setPair (s : State) (x : PairH) : State := { s with pair := x }
/-- A PAIR fault (R363). -/
def State.postPair (s : State) (kind sev datum : Nat) : State := s.post srcSADL 0 kind clsPAIR sev datum
/-- Chains in service (01_architecture.md R35). -/
def State.serving (s : State) : List Nat := (List.range 24).filter s.inService

/-! ### Books of a pair member (R360) -/

/-- A pair member without books: CREDIT reads 0, nothing waits to be sent again. -/
def State.closeAll (s : State) : State := s.forEach (List.range 24) fun s n => s.closeBooks n

/-- From the decision on, every cell's books reopen at a report that names frame `k` or a later one. -/
def State.reopenAll (s : State) (k : Nat) : State :=
  s.forEach (List.range 192) fun s c => s.when (s.hasCell c) fun s =>
    s.setCell c { s.cell c with opened := false, reopen := some k, reopened := none }

/-! ### Roles (R353 to R356) -/

/-- The first frame that departs at least 300 ns from now (R354). -/
def State.firstRaised (s : State) : Nat :=
  let k := s.frame + 1
  if (s.tb + 300 * 2 ^ 24) * 1600 ≤ departure k * 2 ^ 24 then k else k + 1

/-- The epoch that frame `k` carries: the one before the raise in a frame before the first raised-epoch frame (R354; DEDUCED,
notes/assumptions/113.md). -/
def State.epochAt (s : State) (k : Nat) : Nat :=
  if s.pair.raised.any fun r => decide (k < r) then s.pair.was else s.reg SADL_EPOCH

/-- The epoch record takes the epoch; while write pulses are suspended it waits for its pulses (R354). -/
def State.recordEpoch (s : State) : State :=
  let s := s.recPut 0 (toBytes 4 (s.reg SADL_EPOCH))
  s.setPair (if s.on PWR_STAT_SUSP then { s.pair with epochPend := true }
    else { s.pair with record := s.reg SADL_EPOCH, epochPend := false })

/-- At a cold reset EPOCH is loaded from the record; an absent one is epoch 0 (R354, 17_reset_power_boot.md R461). -/
def State.epochLoad (s : State) : State :=
  let (r, s) := s.recLoad 0
  let e := match r with | some b => ofBytes b | none => 0
  (s.setPair { s.pair with record := e }).setReg SADL_EPOCH e

/-- Enter ACTIVE (R354, R357): `cause` 1 to 4, `ch` the detecting chain of cause 1. -/
def State.toActive (s : State) (cause ch : Nat) : State :=
  let e := (max (max (s.reg SADL_EPOCH) (s.reg SADL_P_EPOCH)) s.pair.record + 1) % 2 ^ 32
  let k := s.firstRaised
  let s := s.setPair { s.pair with was := s.reg SADL_EPOCH }
  let s := (s.wr SADL_STAT_ROLE 3).setReg SADL_EPOCH e
  let s := s.recordEpoch
  let s := (s.setReg SADL_TKO_LOG (k % 2 ^ 32)).wr SADL_TKO_CAUSE_CAUSE cause
  let s := s.wr SADL_TKO_CAUSE_CHAIN ch
  let s := s.setPair { s.pair with raised := some k }
  let s := ((s.clr SADL_STAT_HOLD_ACT).bump SADL_CNT_TAKEOVERS).postPair 2 1 e
  (s.reopenAll k).planTakeover

/-- The standby is READY (R357). -/
def State.pairReady (s : State) : Bool :=
  s.role == 2 && s.on SADL_CFG_TKO_EN && (s.dev == 2 || s.dev == 3) && s.powerSet && s.on SAFE_STATE_TOKENS

/-- Demotion (R355): STANDBY, no books, queues for the partner dropped, a plan waiting here is lost. -/
def State.demote (s : State) : State :=
  let s := (s.wr SADL_STAT_ROLE 2).bump SADL_CNT_DEMOTIONS
  let s := s.postPair 3 1 (s.reg SADL_P_EPOCH)
  let s := s.when (s.rd SADL_CFG_HOLD != 0) fun s => s.set1 SADL_STAT_HOLD_ACT
  let s := (s.clr SADL_STAT_YIELD_TX).closeAll
  let s := s.setPair { s.pair with mboxq := [], pgenq := [], mirq := [], planq := [], raised := none }
  let s := s.forEach (List.range 192) fun s c => s.when (s.cellEn c) fun s =>
    s.setCell c { s.cell c with reopen := none, resend := [], out := [] }
  s.planCancel

/-- Frames of the partner have stopped on a chain (R357). -/
def State.pStopped (s : State) (n : Nat) : Bool :=
  s.topo n == 2 && decide (s.rd SADL_CFG_MISS ≤ (s.chain n).pmiss)

/-- The partner's HEALTH shows the chain not live there (R357). -/
def State.pDark (s : State) (n : Nat) : Bool :=
  s.on SADL_STAT_HB_OK && decide (s.pair.healthAge ≤ 3) && !s.pair.live.testBit n

/-- Cause 1 on a chain, with the restriction of the demotion hold (R355, R357). -/
def State.cause1 (s : State) (n : Nat) : Bool :=
  s.inService n && s.pStopped n && !s.pDark n && (!s.on SADL_STAT_HOLD_ACT || s.serving.all s.pStopped)

/-- Cause 2 (R357). -/
def State.cause2 (s : State) : Bool :=
  !s.on SADL_STAT_HB_OK && !s.serving.isEmpty && s.serving.all fun n => decide (1 ≤ (s.chain n).pmiss) || !(s.chain n).pact

/-- A READY standby takes over when a condition holds (R357). -/
def State.pairEval (s : State) : State :=
  s.when s.pairReady fun s =>
    match (List.range 24).find? s.cause1 with
    | some n => s.toActive 1 n
    | none =>
      if s.cause2 then s.toActive 2 0
      else if s.on SADL_STAT_YIELD_RX && s.rd SADL_P_ID_ROLE == 3 then s.toActive 3 0
      else s

/-- A valid chain or Saddle header of the partner: its source (epoch, DEVID) and its ACTIVE bit (R353, R355). -/
def State.partnerSeen (s : State) (e dev : Nat) (act : Bool) : State :=
  let s := s.setReg SADL_P_EPOCH (max (s.reg SADL_P_EPOCH) e)
  let s := s.when act fun s => s.setPair { s.pair with actAge := 0 }
  let s := s.when (s.role == 1 && act && !s.pair.sameId) fun s => s.wr SADL_STAT_ROLE 2
  s.when (s.role == 3 && outranks (e, dev) (s.reg SADL_EPOCH, s.rd SYS_DEV_ID_DEVID)) State.demote

/-! ### Time offset (R349) -/

/-- TALIGN follows an offset of this frame. -/
def State.align (s : State) (o : Int) : State :=
  let x := s.pair
  if o.natAbs ≤ 16 then
    if x.judged = s.frame then s
    else
      let s := s.setPair { x with align := min 16 (x.align + 1), judged := s.frame }
      s.when (decide (15 ≤ x.align)) fun s => s.set1 SADL_STAT_TALIGN
  else
    let was := s.on SADL_STAT_TALIGN
    let s := (s.setPair { x with align := 0, judged := s.frame }).clr SADL_STAT_TALIGN
    s.when was fun s => s.postPair 7 1 (satN 31 o.natAbs)

/-- A sample of the offset enters the mean of the last 16 frames; `ring`: it comes from a chain. -/
def State.offset (s : State) (o : Int) (ring : Bool) : State :=
  let x := s.pair
  let old := if s.on SADL_TOFS_RING == ring then x.ofs.filter fun y => decide (s.frame < y.1 + 16) else []
  let l := (s.frame, o) :: old
  let m := (l.map (·.2)).sum / l.length
  let s := s.setPair { x with ofs := l }
  let s := s.wr SADL_TOFS_OFS (ofInt 24 (satI 24 m))
  ((s.wr SADL_TOFS_RING (bit ring)).set1 SADL_TOFS_VALID).align m

/-! ### Digests (R351) -/

/-- CST_DIG and the number of cells it includes. -/
def State.cstDig (s : State) : Nat × Nat :=
  let cs := (List.range 192).filter s.cellEn
  (crc32c (cs.flatMap fun c => s.bytes (s.cstCom c) 0x5C), cs.length)

/-- Enabled MIR descriptors. -/
def State.mirs (s : State) : List Nat := (List.range 32).filter fun d => s.on (SADL_MIR_EN d)
def State.mirLen (s : State) (d : Nat) : Nat := 8 * s.rd (SADL_MIR_LEN d)
def State.mirAddr (s : State) (d : Nat) : Nat := dataBase (s.rd (SADL_MIR_ENG d)) + s.rd (SADL_MIR_LADDR d)

/-- LOOP_DIG over the regions taken at the last `tend` of their slots, also where that release began in an earlier cycle (DESIGN CHOICE,
notes/assumptions/113.md). -/
def State.loopDig (s : State) : Nat :=
  crc32c (s.mirs.flatMap fun d => ((s.pair.regions.find? fun r => r.1 == d).map (·.2)).getD [])

/-- The regions of the descriptors of a slot are taken at its `tend`. -/
def State.takeRegions (s : State) (n j : Nat) : State :=
  s.when (s.role != 0) fun s =>
    s.forEach (s.mirs.filter fun d => s.rd (SADL_MIR_ENG d) == n && s.rd (SADL_MIR_SLOT d) == j) fun s d =>
      s.setPair { s.pair with regions := (d, s.bytes (s.mirAddr d) (s.mirLen d)) :: s.pair.regions.filter fun r => r.1 != d }

/-- The digests of a cycle are compared. -/
def State.digCompare (s : State) (cyc : Nat) (same : Bool) : State :=
  if same then s.setPair { s.pair with differ := 0 }
  else
    let k := s.pair.differ + 1
    let s := (s.setPair { s.pair with differ := k }).bump SADL_CNT2_DIG_MIS
    let s := s.postPair 4 0 cyc
    s.when (k == s.rd SADL_DIG_LIM) fun s => (s.set1 SADL_STAT_DIVERGED).postPair 5 1 cyc

/-- Digests of the partner that match a cycle of our own are compared, in STANDBY. -/
def State.digEval (s : State) : State :=
  s.when (s.role == 2) fun s =>
    s.forEach s.pair.pdigs fun s p =>
      match s.pair.digs.find? fun q => q.1 == p.1 with
      | none => s
      | some q => (s.setPair { s.pair with pdigs := s.pair.pdigs.filter fun r => r.1 != p.1 }).digCompare p.1 (decide (q = p))

/-! ### Mirror queues (R347) -/

/-- The parts of a descriptor, as slot bytes 0 to 85 (R346). -/
def State.mirParts (s : State) (d : Nat) : List (List Byte) :=
  (List.range (ceilDiv (s.rd (SADL_MIR_LEN d)) 8)).map fun k =>
    let u := min 8 (s.rd (SADL_MIR_LEN d) - 8 * k)
    let bs := toBytes 4 (3 + k * 256 + (s.rd (SADL_MIR_ENG d) + s.rd (SADL_MIR_SLOT d) * 16) * 65536 + d * 2 ^ 24) ++
      toBytes 2 (s.rd (SADL_MIR_LADDR d) + 64 * k) ++ toBytes 1 u ++ toBytes 1 k ++ toBytes 4 (s.reg LOOP_CYC_NUM) ++
      s.bytes (s.mirAddr d + 64 * k) (8 * u)
    bs ++ List.replicate (86 - bs.length) 0

/-- What a cycle start means to a pair member: digests of the cycle before, and in ACTIVE the queues of the cycle. -/
def State.pairCycle (s : State) : State :=
  s.when (s.role != 0) fun s =>
    let s := s.setPair { s.pair with
      digs := (((s.reg LOOP_CYC_NUM + 2 ^ 32 - 1) % 2 ^ 32, s.cstDig.1, s.loopDig) :: s.pair.digs).take 4 }
    let s := s.digEval
    s.when (s.role == 3) fun s =>
      let n := s.pair.planCyc + 1
      s.setPair { s.pair with
        pgenq := (List.range 16).filter fun e => s.on (PGEN_CFG_EN e)
        mirq := s.mirs.flatMap s.mirParts
        planq := if n = 1000 ∧ s.on AGE_PLAN_STAT_INFORCE then [0, 1, 2, 3] else s.pair.planq
        planCyc := if n = 1000 then 0 else n }

/-- A mailbox write departed from the ACTIVE device: its record joins the queue of 64 (R347). -/
def State.mboxSend (s : State) (c : Nat) (w : MbW) : State :=
  s.when (s.role == 3) fun s =>
    if s.pair.mboxq.length < 64 then s.setPair { s.pair with mboxq := s.pair.mboxq ++ [⟨c, w, s.frame⟩] }
    else s.bump SADL_CNT3_MIR_DROP

/-! ### Frames and ages -/

/-- The ages of a pair member advance by one frame; LANES bits clear with their lanes' heartbeats, LOOPED after 16 frames (R344,
R348). -/
def State.pairFrame (s : State) : State :=
  s.when (s.role != 0) fun s =>
    let x := s.pair
    let up := fun a => satN 8 (a + 1)
    let s := s.setPair { x with hbAge := up x.hbAge, laneAge := x.laneAge.map up, actAge := up x.actAge, healthAge := up x.healthAge }
    let s := s.forEach (List.range 4) fun s i =>
      s.when (decide (s.rd SADL_CFG_HB_MISS < (s.pair.laneAge[i]?).getD 255)) fun s => s.clrBit SADL_STAT_LANES i
    let s := s.forEach (List.range 24) fun s n => s.when (s.chain n).looped fun s =>
      let y := s.chain n
      s.setChain n { y with loopAge := y.loopAge + 1, looped := decide (y.loopAge < 16) }
    s.wr SADL_STAT_LOOPED (bit ((List.range 24).any fun n => (s.chain n).looped))

end Sys2Proof.Machine
end

