-- ==== Sys2Proof/Machine/Reset.lean ====
section
/-! DEFINITION. Machine/Reset.lean: supplies, reset sources and reaches, and block resets (17_reset_power_boot.md R447 to R459, R463 to
R465), and their commands. -/
namespace Sys2Proof.Machine

/-! ### Supplies (R447 to R449) -/

/-- Write pulses are suspended while a rail holds WARN (R448). -/
def State.suspend (s : State) : State := (s.wr PWR_STAT_SUSP (bit (s.rd PWR_STAT_WARN != 0))).nvShow

/-- A rail has stayed below its warning level for 200 ns; a warning of VIO33 abandons a fuse burn (16_security.md R433). -/
def State.railWarn (s : State) (r : Nat) : State :=
  s.when (!s.bitAt PWR_STAT_WARN r) fun s =>
    let s := ((s.setBit PWR_STAT_WARN r).setBit PWR_SEEN_WARN r).suspend
    let s := s.post srcPWR 0 1 clsSUPPLY 1 r
    s.when (r == 5) State.burnAbort

def execRailWarn (r : Fin 10) (s : State) : Out := .next (s.railWarn r)

/-- An epoch record that suspended pulses held is written (12_redundant_pair.md R354). -/
def State.epochResume (s : State) : State :=
  s.when s.pair.epochPend fun s =>
    (s.setPair { s.pair with record := s.reg SADL_EPOCH, epochPend := false }).postPair 9 0 (s.reg SADL_EPOCH)

/-- A rail has recovered for 1 ms; pulses resume once no rail holds WARN. -/
def State.railRecover (s : State) (r : Nat) : State :=
  s.when (s.bitAt PWR_STAT_WARN r) fun s =>
    let s := ((s.clrBit PWR_STAT_WARN r).bump (PWR_DIP_COUNT r)).suspend
    let s := s.post srcPWR 0 2 clsSUPPLY 0 r
    s.when (!s.on PWR_STAT_SUSP) fun s => s.epochResume.recResume.nvStart

def execRailRecover (r : Fin 10) (s : State) : Out := .next (s.railRecover r)

/-! ### Sources and reaches (R447, R451): sources 0 POR_CORE 1 POR_IO 2 POR_PHY 3 POR_ANA 4 POR_SAFE 5 nRESET; reaches 0 C 1 W
2 A 3 S -/

/-- The power-on reset that a rail feeds. -/
def porOf (r : Nat) : Nat :=
  if r = 2 ∨ r = 3 then 2 else if r = 4 ∨ r = 5 then 1 else if r = 6 ∨ r = 7 then 3 else if r = 8 then 4 else 0

/-- The reaches that R451 allows a source. -/
def reachesOf (k : Nat) : List Nat :=
  if k = 1 ∨ k = 2 then [0, 1] else if k = 3 then [0, 1, 2] else if k = 4 then [0, 1, 3] else if k = 5 then [0, 1, 2, 3] else [0]

/-- The reach of a source. -/
def State.reachOf (s : State) (k : Nat) : Nat :=
  let x := bitsOf (s.reg RST_MAP) (2 * k) 2
  if (reachesOf k).contains x then x else 0

/-- Whether a source of the episode has reach `x`. -/
def State.hasReach (s : State) (x : Nat) : Bool := s.sys.epi.any fun k => s.reachOf k == x

/-! ### What a reset leaves (R452) -/

/-- Bits that stand in fuses or pins' wiring, and the public key kept beside its private key, which no reset changes. -/
def fuseBits (a : Nat) : Nat :=
  if a = RST_MAP ∨ a = SEC_FUSE then 0xFFFFFFFF
  else if a = PROT_DUMP_STAT then 0xC
  else if a = HOST_PCI_ID then 0xFFFF
  else if SEC_ID_PUB 0 ≤ a ∧ a < SEC_ID_PUB 24 then 0xFFFFFFFF
  else if LPWM_STAT 0 ≤ a ∧ a < LPWM_STAT 16 ∧ (a - LPWM_STAT 0) % 0x100 = 0 then 0x6000
  else 0

/-- Bits that a warm reset keeps. -/
def keepBits (a : Nat) : Nat :=
  match regOf a with
  | none => 0
  | some r => r.keep

/-- A register after a reset that keeps the bits of `m`. -/
def maskReset (m : Nat → Nat) (a : Nat) (v : Word) : Word :=
  (v &&& BitVec.ofNat 32 (m a)) ||| (coldOf a &&& ~~~ (BitVec.ofNat 32 (m a)))

/-- All registers after such a reset. -/
def resetWith (m : Nat → Nat) (l : List (Nat × Word)) : List (Nat × Word) :=
  l.foldl (fun t e => Tbl.set coldOf t e.1 (maskReset m e.1 e.2)) []

/-- The registers for which `p` holds take their cold values. -/
def State.coldRegs (s : State) (p : Nat → Bool) : State := { s with regs := s.regs.filter fun e => !p e.1 }

/-- The memory for which `p` holds takes its cold value. -/
def State.coldMem (s : State) (p : Nat → Bool) : State := { s with mem := s.mem.filter fun e => !p e.1 }

/-- Registers in reset, but for the bits that `m` keeps. -/
def State.resetRegs (s : State) (m : Nat → Nat) : State := { s with regs := resetWith m s.regs }

/-- The records of the trace system are lost. -/
def State.trcCold (s : State) : State := { s with trc := {} }

/-- What every reset of reach C and W leaves: MRAM, the records kept there, fuses, the cells outside the device, and the supplies. -/
def State.logicReset (s : State) (m : Nat → Nat) : State :=
  let s := s.recFlush
  { pending := s.pending
    free := s.free
    regs := resetWith m s.regs
    mem := s.mem.filter fun e => inMram e.1
    nodes := s.nodes
    pair := { record := s.pair.record }
    age := { bg0 := s.age.bg0 }
    sec := { fused := s.sec.fused, burn := s.sec.burn, helper := s.sec.helper, keys := s.sec.keys, idKey := s.sec.idKey }
    sys := { low := s.sys.low, nvBad := s.sys.nvBad, asserted := s.sys.asserted, epi := s.sys.epi, wasHeld := s.sys.wasHeld
             bootSrc := s.sys.bootSrc, bistBad := s.sys.bistBad } }

/-- What follows both: a burn goes on (16_security.md R433), pins at their fused safe levels. -/
def State.afterReset (s : State) : State :=
  (s.wr SEC_FUSE_STAT_BUSY (bit s.sec.burn.isSome)).forEach (List.range 16) fun s m => s.pins m

/-- Reach C. -/
def State.coldReset (s : State) : State :=
  let s := s.logicReset fuseBits
  let s := s.setSys { s.sys with bistBad := [] }
  let s := s.forEach (List.range 7) fun s v => s.wr (SEC_POLICY_POL v) ((s.sec.fused[v]?).getD 0)
  s.afterReset

/-- Reach W: the timebase, its ADPLL and the DLL go on. -/
def State.warmReset (s : State) : State :=
  let r := s.logicReset fun a => Nat.lor (fuseBits a) (keepBits a)
  let r := { r with tb := s.tb, frames := s.frames }
  let r := r.setSys { r.sys with
    pllT := s.sys.pllT, swTo := s.sys.swTo, swRamp := s.sys.swRamp, slew := s.sys.slew
    tbOfs := s.sys.tbOfs, tbTo := s.sys.tbTo, dith := s.sys.dith }
  (r.setSec { r.sec with failAt := s.sec.failAt, fails := s.sec.fails }).afterReset

/-- The mixed-signal die. -/
def anaRegs (a : Nat) : Bool := decide ((0x40600000 ≤ a ∧ a < 0x40700000) ∨ (THM_RES 9 ≤ a ∧ a < THM_RES 12))

/-- Reach A (R454): every trip line stands at the INIT_STATE of its route. -/
def State.anaReset (s : State) : State :=
  let s := s.linkDown
  let s := { s.coldRegs anaRegs with adcs := [], cmps := [] }
  let s := s.setSys { s.sys with thm := s.sys.thm.filter (· < 9) }
  s.forEach (List.range 24) fun s i => s.when (s.routed i) fun s =>
    ((s.set1 (CMP_STAT_HELD i)).set1 (CMP_STAT_OUT i)).tripLine i true

/-- Reach S: the island enters LOAD; its MRAM records are kept (R452, R455). -/
def State.islReset (s : State) : State :=
  let s := s.tokensOff
  let s := s.resetRegs fun a => if SAFE_STATE ≤ a ∧ a < SAFE_STATE + 0x10000 then fuseBits a else 0xFFFFFFFF
  s.setIsl { off := s.ns, opNs := s.isl.opNs }

/-! ### Episodes (R453, R456, R458) -/

/-- Outputs at the assertion of a reset of reach C or W. -/
def State.outputsOff (s : State) : State :=
  let s := s.forEach (List.range 16) fun s m => s.lpwmOff m
  let s := { s with prot := { s.prot with shot := false } }
  let s := (s.setSys { s.sys with pps := false }).clr SAFE_STATE_SOK
  let s := (s.wr SAFE_IO_OUT 0).clr FLT_STAT_RSTREQ
  let s := s.forEach (List.range 28) fun s l => (s.wr (LANE_STAT_TX_MODE l) 0).laneShow l
  s.pcieDown

/-- The reset of the logic, of the deepest reach of the episode. -/
def State.doReset (s : State) : State := if s.hasReach 0 then s.coldReset else s.warmReset

/-- A source asserts. -/
def State.assertSrc (s : State) (k : Nat) : State :=
  s.when (!s.sys.asserted.contains k) fun s =>
    let s := s.setSys { s.sys with asserted := k :: s.sys.asserted, epi := k :: s.sys.epi.filter (· != k) }
    let r := s.reachOf k
    if r = 2 then s.anaReset
    else if r = 3 then s.islReset
    else
      let held := s.sys.nvRun.isSome
      let s := (s.setSys { s.sys with heldOff := held, wasHeld := s.sys.wasHeld || held }).outputsOff
      if held then s else s.doReset

/-- A source releases. -/
def State.releaseSrc (s : State) (k : Nat) : State := s.setSys { s.sys with asserted := s.sys.asserted.filter (· != k) }

/-- A rail has stayed below its reset level for 100 ns (R448). -/
def State.railLow (s : State) (r : Nat) : State :=
  s.when (!s.sys.low.contains r) fun s => (s.setSys { s.sys with low := r :: s.sys.low }).assertSrc (porOf r)

def execRailBelowReset (r : Fin 10) (s : State) : Out := .next (s.railLow r)

/-- 2 ms after the recovery of a rail: its power-on reset releases when no other of its rails is low. -/
def State.porRelease (s : State) (r : Nat) : State :=
  s.when (s.sys.low.contains r) fun s =>
    let l := s.sys.low.filter (· != r)
    let s := s.setSys { s.sys with low := l }
    s.when (!l.any fun q => porOf q == porOf r) fun s => s.releaseSrc (porOf r)

def execPorRelease (r : Fin 10) (s : State) : Out := .next (s.porRelease r)
def execNresetAssert (s : State) : Out := .next (s.assertSrc 5)
def execNresetRelease (s : State) : Out := .next (s.releaseSrc 5)

/-- A write pulse ends; a reset it held off takes place (R458). -/
def execMramPulseDone (s : State) : Out :=
  .next (s.when s.sys.nvRun.isSome fun s =>
    let s := s.nvPulseEnd
    if s.sys.heldOff then (s.setSys { s.sys with heldOff := false }).doReset else s.nvStart)

/-- RST.CAUSE and RST.COUNT of the episode that closes (R453); which reach is shown when A and S acted together is not stated. -/
def State.episodeBooks (s : State) : State :=
  let deep := s.hasReach 0 || s.hasReach 1
  let both := !deep && s.hasReach 2 && s.hasReach 3
  let reach := if s.hasReach 0 then 0 else if s.hasReach 1 then 1
    else if both then 2 + s.freeNat 1 else if s.hasReach 2 then 2 else 3
  let s := s.when both State.drawn
  let s := s.wr RST_CAUSE_SRC ((List.range 6).map fun k => bit (s.sys.epi.contains k) * 2 ^ k).sum
  let s := ((s.wr RST_CAUSE_REACH reach).wr RST_CAUSE_AS (bit both)).wr RST_CAUSE_HELDOFF (bit s.sys.wasHeld)
  let s := s.when (!s.hasReach 0 && s.hasReach 1) fun s => s.bump RST_COUNT_WARM
  let s := s.when (!deep && s.hasReach 2) fun s => s.bump RST_COUNT_ANA
  s.when (!deep && s.hasReach 3) fun s => s.bump RST_COUNT_SAFE

/-- After a reset of reach S: the load request (R455); its content is not stated. -/
def State.loadRequest (s : State) : State :=
  let s := (s.setIsl { s.isl with mbout := [BitVec.ofNat 32 (s.freeNat 32)] }).drawn
  ((s.wr SAFE_MB_OUT_STAT_OCC 1).irq 5).post srcRST 0 2 clsSAFETY 1 0

/-! ### Block resets (R463 to R465) -/

/-- The registers of a block: base and size. -/
def blkRange (c : Nat) : Option (Nat × Nat) :=
  if c < 0x1C then some (0x40100000 + 0x1000 * c, 0x1000)
  else if 0x20 ≤ c ∧ c < 0x24 then some (0x40600000 + 0x1000 * (c - 0x20), 0x1000)
  else if 0x28 ≤ c ∧ c < 0x2C then some (0x40800000 + 0x10000 * (c - 0x28), 0x10000)
  else if 0x2C ≤ c ∧ c < 0x2E then some (0x40700000 + 0x10000 * (c - 0x2C), 0x10000)
  else if c = 0x30 then some (0x40A00000, 0x10000)
  else if c = 0x31 then some (0x40720000, 0x10000)
  else if 0x40 ≤ c ∧ c < 0x54 ∧ c ≠ 0x50 then some (0x40410000 + 0x1000 * (c - 0x40), 0x1000)
  else none

/-- A block counts as idle. -/
def State.blkIdle (s : State) (c : Nat) : Bool :=
  if c < 0x1C then s.laneSt c == 0
  else if c < 0x24 then !s.on (ADC_CTL_EN (c - 0x20)) && !s.adcBusy (c - 0x20)
  else if c < 0x2C then s.on (CAN_CTL_INIT (c - 0x28))
  else if c < 0x2E then !s.on (ETH_CTL_EN (c - 0x2C))
  else if c = 0x30 then if s.rd TRC_CTL_MODE = 3 then s.rd TRC_STAT_STATE == 3 else s.rd TRC_STAT_STATE == 0 || s.rd TRC_STAT_STATE == 3
  else if c = 0x31 then !s.on PTP_CFG_EN
  else if c < 0x50 then s.engSt (c - 0x40) == 0 || (s.engSt (c - 0x40) == 1 && !s.anySlot (c - 0x40))
  else s.engSt (c - 0x40) == 0

/-- BLK_IDLE0 and BLK_IDLE1 as they read. -/
def State.blkIdle0 (s : State) : Nat := ((List.range 28).map fun n => bit (s.blkIdle n) * 2 ^ n).sum
def State.blkIdle1 (s : State) : Nat :=
  (([0x20, 0x21, 0x22, 0x23, 0x28, 0x29, 0x2A, 0x2B, 0x2C, 0x2D, 0x30, 0x31] ++ (List.range 16).map (0x40 + ·) ++
    [0x51, 0x52, 0x53]).mapIdx fun i c => bit (s.blkIdle c) * 2 ^ i).sum

/-- What becomes of the work in flight of a block. -/
def State.blkDrop (s : State) (c : Nat) : State :=
  if c < 0x1C then
    let s := s.laneDown c
    let n := (s.chainOfLane c).1
    let s := s.when (decide (c < 24) && s.chainSt n != 0) fun s => s.chainWait n
    s.setLane c {}
  else if c < 0x24 then s.setAdc (c - 0x20) {}
  else if c < 0x2C then s.setCan (c - 0x28) { frozen := (s.can (c - 0x28)).frozen }
  else if c < 0x2E then s.setEth (c - 0x2C) {}
  else if c = 0x30 then s.trcCold
  else if c = 0x31 then s.forEach [0, 1] fun s p => s.setEth p { s.eth p with pd := none }
  else
    let n := c - 0x40
    let s := s.when (decide (n < 16) && s.inTask n) fun s => s.groupSafe n
    (s.setEng n { glut := (s.eng n).glut }).setCore n (coreCold n)

/-- Trace records in flight when TRC is reset are counted (R463). -/
def State.blkCount (s : State) (c k : Nat) : State := s.when (c == 0x30) fun s => s.addSat TRC_CNT_DROP k

/-- A write of BLK_RST with GO. -/
def State.blkReset (s : State) (c : Nat) (test : Bool) : State :=
  match blkRange c with
  | none => s.reserved RST_BLK_RST
  | some (b, n) =>
    if s.on RST_BLK_STAT_BUSY then s.set1 RST_BLK_STAT_COLL
    else
      let s := (s.wr RST_BLK_RST_CODE c).wr RST_BLK_RST_TEST (bit test)
      let t := test && decide (c = 0x30 ∨ 0x40 ≤ c)
      let idle := s.blkIdle c
      if t && !idle then s.set1 RST_BLK_STAT_REFUSED
      else
        let k := s.trc.q.length
        let s := s.set1 RST_BLK_STAT_BUSY
        let s := s.when (!idle) fun s => (s.set1 RST_BLK_STAT_NOT_IDLE).post srcRST 0 1 clsPROGRAM 1 c
        let s := ((s.blkDrop c).coldRegs fun a => decide (b ≤ a ∧ a < b + n)).blkCount c k
        (s.setSys { s.sys with blk := some (c, t, !idle) }).powerCheck

def execBlockReset (code : BitVec 7) (test : Bool) (s : State) : Out := .next (s.blkReset code.toNat test)

/-- The reset is complete: BUSY clears, a self-test that was requested runs on. -/
def State.blkDone (s : State) : State :=
  s.when (s.on RST_BLK_STAT_BUSY) fun s =>
    let s := s.clr RST_BLK_STAT_BUSY
    match s.sys.blk with
    | some (c, true, _) => s.setSys { s.sys with blk := some (c, true, false) }
    | _ => s.setSys { s.sys with blk := none }

def execBlockResetDone (s : State) : Out := .next s.blkDone

/-- An access to `a` meets a block that was not idle, before BUSY clears (R464). -/
def State.blkError (s : State) (a : Nat) : Bool :=
  s.on RST_BLK_STAT_BUSY && match s.sys.blk with
    | some (c, _, true) => (match blkRange c with
      | some (b, n) => decide (b ≤ a ∧ a < b + n)
      | none => false)
    | _ => false

/-- The memory that a self-test covers, and its number (13_fault_collection.md R367). -/
def blkMem (c a : Nat) : Bool := if c = 0x30 then inTrace a else decide (progBase (c - 0x40) ≤ a ∧ a < progBase (c - 0x40) + 0x20000)
def blkMemInst (c : Nat) : Nat := if c = 0x30 then 2 else 3 + (c - 0x40)

/-- The self-test ends and leaves the memory cleared (R465). -/
def State.blkTested (s : State) (pass : Bool) : State :=
  match s.sys.blk with
  | some (c, true, _) =>
    s.when (!s.on RST_BLK_STAT_BUSY) fun s =>
      let s := (s.coldMem (blkMem c)).setSys { s.sys with blk := none }
      if pass then s.set1 RST_BLK_STAT_TEST_PASS
      else
        let s := (s.set1 RST_BLK_STAT_TEST_FAIL).post srcMEM (blkMemInst c) 3 clsMEMORY 2 0
        s.when (decide (0x40 ≤ c)) fun s => s.setSys { s.sys with bistBad := (c - 0x40) :: s.sys.bistBad }
  | _ => s

def execBlockSelfTestDone (pass : Bool) (s : State) : Out := .next (s.blkTested pass)

end Sys2Proof.Machine
end

