-- ==== Sys2Proof/Machine/Boot.lean ====
section
/-! DEFINITION. Machine/Boot.lean: release from reset and the boot sequence (17_reset_power_boot.md R453 to R455, R467 to R470), and
their commands. -/
namespace Sys2Proof.Machine

/-! ### The image (R468, R469) -/

/-- A section of an image. -/
structure ImgSec where
  ty : Nat
  tgt : Nat
  dest : Nat
  ofs : Nat
  len : Nat
  crc : Nat
deriving DecidableEq, Repr

def imgSec (b : List Byte) (i : Nat) : ImgSec :=
  let f := fun o k => fieldAt b (0x100 + 24 * i + o) k
  { ty := f 0 1, tgt := f 1 1, dest := f 4 4, ofs := f 8 4, len := f 12 4, crc := f 16 4 }

def imgSecs (b : List Byte) : List ImgSec := (List.range (fieldAt b 0x10 2)).map (imgSec b)

/-- A section's fields lie in their ranges. -/
def ImgSec.ok (x : ImgSec) (signed : Nat) : Bool :=
  decide (x.ofs + x.len ≤ signed) &&
    (if x.ty = 1 ∨ x.ty = 2 then decide (x.tgt < 20 ∧ x.dest + x.len ≤ 0x10000)
    else x.tgt == 0xFF && (
      if x.ty = 3 then decide (x.dest + x.len ≤ 0x3F0000)
      else x.dest == 0 && (
        if x.ty = 4 then decide (x.len ≤ 32768)
        else if x.ty = 5 then x.len == 512
        else x.ty == 6 && x.len == 3076)))

/-- An image can be parsed (reason 5 of 16_security.md R432 otherwise); `limit`: the image limit of its source. -/
def imgOk (b : List Byte) (limit : Nat) : Bool :=
  let signed := fieldAt b 0xC 4
  let n := fieldAt b 0x10 2
  let l := imgSecs b
  fieldAt b 0 4 == 0x4D49544B && fieldAt b 4 2 == 1 && fieldAt b 6 2 == 0x400 && (fieldAt b 8 1 == 1 || fieldAt b 8 1 == 2) &&
    decide (fieldAt b 9 1 < 4) && fieldAt b 0xB 1 == 0 && signed % 8 == 0 && decide (0x400 ≤ signed ∧ signed + 96 ≤ limit) &&
    decide (signed + 96 ≤ b.length) && decide (1 ≤ n ∧ n ≤ 32) && decide (fieldAt b 0x14 4 < 0x10000) &&
    ((List.range n).all fun i => fieldAt b (0x100 + 24 * i + 2) 2 == 0 && fieldAt b (0x100 + 24 * i + 20) 4 == 0) &&
    (((b.drop (0x100 + 24 * n)).take (0x400 - (0x100 + 24 * n))).all fun x => x == 0) &&
    (l.all fun x => x.ok signed) && [4, 5, 6].all fun t => (l.filter fun x => x.ty == t).length == 1

/-- Why verification of an image fails (16_security.md R432); 0 when it does not. -/
def State.imgWhy (s : State) (x : BootImg) (limit : Nat) : Nat :=
  let b := x.bytes
  let slot := fieldAt b 9 1
  if !imgOk b limit then 5
  else if !s.bitAt SEC_FUSE_ROOT slot || s.bitAt SEC_FUSE_REVOKED slot then 1
  else if !x.keyOk then 2
  else if fieldAt b 0xA 1 < s.rd SEC_FUSE_FLOOR then 3
  else if !x.sigOk then 4
  else 0

/-- Where a section of types 1 to 3 goes. -/
def ImgSec.addr (x : ImgSec) : Nat :=
  if x.ty = 1 then progBase x.tgt + x.dest else if x.ty = 2 then dataBase x.tgt + x.dest else x.dest

def ImgSec.data (x : ImgSec) (b : List Byte) : List Byte := (b.drop x.ofs).take x.len

/-- The sections loaded into memory. -/
def State.loadSecs (s : State) (b : List Byte) : State :=
  s.forEach ((imgSecs b).filter fun x => decide (x.ty ≤ 3)) fun s x => s.setBytes x.addr (x.data b)

/-- A failed verification clears every loaded memory (step 5). -/
def State.clearSecs (s : State) (b : List Byte) : State :=
  s.forEach ((imgSecs b).filter fun x => decide (x.ty ≤ 3)) fun s x => s.coldMem fun a => decide (x.addr ≤ a ∧ a < x.addr + x.len)

/-! ### Step 6 -/

/-- The section of a type that an image holds once. -/
def imgPart (b : List Byte) (ty : Nat) : List Byte :=
  match (imgSecs b).find? fun x => x.ty == ty with
  | some x => x.data b
  | none => []

/-- The first section whose CRC fails. -/
def crcBad (b : List Byte) : Option Nat :=
  (List.range (imgSecs b).length).find? fun i => let x := imgSec b i; crc32c (x.data b) != x.crc

/-- Word `k` of the task record of slot `j` of engine `n`. -/
def taskWord (t : List Byte) (n j k : Nat) : Nat := fieldAt t (4 + 24 * (8 * n + j) + 4 * k) 4

/-- Cells declared by the enabled slots of an engine (07_lupin_engines.md R193). -/
def imgCells (t : List Byte) (n : Nat) : List Nat :=
  (((List.range 8).filter fun j => taskWord t n j 0 % 2 == 1).flatMap fun j =>
    (List.range 12).map fun i => bitsOf (taskWord t n j (3 + i / 4)) (8 * (i % 4)) 8).filter (· != 0xFF) |>.eraseDups

/-- The first limit that an image exceeds (01_architecture.md R6, R29): 1 cells per engine, 2 cells per chain, 3 control cycle. -/
def imgLimit (profile : Nat) (t : List Byte) : Option Nat :=
  let w := fieldAt t 0 4
  let lat := profile == 1
  if (List.range 16).any fun n => decide ((if lat then 6 else 12) < (imgCells t n).length) then some 1
  else if (if lat then 4 else 8) < bitsOf w 8 4 then some 2
  else if w % 128 < (if lat then 2 else 5) ∨ 64 < w % 128 then some 3
  else none

/-- The registers that the task table loads. -/
def State.loadTasks (s : State) (t : List Byte) : State :=
  s.forEach (List.range 16) fun s n => s.forEach (List.range 8) fun s j => s.forEach (List.range 6) fun s k =>
    s.setReg (ENG_TASK_CFG n j + 4 * k) (taskWord t n j k)

def State.setStep (s : State) (k : Nat) : State := s.wr SYS_BOOT_STAT_STEP k

/-- Step 6 on a verified image: the copy for the island stands at 0x003F_0000, the safety program first, the block 32 KiB after it. -/
def State.bootStep6 (s : State) (b : List Byte) : State :=
  let s := s.setStep 6
  let t := imgPart b 6
  match crcBad b with
  | some i => s.post srcSYS 0 3 clsSECURITY 1 i
  | none =>
    match imgLimit (fieldAt b 8 1) t with
    | some k => s.post srcSYS 0 2 clsCONFIG 1 k
    | none =>
      let s := s.loadTasks t
      let s := (s.setBytes 0x3F0000 (imgPart b 4)).setBytes 0x3F8000 (imgPart b 5)
      (s.setSys { s.sys with cfgEntry := fieldAt b 0x14 4 }).setStep 7

/-! ### Steps 4 and 5 -/

/-- A source's image is loaded and verified: whether it was taken, and the state after. -/
def State.bootTry (s : State) (src : Nat) (x : BootImg) : Bool × State :=
  let b := x.bytes
  let s := (s.setStep 4).wr SYS_BOOT_STAT_SRC src
  let why := s.imgWhy x (if src = 2 then 0x800000 else 0x1000000)
  if why = 0 then
    let s := (s.loadSecs b).setStep 5
    let s := (s.wr SEC_BOOT_SLOT (fieldAt b 9 1)).wr SEC_BOOT_VERSION (fieldAt b 0xA 1)
    let s := (s.wr SYS_DEV_STATE_PROFILE (fieldAt b 8 1)).lanesTry
    let s := s.when (src != 0) fun s => s.post srcSYS 0 5 clsCONFIG 1 src
    (true, s.bootStep6 b)
  else
    let s := if why = 5 then s else s.clearSecs b
    (false, s.violate 6 why)

/-- The sources in flash, then the host, for whose image the boot ROM waits (R467). -/
def State.bootSources (s : State) : List (Nat × Option BootImg) → State
  | [] => (s.setStep 4).wr SYS_BOOT_STAT_SRC 2
  | (_, none) :: l => s.bootSources l
  | (k, some x) :: l => let r := s.bootTry k x; if r.1 then r.2 else r.2.bootSources l

/-! ### Steps 1 to 3 -/

/-- The vault unwraps its keys (16_security.md R435, R436). -/
def State.vaultUnwrap (s : State) (ok : Bool) : State :=
  let s := s.vaultShow
  if !s.sec.helper then (s.wr SEC_VAULT_STAT_PUF 0).postSec 8 0
  else if !ok then (s.wr SEC_VAULT_STAT_PUF 1).postSec 8 1
  else s.wr SEC_VAULT_STAT_PUF 2

/-- SE0 issues from the boot ROM (07_lupin_engines.md R205), the vault unwraps, the system ADPLL is enabled. -/
def State.bootStart (s : State) (b : BootIn) : State :=
  let s := (s.setStep 1).vaultUnwrap b.unwraps
  let s := (s.setEngSt 16 2).setCore 16 (coreCold 16)
  ((s.setSys { s.sys with boot := some b }).setStep 2).adpllOn 0

/-- After reach C, the self-tests of step 3: whether the boot goes on, and the state after. -/
def State.bootTest (s : State) (b : BootIn) : Bool × State :=
  let s := s.setStep 3
  let bad := if s.rd RST_CAUSE_REACH = 0 then b.bist.eraseDups.filter (· < 23) else []
  let s := s.forEach bad fun s i => s.post srcMEM i 3 clsMEMORY 2 0
  let s := s.setSys { s.sys with bistBad := (bad.filter (3 ≤ ·)).map (· - 3) }
  (!bad.any fun i => decide (i < 3) || i == 19, s)

/-- The boot goes on from step 2 once the system ADPLL is locked. -/
def State.bootLocked (s : State) : State :=
  match s.sys.boot with
  | none => s
  | some b =>
    s.when (s.dev == 0 && s.rd SYS_BOOT_STAT_STEP == 2 && s.on CLK_SYS_STAT_LOCK) fun s =>
      let r := (s.setSys { s.sys with boot := none }).bootTest b
      if r.1 then r.2.bootSources (if r.2.sys.bootSrc = 0 then [(0, b.prim), (1, b.alt)] else []) else r.2

/-- A lock window of an ADPLL ends. -/
def execLockWindowEnd (p : Fin 2) (count : Nat) (s : State) : Out := .next (s.doWindow p count).bootLocked

/-! ### Release (R453 to R455, 15_ageing_and_margins.md R415, R416) -/

/-- HOURS after a cold reset: the HOUR of the newest valid record, plus 1. -/
def State.hoursCold (s : State) : State :=
  let k := (s.rd AGE_REC_HEAD_HEAD + 225280 - 1) % 225280
  s.setReg AGE_HOURS (if s.recOk k then s.recHour k + 1 else 0)

/-- The episode closes: its deepest reach takes its values, and is released. -/
def State.doRelease (s : State) (b : BootIn) : State :=
  s.when (!s.sys.epi.isEmpty && s.sys.asserted.isEmpty && !s.sys.heldOff) fun s =>
    let deep := s.hasReach 0 || s.hasReach 1
    let s := if deep then s.doReset else (s.when (s.hasReach 2) State.anaReset).when (s.hasReach 3) State.islReset
    let s := s.episodeBooks
    let cold := s.hasReach 0
    let load := !deep && s.hasReach 3
    let s := s.setSys { s.sys with epi := [], wasHeld := false }
    let s := s.when cold State.epochLoad
    let s := s.when (deep || load) State.islRecords
    let s := s.when deep State.vaultLoad
    let s := s.when load State.loadRequest
    s.when deep fun s => ((s.recHead).when cold State.hoursCold).bootStart b

def execResetRelease (b : BootIn) (s : State) : Out := .next (s.doRelease b)

/-! ### The host's image, steps 7 to 9 -/

/-- A write of HOST_IMG with GO and the length the register holds. -/
def State.hostGo (s : State) (keyOk sigOk : Bool) : State :=
  s.when (s.dev == 0 && s.rd SYS_BOOT_STAT_STEP == 4 && s.rd SYS_BOOT_STAT_SRC == 2) fun s =>
    (s.bootTry 2 { bytes := s.bytes 0x1000000 (s.rd SYS_HOST_IMG_LEN), keyOk := keyOk, sigOk := sigOk }).2

def execHostImageGo (keyOk sigOk : Bool) (s : State) : Out := .next (s.hostGo keyOk sigOk)

/-- Step 8: the configuration program starts in privileged mode. -/
def State.bootStep8 (s : State) : State :=
  let e := progBase 16 + s.sys.cfgEntry
  ((s.setSys { s.sys with cfgTmo := false }).setStep 8).setCore 16 { coreCold 16 with pc := BitVec.ofNat 32 e, next := e }

/-- LOAD_END reaches the island (14_safety_island.md R404); at step 7 the boot goes on, whatever the island's state. -/
def execIslandLoadEnd (pcrc bcrc : BitVec 32) (prog block : List Byte) (s : State) : Out :=
  if prog.length ≤ 32768 ∧ block.length = 512 then
    .next (s.when (s.islSt == 0) fun s =>
      let s := s.doLoadEnd pcrc.toNat bcrc.toNat prog block
      s.when (s.dev == 0 && s.rd SYS_BOOT_STAT_STEP == 7) State.bootStep8)
  else .fault .illFormed

/-- A write of BOOT_CTL.DONE. -/
def State.configDone (s : State) : State :=
  s.when (s.dev == 0 && s.rd SYS_BOOT_STAT_STEP == 8 && !s.sys.cfgTmo) fun s =>
    (((s.setStep 9).wr SYS_BOOT_STAT_ISLAND s.islSt).setDev 1).islEval

def execConfigDone (s : State) : Out := .next s.configDone

/-- BOOT_CTL.TMO expires. -/
def execConfigTimeout (s : State) : Out :=
  .next (s.when (s.dev == 0 && s.rd SYS_BOOT_STAT_STEP == 8 && !s.sys.cfgTmo) fun s =>
    (s.setSys { s.sys with cfgTmo := true }).post srcSYS 0 4 clsCONFIG 1 0)

end Sys2Proof.Machine
end

