-- ==== Sys2Proof/Machine/Collector.lean ====
section
/-! DEFINITION. Machine/Collector.lean: the fault collector (chapter 13): entry, escalation, class books, reactions, history,
acknowledgement. -/
namespace Sys2Proof.Machine

def mSrc (m : Msg) : Nat := bitsOf m.toNat 54 10
def mKind (m : Msg) : Nat := bitsOf m.toNat 38 8
def mCls (m : Msg) : Nat := bitsOf m.toNat 34 4
def mSev (m : Msg) : Nat := bitsOf m.toNat 31 3
def mDatum (m : Msg) : Nat := bitsOf m.toNat 0 31
/-- The message with the severity in force (R376). -/
def mWithSev (m : Msg) (v : Nat) : Msg := BitVec.ofNat 64 (putBits m.toNat 31 3 v)

/-- Class `k` is unacknowledged (R372). -/
def State.unacked (s : State) (k : Nat) : Bool := s.ahead (FLT_CLS_SEQ_LAST k) k

/-- The severity at which a message enters (R376). -/
def State.enterSev (s : State) (m : Msg) : Nat :=
  if s.unacked (mCls m) && s.bitAt FLT_ESC_EN_MASK (mCls m) then min 5 (mSev m + 1) else mSev m

/-- The class books take sequence number `q` of a message of class `k` entered at `v` (R372). -/
def State.bookEntry (s : State) (k q v : Nat) (esc : Bool) : State :=
  let s := (s.setReg (FLT_CLS_SEQ_LAST k) q).bump (FLT_CLS_CNT_EVENTS k)
  let s := s.when esc fun s => s.bump (FLT_CLS_CNT_ESC k)
  let s := s.when (decide (3 ≤ v)) fun s => s.setReg (FLT_CLS_SEQ_S3 k) q
  s.when (decide (4 ≤ v)) fun s => s.setReg (FLT_CLS_SEQ_S4 k) q

/-- The history entry, or LOST while frozen; an S4 or S5 freezes it (R378, R379). -/
def State.histEntry (s : State) (m : Msg) (q posted v : Nat) : State :=
  if s.on FLT_HIST_STAT_FROZEN then s.bump FLT_HIST_STAT_LOST
  else
    let i := s.rd FLT_HIST_STAT_HEAD
    let w := (mWithSev m v).toNat
    let s := (s.setReg (FLT_HIST_MSG_LO i) (w % 2 ^ 32)).setReg (FLT_HIST_MSG_HI i) (w / 2 ^ 32)
    let s := (s.setReg (FLT_HIST_T_NS i) s.stampNs).setReg (FLT_HIST_T_SEC i) (s.tbSec % 2 ^ 32)
    let s := (s.setReg (FLT_HIST_SEQ i) q).setReg (FLT_HIST_INFO i) (posted + 8 * bit (posted != v) + 16 * bit (mSrc m == srcSAFE))
    let s := s.wr FLT_HIST_STAT_HEAD (i + 1)
    let s := s.when (i == 31) fun s => s.set1 FLT_HIST_STAT_WRAP
    s.when (decide (4 ≤ v)) fun s => (s.set1 FLT_HIST_STAT_FROZEN).wr FLT_HIST_STAT_FREEZE_IDX i

/-- The cell that a PROT fault names (09_power_stage_protection.md R258); a REARM_HELD of a local channel names none
(notes/assumptions/92.md). -/
def State.protCellOf (s : State) (m : Msg) : Option Nat :=
  let k := mKind m
  if mSrc m = srcPROT ∧ (1 ≤ k ∧ k ≤ 6 ∨ k = 0xA ∧ mDatum m % 16 = 15 ∧ !s.prot.heldLocal) then some (mDatum m / 16) else none

/-- The reactions of severity `v` (R373, R374, R377); those a source drove at detection are not repeated (R24). -/
def State.react (s : State) (m : Msg) (posted v : Nat) : State :=
  let s := s.when (decide (1 ≤ v)) fun s =>
    (s.when (s.on FLT_IRQ_CTL_ASTER_EN) fun s => s.irq 0).when (s.on FLT_IRQ_CTL_HOST_EN) fun s => s.msix 0
  let s := match s.protCellOf m with
    | some c => s.when (v == 2 && decide (posted < 2)) fun s => s.lockOut c
    | none => s
  let s := s.when (decide (3 ≤ v)) fun s => s.cstopStart
  let s := s.when (decide (4 ≤ v) && decide (posted < 4)) fun s => s.pulseBlock
  s.when (decide (5 ≤ v) && decide (posted < 5)) fun s => s.resetRequest

/-- One message enters (R369). -/
def State.enterMsg (s : State) (m : Msg) : State :=
  let q := if (s.reg FLT_SEQ + 1) % 2 ^ 32 = 0 then 1 else (s.reg FLT_SEQ + 1) % 2 ^ 32
  let v := s.enterSev m
  let s := s.setReg FLT_SEQ q
  let s := s.bookEntry (mCls m) q v (mSev m != v)
  let s := s.histEntry m q (mSev m) v
  let s := (s.react m (mSev m) v).trcFault v (mCls m)
  s.books

/-- A message of the queue of domain `d` enters; its wired reaction is now in the books. -/
def State.enterQueued (s : State) (m : Msg) : State :=
  ({ s with wired := s.wired - bit (decide (4 ≤ mSev m)) }).enterMsg m

/-- The overflow message of domain `d` (R371). -/
def State.enterOverflow (s : State) (d : Nat) (q : FaultQ) : State :=
  let s := { s with wired := s.wired - q.lostWired }.bump FLT_OVF_COUNT
  s.enterMsg (msgOf srcFLT d 0xFF q.hiCls q.hiSev (min 0x7FFFFFFF q.lost))

/-- The next message of a source domain enters the collector; after the held message, the overflow message. -/
def State.doFaultEntry (s : State) (d : Nat) : State :=
  let q := s.fqOf d
  match q.msgs, q.held with
  | m :: r, _ => (s.setFq d { q with msgs := r }).enterQueued m
  | [], some m =>
    let s := (s.setFq d {}).enterQueued m
    s.when (q.lost != 0) fun s => s.enterOverflow d q
  | [], none => s

def execFaultEntry (d : Fin 36) (s : State) : Out := .next (s.doFaultEntry d)

/-- The acknowledgement of one class; a class that is acknowledged already stays as it is (R380). -/
def State.ackClass (s : State) (n k : Nat) : State :=
  s.when (s.unacked k && n != 0 && (s.reg (FLT_CLS_SEQ_ACK k) == 0 || later32 n (s.reg (FLT_CLS_SEQ_ACK k)))) fun s =>
    s.setReg (FLT_CLS_SEQ_ACK k) n

/-- A write of ACK with a class mask; bits 13 to 15 are reserved. -/
def State.faultAck (s : State) (mask : Nat) : State :=
  if mask / 2 ^ 13 % 8 ≠ 0 then s.reserved FLT_ACK
  else
    let a := s.reg FLT_ACK_SEQ
    let n := if later32 a (s.reg FLT_SEQ) then s.reg FLT_SEQ else a
    (s.forEach ((List.range 13).filter fun k => mask.testBit k) fun s k => s.ackClass n k).books

def execFaultAck (mask : BitVec 32) (s : State) : Out := .next (s.faultAck mask.toNat)

/-- A read of MSG_HI of history entry `i`: at FREEZE_IDX it ends the freeze (R379). -/
def State.histRead (s : State) (i : Nat) : State :=
  s.when (s.rd FLT_HIST_STAT_FREEZE_IDX == i) fun s => s.clr FLT_HIST_STAT_FROZEN

def execHistMsgHiRead (i : Fin 32) (s : State) : Out := .next (s.histRead i)

end Sys2Proof.Machine
end

