-- ==== Sys2Proof/Machine/Frames.lean ====
section
/-! DEFINITION. Machine/Frames.lean: the frames a device sends and receives (02_control_cycle.md R41 to R46,
04_cell_link_protocol.md R84 to R113) and the commands of the chains. -/
namespace Sys2Proof.Machine

/-! ### Positions and slots (R45, R89) -/

/-- Positions a frame serves. -/
def State.places (s : State) : Nat := if s.profile = 1 then 4 else 8
/-- Slot of the report section at position `p`. -/
def State.rSlot (s : State) (p : Nat) : Nat := if s.profile = 1 then 2 * p + 1 else p
/-- The cell at position `p` of a path of a chain, when the chain has one there. -/
def State.cellAt (s : State) (n path p : Nat) : Option Nat :=
  let h := s.rd (CHAIN_STAT_HOPS n)
  if p < h then some (8 * n + if path = 0 then p else h - 1 - p) else none
/-- Position of a cell on a path. -/
def State.posOf (s : State) (c path : Nat) : Nat :=
  if path = 0 then c % 8 else s.rd (CHAIN_STAT_HOPS (c / 8)) - 1 - c % 8

/-! ### TCORR (R101, R102) -/

/-- Segment lengths from the sending device to position `p`, and of the whole chain, or the counts of segments when all are 0. -/
def State.lambda (s : State) (n path p : Nat) : Nat × Nat :=
  let h := s.rd (CHAIN_STAT_HOPS n)
  let seg := (List.range h).map fun i => s.rd (CELLCTL_CFG_SEG_LEN (8 * n + i))
  let ret := s.rd (CHAIN_DLY_RETLEN n)
  let l := if path = 0 then seg ++ [ret] else (seg ++ [ret]).reverse
  if l.sum = 0 then (p + 1, h + 1) else ((l.take (p + 1)).sum, l.sum)

/-- TCORR of the cell at position `p` of a path, in sixteenths, to the nearest one. -/
def State.tcorrFor (s : State) (n path p t : Nat) : Int :=
  let res := (List.range (s.rd (CHAIN_STAT_HOPS n))).map fun q =>
    match s.cellAt n path q with
    | none => 0
    | some c => s.residOf c path
  let out : Int := (16 * s.rd (CHAIN_DLY_TRX_OUT n) : Nat)
  let f : Int := (t : Int) - out - (16 * s.rd (CHAIN_DLY_TRX_IN n) : Nat) - (res.sum : Nat)
  let l := s.lambda n path p
  out + (2 * f * (l.1 : Nat) + (l.2 : Nat)) / (2 * l.2 : Nat) + ((res.take p).sum : Nat)

/-- TCORR moves to its value: at once, or by 1 ns in a frame once the cell reports TSYNC. -/
def State.tcorrStep (s : State) (n path p c : Nat) : State :=
  s.when (s.chainSt n == 3 || s.inService n) fun s =>
    match s.pathT n path with
    | none => s
    | some t =>
      let want := s.tcorrFor n path p t
      let now := s.tcorrAt c path
      let d := want - now
      let d := if s.on (CELLCTL_STAT_TSYNC c) then max (-16) (min 16 d) else d
      s.wr (CELLCTL_TCORR_P c path) (ofInt 24 (now + d))

/-! ### What a command section carries (R92, R93, R111) -/

/-- MODE_SENT (R93). -/
def State.modeFor (s : State) (c : Nat) : Nat :=
  let req := s.rd (CELLCTL_CFG_MODE_REQ c)
  if s.on FLT_STAT_PB then 1 + s.rd (CELLCTL_CFG_LOSS_MODE c)
  else if s.on (CELLCTL_STAT_LOCKOUT c) then 2
  else if s.on (CELLCTL_STAT_HOLD_AUDIT c) then 5
  else if !s.inService (c / 8) || !s.inRun then (if req = 2 then 2 else 1)
  else req

/-- A new MODE_SENT; leaving RUN discards what is planned, entering it starts a new count of first starvations
(06_modulation_and_pwm.md R157, R158). -/
def State.setMode (s : State) (c m : Nat) : State :=
  let was := s.rd (CELLCTL_STAT_MODE_SENT c)
  let s := s.wr (CELLCTL_STAT_MODE_SENT c) m
  if was = 4 ∧ m ≠ 4 then s.discardCell c (m == 5)
  else if was = 5 ∧ m ≠ 4 ∧ m ≠ 5 then s.cutWaves c false
  else s.when (was != 4 && m == 4) fun s => { s with starved := s.starved.filter (· != c) }

/-- Offset of an edge in frame `k`, when it has one. -/
def offsetOk (k t : Nat) : Bool := decide (k * 16000 ≤ t ∧ t - k * 16000 < 2 ^ 24)

/-- The entries that go in this frame: the first of the send order with an offset in it, a credit each, 16 at most (R92, R104). -/
def State.takeEdges (s : State) (c k : Nat) : List Edge × State :=
  if s.rd (CELLCTL_STAT_MODE_SENT c) = 4 ∧ s.booksOn c then
    let es := ((s.cell c).sendq.take (min 16 (s.rd (CELLCTL_CREDIT_CR c)))).takeWhile fun e => offsetOk k e.t
    let s := s.setCell c { s.cell c with sendq := (s.cell c).sendq.drop es.length }
    let s := s.wr (CELLCTL_CREDIT_CR c) (s.rd (CELLCTL_CREDIT_CR c) - es.length)
    (es, s.wr (CELLCTL_CREDIT_SENT c) (s.rd (CELLCTL_CREDIT_SENT c) + es.length))
  else ([], s)

/-- Entries whose deadline frame departs unsent: starvation, or discarded in silence where the device keeps no books or has not
reopened them, or where MODE_SENT is not RUN (06_modulation_and_pwm.md R157, R158, 12_redundant_pair.md R361). -/
def State.dueEdges (s : State) (c k : Nat) : State :=
  let due := fun (e : Edge) => decide (s.deadline c e.t ≤ k)
  s.when ((s.cell c).sendq.any due || (s.plan c).planned.any due) fun s =>
    if s.standby || (s.cell c).reopen.isSome || s.rd (CELLCTL_STAT_MODE_SENT c) != 4 then
      let s := s.setCell c { s.cell c with sendq := (s.cell c).sendq.filter fun e => !due e }
      (s.setPlan c { s.plan c with planned := (s.plan c).planned.filter fun e => !due e }).auxDone c
    else s.starve c

/-- The staged write of R111, as the registers hold it when the section departs (DESIGN CHOICE, notes/assumptions/105.md). -/
def State.staged (s : State) (c : Nat) : MbW :=
  { tag := s.rd (CELLCTL_MB_ADDR_TAG c), addr := s.rd (CELLCTL_MB_ADDR_ADDR c), data := s.reg (CELLCTL_MB_DATA c)
    apply := s.reg (CELLCTL_MB_APPLY c) }

/-- The data of a write of PROT is taken as it departs, and its apply frame under `lead` (09_power_stage_protection.md R260, R264). -/
def State.fillW (s : State) (c k : Nat) (w : MbW) : MbW :=
  let data := if w.tag = 0xF0 then s.reg (imageReg c (if w.addr < 0x40 then (w.addr - 0x20) / 4
      else if w.addr < 0x80 then 4 + (w.addr - 0x40) / 4 else 16))
    else if w.tag = 0xF1 then s.reg (PROT_PARC_RPEND c) else w.data
  { w with data := data, apply := if w.lead then (k + s.rd PROT_CFG_LEAD) % 2 ^ 32 else w.apply, lead := false }

/-- The next mailbox write of a cell: one to send again, one of PROT, the staged one; a staged write waits for PROT at most 8
frames (R262). -/
def State.pickW (s : State) (c k : Nat) : Option MbW × State :=
  let x := s.cell c
  let staged := s.on (CELLCTL_MB_CTL_PEND c)
  match x.resend with
  | w :: r => (some w, s.setCell c { x with resend := r })
  | [] =>
    let prot := s.protOk && !x.mbq.isEmpty
    if staged && (!prot || decide (8 ≤ x.mbWait)) then
      (some (s.staged c), (s.setCell c { x with mbWait := 0 }).clr (CELLCTL_MB_CTL_PEND c))
    else match prot, x.mbq with
      | true, w :: r =>
        let w := s.fillW c k w
        let s := s.setCell c { x with mbq := r, mbWait := if staged then x.mbWait + 1 else 0 }
        (some w, s.when (w.tag == 0xF1) fun s => s.rearmSent c w)
      | _, _ => (none, s)

/-- The mailbox write of this frame (R107, R111). -/
def State.takeMb (s : State) (c k : Nat) : Option MbW × State :=
  if s.inService (c / 8) && s.booksOn c && s.rd (CELLCTL_CREDIT_MBCR c) != 0 then
    let r := s.pickW c k
    match r.1 with
    | none => r
    | some w =>
      let s := r.2
      let x := s.cell c
      let s := s.wr (CELLCTL_CREDIT_MBCR c) (s.rd (CELLCTL_CREDIT_MBCR c) - 1)
      let s := s.setCell c { x with mbS := (x.mbS + 1) % 32, out := x.out ++ [w] }
      (some w, s.mboxSend c w)
  else (none, s)

/-- The sample instant that the report frame `r` gives a cell, in units of 1/1600 ns (02_control_cycle.md R46). -/
def State.sampleAt (s : State) (c r : Nat) : Nat :=
  let n := c / 8
  let path := (((s.txPaths n)[0]?).getD (0, 0)).1
  ((departure r + 101376 + 185856 * s.rSlot (s.posOf c path) + s.residOf c path * 100 : Nat) + s.tcorrAt c path * 100
    - (s.rd (LOOP_CHCYC_TCONV n) * 1600 : Nat) : Int).toNat

/-- Frame `f` is the report frame of a cycle of the grid. -/
def State.isReport (s : State) (n f : Nat) : Bool :=
  let g := s.grid
  s.on LOOP_CYC_CFG_EN && s.on (LOOP_CHCYC_EN n) && decide ((if g.inCycle then g.next - 1 else g.next) ≤ g.cycleAt f) &&
    ((f : Int) - g.anchor) % g.frames == (s.rd (LOOP_CHCYC_RPT_FRAME n) % g.frames : Nat)

/-- SMP_OFS of the section of frame `k`, when it names a sample (R92). -/
def State.smpOfs (s : State) (c k : Nat) : Option Nat :=
  let n := c / 8
  if s.isReport n (k + 1) then
    let t := s.sampleAt c (k + 1) / 100
    if k * 16000 ≤ t ∧ t - k * 16000 < 2 ^ 16 then some (t - k * 16000) else none
  else if s.isReport n k then
    let t := s.sampleAt c k
    let o := t / 100 - k * 16000
    if 2 ^ 16 ≤ t / 100 - (k - 1) * 16000 ∧ o < 2 ^ 16 ∧ departure k + s.sectionDelay c ≤ t then some o else none
  else none

/-- What the section of a cell carries in frame `k`, at the first departure of the frame; the books charge it (R104). -/
def State.secNew (s : State) (c k : Nat) : SecCmd × State :=
  let s := s.setMode c (s.modeFor c)
  let e := s.takeEdges c k
  let m := (e.2.dueEdges c k).takeMb c k
  let x : SecCmd := { mode := s.rd (CELLCTL_STAT_MODE_SENT c), smp := s.smpOfs c k, edges := e.1, mb := m.1 }
  let s := m.2
  let y := (s.cell c).histPut k (s.rd (CELLCTL_CREDIT_SENT c)) (s.cell c).mbS
  (x, s.setCell c { y with cmd := some (k, x) })

/-- The lane transmitter's substitution while the pulse block is in force: LOSS_MODE, and no entries (R93). -/
def State.pulseBlocked (s : State) (c : Nat) (x : SecCmd) : SecCmd × State :=
  if s.on FLT_STAT_PB then
    let m := 1 + s.rd (CELLCTL_CFG_LOSS_MODE c)
    ({ x with mode := m, edges := [] }, s.setMode c m)
  else (x, s)

/-- What the section of a cell carries in frame `k`: both copies of a frame carry the same, but for a pulse block that has come into
force between them. -/
def State.secCmd (s : State) (c k : Nat) : SecCmd × State :=
  match (s.cell c).cmd with
  | some (f, x) => if f = k then s.pulseBlocked c x else s.secNew c k
  | none => s.secNew c k

/-- An edge entry (R94). -/
def edgeWord (k : Nat) (e : Edge) : Nat := (e.t - k * 16000) + e.fl * 2 ^ 24 + e.st * 2 ^ 27 + e.leg * 2 ^ 29

/-- Bytes 0 to 81 of a command section (R92). -/
def SecCmd.bytes (x : SecCmd) (k tcorr : Nat) : List Byte :=
  let mb := x.mb.getD { tag := 0, addr := 0, data := 0, apply := 0 }
  toBytes 1 (x.mode + 8 * bit x.smp.isSome + 16 * bit x.mb.isSome) ++ toBytes 1 x.edges.length ++ toBytes 2 (x.smp.getD 0) ++
    toBytes 3 tcorr ++ toBytes 1 mb.tag ++ (x.edges.flatMap fun e => toBytes 4 (edgeWord k e)) ++
    List.replicate (64 - 4 * x.edges.length) 0 ++ toBytes 2 mb.addr ++ toBytes 4 mb.data ++ toBytes 4 mb.apply

/-- A section of 86 bytes with its SCRC; `bad`: the transmit queue ran empty in it and its CRC fails (01_architecture.md R22). -/
def sealSec (bs : List Byte) (bad : Bool) : List Byte :=
  bs ++ toBytes 2 (if bad then Nat.xor (crc16 bs) 0xFFFF else crc16 bs)

/-- A slot that carries no cell. -/
def emptySec (bad : Bool) : List Byte := sealSec (List.replicate 86 0) bad

/-! ### Departure -/

/-- The header of a frame of lane `l`, with the bytes that stand for 24 to 35 (R91, 12_redundant_pair.md R345). -/
def State.header (s : State) (l topo dir k : Nat) (tail : List Byte) : List Byte :=
  let u := departure k
  let b := toBytes 4 k ++ toBytes 6 (u / 1600 / 1000000000) ++ toBytes 4 (u / 1600 % 1000000000) ++
    toBytes 2 (u % 1600 * 65536 / 1600) ++ toBytes 2 (s.rd SYS_DEV_ID_DEVID) ++ toBytes 4 (s.epochAt k) ++
    toBytes 1 (l + 32 * topo + 128 * dir) ++ toBytes 1 (bit (s.profile == 2) + 2 * bit s.activeDev) ++ tail
  b ++ toBytes 4 (crc32c b)

/-- The section in the slot of position `p`. -/
def State.sendSec (s : State) (n path p k : Nat) (bad : Bool) : List Byte × State :=
  match s.cellAt n path p with
  | none => (emptySec bad, s)
  | some c =>
    if s.cellEn c then
      let s := s.tcorrStep n path p c
      let r := s.secCmd c k
      let s := r.2
      (sealSec (r.1.bytes k (s.rd (CELLCTL_TCORR_P c path)) ++ s.token c (k % 2 ^ 32)) bad, s)
    else (emptySec bad, s)

/-- The sections of slots from `i` on. -/
def State.sendSecs (s : State) (n path k : Nat) (under : Option Nat) : List Nat → List (List Byte) × State
  | [] => ([], s)
  | i :: t =>
    let bad := under == some i
    let r := if s.profile = 1 ∧ i % 2 = 1 then (emptySec bad, s)
      else s.sendSec n path (if s.profile = 1 then i / 2 else i) k bad
    let q := r.2.sendSecs n path k under t
    (r.1 :: q.1, q.2)

/-- The transmit path that lane `l` serves. -/
def State.txPathOf (s : State) (l : Nat) : Nat × Nat :=
  let n := (s.chainOfLane l).1
  (n, (((s.txPaths n).find? fun q => q.2 == l).map (·.1)).getD 0)

/-- A frame on the line: the IDLE blocks since the lane's last frame, then its 93 data blocks, scrambled (R84, R85,
03_cell_lanes.md R71). After the 1 or 2 IDLE blocks between consecutive frames the scrambler stands where they leave it; after any
other gap its state is free (notes/assumptions/96.md). -/
def State.sendFrame (s : State) (l k : Nat) (hdr : List Byte) (secs : List (List Byte)) : State :=
  let x := s.lane l
  let blk := fun f => departure f / 16896
  let gap := match x.txAt with
    | some f => blk k - blk f - 93
    | none => 0
  let near := gap == 1 || gap == 2
  let r := sendBlocks (if near then x.txScr else s.freeNat 58)
    ((List.replicate gap (2, idlePayload)).take 2 ++ (payloads 93 (hdr ++ secs.flatten)).map fun p => (1, p))
  (s.setLane l { x with txHdr := hdr, txSec := secs, txBlk := r.1, txScr := r.2, txAt := some k }).drawn

/-- The frame of lane `l` departs; the transmit queue runs empty in slot `under`. -/
def State.doDepart (s : State) (l : Nat) (under : Option Nat) : State :=
  let k := s.frame
  let (n, path) := s.txPathOf l
  s.when (s.txBlock l && s.chainSt n != 0) fun s =>
    let s := s.timeTo (ceilDiv (departure k * 2 ^ 24) 1600)
    let tail := toBytes 2 (s.rd (CHAIN_STAT_HOPS n)) ++ toBytes 2 (s.rd (CHAIN_STAT_LINKGEN n)) ++ List.replicate 8 0
    let r := s.sendSecs n path k under (List.range 8)
    let s := r.2
    let s := s.sendFrame l k (s.header l (s.topo n) path k tail) r.1
    s.when under.isSome fun s => (s.bump (LANE_ERRCNT_TXQ_UNDER l)).postLane l 7 1

def execFrameDepart (l : Fin 24) (under : Option (Fin 8)) (s : State) : Out := .next (s.doDepart l (under.map Fin.val))

/-- A frame begins while the timebase runs (R41): time reaches it, the collector sends its heartbeat (01_architecture.md R39), the ages of the pair
advance. -/
def State.doFrameStart (s : State) : State :=
  let k := max s.frame (s.frames + 1)
  let s := s.timeTo (k * 1000 * 2 ^ 24)
  let s := { s with frames := k }
  let s := s.when (s.dev != 5 && s.on (SAFE_HLD 0)) fun s => s.islHold 0 false
  s.pairFrame.pairEval.protRelease

def execFrameStart (s : State) : Out := .next (s.when s.tbRuns State.doFrameStart)

/-! ### Headers received (R90, R99, R100) -/

/-- Departure value of a header, in units of 2^-16 ns. -/
def hdrDep (h : List Byte) : Nat := (fieldAt h 4 6 * 1000000000 + fieldAt h 10 4 % 2 ^ 30) * 65536 + fieldAt h 14 2
/-- From the departure value to an arrival in sixteenths, in sixteenths, rounded down; 0 when it would be negative. -/
def transitOf (h : List Byte) (arr : Nat) : Nat := (arr * 4096 - hdrDep h) / 4096
def hcrcOk (h : List Byte) : Bool := h.length == 40 && crc32c (h.take 36) == fieldAt h 36 4

/-- A part of a frame leaves the receive queue of a lane: `n` blocks from block `a` on, and the words before them, for which nothing
waits (R86, R90). -/
def State.takeRx (s : State) (l a n : Nat) : Option (List Byte) × State :=
  let r := takePart a n (s.lane l).rxq
  (r.1, s.setLane l { s.lane l with rxq := r.2 })

/-- A valid header that took `path`, counted on receive path `rp` (R99, R100). -/
def State.goodHeader (s : State) (n l path rp t hops : Nat) : State :=
  let s := s.wr (CHAIN_MISS_P n rp) 0
  let x := s.chain n
  let s := s.setChain n { x.addTr path t with hdrHops := hops }
  let s := s.setLane l { s.lane l with rxPath := some path, rxOther := false }
  let s := s.when (s.inService n) fun s => s.setRing n
  (s.chainEval n).chainProgress n

/-- A returned frame in topology 2 (12_redundant_pair.md R344). -/
def State.loopedNow (s : State) (n : Nat) : State :=
  let was := (s.chain n).looped
  let s := (s.setChain n { s.chain n with looped := true, loopAge := 0 }).set1 SADL_STAT_LOOPED
  s.when (!was) fun s => s.postPair 8 1 n

/-- A frame of foreign origin, or a header that fails its HCRC: the sections under it are taken for those of the lane's own path
(R98). -/
def State.badHeader (s : State) (n l : Nat) (other : Bool) : State :=
  (s.bump (CHAIN_ERR_HDR_ERR n)).setLane l { s.lane l with rxPath := none, rxOther := other }

/-- A header of a chain that is not OFF arrives on lane `l` at `arr` sixteenths. -/
def State.headerIn (s : State) (l : Nat) (h : List Byte) (arr : Nat) : State :=
  let (n, rp) := s.chainOfLane l
  s.when (s.chainSt n != 0) fun s =>
    let s := s.timeTo (arr * 2 ^ 20)
    let dev := fieldAt h 16 2
    let t := transitOf h arr
    let own := dev == s.rd SYS_DEV_ID_DEVID
    if !hcrcOk h then s.badHeader n l false
    else if s.topo n ≠ 2 then
      if own then s.goodHeader n l rp rp t (fieldAt h 24 1) else s.badHeader n l true
    else if own then
      (s.loopedNow n).goodHeader n l (1 - rp) rp t (fieldAt h 24 1)
    else if dev = s.rd (LANE_PARTNER_DEVID l) then
      let act := fieldAt h 23 1 / 2 % 2 == 1
      let s := s.setChain n { s.chain n with pmiss := 0, pact := act }
      let s := s.goodHeader n l rp rp t (fieldAt h 24 1)
      s.when (s.role != 0) fun s =>
        let s := s.when (!s.on SADL_STAT_HB_OK && s.on (SADL_PTRANS_VALID n)) fun s =>
          s.offset ((((arr * 4096 : Nat) : Int) - hdrDep h) / 4096 - s.rd (SADL_PTRANS_T n)) true
        (s.partnerSeen (fieldAt h 18 4) dev act).pairEval
    else s.badHeader n l true

/-- A header arrives: the five words of blocks 0 to 4, when the frame was not cut short in them. -/
def State.doHeader (s : State) (l arr : Nat) : State :=
  let r := s.takeRx l 0 5
  match r.1 with
  | some h => r.2.headerIn l h arr
  | none => r.2

def execHeaderReceived (l : Fin 24) (arr : Nat) (s : State) : Out := .next (s.doHeader l arr)

/-- A header of receive path `p` of chain `n` is declared missing. -/
def State.doMissed (s : State) (n p : Nat) : State :=
  s.when (s.chainSt n != 0 && (s.rxPaths n).any fun q => q.1 == p) fun s =>
    let s := s.bump (CHAIN_MISS_P n p)
    let s := s.when (s.topo n == 2) fun s => s.setChain n { s.chain n with pmiss := (s.chain n).pmiss + 1 }
    (s.chainEval n).pairEval

def execHeaderMissed (n : Fin 24) (p : Fin 2) (s : State) : Out := .next (s.doMissed n p)

/-! ### Reports received (R95 to R97, R104 to R111) -/

/-- STAT, RESID and the count of MEASURE follow a report (R99). -/
def State.reportStat (s : State) (c path : Nat) (bs : List Byte) : State :=
  let b := fieldAt bs 0 1
  let s := s.wr (CELLCTL_STAT_MODE_RPT c) (b % 8)
  let s := (s.wr (CELLCTL_STAT_TSYNC c) (b / 8 % 2)).wr (CELLCTL_STAT_TOKEN_OK c) (b / 16 % 2)
  let s := s.wr (CELLCTL_RESID_P c path) (fieldAt bs 2 2)
  s.when (s.chainSt (c / 8) == 2) fun s => s.setCell c { s.cell c with rpts := (s.cell c).rpts + 1 }

/-- The acknowledgement of an earlier report on the other path of a counter-rotating ring comes again (R110). -/
def State.ackTwin (s : State) (c path tag st : Nat) : Bool × State :=
  let x := s.cell c
  if s.topo (c / 8) ≠ 1 || !s.allLive (c / 8) then (false, s)
  else
    let y := (1 - path, tag, st)
    if x.ackDup.contains y then (true, s.setCell c { x with ackDup := x.ackDup.erase y })
    else (false, s.setCell c { x with ackDup := (x.ackDup ++ [(path, tag, st)]).take 8 })

/-- The outstanding write that an acknowledgement with `tag` answers: a REJECTED one the oldest that the cell refuses on arrival, any other
the oldest that it does not; else the oldest (DESIGN CHOICE, notes/assumptions/109.md). -/
def State.ackedW (s : State) (c tag st : Nat) : Option MbW :=
  let l := (s.cell c).out.filter fun w => w.tag == tag
  (l.find? fun w => (s.node c).refuses w == (st == 5)).orElse fun _ => l.head?

/-- A mailbox acknowledgement (R110, R111, 12_redundant_pair.md R362). -/
def State.reportAck (s : State) (c path tag st rdata : Nat) : State :=
  let r := s.ackTwin c path tag st
  if r.1 then r.2
  else
    let s := r.2
    let s := ((s.wr (CELLCTL_MB_ACK_TAG c) tag).wr (CELLCTL_MB_ACK_STAT c) st).setReg (CELLCTL_MB_RDATA c) rdata
    let s := (s.wr (CELLCTL_MB_ACK_ACK_CNT c) (s.rd (CELLCTL_MB_ACK_ACK_CNT c) + 1)).irq 3
    let mine := s.ackedW c tag st
    let his := (s.pair.outst.find? fun m => m.cell == c && m.w.tag == tag)
    let s := s.setCell c { s.cell c with out := match mine with
      | some w => (s.cell c).out.erase w
      | none => (s.cell c).out }
    let s := s.setPair { s.pair with outst := s.pair.outst.eraseP fun m => m.cell == c && m.w.tag == tag }
    s.protAck c tag st rdata (match mine with
      | some w => some w
      | none => his.map MbRec.w)

/-- The books opened or reopened: pushes, and writes to send again (09_power_stage_protection.md R260, 12_redundant_pair.md
R362). -/
def State.booksOpened (s : State) (c : Nat) (again : Bool) : State :=
  if again then
    let s := s.discardCell c true
    let s := s.setCell c { s.cell c with resend := (s.pair.outst.filter fun m => m.cell == c).map MbRec.w }
    let s := s.setPair { s.pair with outst := s.pair.outst.filter fun m => m.cell != c }
    s.when (s.rd (PROT_PARC_PSTAT_SYNC c) == 0) fun s => s.pushStart c
  else s.pushAll c

/-- A report of cell `c` with a good SCRC, in the frame now under way. -/
def State.reportIn (s : State) (c path : Nat) (bs : List Byte) : State :=
  let s := s.reportStat c path bs
  let s := s.cstFill c bs
  let was := (s.cell c).opened
  let wait := (s.cell c).reopen.isSome
  let s := s.reportBooks c s.frame bs
  let s := s.when (!was && (s.cell c).opened) fun s => s.booksOpened c wait
  let st := fieldAt bs 6 1 % 8
  let s := s.when (st != 0) fun s => s.reportAck c path (fieldAt bs 5 1) st (fieldAt bs 60 4)
  let gen := decide ((s.chain (c / 8)).genFrame ≤ latestFrame 8 s.frame (fieldAt bs 7 1))
  let s := s.protReport c gen bs
  (s.chainProgress (c / 8)).cellsSync

/-- The section in slot `i` of the frame being received on lane `l` (R90); one that lost words in the queue fails its SCRC. -/
def State.sectionIn (s : State) (l i : Nat) (bs : List Byte) : State :=
  let (n, rp) := s.chainOfLane l
  let path := (s.lane l).rxPath.getD rp
  let p := if s.profile = 1 then i / 2 else i
  if s.chainSt n = 0 || (s.lane l).rxOther || (s.profile == 1 && i % 2 == 0) then s
  else match s.cellAt n path p with
    | none => s
    | some c => if bs.length = 88 && scrcOk bs then s.reportIn c path bs else s.bump (CHAIN_ERR_SEC_ERR n)

/-- A section arrives: the eleven words of its slot, when the frame was not cut short before its end. -/
def State.doReport (s : State) (l i : Nat) : State :=
  let r := s.takeRx l (5 + 11 * i) 11
  match r.1 with
  | some bs => r.2.sectionIn l i bs
  | none => r.2

def execReportSectionReceived (l : Fin 24) (i : Fin 8) (s : State) : Out := .next (s.doReport l i)

/-! ### Chain commands (R99, R111, R114) -/

/-- Whether EN = 1 is reserved: chains 12 to 23 of counter-rotating rings. -/
def State.chainEnReserved (s : State) (n : Nat) : Bool := decide (12 ≤ n) && (s.topo n == 1 || s.topo (n - 12) == 1)

/-- CFG.EN takes a value. -/
def State.chainEn (s : State) (n v : Nat) : State :=
  if v = 1 ∧ s.chainEnReserved n then s.reserved (CHAIN_CFG n)
  else s.rws (CHAIN_CFG_EN n) v srcCHAIN n fun s =>
    let s := s.wr (CHAIN_CFG_EN n) v
    if v = 1 then (s.chainWait n).chainEval n else s.chainOff n

def execChainEnable (n : Fin 24) (s : State) : Out := .next (s.chainEn n 1)
def execChainDisable (n : Fin 24) (s : State) : Out := .next (s.chainEn n 0)

/-- A write of CTL.RELINK. -/
def State.relink (s : State) (n : Nat) : State := s.when (s.chainSt n != 0) fun s => (s.chainWait n).chainEval n

def execChainRelink (n : Fin 24) (s : State) : Out := .next (s.relink n)

/-- 10 ms after entry to SYNC the cells that are not ready are LOST. -/
def State.doSyncTimeout (s : State) (n : Nat) : State :=
  s.when (s.chainSt n == 3) fun s =>
    let s := s.forEach (cellsOf n) fun s c =>
      let ready := s.on (CELLCTL_STAT_TSYNC c) && ((s.cell c).opened || s.standby)
      s.when (s.cellEn c && !s.cellLost c && !ready) fun s => (s.set1 (CELLCTL_STAT_LOST c)).postChain n 2 1 c
    s.setChainSt n 4

def execSyncTimeout (n : Fin 24) (s : State) : Out := .next (s.doSyncTimeout n)

/-- A write of MB_CTL.GO. -/
def State.mbGo (s : State) (c : Nat) : State :=
  s.when (s.hasCell c) fun s =>
    if s.on (CELLCTL_MB_CTL_PEND c) then s.set1 (CELLCTL_MB_CTL_COLL c)
    else (s.set1 (CELLCTL_MB_CTL_PEND c)).setCell c { s.cell c with mbWait := 0 }

def execMbGo (c : Fin 192) (s : State) : Out := .next (s.mbGo c)

/-! ### The cycle grid (02_control_cycle.md R43) -/

/-- Setting CYC_CFG.EN. -/
def execCycleGridEnable (s : State) : Out :=
  .next (s.rws LOOP_CYC_CFG_EN 1 srcLOOP 16 fun s => (s.set1 LOOP_CYC_CFG_EN).setGrid)

/-- A cycle starts at its start frame. -/
def State.cycleNext (s : State) : State :=
  let g := s.grid
  let start := (g.anchor + g.next * g.frames).toNat
  let s := s.timeTo (start * 1000 * 2 ^ 24)
  let s := { s with frames := max s.frames s.frame, grid := { g with next := g.next + 1, inCycle := true } }
  let s := s.setReg LOOP_CYC_NUM (g.next % 2 ^ 32).toNat
  let s := s.pairCycle
  ((s.cycleChains.migrateCycle).planCycle).ttCycle

/-- The next cycle of the grid in force begins, or the grid is set up anew at that instant: the frames up to its first cycle belong to
no cycle. -/
def State.doCycleStart (s : State) : State :=
  s.when (s.on LOOP_CYC_CFG_EN) fun s =>
    if s.grid.regrid then
      let start := (s.grid.anchor + s.grid.next * s.grid.frames).toNat
      (s.timeTo (start * 1000 * 2 ^ 24)).dropCycleDues.setGrid
    else s.cycleNext

def execCycleStart (s : State) : Out := .next s.doCycleStart

/-- The swap instant of entry `c`; a time trigger follows the swap (11_clocks_timebase_network_time.md R323). -/
def State.doSwap (s : State) (c : Nat) : State :=
  let was := (s.cstE c).done
  let s := s.cstSwap c
  s.when (decide (was < (s.cstE c).done)) fun s => s.ttSwap c

def execCstSwap (c : Fin 192) (s : State) : Out := .next (s.doSwap c)

end Sys2Proof.Machine
end

