-- ==== Sys2Proof/Machine/Saddle.lean ====
section
/-! DEFINITION. Machine/Saddle.lean: the Saddle link and the commands of the redundant pair (chapter 12). -/
namespace Sys2Proof.Machine

/-! ### Sending (R345 to R347) -/

/-- Saddle lanes in SERVICE, ascending. -/
def State.saddleUp (s : State) : List Nat := (List.range 4).filter fun i => s.laneSt (24 + i) == 4

/-- `bs` padded to the 86 bytes before an SCRC. -/
def pad86 (bs : List Byte) : List Byte := (bs ++ List.replicate 86 0).take 86

/-- HEALTH: live chains, and the transit of the partner's path of each. -/
def State.healthSlot (s : State) : List Byte :=
  let live := ((List.range 24).map fun n => bit (s.chainSt n != 0 && s.anyLive n) * 2 ^ n).sum
  let pt := fun n =>
    let l := (s.chain n).tr (1 - s.rd (CHAIN_CFG_SIDE n))
    if s.topo n = 2 ∧ l ≠ [] then satN 24 (meanN l) else 0xFFFFFF
  pad86 (toBytes 2 1 ++ toBytes 3 live ++ (List.range 24).flatMap fun n => toBytes 3 (pt n))

/-- DIGEST of the last complete cycle. -/
def State.digestSlot (s : State) : List Byte :=
  match s.pair.digs with
  | [] => pad86 []
  | (c, a, b) :: _ => pad86 (toBytes 2 2 ++ toBytes 4 c ++ toBytes 4 a ++ toBytes 4 b ++ toBytes 1 s.cstDig.2)

/-- One MBOX record of 18 bytes. -/
def mboxBytes (m : MbRec) : List Byte :=
  toBytes 1 m.cell ++ toBytes 1 m.w.tag ++ toBytes 2 m.w.addr ++ toBytes 4 m.w.data ++ toBytes 4 m.w.apply ++ toBytes 4 m.fr ++
    toBytes 1 (bit (0xF0 ≤ m.w.tag && m.w.tag ≤ 0xF2)) ++ toBytes 1 0

/-- One PGEN record of 36 bytes. -/
def State.pgenBytes (s : State) (e : Nat) : List Byte :=
  let q := fun i => toBytes 8 (ofInt 64 i)
  let x := s.eng e
  let fl := s.rd (PGEN_CFG_EN e) + 2 * s.rd (PGEN_STAT_LOCKED e) + 4 * s.rd (PGEN_STAT_OVERSHOOT e) + 8 * s.rd (PGEN_STAT_AT_TGT e)
  toBytes 1 e ++ toBytes 1 fl ++ toBytes 2 0 ++ q x.pos ++ q x.vel ++ q x.acc ++ toBytes 4 (s.reg (PGEN_TARGET e)) ++
    toBytes 4 (s.reg (PGEN_STOP_TGT e))

/-- The part of the plan in force that a PLAN slot carries. -/
def State.planSlot (s : State) (p : Nat) : List Byte :=
  pad86 (toBytes 2 (6 + p * 256) ++ toBytes 2 p ++ (List.range 16).flatMap fun i => toBytes 4 (s.reg (AGE_ACTIVE (16 * p + i))))

/-- The next slot of the four queues in frame `k`, in strict priority; a mailbox record goes in a frame after its own. -/
def State.queueSlot (s : State) (k : Nat) : List Byte × State :=
  let x := s.pair
  let l := (x.mboxq.takeWhile fun m => decide (m.fr < k)).take 4
  if s.role ≠ 3 then (pad86 [], s)
  else if l ≠ [] then
    (pad86 (toBytes 2 5 ++ toBytes 2 l.length ++ l.flatMap mboxBytes), s.setPair { x with mboxq := x.mboxq.drop l.length })
  else if x.pgenq ≠ [] then
    let l := x.pgenq.take 2
    (pad86 (toBytes 2 4 ++ toBytes 2 l.length ++ l.flatMap s.pgenBytes), s.setPair { x with pgenq := x.pgenq.drop 2 })
  else match x.mirq, x.planq with
    | m :: r, _ => (pad86 m, s.setPair { x with mirq := r })
    | [], p :: r => (s.planSlot p, s.setPair { x with planq := r })
    | [], [] => (pad86 [], s)

/-- What slot `i` of Saddle lane `lane` carries in frame `k`. -/
def State.saddleSlot (s : State) (lane i k : Nat) : List Byte × State :=
  let up := s.saddleUp
  let dig := s.grid.inCycle && ((k : Int) - s.grid.anchor) % s.grid.frames == 1
  if i = 0 ∧ up.head? = some lane then (s.healthSlot, s)
  else if dig && ((i == 0 && up[1]? == some lane) || (i == 1 && up == [lane])) then (s.digestSlot, s)
  else s.queueSlot k

/-- The slots from `i` on; the transmit queue runs empty in slot `under`. -/
def State.saddleSlots (s : State) (lane k : Nat) (under : Option Nat) : List Nat → List (List Byte) × State
  | [] => ([], s)
  | i :: t =>
    let r := s.saddleSlot lane i k
    let q := r.2.saddleSlots lane k under t
    (sealSec r.1 (under == some i) :: q.1, q.2)

/-- RX_T of a frame: the arrival of the partner's header of the frame before. -/
def State.rxT (s : State) (i k : Nat) : Nat :=
  match (s.pair.rx[i]?).getD none with
  | some (f, a) => if (f + 1) % 2 ^ 32 = k % 2 ^ 32 then a % 2 ^ 32 else 0xFFFFFFFF
  | none => 0xFFFFFFFF

/-- The frame of Saddle lane `24 + i` departs; its transmit queue runs empty in slot `under` (01_architecture.md R22). -/
def State.doSaddleDepart (s : State) (i : Nat) (under : Option Nat) : State :=
  let k := s.frame
  let l := 24 + i
  s.when (s.role != 0 && s.laneSt l == 4 && s.txBlock l) fun s =>
    let s := s.timeTo (ceilDiv (departure k * 2 ^ 24) 1600)
    let b24 := s.role + 4 * s.rd SADL_STAT_YIELD_TX + 8 * bit s.pairReady + 16 * s.rd SADL_STAT_TALIGN + 32 * s.dev
    let tail := toBytes 2 b24 ++ toBytes 2 (s.reg LOOP_CYC_NUM) ++ toBytes 4 (s.rxT i k) ++ toBytes 4 0
    let hdr := s.header l 3 0 k tail
    let r := s.saddleSlots i k under (List.range 8)
    let s := r.2.sendFrame l k hdr r.1
    s.when under.isSome fun s => (s.bump (LANE_ERRCNT_TXQ_UNDER l)).postLane l 7 1

def execSaddleFrameDepart (i : Fin 4) (under : Option (Fin 8)) (s : State) : Out := .next (s.doSaddleDepart i (under.map Fin.val))

/-! ### Receiving (R348, R349) -/

/-- A heartbeat on Saddle lane `24 + i`. -/
def State.heartbeat (s : State) (i f arr : Nat) : State :=
  let x := s.pair
  let s := s.setPair { x with hbAge := 0, laneAge := x.laneAge.set i 0, rx := x.rx.set i (some (f, arr)) }
  (s.set1 SADL_STAT_HB_OK).setBit SADL_STAT_LANES i

/-- P_ID and YIELD_RX follow a header. -/
def State.partnerId (s : State) (h : List Byte) : State :=
  let b := fieldAt h 24 1
  let s := (s.wr SADL_P_ID_DEVID (fieldAt h 16 2)).wr SADL_P_ID_ROLE (b % 4)
  let s := (s.wr SADL_P_ID_STATE (b / 32)).set1 SADL_P_ID_VALID
  s.wr SADL_STAT_YIELD_RX (b / 4 % 2)

/-- The offset sample of a header, when its RX_T names an arrival. -/
def State.saddleSample (s : State) (h : List Byte) (arr : Nat) : State :=
  let rx := fieldAt h 28 4
  s.when (rx != 0xFFFFFFFF) fun s =>
    let f : Int := (s.frame : Int) + toInt 32 (subMod 32 (fieldAt h 0 4) (s.frame % 2 ^ 32)) - 1
    let t1 := departure16 f.toNat
    let back := (((arr * 4096 : Nat) : Int) - hdrDep h) / 4096
    s.offset ((back - toInt 32 (subMod 32 rx (t1 % 2 ^ 32))) / 2) false

/-- A Saddle header has arrived on lane `24 + i` at `arr` sixteenths. -/
def State.saddleHeaderIn (s : State) (i : Nat) (h : List Byte) (arr : Nat) : State :=
  s.when (s.role != 0) fun s =>
    let s := s.timeTo (arr * 2 ^ 20)
    s.when (hcrcOk h) fun s =>
      let s := (s.heartbeat i (fieldAt h 0 4) arr).partnerId h
      let s := s.saddleSample h arr
      let dev := fieldAt h 16 2
      if dev = s.rd SYS_DEV_ID_DEVID then
        let was := s.pair.sameId
        let s := s.setPair { s.pair with sameId := true }
        s.when (!was) fun s => s.postPair 0xA 1 dev
      else ((s.setPair { s.pair with sameId := false }).partnerSeen (fieldAt h 18 4) dev (fieldAt h 23 1 / 2 % 2 == 1)).pairEval

/-- A Saddle header arrives: blocks 0 to 4 of a frame of the lane. -/
def State.doSaddleHeader (s : State) (i arr : Nat) : State :=
  let r := s.takeRx (24 + i) 0 5
  match r.1 with
  | some h => r.2.saddleHeaderIn i h arr
  | none => r.2

def execSaddleHeaderReceived (i : Fin 4) (arr : Nat) (s : State) : Out := .next (s.doSaddleHeader i arr)

/-! ### Slots (R346, R350 to R352, R362) -/

/-- HEALTH: LIVE and the transits of our own paths. -/
def State.healthIn (s : State) (b : List Byte) : State :=
  let s := s.setPair { s.pair with live := fieldAt b 2 3, healthAge := 0 }
  s.forEach (List.range 24) fun s n =>
    let t := fieldAt b (5 + 3 * n) 3
    s.when (t != 0xFFFFFF) fun s =>
      let s := (s.wr (SADL_PTRANS_T n) t).set1 (SADL_PTRANS_VALID n)
      s.when (s.topo n == 2) fun s => (s.when (s.inService n) fun s => s.setRing n).chainProgress n

/-- DIGEST waits for our own of the same cycle. -/
def State.digestIn (s : State) (b : List Byte) : State :=
  s.when (s.role == 2) fun s =>
    (s.setPair { s.pair with pdigs := (s.pair.pdigs ++ [(fieldAt b 2 4, fieldAt b 6 4, fieldAt b 10 4)]).take 4 }).digEval

/-- A part of a mirror set; a complete set waits for the next start of its slot. -/
def State.mirrorIn (s : State) (b : List Byte) : State :=
  let d := fieldAt b 3 1
  let cyc := fieldAt b 8 4
  let eng := fieldAt b 2 1 % 16
  let slot := fieldAt b 2 1 / 16 % 8
  let p : MirPart := { part := fieldAt b 7 1, addr := fieldAt b 4 2, data := (b.drop 12).take (8 * min 8 (fieldAt b 6 1)) }
  let x := s.pair
  let old := x.asm.find? fun m => m.d == d
  let drop := match old with
    | some m => m.cyc != cyc
    | none => false
  let s := s.when drop fun s => s.bump SADL_CNT3_MIR_DROP
  let had := match old with
    | some m => if m.cyc = cyc then m.parts else []
    | none => []
  let parts := had.filter (fun q => q.part != p.part) ++ [p]
  let rest := s.pair.asm.filter fun m => m.d != d
  if parts.length < ceilDiv (s.rd (SADL_MIR_LEN d)) 8 then s.setPair { s.pair with asm := rest ++ [⟨d, cyc, eng, slot, parts⟩] }
  else
    let s := s.setPair { s.pair with asm := rest }
    let e := s.eng eng
    let keep := e.mirror.filter fun q => !(q.1 == slot && parts.any fun p => p.addr == q.2.1)
    s.setEng eng { e with mirror := keep ++ parts.map fun p => (slot, p.addr, p.data) }

/-- PGEN records wait for the next start of their slots. -/
def State.pgenIn (s : State) (b : List Byte) : State :=
  s.forEach (List.range (min 2 (fieldAt b 2 1))) fun s i =>
    let o := 4 + 36 * i
    let e := fieldAt b o 1 % 16
    let q := fun j => toInt 64 (fieldAt b (o + j) 8)
    s.setEng e { s.eng e with pgenMir := some { flags := fieldAt b (o + 1) 1, pos := q 4, vel := q 12, acc := q 20
                                                tgt := fieldAt b (o + 28) 4, stop := fieldAt b (o + 32) 4 } }

/-- MBOX records enter the list of outstanding writes. -/
def State.mboxIn (s : State) (b : List Byte) : State :=
  s.forEach (List.range (min 4 (fieldAt b 2 1))) fun s i =>
    let o := 4 + 18 * i
    let w : MbW := { tag := fieldAt b (o + 1) 1, addr := fieldAt b (o + 2) 2, data := fieldAt b (o + 4) 4, apply := fieldAt b (o + 8) 4 }
    s.setPair { s.pair with outst := s.pair.outst ++ [⟨fieldAt b o 1, w, fieldAt b (o + 12) 4⟩] }

/-- A part of the partner's plan. -/
def State.planIn (s : State) (b : List Byte) : State :=
  let p := fieldAt b 2 1 % 4
  s.setPair { s.pair with planIn := (p, (b.drop 4).take 64) :: s.pair.planIn.filter fun q => q.1 != p }

/-- The 88 bytes of a Saddle slot; one that lost words in the queue fails its SCRC. -/
def State.saddleSlotIn (s : State) (b : List Byte) : State :=
  s.when (s.role != 0) fun s =>
    let ty := fieldAt b 0 1
    let mir := s.role == 1 || s.role == 2
    if b.length != 88 || !scrcOk b || decide (6 < ty) then s.bump SADL_CNT3_SLOT_ERR
    else if ty = 1 then s.healthIn b
    else if ty = 2 then s.digestIn b
    else if !mir then s
    else if ty = 3 then s.mirrorIn b
    else if ty = 4 then s.pgenIn b
    else if ty = 5 then s.mboxIn b
    else if ty = 6 then s.planIn b
    else s

/-- Slot `j` of a frame arrives on Saddle lane `24 + i`. -/
def State.doSaddleSlot (s : State) (i j : Nat) : State :=
  let r := s.takeRx (24 + i) (5 + 11 * j) 11
  match r.1 with
  | some b => r.2.saddleSlotIn b
  | none => r.2

def execSaddleSlotReceived (i : Fin 4) (j : Fin 8) (s : State) : Out := .next (s.doSaddleSlot i j)

/-! ### Heartbeat, roles (R348, R353 to R356) -/

/-- The heartbeat is lost: HB_MISS whole frames have passed without a valid Saddle header. -/
def State.doHbLost (s : State) : State :=
  s.when (s.on SADL_STAT_HB_OK && decide (s.rd SADL_CFG_HB_MISS < s.pair.hbAge)) fun s =>
    let s := ((s.clr SADL_STAT_HB_OK).clr SADL_STAT_LANES).clr SADL_STAT_YIELD_RX
    ((s.bump SADL_CNT2_HB_LOSS).postPair 1 1 0).pairEval

def execHbLost (s : State) : Out := .next s.doHbLost

/-- CFG.EN takes a value: LISTEN, or OFF. -/
def State.pairEn (s : State) (v : Nat) : State :=
  s.rws SADL_CFG_EN v srcSADL 0 fun s =>
    let s := s.wr SADL_CFG_EN v
    let s := s.setPair { record := s.pair.record, epochPend := s.pair.epochPend }
    let s := s.setReg SADL_STAT (Nat.land (s.reg SADL_STAT) 0x60 + v)
    let s := (s.setReg SADL_P_EPOCH 0).setReg SADL_P_ID 0
    let s := s.setReg SADL_TOFS 0
    s.when (v == 1) State.closeAll

def execPairEnable (s : State) : Out := .next (s.pairEn 1)
def execPairDisable (s : State) : Out := .next (s.pairEn 0)

/-- A write of CTL.TAKE. -/
def State.pairTake (s : State) : State :=
  let ok := (s.role == 1 || s.role == 2) && (s.dev == 2 || s.dev == 3) && s.powerSet && !(s.role == 1 && s.pair.sameId) &&
    (decide (3 < s.pair.actAge) || s.on SADL_STAT_YIELD_RX)
  if ok then s.toActive 4 0 else (s.set1 SADL_STAT_TAKE_REF).postPair 6 1 0

def execPairTake (s : State) : Out := .next s.pairTake

/-- A write of CTL.YIELD. -/
def State.pairYield (s : State) : State := s.when (s.role == 3) fun s => s.set1 SADL_STAT_YIELD_TX

def execPairYield (s : State) : Out := .next s.pairYield
def execYieldEnd (s : State) : Out := .next (s.clr SADL_STAT_YIELD_TX)

def execDemotionHoldEnd (s : State) : Out :=
  .next (s.when (s.on SADL_STAT_HOLD_ACT) fun s => (s.clr SADL_STAT_HOLD_ACT).pairEval)

end Sys2Proof.Machine
end

