-- ==== Sys2Proof/Machine/RegRules.lean ====
section
/-! DEFINITION. Machine/RegRules.lean: what a write of a register leaves by its access codes (00_scope.md R10), and the writes that are
refused under R12: locked ones, and reserved values and combinations of all chapters. -/
namespace Sys2Proof.Machine

/-- The value a write of `v` leaves in a register that holds `old`, for one field. -/
def FieldD.merge (f : FieldD) (old v : Nat) : Nat :=
  let o := bitsOf old f.lo f.w
  let x := bitsOf v f.lo f.w
  match f.acc with
  | .rw | .rwl | .rws => putBits old f.lo f.w x
  | .w1c => putBits old f.lo f.w (o - Nat.land o x)
  | .w1s => putBits old f.lo f.w (Nat.lor o x)
  | .ro | .wo | .rc => old

/-- The same for all fields of a register; reserved bits stay 0 (R13). -/
def RegD.merge (r : RegD) (old v : Nat) : Nat := r.fields.foldl (fun a f => f.merge a v) old

/-- The write would change the field. -/
def FieldD.changes (f : FieldD) (old v : Nat) : Bool := bitsOf old f.lo f.w != bitsOf v f.lo f.w

def Acc.writable (k : Acc) : Bool := k == .rw || k == .rwl || k == .rws || k == .wo

/-- The field's table marks the value reserved. -/
def FieldD.bad (f : FieldD) (v : Nat) : Bool :=
  f.acc.writable && (decide (bitsOf v f.lo f.w < f.vmin) || decide (f.vmax < bitsOf v f.lo f.w))

/-- Clearing RC fields, by a read. -/
def RegD.readClear (r : RegD) (old : Nat) : Nat :=
  r.fields.foldl (fun a f => if f.acc = .rc then putBits a f.lo f.w 0 else a) old

/-- What a read returns: WO fields read 0. -/
def RegD.readMask (r : RegD) (old : Nat) : Nat :=
  r.fields.foldl (fun a f => if f.acc = .wo then putBits a f.lo f.w 0 else a) old

/-! ### Ranges of repeated blocks -/

/-- Offset of `a` in the block of `k` repetitions of size `sz` from `b`: its number and the offset inside it. -/
def inBlk (b sz k a : Nat) : Option (Nat × Nat) :=
  if b ≤ a ∧ a < b + sz * k then some ((a - b) / sz, (a - b) % sz) else none

/-- The cell whose registers an address names: CELLCTL, MODCH, PARC and SREC. -/
def cellOfAddr (a : Nat) : Option Nat :=
  match inBlk 0x40280000 0x100 192 a, inBlk 0x40310000 0x40 768 a, inBlk 0x40501000 0x80 192 a, inBlk 0x40508000 0x10 2304 a with
  | some (c, _), _, _, _ => some c
  | _, some (n, _), _, _ => some (n / 4)
  | _, _, some (c, _), _ => some c
  | _, _, _, some (i, _) => some (i / 12)
  | _, _, _, _ => none

/-- Registers that an engine of the other kind does not have (07_lupin_engines.md R212). -/
def engAbsent (a : Nat) : Bool :=
  match inBlk 0x40410000 0x1000 20 a with
  | none => false
  | some (n, o) =>
    if n < 16 then decide (0x18 ≤ o ∧ o < 0x24) || decide (0x300 ≤ o ∧ o < 0x400)
    else decide (o = 0x14) || decide (0x100 ≤ o ∧ o < 0x280)

/-- The registers at `a` read 0 and ignore writes: those of numbers that name no cell (00_scope.md R9, 20_register_index.md R513), and
those of R212. -/
def State.regAbsent (s : State) (a : Nat) : Bool :=
  engAbsent a || match cellOfAddr a with
    | some c => !s.hasCell c
    | none => false

/-! ### Locks -/

/-- The envelope of a parameter held in the safety block, as ENV shows it (15_ageing_and_margins.md R418). -/
def State.envShown (s : State) (a : Nat) : Option Nat :=
  match inBlk 0x40050400 8 32 a with
  | none => none
  | some (p, o) =>
    if s.envInBlock p then
      let (mn, mx, st) := s.envOf p
      some (if o = 0 then mn + 65536 * mx else if o = 4 then st else 0)
    else none

/-- The lock of the RWL fields at `a` is set. -/
def State.lockSet (s : State) (a : Nat) : Bool :=
  if a = SEC_POLICY then s.on SEC_POLICY_LOCK else s.on AGE_ENV_LOCK_LOCK || (s.envShown a).isSome

/-- The bits of `a` that the plan in force owns (15_ageing_and_margins.md R417, R419). -/
def State.ownedBits (s : State) (a : Nat) : Nat :=
  if !(s.on AGE_CFG_OWN && s.on AGE_PLAN_STAT_INFORCE) then 0
  else if a = CLK_SYS_RAMP then 2 ^ 31
  else if a = CLK_SYS_SPREAD then 0x17F
  else if a = MOD_BOOT1 then 0xFF
  else match inBlk 0x40100000 0x1000 24 a, inBlk 0x40300100 0x20 8 a, inBlk 0x40501000 0x80 192 a with
    | some (_, o), _, _ => if o = 0xC then 0x033F7F3F else 0
    | _, some (j, o), _ => if o = 4 ∧ s.on (MOD_STR_CFG_AUTO j) then 0xFFFFF else 0
    | _, _, some (_, o) => if o < 0x10 then 0xFFF else if o < 0x40 then 0x7F7F else 0
    | _, _, _ => 0

/-- The bits of CAN registers that take writes only in INIT (18_can_fd.md R475). -/
def State.canInitBits (s : State) (a : Nat) : Nat :=
  match inBlk 0x40800000 0x10000 4 a with
  | none => 0
  | some (m, o) =>
    if s.on (CAN_CTL_INIT m) then 0
    else if o = 0 then 0xFE
    else if o = 0xC then 0x7F7FFFFF
    else if o = 0x10 then 0x0F0F1F1F
    else if o = 0x14 then 0xFF7F
    else 0

/-- The write would change bits of `mask`. -/
def touches (mask old v : Nat) : Bool := Nat.land mask old != Nat.land mask v

/-- The write is refused as LOCKED_WRITE. -/
def State.writeLocked (s : State) (r : RegD) (a v : Nat) : Bool :=
  let old := (s.envShown a).getD (s.reg a)
  (s.inRun && r.fields.any fun f => f.acc == .rws && f.changes old v) ||
    (s.lockSet a && r.fields.any fun f => f.acc == .rwl && f.changes old v) ||
    touches (s.ownedBits a) old v || touches (s.canInitBits a) old v

/-! ### Reserved combinations -/

/-- A CAN timing that R475 of 18_can_fd.md does not admit; `nb` and `db` are NBT and DBT. -/
def canTimingBad (nb db : Nat) : Bool :=
  let n := 3 + bitsOf nb 8 8 + bitsOf nb 24 7
  let d := 3 + bitsOf db 8 5 + bitsOf db 16 4
  let np := (bitsOf nb 0 8 + 1) * n
  let dp := (bitsOf db 0 5 + 1) * d
  !(decide (8 ≤ n ∧ n ≤ 385) && decide (bitsOf nb 16 7 ≤ bitsOf nb 24 7) && decide (80 ≤ np) &&
    decide (5 ≤ d ∧ d ≤ 49) && decide (bitsOf db 24 4 ≤ bitsOf db 16 4) && decide (10 ≤ dp) && decide (dp ≤ np))

/-- An off level contradicts a fused safe level `safe` (06_modulation_and_pwm.md R173, 09_power_stage_protection.md R273). -/
def polBad (safe pol : Nat) : Bool := (safe == 0 && pol == 0) || (safe == 1 && pol == 1)

/-- The cells that the enabled slots of engine `n` declare, with slot `j` taken as enabled (07_lupin_engines.md R193). -/
def State.declared (s : State) (n j : Nat) : List Nat :=
  (((List.range 8).filter fun i => i == j || s.slotEn n i).flatMap fun i =>
    (List.range 12).map fun k => bitsOf (s.reg (ENG_TASK_CELLS0 n i + 4 * (k / 4))) (8 * (k % 4)) 8).eraseDups.filter (· != 0xFF)

/-- A write that enables slot `j` would exceed the limit of declared cells. -/
def State.declaredOver (s : State) (n j : Nat) : Bool :=
  (s.dev == 2 || s.dev == 3 || s.dev == 4) && decide ((if s.profile = 2 then 12 else 6) < (s.declared n j).length)

/-- Bytes of the enabled OUT descriptors of slot `j` of engine `n` (07_lupin_engines.md R191). -/
def State.outTotal (s : State) (n j : Nat) : Nat := ((s.descs n j true).map (s.pfdLen n)).sum

/-- Bytes of the enabled mirror descriptors (12_redundant_pair.md R347). -/
def State.mirTotal (s : State) : Nat := (s.mirs.map s.mirLen).sum
def State.mirOver (s : State) : Bool := decide (512 * s.rd LOOP_CYC_CFG_FRAMES < s.mirTotal)

/-- Four cell numbers, one of them reserved. -/
def cellsBad (v : Nat) : Bool := (List.range 4).any fun i => decide (192 ≤ bitsOf v (8 * i) 8) && bitsOf v (8 * i) 8 != 0xFF

/-- Reserved combinations of the links: LANE and CHAIN. `t` is the state with the write stored. -/
def State.linkBad (s t : State) (a v : Nat) : Bool :=
  match inBlk 0x40100000 0x1000 28 a, inBlk 0x40200000 0x1000 24 a with
  | some (n, o), _ =>
    if o = 8 then (if n < 24 then bitsOf v 24 2 == 3 else bitsOf v 24 2 != 3)
    else if o = 0xC then !txeqOk (bitsOf v 0 6) (bitsOf v 8 7) (bitsOf v 16 6)
    else if o = 0 then bitsOf v 3 1 == 1 && (s.rd (LANE_PARTNER_TOPO n) == 0 || s.rd (LANE_PARTNER_TOPO n) == 3)
    else if o = 0x30 then bitsOf v 8 8 == 0x80 || (decide (32 ≤ bitsOf v 0 7) && decide (bitsOf v 0 7 < 96))
    else false
  | _, some (n, o) => o == 0 && bitsOf v 31 1 == 1 && t.chainEnReserved n
  | _, _ => false

/-- Reserved combinations of the modulator: MOD, MODCH, LPWM. -/
def State.modBad (s : State) (a v : Nat) : Bool :=
  if a = MOD_BOOT0 then decide (bitsOf v 0 16 < bitsOf v 16 16)
  else if a = MOD_AUX then v.testBit 11
  else match inBlk 0x40310000 0x40 768 a, inBlk 0x40380000 0x100 16 a with
    | some (n, o), _ =>
      if o = 0 then bitsOf v 0 2 == 2 && decide (n % 4 < 2) else if o = 0x14 then !shadowOk n 0 v else false
    | _, some (m, o) =>
      if o = 0 then polBad (s.rd (LPWM_STAT_SAFE_LVL m)) (bitsOf v 3 1) || (m % 2 == 1 && bitsOf v 2 1 == 1)
      else if o = 0x14 then !shadowOk (768 + m) 0 v
      else false
    | _, _ => false

/-- Reserved combinations of the cycle grid, the engines and the pair. -/
def State.engBad (s t : State) (a v : Nat) : Bool :=
  if a = LOOP_CYC_CFG then (s.profile != 1 && decide (t.rd LOOP_CYC_CFG_FRAMES < 5)) || t.mirOver
  else if SADL_MIR 0 ≤ a ∧ a < SADL_MIR 32 then t.mirOver
  else match inBlk 0x40410000 0x1000 20 a with
    | none => false
    | some (n, o) =>
      if 0x100 ≤ o ∧ o < 0x200 then
        let j := (o - 0x100) / 0x20
        let p := (o - 0x100) % 0x20
        if p = 0 then v.testBit 0 && !s.slotEn n j && t.declaredOver n j
        else if p = 0xC ∨ p = 0x10 ∨ p = 0x14 then cellsBad v
        else false
      else decide (0x200 ≤ o ∧ o < 0x280) && (List.range 8).any fun j => decide (1024 < t.outTotal n j)

/-- Reserved combinations of the other blocks. Before the profile is known a field takes only the values of both profiles
(01_architecture.md R28). -/
def State.blkBad (s : State) (a v : Nat) : Bool :=
  if a = TB_INC then s.on TB_SLEW_CTL_BUSY && slewOver v (s.rd TB_SLEW_CTL_RATE)
  else if a = TB_SLEW_CTL then v.testBit 16 && !s.on TB_SLEW_CTL_BUSY && slewOver (s.reg TB_INC) (bitsOf v 0 12)
  else if a = RST_BLK_RST then (blkRange (v % 128)).isNone
  else if a = FLT_ACK then bitsOf v 13 3 != 0
  else if a = SEC_POLICY then (List.range 7).any fun i => decide (bitsOf v (2 * i) 2 < (s.sec.fused[i]?).getD 0)
  else if a = PROT_DUMP_CFG then polBad (s.rd PROT_DUMP_STAT_SAFE_LVL) (bitsOf v 6 1)
  else if a = TRC_PRE then decide (s.trcCap < bitsOf v 0 20 + s.reg TRC_POST)
  else if a = TRC_POST then decide (s.trcCap < s.reg TRC_PRE + bitsOf v 0 20)
  else if a = TRC_CTL then s.profile != 2 && decide (2 ≤ v % 4)
  else if TRC_PROBE 0 ≤ a ∧ a < TRC_PROBE 64 then s.profile != 2 && v.testBit 3
  else match inBlk 0x40501000 0x80 192 a, inBlk 0x40600000 0x1000 4 a, inBlk 0x40800000 0x10000 4 a with
    | some (c, o), _, _ =>
      if o = 0x40 then decide ((s.node c).d.ovMax < bitsOf v 0 16) else decide (0x10 ≤ o ∧ o < 0x40) && s.inRun && !v.testBit 15
    | _, some (_, o), _ => o == 0 && decide (2 ≤ bitsOf v 1 2) && decide (16 ≤ bitsOf v 3 5)
    | _, _, some (m, o) =>
      if o = 0xC then canTimingBad v (s.reg (CAN_DBT m))
      else if o = 0x10 then canTimingBad (s.reg (CAN_NBT m)) v
      else if o = 0 then bitsOf v 1 2 == 3
      else if 0x1000 ≤ o then
        let p := (o - 0x1000) % 0x80
        if p = 0 then v.testBit 3 && v.testBit 5 else p == 0x14 && v % 4 == 3
      else false
    | _, _, _ => false

/-- The write is refused as RESERVED_VALUE; `t` is the state with the write stored. -/
def State.writeBad (s t : State) (r : RegD) (a v : Nat) : Bool :=
  r.fields.any (fun f => f.bad v) || s.linkBad t a v || s.modBad a v || s.engBad t a v || s.blkBad a v

end Sys2Proof.Machine
end

