-- ==== Sys2Proof/Machine/RegWrite.lean ====
section
/-! DEFINITION. Machine/RegWrite.lean: a write of a register by a master: the refusals of 00_scope.md R12, the store of R10, and what each
register's write does besides. In every block's function `s` is the state before the write and `t` the state with the fields stored;
WO fields are never stored. -/
namespace Sys2Proof.Machine

/-- An enable field changes: its bit stays as it was until `up` or `down` sets it. -/
def State.edge (s t : State) (f : Fld) (up down : State → State) : State :=
  let x := t.rd f
  if s.rd f = x then t else if x = 0 then down (t.wr f (s.rd f)) else up (t.wr f (s.rd f))

/-- Bit `i` of the word written starts `f`. -/
def State.act (s : State) (v i : Nat) (f : State → State) : State := s.when (v.testBit i) f

/-- A request for a device state (01_architecture.md R33). -/
def State.reqState (s : State) (k : Nat) : State :=
  match k with
  | 1 => s.reqReady
  | 2 => s.reqArmed
  | 3 => s.reqRun
  | 4 => s.reqStopped
  | 5 => s.reqDormant
  | _ => s.stateRefuse k

/-- SYS and RST. A write of STATE_REQ that only clears REFUSED requests nothing (DEDUCED, notes/assumptions/15.md). The verdicts
on a host image are not a function of the model's state and are left open. -/
def State.writeSys (s t : State) (a v : Nat) : State :=
  if a = SYS_STATE_REQ then if v % 16 = 8 then t else (s.when (v.testBit 3) fun s => s.clr SYS_STATE_REQ_REFUSED).reqState (v % 8)
  else if a = SYS_BOOT_CTL then t.act v 0 State.configDone
  else if a = SYS_HOST_IMG then t.act v 31 fun t => t.drawn.drawn.hostGo (t.freeNat 1 == 1) (t.drawn.freeNat 1 == 1)
  else if a = RST_BLK_RST then if v.testBit 31 then s.blkReset (v % 128) (v.testBit 7) else t
  else t

/-- CLK, TB, CAP, PPS and TT (chapter 11). -/
def State.writeClk (s t : State) (a v : Nat) : State :=
  if a = CLK_SYS_CTL then s.edge t CLK_SYS_CTL_EN (fun s => s.adpllOn 0) (fun s => s.adpllOff 0)
  else if a = CLK_TB_CTL then
    let t := t.wr CLK_TB_CTL_SRC (s.rd CLK_TB_CTL_SRC)
    let t := t.tbSrc (bitsOf v 1 1)
    let x := bitsOf v 0 1
    if s.rd CLK_TB_CTL_EN = x then t
    else
      let t := t.wr CLK_TB_CTL_EN (s.rd CLK_TB_CTL_EN)
      if x = 1 then t.adpllOn 1 else t.adpllOff 1
  else if a = CLK_SYS_RAMP then t.act v 31 State.sysRampGo
  else if a = CLK_SYS_SPREAD then s.spreadWrite (v.testBit 8) (v % 128)
  else if a = CLK_TB_RAMP then t.act v 31 State.tbRampGo
  else if a = TB_SLEW_CTL then (t.act v 17 State.slewStop).act v 16 State.slewGo
  else if a = TB_SET_CTL then s.act v 0 State.tbSet
  else if a = TB_PPS_CFG then t.ppsEval
  else match inBlk 0x40030100 0x20 32 a with
    | some (k, o) => if o = 0 then s.ttWrite k v else t
    | none => t

/-- FLT, AGE, SEC and THM (chapters 13, 15, 16, 10). -/
def State.writeCore (s t : State) (m : Master) (a v : Nat) : State :=
  if a = FLT_ACK then s.faultAck v
  else if a = AGE_PLAN_CTL then (s.act v 0 State.doSubmit).act v 1 State.planCancel
  else if a = AGE_RO_CTL then t.act v 0 fun t => t.set1 AGE_RO_CTL_BUSY
  else if a = AGE_SRM_CTL then t.act v 4 State.srmStart
  else if a = AGE_REC_CTL then t.act v 0 State.recCommit
  else if a = SEC_ROLLBACK then s.act v 0 fun s => s.burn m none SEC_ROLLBACK
  else if a = SEC_REVOKE then if v.testBit 31 then s.revoke m (v % 4) else t
  else if a = SEC_VAULT_CTL then s.vaultCtl m (v % 8) (bitsOf v 8 4)
  else if SEC_KEY_IN 0 ≤ a ∧ a < SEC_KEY_IN 8 then s.keyIn m ((a - SEC_KEY_IN 0) / 4) v
  else if a = THM_REQ then s.forEach ((List.range 12).filter v.testBit) fun s i => s.thmStart i
  else t

/-- LANE (chapter 03). -/
def State.writeLane (s t : State) (n o v : Nat) : State :=
  if o = 0 then
    let t := s.edge t (LANE_CTL_EN n) (fun s => s.doLaneEnable n) (fun s => s.doLaneDisable n)
    (t.act v 1 fun s => s.doLaneRearm n).act v 4 fun s => s.doLaneTxcomma n
  else if o = 8 then (t.laneFollow n).laneMoved n
  else if o = 0x14 then t.act v 0 fun s => s.doLaneSlip n
  else if o = 0x1C then t.when (t.laneSt n == 7) fun s => s.rearmCheck n
  else if o = 0x30 then
    if s.on (LANE_ES_STAT_BUSY n) then s.set1 (LANE_ES_STAT_COLL n) else t.act v 24 fun s => s.doEsStart n
  else t

/-- CHAIN and CELLCTL (chapter 04). -/
def State.writeLink (s t : State) (a v : Nat) : State :=
  match inBlk 0x40200000 0x1000 24 a, inBlk 0x40280000 0x100 192 a with
  | some (n, o), _ =>
    if o = 0 then
      let x := t.rd (CHAIN_CFG_EN n)
      if s.rd (CHAIN_CFG_EN n) = x then t.chainEval n else (t.wr (CHAIN_CFG_EN n) (1 - x)).chainEn n x
    else if o = 4 then t.act v 0 fun s => s.relink n
    else t
  | _, some (c, o) => if o = 0x24 then t.act v 0 fun s => s.mbGo c else t
  | _, _ => t

/-- MOD, MODCH and LPWM (chapter 06). A route of a local channel that is enabled, or moved, holds the comparator it names
(10_analogue_and_thermal.md R294). -/
def State.writeMod (s t : State) (a v : Nat) : State :=
  if a = MOD_CFG then s.edge t MOD_CFG_EN State.modStart (fun s => s.clr MOD_CFG_EN)
  else if a = MOD_ANCHOR then t.setAnchor
  else if a = MOD_COMMIT then s.capture v
  else if a = MOD_AUX then t.act v 31 State.doAuxGo
  else match inBlk 0x40310000 0x40 768 a, inBlk 0x40380000 0x100 16 a with
    | some (n, o), _ => if 0x14 ≤ o ∧ o < 0x24 then s.putShadow n ((o - 0x14) / 4) v else t
    | _, some (m, o) =>
      if o = 0 then
        let i := t.rd (LPWM_CTL_TRIP_SEL m)
        let moved := i != s.rd (LPWM_CTL_TRIP_SEL m)
        let t := t.when moved fun t => t.wr (LPWM_STAT_TRIP_IN m) (bit (decide (i < 24) && t.on (CMP_STAT_OUT i)))
        let t := t.when (t.on (LPWM_CTL_TRIP_EN m) && (moved || !s.on (LPWM_CTL_TRIP_EN m))) fun t => t.routeOn i
        let t := t.when (s.on (LPWM_CTL_TRIP_EN m) && (moved || !t.on (LPWM_CTL_TRIP_EN m))) fun t =>
          t.routeOff (s.rd (LPWM_CTL_TRIP_SEL m))
        let t := t.when (m % 2 == 0 && t.rd (LPWM_CTL_PAIR m) != s.rd (LPWM_CTL_PAIR m)) fun t => (t.lpOff m).pairOff m
        t.pins m
      else if 0x14 ≤ o ∧ o < 0x24 then s.putShadow (768 + m) ((o - 0x14) / 4) v
      else if o = 0x2C then t.act v 0 fun s => (s.lpRearm m).2
      else t
    | _, _ => t

/-- The cycle grid follows a write of CYC_CFG or CYC_START (02_control_cycle.md R43): a rise of EN sets it up, a change while EN is 1 waits
for the next cycle, and a fall of EN ends it. -/
def State.gridWrite (s t : State) : State :=
  let was := s.on LOOP_CYC_CFG_EN
  let now := t.on LOOP_CYC_CFG_EN
  if now && !was then t.setGrid
  else if was && !now then
    { t with grid := { t.grid with inCycle := false, regrid := false } }.dropCycleDues
  else if now && (s.reg LOOP_CYC_CFG != t.reg LOOP_CYC_CFG || s.reg LOOP_CYC_START != t.reg LOOP_CYC_START) then
    { t with grid := { t.grid with regrid := true } }
  else t

/-- A controller has a bit of IR that IE enables (18_can_fd.md R490). -/
def State.canLine (s : State) : Bool := (List.range 4).any fun m => Nat.land (s.rd (CAN_IR_IR m)) (s.rd (CAN_IE_IE m)) != 0

/-- Sources that stay raised while their condition holds are pending again after a write of IRQ_PEND of SE`k`: the mailbox that
holds a word (19_host_interface_and_trace.md R498) and the CAN controllers (18_can_fd.md R490). -/
def State.irqLevels (s : State) (k : Nat) : State :=
  (s.when (!s.host.h2d.isEmpty && s.rd HOST_DB_ROUTE_MBX == k) fun s => s.irqTo k 4).when s.canLine fun s => s.irqTo k 11

/-- LOOP, ENG, GLUT and PGEN (chapters 02 and 07). -/
def State.writeEng (s t : State) (a v : Nat) : State :=
  if a = LOOP_CYC_CFG ∨ a = LOOP_CYC_START then s.gridWrite t
  else if a = LOOP_MIGRATE then t.act v 8 fun t => t.doMigrate (v % 16) (bitsOf v 4 4)
  else match inBlk 0x40410000 0x1000 20 a, inBlk 0x40440000 0x1000 16 a, inBlk 0x40460000 0x100 16 a with
    | some (n, o), _, _ =>
      if o = 0 then
        let t := s.edge t (ENG_CTL_EN n) (fun s => s.engEnable n) (fun s => s.engDisable n)
        let t := t.act v 1 fun t => t.when (t.engSt n == 4) fun t => t.engIdle n
        t.act v 2 fun t => t.lstStart n
      else if 0x100 ≤ o ∧ o < 0x200 ∧ (o - 0x100) % 0x20 = 0 then
        let j := (o - 0x100) / 0x20
        t.when (s.slotEn n j && !t.slotEn n j) fun t => (t.withdraw n j).powerCheck
      else if o = 0x1C then t.irqLevels (n - 16)
      else t
    | _, some (n, o), _ =>
      if o < 0x10 then t.act v 16 fun t => if t.inTask n then t.set1 (GLUT_CFG_SWAP_PEND n (o / 4)) else t.glutSwap n (o / 4) else t
    | _, _, some (n, o) =>
      if o = 0 then t.act v 6 fun t => t.pgenInit n
      else if o = 4 ∨ o = 8 ∨ o = 0xC then t.setEng n { t.eng n with replan := true }
      else if o = 0x10 then if s.on (PGEN_STAT_LOCKED n) then s else t.setEng n { t.eng n with tgtWait := some v }
      else if o = 0x20 then t.when (t.on (PGEN_STAT_LOCKED n)) fun t => t.setEng n { t.eng n with tgt := v, replan := true }
      else t
    | _, _, _ => t

/-- PROT (chapter 09). -/
def State.writeProt (s t : State) (a v : Nat) : State :=
  if a = PROT_CFG then t.protRelease
  else if a = PROT_UNLOCK then if v.testBit 31 then s.doUnlock (v % 256) else t
  else if a = PROT_DUMP_CFG then
    let i := t.rd PROT_DUMP_CFG_CMP
    let moved := i != s.rd PROT_DUMP_CFG_CMP
    let t := t.when (t.on PROT_DUMP_CFG_EN && (moved || !s.on PROT_DUMP_CFG_EN)) fun t => t.routeOn i
    let t := t.when (s.on PROT_DUMP_CFG_EN && (moved || !t.on PROT_DUMP_CFG_EN)) fun t => t.routeOff (s.rd PROT_DUMP_CFG_CMP)
    t.dumpEval (decide (i < 24) && t.on (CMP_STAT_OUT i))
  else match inBlk 0x40501000 0x80 192 a with
    | some (c, o) => if o ≤ 0x40 then t.imageDirty c (o / 4) else if o = 0x44 then t.act v 0 fun t => t.pushStart c else t
    | none => t

/-- ADC, CMP and ANA (chapter 10). -/
def State.writeAna (s t : State) (a v : Nat) : State :=
  if a = ANA_REF_CTL then t.when (!v.testBit 0) fun t =>
    (t.clr ANA_REF_CTL_READY).forEach (List.range 4) fun t k => t.clr (ADC_STAT_REF_RDY k)
  else match inBlk 0x40600000 0x1000 4 a, inBlk 0x40610000 0x40 24 a with
    | some (k, o), _ =>
      if o = 4 ∨ o = 8 then t.setAdc k ((s.adcSampled k).adc k)
      else if o = 0xC then t.act v 31 fun t => t.adcUrgent k
      else if o = 0x18 then t.act v 16 fun t => t.adcCalReq k
      else if 0x200 ≤ o ∧ o < 0x280 ∧ o % 8 = 4 then
        let j := (o - 0x200) / 8
        t.when (t.on (ADC_WIN_CTL_EN k j) && !s.on (ADC_WIN_CTL_EN k j)) fun t => t.clr (ADC_WIN_CTL_OUT k j)
      else t
    | _, some (i, o) =>
      if o = 0 ∨ o = 4 then t.cmpApply i
      else if o = 0xC then t.act v 0 fun t => t.when (!t.cmpHeldOut i) fun t => (t.clr (CMP_STAT_LATCHED i)).cmpEval i
      else t
    | _, _ => t

/-- ETH, PTP and CAN (chapters 11 and 18). Whether the frame of an object has started when CANCEL is written is left open. -/
def State.writeNet (s t : State) (a v : Nat) : State :=
  match inBlk 0x40700000 0x10000 2 a, inBlk 0x40800000 0x10000 4 a with
  | some (p, o), _ =>
    if o = 0 then t.when (!v.testBit 0 && s.on (ETH_CTL_EN p)) fun t => t.ethDown p
    else if o = 0x28 then s.txTail p (v % 256)
    else if o = 0x38 then s.rxTail p (v % 256)
    else t
  | _, some (m, o) =>
    if o = 0 then (s.edge t (CAN_CTL_INIT m) (fun s => s.initSet m) (fun s => s.initClear m)).act v 8 fun s => s.canRecover m
    else if o = 0x18 then t.when (s.on (CAN_TSC_EN m) && !v.testBit 8) fun t =>
      let u := s.drawn.canCount m (s.freeNat 32)
      { (t.setCan m (u.can m)).setReg (CAN_TSCNT m) (u.reg (CAN_TSCNT m)) with free := u.free }
    else if o = 0x20 then t.act v 0 fun t => t.drawn.tscap m (t.freeNat 32)
    else if o = 0x34 then t.when t.canLine fun t => t.irq 11
    else if 0x1000 ≤ o ∧ o < 0x3000 then
      let j := (o - 0x1000) / 0x80
      let p := (o - 0x1000) % 0x80
      if p = 0 ∨ p = 4 ∨ 0x20 ≤ p then if s.txreq m j then s.set1 (CAN_OBJ_TXS_WCOLL m j) else t
      else if p = 0x14 then (t.act v 0 fun t => t.setreq m j).act v 1 fun t => t.drawn.cancel m j (t.freeNat 1 == 1)
      else t
    else t
  | _, _ => t

/-- SADL and TRC (chapters 12 and 19). -/
def State.writePair (s t : State) (a v : Nat) : State :=
  if a = SADL_CFG then
    let x := t.rd SADL_CFG_EN
    if s.rd SADL_CFG_EN = x then t else (t.wr SADL_CFG_EN (1 - x)).pairEn x
  else if a = SADL_CTL then (t.act v 0 State.pairTake).act v 1 State.pairYield
  else if a = TRC_CTL then
    let u := s.act v 3 State.doTraceStop
    let u := u.wr TRC_CTL_MODE (v % 4)
    (u.act v 2 State.doTraceArm).act v 4 State.trcTrigger
  else if a = TRC_STR_CREDIT then s.doStreamCredit (v % 2 ^ 19)
  else t

/-- SAFE and HOST (chapters 14 and 19). -/
def State.writeHost (s t : State) (m : Master) (a v : Nat) : State :=
  if a = SAFE_CONFIRM then s.confirmWrite v
  else if a = SAFE_MB_IN then s.mbinWrite v
  else if a = HOST_H2D_W then s.h2dWrite (BitVec.ofNat 32 v)
  else if a = HOST_D2H_W then s.d2hWrite (BitVec.ofNat 32 v)
  else if a = HOST_DB_ROUTE then t.irqLevels (t.rd HOST_DB_ROUTE_MBX)
  else if a = HOST_MSIX_SEND then s.act v 31 fun s => s.msixGo (v % 32)
  else if HOST_DB_VAL 0 ≤ a ∧ a < HOST_DB_VAL 8 then
    match m with
    | .host => s.doorbell ((a - HOST_DB_VAL 0) / 4) v
    | _ => t
  else match inBlk 0x40C00100 0x20 4 a, inBlk 0x40C01000 0x10 32 a with
    | some (d, o), _ => if o = 0xC then s.dmaTail d (v % 256) else t
    | _, some (k, o) => if o = 0xC ∧ !v.testBit 0 then t.msixUnmask k else t
    | _, _ => t

/-- A write that is not refused. -/
def State.writeReg (s t : State) (m : Master) (a v : Nat) : State :=
  if a < 0x40020000 then s.writeSys t a v
  else if a < 0x40040000 then s.writeClk t a v
  else if a < 0x40100000 then s.writeCore t m a v
  else if a < 0x40200000 then s.writeLane t ((a - 0x40100000) / 0x1000) (a % 0x1000) v
  else if a < 0x40300000 then s.writeLink t a v
  else if a < 0x40400000 then s.writeMod t a v
  else if a < 0x40500000 then s.writeEng t a v
  else if a < 0x40600000 then s.writeProt t a v
  else if a < 0x40700000 then s.writeAna t a v
  else if a < 0x40900000 then s.writeNet t a v
  else if a < 0x40B00000 then s.writePair t a v
  else s.writeHost t m a v

/-- A write of `v` to the register at `a` (R10, R12, R13; 20_register_index.md R513). -/
def State.regWrite (s : State) (m : Master) (a v : Nat) : State :=
  match regOf a with
  | none => s.unmapped a
  | some r =>
    if s.regAbsent a then s
    else if s.writeLocked r a v then s.locked a
    else
      let t := s.setReg a (r.merge (s.reg a) v)
      if s.writeBad t r a v then s.reserved a else s.writeReg t m a v

/-- The host's accesses arrive while the PCIe link is up (19_host_interface_and_trace.md R495), those of the debug port while debug is
open (16_security.md R443), each with its row of 01_architecture.md R35. -/
def State.masterOn (s : State) (m : Master) : Bool :=
  match m with
  | .host => s.hostSet && s.on HOST_LINK_UP
  | .debug => s.baseSet && s.on SEC_STAT_DBG_OPEN
  | .aster _ => true

/-- A write by a master as it arrives at the register space; one that meets a block in reset ends with an error response and changes
nothing (17_reset_power_boot.md R464). -/
def execRegisterWrite (m : Master) (a v : BitVec 32) (s : State) : Out :=
  let k := a.toNat
  .next (s.when (s.masterOn m && inRegs k && !s.blkError k) fun s => if k % 4 = 0 then s.regWrite m k v.toNat else s.unmapped k)

end Sys2Proof.Machine
end

