-- ==== Sys2Proof/Machine/RegRead.lean ====
section
/-! DEFINITION. Machine/RegRead.lean: reads of registers, and the accesses of a master to the whole address map
(20_register_index.md R509 to R513). -/
namespace Sys2Proof.Machine

/-- Whole milliseconds of a retry wait that remain (09_power_stage_protection.md R262). -/
def State.waitLeft (s : State) (c : Nat) : Nat := satN 10 (ceilDiv ((s.pc c).waitEnd - s.ns) 1000000)

/-- What a register shows: some fields follow other state. -/
def State.shownReg (s : State) (a : Nat) : Nat :=
  let v := s.reg a
  if a = PROT_STAT then putBits (putBits v 16 1 (bit (!s.policyRuns))) 8 8 (satN 8 s.heldRearms)
  else if a = TB_SLEW_LEFT then ofInt 24 (s.sys.slew.tdiv 1048576)
  else if a = SADL_STAT then putBits v 4 1 (bit s.pairReady)
  else if a = SAFE_STATE then putBits v 6 1 (bit (s.on SAFE_STATE_JAMMED && !s.sackReady))
  else if a = RST_BLK_IDLE0 then s.blkIdle0
  else if a = RST_BLK_IDLE1 then s.blkIdle1
  else match s.envShown a, inBlk 0x40300100 0x20 8 a, inBlk 0x40501000 0x80 192 a, inBlk 0x40700000 0x10000 2 a with
    | some x, _, _, _ => x
    | _, some (j, _), _, _ => if a = MOD_STR_STAT j then putBits v 8 8 (s.members j).length else v
    | _, _, some (c, _), _ => if a = PROT_PARC_RSTAT c ∧ s.rd (PROT_PARC_RSTAT_STATE c) = 1 then putBits v 16 10 (s.waitLeft c) else v
    | _, _, _, some (p, _) => if a = ETH_TS_FIX p ∧ s.rd (ETH_CTL_MODE p) = 1 then putBits v 16 16 0x10E0 else v
    | _, _, _, _ => v

/-- A read that returns the register and clears its RC fields (00_scope.md R10). -/
def State.plainRead (s : State) (r : RegD) (a : Nat) : Nat × State :=
  (r.readMask (s.shownReg a), s.when (r.fields.any fun f => f.acc == .rc) fun s => s.setReg a (r.readClear (s.reg a)))

/-- A read of a HI word of a converter: from its shadow when full (10_analogue_and_thermal.md R289). -/
def State.hiRead (s : State) (m k a : Nat) : Nat × State :=
  let x := s.adc m
  let v := match Tbl.find k x.shadow with
    | some w => w.toNat
    | none => s.reg a
  (v, s.setAdc m { x with shadow := Tbl.drop k x.shadow })

/-- A read of a LO word fills the shadow. -/
def State.loRead (s : State) (m k a : Nat) : Nat × State :=
  let x := s.adc m
  (s.reg a, s.setAdc m { x with shadow := Tbl.put k (BitVec.ofNat 32 (s.reg (a + 4))) x.shadow })

/-- Reads of the converters. -/
def State.adcRead (s : State) (r : RegD) (m o a : Nat) : Nat × State :=
  if o = 0x20 then s.loRead m 16 a
  else if o = 0x24 then s.hiRead m 16 a
  else if 0x100 ≤ o ∧ o < 0x180 then (if o % 8 = 0 then s.loRead m ((o - 0x100) / 8) a else s.hiRead m ((o - 0x100) / 8) a)
  else s.plainRead r a

/-- A read of a register that exists. -/
def State.readReg (s : State) (r : RegD) (a : Nat) : Nat × State :=
  if a = TB_NOW_NS then (s.nowRead.reg a, s.nowRead)
  else if a = AGE_LKQ then s.lkqRead
  else if a = PROT_EVQ then s.evqRead
  else if a = SAFE_MB_OUT then s.mboutRead
  else if a = HOST_H2D_R then s.h2dRead
  else if a = HOST_D2H_R then s.d2hRead
  else match inBlk 0x40040400 0x20 32 a, inBlk 0x40310000 0x40 768 a, inBlk 0x40600000 0x1000 4 a, inBlk 0x40800000 0x10000 4 a with
    | some (i, o), _, _, _ => if o = 4 then (s.reg a, s.histRead i) else s.plainRead r a
    | _, some (n, o), _, _ => if o = 0x28 then ((s.budgetNow n).reg a, s.budgetNow n) else s.plainRead r a
    | _, _, some (m, o), _ => s.adcRead r m o a
    | _, _, _, some (m, o) =>
      if a = CAN_TSCNT m then (let s := s.drawn.canCount m (s.freeNat 32); (s.reg a, s))
      else if a = CAN_STAT m ∨ a = CAN_ECNT m then (s.canNow m).plainRead r a
      else if 0x1000 ≤ o ∧ o < 0x3000 ∧ a = CAN_OBJ_RXS m ((o - 0x1000) / 0x80) then (s.reg a, s.rxsRead m ((o - 0x1000) / 0x80))
      else s.plainRead r a
    | _, _, _, _ => s.plainRead r a

/-- A read of the register at `a`, as a whole word (00_scope.md R13, 20_register_index.md R511 to R513). -/
def State.regRead (s : State) (a : Nat) : Nat × State :=
  match regOf a with
  | none => (0, s.unmapped a)
  | some r => if s.regAbsent a then (0, s) else s.readReg r a

/-! ### The address map (R509, R510) -/

/-- The address names memory. -/
def inMem (a : Nat) : Bool := inSram a || inTrace a || inMram a || inLocal a || inCst a || inRom a

/-- Memory that takes no write. -/
def roMem (a : Nat) : Bool := inCst a || inRom a

/-- Trace memory that LATENCY leaves out (01_architecture.md R31). -/
def State.traceHole (s : State) (a : Nat) : Bool := inTrace a && s.profile == 1 && decide (0x01200000 ≤ a)

/-- A read of `k` bytes of memory that exists. -/
def State.memRead (s : State) (a k : Nat) : Nat × State :=
  if s.traceHole a then (0, s.unmapped a)
  else if inVault a then (0, s)
  else if inMram a then
    let (bad, s) := s.nvBadRead a
    (if bad then 0 else ofBytes (s.nvBytes a k), s)
  else (s.load a k, s)

/-- Program memory is closed to writes (07_lupin_engines.md R183). -/
def State.progClosed (s : State) (a : Nat) : Bool :=
  let n := (a - 0x4000000) / 0x20000
  inLocal a && decide ((a - 0x4000000) % 0x20000 < 0x10000) && ((s.eng n).crc || (decide (n < 16) && s.engSt n != 0))

/-- A write of bytes to memory that exists and is not read-only (R183, R461, R494). -/
def State.memWrite (s : State) (a : Nat) (bs : List Byte) : State :=
  if s.traceHole a then s.unmapped a
  else if inTrace a ∧ s.rd TRC_CTL_MODE ≠ 0 then s.reserved a
  else if inMram a then s.nvWrite a bs
  else if s.progClosed a then s.postF srcENG ((a - 0x4000000) / 0x20000) 3 clsCONFIG 1
  else s.putMem a bs

/-! ### Accesses that name nothing -/

/-- An access of `k` bytes to the register space that names a register. -/
def namesReg (a k : Nat) : Bool := k == 4 && a % 4 == 0 && (regOf a).isSome

/-- A read or a write inside the register space that names no register, among them every access that is not an aligned word (R13,
R512): it reads 0, ignores the write and posts its fault. -/
def execUnmappedAccess (m : Master) (a : BitVec 32) (size : Fin 5) (s : State) : Out :=
  let k := a.toNat
  .next (s.when (s.masterOn m && inRegs k && !namesReg k size && !s.blkError k) fun s => s.unmapped k)

end Sys2Proof.Machine
end

