-- ==== Sys2Proof/Machine/Cores.lean ====
section
/-! DEFINITION. Machine/Cores.lean: the issue of an instruction, exceptions, results and memory accesses of the cores
(08_qorov_instruction_set.md R215 to R227, R236, R249, R251; 07_lupin_engines.md R182, R207; 14_safety_island.md R385, R386).
Cores 0 to 15 are LE0 to LE15, 16 to 19 SE0 to SE3, 20 and 21 SC0 and SC1. -/
namespace Sys2Proof.Machine

/-! ### Registers -/

/-- The value of a general register; g0 reads 0. -/
def State.gr (s : State) (n r : Nat) : Nat := if r = 0 then 0 else (Tbl.get (fun _ => (0 : Word)) (s.core n).g r).toNat
/-- The same as a signed number. -/
def State.gi (s : State) (n r : Nat) : Int := toInt 32 (s.gr n r)
/-- A predicate; p0 reads 1. -/
def State.pr (s : State) (n k : Nat) : Bool := k == 0 || (s.core n).p.toNat.testBit k

/-- A result takes its place among those in flight: by cycle, then by order of issue. -/
def flyInsert (f : Flight) : List Flight → List Flight
  | [] => [f]
  | g :: t => if f.due < g.due ∨ (f.due = g.due ∧ f.key < g.key) then f :: g :: t else g :: flyInsert f t

/-- A result of latency `lat`: in flight on a Lupin engine (R222), in place at once on the other cores, which never read a result
early (R224). -/
def State.deliverTo (s : State) (i : Iss) (lat : Nat) (d : Dst) : State :=
  let n := i.core.val
  if n < 16 then
    let c := s.core n
    s.setCore n { c with fly := flyInsert ⟨c.now + lat, 2 * c.now + bit i.m, d⟩ c.fly }
  else s.land n ⟨0, 0, d⟩

/-- A general register's new value, and the flags that come with it. -/
def State.result (s : State) (i : Iss) (lat r v : Nat) (fl : Nat := 0) : State :=
  let s := s.deliverTo i lat (.gpr r (BitVec.ofNat 32 v))
  s.when (fl != 0) fun s => s.deliverTo i lat (.flags (BitVec.ofNat 8 fl))

/-! ### Exceptions (R227, R251) -/

/-- The entry of an Aster engine: where it returns to, ECAUSE, and the offset of the vector. -/
def State.enter (s : State) (n : Nat) (epc : Word) (ecause vec : Nat) : State :=
  let c := s.core n
  let st := c.status.toNat
  s.setCore n { c with
    epc := epc
    ecause := BitVec.ofNat 32 ecause
    status := BitVec.ofNat 32 (6 + 8 * bitsOf st 0 1 + 16 * bitsOf st 1 1)
    next := (c.vbase.toNat + vec) % 2 ^ 32
    wait := none
    idle := false }

/-- An exception of an Aster engine; one raised in a handler is nested (07_lupin_engines.md R190). -/
def State.asterExc (s : State) (n cause : Nat) (addr : Nat) (prot : Bool) : State :=
  let c := s.core n
  if c.status.getLsbD 2 then (s.engFaulted n 5 c.pc.toNat).post srcENG n 1 clsPROGRAM 2 5
  else
    let s := s.enter n c.pc (cause + 16 * bit prot) 0
    s.when (cause == 2) fun s => s.setCore n { s.core n with badaddr := BitVec.ofNat 32 addr }

/-- Neither slot of the bundle in issue has an effect: its results in flight, its accumulators and its step of the generator are taken
back. -/
def State.voidBundle (s : State) (n : Nat) : State :=
  let c := s.core n
  let s := s.setCore n { c with fly := c.flyWas, accIn := c.accWas, pgWas := none, after := 0 }
  match c.pgWas with
  | none => s
  | some x => s.pgenRestore n x

/-- An exception at the instruction or bundle in issue; on a Lupin engine neither slot of the bundle has an effect (R252). -/
def State.raise (s : State) (n cause : Nat) (addr : Nat := 0) (prot : Bool := false) : State :=
  let pc := (s.core n).pc.toNat
  if n < 16 then (s.voidBundle n).engException n cause pc
  else if n < 20 then s.asterExc n cause addr prot
  else s.safetyFail pc

/-! ### Regions of the Aster engines (07_lupin_engines.md R207) -/

/-- What an access does: read, write, execute. -/
inductive AccK where
  | r | w | x
deriving DecidableEq, Repr

/-- The lowest-numbered enabled region that contains an address. -/
def State.regionOf (s : State) (n a : Nat) : Option Nat :=
  (List.range 16).find? fun r => s.on (ENG_REGION_ATTR_EN n r) &&
    decide (s.rd (ENG_REGION_BASE_ADDR n r) ≤ a / 256 ∧ a / 256 ≤ s.rd (ENG_REGION_LIMIT_ADDR n r))

/-- Whether the regions allow an access. -/
def State.allowed (s : State) (n a : Nat) (k : AccK) : Bool :=
  let priv := (s.core n).status.getLsbD 1
  match s.regionOf n a with
  | none => priv && s.on (ENG_REGCTL_PRIV_DEF n)
  | some r =>
    if priv then k != .x || !s.on (ENG_REGION_ATTR_PNX n r)
    else match k with
      | .r => s.on (ENG_REGION_ATTR_R n r)
      | .w => s.on (ENG_REGION_ATTR_W n r)
      | .x => s.on (ENG_REGION_ATTR_X n r)

/-! ### Issue -/

/-- The slot of a Lupin bundle that accepts an instruction (R226). -/
inductive Slot where
  | x | m | none
deriving DecidableEq, Repr

/-- Which cores accept an instruction, and the cycles it costs (R223, R226). -/
structure Kind where
  slot : Slot
  aster : Bool := true
  safety : Bool := true
  cost : Nat := 1
deriving DecidableEq, Repr

/-- An enabled interrupt is pending (07_lupin_engines.md R206). -/
def State.irqWaits (s : State) (n : Nat) : Nat := Nat.land (s.rd (ENG_IRQ_EN_EN n)) (s.rd (ENG_IRQ_PEND_PEND n))

/-- A core's clock is gated: in limp mode all engines but SE0 (11_clocks_timebase_network_time.md R315), in DORMANT all
(01_architecture.md R39). -/
def State.gated (s : State) (n : Nat) : Bool := decide (n < 20) && ((s.limp && n != 16) || s.dev == 5)

/-- A core issues: a Lupin engine while its task runs, an Aster engine while it runs and neither waits nor idles, a safety core unless
the island has failed or it idles (it has no interrupt source that would end that, notes/assumptions/79.md). -/
def State.canIssue (s : State) (n : Nat) : Bool :=
  if n < 20 then
    let c := s.core n
    s.engSt n == 2 && !s.gated n && c.wait.isNone && (!c.idle || s.irqWaits n != 0)
  else s.islSt != 4 && !(s.core n).idle

/-- A core issues the next bundle, the other slot of the bundle in issue, or the next instruction. -/
def State.beginIssue (s : State) (i : Iss) (cost : Nat) : State :=
  let n := i.core.val
  let c := s.core n
  if n < 16 then
    if i.same then s.setCore n { c with gap := max c.gap cost }
    else
      let s := (s.bundleEnd n).landTo n (c.now + c.gap)
      s.setCore n { s.core n with
        accWas := (s.core n).accIn
        flyWas := (s.core n).fly
        pgWas := none
        now := c.now + c.gap
        cyc := c.cyc + BitVec.ofNat 32 c.gap
        pc := BitVec.ofNat 32 c.next
        next := c.next + 8
        gap := cost }
  else s.setCore n { c with
    pc := BitVec.ofNat 32 c.next, next := (c.next + 4) % 2 ^ 32, cyc := c.cyc + BitVec.ofNat 32 cost, idle := false }

/-- Whether a core may fetch from an address, its regions apart: program memory or boot ROM (07_lupin_engines.md R182, R238,
14_safety_island.md R386). -/
def inProgram (n a : Nat) : Bool :=
  if n < 16 then decide (a % 8 = 0 ∧ a < 0x10000)
  else if n < 20 then decide (a % 4 = 0) && (inRom a || decide (progBase n ≤ a ∧ a < progBase n + 0x10000))
  else decide (a % 4 = 0 ∧ (a < 0x2000 ∨ (0x10000 ≤ a ∧ a < 0x18000)))

/-- The core and the slot accept the instruction. -/
def Kind.accepts (k : Kind) (i : Iss) : Bool :=
  if i.core.val < 16 then (match k.slot with | .x => !i.m | .m => i.m | .none => false)
  else if i.core.val < 20 then k.aster
  else k.safety

/-- The issue of an instruction: the fetch, the checks made at decoding whatever the predicate (R219, R220; `ok`: no reserved
subfield), the predicate, and its effect `f` on the core's number and the state. -/
def State.issue (s : State) (i : Iss) (k : Kind) (ok : Bool) (f : Nat → State → State) : Out :=
  let n := i.core.val
  .next (s.when (s.canIssue n) fun s =>
    let s := s.beginIssue i k.cost
    let pc := (s.core n).pc.toNat
    if !inProgram n pc then s.raise n 2 pc
    else if decide (16 ≤ n ∧ n < 20) && !s.allowed n pc .x then s.raise n 2 pc true
    else if !(k.accepts i && ok && !i.reserved) then s.raise n 1
    else
      let s := if i.dead || s.pr n i.pred == i.pn then s else f n s
      s.when (decide (n < 16) && i.same) fun s => s.bundleEnd n)

/-! ### Memory accesses (R236) -/

/-- The effective address. -/
def State.effAddr (s : State) (n ra : Nat) (ofs : BitVec 12) (k : Nat) : Nat :=
  ofInt 32 ((s.gr n ra : Int) + ofs.toInt * k)

/-- Memory whose uncorrectable errors R466 of 17_reset_power_boot.md describes. -/
def eccMem (a : Nat) : Bool := inSram a || inTrace a || inCst a || inLocal a

/-- The word offset of an address in its memory. -/
def wordOffset (a : Nat) : Nat :=
  if inLocal a then (a - 0x4000000) % 0x20000 / 4 else if inTrace a then (a - 0x1000000) / 4
  else if inCst a then (a - 0x8000000) / 4 else a / 4

/-- An uncorrectable error is posted. -/
def State.postUe (s : State) (a : Nat) : State := s.post srcMEM (memInst a) 2 clsMEMORY 2 (wordOffset a)

/-- An Aster engine's read of the address map. -/
def State.asterLoad (s : State) (n a k : Nat) (ue : Bool) (f : Nat → State → State) : State :=
  if !s.allowed n a .r then s.raise n 2 a true
  else if inRegs a then
    if s.blkError a then s.raise n 2 a
    else if k = 4 then f (s.regRead a).1 (s.regRead a).2 else f 0 (s.unmapped a)
  else if inMem a then
    if ue && eccMem a && !s.traceHole a then (s.postUe a).raise n 2 a else f (s.memRead a k).1 (s.memRead a k).2
  else s.raise n 2 a

/-- A safety core's read: the island's memories; its I/O registers and mailbox ends, whose layout is not stated. -/
def State.islandLoad (s : State) (n a k : Nat) (f : Nat → State → State) : State :=
  if a < 0x2000 ∨ (0x10000 ≤ a ∧ a < 0x18000) ∨ (0x20000 ≤ a ∧ a < 0x24000) then f (s.load (islBase + a) k) s
  else if 0x30000 ≤ a ∧ a < 0x30200 then
    f (bitsOf (s.reg (SAFE_PARAM ((a - 0x30000) / 4))) (8 * (a % 4)) (8 * k)) s
  else if 0x31000 ≤ a ∧ a < 0x33000 then f (s.freeNat (8 * k)) s.drawn
  else s.raise n 2 a

/-- A load of `k` bytes; `ue`: the read meets an uncorrectable error. -/
def State.loadAt (s : State) (n a k : Nat) (ue : Bool) (f : Nat → State → State) : State :=
  if a % k ≠ 0 then s.raise n 2 a
  else if n < 16 then
    if 0x10000 ≤ a then s.raise n 2 a
    else if ue then (s.postUe (dataBase n + a)).raise n 2 a
    else f (s.load (dataBase n + a) k) s
  else if n < 20 then s.asterLoad n a k ue f
  else s.islandLoad n a k f

/-- An Aster engine's write to the address map. -/
def State.asterStore (s : State) (n a k v : Nat) : State :=
  if !s.allowed n a .w then s.raise n 2 a true
  else if inRegs a then
    if s.blkError a then s.raise n 2 a
    else if k = 4 then s.regWrite (.aster (Fin.ofNat 4 (n - 16))) a v else s.unmapped a
  else if inMem a && !roMem a then s.memWrite a (toBytes k v)
  else s.raise n 2 a

/-- A safety core's write: program RAM and the parameter store take writes only in LOAD. -/
def State.islandStore (s : State) (n a k v : Nat) : State :=
  if 0x20000 ≤ a ∧ a < 0x24000 then s.store (islBase + a) k v
  else if 0x10000 ≤ a ∧ a < 0x18000 then s.when (s.islSt == 0) fun s => s.store (islBase + a) k v
  else if 0x30000 ≤ a ∧ a < 0x30200 then
    s.when (s.islSt == 0) fun s => s.wr ⟨SAFE_PARAM ((a - 0x30000) / 4), 8 * (a % 4), 8 * k⟩ v
  else if a < 0x2000 ∨ (0x31000 ≤ a ∧ a < 0x33000) then s
  else s.raise n 2 a

/-- A store of `k` bytes. -/
def State.storeAt (s : State) (i : Iss) (a k v : Nat) : State :=
  let n := i.core.val
  if a % k ≠ 0 then s.raise n 2 a
  else if n < 16 then
    if 0x10000 ≤ a then s.raise n 2 a else s.deliverTo i 1 (.data (dataBase n + a) (toBytes k v))
  else if n < 20 then s.asterStore n a k v
  else s.islandStore n a k v

/-! ### Interrupts of the Aster engines (R251, 07_lupin_engines.md R206) -/

/-- An interrupt can be taken. -/
def State.takeable (s : State) (n : Nat) : Bool :=
  (s.core n).status.getLsbD 0 && !(s.core n).status.getLsbD 2 && s.irqWaits n != 0

/-- The lowest enabled pending source is taken; a `wait` in progress restarts after it (R244, R252). -/
def State.takeIrq (s : State) (n : Nat) : State :=
  match lowestOne 16 (s.irqWaits n) 0 with
  | none => s
  | some i =>
    let c := s.core n
    s.enter n (if c.wait.isSome then c.pc else BitVec.ofNat 32 c.next) (2 ^ 31 + 256 * i) (0x100 + 0x10 * i)

def execInterruptTaken (k : Fin 4) (s : State) : Out :=
  let n := 16 + k.val
  .next (s.when (s.engSt n == 2 && !s.gated n && s.takeable n) fun s => s.takeIrq n)

/-- An access below the register space that names no memory, or a write to read-only memory (20_register_index.md R510): cause 2 at an
Aster engine, as the instruction in issue; the host and the debug port read 0 and their writes are ignored, with the fault of R13. Trace
memory that LATENCY leaves out reads 0, ignores writes and posts that fault for every master (01_architecture.md R31). -/
def execUnmappedMemoryAccess (m : Master) (a : BitVec 32) (wr : Bool) (s : State) : Out :=
  let k := a.toNat
  .next (s.when (s.masterOn m && decide (k < 0x40000000) && (!inMem k || (wr && roMem k) || s.traceHole k)) fun s =>
    match m with
    | .aster j => if s.traceHole k then s.unmapped k else s.when (s.engSt (16 + j) == 2 && !s.gated (16 + j)) fun s => s.raise (16 + j) 2 k
    | _ => s.unmapped k)

end Sys2Proof.Machine
end

