-- ==== Sys2Proof/Machine/Arith.lean ====
section
/-! DEFINITION. Machine/Arith.lean: integer, multiply, fixed-point, multiply-accumulate, float, compare and immediate instructions
(08_qorov_instruction_set.md R228 to R235). -/
namespace Sys2Proof.Machine

/-- Families of the X slot on every core; those that safety cores do not accept (R226). -/
def kX : Kind := { slot := .x }
def kF : Kind := { slot := .x, safety := false }

/-- A register operation: `f` gives the result and the flags it sets. -/
def State.op2 (s : State) (i : Iss) (k : Kind) (ok : Bool) (rd ra rb : Fin 32) (lat : Nat) (f : Nat → Nat → Nat × Nat) : Out :=
  s.issue i k ok fun n s => s.result i lat rd (f (s.gr n ra) (s.gr n rb)).1 (f (s.gr n ra) (s.gr n rb)).2

/-! ### Integer (R228) -/

def wAdd (a b : Nat) : Nat := (a + b) % 2 ^ 32
def wSub (a b : Nat) : Nat := subMod 32 a b
def wShl (a b : Nat) : Nat := if 32 ≤ b % 256 then 0 else a * 2 ^ (b % 256) % 2 ^ 32
def wShr (a b : Nat) : Nat := if 32 ≤ b % 256 then 0 else a / 2 ^ (b % 256)
def wSar (a b : Nat) : Nat := ofInt 32 (toInt 32 a / (2 ^ min 31 (b % 256) : Nat))
def wMin (a b : Nat) : Nat := if toInt 32 a ≤ toInt 32 b then a else b
def wMax (a b : Nat) : Nat := if toInt 32 a ≤ toInt 32 b then b else a

/-- `add g0, g0, g0` without a predicate is the `nop` of either slot (R241, R253). -/
def kAdd (i : Iss) (rd ra rb : Fin 32) : Kind :=
  if i.m && rd == 0 && ra == 0 && rb == 0 && !i.pn && i.pred == 0 then { slot := .m } else kX

def execAdd (i : Iss) (rd ra rb : Fin 32) (s : State) : Out :=
  s.op2 i (kAdd i rd ra rb) true rd ra rb 1 fun a b => (wAdd a b, 0)
def execSub (i : Iss) (rd ra rb : Fin 32) (s : State) : Out :=
  s.op2 i kX true rd ra rb 1 fun a b => (wSub a b, 0)
def execAnd (i : Iss) (rd ra rb : Fin 32) (s : State) : Out :=
  s.op2 i kX true rd ra rb 1 fun a b => (Nat.land a b, 0)
def execOr (i : Iss) (rd ra rb : Fin 32) (s : State) : Out :=
  s.op2 i kX true rd ra rb 1 fun a b => (Nat.lor a b, 0)
def execXor (i : Iss) (rd ra rb : Fin 32) (s : State) : Out :=
  s.op2 i kX true rd ra rb 1 fun a b => (Nat.xor a b, 0)
def execShl (i : Iss) (rd ra rb : Fin 32) (s : State) : Out :=
  s.op2 i kX true rd ra rb 1 fun a b => (wShl a b, 0)
def execShr (i : Iss) (rd ra rb : Fin 32) (s : State) : Out :=
  s.op2 i kX true rd ra rb 1 fun a b => (wShr a b, 0)
def execSar (i : Iss) (rd ra rb : Fin 32) (s : State) : Out :=
  s.op2 i kX true rd ra rb 1 fun a b => (wSar a b, 0)
def execMin (i : Iss) (rd ra rb : Fin 32) (s : State) : Out :=
  s.op2 i kX true rd ra rb 1 fun a b => (wMin a b, 0)
def execMax (i : Iss) (rd ra rb : Fin 32) (s : State) : Out :=
  s.op2 i kX true rd ra rb 1 fun a b => (wMax a b, 0)

/-- `sel`: predicate `q` chooses. -/
def execSel (i : Iss) (q : Fin 8) (rd ra rb : Fin 32) (s : State) : Out :=
  s.issue i kX true fun n s => s.result i 1 rd (if s.pr n q then s.gr n ra else s.gr n rb)

/-! ### Multiply and divide (R229) -/

def wMulh (a b : Nat) : Nat := ofInt 32 (toInt 32 a * toInt 32 b / (2 ^ 32 : Nat))

def wDiv (a b : Nat) : Nat × Nat :=
  if b = 0 then (if toInt 32 a < 0 then 0x80000000 else 0x7FFFFFFF, flDZ)
  else
    let q := (toInt 32 a).tdiv (toInt 32 b)
    (ofInt 32 (satI 32 q), if satI 32 q = q then 0 else flSAT)
def wDivu (a b : Nat) : Nat × Nat := if b = 0 then (0xFFFFFFFF, flDZ) else (a / b, 0)
def wRem (a b : Nat) : Nat × Nat := if b = 0 then (a, flDZ) else (ofInt 32 ((toInt 32 a).tmod (toInt 32 b)), 0)

def execMul (i : Iss) (rd ra rb : Fin 32) (s : State) : Out :=
  s.op2 i kX true rd ra rb 3 fun a b => (a * b % 2 ^ 32, 0)
def execMulh (i : Iss) (rd ra rb : Fin 32) (s : State) : Out :=
  s.op2 i kX true rd ra rb 3 fun a b => (wMulh a b, 0)
def execDiv (i : Iss) (rd ra rb : Fin 32) (s : State) : Out :=
  s.op2 i kX true rd ra rb 18 fun a b => wDiv a b
def execDivu (i : Iss) (rd ra rb : Fin 32) (s : State) : Out :=
  s.op2 i kX true rd ra rb 18 fun a b => wDivu a b
def execRem (i : Iss) (rd ra rb : Fin 32) (s : State) : Out :=
  s.op2 i kX true rd ra rb 18 fun a b => wRem a b

/-! ### Saturating and fixed point (R230) -/

/-- A value limited to 32 bits, with SAT when it was. -/
def sat32 (v : Int) : Nat × Nat := (ofInt 32 (satI 32 v), if satI 32 v = v then 0 else flSAT)

/-- Two elements limited to 16 bits. -/
def sat16x2 (x y : Int) : Nat × Nat :=
  (ofInt 16 (satI 16 x) + 65536 * ofInt 16 (satI 16 y), if satI 16 x = x ∧ satI 16 y = y then 0 else flSAT)

/-- Elements of a q15x2 word (R217). -/
def el0 (a : Nat) : Int := toInt 16 a
def el1 (a : Nat) : Int := toInt 16 (a / 65536)

def execAdds (i : Iss) (rd ra rb : Fin 32) (s : State) : Out :=
  s.op2 i kX true rd ra rb 1 fun a b => sat32 (toInt 32 a + toInt 32 b)
def execSubs (i : Iss) (rd ra rb : Fin 32) (s : State) : Out :=
  s.op2 i kX true rd ra rb 1 fun a b => sat32 (toInt 32 a - toInt 32 b)
def execAbss (i : Iss) (rd ra rb : Fin 32) (s : State) : Out :=
  s.op2 i kX (rb == 0) rd ra rb 1 fun a _ => sat32 (toInt 32 a).natAbs
def execQmul (i : Iss) (rd ra rb : Fin 32) (s : State) : Out :=
  s.op2 i kX true rd ra rb 3 fun a b => sat32 ((toInt 32 a * toInt 32 b + 1073741824) / 2147483648)
def execAdd2 (i : Iss) (rd ra rb : Fin 32) (s : State) : Out :=
  s.op2 i kX true rd ra rb 1 fun a b => sat16x2 (el0 a + el0 b) (el1 a + el1 b)
def execSub2 (i : Iss) (rd ra rb : Fin 32) (s : State) : Out :=
  s.op2 i kX true rd ra rb 1 fun a b => sat16x2 (el0 a - el0 b) (el1 a - el1 b)
def execMul2 (i : Iss) (rd ra rb : Fin 32) (s : State) : Out :=
  s.op2 i kX true rd ra rb 3 fun a b => sat16x2 ((el0 a * el0 b + 16384) / 32768) ((el1 a * el1 b + 16384) / 32768)
def execPack (i : Iss) (rd ra rb : Fin 32) (s : State) : Out :=
  s.op2 i kX true rd ra rb 1 fun a b => sat16x2 ((toInt 32 a + 32768) / 65536) ((toInt 32 b + 32768) / 65536)

/-! ### Multiply-accumulate (R231, R232) -/

/-- An accumulator as the next MAC accumulates onto it, and as `accr` sees it. -/
def State.accNow (s : State) (n k : Nat) : Int := toInt 72 (Tbl.get (fun _ => (0 : Acc72)) (s.core n).accIn k).toNat
def State.accSeen (s : State) (n k : Nat) : Int := toInt 72 (Tbl.get (fun _ => (0 : Acc72)) (s.core n).acc k).toNat

/-- A value limited to 72 bits: beyond 2^71 - 1 in magnitude it saturates. -/
def satAcc (v : Int) : Int := max (-2361183241434822606847) (min 2361183241434822606847 v)

/-- A result in flight to accumulator `k` that is due at `t` or later. -/
def Flight.accAt (k t : Nat) (f : Flight) : Bool :=
  match f.dst with
  | .acc j _ => j == k && decide (t ≤ f.due)
  | _ => false

/-- A new value of accumulator `k`, seen by `accr` after `lat` cycles; earlier values still on their way to it are lost. -/
def State.setAcc (s : State) (i : Iss) (n k lat : Nat) (v : Int) : State :=
  let c := s.core n
  let w := BitVec.ofInt 72 (satAcc v)
  let s := s.setCore n { c with
    accIn := Tbl.set (fun _ => 0) c.accIn k w
    fly := c.fly.filter fun f => !f.accAt k (c.now + lat) }
  let s := s.deliverTo i lat (.acc k w)
  s.when (satAcc v != v) fun s => s.deliverTo i lat (.flags (BitVec.ofNat 8 flAOV))

/-- A MAC: `f` gives the new value from the accumulator and the operands; RD[4:2] must be 0. -/
def State.macOp (s : State) (i : Iss) (rd ra rb : Fin 32) (f : Int → Nat → Nat → Int) : Out :=
  s.issue i kX (decide (rd.val < 4)) fun n s => s.setAcc i n rd 3 (f (s.accNow n rd) (s.gr n ra) (s.gr n rb))

def execMac (i : Iss) (rd ra rb : Fin 32) (s : State) : Out :=
  s.macOp i rd ra rb fun c a b => c + toInt 32 a * toInt 32 b
def execMacu (i : Iss) (rd ra rb : Fin 32) (s : State) : Out := s.macOp i rd ra rb fun c a b => c + (a * b : Nat)
def execMpy (i : Iss) (rd ra rb : Fin 32) (s : State) : Out := s.macOp i rd ra rb fun _ a b => toInt 32 a * toInt 32 b
def execQmac (i : Iss) (rd ra rb : Fin 32) (s : State) : Out :=
  s.macOp i rd ra rb fun c a b => c + 2 * (toInt 32 a * toInt 32 b)
def execMac2 (i : Iss) (rd ra rb : Fin 32) (s : State) : Out :=
  s.macOp i rd ra rb fun c a b => c + (el0 a * el0 b + el1 a * el1 b)

/-- `accr`: the accumulator, rounded when RND is set, shifted right and limited to 32 bits. -/
def accShift (v : Int) (sh : Nat) (rnd : Bool) : Nat × Nat :=
  sat32 ((v + (if rnd && sh != 0 then 2 ^ (sh - 1) else 0 : Nat)) / (2 ^ sh : Nat))

def execAccr (i : Iss) (rd ra : Fin 32) (k : BitVec 12) (s : State) : Out :=
  let k := k.toNat
  s.issue i kX (ra == 0 && decide (k % 128 ≤ 71 ∧ k < 1024)) fun n s =>
    let x := accShift (s.accSeen n (bitsOf k 7 2)) (k % 128) (k.testBit 9)
    s.result i 2 rd x.1 x.2

def execAccw (i : Iss) (rd ra : Fin 32) (k : BitVec 12) (s : State) : Out :=
  let k := k.toNat
  s.issue i kX (rd == 0 && decide (k % 128 ≤ 39 ∧ k < 512)) fun n s =>
    s.setAcc i n (bitsOf k 7 2) 1 (s.gi n ra * (2 ^ (k % 128) : Nat))

/-! ### Float (R233) -/

def execFadd (i : Iss) (rd ra rb : Fin 32) (s : State) : Out :=
  s.op2 i kF true rd ra rb 4 fun a b => fAdd a b
def execFsub (i : Iss) (rd ra rb : Fin 32) (s : State) : Out :=
  s.op2 i kF true rd ra rb 4 fun a b => fSub a b
def execFmul (i : Iss) (rd ra rb : Fin 32) (s : State) : Out :=
  s.op2 i kF true rd ra rb 4 fun a b => fMul a b
def execFdiv (i : Iss) (rd ra rb : Fin 32) (s : State) : Out :=
  s.op2 i kF true rd ra rb 12 fun a b => fDiv a b

/-- `fmadd`; whether infinity times zero plus a quiet NaN is invalid is left open. -/
def execFmadd (i : Iss) (rd ra rb : Fin 32) (s : State) : Out :=
  s.issue i kF true fun n s =>
    let x := fMadd (s.gr n rd) (s.gr n ra) (s.gr n rb) (s.freeNat 1 == 1)
    s.drawn.result i 5 rd x.1 x.2

def execFmin (i : Iss) (rd ra rb : Fin 32) (s : State) : Out :=
  s.op2 i kF true rd ra rb 1 fun a b => (fPick true a b, 0)
def execFmax (i : Iss) (rd ra rb : Fin 32) (s : State) : Out :=
  s.op2 i kF true rd ra rb 1 fun a b => (fPick false a b, 0)

/-- A float operation of one operand: RB must be 0. -/
def State.op1 (s : State) (i : Iss) (rd ra rb : Fin 32) (lat : Nat) (f : Nat → Nat × Nat) : Out :=
  s.op2 i kF (rb == 0) rd ra rb lat fun a _ => f a

def execFabs (i : Iss) (rd ra rb : Fin 32) (s : State) : Out := s.op1 i rd ra rb 1 fun a => (fAbs a, 0)
def execFcvtFi (i : Iss) (rd ra rb : Fin 32) (s : State) : Out := s.op1 i rd ra rb 3 fun a => fOfInt (toInt 32 a)
def execFcvtIf (i : Iss) (rd ra rb : Fin 32) (s : State) : Out := s.op1 i rd ra rb 3 fToInt

/-! ### Compare to predicate (R234) -/

/-- A compare's result goes to predicate RD[2:0] in mode RD[4:3]. -/
def State.setPred (s : State) (i : Iss) (n : Nat) (rd : Fin 32) (v : Bool) : State :=
  let k := rd.val % 8
  let v := match rd.val / 8 with
    | 0 => v
    | 1 => s.pr n k && v
    | _ => s.pr n k || v
  s.deliverTo i 1 (.pred k v)

/-- A compare: `f` gives the result and the flags; mode 3 is reserved. -/
def State.cmpOp (s : State) (i : Iss) (k : Kind) (ok : Bool) (rd : Fin 32) (f : Nat → State → Bool × Nat) : Out :=
  s.issue i k (decide (rd.val / 8 ≠ 3) && ok) fun n s =>
    let x := f n s
    let s := s.setPred i n rd x.1
    s.when (x.2 != 0) fun s => s.deliverTo i 1 (.flags (BitVec.ofNat 8 x.2))

def execCeq (i : Iss) (rd ra rb : Fin 32) (s : State) : Out :=
  s.cmpOp i kX true rd fun n s => (s.gr n ra == s.gr n rb, 0)
def execCne (i : Iss) (rd ra rb : Fin 32) (s : State) : Out :=
  s.cmpOp i kX true rd fun n s => (s.gr n ra != s.gr n rb, 0)
def execClt (i : Iss) (rd ra rb : Fin 32) (s : State) : Out :=
  s.cmpOp i kX true rd fun n s => (decide (s.gi n ra < s.gi n rb), 0)
def execCltu (i : Iss) (rd ra rb : Fin 32) (s : State) : Out :=
  s.cmpOp i kX true rd fun n s => (decide (s.gr n ra < s.gr n rb), 0)
def execFceq (i : Iss) (rd ra rb : Fin 32) (s : State) : Out :=
  s.cmpOp i kF true rd fun n s => (fEq (s.gr n ra) (s.gr n rb), 0)
def execFclt (i : Iss) (rd ra rb : Fin 32) (s : State) : Out :=
  s.cmpOp i kF true rd fun n s => fOrd false (s.gr n ra) (s.gr n rb)
def execFcle (i : Iss) (rd ra rb : Fin 32) (s : State) : Out :=
  s.cmpOp i kF true rd fun n s => fOrd true (s.gr n ra) (s.gr n rb)

/-- An operation on predicates: RA[4:3] and RB[4:3] must be 0. -/
def State.predOp (s : State) (i : Iss) (rd ra rb : Fin 32) (f : Bool → Bool → Bool) : Out :=
  s.cmpOp i kX (decide (ra.val < 8 ∧ rb.val < 8)) rd fun n s => (f (s.pr n ra) (s.pr n rb), 0)

def execPand (i : Iss) (rd ra rb : Fin 32) (s : State) : Out := s.predOp i rd ra rb (· && ·)
def execPor (i : Iss) (rd ra rb : Fin 32) (s : State) : Out := s.predOp i rd ra rb (· || ·)
def execPxor (i : Iss) (rd ra rb : Fin 32) (s : State) : Out := s.predOp i rd ra rb (· != ·)

def execCeqi (i : Iss) (rd ra : Fin 32) (imm : BitVec 12) (s : State) : Out :=
  s.cmpOp i kX true rd fun n s => (s.gi n ra == imm.toInt, 0)
def execClti (i : Iss) (rd ra : Fin 32) (imm : BitVec 12) (s : State) : Out :=
  s.cmpOp i kX true rd fun n s => (decide (s.gi n ra < imm.toInt), 0)

/-! ### Immediates (R235) -/

/-- An operation of a register and an immediate. -/
def State.opI (s : State) (i : Iss) (ok : Bool) (rd ra : Fin 32) (f : Nat → Nat) : Out :=
  s.issue i kX ok fun n s => s.result i 1 rd (f (s.gr n ra))

def execAddi (i : Iss) (rd ra : Fin 32) (imm : BitVec 12) (s : State) : Out :=
  s.opI i true rd ra fun a => ofInt 32 (a + imm.toInt)
def execAndi (i : Iss) (rd ra : Fin 32) (imm : BitVec 12) (s : State) : Out := s.opI i true rd ra fun a => Nat.land a imm.toNat
def execOri (i : Iss) (rd ra : Fin 32) (imm : BitVec 12) (s : State) : Out := s.opI i true rd ra fun a => Nat.lor a imm.toNat
def execShli (i : Iss) (rd ra : Fin 32) (imm : BitVec 12) (s : State) : Out :=
  s.opI i (decide (imm.toNat < 32)) rd ra fun a => wShl a imm.toNat
def execShri (i : Iss) (rd ra : Fin 32) (imm : BitVec 12) (s : State) : Out :=
  s.opI i (decide (imm.toNat < 32)) rd ra fun a => wShr a imm.toNat

/-- `lil` and `lih`: bit [16] must be 0. -/
def execLil (i : Iss) (rd : Fin 32) (imm : BitVec 17) (s : State) : Out :=
  s.issue i kX (decide (imm.toNat < 65536)) fun _ s => s.result i 1 rd (ofInt 32 (toInt 16 imm.toNat))
def execLih (i : Iss) (rd : Fin 32) (imm : BitVec 17) (s : State) : Out :=
  s.issue i kX (decide (imm.toNat < 65536)) fun n s => s.result i 1 rd (s.gr n rd % 65536 + imm.toNat * 65536)

end Sys2Proof.Machine
end

