-- ==== Sys2Proof/Machine/Control.lean ====
section
/-! DEFINITION. Machine/Control.lean: loads and stores, branches, snapshots, the modulator, the control units, time, fault, trace and
temperature instructions, task end, special reads and privileged instructions (08_qorov_instruction_set.md R236 to R251). -/
namespace Sys2Proof.Machine

/-! ### Families of the M slot and of the Aster engines (R226) -/

def kM : Kind := { slot := .m }
def kMA : Kind := { slot := .m, safety := false }
def kML : Kind := { slot := .m, aster := false, safety := false }
def kXL : Kind := { slot := .x, aster := false, safety := false }
def kA : Kind := { slot := .none, safety := false }
def kP (cost : Nat) : Kind := { slot := .none, cost := cost }
def kB : Kind := { slot := .m, cost := 2 }

/-! ### Loads and stores (R236, R237) -/

/-- A load of `k` bytes, its value formed by `f`. -/
def State.loadOp (s : State) (i : Iss) (rt ra : Fin 32) (ofs : BitVec 12) (k : Nat) (ue : Bool) (f : Nat → Nat) : Out :=
  s.issue i kM true fun n s => s.loadAt n (s.effAddr n ra ofs k) k ue fun v s => s.result i 2 rt (f v)

def execLdw (i : Iss) (rt ra : Fin 32) (ofs : BitVec 12) (ue : Bool) (s : State) : Out := s.loadOp i rt ra ofs 4 ue fun v => v
def execLdh (i : Iss) (rt ra : Fin 32) (ofs : BitVec 12) (ue : Bool) (s : State) : Out :=
  s.loadOp i rt ra ofs 2 ue fun v => ofInt 32 (toInt 16 v)
def execLdhu (i : Iss) (rt ra : Fin 32) (ofs : BitVec 12) (ue : Bool) (s : State) : Out :=
  s.loadOp i rt ra ofs 2 ue fun v => v % 65536
def execLdbu (i : Iss) (rt ra : Fin 32) (ofs : BitVec 12) (ue : Bool) (s : State) : Out :=
  s.loadOp i rt ra ofs 1 ue fun v => v % 256

/-- A store of `k` bytes. -/
def State.storeOp (s : State) (i : Iss) (rt ra : Fin 32) (ofs : BitVec 12) (k : Nat) : Out :=
  s.issue i kM true fun n s => s.storeAt i (s.effAddr n ra ofs k) k (s.gr n rt)

def execStw (i : Iss) (rt ra : Fin 32) (ofs : BitVec 12) (s : State) : Out := s.storeOp i rt ra ofs 4
def execSth (i : Iss) (rt ra : Fin 32) (ofs : BitVec 12) (s : State) : Out := s.storeOp i rt ra ofs 2
def execStb (i : Iss) (rt ra : Fin 32) (ofs : BitVec 12) (s : State) : Out := s.storeOp i rt ra ofs 1

/-- `prf`: the block enters the read buffer when the regions allow its address for reading. -/
def execPrf (i : Iss) (rt ra : Fin 32) (ofs : BitVec 12) (s : State) : Out :=
  s.issue i kA (rt == 0) fun n s =>
    let a := s.effAddr n ra ofs 32
    s.when (s.allowed n a .r && inMem a) fun s => s.setCore n { s.core n with rbuf := some (a / 32) }

/-! ### Branches (R223, R238) -/

/-- Bytes of a bundle, or of an instruction. -/
def fetchUnit (n : Nat) : Nat := if n < 16 then 8 else 4

/-- The address of the bundle or instruction that follows. -/
def State.link (s : State) (n : Nat) : Nat := ((s.core n).pc.toNat + fetchUnit n) % 2 ^ 32

/-- A branch to `t`; `lr` takes the link. -/
def State.branch (s : State) (i : Iss) (t : Nat) (lr : Option Nat) : State :=
  let n := i.core.val
  if !inProgram n t then s.raise n 2 t
  else
    let l := s.link n
    let s := s.setCore n { s.core n with next := t }
    match lr with
    | none => s
    | some r => s.result i 1 r l

/-- The target of a displacement. -/
def State.brTarget (s : State) (n : Nat) (disp : BitVec 22) : Nat := ofInt 32 ((s.core n).pc.toNat + disp.toInt * fetchUnit n)

def execBr (i : Iss) (disp : BitVec 22) (s : State) : Out :=
  s.issue i kB true fun n s => s.branch i (s.brTarget n disp) none
def execBrl (i : Iss) (disp : BitVec 22) (s : State) : Out :=
  s.issue i kB true fun n s => s.branch i (s.brTarget n disp) (some 31)
def execJr (i : Iss) (rd ra : Fin 32) (k : BitVec 12) (s : State) : Out :=
  s.issue i kB (rd == 0 && k == 0) fun n s => s.branch i (s.gr n ra) none
def execJrl (i : Iss) (rd ra : Fin 32) (k : BitVec 12) (s : State) : Out :=
  s.issue i kB (k == 0) fun n s => s.branch i (s.gr n ra) (some rd.val)

/-! ### Snapshots (R239; 07_lupin_engines.md R193 to R196) -/

/-- Cells that slot `j` of engine `n` declares. -/
def State.slotCells (s : State) (n j : Nat) : List Nat :=
  ((List.range 12).map fun k => bitsOf (s.reg (ENG_TASK_CELLS0 n j + 4 * (k / 4))) (8 * (k % 4)) 8).filter (· != 0xFF)

/-- The cycle whose swaps the declared cells' chains have begun but not all completed (R195): the one in progress, or the one before
when swaps of it fall into the present one. -/
def State.straddles (s : State) (cells : List Nat) : Option Int :=
  let es := (((cells.map (· / 8)).eraseDups.flatMap cellsOf).filter s.swaps)
  let begun := fun (m : Int) => es.any fun c => decide (m ≤ (s.cstE c).done)
  if (es.any s.spills) && begun (s.cycNow - 1) then some (s.cycNow - 1)
  else if begun s.cycNow && es.any fun c => decide ((s.cstE c).done < s.cycNow) then some s.cycNow
  else none

/-- The snapshot view of slot `j`: the pinned copy of each entry, and STRADDLE. -/
def State.makeView (s : State) (n j : Nat) : List (Nat × Nat × Bool) × Bool :=
  let cells := (s.slotCells n j).eraseDups
  let st := s.straddles cells
  (cells.map fun c => (c, if st == some (s.cstE c).done && (s.cstE c).exch then 1 - (s.cstE c).cur else (s.cstE c).cur, false),
    st.isSome)

/-- The view of the running release, fixed by its first `csnap`. -/
def State.viewOf (s : State) (n j : Nat) : List (Nat × Nat × Bool) × Bool := (s.eng n).view.getD (s.makeView n j)

/-- Bytes 0x00 to 0x5F of a copy, with STRADDLE set in the status word when `st`. -/
def State.snapBytes (s : State) (a : Nat) (st : Bool) : List Byte :=
  let bs := s.bytes a 0x60
  if st then bs.set 0x58 ((bs[0x58]?).getD 0 ||| 4) else bs

/-- A `csnap` of a declared cell to address `d` of data memory. -/
def State.snapshot (s : State) (i : Iss) (c d : Nat) (ue : Bool) : State :=
  let n := i.core.val
  let v := s.viewOf n (s.core n).tsk
  let s := s.setEng n { s.eng n with view := some v }
  let (bank, past) := ((v.1.find? fun x => x.1 == c).map (·.2)).getD ((s.cstE c).cur, false)
  let s := s.when past fun s => (s.bump (ENG_SNAPCNT_TORN n)).post srcLOOP n 4 clsTIMING 1 c
  let st := v.2 && !past
  let s := s.when st fun s => s.bump LOOP_SNAP_CNT_STRADDLE
  let a := if past then s.cstCom c else cstAddr bank c
  let s := s.when ue fun s => s.postUe a
  s.deliverTo i 6 (.data (dataBase n + d) (s.snapBytes a st))

/-- `csnap`: cell ra + K[7:0], destination in RD. -/
def execCsnap (i : Iss) (rd ra : Fin 32) (k : BitVec 12) (ue : Bool) (s : State) : Out :=
  s.issue i kML (decide (k.toNat < 256)) fun n s =>
    let c := wAdd (s.gr n ra) k.toNat
    let d := s.gr n rd
    if d % 16 ≠ 0 ∨ 0x10000 < d + 96 then s.raise n 2 d
    else if !(s.slotCells n (s.core n).tsk).contains c || decide (192 ≤ c) then s.raise n 3
    else s.snapshot i c d ue

/-! ### Modulator (R240, R241) -/

/-- `msh`: register RD to field K[11:10] of channel ra + K[9:0]. -/
def execMsh (i : Iss) (rd ra : Fin 32) (k : BitVec 12) (s : State) : Out :=
  s.issue i kML true fun n s =>
    let ch := wAdd (s.gr n ra) (k.toNat % 1024)
    let f := k.toNat / 1024
    let v := s.gr n rd
    if 784 ≤ ch then s.raise n 2 ch
    else if s.on (chOwnEn ch) && s.rd (chOwner ch) != n then s.raise n 2 ch
    else if !s.hasChan ch then s
    else if !shadowOk ch f v then s.reserved (chShadow ch f)
    else s.putShadow ch f v

def execLdall (i : Iss) (rd ra : Fin 32) (k : BitVec 12) (s : State) : Out :=
  s.issue i kML (rd == 0 && k == 0) fun n s => s.capture (s.gr n ra)

/-! ### Control units (R242; 07_lupin_engines.md R199 to R201) -/

/-- The gain between two points. -/
def lerp (p q : Int) (f sh : Nat) : Int := p + ((q - p) * f + (2 ^ (sh - 1) : Nat)) / (2 ^ sh : Nat)

/-- The gain of table `t` at error `e` (R200). -/
def State.gain (s : State) (n t e : Nat) : Int :=
  let v := toInt 32 e
  let x := min 2147483647 v.natAbs * 2 ^ s.glutAct n (2048 + t)
  let pt := fun i => toInt 16 (s.glutAct n (512 * t + i))
  let asym := s.glutAct n (2052 + t) == 1
  let neg := asym && decide (v < 0)
  if 2147483648 ≤ x then (if neg then pt 0 else pt 256)
  else if asym then
    let i := x / 2 ^ 24
    if neg then lerp (pt (128 - i)) (pt (127 - i)) (x % 2 ^ 24) 24 else lerp (pt (128 + i)) (pt (129 + i)) (x % 2 ^ 24) 24
  else lerp (pt (x / 2 ^ 23)) (pt (x / 2 ^ 23 + 1)) (x % 2 ^ 23) 23

def execGlut (i : Iss) (rd ra : Fin 32) (k : BitVec 12) (s : State) : Out :=
  s.issue i kXL (decide (k.toNat < 4)) fun n s => s.result i 4 rd (ofInt 32 (s.gain n k.toNat (s.gr n ra)))

/-- A step of the generator and the position it returns; an exception of the other slot takes the step back (07_lupin_engines.md R190). -/
def State.pstepOp (s : State) (i : Iss) (rd : Fin 32) (t : Option Nat) : State :=
  let n := i.core.val
  let x := s.pgenBack n
  let s := s.pstep n (s.core n).tsk t
  let after := if s.rd (PGEN_CFG_SLOT n) ≠ (s.core n).tsk then 2 else 1
  let s := s.setCore n { s.core n with pgWas := some x, after := after }
  s.result i 8 rd (s.reg (PGEN_POS n))

def execPstepKeep (i : Iss) (rd ra : Fin 32) (k : BitVec 11) (s : State) : Out :=
  s.issue i kXL (ra == 0 && k == 0) fun _ s => s.pstepOp i rd none
def execPstepTarget (i : Iss) (rd ra : Fin 32) (k : BitVec 11) (s : State) : Out :=
  s.issue i kXL (k == 0) fun n s => s.pstepOp i rd (some (s.gr n ra))

/-! ### Time (R243, R244; 01_architecture.md R23), in units of 2^-24 ns -/

/-- The timebase replica: how far it stands behind the timebase, at most 8 ns, is left open; it does not go back. -/
def State.replica (s : State) (n : Nat) : Nat :=
  let v := s.tb - s.freeNat 28 % (8 * 2 ^ 24 + 1)
  if (s.core n).snap ≤ s.tb then max v (s.core n).snap else v

/-- A part of a snapshot. -/
def snapPart (v sel : Nat) : Nat :=
  let ns := v / 2 ^ 24
  match sel with
  | 0 => ns % 1000000000 + ns / 1000000000 % 4 * 2 ^ 30
  | 1 => ns / 1000000000 % 2 ^ 32
  | 2 => ns / 1000000000 / 2 ^ 32 % 2 ^ 16
  | 3 => v % 2 ^ 24
  | _ => ns / 1000 % 2 ^ 32

/-- `tbrd` with SEL and K[11:3]. -/
def State.tbrd (s : State) (i : Iss) (rd : Fin 32) (sel k : Nat) : Out :=
  s.issue i kMA (decide (sel < 5 ∧ k = 0)) fun n s =>
    let s := s.when (sel == 0) fun s => (s.setCore n { s.core n with snap := s.replica n }).drawn
    s.result i 2 rd (snapPart (s.core n).snap sel)

def execTbrdSnapshot (i : Iss) (rd : Fin 32) (k : BitVec 9) (s : State) : Out := s.tbrd i rd 0 k.toNat
def execTbrdPart (i : Iss) (rd : Fin 32) (sel : BitVec 3) (k : BitVec 9) (s : State) : Out := s.tbrd i rd sel.toNat k.toNat

/-- What a `wait` returns: whole ns past the target, saturated. -/
def overshoot (v t : Nat) : Nat := satN 32 ((v - t) / 2 ^ 24)

/-- `wait` for seconds rb and nanoseconds ra[29:0]. -/
def execWait (i : Iss) (rd ra rb : Fin 32) (s : State) : Out :=
  s.issue i kA true fun n s =>
    let t := (s.gr n rb * 1000000000 + min 999999999 (s.gr n ra % 2 ^ 30)) * 2 ^ 24
    let v := s.replica n
    let s := s.drawn
    if t ≤ v then s.result i 1 rd (overshoot v t) else s.setCore n { s.core n with wait := some (rd.val, t) }

/-- The replica of SE`k` reaches the target of its `wait`. -/
def execWaitEnd (k : Fin 4) (s : State) : Out :=
  let n := 16 + k.val
  .next (match (s.core n).wait with
    | none => s
    | some (rd, t) => s.when (s.engSt n == 2 && !s.gated n && decide (t ≤ s.tb)) fun s =>
      let v := max t (s.replica n)
      let s := (s.setCore n { s.core n with wait := none }).drawn
      s.land n ⟨0, 0, .gpr rd (BitVec.ofNat 32 (overshoot v t))⟩)

/-! ### Fault, trace, temperature (R245, R246) -/

/-- `fpost`: class RD[3:0], kind K[11:4], severity K[2:0]. -/
def execFpost (i : Iss) (rd ra : Fin 32) (k : BitVec 12) (s : State) : Out :=
  let k := k.toNat
  s.issue i kM (decide (rd.val ≤ 12 ∧ k % 16 ≤ 5)) fun n s => s.post srcPROG n (k / 16) rd (k % 8) (s.gr n ra % 2 ^ 31)

/-- `tprb`: a record of probe K[5:0] (19_host_interface_and_trace.md R501). -/
def execTprb (i : Iss) (rd ra : Fin 32) (k : BitVec 12) (s : State) : Out :=
  let p := k.toNat
  s.issue i kMA (rd == 0 && decide (p < 64)) fun n s =>
    s.when (s.on (TRC_PROBE_EN p) && s.rd (TRC_PROBE_SRC p) == 0) fun s =>
      s.makeRec p 0 n (s.gr n ra) ((s.core n).pc.toNat % 65536)

def execTmeas (i : Iss) (rd _ra : Fin 32) (k : BitVec 12) (s : State) : Out :=
  s.issue i kMA (decide (k.toNat < 12)) fun _ s =>
    let s := s.thmStart k.toNat
    s.result i 2 rd (s.reg (THM_RES k.toNat))

/-! ### Task end (R247; 07_lupin_engines.md R185, R188, R191) -/

/-- MAXCYC and BUDGET of a release that has taken `c` cycles. -/
def State.countCycles (s : State) (n j c : Nat) : State :=
  let s := s.wr (ENG_TASK_MAXCYC_CYCLES n j) (max (s.rd (ENG_TASK_MAXCYC_CYCLES n j)) (satN 24 c))
  s.when (decide (s.rd (ENG_TASK_BUDGET_CYCLES n j) < c)) fun s =>
    (s.bump (ENG_TASK_MAXCYC_BUDEX n j)).post srcLOOP n 2 clsTIMING 0 (8 * n + j)

/-- The running task ends; results in flight to its registers still reach them at their latencies (R222), those to data memory are in place
before its OUT descriptors start. -/
def State.taskEnd (s : State) (n : Nat) : State :=
  let j := (s.core n).tsk
  let c := (s.core n).cyc.toNat + 1
  let s := ((s.landData n).countCycles n j c).takeRegions n j
  let s := s.setEng n { s.eng n with stage := (s.eng n).stage ++ s.descs n j true, view := none, off := false }
  (s.engIdle n).powerCheck

def execTend (i : Iss) (rd ra : Fin 32) (k : BitVec 12) (s : State) : Out :=
  s.issue i kML (rd == 0 && ra == 0 && k == 0) fun n s => s.taskEnd n

/-! ### Special read (R215, R248) -/

/-- A read of cyc of an Aster engine or a safety core: the periods that its waits, for operands, for arbitration, at rest, took since the last
read join the count; how many they are is left open (R205, R224, notes/assumptions/81.md). -/
def State.cycWaits (s : State) (n : Nat) : State :=
  (s.setCore n { s.core n with cyc := (s.core n).cyc + BitVec.ofNat 32 (s.freeNat 32) }).drawn

/-- Special register `r`: pc, tsk, cyc, fl. -/
def State.special (s : State) (n r : Nat) : Nat :=
  let c := s.core n
  match r with
  | 0 => c.pc.toNat
  | 1 => if n < 16 then c.tsk else if n < 20 then 128 + n else 64 + (n - 20)
  | 2 => c.cyc.toNat
  | _ => c.fl.toNat

/-- `mfs` by its K field; CLR is valid only with fl. -/
def State.mfs (s : State) (i : Iss) (rd : Fin 32) (k : Nat) : Out :=
  s.issue i kX (decide (k < 4 ∨ k = 7)) fun n s =>
    let s := s.when (k == 2 && decide (16 ≤ n)) fun s => s.cycWaits n
    let v := s.special n (k % 4)
    let s := s.when (k == 7) fun s => s.setCore n { s.core n with fl := 0 }
    s.result i 1 rd v

def execMfs (i : Iss) (rd _ra : Fin 32) (k : BitVec 12) (s : State) : Out := s.mfs i rd k.toNat
def execMfsClear (i : Iss) (rd _ra : Fin 32) (k : BitVec 12) (s : State) : Out := s.mfs i rd k.toNat

/-! ### Privileged instructions (R249, R250); `k` is K[11:3] -/

/-- A privileged instruction in user mode raises cause 4. -/
def State.priv (s : State) (n : Nat) (f : State → State) : State :=
  if (s.core n).status.getLsbD 1 then f s else s.raise n 4

def execRfe (i : Iss) (rd ra : Fin 32) (k : BitVec 9) (s : State) : Out :=
  s.issue i (kP 2) (rd == 0 && ra == 0 && k == 0) fun n s => s.priv n fun s =>
    let c := s.core n
    let st := c.status.toNat
    s.setCore n { c with
      status := BitVec.ofNat 32 (bitsOf st 3 1 + 2 * bitsOf st 4 1 + 8 * bitsOf st 3 2)
      next := c.epc.toNat }

def execIdle (i : Iss) (rd ra : Fin 32) (k : BitVec 9) (s : State) : Out :=
  s.issue i (kP 1) (rd == 0 && ra == 0 && k == 0) fun n s => s.priv n fun s => s.setCore n { s.core n with idle := true }

/-- Control register `r` (R249). -/
def CoreS.ctl (c : CoreS) (r : Nat) : Word :=
  match r with
  | 0 => c.status
  | 1 => c.epc
  | 2 => c.ecause
  | 3 => c.badaddr
  | 4 => c.vbase
  | _ => c.scratch

/-- A write of control register `r`: bits that its content does not name stay 0. -/
def CoreS.setCtl (c : CoreS) (r v : Nat) : CoreS :=
  let w := BitVec.ofNat 32 v
  match r with
  | 0 => { c with status := w &&& 0x1F }
  | 1 => { c with epc := w }
  | 2 => { c with ecause := w &&& 0x80001F1F }
  | 3 => { c with badaddr := w }
  | 4 => { c with vbase := w &&& 0xFFFFFE00 }
  | _ => { c with scratch := w }

/-- K[7:4], with K[3] and K[11:8] 0. -/
def subOk (k : BitVec 9) (lim : Nat) : Bool := decide (k.toNat % 2 = 0 ∧ k.toNat / 2 < lim)

def execMfc (i : Iss) (rd ra : Fin 32) (k : BitVec 9) (s : State) : Out :=
  s.issue i (kP 1) (ra == 0 && subOk k 6) fun n s => s.priv n fun s => s.result i 1 rd ((s.core n).ctl (k.toNat / 2)).toNat

/-- An interrupt that STATUS makes takeable is taken before the next instruction (R251). -/
def execMtc (i : Iss) (rd ra : Fin 32) (k : BitVec 9) (s : State) : Out :=
  s.issue i (kP 1) (rd == 0 && subOk k 6) fun n s => s.priv n fun s =>
    let was := s.takeable n
    let s := s.setCore n ((s.core n).setCtl (k.toNat / 2) (s.gr n ra))
    s.when (decide (n < 20) && !was && s.takeable n) fun s => s.takeIrq n

/-- BASE, LIMIT and ATTR of region `r` take effect together. -/
def State.setRegion (s : State) (n r b l t : Nat) : State :=
  ((s.setReg (ENG_REGION_BASE n r) (b / 256 * 256)).setReg (ENG_REGION_LIMIT n r) (l / 256 * 256)).setReg (ENG_REGION_ATTR n r) (t % 32)

def execRgld (i : Iss) (rd ra : Fin 32) (k : BitVec 9) (s : State) : Out :=
  s.issue i (kP 4) (rd == 0 && subOk k 16) fun n s => s.priv n fun s =>
    let a := s.gr n ra
    s.loadAt n a 4 false fun b s => s.loadAt n (wAdd a 4) 4 false fun l s => s.loadAt n (wAdd a 8) 4 false fun t s =>
      s.when (decide (n < 20)) fun s => s.setRegion n (k.toNat / 2) b l t

end Sys2Proof.Machine
end

