-- ==== Sys2Proof/Machine/Dispatch.lean ====
section
/-! DEFINITION. Machine/Dispatch.lean: the meaning of each command, one arm each. -/
namespace Sys2Proof.Machine

/-- The effect of a command on everything but the queue. -/
def exec (i : Instr) (s : State) : Host.Outcome State Fault Refusal :=
  match i with
  | .registerWrite m a v => Sys2Proof.Machine.execRegisterWrite m a v s
  | .unmappedAccess m a size => Sys2Proof.Machine.execUnmappedAccess m a size s
  | .unmappedMemoryAccess m a wr => Sys2Proof.Machine.execUnmappedMemoryAccess m a wr s
  | .d2dFlitReceived ok load => Sys2Proof.Machine.execD2dFlitReceived ok load s
  | .d2dDown => Sys2Proof.Machine.execD2dDown s
  | .stateReqReady forced => Sys2Proof.Machine.execStateReqReady forced s
  | .stateReqArmed forced => Sys2Proof.Machine.execStateReqArmed forced s
  | .stateReqRun forced => Sys2Proof.Machine.execStateReqRun forced s
  | .stateReqStopped forced => Sys2Proof.Machine.execStateReqStopped forced s
  | .stateReqDormant forced => Sys2Proof.Machine.execStateReqDormant forced s
  | .bootLockRetry => Sys2Proof.Machine.execBootLockRetry s
  | .heartbeatMiss => Sys2Proof.Machine.execHeartbeatMiss s
  | .frameStart => Sys2Proof.Machine.execFrameStart s
  | .frameDepart l under => Sys2Proof.Machine.execFrameDepart l under s
  | .cycleGridEnable => Sys2Proof.Machine.execCycleGridEnable s
  | .cycleStart => Sys2Proof.Machine.execCycleStart s
  | .cstSwap c => Sys2Proof.Machine.execCstSwap c s
  | .reportSectionReceived l x => Sys2Proof.Machine.execReportSectionReceived l x s
  | .laneEnable n => Sys2Proof.Machine.execLaneEnable n s
  | .laneDisable n => Sys2Proof.Machine.execLaneDisable n s
  | .laneRearm n => Sys2Proof.Machine.execLaneRearm n s
  | .laneTxcomma n => Sys2Proof.Machine.execLaneTxcomma n s
  | .txeqApply n => Sys2Proof.Machine.execTxeqApply n s
  | .losAssert n => Sys2Proof.Machine.execLosAssert n s
  | .losDeassert n => Sys2Proof.Machine.execLosDeassert n s
  | .cdrLock n => Sys2Proof.Machine.execCdrLock n s
  | .cdrLockLoss n => Sys2Proof.Machine.execCdrLockLoss n s
  | .orderedSetReceived n groups => Sys2Proof.Machine.execOrderedSetReceived n groups s
  | .soloHandover n => Sys2Proof.Machine.execSoloHandover n s
  | .blockReceived n hdr payload => Sys2Proof.Machine.execBlockReceived n hdr payload s
  | .slipWindowEnd n => Sys2Proof.Machine.execSlipWindowEnd n s
  | .laneSlip n => Sys2Proof.Machine.execLaneSlip n s
  | .slipTimeout n => Sys2Proof.Machine.execSlipTimeout n s
  | .recoverEnd n => Sys2Proof.Machine.execRecoverEnd n s
  | .attemptTimeout n => Sys2Proof.Machine.execAttemptTimeout n s
  | .attemptIdleEnd n => Sys2Proof.Machine.execAttemptIdleEnd n s
  | .rearmDue n => Sys2Proof.Machine.execRearmDue n s
  | .joinTimeout n => Sys2Proof.Machine.execJoinTimeout n s
  | .esStart n => Sys2Proof.Machine.execEsStart n s
  | .esRunDone n errs => Sys2Proof.Machine.execEsRunDone n errs s
  | .headerReceived l arr => Sys2Proof.Machine.execHeaderReceived l arr s
  | .headerMissed n p => Sys2Proof.Machine.execHeaderMissed n p s
  | .chainEnable n => Sys2Proof.Machine.execChainEnable n s
  | .chainDisable n => Sys2Proof.Machine.execChainDisable n s
  | .chainRelink n => Sys2Proof.Machine.execChainRelink n s
  | .syncTimeout n => Sys2Proof.Machine.execSyncTimeout n s
  | .mbGo c => Sys2Proof.Machine.execMbGo c s
  | .cellSectionTaken c p f run => Sys2Proof.Machine.execCellSectionTaken c p f run s
  | .cellTokenCheck c p f => Sys2Proof.Machine.execCellTokenCheck c p f s
  | .tokenTimerExpiry c => Sys2Proof.Machine.execTokenTimerExpiry c s
  | .cellFrameStart c => Sys2Proof.Machine.execCellFrameStart c s
  | .leakTestEnd c na => Sys2Proof.Machine.execLeakTestEnd c na s
  | .cellEdgeExecute c => Sys2Proof.Machine.execCellEdgeExecute c s
  | .cellDeadtimeTurnOn c sw => Sys2Proof.Machine.execCellDeadtimeTurnOn c sw s
  | .holdTimeout c => Sys2Proof.Machine.execHoldTimeout c s
  | .cellSample c vdc iarm idab temp von => Sys2Proof.Machine.execCellSample c vdc iarm idab temp von s
  | .cellConversionDone c => Sys2Proof.Machine.execCellConversionDone c s
  | .cellReportWrite c p f resid user => Sys2Proof.Machine.execCellReportWrite c p f resid user s
  | .cellInputLos c p => Sys2Proof.Machine.execCellInputLos c p s
  | .cellOrderedSetForward c p groups => Sys2Proof.Machine.execCellOrderedSetForward c p groups s
  | .desatTrip c sw t mv => Sys2Proof.Machine.execDesatTrip c sw t mv s
  | .bsuvLockout c sw low => Sys2Proof.Machine.execBsuvLockout c sw low s
  | .cellDumpOn c => Sys2Proof.Machine.execCellDumpOn c s
  | .cellDumpOff c => Sys2Proof.Machine.execCellDumpOff c s
  | .modEnable => Sys2Proof.Machine.execModEnable s
  | .modAnchorWrite frame => Sys2Proof.Machine.execModAnchorWrite frame s
  | .modCommit mask => Sys2Proof.Machine.execModCommit mask s
  | .planInstant ch => Sys2Proof.Machine.execPlanInstant ch s
  | .carrierZero ch => Sys2Proof.Machine.execCarrierZero ch s
  | .auxGo => Sys2Proof.Machine.execAuxGo s
  | .budgetEmpty n b => Sys2Proof.Machine.execBudgetEmpty n b s
  | .budgetRestore n => Sys2Proof.Machine.execBudgetRestore n s
  | .debugHalt e => Sys2Proof.Machine.execDebugHalt e s
  | .debugResume e => Sys2Proof.Machine.execDebugResume e s
  | .coreClockStop => Sys2Proof.Machine.execCoreClockStop s
  | .lpwmEdge m => Sys2Proof.Machine.execLpwmEdge m s
  | .lpwmTrip m => Sys2Proof.Machine.execLpwmTrip m s
  | .lpwmRearm m => Sys2Proof.Machine.execLpwmRearm m s
  | .progMemWrite n word v => Sys2Proof.Machine.execProgMemWrite n word v s
  | .engineEnable n => Sys2Proof.Machine.execEngineEnable n s
  | .progCrcDone n => Sys2Proof.Machine.execProgCrcDone n s
  | .engineDisable n => Sys2Proof.Machine.execEngineDisable n s
  | .taskRelease tt => Sys2Proof.Machine.execTaskRelease tt s
  | .taskStart n => Sys2Proof.Machine.execTaskStart n s
  | .engineRestart n => Sys2Proof.Machine.execEngineRestart n s
  | .prefetchInStart tt => Sys2Proof.Machine.execPrefetchInStart tt s
  | .prefetchInDone n d => Sys2Proof.Machine.execPrefetchInDone n d s
  | .outStageDone n => Sys2Proof.Machine.execOutStageDone n s
  | .glutSwapRequest n t => Sys2Proof.Machine.execGlutSwapRequest n t s
  | .pgenInit n => Sys2Proof.Machine.execPgenInit n s
  | .cstopTimeout => Sys2Proof.Machine.execCstopTimeout s
  | .interruptTaken k => Sys2Proof.Machine.execInterruptTaken k s
  | .selfTestStart n => Sys2Proof.Machine.execSelfTestStart n s
  | .selfTestDone n pass => Sys2Proof.Machine.execSelfTestDone n pass s
  | .migrateRequest src dst => Sys2Proof.Machine.execMigrateRequest src dst s
  | .migrationCopyDone => Sys2Proof.Machine.execMigrationCopyDone s
  | .add x rd ra rb => Sys2Proof.Machine.execAdd x rd ra rb s
  | .sub x rd ra rb => Sys2Proof.Machine.execSub x rd ra rb s
  | .and x rd ra rb => Sys2Proof.Machine.execAnd x rd ra rb s
  | .or x rd ra rb => Sys2Proof.Machine.execOr x rd ra rb s
  | .xor x rd ra rb => Sys2Proof.Machine.execXor x rd ra rb s
  | .shl x rd ra rb => Sys2Proof.Machine.execShl x rd ra rb s
  | .shr x rd ra rb => Sys2Proof.Machine.execShr x rd ra rb s
  | .sar x rd ra rb => Sys2Proof.Machine.execSar x rd ra rb s
  | .min x rd ra rb => Sys2Proof.Machine.execMin x rd ra rb s
  | .max x rd ra rb => Sys2Proof.Machine.execMax x rd ra rb s
  | .sel x q rd ra rb => Sys2Proof.Machine.execSel x q rd ra rb s
  | .mul x rd ra rb => Sys2Proof.Machine.execMul x rd ra rb s
  | .mulh x rd ra rb => Sys2Proof.Machine.execMulh x rd ra rb s
  | .div x rd ra rb => Sys2Proof.Machine.execDiv x rd ra rb s
  | .divu x rd ra rb => Sys2Proof.Machine.execDivu x rd ra rb s
  | .rem x rd ra rb => Sys2Proof.Machine.execRem x rd ra rb s
  | .adds x rd ra rb => Sys2Proof.Machine.execAdds x rd ra rb s
  | .subs x rd ra rb => Sys2Proof.Machine.execSubs x rd ra rb s
  | .abss x rd ra rb => Sys2Proof.Machine.execAbss x rd ra rb s
  | .qmul x rd ra rb => Sys2Proof.Machine.execQmul x rd ra rb s
  | .add2 x rd ra rb => Sys2Proof.Machine.execAdd2 x rd ra rb s
  | .sub2 x rd ra rb => Sys2Proof.Machine.execSub2 x rd ra rb s
  | .mul2 x rd ra rb => Sys2Proof.Machine.execMul2 x rd ra rb s
  | .pack x rd ra rb => Sys2Proof.Machine.execPack x rd ra rb s
  | .mac x rd ra rb => Sys2Proof.Machine.execMac x rd ra rb s
  | .macu x rd ra rb => Sys2Proof.Machine.execMacu x rd ra rb s
  | .mpy x rd ra rb => Sys2Proof.Machine.execMpy x rd ra rb s
  | .qmac x rd ra rb => Sys2Proof.Machine.execQmac x rd ra rb s
  | .mac2 x rd ra rb => Sys2Proof.Machine.execMac2 x rd ra rb s
  | .accr x rd ra k => Sys2Proof.Machine.execAccr x rd ra k s
  | .accw x rd ra k => Sys2Proof.Machine.execAccw x rd ra k s
  | .fadd x rd ra rb => Sys2Proof.Machine.execFadd x rd ra rb s
  | .fsub x rd ra rb => Sys2Proof.Machine.execFsub x rd ra rb s
  | .fmul x rd ra rb => Sys2Proof.Machine.execFmul x rd ra rb s
  | .fdiv x rd ra rb => Sys2Proof.Machine.execFdiv x rd ra rb s
  | .fmadd x rd ra rb => Sys2Proof.Machine.execFmadd x rd ra rb s
  | .fmin x rd ra rb => Sys2Proof.Machine.execFmin x rd ra rb s
  | .fmax x rd ra rb => Sys2Proof.Machine.execFmax x rd ra rb s
  | .fabs x rd ra rb => Sys2Proof.Machine.execFabs x rd ra rb s
  | .fcvtFi x rd ra rb => Sys2Proof.Machine.execFcvtFi x rd ra rb s
  | .fcvtIf x rd ra rb => Sys2Proof.Machine.execFcvtIf x rd ra rb s
  | .ceq x rd ra rb => Sys2Proof.Machine.execCeq x rd ra rb s
  | .cne x rd ra rb => Sys2Proof.Machine.execCne x rd ra rb s
  | .clt x rd ra rb => Sys2Proof.Machine.execClt x rd ra rb s
  | .cltu x rd ra rb => Sys2Proof.Machine.execCltu x rd ra rb s
  | .fceq x rd ra rb => Sys2Proof.Machine.execFceq x rd ra rb s
  | .fclt x rd ra rb => Sys2Proof.Machine.execFclt x rd ra rb s
  | .fcle x rd ra rb => Sys2Proof.Machine.execFcle x rd ra rb s
  | .pand x rd ra rb => Sys2Proof.Machine.execPand x rd ra rb s
  | .por x rd ra rb => Sys2Proof.Machine.execPor x rd ra rb s
  | .pxor x rd ra rb => Sys2Proof.Machine.execPxor x rd ra rb s
  | .ceqi x rd ra imm => Sys2Proof.Machine.execCeqi x rd ra imm s
  | .clti x rd ra imm => Sys2Proof.Machine.execClti x rd ra imm s
  | .addi x rd ra imm => Sys2Proof.Machine.execAddi x rd ra imm s
  | .andi x rd ra imm => Sys2Proof.Machine.execAndi x rd ra imm s
  | .ori x rd ra imm => Sys2Proof.Machine.execOri x rd ra imm s
  | .shli x rd ra imm => Sys2Proof.Machine.execShli x rd ra imm s
  | .shri x rd ra imm => Sys2Proof.Machine.execShri x rd ra imm s
  | .lil x rd imm => Sys2Proof.Machine.execLil x rd imm s
  | .lih x rd imm => Sys2Proof.Machine.execLih x rd imm s
  | .ldw x rt ra ofs ue => Sys2Proof.Machine.execLdw x rt ra ofs ue s
  | .ldh x rt ra ofs ue => Sys2Proof.Machine.execLdh x rt ra ofs ue s
  | .ldhu x rt ra ofs ue => Sys2Proof.Machine.execLdhu x rt ra ofs ue s
  | .ldbu x rt ra ofs ue => Sys2Proof.Machine.execLdbu x rt ra ofs ue s
  | .stw x rt ra ofs => Sys2Proof.Machine.execStw x rt ra ofs s
  | .sth x rt ra ofs => Sys2Proof.Machine.execSth x rt ra ofs s
  | .stb x rt ra ofs => Sys2Proof.Machine.execStb x rt ra ofs s
  | .prf x rt ra ofs => Sys2Proof.Machine.execPrf x rt ra ofs s
  | .br x disp => Sys2Proof.Machine.execBr x disp s
  | .brl x disp => Sys2Proof.Machine.execBrl x disp s
  | .jr x rd ra k => Sys2Proof.Machine.execJr x rd ra k s
  | .jrl x rd ra k => Sys2Proof.Machine.execJrl x rd ra k s
  | .csnap x rd ra k ue => Sys2Proof.Machine.execCsnap x rd ra k ue s
  | .msh x rd ra k => Sys2Proof.Machine.execMsh x rd ra k s
  | .ldall x rd ra k => Sys2Proof.Machine.execLdall x rd ra k s
  | .glut x rd ra k => Sys2Proof.Machine.execGlut x rd ra k s
  | .pstepKeep x rd ra k => Sys2Proof.Machine.execPstepKeep x rd ra k s
  | .pstepTarget x rd ra k => Sys2Proof.Machine.execPstepTarget x rd ra k s
  | .tbrdSnapshot x rd k => Sys2Proof.Machine.execTbrdSnapshot x rd k s
  | .tbrdPart x rd sel k => Sys2Proof.Machine.execTbrdPart x rd sel k s
  | .wait x rd ra rb => Sys2Proof.Machine.execWait x rd ra rb s
  | .waitEnd k => Sys2Proof.Machine.execWaitEnd k s
  | .fpost x rd ra k => Sys2Proof.Machine.execFpost x rd ra k s
  | .tprb x rd ra k => Sys2Proof.Machine.execTprb x rd ra k s
  | .tmeas x rd ra k => Sys2Proof.Machine.execTmeas x rd ra k s
  | .tend x rd ra k => Sys2Proof.Machine.execTend x rd ra k s
  | .mfs x rd ra k => Sys2Proof.Machine.execMfs x rd ra k s
  | .mfsClear x rd ra k => Sys2Proof.Machine.execMfsClear x rd ra k s
  | .rfe x rd ra k => Sys2Proof.Machine.execRfe x rd ra k s
  | .idle x rd ra k => Sys2Proof.Machine.execIdle x rd ra k s
  | .mfc x rd ra k => Sys2Proof.Machine.execMfc x rd ra k s
  | .mtc x rd ra k => Sys2Proof.Machine.execMtc x rd ra k s
  | .rgld x rd ra k => Sys2Proof.Machine.execRgld x rd ra k s
  | .retryWaitEnd c => Sys2Proof.Machine.execRetryWaitEnd c s
  | .protUnlock c => Sys2Proof.Machine.execProtUnlock c s
  | .paramPush c => Sys2Proof.Machine.execParamPush c s
  | .evqRead => Sys2Proof.Machine.execEvqRead s
  | .leakInterval => Sys2Proof.Machine.execLeakInterval s
  | .leakTimeout => Sys2Proof.Machine.execLeakTimeout s
  | .lpwmRetryWaitEnd m => Sys2Proof.Machine.execLpwmRetryWaitEnd m s
  | .dumpOneshotEnd => Sys2Proof.Machine.execDumpOneshotEnd s
  | .adcTrigger a => Sys2Proof.Machine.execAdcTrigger a s
  | .adcConversionDone a vin => Sys2Proof.Machine.execAdcConversionDone a vin s
  | .adcUrgentGo a inp => Sys2Proof.Machine.execAdcUrgentGo a inp s
  | .adcCalReq a => Sys2Proof.Machine.execAdcCalReq a s
  | .adcCalDone a => Sys2Proof.Machine.execAdcCalDone a s
  | .resLoRead a k => Sys2Proof.Machine.execResLoRead a k s
  | .resHiRead a k => Sys2Proof.Machine.execResHiRead a k s
  | .refEnable => Sys2Proof.Machine.execRefEnable s
  | .refReady => Sys2Proof.Machine.execRefReady s
  | .cmpEnable x => Sys2Proof.Machine.execCmpEnable x s
  | .cmpHoldRelease x vin => Sys2Proof.Machine.execCmpHoldRelease x vin s
  | .dacSettled x => Sys2Proof.Machine.execDacSettled x s
  | .cmpOutputAssert x vin => Sys2Proof.Machine.execCmpOutputAssert x vin s
  | .cmpOutputDeassert x vin => Sys2Proof.Machine.execCmpOutputDeassert x vin s
  | .cmpClearLatch x => Sys2Proof.Machine.execCmpClearLatch x s
  | .thmRequest mask => Sys2Proof.Machine.execThmRequest mask s
  | .thmMeasureDone x t => Sys2Proof.Machine.execThmMeasureDone x t s
  | .sensorBroken x => Sys2Proof.Machine.execSensorBroken x s
  | .sensorHot x t => Sys2Proof.Machine.execSensorHot x t s
  | .sensorCool x t => Sys2Proof.Machine.execSensorCool x t s
  | .wakeEvent cause => Sys2Proof.Machine.execWakeEvent cause s
  | .sysAdpllEnable => Sys2Proof.Machine.execSysAdpllEnable s
  | .tbAdpllEnable => Sys2Proof.Machine.execTbAdpllEnable s
  | .lockWindowEnd p count => Sys2Proof.Machine.execLockWindowEnd p count s
  | .refLoss r => Sys2Proof.Machine.execRefLoss r s
  | .refQualified r j => Sys2Proof.Machine.execRefQualified r j s
  | .tbRefSwitch r => Sys2Proof.Machine.execTbRefSwitch r s
  | .tbRefSwitchDone j => Sys2Proof.Machine.execTbRefSwitchDone j s
  | .sysRampGo => Sys2Proof.Machine.execSysRampGo s
  | .sysRampDone => Sys2Proof.Machine.execSysRampDone s
  | .spreadRequest en depth => Sys2Proof.Machine.execSpreadRequest en depth s
  | .tbRampGo => Sys2Proof.Machine.execTbRampGo s
  | .tbRampDone => Sys2Proof.Machine.execTbRampDone s
  | .dllLock => Sys2Proof.Machine.execDllLock s
  | .dllLost => Sys2Proof.Machine.execDllLost s
  | .slewGo => Sys2Proof.Machine.execSlewGo s
  | .slewStop => Sys2Proof.Machine.execSlewStop s
  | .slewDone => Sys2Proof.Machine.execSlewDone s
  | .timebaseSet => Sys2Proof.Machine.execTimebaseSet s
  | .timebaseSnapshotRead => Sys2Proof.Machine.execTimebaseSnapshotRead s
  | .ttArm t w => Sys2Proof.Machine.execTtArm t w s
  | .ttEvent t => Sys2Proof.Machine.execTtEvent t s
  | .ppsWidthEnd => Sys2Proof.Machine.execPpsWidthEnd s
  | .captureEdge k rising q => Sys2Proof.Machine.execCaptureEdge k rising q s
  | .ethLinkUp p ok => Sys2Proof.Machine.execEthLinkUp p ok s
  | .ethFrameReceived p q fcsOk tag f => Sys2Proof.Machine.execEthFrameReceived p q fcsOk tag f s
  | .ethTxTailWrite p v => Sys2Proof.Machine.execEthTxTailWrite p v s
  | .ethRxTailWrite p v => Sys2Proof.Machine.execEthRxTailWrite p v s
  | .ethFrameSent p fwd q => Sys2Proof.Machine.execEthFrameSent p fwd q s
  | .pdelayTimeout p => Sys2Proof.Machine.execPdelayTimeout p s
  | .saddleFrameDepart x under => Sys2Proof.Machine.execSaddleFrameDepart x under s
  | .saddleHeaderReceived x arr => Sys2Proof.Machine.execSaddleHeaderReceived x arr s
  | .saddleSlotReceived x j => Sys2Proof.Machine.execSaddleSlotReceived x j s
  | .hbLost => Sys2Proof.Machine.execHbLost s
  | .pairEnable => Sys2Proof.Machine.execPairEnable s
  | .pairDisable => Sys2Proof.Machine.execPairDisable s
  | .pairTake => Sys2Proof.Machine.execPairTake s
  | .pairYield => Sys2Proof.Machine.execPairYield s
  | .yieldEnd => Sys2Proof.Machine.execYieldEnd s
  | .demotionHoldEnd => Sys2Proof.Machine.execDemotionHoldEnd s
  | .faultEntry d => Sys2Proof.Machine.execFaultEntry d s
  | .faultAck mask => Sys2Proof.Machine.execFaultAck mask s
  | .histMsgHiRead x => Sys2Proof.Machine.execHistMsgHiRead x s
  | .islandLoadEnd pcrc bcrc prog block => Sys2Proof.Machine.execIslandLoadEnd pcrc bcrc prog block s
  | .safeMbInWrite w => Sys2Proof.Machine.execSafeMbInWrite w s
  | .safeMbOutRead => Sys2Proof.Machine.execSafeMbOutRead s
  | .islandFrameStrobe ns => Sys2Proof.Machine.execIslandFrameStrobe ns s
  | .epochWordChange => Sys2Proof.Machine.execEpochWordChange s
  | .safeInputOpen x => Sys2Proof.Machine.execSafeInputOpen x s
  | .safeInputClose x => Sys2Proof.Machine.execSafeInputClose x s
  | .discrepancy k => Sys2Proof.Machine.execDiscrepancy k s
  | .sdmResult x v live => Sys2Proof.Machine.execSdmResult x v live s
  | .sdmStuck x => Sys2Proof.Machine.execSdmStuck x s
  | .slcTrip x => Sys2Proof.Machine.execSlcTrip x s
  | .spdTrip => Sys2Proof.Machine.execSpdTrip s
  | .positionUpdate a b => Sys2Proof.Machine.execPositionUpdate a b s
  | .doorLockRelease => Sys2Proof.Machine.execDoorLockRelease s
  | .safeOkOpen => Sys2Proof.Machine.execSafeOkOpen s
  | .islandTokensStart => Sys2Proof.Machine.execIslandTokensStart s
  | .sackRise => Sys2Proof.Machine.execSackRise s
  | .sackRelease => Sys2Proof.Machine.execSackRelease s
  | .sackJam => Sys2Proof.Machine.execSackJam s
  | .proofIntervalExpiry => Sys2Proof.Machine.execProofIntervalExpiry s
  | .confirmArm => Sys2Proof.Machine.execConfirmArm s
  | .confirmCheck v => Sys2Proof.Machine.execConfirmCheck v s
  | .confirmWindowExpiry => Sys2Proof.Machine.execConfirmWindowExpiry s
  | .lockstepFail pc => Sys2Proof.Machine.execLockstepFail pc s
  | .roStart => Sys2Proof.Machine.execRoStart s
  | .roDone counts => Sys2Proof.Machine.execRoDone counts s
  | .srmStart => Sys2Proof.Machine.execSrmStart s
  | .srmDone steps => Sys2Proof.Machine.execSrmDone steps s
  | .bandgapMeasure ppm => Sys2Proof.Machine.execBandgapMeasure ppm s
  | .lkqRead => Sys2Proof.Machine.execLkqRead s
  | .recordCommit => Sys2Proof.Machine.execRecordCommit s
  | .hourTick => Sys2Proof.Machine.execHourTick s
  | .planSubmit => Sys2Proof.Machine.execPlanSubmit s
  | .planValidationDone => Sys2Proof.Machine.execPlanValidationDone s
  | .planCancel => Sys2Proof.Machine.execPlanCancel s
  | .envLockSet => Sys2Proof.Machine.execEnvLockSet s
  | .rollbackBurn m => Sys2Proof.Machine.execRollbackBurn m s
  | .revokeBurn m slot => Sys2Proof.Machine.execRevokeBurn m slot s
  | .fuseBurnDone => Sys2Proof.Machine.execFuseBurnDone s
  | .vaultEnrol m => Sys2Proof.Machine.execVaultEnrol m s
  | .vaultImport m slot => Sys2Proof.Machine.execVaultImport m slot s
  | .vaultClear m slot => Sys2Proof.Machine.execVaultClear m slot s
  | .vaultGenId m => Sys2Proof.Machine.execVaultGenId m s
  | .vaultSign m => Sys2Proof.Machine.execVaultSign m s
  | .vaultCommandDone => Sys2Proof.Machine.execVaultCommandDone s
  | .tamper x => Sys2Proof.Machine.execTamper x s
  | .vglitch rail => Sys2Proof.Machine.execVglitch rail s
  | .cglitch k => Sys2Proof.Machine.execCglitch k s
  | .lowtemp => Sys2Proof.Machine.execLowtemp s
  | .debugChallengeRead => Sys2Proof.Machine.execDebugChallengeRead s
  | .debugAuthResponse keyOk sigOk => Sys2Proof.Machine.execDebugAuthResponse keyOk sigOk s
  | .railWarn r => Sys2Proof.Machine.execRailWarn r s
  | .railRecover r => Sys2Proof.Machine.execRailRecover r s
  | .railBelowReset r => Sys2Proof.Machine.execRailBelowReset r s
  | .porRelease r => Sys2Proof.Machine.execPorRelease r s
  | .nresetAssert => Sys2Proof.Machine.execNresetAssert s
  | .nresetRelease => Sys2Proof.Machine.execNresetRelease s
  | .resetRelease b => Sys2Proof.Machine.execResetRelease b s
  | .hostImageGo keyOk sigOk => Sys2Proof.Machine.execHostImageGo keyOk sigOk s
  | .configDone => Sys2Proof.Machine.execConfigDone s
  | .configTimeout => Sys2Proof.Machine.execConfigTimeout s
  | .mramWrite w v be => Sys2Proof.Machine.execMramWrite w v be s
  | .mramPulseDone => Sys2Proof.Machine.execMramPulseDone s
  | .scrubRead err => Sys2Proof.Machine.execScrubRead err s
  | .blockReset code test => Sys2Proof.Machine.execBlockReset code test s
  | .blockResetDone => Sys2Proof.Machine.execBlockResetDone s
  | .blockSelfTestDone pass => Sys2Proof.Machine.execBlockSelfTestDone pass s
  | .canFrameReceived m f sof len => Sys2Proof.Machine.execCanFrameReceived m f sof len s
  | .canSetreq m o => Sys2Proof.Machine.execCanSetreq m o s
  | .canCancel m o started => Sys2Proof.Machine.execCanCancel m o started s
  | .canTxDone m o d sof len => Sys2Proof.Machine.execCanTxDone m o d sof len s
  | .canTxFail m o arb quiet => Sys2Proof.Machine.execCanTxFail m o arb quiet s
  | .canRecover m => Sys2Proof.Machine.execCanRecover m s
  | .canBusoffRecovered m => Sys2Proof.Machine.execCanBusoffRecovered m s
  | .canInitClear m => Sys2Proof.Machine.execCanInitClear m s
  | .canTscap m p => Sys2Proof.Machine.execCanTscap m p s
  | .canClockStop m => Sys2Proof.Machine.execCanClockStop m s
  | .canRxsRead m o => Sys2Proof.Machine.execCanRxsRead m o s
  | .perst => Sys2Proof.Machine.execPerst s
  | .pcieLinkDown => Sys2Proof.Machine.execPcieLinkDown s
  | .bmeClear => Sys2Proof.Machine.execBmeClear s
  | .doorbellWrite x w => Sys2Proof.Machine.execDoorbellWrite x w s
  | .h2dWrite w => Sys2Proof.Machine.execH2dWrite w s
  | .h2dRead => Sys2Proof.Machine.execH2dRead s
  | .d2hWrite w => Sys2Proof.Machine.execD2hWrite w s
  | .d2hRead => Sys2Proof.Machine.execD2hRead s
  | .msixSend v => Sys2Proof.Machine.execMsixSend v s
  | .msixUnmask v => Sys2Proof.Machine.execMsixUnmask v s
  | .dmaTailWrite d v => Sys2Proof.Machine.execDmaTailWrite d v s
  | .dmaDescriptorDone d err data => Sys2Proof.Machine.execDmaDescriptorDone d err data s
  | .recordDrain full => Sys2Proof.Machine.execRecordDrain full s
  | .traceArm => Sys2Proof.Machine.execTraceArm s
  | .traceStop => Sys2Proof.Machine.execTraceStop s
  | .traceForce => Sys2Proof.Machine.execTraceForce s
  | .streamCredit add => Sys2Proof.Machine.execStreamCredit add s
  | .cellInputRelock c p => Sys2Proof.Machine.execCellInputRelock c p s
  | .nodeReset c => Sys2Proof.Machine.execNodeReset c s
  | .lpwmDeadtimeTurnOn m => Sys2Proof.Machine.execLpwmDeadtimeTurnOn m s
  | .prefetchOutDone n => Sys2Proof.Machine.execPrefetchOutDone n s
  | .sensorBrokenClear x => Sys2Proof.Machine.execSensorBrokenClear x s
  | .coreClockResume => Sys2Proof.Machine.execCoreClockResume s
  | .strobeMissing ns => Sys2Proof.Machine.execStrobeMissing ns s
  | .ethLinkDown p => Sys2Proof.Machine.execEthLinkDown p s
  | .canRxError m pxe big => Sys2Proof.Machine.execCanRxError m pxe big s
  | .pcieLinkUp w v => Sys2Proof.Machine.execPcieLinkUp w v s
  | .bmeSet => Sys2Proof.Machine.execBmeSet s

end Sys2Proof.Machine
end

