-- ==== Sys2Proof/WellFormed.lean ====
section
/-! DEFINITION. WellFormed.lean: the commands whose payload is as long as its rule says. A command that is not well-formed names no
event of the hardware; its meaning ends in the fault `illFormed`. -/
namespace Sys2Proof

/-- The code groups of an ordered set (03_cell_lanes.md R69), a frame as far as it was received (04_cell_link_protocol.md R86), the parameter block (14_safety_island.md R401), the conversions and the user bytes of a report
(05_cell_endpoint_contract.md R124, 04_cell_link_protocol.md R95) and the ring-oscillator counts (15_ageing_and_margins.md R409)
have the lengths of their tables. -/
def Instr.wellFormed : Instr → Bool
  | .orderedSetReceived _ groups => groups.length == 16
  | .cellSectionTaken _ _ f _ => decide (f.length ≤ 744) && f.length % 8 == 0
  | .cellTokenCheck _ _ f => decide (f.length ≤ 744) && f.length % 8 == 0
  | .cellSample _ _ _ _ temp von => temp.length == 4 && von.length == 12
  | .cellReportWrite _ _ f _ user => decide (f.length ≤ 744) && f.length % 8 == 0 && user.length == 18
  | .cellOrderedSetForward _ _ groups => groups.length == 16
  | .islandLoadEnd _ _ prog block => decide (prog.length ≤ 32768) && block.length == 512
  | .roDone counts => counts.length == 48
  | _ => true

end Sys2Proof
end

