-- ==== Sys2Proof/Safety.lean ====
section
/-! DEFINITION. Safety.lean: what every step keeps: the canonical form of memory and of every table of the state, and the depths of the
queues. -/
namespace Sys2Proof.Machine

/-- Memory is in canonical form: addresses strictly rising, no byte equal to what an unlisted address reads as. -/
abbrev Memory.wf (m : List Host.Cell) : Prop := Tbl.wf memDefault m = true

/-- Registers are in canonical form: no entry equal to its cold value. -/
abbrev Registers.wf (r : List (Nat × Word)) : Prop := Tbl.wf coldOf r = true

/-- Memory and registers are in canonical form, so that equal contents are equal data. -/
def State.Canon (s : State) : Prop := Registers.wf s.regs ∧ Memory.wf s.mem

/-- Queues within their depths: 16 messages in each fault queue (01_architecture.md R22), 32 entries in the trigger queue (R22), 64
trace records (19_host_interface_and_trace.md R501), and 32 words in each host mailbox (R498). -/
def State.Depths (s : State) : Prop :=
  (∀ q ∈ s.fq, q.2.msgs.length ≤ 16) ∧ s.trigq.length ≤ 32 ∧ s.trc.q.length ≤ 64 ∧
    s.host.h2d.length ≤ 32 ∧ s.host.d2h.length ≤ 32

/-- What every step keeps. -/
def State.Inv (s : State) : Prop := s.Canon ∧ s.Depths

end Sys2Proof.Machine
end

