-- ==== Sys2Proof/Certificates/Slice0/Obligations.lean ====
section
/-! DEFINITION. Certificates/Slice0/Obligations.lean: the statements for the provers. The predicates they share come first. -/
namespace Sys2Proof.Says
open Sys2Proof.Machine

/-! ### Shared predicates -/

/-- The command answers a next state, of which `P` holds. -/
abbrev Gives (c : Instr) (s : State) (P : State → Prop) : Prop := ∃ t, exec c s = .next t ∧ P t

/-- No register but those at the listed addresses changes, and no byte of memory does. -/
def Only (s t : State) (l : List Nat) : Prop := (∀ a, a ∉ l → t.reg a = s.reg a) ∧ ∀ a, t.byte a = s.byte a

/-- No register changes but inside the listed windows (base, bytes), and no byte of memory does. -/
def Within (s t : State) (l : List (Nat × Nat)) : Prop :=
  (∀ a, (∀ w ∈ l, ¬ (w.1 ≤ a ∧ a < w.1 + w.2)) → t.reg a = s.reg a) ∧ ∀ a, t.byte a = s.byte a

/-- No register changes but inside the listed windows. -/
def RegsIn (s t : State) (l : List (Nat × Nat)) : Prop := ∀ a, (∀ w ∈ l, ¬ (w.1 ≤ a ∧ a < w.1 + w.2)) → t.reg a = s.reg a

/-- A fault message is posted below S4: it joins the queue of its domain (13_fault_collection.md R366, R371), a later message of the same
command may join behind it. -/
def Posted (s t : State) (src inst kind cls sev datum : Nat) : Prop :=
  let d := domainOf src inst
  t.fqOf d = (s.fqOf d).push (msgOf src inst kind cls sev datum) sev cls

/-- A message whose datum the spec does not state is posted (13_fault_collection.md R367). -/
def PostedAny (s t : State) (src inst kind cls sev : Nat) : Prop := ∃ d, Posted s t src inst kind cls sev d

/-- Nothing but the node of cell `c` differs: no register, memory byte, fault queue, core or other node. -/
def OtherNodes (s t : State) (c : Nat) : Prop :=
  t.regs = s.regs ∧ t.mem = s.mem ∧ t.fq = s.fq ∧ t.cores = s.cores ∧ ∀ d, d ≠ c → t.node d = s.node d

/-- No byte of memory changes but the `k` bytes from `a`. -/
def Stores (s t : State) (a k : Nat) : Prop := ∀ x, x < a ∨ a + k ≤ x → t.byte x = s.byte x

/-- No byte of memory changes but the `k` bytes from `a` and those from `b`. -/
def StoresTwo (s t : State) (a b k : Nat) : Prop := ∀ x, x < a ∨ a + k ≤ x → x < b ∨ b + k ≤ x → t.byte x = s.byte x

/-- No byte of memory changes but inside the listed windows. -/
def StoresIn (s t : State) (l : List (Nat × Nat)) : Prop := ∀ x, (∀ w ∈ l, ¬ (w.1 ≤ x ∧ x < w.1 + w.2)) → t.byte x = s.byte x

/-- No byte of memory changes; none but in shared SRAM; none but in the local memories of the engines. -/
def MemKept (s t : State) : Prop := ∀ a, t.byte a = s.byte a
def LocalOnly (s t : State) : Prop := ∀ a, inLocal a = false → t.byte a = s.byte a
def SramOnly (s t : State) : Prop := ∀ a, inSram a = false → t.byte a = s.byte a

/-- The MRAM keeps its bytes. -/
def MramKept (s t : State) : Prop := ∀ a, inMram a = true → t.byte a = s.byte a

/-- The registers in the `k` bytes from `b` hold their cold-reset values. -/
def Cold (t : State) (b k : Nat) : Prop := ∀ a, b ≤ a → a < b + k → t.reg a = (coldOf a).toNat

/-- Windows of the register blocks (20_register_index.md R511). -/
def wSYS : Nat × Nat := (0x40000000, 0x10000)
def wRST : Nat × Nat := (0x40010000, 0x10000)
def wCLK : Nat × Nat := (0x40020000, 0x10000)
def wTB : Nat × Nat := (0x40030000, 0x10000)
def wFLT : Nat × Nat := (0x40040000, 0x10000)
def wAGE : Nat × Nat := (0x40050000, 0x10000)
def wSEC : Nat × Nat := (0x40060000, 0x10000)
def wTHM : Nat × Nat := (0x40070000, 0x10000)
def wPWR : Nat × Nat := (0x40080000, 0x10000)
def wNVC : Nat × Nat := (0x40090000, 0x10000)
def wLANE : Nat × Nat := (0x40100000, 0x100000)
def wCHAIN : Nat × Nat := (0x40200000, 0x80000)
def wCELL : Nat × Nat := (0x40280000, 0x80000)
def wMOD : Nat × Nat := (0x40300000, 0x80000)
def wLPWM : Nat × Nat := (0x40380000, 0x1000)
def wLOOP : Nat × Nat := (0x40400000, 0x10000)
def wENG : Nat × Nat := (0x40410000, 0x30000)
def wGLUT : Nat × Nat := (0x40440000, 0x20000)
def wPGEN : Nat × Nat := (0x40460000, 0x1000)
def wPROT : Nat × Nat := (0x40500000, 0x100000)
def wANA : Nat × Nat := (0x40600000, 0x100000)
def wETH : Nat × Nat := (0x40700000, 0x100000)
def wCAN : Nat × Nat := (0x40800000, 0x100000)
def wSADL : Nat × Nat := (0x40900000, 0x100000)
def wTRC : Nat × Nat := (0x40A00000, 0x100000)
def wSAFE : Nat × Nat := (0x40B00000, 0x100000)
def wHOST : Nat × Nat := (0x40C00000, 0x100000)

/-! ### Cores -/

/-- The instruction `i` of kind `k` issues: its core issues, the address is one it may fetch from, its regions allow the fetch, the slot
accepts the instruction, its word is no reserved encoding (08_qorov_instruction_set.md R219 to R226, 07_lupin_engines.md R207). It reads its
operands in `u`, in which the results due have reached their places. -/
structure Fetched (s : State) (i : Iss) (k : Kind) (u : State) : Prop where
  begun : s.beginIssue i k.cost = u
  issues : s.canIssue i.core = true
  fetch : inProgram i.core (u.core i.core).pc.toNat = true
  region : 16 ≤ i.core.val → i.core.val < 20 → u.allowed i.core (u.core i.core).pc.toNat .x = true
  slot : k.accepts i = true
  listed : i.reserved = false

/-- It issues, the other slot of its bundle raises nothing, and its predicate lets it act. -/
structure Issues (s : State) (i : Iss) (k : Kind) (u : State) : Prop extends Fetched s i k u where
  partner : i.dead = false
  predicate : u.pr i.core i.pred = !i.pn

/-- The instruction answers a next state: that of its own effect, of which `P` holds, and, where it completes a bundle of a Lupin engine, what
the `pstep` of that bundle does outside its generator (07_lupin_engines.md R201, R204). -/
abbrev Does (i : Iss) (c : Instr) (s : State) (P : State → Prop) : Prop :=
  ∃ v, exec c s = .next (if i.core.val < 16 ∧ i.same then v.bundleEnd i.core else v) ∧ P v

/-- Nothing but core `n` differs. -/
def OtherCores (u t : State) (n : Nat) : Prop :=
  t.regs = u.regs ∧ t.mem = u.mem ∧ t.fq = u.fq ∧ ∀ m, m ≠ n → t.core m = u.core m

/-- What an instruction that does not write them leaves of a core: where it goes on, its predicates, accumulators and control registers. -/
def CoreFrame (c d : CoreS) : Prop :=
  d.pc = c.pc ∧ d.next = c.next ∧ d.p = c.p ∧ d.acc = c.acc ∧ d.accIn = c.accIn ∧ d.now = c.now ∧ d.cyc = c.cyc ∧ d.tsk = c.tsk ∧
    d.status = c.status ∧ d.epc = c.epc ∧ d.ecause = c.ecause ∧ d.badaddr = c.badaddr ∧ d.vbase = c.vbase ∧ d.scratch = c.scratch

/-- The result `v` of latency `lat`, with the flags `fl`, goes to general register `r` of the core of `i`: in place at once on an Aster
engine or a safety core (R224), in flight on a Lupin engine until `lat` cycles after issue (R222); g0 takes nothing (R215). Nothing else
changes. -/
def ToGpr (u t : State) (i : Iss) (lat r v fl : Nat) : Prop :=
  let n := i.core.val
  let c := u.core n
  OtherCores u t n ∧ CoreFrame c (t.core n) ∧
    if n < 16 then
      (t.core n).g = c.g ∧ (t.core n).fl = c.fl ∧
        ∀ f, f ∈ (t.core n).fly ↔ f ∈ c.fly ∨ f = ⟨c.now + lat, 2 * c.now + bit i.m, .gpr r (BitVec.ofNat 32 v)⟩ ∨
          fl ≠ 0 ∧ f = ⟨c.now + lat, 2 * c.now + bit i.m, .flags (BitVec.ofNat 8 fl)⟩
    else
      (t.core n).fly = c.fly ∧ (t.core n).fl = (c.fl ||| BitVec.ofNat 8 fl) ∧
        ∀ j, t.gr n j = if j = r ∧ r ≠ 0 then v % 2 ^ 32 else u.gr n j

/-- The compare result `v` goes to predicate `r`, in the same way; p0 takes nothing. -/
def ToPred (u t : State) (i : Iss) (r : Nat) (v : Bool) (fl : Nat) : Prop :=
  let n := i.core.val
  let c := u.core n
  OtherCores u t n ∧ (t.core n).g = c.g ∧ (t.core n).acc = c.acc ∧ (t.core n).pc = c.pc ∧ (t.core n).next = c.next ∧
    if n < 16 then
      (t.core n).p = c.p ∧ (t.core n).fl = c.fl ∧
        ∀ f, f ∈ (t.core n).fly ↔ f ∈ c.fly ∨ f = ⟨c.now + 1, 2 * c.now + bit i.m, .pred r v⟩ ∨
          fl ≠ 0 ∧ f = ⟨c.now + 1, 2 * c.now + bit i.m, .flags (BitVec.ofNat 8 fl)⟩
    else
      (t.core n).fly = c.fly ∧ (t.core n).fl = (c.fl ||| BitVec.ofNat 8 fl) ∧
        ∀ j, j < 8 → t.pr n j = if j = r ∧ r ≠ 0 then v else u.pr n j

/-- The exact value `v` goes to accumulator `k`, limited to 2^71 − 1 in magnitude, with AOV when it was limited: the next MAC accumulates
onto it at once, `accr` sees it `lat` cycles later on a Lupin engine (R225, R231). -/
def ToAcc (u t : State) (i : Iss) (lat k : Nat) (v : Int) : Prop :=
  let n := i.core.val
  let c := u.core n
  let w := max (1 - 2 ^ 71) (min (2 ^ 71 - 1) v)
  OtherCores u t n ∧ (t.core n).g = c.g ∧ (t.core n).p = c.p ∧ (t.core n).pc = c.pc ∧ (t.core n).next = c.next ∧
    t.accNow n k = w ∧ (∀ j, j ≠ k → t.accNow n j = u.accNow n j) ∧
    if n < 16 then
      ⟨c.now + lat, 2 * c.now + bit i.m, .acc k (BitVec.ofInt 72 w)⟩ ∈ (t.core n).fly ∧
        (w ≠ v → ⟨c.now + lat, 2 * c.now + bit i.m, .flags (BitVec.ofNat 8 flAOV)⟩ ∈ (t.core n).fly)
    else t.accSeen n k = w ∧ (t.core n).fl = c.fl ||| (if w = v then 0 else BitVec.ofNat 8 flAOV)

/-- Where an address of a core stands in the memory of the model (07_lupin_engines.md R182, 14_safety_island.md R386). -/
def place (n a : Nat) : Nat := if n < 16 then 0x4010000 + n * 0x20000 + a else if n < 20 then a else 0x100000000 + a

/-- A core reads plain memory at an address: data memory of a Lupin engine; shared SRAM, local memory or CST that the regions of an Aster
engine allow; the memories of the island (R236, R207, R386). -/
def Readable (s : State) (n a : Nat) : Prop :=
  if n < 16 then a < 0x10000
  else if n < 20 then s.allowed n a .r ∧ (inSram a ∨ inLocal a ∨ inCst a)
  else a < 0x2000 ∨ (0x10000 ≤ a ∧ a < 0x18000) ∨ (0x20000 ≤ a ∧ a < 0x24000)

/-- A core writes plain memory at an address: its data memory, shared SRAM that its regions allow, the scratch RAM of the island. -/
def Writable (s : State) (n a : Nat) : Prop :=
  if n < 16 then a < 0x10000
  else if n < 20 then s.allowed n a .w ∧ inSram a
  else 0x20000 ≤ a ∧ a < 0x24000

/-- Lupin engine `n` enters FAULTED with cause `cause` at the bundle in issue, of which neither slot has an effect: the results in flight and the
accumulators are those that the bundle found (07_lupin_engines.md R190, 08_qorov_instruction_set.md R252). -/
def Faulted (u t : State) (n cause : Nat) : Prop :=
  let c := u.core n
  let d := t.core n
  t.engSt n = 4 ∧ t.rd (ENG_FAULT_CAUSE n) = cause ∧ t.rd (ENG_FAULT_PC n) = c.pc.toNat % 65536 ∧
    d.g = c.g ∧ d.p = c.p ∧ d.fl = c.fl ∧ d.fly = c.flyWas ∧ d.accIn = c.accWas ∧ t.mem = u.mem

/-- The exception of an Aster engine with cause `cause` at the instruction in issue (08_qorov_instruction_set.md R251): EPC, ECAUSE, STATUS
(PRIV and EXL set, IE clear, IE and PRIV copied to PIE and PPRIV), and the vector; nothing else changes but BADADDR, which cause 2 writes. -/
def Enters (u t : State) (n : Nat) (epc : Word) (ecause vec : Nat) : Prop :=
  let c := u.core n
  let d := t.core n
  OtherCores u t n ∧ d.g = c.g ∧ d.p = c.p ∧ d.acc = c.acc ∧ d.fl = c.fl ∧ d.vbase = c.vbase ∧ d.scratch = c.scratch ∧
    d.epc = epc ∧ d.ecause = BitVec.ofNat 32 ecause ∧ d.next = (c.vbase.toNat + vec) % 2 ^ 32 ∧
    d.status.getLsbD 0 = false ∧ d.status.getLsbD 1 = true ∧ d.status.getLsbD 2 = true ∧
    d.status.getLsbD 3 = c.status.getLsbD 0 ∧ d.status.getLsbD 4 = c.status.getLsbD 1

end Sys2Proof.Says

open Sys2Proof Sys2Proof.Machine Sys2Proof.Says

/-! ### The block as a whole -/

/-- A step with a command at the front of the queue is that command run on the state in which the rest of the queue waits: accesses and events
are applied one after the other, first in, first out (20_register_index.md R513). -/
def Obligations.StepRunsTheFrontCommand : Prop := ∀ (s : State) (c : Instr) (r : List Instr), s.pending = c :: r →
  step s = exec c { s with pending := r }

/-- With an empty queue a step lets one tick of CK_TB pass, which is the choice of this model (notes/assumptions/4.md): while the timebase
ADPLL is enabled the timebase adds INC and, during a slew, RATE in the direction of the amount that remains, the last tick exactly the
remainder; LOOP.FRAME_NUM shows its frame; no other register moves but SLEW_CTL, whose BUSY clears and DONE sets when the slew completes,
and no memory does (11_clocks_timebase_network_time.md R318 to R320). -/
def Obligations.EmptyQueueTick : Prop := ∀ s : State, s.pending = [] →
  (s.on CLK_TB_CTL_EN = false → step s = .next s) ∧
  (s.on CLK_TB_CTL_EN → ∃ t, step s = .next t ∧ t.pending = [] ∧
    t.rd LOOP_FRAME_NUM_FRAME = t.tb / 2 ^ 24 / 1000 % 2 ^ 32 ∧
    (s.on TB_SLEW_CTL_BUSY = false → t.tb = s.tb + s.reg TB_INC ∧ t.sys = s.sys ∧ Only s t [LOOP_FRAME_NUM]) ∧
    (s.on TB_SLEW_CTL_BUSY →
      let r : Int := s.rd TB_SLEW_CTL_RATE
      let d := if s.sys.slew < -r then -r else if r < s.sys.slew then r else s.sys.slew
      t.tb = ((s.tb + s.reg TB_INC : Int) + d).toNat ∧ t.sys.slew = s.sys.slew - d ∧
        (s.sys.slew = d → t.on TB_SLEW_CTL_BUSY = false ∧ t.on TB_SLEW_CTL_DONE) ∧ (s.sys.slew ≠ d → t.on TB_SLEW_CTL_BUSY) ∧
        Only s t [LOOP_FRAME_NUM, TB_SLEW_CTL]))

/-- After reset SYS_ID and SYS_STEP read 0x4192 and 0xB1, the device is in BOOT, the timebase stands at zero with its nominal increment, CAN
controllers are in INIT, every register holds the cold value of its table (where the table gives none, the value of
notes/assumptions/2.md), the Aster engines show their kind and SE0 alone is enabled (07_lupin_engines.md R212), SE0 starts at the boot ROM
in privileged mode, general registers are 0, nothing waits and memory lists nothing (00_scope.md R1, 01_architecture.md R32,
11_clocks_timebase_network_time.md R318). -/
def Obligations.ResetState : Prop :=
  let s := State.reset
  s.reg SYS_SYS_ID = 0x4192 ∧ s.reg SYS_SYS_STEP = 0xB1 ∧ s.dev = 0 ∧ s.tb = 0 ∧ s.reg TB_INC = 0x02000000 ∧
    (∀ m : Fin 4, s.on (CAN_CTL_INIT m) ∧ s.rd (CAN_STAT_STATE m) = 0) ∧ (∀ l : Fin 28, s.rd (LANE_STAT_TX_MODE l) = 0) ∧
    (∀ n : Fin 20, s.engSt n = 0 ∧ s.on (ENG_STAT_KIND n) = decide (16 ≤ n.val) ∧ s.on (ENG_CTL_EN n) = decide (n.val = 16)) ∧ s.on SAFE_STATE_TOKENS = false ∧ (∀ a, s.reg a = (coldOf a).toNat) ∧
    (s.core 16).pc = 0x09000000 ∧ (∀ n : Fin 22, (s.core n).status.getLsbD 1 = true ∧ ∀ r, s.gr n r = 0) ∧
    s.pending = [] ∧ s.fq = [] ∧ s.trigq = [] ∧ s.trc.q = [] ∧ s.mem = [] ∧ ∀ a, s.byte a = memDefault a

/-- State.reset meets State.Inv: memory and registers in canonical form, queues within their depths (01_architecture.md R22,
20_register_index.md R509). -/
def Obligations.ResetKeepsInvariant : Prop := State.reset.Inv

/-- For every state s that meets State.Inv, whatever command waits at the front of its queue, a step that answers a next state answers one
that meets it: memory and register lists keep their canonical form, the fault queues of 16, the trigger queue of 32, the record queue of
64 and the host mailboxes of 32 words never exceed their depths (01_architecture.md R22, 19_host_interface_and_trace.md R498, R501). -/
def Obligations.StepKeepsInvariant : Prop := ∀ s t : State, s.Inv → step s = .next t → t.Inv

/-- No command is refused: whatever the state, a command whose payload has the length of its table answers a next state and leaves the
commands waiting as they were; one whose payload has not names no event of the hardware and ends in the fault illFormed, which is the
choice of this model (notes/assumptions/5.md). -/
def Obligations.EveryCommandCompletes : Prop := ∀ (c : Instr) (s : State),
  (c.wellFormed = true → ∃ t, exec c s = .next t ∧ t.pending = s.pending) ∧
  (c.wellFormed = false → exec c s = .fault .illFormed)

/-- The increment is 0x02000000 (2.0 ns) at reset. A write of TB.INC by a master that reaches it, while no block reset runs and no slew does,
is stored when it lies within 0x01FFF300 to 0x02000D00, and the next tick of an empty queue adds it; any other value is refused with
RESERVED_VALUE and changes no register (11_clocks_timebase_network_time.md R319). The tick of an empty queue is the choice of this model
(notes/assumptions/4.md). -/
def Obligations.TimebaseIncrement : Prop := State.reset.reg TB_INC = 0x02000000 ∧ ∀ (s : State) (m : Master) (v : BitVec 32),
  s.masterOn m → s.on RST_BLK_STAT_BUSY = false → s.on TB_SLEW_CTL_BUSY = false →
  (0x01FFF300 ≤ v.toNat ∧ v.toNat ≤ 0x02000D00 → Gives (.registerWrite m (BitVec.ofNat 32 TB_INC) v) s fun t =>
      t.reg TB_INC = v.toNat ∧ t.tb = s.tb ∧ Only s t [TB_INC] ∧
      (s.pending = [] → s.on CLK_TB_CTL_EN → ∃ u, step t = .next u ∧ u.tb = s.tb + v.toNat ∧ Only t u [LOOP_FRAME_NUM])) ∧
  (¬ (0x01FFF300 ≤ v.toNat ∧ v.toNat ≤ 0x02000D00) → Gives (.registerWrite m (BitVec.ofNat 32 TB_INC) v) s fun t =>
      t.tb = s.tb ∧ Only s t [] ∧ Posted s t srcTB 32 0xF1 clsCONFIG 1 TB_INC)

/-! ### The device, the die-to-die link and analogue parts (chapters 01 and 10) -/

/-- With no forced transition in its period, a request that R32 accepts enters its state (STOPPED from RUN starts the controlled stop, which
ends at once when every locked generator reports AT_TGT), shows the target and clears REFUSED; READY turns every local output off; DORMANT
puts every lane DOWN, stops the converters and turns local outputs off. A request made in BOOT, and any request in the period of a forced
transition, is refused: the target and REFUSED show and STATE_REFUSED is posted at S1 (01_architecture.md R32, R33; 07_lupin_engines.md
R204). A good flit that ends a silence brings the link up and clears LINK_DN of the converters; while CK_CORE stands still the inbound
queue takes flits up to 32, and the next one is discarded, counted in CRC_ERR and posted at S1; a bad flit counts CRC_ERR, posts D2D_CRC
at S0 and loses what it carries; a link that goes silent is down, with LINK_DN on each converter and D2D_DOWN at S3 (01_architecture.md
R16, R17, R22). -/
def Obligations.DeviceStateRequests : Prop := ∀ s : State,
  ((s.dev = 2 ∨ s.dev = 4) → Gives (.stateReqReady false) s fun t =>
      t.dev = 1 ∧
      t.rd SYS_STATE_REQ_TARGET = 1 ∧
      t.on SYS_STATE_REQ_REFUSED = false ∧
      (∀ m : Fin 16, (t.lp m).onA = false ∧ (t.lp m).onB = false) ∧
      Within s t [wSYS, wLPWM, wLOOP]) ∧
  ((s.dev = 1 ∨ (s.dev = 4 ∧ s.rd FLT_STAT_UNACK_HI = 0)) → s.powerSet → s.on THM_STAT_SD = false → 
    Gives (.stateReqArmed false) s fun t =>
      t.dev = 2 ∧
      t.rd SYS_STATE_REQ_TARGET = 2 ∧
      t.on SYS_STATE_REQ_REFUSED = false ∧
      (∀ e : Fin 16, t.on (PGEN_STAT_LOCKED e) = false) ∧
      Within s t [wSYS, wLPWM, wLOOP, wPGEN]) ∧
  (s.dev = 2 → s.powerSet → s.rd SAFE_STATE_STATE = 3 → s.on THM_STAT_SD = false → Gives (.stateReqRun false) s fun t =>
      t.dev = 3 ∧
      t.rd SYS_STATE_REQ_TARGET = 3 ∧
      t.on SYS_STATE_REQ_REFUSED = false ∧
      Within s t [wSYS, wLOOP]) ∧
  (s.dev = 2 → Gives (.stateReqStopped false) s fun t =>
      t.dev = 4 ∧
      t.rd SYS_STATE_REQ_TARGET = 4 ∧
      t.on SYS_STATE_REQ_REFUSED = false ∧
      Within s t [wSYS, wLOOP]) ∧
  (s.dev = 3 → s.on LOOP_CSTOP_ACTIVE = false → Gives (.stateReqStopped false) s fun t =>
      ((t.dev = 3 ∧ t.on LOOP_CSTOP_ACTIVE ∧ t.allAtTgt = false) ∨ (t.dev = 4 ∧ t.on LOOP_CSTOP_ACTIVE = false ∧ t.allAtTgt)) ∧
      t.rd SYS_STATE_REQ_TARGET = 4 ∧
      t.on SYS_STATE_REQ_REFUSED = false ∧
      (∀ n : Fin 16, s.on (PGEN_CFG_CSTOP n) → t.on (PGEN_STAT_LOCKED n)) ∧
      Within s t [wSYS, wLOOP, wPGEN]) ∧
  ((s.dev = 1 ∨ s.dev = 4) → s.wakeNow = none → Gives (.stateReqDormant false) s fun t =>
      t.dev = 5 ∧
      t.rd SYS_STATE_REQ_TARGET = 5 ∧
      t.on SYS_STATE_REQ_REFUSED = false ∧
      (∀ l : Fin 28, t.laneSt l = 0) ∧
      (∀ a : Fin 4, t.on (ADC_STAT_BUSY a) = false) ∧
      (∀ m : Fin 16, (t.lp m).onA = false ∧ (t.lp m).onB = false) ∧
      Within s t [wSYS, wLOOP, wLPWM, wLANE, wCHAIN, wCELL, wANA, wSAFE, wENG]) ∧
  (∀ (k : Fin 5),
    s.dev = 0 → 
    Gives (([Instr.stateReqReady false, .stateReqArmed false, .stateReqRun false, .stateReqStopped false, .stateReqDormant false][k])) s fun t =>
      t.dev = 0 ∧
      t.on SYS_STATE_REQ_REFUSED ∧
      t.rd SYS_STATE_REQ_TARGET = k + 1 ∧
      Posted s t srcSYS 0 1 clsCONFIG 1 (k + 1) ∧
      Only s t [SYS_STATE_REQ]) ∧
  (∀ (k : Fin 5),
    
    Gives (([Instr.stateReqReady true, .stateReqArmed true, .stateReqRun true, .stateReqStopped true, .stateReqDormant true][k])) s fun t =>
      t.dev = s.dev ∧
      t.on SYS_STATE_REQ_REFUSED ∧
      t.rd SYS_STATE_REQ_TARGET = k + 1 ∧
      Posted s t srcSYS 0 1 clsCONFIG 1 (k + 1) ∧
      Only s t [SYS_STATE_REQ]) ∧
  (∀ (x : D2dLoad), s.linkUp = false → s.on (SAFE_HLD 1) = false → Gives (.d2dFlitReceived true x) s fun t =>
      t.linkUp ∧
      (∀ a : Fin 4, t.on (ADC_STAT_LINK_DN a) = false) ∧
      MemKept s t) ∧
  (∀ (x : D2dLoad), s.linkUp → s.on (SAFE_HLD 1) → s.sys.d2dq < 32 → Gives (.d2dFlitReceived true x) s fun t =>
      t.sys.d2dq = s.sys.d2dq + 1 ∧
      Only s t []) ∧
  (∀ (x : D2dLoad), s.linkUp → s.on (SAFE_HLD 1) → s.sys.d2dq = 32 → Gives (.d2dFlitReceived true x) s fun t =>
      t.sys.d2dq = 32 ∧
      t.rd SYS_D2D_STAT_CRC_ERR = min (s.rd SYS_D2D_STAT_CRC_ERR + 1) 65535 ∧
      PostedAny s t srcANA 4 3 clsANALOG 1 ∧
      Only s t [SYS_D2D_STAT]) ∧
  (∀ (x : D2dLoad), Gives (.d2dFlitReceived false x) s fun t =>
      t.rd SYS_D2D_STAT_CRC_ERR = min (s.rd SYS_D2D_STAT_CRC_ERR + 1) 65535 ∧
      PostedAny s t srcANA 4 1 clsANALOG 0 ∧
      (x ≠ .idle → t.sys.lost = x :: s.sys.lost) ∧
      Only s t [SYS_D2D_STAT]) ∧
  (s.linkUp → Gives .d2dDown s fun t =>
      t.linkUp = false ∧
      (∀ a : Fin 4, t.on (ADC_STAT_LINK_DN a)) ∧
      PostedAny s t srcANA 4 2 clsANALOG 3 ∧
      Only s t [SYS_D2D_STAT, ADC_STAT 0, ADC_STAT 1, ADC_STAT 2, ADC_STAT 3])

/-- An event E that reaches an idle converter starts its sequence at step 0, with the sample instant and length that E took; an urgent request
of an idle converter without a waiting E samples its input 40 ns later; a calibration starts when it fits its window and the link is up,
and ends with DONE. The end of a step before the last delivers its record (the code floor(VIN * 65,536 / VREF), saturated, with the
sequence number one above the last) to the register of the step and moves to the next step, that of an urgent conversion delivers to URES
with URG set; both while the link is up, no flit with a result was lost and the queue takes it. A LO read fills the shadow of its HI word
and a HI read empties it (10_analogue_and_thermal.md R280 to R289). The reference is enabled, becomes ready and shows in every converter.
Enabling a comparator whose link is up holds its output while its settings reach the mixed-signal die and the DAC settles; the hold is
released by an input beyond a switching point, which the raw output then shows; an input past the asserting point of a settled level
drives RAW, OUT, EVENT, the assert count and the latch of LATCH 1, one past the deasserting point clears RAW, and OUT when nothing is
latched; a clear empties the latch unless the output still asserts (10_analogue_and_thermal.md R281, R291 to R295). -/
def Obligations.ConverterCommands : Prop := ∀ s : State,
  (∀ (a : Fin 4) (e len : Nat) (r : List (Nat × Nat)),
    (s.adc a).evq = (e, len) :: r → s.linkUp → len < 16 → s.on (ADC_STAT_SEQ a) = false → s.on (ADC_STAT_CAL a) = false → 
    s.on (ADC_STAT_URG a) = false → (s.adc a).waitE = none → Gives (.adcTrigger a) s fun t =>
      t.on (ADC_STAT_BUSY a) ∧
      t.on (ADC_STAT_SEQ a) ∧
      t.rd (ADC_STAT_STEP a) = 0 ∧
      (t.adc a).at0 = max e s.t16 ∧
      (t.adc a).last = len ∧
      (t.adc a).evq = r ∧
      Only s t [ADC_STAT a]) ∧
  (∀ (a : Fin 4) (e len : Nat) (r : List (Nat × Nat)),
    (s.adc a).evq = (e, len) :: r → (s.linkUp = false ∨ s.on (ADC_STAT_SEQ a) ∨ s.on (ADC_STAT_CAL a)) → 
    Gives (.adcTrigger a) s fun t =>
      t.rd (ADC_DROP_COUNT_TRIG_MISS a) = min (s.rd (ADC_DROP_COUNT_TRIG_MISS a) + 1) 65535 ∧
      PostedAny s t srcANA a 4 clsANALOG 0 ∧
      (t.adc a).evq = r ∧
      Only s t [ADC_DROP_COUNT a]) ∧
  (∀ (a : Fin 4) (v : Int),
    s.on (ADC_STAT_URG a) = false → s.on (ADC_STAT_SEQ a) → s.rd (ADC_STAT_STEP a) < (s.adc a).last → (s.adc a).last < 16 → 
    s.linkUp → s.dev ≠ 5 → s.on (SAFE_HLD 1) = false → D2dLoad.result a ∉ s.sys.lost → Gives (.adcConversionDone a v) s fun t =>
      t.rd (ADC_STAT_STEP a) = s.rd (ADC_STAT_STEP a) + 1 ∧
      t.rd ⟨ADC_RES_LO a (s.rd (ADC_STAT_STEP a)), 0, 16⟩ = (min 65535 (v * 65536 / 2500000000)).toNat ∧
      (t.rd ⟨ADC_RES_LO a (s.rd (ADC_STAT_STEP a)), 28, 4⟩ = (Tbl.get (fun _ => 0) (s.adc a).seq (s.rd (ADC_STAT_STEP a)) + 1) % 16) ∧
      t.rd ⟨ADC_RES_LO a (s.rd (ADC_STAT_STEP a)), 23, 1⟩ = 0 ∧
      t.on (ADC_STAT_BUSY a) = s.on (ADC_STAT_BUSY a) ∧
      SramOnly s t) ∧
  (∀ (a : Fin 4) (v : Int),
    s.on (ADC_STAT_URG a) → (s.adc a).waitE = none → s.linkUp → s.dev ≠ 5 → s.on (SAFE_HLD 1) = false → 
    D2dLoad.result a ∉ s.sys.lost → Gives (.adcConversionDone a v) s fun t =>
      t.on (ADC_STAT_URG a) = false ∧
      t.on (ADC_STAT_BUSY a) = false ∧
      t.rd ⟨ADC_URES_LO a, 0, 16⟩ = (min 65535 (v * 65536 / 2500000000)).toNat ∧
      t.rd ⟨ADC_URES_LO a, 16, 5⟩ = (s.adc a).urgIn % 32 ∧
      t.rd ⟨ADC_URES_LO a, 23, 1⟩ = 1 ∧
      SramOnly s t) ∧
  (∀ (a : Fin 4) (k : BitVec 3),
    s.dev ≠ 5 → s.on (ADC_CTL_EN a) → s.linkUp → s.on (ADC_STAT_BUSY a) = false → (s.adc a).evq = [] → 
    Gives (.adcUrgentGo a k) s fun t =>
      t.on (ADC_STAT_BUSY a) ∧
      t.on (ADC_STAT_URG a) ∧
      t.rd (ADC_URG_IN a) = k.toNat ∧
      (t.adc a).urgIn = 8 * a + k.toNat ∧
      (t.adc a).urgAt = s.t16 + 640 ∧
      Only s t [ADC_STAT a, ADC_URG a]) ∧
  (∀ (a : Fin 4),
    ((s.adc a).win.any fun w => decide (s.t16 + 640000 ≤ w + 16000 * s.rd (ADC_CAL_WIN_LEN a))) → s.on (ADC_STAT_BUSY a) = false → 
    s.dev ≠ 5 → s.linkUp → D2dLoad.cal a ∉ s.sys.lost → Gives (.adcCalReq a) s fun t =>
      t.on (ADC_STAT_BUSY a) ∧
      t.on (ADC_STAT_CAL a) ∧
      Only s t [ADC_STAT a]) ∧
  (∀ (a : Fin 4), s.on (ADC_STAT_CAL a) → Gives (.adcCalDone a) s fun t =>
      t.on (ADC_STAT_CAL a) = false ∧
      t.on (ADC_STAT_BUSY a) = false ∧
      t.on (ADC_CAL_DONE a) ∧
      Only s t [ADC_STAT a, ADC_CAL a]) ∧
  (∀ (a : Fin 4) (k : Fin 17), Gives (.resLoRead a k) s fun t =>
      (Tbl.find k.val (t.adc a).shadow = some (BitVec.ofNat 32 (if k.val < 16 then s.reg (ADC_RES_HI a k) else s.reg (ADC_URES_HI a)))) ∧
      Only s t []) ∧
  (∀ (a : Fin 4) (k : Fin 17), Gives (.resHiRead a k) s fun t =>
      Tbl.find k.val (t.adc a).shadow = none ∧
      Only s t []) ∧
  (Gives .refEnable s fun t =>
      t.on ANA_REF_CTL_EN ∧
      Only s t [ANA_REF_CTL]) ∧
  (s.on ANA_REF_CTL_EN → Gives .refReady s fun t =>
      t.on ANA_REF_CTL_READY ∧
      (∀ a : Fin 4, t.on (ADC_STAT_REF_RDY a)) ∧
      Only s t [ANA_REF_CTL, ADC_STAT 0, ADC_STAT 1, ADC_STAT 2, ADC_STAT 3]) ∧
  (∀ (i : Fin 24), s.linkUp → cEN (s.cmp i) = false → D2dLoad.setting i ∉ s.sys.lost → Gives (.cmpEnable i) s fun t =>
      t.on (CMP_CTL_EN i) ∧
      t.on (CMP_STAT_HELD i) ∧
      t.on (CMP_STAT_SETTLING i) ∧
      cEN (t.cmp i) ∧
      (t.cmp i).dac = s.reg (CMP_DAC i) ∧
      Within s t [wANA, wTB, wLPWM, wPROT, wTRC, wENG, wSYS, wSAFE, wLANE, wCHAIN, wCELL, wHOST, wLOOP, wFLT, wSADL]) ∧
  (∀ (i : Fin 24) (v : Int),
    s.on (CMP_STAT_HELD i) → s.on (CMP_STAT_SETTLING i) = false → s.on ANA_REF_CTL_READY → cPOL (s.cmp i) = false → 
    ((s.cmp i).dac / 4 ^ bitsOf (s.cmp i).ctl 3 2 * 4 ^ bitsOf (s.cmp i).ctl 3 2 * 2500000000 : Nat) < v * 4096 → 
    Gives (.cmpHoldRelease i v) s fun t =>
      t.on (CMP_STAT_HELD i) = false ∧
      t.on (CMP_STAT_RAW i) ∧
      t.on (CMP_STAT_OUT i) = (cEN (s.cmp i)) ∧
      Within s t [wANA, wTB, wLPWM, wPROT, wTRC, wENG, wSYS, wSAFE, wLANE, wCHAIN, wCELL, wHOST, wLOOP, wFLT, wSADL]) ∧
  (∀ (i : Fin 24), Gives (.dacSettled i) s fun t =>
      t.on (CMP_STAT_SETTLING i) = false ∧
      Only s t [CMP_STAT i]) ∧
  (∀ (i : Fin 24) (v : Int),
    cEN (s.cmp i) → s.on (CMP_STAT_HELD i) = false → s.on (CMP_STAT_SETTLING i) = false → s.on ANA_REF_CTL_READY → 
    s.on (CMP_STAT_OUT i) = false → cPOL (s.cmp i) = false → 
    ((s.cmp i).dac / 4 ^ bitsOf (s.cmp i).ctl 3 2 * 4 ^ bitsOf (s.cmp i).ctl 3 2 * 2500000000 : Nat) < v * 4096 → 
    Gives (.cmpOutputAssert i v) s fun t =>
      t.on (CMP_STAT_RAW i) ∧
      t.on (CMP_STAT_OUT i) ∧
      t.on (CMP_STAT_EVENT i) ∧
      t.rd (CMP_CNT_ASSERTS i) = min (s.rd (CMP_CNT_ASSERTS i) + 1) 65535 ∧
      (cLATCH (s.cmp i) = 1 → t.on (CMP_STAT_LATCHED i)) ∧
      Within s t [wANA, wTB, wLPWM, wPROT, wTRC, wENG, wSYS, wSAFE, wLANE, wCHAIN, wCELL, wHOST, wLOOP, wFLT, wSADL]) ∧
  (∀ (i : Fin 24) (v : Int),
    cEN (s.cmp i) → s.on (CMP_STAT_HELD i) = false → s.on (CMP_STAT_SETTLING i) = false → s.on ANA_REF_CTL_READY → 
    cLATCH (s.cmp i) = 0 → cPOL (s.cmp i) = false → 
    v * 4096 < ((s.cmp i).dac / 4 ^ bitsOf (s.cmp i).ctl 3 2 * 4 ^ bitsOf (s.cmp i).ctl 3 2 * 2500000000 : Nat) - cHyst (s.cmp i) * 4096 → 
    Gives (.cmpOutputDeassert i v) s fun t =>
      t.on (CMP_STAT_RAW i) = false ∧
      t.on (CMP_STAT_OUT i) = false ∧
      Within s t [wANA, wTB, wLPWM, wPROT, wTRC, wENG, wSYS, wSAFE, wLANE, wCHAIN, wCELL, wHOST, wLOOP, wFLT, wSADL]) ∧
  (∀ (i : Fin 24), s.cmpHeldOut i = false → Gives (.cmpClearLatch i) s fun t =>
      t.on (CMP_STAT_LATCHED i) = false ∧
      t.on (CMP_STAT_OUT i) = false ∧
      Within s t [wANA, wTB, wLPWM, wPROT, wTRC, wENG, wSYS, wSAFE, wLANE, wCHAIN, wCELL, wHOST, wLOOP, wFLT, wSADL])

/-- A request makes its sensors busy; a completed measurement of a sensor that is not broken and whose result the link brings shows the
temperature, the next count and VALID; a sensor found broken is counted and posts BROKEN at S1, without a shutdown while no group has two
votes; a sensor above 135 degrees that makes the second vote of its group shuts down: SD, S5 (pulse block and reset request) and the hold
of the island; a broken sensor that recovers or one that cools below 125 degrees takes its vote back; a wake event leaves DORMANT for
READY with its cause, the configured modes of the comparators and no indication to the island (10_analogue_and_thermal.md R297 to R301). -/
def Obligations.TemperatureAndWake : Prop := ∀ s : State,
  (∀ (m : BitVec 12) (i : Fin 12), m.toNat.testBit i → Gives (.thmRequest m) s fun t =>
      i.val ∈ t.sys.thm ∧
      Within s t [wTHM]) ∧
  (∀ (i : Fin 12) (v : BitVec 16),
    i.val ∈ s.sys.thm → s.bitAt THM_STAT_BROKEN i = false → (i.val < 9 ∨ (s.linkUp ∧ D2dLoad.temp i ∉ s.sys.lost)) → 
    Gives (.thmMeasureDone i v) s fun t =>
      t.rd ⟨THM_RES i, 0, 16⟩ = v.toNat ∧
      t.rd ⟨THM_RES i, 16, 4⟩ = (s.rd ⟨THM_RES i, 16, 4⟩ + 1) % 16 ∧
      t.rd ⟨THM_RES i, 20, 2⟩ = 1 ∧
      i.val ∉ t.sys.thm ∧
      Only s t [THM_RES i]) ∧
  (∀ (i : Fin 12),
    s.bitAt THM_STAT_BROKEN i = false → (∀ g : Fin 4, (s.setBit THM_STAT_BROKEN i).hotVotes g < 2) → s.on THM_STAT_SD = false → 
    Gives (.sensorBroken i) s fun t =>
      t.bitAt THM_STAT_BROKEN i ∧
      t.rd THM_CNT_BROKEN_EV = min (s.rd THM_CNT_BROKEN_EV + 1) 65535 ∧
      t.on THM_STAT_SD = false ∧
      Posted s t srcTHM i 1 clsTHERMAL 1 i ∧
      Within s t [wTHM]) ∧
  (∀ (i : Fin 12), (∀ g : Fin 4, (s.clrBit THM_STAT_BROKEN i).hotVotes g < 2) → Gives (.sensorBrokenClear i) s fun t =>
      t.bitAt THM_STAT_BROKEN i = false ∧
      t.on THM_STAT_SD = false ∧
      t.on THM_STAT_VOTE = false ∧
      Within s t [wTHM, wSAFE, wSYS, wLOOP, wFLT, wLPWM, wSADL, wPGEN, wANA, wLANE, wCHAIN, wCELL]) ∧
  (∀ (i : Fin 12) (v : BitVec 16),
    135 * 16 < v.toInt → s.on THM_STAT_SD = false → 2 ≤ (s.setBit THM_HOT_HOT i).hotVotes (i / 3) → 
    Gives (.sensorHot i v) s fun t =>
      t.bitAt THM_HOT_HOT i ∧
      t.on THM_STAT_SD ∧
      t.rd ⟨THM_STAT, 12 + i / 3, 1⟩ = 1 ∧
      t.rd THM_CNT_SHUTDOWNS = min (s.rd THM_CNT_SHUTDOWNS + 1) 65535 ∧
      t.on (SAFE_HLD 2) ∧
      t.on FLT_STAT_PB ∧
      t.on FLT_STAT_RSTREQ ∧
      PostedAny s t srcTHM i 2 clsTHERMAL 5 ∧
      Within s t [wTHM, wSAFE, wSYS, wLOOP, wFLT, wLPWM, wSADL, wPGEN, wANA, wLANE, wCHAIN, wCELL]) ∧
  (∀ (i : Fin 12) (v : BitVec 16),
    v.toInt < 125 * 16 → (∀ g : Fin 4, (s.clrBit THM_HOT_HOT i).hotVotes g < 2) → Gives (.sensorCool i v) s fun t =>
      t.bitAt THM_HOT_HOT i = false ∧
      t.on THM_STAT_SD = false ∧
      t.on THM_STAT_VOTE = false ∧
      Within s t [wTHM, wSAFE, wSYS, wLOOP, wFLT, wLPWM, wSADL, wPGEN, wANA, wLANE, wCHAIN, wCELL]) ∧
  (∀ (k : Fin 32),
    s.dev = 5 → (k.val = 31 ∧ s.on ANA_WAKE_TT_EN ∨ k.val < 24 ∧ s.on (CMP_CTL_WAKE_EN k) ∧ s.on (CMP_STAT_OUT k)) → 
    Gives (.wakeEvent k) s fun t =>
      t.dev = 1 ∧
      t.rd ANA_WAKE_CAUSE = k.val ∧
      (∀ i : Fin 24, t.rd (CMP_STAT_MODE_ACT i) = cMODE (s.cmp i)) ∧
      t.on (SAFE_HLD 4) = false ∧
      Within s t [wTHM, wSAFE, wSYS, wLOOP, wFLT, wLPWM, wSADL, wPGEN, wANA, wLANE, wCHAIN, wCELL])

/-! ### Faults (chapter 13) -/

/-- The message at the head of its queue enters: SEQ counts on (0 is skipped), SEQ_LAST and EVENTS of its class follow, and the history entry
at HEAD holds it at the severity in force unless frozen, in which case LOST counts; entering below S3 leaves the rest of the device as it
is. An acknowledgement moves SEQ_ACK of the unacknowledged classes of its mask to ACK_SEQ, or to SEQ when ACK_SEQ is later, never
backwards; a mask with a reserved bit is refused; a read of MSG_HI at FREEZE_IDX ends the freeze (13_fault_collection.md R369 to R380). -/
def Obligations.FaultCollector : Prop := ∀ s : State,
  (∀ (d : Fin 36) (m : Msg) (r : List Msg),
    (s.fqOf d).msgs = m :: r → mCls m < 13 → s.on FLT_HIST_STAT_FROZEN = false → Gives (.faultEntry d) s fun t =>
      (t.reg FLT_SEQ = (if (s.reg FLT_SEQ + 1) % 2 ^ 32 = 0 then 1 else (s.reg FLT_SEQ + 1) % 2 ^ 32)) ∧
      t.reg (FLT_CLS_SEQ_LAST (mCls m)) = t.reg FLT_SEQ ∧
      t.rd (FLT_CLS_CNT_EVENTS (mCls m)) = min (s.rd (FLT_CLS_CNT_EVENTS (mCls m)) + 1) 65535 ∧
      (3 ≤ s.enterSev m → t.reg (FLT_CLS_SEQ_S3 (mCls m)) = t.reg FLT_SEQ) ∧
      (4 ≤ s.enterSev m → t.reg (FLT_CLS_SEQ_S4 (mCls m)) = t.reg FLT_SEQ) ∧
      t.reg (FLT_HIST_MSG_LO (s.rd FLT_HIST_STAT_HEAD)) = (mWithSev m (s.enterSev m)).toNat % 2 ^ 32 ∧
      t.reg (FLT_HIST_MSG_HI (s.rd FLT_HIST_STAT_HEAD)) = (mWithSev m (s.enterSev m)).toNat / 2 ^ 32 ∧
      t.reg (FLT_HIST_SEQ (s.rd FLT_HIST_STAT_HEAD)) = t.reg FLT_SEQ ∧
      t.reg (FLT_HIST_T_NS (s.rd FLT_HIST_STAT_HEAD)) = s.stampNs ∧
      t.reg (FLT_HIST_T_SEC (s.rd FLT_HIST_STAT_HEAD)) = s.tb / 2 ^ 24 / 1000000000 % 2 ^ 32 ∧
      t.rd FLT_HIST_STAT_HEAD = (s.rd FLT_HIST_STAT_HEAD + 1) % 32 ∧
      t.on FLT_HIST_STAT_FROZEN = decide (4 ≤ s.enterSev m) ∧
      Within s t [wFLT, wENG, wHOST, wSYS, wLOOP, wSADL, wPGEN, wLPWM, wCELL, wCHAIN, wTRC, wPROT, wMOD]) ∧
  (∀ (d : Fin 36) (m : Msg) (r : List Msg),
    (s.fqOf d).msgs = m :: r → mCls m < 13 → s.on FLT_HIST_STAT_FROZEN → Gives (.faultEntry d) s fun t =>
      (t.reg FLT_SEQ = (if (s.reg FLT_SEQ + 1) % 2 ^ 32 = 0 then 1 else (s.reg FLT_SEQ + 1) % 2 ^ 32)) ∧
      t.reg (FLT_CLS_SEQ_LAST (mCls m)) = t.reg FLT_SEQ ∧
      t.rd (FLT_CLS_CNT_EVENTS (mCls m)) = min (s.rd (FLT_CLS_CNT_EVENTS (mCls m)) + 1) 65535 ∧
      (3 ≤ s.enterSev m → t.reg (FLT_CLS_SEQ_S3 (mCls m)) = t.reg FLT_SEQ) ∧
      (4 ≤ s.enterSev m → t.reg (FLT_CLS_SEQ_S4 (mCls m)) = t.reg FLT_SEQ) ∧
      t.rd FLT_HIST_STAT_LOST = min (s.rd FLT_HIST_STAT_LOST + 1) 65535 ∧
      t.rd FLT_HIST_STAT_HEAD = s.rd FLT_HIST_STAT_HEAD ∧
      t.on FLT_HIST_STAT_FROZEN ∧
      (∀ i : Fin 32, t.reg (FLT_HIST_SEQ i) = s.reg (FLT_HIST_SEQ i)) ∧
      Within s t [wFLT, wENG, wHOST, wSYS, wLOOP, wSADL, wPGEN, wLPWM, wCELL, wCHAIN, wTRC, wPROT, wMOD]) ∧
  (∀ (d : Fin 36) (m : Msg) (r : List Msg),
    (s.fqOf d).msgs = m :: r → mCls m < 13 → s.protCellOf m = none → s.enterSev m < 3 → s.rd TRC_TRIG_SRC ≠ 1 → 
    Gives (.faultEntry d) s fun t =>
      (t.fqOf d).msgs = r ∧
      (∀ e : Fin 36, e ≠ d → t.fqOf e = s.fqOf e) ∧
      Within s t [wFLT, wENG, wHOST]) ∧
  (∀ (m : BitVec 32) (k : Fin 13), m.toNat / 2 ^ 13 % 8 = 0 → Gives (.faultAck m) s fun t =>
      (t.reg (FLT_CLS_SEQ_ACK k) = if m.toNat.testBit k ∧ s.ahead (FLT_CLS_SEQ_LAST k) k ∧ (if later32 (s.reg FLT_ACK_SEQ) (s.reg FLT_SEQ) then s.reg FLT_SEQ else s.reg FLT_ACK_SEQ) ≠ 0 ∧ (s.reg (FLT_CLS_SEQ_ACK k) = 0 ∨ later32 (if later32 (s.reg FLT_ACK_SEQ) (s.reg FLT_SEQ) then s.reg FLT_SEQ else s.reg FLT_ACK_SEQ) (s.reg (FLT_CLS_SEQ_ACK k))) then (if later32 (s.reg FLT_ACK_SEQ) (s.reg FLT_SEQ) then s.reg FLT_SEQ else s.reg FLT_ACK_SEQ) else s.reg (FLT_CLS_SEQ_ACK k)) ∧
      t.bitAt FLT_STAT_UNACK k = t.ahead (FLT_CLS_SEQ_LAST k) k ∧
      t.bitAt FLT_STAT_UNACK_HI k = t.ahead (FLT_CLS_SEQ_S3 k) k ∧
      (t.on FLT_STAT_PB = (s.wired != 0 || (List.range 13).any fun j => t.ahead (FLT_CLS_SEQ_S4 j) j)) ∧
      t.fq = s.fq ∧
      Within s t [wFLT]) ∧
  (∀ (m : BitVec 32), m.toNat / 2 ^ 13 % 8 ≠ 0 → Gives (.faultAck m) s fun t =>
      Posted s t srcFLT 0xFF 0xF1 clsCONFIG 1 FLT_ACK ∧
      Only s t []) ∧
  (∀ (i : Fin 32), s.rd FLT_HIST_STAT_FREEZE_IDX = i.val → Gives (.histMsgHiRead i) s fun t =>
      t.on FLT_HIST_STAT_FROZEN = false ∧
      Only s t [FLT_HIST_STAT]) ∧
  (∀ (i : Fin 32), s.rd FLT_HIST_STAT_FREEZE_IDX ≠ i.val → Gives (.histMsgHiRead i) s fun t =>
      t = s)

/-- A posted message joins its queue of 16, or is held, or is counted; the other queues and memory stay; below S4 no register changes and no
output; at S4 the pulse block comes, every local output goes off and a device in ARMED or RUN stops; at S5 the reset request comes as
well, and an ACTIVE pair member offers YIELD (01_architecture.md R24; 13_fault_collection.md R371 to R377). -/
def Obligations.FaultReactions : Prop := ∀ (s : State) (src inst kind cls sev datum : Nat),
  let t := s.post src inst kind cls sev datum
  let d := domainOf src inst
  let m := msgOf src inst kind cls sev datum
  let q := s.fqOf d
  (q.msgs.length < 16 → q.held = none → (t.fqOf d).msgs = q.msgs ++ [m] ∧ (t.fqOf d).held = none ∧ (t.fqOf d).lost = q.lost) ∧
  (16 ≤ q.msgs.length → q.held = none → (t.fqOf d).msgs = q.msgs ∧ (t.fqOf d).held = some m ∧ (t.fqOf d).lost = q.lost) ∧
  (q.held.isSome → (t.fqOf d).msgs = q.msgs ∧ (t.fqOf d).held = q.held ∧ (t.fqOf d).lost = q.lost + 1) ∧
  (∀ e, e ≠ d → t.fqOf e = s.fqOf e) ∧ (∀ a, t.byte a = s.byte a) ∧
  (sev < 4 → t.regs = s.regs ∧ t.lpwm = s.lpwm) ∧
  (4 ≤ sev → t.on FLT_STAT_PB ∧ (∀ k, k < 16 → (t.lp k).onA = false ∧ (t.lp k).onB = false) ∧
    (s.dev = 2 ∨ s.dev = 3 → t.dev = 4) ∧ (s.dev ≠ 2 → s.dev ≠ 3 → t.dev = s.dev) ∧
    Within s t [wSYS, wFLT, wLOOP, wSADL, wLPWM]) ∧
  (5 ≤ sev → t.on FLT_STAT_RSTREQ ∧ (s.rd SADL_STAT_ROLE = 3 → t.on SADL_STAT_YIELD_TX))

/-! ### Clocks, timebase, triggers and captures (chapter 11) -/

/-- Enabling an ADPLL sets EN (the timebase ADPLL takes its selected reference); a lost reference makes the ADPLLs that use it coast, with the
loss counted and REF_LOSS at S1; a qualified one is shown, and the timebase ADPLL that coasted on it reports its phase jump; a change of
reference coasts until it is done, with its jump; a lock window counts as good or bad, M good ones in a row lock and two bad ones in a row
lose lock at S4; the DLL locks, and its loss posts DLL_LOST at S4; a failed lock attempt of BOOT starts again
(11_clocks_timebase_network_time.md R306 to R316). Windows are judged here at the nominal frequency. A system ramp, a spread setting or a
timebase ramp that its rule allows starts (BUSY) or takes effect, and ends with DONE and the new frequency; one that is refused sets its
REF bit and the first reason that applies and posts RAMP_REFUSED at S1; a spread deeper than 1 % is a reserved value
(11_clocks_timebase_network_time.md R311 to R313). -/
def Obligations.ClockCommands : Prop := ∀ s : State,
  (s.on CLK_SYS_CTL_EN = false → Gives .sysAdpllEnable s fun t =>
      t.on CLK_SYS_CTL_EN ∧
      t.sys.pllS.good = 0 ∧
      t.sys.pllS.bad = 0 ∧
      Only s t [CLK_SYS_CTL]) ∧
  (s.on CLK_SYS_CTL_EN → Gives .sysAdpllEnable s fun t =>
      t = s) ∧
  (s.on CLK_TB_CTL_EN = false → Gives .tbAdpllEnable s fun t =>
      t.on CLK_TB_CTL_EN ∧
      t.sys.pllT.good = 0 ∧
      t.sys.pllT.bad = 0 ∧
      t.rd CLK_TB_STAT_SRC_ACT = s.rd CLK_TB_CTL_SRC ∧
      Only s t [CLK_TB_CTL, CLK_TB_STAT]) ∧
  (s.on CLK_TB_CTL_EN → Gives .tbAdpllEnable s fun t =>
      t = s) ∧
  (∀ (r : Fin 2), s.on (refOK r) → s.sys.swTo = none → Gives (.refLoss r) s fun t =>
      t.on (refOK r) = false ∧
      (r = 0 → t.on CLK_SYS_STAT_REF_OK = false) ∧
      (r = 0 → s.on CLK_SYS_CTL_EN → t.on CLK_SYS_STAT_COAST) ∧
      (s.on CLK_TB_CTL_EN → s.rd CLK_TB_STAT_SRC_ACT = r.val → t.on CLK_TB_STAT_COAST ∧ t.rd CLK_CLK_CNT_T_LOSS = min (s.rd CLK_CLK_CNT_T_LOSS + 1) 255 ∧ t.sys.swTo = if s.on CLK_TB_CTL_AUTO_SW ∧ s.on (refOK (1 - r.val)) then some (1 - r.val) else none) ∧
      (s.on CLK_TB_CTL_EN = false ∨ s.rd CLK_TB_STAT_SRC_ACT ≠ r.val → t.on CLK_TB_STAT_COAST = s.on CLK_TB_STAT_COAST ∧ t.sys.swTo = none) ∧
      Within s t [wCLK]) ∧
  (s.on CLK_TB_STAT_REF0_OK → s.on CLK_SYS_CTL_EN → s.sys.swTo = none → 
    (s.on CLK_TB_CTL_EN = false ∨ s.rd CLK_TB_STAT_SRC_ACT ≠ 0) → Gives (.refLoss 0) s fun t =>
      t.rd CLK_CLK_CNT_S_LOSS = min (s.rd CLK_CLK_CNT_S_LOSS + 1) 255 ∧
      PostedAny s t srcCLK 0 1 clsCLOCK 1 ∧
      Within s t [wCLK]) ∧
  (∀ (r : Fin 2), s.on (refOK r) → s.sys.swTo = none → (r = 1 ∨ s.on CLK_SYS_CTL_EN = false) → Gives (.refLoss r) s fun t =>
      PostedAny s t srcCLK 1 1 clsCLOCK 1 ∧
      Within s t [wCLK]) ∧
  (∀ (r : Fin 2), s.on (refOK r) = false → Gives (.refLoss r) s fun t =>
      t = s) ∧
  (∀ (r : Fin 2) (j : BitVec 24), s.on (refOK r) = false → Gives (.refQualified r j) s fun t =>
      t.on (refOK r) ∧
      (r = 0 → t.on CLK_SYS_STAT_REF_OK) ∧
      (r = 0 → s.on CLK_SYS_STAT_COAST → t.sys.pllS.relock) ∧
      Within s t [wCLK]) ∧
  (∀ (r : Fin 2) (j : BitVec 24),
    s.on (refOK r) = false → s.on CLK_TB_STAT_COAST → s.rd CLK_TB_STAT_SRC_ACT = r.val → s.sys.swTo = none → 
    Gives (.refQualified r j) s fun t =>
      t.on CLK_REF_PHASE_JUMP_VALID ∧
      t.rd CLK_REF_PHASE_JUMP_JUMP = ofInt 24 (jumpOf r (toInt 24 j.toNat)) ∧
      Posted s t srcCLK 1 2 clsCLOCK 1 (ofInt 31 (jumpOf r (toInt 24 j.toNat))) ∧
      Within s t [wCLK]) ∧
  (∀ (r : Fin 2) (j : BitVec 24), s.on (refOK r) → Gives (.refQualified r j) s fun t =>
      t = s) ∧
  (∀ (r : Fin 2), s.on CLK_TB_CTL_EN = false → Gives (.tbRefSwitch r) s fun t =>
      t.rd CLK_TB_CTL_SRC = r.val ∧
      t.rd CLK_TB_STAT_SRC_ACT = r.val ∧
      Only s t [CLK_TB_CTL, CLK_TB_STAT]) ∧
  (∀ (r : Fin 2), s.on CLK_TB_CTL_EN → s.rd CLK_TB_STAT_SRC_ACT ≠ r.val → s.sys.swTo ≠ some r.val → Gives (.tbRefSwitch r) s fun t =>
      t.rd CLK_TB_CTL_SRC = r.val ∧
      t.sys.swTo = some r.val ∧
      t.on CLK_RAMP_STAT_T_BUSY ∧
      t.on CLK_TB_STAT_COAST ∧
      t.rd CLK_TB_STAT_SRC_ACT = s.rd CLK_TB_STAT_SRC_ACT ∧
      Only s t [CLK_TB_CTL, CLK_TB_STAT, CLK_RAMP_STAT]) ∧
  (∀ (r : Fin 2),
    s.on CLK_TB_CTL_EN → s.rd CLK_TB_STAT_SRC_ACT = r.val → s.on CLK_TB_STAT_COAST = false → Gives (.tbRefSwitch r) s fun t =>
      t.rd CLK_TB_CTL_SRC = r.val ∧
      t.sys = s.sys ∧
      Only s t [CLK_TB_CTL]) ∧
  (∀ (r : Fin 2) (j : BitVec 24), s.sys.swTo = some r.val → s.sys.swRamp → Gives (.tbRefSwitchDone j) s fun t =>
      t.sys.swTo = none ∧
      t.on CLK_RAMP_STAT_T_BUSY = false ∧
      t.on CLK_RAMP_STAT_T_DONE ∧
      t.rd CLK_TB_STAT_SRC_ACT = r.val ∧
      t.on CLK_REF_PHASE_JUMP_VALID ∧
      t.rd CLK_REF_PHASE_JUMP_JUMP = ofInt 24 (jumpOf r (toInt 24 j.toNat)) ∧
      Posted s t srcCLK 1 2 clsCLOCK 1 (ofInt 31 (jumpOf r (toInt 24 j.toNat))) ∧
      Within s t [wCLK]) ∧
  (s.on CLK_TB_STAT_LOCK → Gives .dllLock s fun t =>
      t.on CLK_TB_STAT_DLL_LOCK ∧
      Only s t [CLK_TB_STAT]) ∧
  (s.on CLK_TB_STAT_LOCK = false → Gives .dllLock s fun t =>
      t = s) ∧
  (s.on CLK_TB_STAT_DLL_LOCK → Gives .dllLost s fun t =>
      t.on CLK_TB_STAT_DLL_LOCK = false ∧
      t.on FLT_STAT_PB ∧
      PostedAny s t srcCLK 1 5 clsCLOCK 4 ∧
      Within s t [wCLK, wSYS, wFLT, wLOOP, wSADL, wLPWM]) ∧
  (s.dev = 0 → s.limp → s.on CLK_SYS_STAT_LOCK = false → Gives .bootLockRetry s fun t =>
      PostedAny s t srcCLK 0 6 clsCLOCK 1 ∧
      t.sys.pllS.good = 0 ∧
      t.sys.pllS.bad = 0 ∧
      t.regs = s.regs ∧
      t.mem = s.mem) ∧
  (∀ (p : Fin 2) (d : Nat),
    s.dev ≠ 0 → 
    ((p = 0 → s.rd CLK_SYS_FREQ_KHZ = 800000 ∧ s.on CLK_RAMP_STAT_S_BUSY = false ∧ s.on CLK_SYS_STAT_SPREAD = false) ∧ (p = 1 → s.sys.tbOfs = 0 ∧ s.on CLK_RAMP_STAT_T_BUSY = false ∧ s.sys.swTo = none)) → 
    s.on (pllEN p) → s.on (pllLOCK p) → s.on (pllCOAST p) = false → 
    2 ^ (s.pll p).k ≤ d + (s.pll p).tol ∧ d ≤ 2 ^ (s.pll p).k + (s.pll p).tol → Gives (.lockWindowEnd p d) s fun t =>
      (t.pll p).good = (s.pll p).good + 1 ∧
      (t.pll p).bad = 0 ∧
      t.regs = s.regs ∧
      t.mem = s.mem ∧
      t.fq = s.fq) ∧
  (∀ (p : Fin 2) (d : Nat),
    s.dev ≠ 0 → 
    ((p = 0 → s.rd CLK_SYS_FREQ_KHZ = 800000 ∧ s.on CLK_RAMP_STAT_S_BUSY = false ∧ s.on CLK_SYS_STAT_SPREAD = false) ∧ (p = 1 → s.sys.tbOfs = 0 ∧ s.on CLK_RAMP_STAT_T_BUSY = false ∧ s.sys.swTo = none)) → 
    s.on (pllEN p) → s.on (pllLOCK p) = false → s.on (pllCOAST p) = false → 
    2 ^ (s.pll p).k ≤ d + (s.pll p).tol ∧ d ≤ 2 ^ (s.pll p).k + (s.pll p).tol → (s.pll p).m ≤ (s.pll p).good + 1 → 
    Gives (.lockWindowEnd p d) s fun t =>
      t.on (pllLOCK p) ∧
      (p = 1 → t.sys.dith = s.rd CLK_TB_DITHER_SEED) ∧
      t.fq = s.fq ∧
      Within s t [wCLK]) ∧
  (∀ (p : Fin 2) (d : Nat),
    s.dev ≠ 0 → 
    ((p = 0 → s.rd CLK_SYS_FREQ_KHZ = 800000 ∧ s.on CLK_RAMP_STAT_S_BUSY = false ∧ s.on CLK_SYS_STAT_SPREAD = false) ∧ (p = 1 → s.sys.tbOfs = 0 ∧ s.on CLK_RAMP_STAT_T_BUSY = false ∧ s.sys.swTo = none)) → 
    s.on (pllEN p) → s.on (pllLOCK p) → s.on (pllCOAST p) = false → s.on (refOK (s.refOf p)) → 1 ≤ (s.pll p).bad → 
    ¬ (2 ^ (s.pll p).k ≤ d + (s.pll p).tol ∧ d ≤ 2 ^ (s.pll p).k + (s.pll p).tol) → Gives (.lockWindowEnd p d) s fun t =>
      t.on (pllLOCK p) = false ∧
      t.rd CLK_CLK_CNT_LOL = min (s.rd CLK_CLK_CNT_LOL + 1) 255 ∧
      t.on FLT_STAT_PB ∧
      PostedAny s t srcCLK p 3 clsCLOCK 4 ∧
      (p = 0 → t.limp) ∧
      LocalOnly s t ∧
      RegsIn s t [wCLK, wSYS, wFLT, wLOOP, wSADL, wLPWM, wLANE, wCHAIN, wCELL, wENG, wMOD, wPROT, wPGEN]) ∧
  (s.allFit (s.rd CLK_SYS_RAMP_END) s.spreadNow → s.on CLK_RAMP_STAT_S_BUSY = false → 400000 ≤ s.rd CLK_SYS_RAMP_END → 
    s.rd CLK_SYS_RAMP_END ≤ 800000 → s.on CLK_SYS_CTL_EN → s.on CLK_SYS_STAT_LOCK → s.limp = false → Gives .sysRampGo s fun t =>
      t.on CLK_RAMP_STAT_S_BUSY ∧
      t.on CLK_SYS_STAT_RAMPING ∧
      t.sys.rampTo = s.rd CLK_SYS_RAMP_END ∧
      t.fq = s.fq ∧
      Only s t [CLK_RAMP_STAT, CLK_SYS_STAT]) ∧
  (∀ (y : Nat),
    
    (y = if s.allFit (s.rd CLK_SYS_RAMP_END) s.spreadNow = false then 1 else if s.on CLK_RAMP_STAT_S_BUSY then 2 else if s.rd CLK_SYS_RAMP_END < 400000 ∨ 800000 < s.rd CLK_SYS_RAMP_END then 3 else if s.on CLK_SYS_CTL_EN = false ∨ s.on CLK_SYS_STAT_LOCK = false then 4 else if s.limp then 5 else 0) → 
    y ≠ 0 → Gives .sysRampGo s fun t =>
      t.on CLK_RAMP_STAT_S_REF ∧
      t.rd CLK_RAMP_STAT_S_WHY = y ∧
      Posted s t srcCLK 0 4 clsCLOCK 1 y ∧
      Only s t [CLK_RAMP_STAT]) ∧
  (s.on CLK_RAMP_STAT_S_BUSY → Gives .sysRampDone s fun t =>
      t.on CLK_RAMP_STAT_S_BUSY = false ∧
      t.on CLK_SYS_STAT_RAMPING = false ∧
      t.on CLK_RAMP_STAT_S_DONE ∧
      t.rd CLK_SYS_FREQ_KHZ = s.sys.rampTo % 2 ^ 20 ∧
      Only s t [CLK_RAMP_STAT, CLK_SYS_STAT, CLK_SYS_FREQ]) ∧
  (∀ (d : BitVec 7),
    d.toNat ≤ 100 → (s.allFit s.centre d.toNat ∨ (s.on CLK_SYS_STAT_SPREAD ∧ d.toNat ≤ s.rd CLK_SYS_SPREAD_DEPTH)) → 
    Gives (.spreadRequest true d) s fun t =>
      t.rd CLK_SYS_SPREAD_DEPTH = d.toNat ∧
      t.on CLK_SYS_SPREAD_EN ∧
      t.on CLK_SYS_STAT_SPREAD ∧
      t.fq = s.fq ∧
      Only s t [CLK_SYS_SPREAD, CLK_SYS_STAT]) ∧
  (∀ (d : BitVec 7),
    d.toNat ≤ 100 → s.allFit s.centre d.toNat = false → (s.on CLK_SYS_STAT_SPREAD = false ∨ s.rd CLK_SYS_SPREAD_DEPTH < d.toNat) → 
    Gives (.spreadRequest true d) s fun t =>
      t.on CLK_RAMP_STAT_S_REF ∧
      t.rd CLK_RAMP_STAT_S_WHY = 1 ∧
      Posted s t srcCLK 0 4 clsCLOCK 1 1 ∧
      Only s t [CLK_RAMP_STAT]) ∧
  (∀ (d : BitVec 7), d.toNat ≤ 100 → Gives (.spreadRequest false d) s fun t =>
      t.rd CLK_SYS_SPREAD_DEPTH = d.toNat ∧
      t.on CLK_SYS_SPREAD_EN = false ∧
      t.on CLK_SYS_STAT_SPREAD = false ∧
      t.fq = s.fq ∧
      Only s t [CLK_SYS_SPREAD, CLK_SYS_STAT]) ∧
  (∀ (b : Bool) (d : BitVec 7), 100 < d.toNat → Gives (.spreadRequest b d) s fun t =>
      Posted s t srcCLK 0 0xF1 clsCONFIG 1 CLK_SYS_SPREAD ∧
      Only s t []) ∧
  ((toInt 16 (s.rd CLK_TB_RAMP_END)).natAbs ≤ 10000 → s.on CLK_RAMP_STAT_T_BUSY = false → s.on CLK_TB_CTL_EN → 
    s.on CLK_TB_STAT_LOCK → s.limp = false → Gives .tbRampGo s fun t =>
      t.on CLK_RAMP_STAT_T_BUSY ∧
      t.on CLK_TB_STAT_RAMPING ∧
      t.sys.tbTo = toInt 16 (s.rd CLK_TB_RAMP_END) ∧
      t.fq = s.fq ∧
      Only s t [CLK_RAMP_STAT, CLK_TB_STAT]) ∧
  (∀ (y : Nat),
    
    (y = if s.on CLK_RAMP_STAT_T_BUSY then 2 else if 10000 < (toInt 16 (s.rd CLK_TB_RAMP_END)).natAbs then 3 else if s.on CLK_TB_CTL_EN = false ∨ s.on CLK_TB_STAT_LOCK = false then 4 else if s.limp then 5 else 0) → 
    y ≠ 0 → Gives .tbRampGo s fun t =>
      t.on CLK_RAMP_STAT_T_REF ∧
      t.rd CLK_RAMP_STAT_T_WHY = y ∧
      Posted s t srcCLK 1 4 clsCLOCK 1 y ∧
      Only s t [CLK_RAMP_STAT]) ∧
  (s.on CLK_RAMP_STAT_T_BUSY → s.sys.swTo = none → Gives .tbRampDone s fun t =>
      t.on CLK_RAMP_STAT_T_BUSY = false ∧
      t.on CLK_TB_STAT_RAMPING = false ∧
      t.on CLK_RAMP_STAT_T_DONE ∧
      t.sys.tbOfs = s.sys.tbTo ∧
      Only s t [CLK_RAMP_STAT, CLK_TB_STAT])

/-- A slew starts from the signed amount, sets COLL when one runs, is refused when INC and RATE leave their range together, stops, or
completes in the frame in progress with BUSY clear and DONE, the amount that remained added to the increments of its ticks; SET_CTL.GO
puts the timebase at the seconds and nanoseconds of its registers while grid, modulator and chains are off, and is refused otherwise; a
read of NOW_NS takes seconds, nanoseconds and fraction of one instant (11_clocks_timebase_network_time.md R318 to R322). That the last
tick of a slew comes in the frame in progress is the choice of this model (notes/assumptions/87.md). -/
def Obligations.TimebaseCommands : Prop := ∀ s : State,
  (s.on TB_SLEW_CTL_BUSY = false → ((s.reg TB_INC : Int) - 0x2000000).natAbs + s.rd TB_SLEW_CTL_RATE ≤ 0x0D00 → 
    s.rd TB_SLEW_AMT_AMT ≠ 0 → Gives .slewGo s fun t =>
      t.on TB_SLEW_CTL_BUSY ∧
      t.sys.slew = toInt 24 (s.rd TB_SLEW_AMT_AMT) * 1048576 ∧
      t.tb = s.tb ∧
      Only s t [TB_SLEW_CTL]) ∧
  (s.on TB_SLEW_CTL_BUSY = false → 0x0D00 < ((s.reg TB_INC : Int) - 0x2000000).natAbs + s.rd TB_SLEW_CTL_RATE → Gives .slewGo s fun t =>
      t.tb = s.tb ∧
      t.sys = s.sys ∧
      Posted s t srcTB 32 0xF1 clsCONFIG 1 TB_SLEW_CTL ∧
      Only s t []) ∧
  (s.on TB_SLEW_CTL_BUSY → Gives .slewGo s fun t =>
      t.on TB_SLEW_CTL_COLL ∧
      t.on TB_SLEW_CTL_BUSY ∧
      t.sys.slew = s.sys.slew ∧
      t.tb = s.tb ∧
      Only s t [TB_SLEW_CTL]) ∧
  (Gives .slewStop s fun t =>
      t.on TB_SLEW_CTL_BUSY = false ∧
      t.tb = s.tb ∧
      Only s t [TB_SLEW_CTL]) ∧
  (s.on CLK_TB_CTL_EN → s.on TB_SLEW_CTL_BUSY → 0 < s.rd TB_SLEW_CTL_RATE → 
    s.slewTo < (max s.frame s.frames + 1) * 1000 * 2 ^ 24 → Gives .slewDone s fun t =>
      t.on TB_SLEW_CTL_BUSY = false ∧
      t.on TB_SLEW_CTL_DONE ∧
      t.sys.slew = 0 ∧
      t.tb = (((s.tb + ceilDiv s.sys.slew.natAbs (s.rd TB_SLEW_CTL_RATE) * s.reg TB_INC : Nat) : Int) + s.sys.slew).toNat ∧
      Only s t [LOOP_FRAME_NUM, TB_SLEW_CTL]) ∧
  (s.on LOOP_CYC_CFG_EN = false → s.on MOD_CFG_EN = false → (∀ n : Fin 24, s.on (CHAIN_CFG_EN n) = false) → 
    Gives .timebaseSet s fun t =>
      t.tb = ((s.reg TB_SET_SEC + s.rd TB_SET_SECH_SECH * 2 ^ 32) * 1000000000 + s.rd TB_SET_NS_NS) * 2 ^ 24 ∧
      t.frames = t.frame ∧
      t.on TB_SLEW_CTL_BUSY = false ∧
      t.rd LOOP_FRAME_NUM_FRAME = t.tb / 2 ^ 24 / 1000 % 2 ^ 32 ∧
      t.isl.resync ∧
      (∀ k : Fin 32, (s.tt k).next.isSome → (t.tt k).next = some (t.ttFirst (s.tt k).start (s.tt k).period)) ∧
      Only s t [LOOP_FRAME_NUM, TB_SLEW_CTL]) ∧
  ((s.on LOOP_CYC_CFG_EN ∨ s.on MOD_CFG_EN ∨ ∃ n : Fin 24, s.on (CHAIN_CFG_EN n)) → Gives .timebaseSet s fun t =>
      t.tb = s.tb ∧
      Posted s t srcTB 32 0xF1 clsCONFIG 1 TB_SET_CTL ∧
      Only s t []) ∧
  (Gives .timebaseSnapshotRead s fun t =>
      t.reg TB_NOW_NS = s.tb / 2 ^ 24 % 1000000000 + s.tb / 2 ^ 24 / 1000000000 % 4 * 2 ^ 30 ∧
      t.reg TB_NOW_SEC = s.tb / 2 ^ 24 / 1000000000 % 2 ^ 32 ∧
      t.rd TB_NOW_SECH_SECH = s.tb / 2 ^ 24 / 1000000000 / 2 ^ 32 % 2 ^ 16 ∧
      t.rd TB_NOW_FRAC_FRAC = s.tb % 2 ^ 24 ∧
      t.tb = s.tb ∧
      Only s t [TB_NOW_NS, TB_NOW_SEC, TB_NOW_SECH, TB_NOW_FRAC])

/-- A write of CFG arms a trigger (mode 1 from START, or from the first instant of START plus a multiple of PERIOD after the present) and one
of a reserved cell is refused; its event occurs at the first tick at or after its instant (ticks at even nanoseconds:
notes/assumptions/112.md), counts, advances and enters the trigger queue for the slots that name it, or is dropped when 32 wait; in
DORMANT it does no more than wake when WAKE names it; a release and a prefetch come from the queue; a capture takes the instant of an edge
at PPS_IN of the kind it selects, or counts OVR while NEW is set (11_clocks_timebase_network_time.md R323 to R326). -/
def Obligations.TriggersAndCaptures : Prop := ∀ s : State,
  (∀ (k : Fin 32) (w : BitVec 32),
    w.toNat / 8 % 256 < 192 → (s.on CLK_TB_CTL_EN = false ∨ s.ttDueNow k = false) → Gives (.ttArm k w) s fun t =>
      t.reg (TB_TT_CFG k) = w.toNat % 2 ^ 17 ∧
      (w.toNat % 4 = 1 → (t.tt k).next = some (if s.tb / 2 ^ 24 < s.reg (TB_TT_START_SEC k) * 1000000000 + s.rd (TB_TT_START_NS_NS k) then s.reg (TB_TT_START_SEC k) * 1000000000 + s.rd (TB_TT_START_NS_NS k) else s.reg (TB_TT_START_SEC k) * 1000000000 + s.rd (TB_TT_START_NS_NS k) + ((s.tb / 2 ^ 24 - (s.reg (TB_TT_START_SEC k) * 1000000000 + s.rd (TB_TT_START_NS_NS k))) / s.rd (TB_TT_PERIOD_NS k) + 1) * s.rd (TB_TT_PERIOD_NS k))) ∧
      (w.toNat % 4 ≠ 1 → (t.tt k).next = none) ∧
      (t.tt k).period = s.rd (TB_TT_PERIOD_NS k) ∧
      (t.tt k).dues = [] ∧
      (∀ j : Fin 32, j ≠ k → t.tt j = s.tt j) ∧
      Only s t [TB_TT_CFG k]) ∧
  (∀ (k : Fin 32) (w : BitVec 32), 192 ≤ w.toNat / 8 % 256 → Gives (.ttArm k w) s fun t =>
      t.tts = s.tts ∧
      Posted s t srcTB k 0xF1 clsCONFIG 1 (TB_TT_CFG k) ∧
      Only s t []) ∧
  (∀ (k : Fin 32) (i : Nat),
    s.on CLK_TB_CTL_EN → s.rd (TB_TT_CFG_MODE k) = 1 → (s.tt k).next = some i → s.dev ≠ 5 → Gives (.ttEvent k) s fun t =>
      t.tb = max s.tb (ceilDiv (i * 2 ^ 24) (2 ^ 25) * 2 ^ 25) ∧
      (t.tt k).next = some (i + (s.tt k).period) ∧
      t.reg (TB_TT_CNT k) = (s.reg (TB_TT_CNT k) + 1) % 2 ^ 32 ∧
      t.on (TB_TT_STAT_FIRED k) ∧
      (s.ttRel k ∨ s.ttPf k → s.trigq.length < 32 → t.trigq = s.trigq ++ [{ t := k, rel := s.ttRel k, pf := s.ttPf k }]) ∧
      (s.ttRel k ∨ s.ttPf k → 32 ≤ s.trigq.length → t.trigq = s.trigq ∧ t.rd (TB_TT_STAT_DROPS k) = min (s.rd (TB_TT_STAT_DROPS k) + 1) 65535 ∧ Posted s t srcTB k 1 clsTIMING 1 k) ∧
      (s.on (TB_TT_CFG_IRQ k) → t.bitAt (ENG_IRQ_PEND_PEND 16) 6) ∧
      (s.on TB_PPS_CFG_EN → s.rd TB_PPS_CFG_TT = k.val → s.rd (TB_TT_CFG_MODE k) = 1 → t.sys.pps) ∧
      Within s t [wTB, wLOOP, wENG, wANA, wTRC, wCAN, wFLT, wHOST]) ∧
  (∀ (k : Fin 32) (i : Nat) (r : List Nat),
    s.on CLK_TB_CTL_EN → s.rd (TB_TT_CFG_MODE k) ≠ 1 → (s.tt k).dues = i :: r → s.dev ≠ 5 → Gives (.ttEvent k) s fun t =>
      t.tb = max s.tb (ceilDiv (i * 2 ^ 20) (2 ^ 25) * 2 ^ 25) ∧
      (t.tt k).dues = r ∧
      t.reg (TB_TT_CNT k) = (s.reg (TB_TT_CNT k) + 1) % 2 ^ 32 ∧
      t.on (TB_TT_STAT_FIRED k) ∧
      (s.ttRel k ∨ s.ttPf k → s.trigq.length < 32 → t.trigq = s.trigq ++ [{ t := k, rel := s.ttRel k, pf := s.ttPf k }]) ∧
      (s.ttRel k ∨ s.ttPf k → 32 ≤ s.trigq.length → t.trigq = s.trigq ∧ t.rd (TB_TT_STAT_DROPS k) = min (s.rd (TB_TT_STAT_DROPS k) + 1) 65535 ∧ Posted s t srcTB k 1 clsTIMING 1 k) ∧
      (s.on (TB_TT_CFG_IRQ k) → t.bitAt (ENG_IRQ_PEND_PEND 16) 6) ∧
      (s.on TB_PPS_CFG_EN → s.rd TB_PPS_CFG_TT = k.val → s.rd (TB_TT_CFG_MODE k) = 1 → t.sys.pps) ∧
      Within s t [wTB, wLOOP, wENG, wANA, wTRC, wCAN, wFLT, wHOST]) ∧
  (∀ (k : Fin 32) (i : Nat),
    s.on CLK_TB_CTL_EN → s.rd (TB_TT_CFG_MODE k) = 1 → (s.tt k).next = some i → s.dev = 5 → 
    (s.on ANA_WAKE_TT_EN = false ∨ s.rd ANA_WAKE_TT_SEL ≠ k.val) → Gives (.ttEvent k) s fun t =>
      t.dev = 5 ∧
      t.trigq = s.trigq ∧
      Only s t [LOOP_FRAME_NUM, TB_TT_STAT k, TB_TT_CNT k]) ∧
  (∀ (k : Fin 32) (i : Nat),
    s.on CLK_TB_CTL_EN → s.rd (TB_TT_CFG_MODE k) = 1 → (s.tt k).next = some i → s.dev = 5 → 
    s.on ANA_WAKE_TT_EN ∧ s.rd ANA_WAKE_TT_SEL = k.val → Gives (.ttEvent k) s fun t =>
      t.dev = 1 ∧
      t.rd ANA_WAKE_CAUSE = 31 ∧
      t.trigq = s.trigq ∧
      MemKept s t) ∧
  (Gives .ppsWidthEnd s fun t =>
      t.sys.pps = false ∧
      t.regs = s.regs ∧
      t.mem = s.mem ∧
      t.fq = s.fq) ∧
  (∀ (k : Fin 8) (up : Bool) (q : Fin 8),
    s.on CLK_TB_CTL_EN → s.on (TB_CAP_CFG_EN k) → s.rd (TB_CAP_CFG_SRC k) = 24 → s.on (TB_CAP_CFG_EDGE k) = !up → 
    s.on (TB_CAP_STAT_NEW k) = false → Gives (.captureEdge k up q) s fun t =>
      t.on (TB_CAP_STAT_NEW k) ∧
      t.rd (TB_CAP_NS_QTR k) = (s.tb / 2 ^ 22 + q) % 4 ∧
      t.rd (TB_CAP_NS_NS k) = (s.tb / 2 ^ 22 + q) / 4 % 1000000000 ∧
      t.reg (TB_CAP_SEC k) = (s.tb / 2 ^ 22 + q) / 4 / 1000000000 % 2 ^ 32 ∧
      Only s t [TB_CAP_STAT k, TB_CAP_NS k, TB_CAP_SEC k]) ∧
  (∀ (k : Fin 8) (up : Bool) (q : Fin 8),
    s.on CLK_TB_CTL_EN → s.on (TB_CAP_CFG_EN k) → s.rd (TB_CAP_CFG_SRC k) = 24 → s.on (TB_CAP_CFG_EDGE k) = !up → 
    s.on (TB_CAP_STAT_NEW k) → Gives (.captureEdge k up q) s fun t =>
      t.rd (TB_CAP_STAT_OVR k) = min (s.rd (TB_CAP_STAT_OVR k) + 1) 65535 ∧
      Only s t [TB_CAP_STAT k]) ∧
  (∀ (k : Fin 8) (up : Bool) (q : Fin 8),
    (s.on (TB_CAP_CFG_EN k) = false ∨ s.rd (TB_CAP_CFG_SRC k) ≠ 24 ∨ s.on (TB_CAP_CFG_EDGE k) = up) → 
    Gives (.captureEdge k up q) s fun t =>
      t = s) ∧
  (∀ (k : Fin 32) (n : Fin 16) (j : Fin 8) (r : List TrigE),
    s.trigq = { t := k, rel := true, pf := false } :: r → s.slotEn n j → s.rd (ENG_TASK_CFG_TT n j) = k.val → s.limp = false → 
    s.engSt n = 1 → (s.eng n).migr = false → j.val ∉ (s.eng n).relq → j.val ∉ (s.eng n).held → Gives (.taskRelease k) s fun t =>
      t.trigq = r ∧
      j.val ∈ (t.eng n).relq ∧
      LocalOnly s t ∧
      RegsIn s t [wENG]) ∧
  (∀ (k : Fin 32) (n : Fin 16) (j : Fin 8) (r : List TrigE),
    s.trigq = { t := k, rel := false, pf := true } :: r → s.slotEn n j → s.on (ENG_TASK_CFG_PF_EN n j) → 
    s.rd (ENG_TASK_CFG_PF_TT n j) = k.val → s.limp = false → s.engSt n = 1 → Gives (.prefetchInStart k) s fun t =>
      t.trigq = r ∧
      (∀ d : Fin 16, d.val ∈ s.descs n j false → d.val ∈ (t.eng n).pfIn) ∧
      LocalOnly s t ∧
      RegsIn s t [wENG, wPGEN])

/-! ### The safety island (chapter 14) -/

/-- A pulse-block channel that opens demands and latches SPB, counts a trip, posts it at S1 and leaves RUN; a door channel does so in RUN,
trips in SAFE when its lock is not released, and else counts for the proof test; closing both ends the demand and never the latch, and
passes the proof test when both opened and closed within 100 ms; disagreement, overcurrent, reverse export, a stuck line and position and
voltage results have the effects of R391 to R398; no event of a demand or result changes a register outside the island but the state of
the device, which leaves RUN with the tokens, and the MRAM status of the trip record (14_safety_island.md). LOAD_END with a bad CRC fails
the island at S4; with both right the program stands in its memory, the 512 bytes of the block are held, and the CRC of the block is shown
in CHECK; an invalid block leaves the island unconfirmed with its offset posted, a valid one enters SAFE when it is the confirmed one. The
first CONFIRM write arms, the second with the value of CHECK while SPB is demanded records it, in MRAM too, and enters SAFE, any other is
refused with its reason; in LOAD and FAIL nothing reads CONFIRM; mailbox words queue to 16, further ones set BUSY (14_safety_island.md
R401 to R404). -/
def Obligations.IslandInputs : Prop := ∀ s : State,
  (∀ (i : Fin 2), s.islSees → s.on (SAFE_IN i) → s.on (SAFE_DEM 0) = false → Gives (.safeInputOpen (i.castLE (by decide))) s fun t =>
      t.on (SAFE_IN i) = false ∧
      t.on (SAFE_DEM 0) ∧
      t.on (SAFE_LAT 0) ∧
      (t.rd SAFE_CNT_TRIPS = (if s.on (SAFE_LAT 0) then s.rd SAFE_CNT_TRIPS else min (s.rd SAFE_CNT_TRIPS + 1) 65535)) ∧
      Posted s t srcSAFE 0 3 clsSAFETY 1 (t.openBits 0) ∧
      t.islSt ≠ 3 ∧
      (s.islSt = 3 → t.islSt = 2 ∧ t.on SAFE_STATE_TOKENS = false) ∧
      Within s t [wSAFE, wSYS, wLOOP, wNVC]) ∧
  (∀ (i : Fin 2), (s.islSt = 0 ∨ s.islSt = 4) → s.on (SAFE_IN i) → Gives (.safeInputOpen (i.castLE (by decide))) s fun t =>
      t.on (SAFE_IN i) = false ∧
      t.rd SAFE_STATE_LATCH = s.rd SAFE_STATE_LATCH ∧
      t.on (SAFE_DEM 0) = s.on (SAFE_DEM 0) ∧
      t.fq = s.fq ∧
      t.islSt = s.islSt ∧
      Only s t [SAFE_IO, SAFE_STATE]) ∧
  (∀ (i : Fin 2), s.on (SAFE_IN (2 + i)) → s.islSt = 3 → Gives (.safeInputOpen (if i = 0 then 2 else 3)) s fun t =>
      t.on (SAFE_DEM 3) ∧
      t.on (SAFE_LAT 3) ∧
      (t.rd SAFE_CNT_TRIPS = (if s.on (SAFE_LAT 3) then s.rd SAFE_CNT_TRIPS else min (s.rd SAFE_CNT_TRIPS + 1) 65535)) ∧
      Posted s t srcSAFE 0 8 clsSAFETY 1 (t.openBits 2) ∧
      t.islSt = 2 ∧
      t.on SAFE_STATE_TOKENS = false ∧
      Within s t [wSAFE, wSYS, wLOOP, wNVC]) ∧
  (∀ (i : Fin 2),
    s.on (SAFE_IN (2 + i)) → s.islSt = 2 → s.on (SAFE_OUT 2) = false → Gives (.safeInputOpen (if i = 0 then 2 else 3)) s fun t =>
      t.on (SAFE_LAT 3) ∧
      t.on (SAFE_DEM 3) = s.on (SAFE_DEM 3) ∧
      Posted s t srcSAFE 0 8 clsSAFETY 1 (t.openBits 2) ∧
      (t.rd SAFE_CNT_TRIPS = (if s.on (SAFE_LAT 3) then s.rd SAFE_CNT_TRIPS else min (s.rd SAFE_CNT_TRIPS + 1) 65535)) ∧
      t.islSt = 2 ∧
      Within s t [wSAFE, wSYS, wLOOP, wNVC]) ∧
  (∀ (i : Fin 2),
    s.on (SAFE_IN (2 + i)) → s.islSt ≠ 3 → (s.islSt ≠ 2 ∨ s.on (SAFE_OUT 2)) → 
    Gives (.safeInputOpen (if i = 0 then 2 else 3)) s fun t =>
      t.on (SAFE_IN (2 + i)) = false ∧
      ((if i = 0 then t.isl.openA else t.isl.openB) = some s.ns) ∧
      t.rd SAFE_STATE_LATCH = s.rd SAFE_STATE_LATCH ∧
      t.fq = s.fq ∧
      Only s t [SAFE_IO, SAFE_STATE]) ∧
  (s.on (SAFE_IN 4) → Gives (.safeInputOpen 4) s fun t =>
      t.on (SAFE_IN 4) = false ∧
      t.isl.sackLow = some s.ns ∧
      t.isl.sack = false ∧
      t.rd SAFE_STATE_LATCH = s.rd SAFE_STATE_LATCH ∧
      t.fq = s.fq ∧
      Within s t [wSAFE, wSYS, wLOOP]) ∧
  (s.on (SAFE_IN 5) → Gives (.safeInputOpen 5) s fun t =>
      t.on (SAFE_IN 5) = false ∧
      t.rd SAFE_STATE_LATCH = s.rd SAFE_STATE_LATCH ∧
      t.fq = s.fq ∧
      Within s t [wSAFE, wSYS, wLOOP]) ∧
  (∀ (i : Fin 6), s.on (SAFE_IN i) = false → Gives (.safeInputOpen i) s fun t =>
      t = s) ∧
  (∀ (i : Fin 6), s.on (SAFE_IN i) = false → Gives (.safeInputClose i) s fun t =>
      t.on (SAFE_IN i) ∧
      t.rd SAFE_STATE_LATCH = s.rd SAFE_STATE_LATCH ∧
      (i < 2 → t.on (SAFE_DEM 0) = (s.on (SAFE_DEM 0) && !(t.on (SAFE_IN 0) && t.on (SAFE_IN 1)))) ∧
      (i = 2 ∨ i = 3 → t.on (SAFE_DEM 3) = (s.on (SAFE_DEM 3) && !(t.on (SAFE_IN 2) && t.on (SAFE_IN 3)))) ∧
      (i = 5 → t.on (SAFE_DEM 2) = false) ∧
      t.fq = s.fq ∧
      t.lpwm = s.lpwm ∧
      Within s t [wSAFE, wSYS, wLOOP, wNVC]) ∧
  (∀ (b : Nat),
    s.on (SAFE_IN 2) = false → s.isl.closeB = some b → max s.ns b - min s.ns b ≤ 100000000 → s.isl.proofOpen → s.on (SAFE_OUT 2) → 
    Gives (.safeInputClose 2) s fun t =>
      t.on SAFE_STATE_PROOF_DUE = false ∧
      t.reg SAFE_PROOF = 0 ∧
      t.isl.opNs = 0 ∧
      Within s t [wSAFE, wSYS, wLOOP, wNVC]) ∧
  (∀ (i : Fin 6), s.on (SAFE_IN i) → Gives (.safeInputClose i) s fun t =>
      t = s) ∧
  (∀ (k : Fin 3), s.islSees → s.disagree k → k.val ∉ s.isl.disc → Gives (.discrepancy k) s fun t =>
      t.on (SAFE_DEM 4) ∧
      t.on (SAFE_LAT 4) ∧
      k.val ∈ t.isl.disc ∧
      Posted s t srcSAFE 0 7 clsSAFETY 1 k ∧
      (t.rd SAFE_CNT_TRIPS = (if s.on (SAFE_LAT 4) then s.rd SAFE_CNT_TRIPS else min (s.rd SAFE_CNT_TRIPS + 1) 65535)) ∧
      t.islSt ≠ 3 ∧
      Within s t [wSAFE, wSYS, wLOOP, wNVC]) ∧
  (∀ (k : Fin 3), (s.islSees = false ∨ s.disagree k = false ∨ k.val ∈ s.isl.disc) → Gives (.discrepancy k) s fun t =>
      t = s) ∧
  (∀ (i : Fin 4),
    s.islRuns → s.sdmRole i = 1 → i.val ∉ s.isl.slc → 
    (s.on (SAFE_SDM_STUCK i) ∨ s.param (0x2E + 16 * i) 2 < absW (s.rd (SAFE_SDM_VALUE i))) → Gives (.slcTrip i) s fun t =>
      t.on (SAFE_DEM 1) ∧
      t.on (SAFE_LAT 1) ∧
      (t.rd SAFE_CNT_TRIPS = (if s.on (SAFE_LAT 1) then s.rd SAFE_CNT_TRIPS else min (s.rd SAFE_CNT_TRIPS + 1) 65535)) ∧
      Posted s t srcSAFE 0 4 clsSAFETY 1 i ∧
      i.val ∈ t.isl.slc ∧
      t.islSt ≠ 3 ∧
      Within s t [wSAFE, wSYS, wLOOP, wNVC]) ∧
  (s.islRuns → s.on (SAFE_IN 5) = false → s.iDir < -(s.param 0x6A 2 : Int) → s.on (SAFE_DEM 2) = false → Gives .spdTrip s fun t =>
      t.on (SAFE_DEM 2) ∧
      t.on (SAFE_LAT 2) ∧
      (t.rd SAFE_CNT_TRIPS = (if s.on (SAFE_LAT 2) then s.rd SAFE_CNT_TRIPS else min (s.rd SAFE_CNT_TRIPS + 1) 65535)) ∧
      Posted s t srcSAFE 0 6 clsSAFETY 1 0 ∧
      t.islSt ≠ 3 ∧
      Within s t [wSAFE, wSYS, wLOOP, wNVC]) ∧
  (∀ (i : Fin 4) (v : BitVec 16) (l : Bool), Gives (.sdmResult i v l) s fun t =>
      t.rd (SAFE_SDM_VALUE i) = v.toNat ∧
      t.on (SAFE_SDM_STUCK i) = (s.on (SAFE_SDM_STUCK i) && !l) ∧
      t.rd SAFE_STATE_LATCH = s.rd SAFE_STATE_LATCH ∧
      (s.sdmRole i = 1 → absW v.toNat ≤ s.param (0x2E + 16 * i) 2 → t.on (SAFE_SDM_STUCK i) = false → i.val ∉ t.isl.slc) ∧
      (s.sdmRole i = 2 → absW v.toNat < s.param 0x70 2 → t.on (SAFE_SDM_STUCK i) = false → t.isl.lowV = some (s.isl.lowV.getD s.ns)) ∧
      (s.sdmRole i = 2 → s.param 0x70 2 ≤ absW v.toNat → t.isl.lowV = none) ∧
      (s.islRuns → s.sdmRole i = 1 → s.param (0x2C + 16 * i) 2 < absW v.toNat → i.val ∉ s.isl.warn → Posted s t srcSAFE 0 5 clsSAFETY 0 i) ∧
      Within s t [wSAFE, wSYS, wLOOP]) ∧
  (∀ (i : Fin 4), s.on (SAFE_SDM_STUCK i) = false → Gives (.sdmStuck i) s fun t =>
      t.on (SAFE_SDM_STUCK i) ∧
      Posted s t srcSAFE 0 0xD clsSAFETY 1 i ∧
      (s.sdmRole i = 3 → t.rd SAFE_IO_POS = 3) ∧
      (s.sdmRole i = 2 → t.isl.lowV = none) ∧
      t.rd SAFE_STATE_LATCH = s.rd SAFE_STATE_LATCH ∧
      Within s t [wSAFE, wSYS, wLOOP]) ∧
  (∀ (i : Fin 4), s.on (SAFE_SDM_STUCK i) → Gives (.sdmStuck i) s fun t =>
      t = s) ∧
  (∀ (a b : Fin 101), Gives (.positionUpdate a b) s fun t =>
      (t.isl.posA = (fun d : Nat => if 10 ≤ d ∧ d ≤ 20 then 0 else if 40 ≤ d ∧ d ≤ 60 then 1 else if 80 ≤ d ∧ d ≤ 90 then 2 else 3) a.val) ∧
      (t.isl.posB = (fun d : Nat => if 10 ≤ d ∧ d ≤ 20 then 0 else if 40 ≤ d ∧ d ≤ 60 then 1 else if 80 ≤ d ∧ d ≤ 90 then 2 else 3) b.val) ∧
      (t.rd SAFE_IO_POS = (if t.isl.posA = t.isl.posB then t.isl.posA else 3)) ∧
      t.rd SAFE_STATE_LATCH = s.rd SAFE_STATE_LATCH ∧
      t.fq = s.fq ∧
      Within s t [wSAFE, wSYS, wLOOP]) ∧
  (s.islSt = 2 → s.rd SAFE_IO_POS = 2 → (s.isl.lowV.any fun v => decide (10000000000 ≤ s.ns - v)) → 
    s.on SAFE_STATE_TOKENS = false → s.param 0x72 2 * 1000000000 ≤ s.ns - s.isl.off → Gives .doorLockRelease s fun t =>
      t.on (SAFE_OUT 2) ∧
      Only s t [SAFE_IO]) ∧
  (s.isl.mbin.length < 16 → s.islSees → Gives .confirmArm s fun t =>
      t.on SAFE_CONF_STAT_ARMED ∧
      Only s t [SAFE_CONF_STAT]) ∧
  (s.isl.mbin.length < 16 → s.islSees = false → Gives .confirmArm s fun t =>
      t = s) ∧
  (16 ≤ s.isl.mbin.length → Gives .confirmArm s fun t =>
      t.on SAFE_MB_IN_STAT_BUSY ∧
      Only s t [SAFE_MB_IN_STAT]) ∧
  (∀ (v : BitVec 32),
    s.isl.mbin.length < 16 → s.islSees → s.on SAFE_CONF_STAT_ARMED → s.on (SAFE_DEM 0) → v.toNat = s.reg SAFE_CHECK → 
    s.isl.blockOk → Gives (.confirmCheck v) s fun t =>
      t.reg SAFE_CONF_REC = v.toNat ∧
      t.isl.conf ∧
      t.on SAFE_CONF_STAT_DONE ∧
      t.on SAFE_CONF_STAT_ARMED = false ∧
      t.islSt = 2 ∧
      (s.isl.conf = false ∨ s.reg SAFE_CONF_REC ≠ v.toNat → t.on SAFE_STATE_PROOF_DUE) ∧
      (s.isl.conf → s.reg SAFE_CONF_REC = v.toNat → t.sys.nvRun.toList ++ t.sys.nvq = s.sys.nvRun.toList ++ s.sys.nvq ++ s.recWords 1 (toBytes 4 v.toNat)) ∧
      Posted s t srcSAFE 0 0xF clsSAFETY 0 v.toNat ∧
      Within s t [wSAFE, wSYS, wLOOP, wNVC]) ∧
  (∀ (v : BitVec 32) (y : Nat),
    s.isl.mbin.length < 16 → s.islSees → 
    (y = if s.on SAFE_CONF_STAT_ARMED = false then 1 else if s.on (SAFE_DEM 0) = false then 2 else if v.toNat ≠ s.reg SAFE_CHECK then 3 else if s.isl.blockOk = false then 4 else 0) → 
    y ≠ 0 → Gives (.confirmCheck v) s fun t =>
      t.on SAFE_CONF_STAT_REFUSED ∧
      t.rd SAFE_CONF_STAT_WHY = y ∧
      t.on SAFE_CONF_STAT_ARMED = false ∧
      t.islSt = s.islSt ∧
      Posted s t srcSAFE 0 0x10 clsCONFIG 1 y ∧
      Only s t [SAFE_CONF_STAT]) ∧
  (∀ (v : BitVec 32), s.isl.mbin.length < 16 → s.islSees = false → Gives (.confirmCheck v) s fun t =>
      t = s) ∧
  (∀ (v : BitVec 32), 16 ≤ s.isl.mbin.length → Gives (.confirmCheck v) s fun t =>
      t.on SAFE_MB_IN_STAT_BUSY ∧
      Only s t [SAFE_MB_IN_STAT]) ∧
  (Gives .confirmWindowExpiry s fun t =>
      t.on SAFE_CONF_STAT_ARMED = false ∧
      Only s t [SAFE_CONF_STAT]) ∧
  (∀ (pc bc : BitVec 32) (p b : List (BitVec 8)),
    p.length ≤ 32768 → b.length = 512 → s.islSt = 0 → crc32c p ≠ pc.toNat → Gives (.islandLoadEnd pc bc p b) s fun t =>
      t.islSt = 4 ∧
      t.on SAFE_STATE_SOK = false ∧
      t.on SAFE_STATE_TOKENS = false ∧
      t.on (SAFE_OUT 0) = false ∧
      t.on (SAFE_OUT 1) = false ∧
      t.on FLT_STAT_PB ∧
      Posted s t srcSAFE 0 0x11 clsSAFETY 4 0 ∧
      Within s t [wSAFE, wSYS, wLOOP, wNVC, wFLT, wSADL, wLPWM]) ∧
  (∀ (pc bc : BitVec 32) (p b : List (BitVec 8)),
    p.length ≤ 32768 → b.length = 512 → s.islSt = 0 → crc32c p = pc.toNat → crc32c b ≠ bc.toNat → 
    Gives (.islandLoadEnd pc bc p b) s fun t =>
      t.islSt = 4 ∧
      t.on SAFE_STATE_SOK = false ∧
      t.on SAFE_STATE_TOKENS = false ∧
      t.on (SAFE_OUT 0) = false ∧
      t.on (SAFE_OUT 1) = false ∧
      t.on FLT_STAT_PB ∧
      Posted s t srcSAFE 0 0x11 clsSAFETY 4 1 ∧
      Within s t [wSAFE, wSYS, wLOOP, wNVC, wFLT, wSADL, wLPWM]) ∧
  (∀ (pc bc : BitVec 32) (p b : List (BitVec 8)),
    p.length ≤ 32768 → b.length = 512 → s.islSt = 0 → crc32c p = pc.toNat → crc32c b = bc.toNat → 
    Gives (.islandLoadEnd pc bc p b) s fun t =>
      (∀ w : Fin 128, t.reg (SAFE_PARAM w) = fieldAt b (4 * w) 4) ∧
      t.bytes (0x100010000) p.length = p ∧
      t.reg SAFE_CHECK = crc32c (b.take 0x1FC) ∧
      t.isl.fc = s.reg LOOP_FRAME_NUM ∧
      t.isl.mbin = [] ∧
      t.on SAFE_STATE_PROOF_DUE = s.sys.proofDue ∧
      (∀ o, blockBad (s.rd SYS_DEV_ID_DEVID) b = some o → t.islSt = 1 ∧ (s.openBits 0 = 0 ∨ s.on (SAFE_DEM 0) → Posted s t srcSAFE 0 0xA clsCONFIG 1 o)) ∧
      (s.openBits 0 ≠ 0 → t.on (SAFE_DEM 0)) ∧
      (blockBad (s.rd SYS_DEV_ID_DEVID) b = none → t.isl.blockOk ∧ (s.isl.conf = false ∨ crc32c (b.take 0x1FC) ≠ s.reg SAFE_CONF_REC → t.islSt = 1) ∧ (s.isl.conf → crc32c (b.take 0x1FC) = s.reg SAFE_CONF_REC → t.islSt = 2 ∨ t.islSt = 3)) ∧
      Stores s t 0x100010000 p.length ∧
      RegsIn s t [wSAFE, wNVC, wSYS, wLOOP]) ∧
  (∀ (pc bc : BitVec 32) (p b : List (BitVec 8)),
    p.length ≤ 32768 → b.length = 512 → s.islSt ≠ 0 → Gives (.islandLoadEnd pc bc p b) s fun t =>
      t = s) ∧
  (∀ (w : BitVec 32), s.isl.mbin.length < 16 → Gives (.safeMbInWrite w) s fun t =>
      t.isl.mbin = s.isl.mbin ++ [w] ∧
      t.rd SAFE_MB_IN_STAT_OCC = s.isl.mbin.length + 1 ∧
      Only s t [SAFE_MB_IN_STAT]) ∧
  (∀ (w : BitVec 32), 16 ≤ s.isl.mbin.length → Gives (.safeMbInWrite w) s fun t =>
      t.isl.mbin = s.isl.mbin ∧
      t.on SAFE_MB_IN_STAT_BUSY ∧
      Only s t [SAFE_MB_IN_STAT]) ∧
  (∀ (w : BitVec 32) (r : List (BitVec 32)), s.isl.mbout = w :: r → r.length < 16 → Gives .safeMbOutRead s fun t =>
      t.isl.mbout = r ∧
      t.rd SAFE_MB_OUT_STAT_OCC = r.length ∧
      Only s t [SAFE_MB_OUT_STAT]) ∧
  (s.isl.mbout = [] → Gives .safeMbOutRead s fun t =>
      t = s)

/-- A bad or missing strobe holds permission and posts once at S4; a good one in RUN writes the bank of the next frame, and the 16th good one
in a row ends the hold; an epoch change restarts the tokens in the bank of the next frame; the heartbeat and clock monitors hold, with
lanes in electrical idle and local outputs off when CK_CORE stops, and a resumed clock releases; SACK low for 100 ms and released clears
the latches unless a demand remains, which is counted; the proof test falls due; a failing pair of cores opens both SAFE_OK at S4
(14_safety_island.md R385 to R400). Strobe periods and SACK times are counted by the timebase (notes/assumptions/99.md). -/
def Obligations.IslandPermission : Prop := ∀ s : State,
  (∀ (p : BitVec 32), s.islSt ≠ 4 → Gives (.lockstepFail p) s fun t =>
      t.islSt = 4 ∧
      t.on SAFE_STATE_SOK = false ∧
      t.on (SAFE_OUT 0) = false ∧
      t.on (SAFE_OUT 1) = false ∧
      t.on SAFE_STATE_TOKENS = false ∧
      Posted s t srcSAFE 0 0xB clsSAFETY 4 p.toNat ∧
      t.on FLT_STAT_PB ∧
      (s.dev = 3 → t.dev = 4) ∧
      Within s t [wSAFE, wSYS, wLOOP, wNVC, wFLT, wSADL, wLPWM]) ∧
  (∀ (p : BitVec 32), s.islSt = 4 → Gives (.lockstepFail p) s fun t =>
      t = s) ∧
  (∀ (n : Nat),
    s.islSt ≠ 0 → s.islSt ≠ 4 → s.isl.resync = false → (n < 900 ∨ 1100 < n ∨ (s.isl.fc + 1) % 2 ^ 32 ≠ s.reg LOOP_FRAME_NUM) → 
    Gives (.islandFrameStrobe n) s fun t =>
      t.on (SAFE_HLD 3) ∧
      t.isl.fc = (s.isl.fc + 1) % 2 ^ 32 ∧
      t.isl.good = 0 ∧
      t.isl.mbin = [] ∧
      t.islSt ≠ 3 ∧
      (s.on (SAFE_HLD 3) = false → Posted s t srcSAFE 0 0xC clsCLOCK 4 n) ∧
      (s.on (SAFE_HLD 3) → t.fq = s.fq) ∧
      Within s t [wSAFE, wSYS, wLOOP, wNVC, wFLT, wSADL, wLPWM]) ∧
  (∀ (n : Nat), s.islSt ≠ 0 → s.islSt ≠ 4 → s.isl.resync → Gives (.islandFrameStrobe n) s fun t =>
      t.on (SAFE_HLD 3) ∧
      t.isl.fc = s.reg LOOP_FRAME_NUM ∧
      t.isl.good = 0 ∧
      t.isl.resync = false ∧
      t.isl.mbin = [] ∧
      t.islSt ≠ 3 ∧
      t.fq = s.fq ∧
      Within s t [wSAFE, wSYS, wLOOP, wNVC]) ∧
  (∀ (n : Nat),
    s.islSt = 3 → s.isl.resync = false → 900 ≤ n → n ≤ 1100 → (s.isl.fc + 1) % 2 ^ 32 = s.reg LOOP_FRAME_NUM → 
    s.on SAFE_STATE_TOKENS → s.on (SAFE_HLD 3) = false → Gives (.islandFrameStrobe n) s fun t =>
      t.isl.fc = s.reg LOOP_FRAME_NUM ∧
      t.isl.opNs = (s.isl.opNs + n) % 3600000000000 ∧
      (t.isl.banks.head? = some ((s.reg LOOP_FRAME_NUM + 1) % 2 ^ 32, s.reg SADL_EPOCH, (if s.reg SADL_EPOCH = s.isl.epoch then s.isl.f0.getD ((s.reg LOOP_FRAME_NUM + 1) % 2 ^ 32) else (s.reg LOOP_FRAME_NUM + 1) % 2 ^ 32), true)) ∧
      t.isl.mbin = [] ∧
      t.fq = s.fq ∧
      Only s t [SAFE_MB_IN_STAT, SAFE_PROOF, NVC_STAT]) ∧
  (∀ (n : Nat),
    s.islSt ≠ 0 → s.islSt ≠ 4 → s.isl.resync = false → 900 ≤ n → n ≤ 1100 → (s.isl.fc + 1) % 2 ^ 32 = s.reg LOOP_FRAME_NUM → 
    s.on (SAFE_HLD 3) → Gives (.islandFrameStrobe n) s fun t =>
      t.isl.fc = s.reg LOOP_FRAME_NUM ∧
      t.isl.good = s.isl.good + 1 ∧
      t.on (SAFE_HLD 3) = decide (s.isl.good + 1 < 16) ∧
      t.fq = s.fq ∧
      Within s t [wSAFE, wSYS, wLOOP, wNVC]) ∧
  (∀ (n : Nat), (s.islSt = 0 ∨ s.islSt = 4) → Gives (.islandFrameStrobe n) s fun t =>
      t = s) ∧
  (∀ (n : Nat), s.islSt ≠ 0 → s.islSt ≠ 4 → Gives (.strobeMissing n) s fun t =>
      t.on (SAFE_HLD 3) ∧
      t.isl.good = 0 ∧
      t.islSt ≠ 3 ∧
      (s.on (SAFE_HLD 3) = false → Posted s t srcSAFE 0 0xC clsCLOCK 4 n ∧ t.on FLT_STAT_PB) ∧
      Within s t [wSAFE, wSYS, wLOOP, wNVC, wFLT, wSADL, wLPWM]) ∧
  (s.reg SADL_EPOCH ≠ s.isl.epoch → Gives .epochWordChange s fun t =>
      t.isl.epoch = s.reg SADL_EPOCH ∧
      t.regs = s.regs ∧
      t.mem = s.mem ∧
      t.fq = s.fq) ∧
  (∀ (k e f : Nat) (v : Bool) (r : List (Nat × Nat × Nat × Bool)),
    s.reg SADL_EPOCH ≠ s.isl.epoch → s.isl.banks = (k, e, f, v) :: r → later32 k (s.reg LOOP_FRAME_NUM) → 
    Gives .epochWordChange s fun t =>
      t.isl.f0 = some k ∧
      t.isl.banks = (k, s.reg SADL_EPOCH, k, v) :: r) ∧
  (s.reg SADL_EPOCH = s.isl.epoch → Gives .epochWordChange s fun t =>
      t = s) ∧
  (s.on (SAFE_HLD 4) = false → s.on (SAFE_HLD 0) = false → Gives .heartbeatMiss s fun t =>
      t.on (SAFE_HLD 0) ∧
      t.islSt ≠ 3 ∧
      t.on FLT_STAT_PB ∧
      PostedAny s t srcSAFE 0 1 clsSAFETY 4 ∧
      Within s t [wSAFE, wSYS, wLOOP, wFLT, wSADL, wLPWM]) ∧
  ((s.on (SAFE_HLD 4) ∨ s.on (SAFE_HLD 0)) → Gives .heartbeatMiss s fun t =>
      t = s) ∧
  (s.on (SAFE_HLD 4) = false → s.on (SAFE_HLD 1) = false → Gives .coreClockStop s fun t =>
      t.on (SAFE_HLD 1) ∧
      t.islSt ≠ 3 ∧
      (∀ l : Fin 28, t.rd (LANE_STAT_TX_MODE l) = 0) ∧
      (∀ m : Fin 16, (t.lp m).onA = false ∧ (t.lp m).onB = false ∧ (t.lp m).stopped) ∧
      t.on FLT_STAT_PB ∧
      PostedAny s t srcSAFE 0 2 clsCLOCK 4 ∧
      Within s t [wSAFE, wSYS, wLOOP, wFLT, wSADL, wLPWM, wLANE]) ∧
  ((s.on (SAFE_HLD 4) ∨ s.on (SAFE_HLD 1)) → Gives .coreClockStop s fun t =>
      t = s) ∧
  (s.on (SAFE_HLD 1) → Gives .coreClockResume s fun t =>
      t.on (SAFE_HLD 1) = false ∧
      (∀ m : Fin 16, (t.lp m).stopped = false) ∧
      t.rd SAFE_STATE_LATCH = s.rd SAFE_STATE_LATCH ∧
      t.fq = s.fq ∧
      Within s t [wSAFE, wSYS, wLOOP, wLPWM]) ∧
  (s.on (SAFE_HLD 1) = false → Gives .coreClockResume s fun t =>
      t = s) ∧
  (s.islSt ≠ 3 → Gives .safeOkOpen s fun t =>
      t.on SAFE_STATE_SOK = false ∧
      t.on (SAFE_OUT 0) = false ∧
      t.on (SAFE_OUT 1) = false ∧
      Only s t [SAFE_STATE, SAFE_IO]) ∧
  (s.islSt = 3 → Gives .safeOkOpen s fun t =>
      t = s) ∧
  (s.islSt = 3 → s.dev ≠ 0 → Gives .islandTokensStart s fun t =>
      t.on SAFE_STATE_TOKENS ∧
      t.islSt = 3 ∧
      Only s t [SAFE_STATE]) ∧
  ((s.islSt ≠ 3 ∨ s.dev = 0) → Gives .islandTokensStart s fun t =>
      t = s) ∧
  (∀ (b : Nat),
    s.islRuns → s.on (SAFE_IN 4) = false → s.isl.sackLow = some b → b + 100000000 ≤ s.ns → s.rd SAFE_STATE_DEMAND = 0 → 
    Gives .sackRise s fun t =>
      t.on (SAFE_IN 4) ∧
      t.isl.sack ∧
      t.on SAFE_STATE_JAMMED = false ∧
      t.rd SAFE_STATE_LATCH = s.rd SAFE_STATE_LATCH ∧
      Only s t [SAFE_IO, SAFE_STATE]) ∧
  (∀ (b : Nat),
    s.islRuns → s.on (SAFE_IN 4) = false → s.isl.sackLow = some b → b + 100000000 ≤ s.ns → s.rd SAFE_STATE_DEMAND ≠ 0 → 
    Gives .sackRise s fun t =>
      t.on (SAFE_IN 4) ∧
      t.isl.sack = false ∧
      t.rd SAFE_CNT_SACK_REF = min (s.rd SAFE_CNT_SACK_REF + 1) 65535 ∧
      t.rd SAFE_STATE_LATCH = s.rd SAFE_STATE_LATCH ∧
      Only s t [SAFE_IO, SAFE_STATE, SAFE_CNT]) ∧
  (s.on (SAFE_IN 4) = false → (s.islRuns = false ∨ s.isl.sackLow.all fun b => decide (s.ns < b + 100000000)) → 
    Gives .sackRise s fun t =>
      t.on (SAFE_IN 4) ∧
      t.isl.sack = false ∧
      t.isl.sackLow = none ∧
      Only s t [SAFE_IO]) ∧
  (s.on (SAFE_IN 4) → Gives .sackRise s fun t =>
      t = s) ∧
  (s.islRuns → s.isl.sack → s.rd SAFE_STATE_DEMAND = 0 → Gives .sackRelease s fun t =>
      t.isl.sack = false ∧
      t.rd SAFE_STATE_LATCH = 0 ∧
      t.fq = s.fq ∧
      Within s t [wSAFE, wSYS, wLOOP, wNVC]) ∧
  (s.islRuns → s.isl.sack → s.rd SAFE_STATE_DEMAND ≠ 0 → Gives .sackRelease s fun t =>
      t.rd SAFE_STATE_LATCH = s.rd SAFE_STATE_LATCH ∧
      t.isl.sack = false ∧
      t.rd SAFE_CNT_SACK_REF = min (s.rd SAFE_CNT_SACK_REF + 1) 65535 ∧
      Only s t [SAFE_CNT]) ∧
  ((s.islRuns = false ∨ s.isl.sack = false) → Gives .sackRelease s fun t =>
      t = s) ∧
  (s.islRuns → s.on (SAFE_IN 4) → s.on SAFE_STATE_JAMMED = false → Gives .sackJam s fun t =>
      t.on SAFE_STATE_JAMMED ∧
      t.isl.sack = false ∧
      Posted s t srcSAFE 0 9 clsSAFETY 1 0 ∧
      Only s t [SAFE_STATE]) ∧
  ((s.islRuns = false ∨ s.on (SAFE_IN 4) = false ∨ s.on SAFE_STATE_JAMMED) → Gives .sackJam s fun t =>
      t = s) ∧
  (s.islSees → 24 * s.param 0x78 2 ≤ s.reg SAFE_PROOF → Gives .proofIntervalExpiry s fun t =>
      t.on SAFE_STATE_PROOF_DUE ∧
      t.islSt = s.islSt ∧
      (s.islSt = 3 → s.isl.overPosted = false → Posted s t srcSAFE 0 0xE clsSAFETY 1 0) ∧
      (s.islSt ≠ 3 ∨ s.isl.overPosted → t.fq = s.fq) ∧
      Only s t [SAFE_STATE, NVC_STAT]) ∧
  ((s.islSees = false ∨ s.reg SAFE_PROOF < 24 * s.param 0x78 2) → Gives .proofIntervalExpiry s fun t =>
      t = s)

/-! ### Lanes (chapter 03) -/

/-- An enabled lane in DOWN outside limp mode and DORMANT with a known profile starts TRAIN_COMMA at attempt 0 with its CTLE setting, its
bound transmit half in COMMA; disabling takes it to DOWN; re-arming acts in FAILED only; lost CDR lock, a failed attempt, the end of
RECOVER and of an idle attempt and JOIN move the state as R73, R78 and R79 say, a loss in SERVICE or SLIP_SEARCH counted and posted at S1,
the last failed attempt at S2; an eye-scan run starts, collides, is refused without lock, or ends with its counts; a command outside its
state changes nothing; what follows in other registers lies in the chain of the lane, the interrupt of R206 and the state of the device
(03_cell_lanes.md R65 to R82). -/
def Obligations.LaneControl : Prop := ∀ s : State,
  (∀ (n : Fin 28), s.laneSt n = 0 → s.limp = false → s.profile ≠ 0 → s.dev ≠ 5 → Gives (.laneEnable n) s fun t =>
      t.on (LANE_CTL_EN n) ∧
      t.laneSt n = 1 ∧
      t.rd (LANE_STAT_ATTEMPT n) = 0 ∧
      t.rd (LANE_STAT_CTLE_ACT n) = s.rd (LANE_RXCFG_CTLE n) ∧
      (s.laneBound n → t.rd (LANE_STAT_TX_MODE n) = 1 ∧ (t.lane n).txSet = t.trainSet n) ∧
      t.fq = s.fq ∧
      Only s t [LANE_CTL n, LANE_STAT n]) ∧
  (∀ (n : Fin 28), (s.laneSt n ≠ 0 ∨ s.limp ∨ s.profile = 0 ∨ s.dev = 5) → Gives (.laneEnable n) s fun t =>
      t.on (LANE_CTL_EN n) ∧
      t.laneSt n = s.laneSt n ∧
      Only s t [LANE_CTL n]) ∧
  (∀ (n : Fin 28), Gives (.laneDisable n) s fun t =>
      t.on (LANE_CTL_EN n) = false ∧
      t.laneSt n = 0 ∧
      t.rd (LANE_STAT_TX_MODE n) = 0 ∧
      t.on (LANE_STAT_CDR_LOCK n) = false ∧
      (t.lane n).rxq = [] ∧
      (∀ m : Fin 28, m ≠ n → t.laneSt m = s.laneSt m ∧ t.lane m = s.lane m) ∧
      Within s t [wLANE, wCHAIN, wCELL, wENG, wSYS, wLOOP, wPROT]) ∧
  (∀ (n : Fin 28), s.laneSt n = 7 → Gives (.laneRearm n) s fun t =>
      t.laneSt n = 1 ∧
      t.rd (LANE_STAT_ATTEMPT n) = 0 ∧
      t.rd (LANE_STAT_CTLE_ACT n) = s.rd (LANE_RXCFG_CTLE n) ∧
      t.on (LANE_STAT_HOP_LIM n) = false ∧
      (s.laneBound n → t.rd (LANE_STAT_TX_MODE n) = 1) ∧
      t.fq = s.fq ∧
      Only s t [LANE_STAT n]) ∧
  (∀ (n : Fin 28), s.laneSt n ≠ 7 → Gives (.laneRearm n) s fun t =>
      t = s) ∧
  (∀ (n : Fin 28),
    s.rd (LANE_STAT_TX_MODE n) = 2 → (s.rd (LANE_PARTNER_TOPO n) = 1 ∨ s.rd (LANE_PARTNER_TOPO n) = 2) → 
    Gives (.laneTxcomma n) s fun t =>
      t.rd (LANE_STAT_TX_MODE n) = 1 ∧
      t.laneBound n ∧
      ((t.lane n).txSet = t.trainSet n ∨ (t.lane n).txSet = (s.lane n).txSet) ∧
      t.fq = s.fq ∧
      Only s t [LANE_STAT n]) ∧
  (∀ (n : Fin 28),
    (s.rd (LANE_STAT_TX_MODE n) ≠ 2 ∨ (s.rd (LANE_PARTNER_TOPO n) ≠ 1 ∧ s.rd (LANE_PARTNER_TOPO n) ≠ 2)) → 
    Gives (.laneTxcomma n) s fun t =>
      t = s) ∧
  (∀ (n : Fin 28), Gives (.txeqApply n) s fun t =>
      (t.lane n).txeqAct = s.reg (LANE_TXEQ n) ∧
      t.regs = s.regs ∧
      t.mem = s.mem ∧
      t.fq = s.fq) ∧
  (∀ (n : Fin 28), Gives (.losAssert n) s fun t =>
      t.on (LANE_STAT_LOS n) ∧
      t.on (LANE_STAT_CDR_LOCK n) = false ∧
      (s.on (LANE_STAT_CDR_LOCK n) = false → t.fq = s.fq ∧ t.laneSt n = s.laneSt n) ∧
      (s.on (LANE_STAT_CDR_LOCK n) → s.laneSt n = 4 ∨ s.laneSt n = 5 → t.laneSt n = 6 ∧ Posted s t srcLANE n 1 clsLINK 1 n) ∧
      Within s t [wLANE, wCHAIN, wCELL, wENG, wSYS, wLOOP, wPROT]) ∧
  (∀ (n : Fin 28), Gives (.losDeassert n) s fun t =>
      t.on (LANE_STAT_LOS n) = false ∧
      t.fq = s.fq ∧
      Only s t [LANE_STAT n]) ∧
  (∀ (n : Fin 28), s.on (LANE_STAT_LOS n) = false → s.laneSt n ≠ 0 → Gives (.cdrLock n) s fun t =>
      t.on (LANE_STAT_CDR_LOCK n) ∧
      t.laneSt n = s.laneSt n ∧
      Only s t [LANE_STAT n]) ∧
  (∀ (n : Fin 28), (s.on (LANE_STAT_LOS n) ∨ s.laneSt n = 0) → Gives (.cdrLock n) s fun t =>
      t = s) ∧
  (∀ (n : Fin 28), s.on (LANE_STAT_CDR_LOCK n) → (s.laneSt n = 4 ∨ s.laneSt n = 5) → Gives (.cdrLockLoss n) s fun t =>
      t.on (LANE_STAT_CDR_LOCK n) = false ∧
      t.laneSt n = 6 ∧
      t.rd (LANE_LOCKCNT_RECOVERS n) = min (s.rd (LANE_LOCKCNT_RECOVERS n) + 1) 65535 ∧
      (s.laneBound n → t.rd (LANE_STAT_TX_MODE n) = 0) ∧
      Posted s t srcLANE n 1 clsLINK 1 n ∧
      Within s t [wLANE, wCHAIN, wCELL, wENG, wSYS, wLOOP, wPROT]) ∧
  (∀ (n : Fin 28), s.on (LANE_STAT_CDR_LOCK n) → s.laneSt n = 2 → Gives (.cdrLockLoss n) s fun t =>
      t.on (LANE_STAT_CDR_LOCK n) = false ∧
      t.laneSt n = 1 ∧
      t.fq = s.fq ∧
      (t.lane n).runMatch = 0 ∧
      t.rd (LANE_STAT_CTLE_ACT n) = s.rd (LANE_RXCFG_CTLE n) ∧
      Within s t [wLANE]) ∧
  (∀ (n : Fin 28), s.on (LANE_STAT_CDR_LOCK n) → s.laneSt n = 3 → s.rd (LANE_STAT_ATTEMPT n) ≠ 7 → Gives (.cdrLockLoss n) s fun t =>
      t.on (LANE_STAT_CDR_LOCK n) = false ∧
      t.laneSt n = 1 ∧
      (t.lane n).idle ∧
      t.fq = s.fq ∧
      Within s t [wLANE]) ∧
  (∀ (n : Fin 28), s.on (LANE_STAT_CDR_LOCK n) → s.laneSt n = 3 → s.rd (LANE_STAT_ATTEMPT n) = 7 → Gives (.cdrLockLoss n) s fun t =>
      t.on (LANE_STAT_CDR_LOCK n) = false ∧
      t.laneSt n = 7 ∧
      Posted s t srcLANE n 5 clsLINK 2 n ∧
      Within s t [wLANE, wCHAIN, wCELL, wENG, wSYS, wLOOP, wPROT]) ∧
  (∀ (n : Fin 28),
    s.on (LANE_STAT_CDR_LOCK n) → (s.laneSt n = 0 ∨ s.laneSt n = 1 ∨ s.laneSt n = 6 ∨ s.laneSt n = 7) → 
    Gives (.cdrLockLoss n) s fun t =>
      t.on (LANE_STAT_CDR_LOCK n) = false ∧
      t.laneSt n = s.laneSt n ∧
      t.fq = s.fq ∧
      Within s t [wLANE]) ∧
  (∀ (n : Fin 28), s.on (LANE_STAT_CDR_LOCK n) = false → Gives (.cdrLockLoss n) s fun t =>
      t = s) ∧
  (∀ (n : Fin 28), s.laneSt n = 6 → Gives (.recoverEnd n) s fun t =>
      t.laneSt n = 1 ∧
      t.rd (LANE_STAT_ATTEMPT n) = 0 ∧
      t.rd (LANE_STAT_CTLE_ACT n) = s.rd (LANE_RXCFG_CTLE n) ∧
      (s.laneBound n → t.rd (LANE_STAT_TX_MODE n) = 1) ∧
      t.fq = s.fq ∧
      Only s t [LANE_STAT n]) ∧
  (∀ (n : Fin 28), s.laneSt n ≠ 6 → Gives (.recoverEnd n) s fun t =>
      t = s) ∧
  (∀ (n : Fin 28),
    (s.laneSt n = 1 ∨ s.laneSt n = 2 ∨ s.laneSt n = 3) → (s.lane n).idle = false → s.rd (LANE_STAT_ATTEMPT n) = 7 → 
    Gives (.attemptTimeout n) s fun t =>
      t.laneSt n = 7 ∧
      Posted s t srcLANE n 5 clsLINK 2 n ∧
      (s.laneBound n → t.rd (LANE_STAT_TX_MODE n) = 0) ∧
      Within s t [wLANE, wCHAIN, wCELL, wENG, wSYS, wLOOP, wPROT]) ∧
  (∀ (n : Fin 28),
    (s.laneSt n = 1 ∨ s.laneSt n = 2 ∨ s.laneSt n = 3) → (s.lane n).idle = false → s.rd (LANE_STAT_ATTEMPT n) ≠ 7 → 
    Gives (.attemptTimeout n) s fun t =>
      t.laneSt n = 1 ∧
      (t.lane n).idle ∧
      t.rd (LANE_STAT_ATTEMPT n) = s.rd (LANE_STAT_ATTEMPT n) ∧
      (s.laneBound n → t.rd (LANE_STAT_TX_MODE n) = 0) ∧
      t.fq = s.fq ∧
      Only s t [LANE_STAT n]) ∧
  (∀ (n : Fin 28), s.laneSt n = 1 → (s.lane n).idle → Gives (.attemptIdleEnd n) s fun t =>
      t.laneSt n = 1 ∧
      (t.lane n).idle = false ∧
      t.rd (LANE_STAT_ATTEMPT n) = (s.rd (LANE_STAT_ATTEMPT n) + 1) % 8 ∧
      t.rd (LANE_STAT_CTLE_ACT n) = s.rd (LANE_RXCFG_CTLE n) ∧
      (s.laneBound n → t.rd (LANE_STAT_TX_MODE n) = 1) ∧
      t.fq = s.fq ∧
      Only s t [LANE_STAT n]) ∧
  (∀ (n : Fin 28), s.laneSt n = 7 → (s.lane n).rearmFired = false → s.rd (LANE_TMO_REARM_INT n) ≠ 0 → Gives (.rearmDue n) s fun t =>
      t.on (LANE_STAT_REARM_DUE n) ∧
      (t.lane n).rearmFired ∧
      t.laneSt n = 7 ∧
      t.bitAt (ENG_IRQ_PEND_PEND 16) 1 ∧
      t.fq = s.fq ∧
      Within s t [wLANE, wENG]) ∧
  (∀ (n : Fin 28), (s.laneSt n ≠ 7 ∨ (s.lane n).rearmFired ∨ s.rd (LANE_TMO_REARM_INT n) = 0) → Gives (.rearmDue n) s fun t =>
      t = s) ∧
  (∀ (n : Fin 28),
    s.laneSt n = 1 → s.on (LANE_CTL_JOIN n) → s.on (LANE_STAT_CDR_LOCK n) → 
    (s.rd (LANE_PARTNER_TOPO n) = 1 ∨ s.rd (LANE_PARTNER_TOPO n) = 2) → (s.lane n).idle = false → Gives (.joinTimeout n) s fun t =>
      t.laneSt n = 5 ∧
      t.on (LANE_SLIP_STAT_WIN_DONE n) = false ∧
      t.rd (LANE_SLIP_STAT_SLIPS n) = 0 ∧
      t.rd (LANE_STAT_TX_MODE n) = s.rd (LANE_STAT_TX_MODE n) ∧
      (∀ m : Fin 28, m ≠ n → t.lane m = s.lane m) ∧
      Within s t [wLANE, wCHAIN, wCELL, wENG, wSYS, wLOOP, wPROT]) ∧
  (∀ (n : Fin 28), s.on (LANE_ES_STAT_BUSY n) = false → s.on (LANE_STAT_CDR_LOCK n) → Gives (.esStart n) s fun t =>
      t.on (LANE_ES_STAT_BUSY n) ∧
      (t.lane n).esAt = s.ns ∧
      Only s t [LANE_ES_STAT n]) ∧
  (∀ (n : Fin 28), s.on (LANE_ES_STAT_BUSY n) → Gives (.esStart n) s fun t =>
      t.on (LANE_ES_STAT_COLL n) ∧
      t.on (LANE_ES_STAT_BUSY n) ∧
      (t.lane n).esAt = (s.lane n).esAt ∧
      Only s t [LANE_ES_STAT n]) ∧
  (∀ (n : Fin 28), s.on (LANE_ES_STAT_BUSY n) = false → s.on (LANE_STAT_CDR_LOCK n) = false → Gives (.esStart n) s fun t =>
      t.on (LANE_ES_STAT_ABORTED n) ∧
      t.on (LANE_ES_STAT_BUSY n) = false ∧
      Only s t [LANE_ES_STAT n]) ∧
  (∀ (n : Fin 28) (e : Nat), s.on (LANE_ES_STAT_BUSY n) → Gives (.esRunDone n e) s fun t =>
      t.on (LANE_ES_STAT_BUSY n) = false ∧
      t.on (LANE_ES_STAT_DONE n) ∧
      t.rd (LANE_ES_ERR_ERR n) = min (min e (2 ^ 32 - 1)) (2 ^ (s.rd (LANE_ES_CTL_DWELL n) + 10)) % 2 ^ 32 ∧
      t.rd (LANE_ES_BITS_KBITS n) = 2 ^ s.rd (LANE_ES_CTL_DWELL n) % 2 ^ 32 ∧
      Only s t [LANE_ES_STAT n, LANE_ES_ERR n, LANE_ES_BITS n]) ∧
  (∀ (n : Fin 28) (e : Nat), s.on (LANE_ES_STAT_BUSY n) = false → Gives (.esRunDone n e) s fun t =>
      t = s)

/-- A set is decoded from its 16 code groups. Eight accepted sets in a row move TRAIN_COMMA to TRAIN_SETS; a set of another identity counts
ID_ERR and posts once in an attempt; a matching one gives HOPS, one beyond the hop range fails the lane; an unaccepted one counts SET_ERR;
eight matching and eight TSB sets hand the transmit half over, as SOLO does whatever the receive half; a HOS set of countdown 0 begins the
block phase, whose 64th good block reaches SERVICE. A data block in SERVICE is descrambled and delivered with its place in the frame, an
idle block ends the frame, a word beyond 32 is counted and posted, an invalid header is counted, the 16th of 64 loses block lock; a clean
window ends a slip search in SERVICE, 66 slips or a timeout in RECOVER (03_cell_lanes.md R68 to R77, 04_cell_link_protocol.md R86). -/
def Obligations.LaneTraining : Prop := ∀ s : State,
  (∀ (n : Fin 28) (g : List (BitVec 10)) (b : List (BitVec 8)),
    g.length = 16 → decodeSet (setRd (s.lane n).rxRd g) g = some b → setGood b → s.laneSt n = 1 → (s.lane n).idle = false → 
    (s.lane n).runOk < 7 → Gives (.orderedSetReceived n g) s fun t =>
      t.laneSt n = 1 ∧
      (t.lane n).runOk = (s.lane n).runOk + 1 ∧
      t.regs = s.regs ∧
      t.mem = s.mem) ∧
  (∀ (n : Fin 28) (g : List (BitVec 10)) (b : List (BitVec 8)),
    g.length = 16 → decodeSet (setRd (s.lane n).rxRd g) g = some b → setGood b → s.laneSt n = 1 → (s.lane n).idle = false → 
    (s.lane n).runOk = 7 → Gives (.orderedSetReceived n g) s fun t =>
      t.laneSt n = 2 ∧
      (t.lane n).runOk = 0 ∧
      t.fq = s.fq ∧
      Only s t [LANE_STAT n]) ∧
  (∀ (n : Fin 28) (g : List (BitVec 10)),
    g.length = 16 → ((decodeSet (setRd (s.lane n).rxRd g) g).all fun b => !setGood b) → 
    (s.laneSt n = 1 ∨ s.laneSt n = 2 ∨ s.laneSt n = 3) → (s.lane n).idle = false → Gives (.orderedSetReceived n g) s fun t =>
      t.rd (LANE_ERRCNT_SET_ERR n) = min (s.rd (LANE_ERRCNT_SET_ERR n) + 1) 255 ∧
      (t.lane n).runOk = 0 ∧
      t.laneSt n = s.laneSt n ∧
      t.fq = s.fq ∧
      Only s t [LANE_ERRCNT n]) ∧
  (∀ (n : Fin 28) (g : List (BitVec 10)) (b : List (BitVec 8)),
    g.length = 16 → decodeSet (setRd (s.lane n).rxRd g) g = some b → setGood b → (s.laneSt n = 2 ∨ s.laneSt n = 3) → 
    (s.lane n).idle = false → s.setMatches n b = false → Gives (.orderedSetReceived n g) s fun t =>
      t.rd (LANE_ERRCNT_ID_ERR n) = min (s.rd (LANE_ERRCNT_ID_ERR n) + 1) 255 ∧
      ((s.lane n).idPosted = false → Posted s t srcLANE n 2 clsLINK 1 n) ∧
      (t.lane n).idPosted ∧
      t.rd (LANE_STAT_HOPS n) = s.rd (LANE_STAT_HOPS n) ∧
      Within s t [wLANE, wCHAIN, wCELL, wENG, wSYS, wLOOP, wPROT]) ∧
  (∀ (n : Fin 28) (g : List (BitVec 10)) (b : List (BitVec 8)),
    g.length = 16 → decodeSet (setRd (s.lane n).rxRd g) g = some b → setGood b → (s.laneSt n = 2 ∨ s.laneSt n = 3) → 
    (s.lane n).idle = false → s.setMatches n b → s.hopOk n (symOf b 5) → Gives (.orderedSetReceived n g) s fun t =>
      t.rd (LANE_STAT_HOPS n) = symOf b 5 % 256 ∧
      (t.lane n).runMatch = min 8 ((s.lane n).runMatch + 1) ∧
      t.rd (LANE_ERRCNT_ID_ERR n) = s.rd (LANE_ERRCNT_ID_ERR n) ∧
      Within s t [wLANE, wCHAIN, wCELL, wENG, wSYS, wLOOP, wPROT]) ∧
  (∀ (n : Fin 28) (g : List (BitVec 10)) (b : List (BitVec 8)),
    g.length = 16 → decodeSet (setRd (s.lane n).rxRd g) g = some b → setGood b → (s.laneSt n = 2 ∨ s.laneSt n = 3) → 
    (s.lane n).idle = false → s.setMatches n b → s.hopOk n (symOf b 5) → symOf b 1 = 0x4B → 7 ≤ (s.lane n).runMatch → 
    (s.lane n).runMatch ≤ 8 → 7 ≤ (s.lane n).runTsb → s.rd (LANE_STAT_TX_MODE n) = 1 → Gives (.orderedSetReceived n g) s fun t =>
      t.rd (LANE_STAT_TX_MODE n) = 2 ∧
      (t.lane n).txSet = t.setOf n 0x4C 0 ∧
      (t.laneSt n = 3 ∨ t.laneSt n = 4) ∧
      Within s t [wLANE, wCHAIN, wCELL, wENG, wSYS, wLOOP, wPROT]) ∧
  (∀ (n : Fin 28) (g : List (BitVec 10)) (b : List (BitVec 8)),
    g.length = 16 → decodeSet (setRd (s.lane n).rxRd g) g = some b → setGood b → (s.laneSt n = 2 ∨ s.laneSt n = 3) → 
    (s.lane n).idle = false → s.setMatches n b → s.hopOk n (symOf b 5) → symOf b 1 = 0x4C → symOf b 7 = 0 → 
    Gives (.orderedSetReceived n g) s fun t =>
      (t.lane n).rxHos ∧
      (t.lane n).rxGood = 0 ∧
      t.laneSt n = 3 ∧
      Within s t [wLANE, wCHAIN, wCELL, wENG, wSYS, wLOOP, wPROT]) ∧
  (∀ (n : Fin 28) (g : List (BitVec 10)) (b : List (BitVec 8)),
    g.length = 16 → decodeSet (setRd (s.lane n).rxRd g) g = some b → setGood b → (s.laneSt n = 2 ∨ s.laneSt n = 3) → 
    (s.lane n).idle = false → s.setMatches n b → s.hopOk n (symOf b 5) = false → Gives (.orderedSetReceived n g) s fun t =>
      t.laneSt n = 7 ∧
      t.on (LANE_STAT_HOP_LIM n) ∧
      t.rd (LANE_STAT_HOPS n) = symOf b 5 % 256 ∧
      Posted s t srcLANE n 3 clsLINK 1 n ∧
      Within s t [wLANE, wCHAIN, wCELL, wENG, wSYS, wLOOP, wPROT]) ∧
  (∀ (n : Fin 28) (g : List (BitVec 10)),
    g.length = 16 → (¬ (s.laneSt n = 1 ∨ s.laneSt n = 2 ∨ s.laneSt n = 3) ∨ (s.lane n).idle) → 
    Gives (.orderedSetReceived n g) s fun t =>
      t = s) ∧
  (∀ (n : Fin 28), s.on (LANE_CTL_SOLO n) → s.rd (LANE_STAT_TX_MODE n) = 1 → Gives (.soloHandover n) s fun t =>
      t.rd (LANE_STAT_TX_MODE n) = 2 ∧
      (t.lane n).txSet = t.setOf n 0x4C 0 ∧
      (s.laneSt n ≠ 2 → s.laneSt n ≠ 3 → t.laneSt n = s.laneSt n) ∧
      (s.laneSt n = 2 ∨ s.laneSt n = 3 → t.laneSt n = if 64 ≤ (s.lane n).rxGood then 4 else 3) ∧
      Within s t [wLANE, wCHAIN, wCELL, wENG, wSYS, wLOOP, wPROT]) ∧
  (∀ (n : Fin 28), (s.on (LANE_CTL_SOLO n) = false ∨ s.rd (LANE_STAT_TX_MODE n) ≠ 1) → Gives (.soloHandover n) s fun t =>
      t = s) ∧
  (∀ (n : Fin 28) (h : BitVec 2) (p : BitVec 64),
    s.laneSt n = 4 → h = 1 → ((false :: (s.lane n).hist).take 64).countP id < 16 → 
    ((s.lane n).rxCtl ∨ ((s.lane n).rxIn ∧ (s.lane n).rxPos < 93)) → (s.lane n).rxq.length < 32 → 
    Gives (.blockReceived n h p) s fun t =>
      ((t.lane n).rxq = (s.lane n).rxq ++ [((if (s.lane n).rxCtl then 0 else (s.lane n).rxPos), BitVec.ofNat 64 (descramble 64 p.toNat 1 (s.lane n).scr 0).2)]) ∧
      (t.lane n).rxIn ∧
      ((t.lane n).rxPos = (if (s.lane n).rxCtl then 0 else (s.lane n).rxPos) + 1) ∧
      t.regs = s.regs ∧
      t.mem = s.mem ∧
      t.fq = s.fq) ∧
  (∀ (n : Fin 28) (h : BitVec 2) (p : BitVec 64),
    s.laneSt n = 4 → h = 1 → ((false :: (s.lane n).hist).take 64).countP id < 16 → 
    ((s.lane n).rxCtl ∨ ((s.lane n).rxIn ∧ (s.lane n).rxPos < 93)) → 32 ≤ (s.lane n).rxq.length → 
    Gives (.blockReceived n h p) s fun t =>
      (t.lane n).rxq = (s.lane n).rxq ∧
      t.rd (LANE_ERRCNT_RXQ_OVER n) = min (s.rd (LANE_ERRCNT_RXQ_OVER n) + 1) 255 ∧
      Posted s t srcLANE n 6 clsLINK 1 n ∧
      t.laneSt n = 4 ∧
      Within s t [wLANE, wENG]) ∧
  (∀ (n : Fin 28) (h : BitVec 2) (p : BitVec 64),
    s.laneSt n = 4 → h = 2 → ((false :: (s.lane n).hist).take 64).countP id < 16 → 
    BitVec.ofNat 64 (descramble 64 p.toNat 1 (s.lane n).scr 0).2 = 0x1E → Gives (.blockReceived n h p) s fun t =>
      (t.lane n).rxCtl ∧
      (t.lane n).rxIn = false ∧
      ((t.lane n).rxq = (if (s.lane n).rxIn ∧ (s.lane n).rxPos < 93 then dropPart (s.lane n).rxPos (s.lane n).rxq else (s.lane n).rxq)) ∧
      t.regs = s.regs ∧
      t.fq = s.fq) ∧
  (∀ (n : Fin 28) (h : BitVec 2) (p : BitVec 64),
    s.laneSt n = 4 → (h = 0 ∨ h = 3) → 16 ≤ ((true :: (s.lane n).hist).take 64).countP id → Gives (.blockReceived n h p) s fun t =>
      (t.laneSt n = (if s.on (LANE_STAT_CDR_LOCK n) then 5 else 6)) ∧
      t.rd (LANE_LOCKCNT_LOSSES n) = min (s.rd (LANE_LOCKCNT_LOSSES n) + 1) 65535 ∧
      t.rd (LANE_HDR_ERR_COUNT n) = min (s.rd (LANE_HDR_ERR_COUNT n) + 1) (2 ^ 32 - 1) ∧
      Posted s t srcLANE n 1 clsLINK 1 n ∧
      Within s t [wLANE, wCHAIN, wCELL, wENG, wSYS, wLOOP, wPROT]) ∧
  (∀ (n : Fin 28) (h : BitVec 2) (p : BitVec 64),
    s.laneSt n = 4 → (h = 0 ∨ h = 3) → ((true :: (s.lane n).hist).take 64).countP id < 16 → (s.lane n).rxq.length < 32 → 
    Gives (.blockReceived n h p) s fun t =>
      t.laneSt n = 4 ∧
      t.rd (LANE_HDR_ERR_COUNT n) = min (s.rd (LANE_HDR_ERR_COUNT n) + 1) (2 ^ 32 - 1) ∧
      t.fq = s.fq ∧
      Only s t [LANE_HDR_ERR n]) ∧
  (∀ (n : Fin 28) (h : BitVec 2) (p : BitVec 64),
    s.laneSt n = 3 → (s.lane n).rxHos → (h = 1 ∨ h = 2) → Gives (.blockReceived n h p) s fun t =>
      (t.lane n).rxGood = min 64 ((s.lane n).rxGood + 1) ∧
      (t.laneSt n = (if s.txBlock n ∧ 63 ≤ (s.lane n).rxGood then 4 else 3)) ∧
      (t.lane n).scr = (descramble 64 p.toNat 1 (s.lane n).scr 0).1 ∧
      Within s t [wLANE, wCHAIN, wCELL, wENG, wSYS, wLOOP, wPROT]) ∧
  (∀ (n : Fin 28) (h : BitVec 2) (p : BitVec 64),
    s.laneSt n = 3 → (s.lane n).rxHos → (s.lane n).rxGood < 64 → (h = 0 ∨ h = 3) → s.rd (LANE_STAT_ATTEMPT n) ≠ 7 → 
    Gives (.blockReceived n h p) s fun t =>
      t.laneSt n = 1 ∧
      (t.lane n).idle ∧
      Within s t [wLANE]) ∧
  (∀ (n : Fin 28) (h : BitVec 2) (p : BitVec 64), s.laneSt n = 5 → Gives (.blockReceived n h p) s fun t =>
      t.laneSt n = 5 ∧
      ((s.lane n).winBlk < 64 → (t.lane n).winBlk = (s.lane n).winBlk + 1 ∧ (t.lane n).winBad = (s.lane n).winBad + if h = 0 ∨ h = 3 then 1 else 0) ∧
      (t.lane n).rxq = (s.lane n).rxq ∧
      Only s t [LANE_HDR_ERR n]) ∧
  (∀ (n : Fin 28),
    s.laneSt n = 5 → s.on (LANE_SLIP_STAT_WIN_DONE n) = false → (s.lane n).winBlk = 64 → Gives (.slipWindowEnd n) s fun t =>
      ((s.lane n).winBad = 0 → t.laneSt n = 4 ∧ t.on (LANE_SLIP_STAT_GOOD n) ∧ t.on (LANE_STAT_BLK_LOCK n)) ∧
      ((s.lane n).winBad ≠ 0 → s.rd (LANE_SLIP_STAT_SLIPS n) < 66 → t.laneSt n = 5 ∧ t.on (LANE_SLIP_STAT_GOOD n) = false) ∧
      ((s.lane n).winBad ≠ 0 → 66 ≤ s.rd (LANE_SLIP_STAT_SLIPS n) → t.laneSt n = 6 ∧ Posted s t srcLANE n 4 clsLINK 1 n) ∧
      t.on (LANE_SLIP_STAT_WIN_DONE n) ∧
      t.rd (LANE_SLIP_STAT_BAD n) = (s.lane n).winBad % 128 ∧
      Within s t [wLANE, wCHAIN, wCELL, wENG, wSYS, wLOOP, wPROT]) ∧
  (∀ (n : Fin 28), s.laneSt n = 5 → s.on (LANE_SLIP_STAT_WIN_DONE n) → Gives (.laneSlip n) s fun t =>
      t.rd (LANE_SLIP_STAT_SLIPS n) = min (s.rd (LANE_SLIP_STAT_SLIPS n) + 1) 127 ∧
      t.on (LANE_SLIP_STAT_WIN_DONE n) = false ∧
      (t.lane n).winBlk = 0 ∧
      (t.lane n).winBad = 0 ∧
      t.laneSt n = 5 ∧
      Only s t [LANE_SLIP_STAT n]) ∧
  (∀ (n : Fin 28), s.laneSt n = 5 → s.on (LANE_SLIP_STAT_WIN_DONE n) = false → Gives (.laneSlip n) s fun t =>
      t.on (LANE_SLIP_STAT_EARLY n) ∧
      t.lane n = s.lane n ∧
      Only s t [LANE_SLIP_STAT n]) ∧
  (∀ (n : Fin 28), s.laneSt n ≠ 5 → Gives (.laneSlip n) s fun t =>
      t = s) ∧
  (∀ (n : Fin 28), s.laneSt n = 5 → s.on (LANE_SLIP_STAT_WIN_DONE n) → Gives (.slipTimeout n) s fun t =>
      t.laneSt n = 6 ∧
      Posted s t srcLANE n 4 clsLINK 1 n ∧
      t.rd (LANE_LOCKCNT_RECOVERS n) = min (s.rd (LANE_LOCKCNT_RECOVERS n) + 1) 65535 ∧
      Within s t [wLANE, wCHAIN, wCELL, wENG, wSYS, wLOOP, wPROT]) ∧
  (∀ (n : Fin 28), (s.laneSt n ≠ 5 ∨ s.on (LANE_SLIP_STAT_WIN_DONE n) = false) → Gives (.slipTimeout n) s fun t =>
      t = s)

/-! ### Cell nodes (chapter 05) -/

/-- A frame is given by the bytes of its blocks. A node reads its command in slot p in CAPACITY and 2p in LATENCY of a path whose input is
live; it takes a section that meets R112, sets its time to DEP + TCORR at the arrival of the header, counts agreements within 2 ns and
drops TSYNC beyond 4 ns, orders the sample and resets its loss count; one that does not meet it changes nothing. Three consecutive valid
tokens of the obeyed source raise the gate enable; the token timer drops it with every switch off and sets FAULT[1]. At a frame start the
mode taken takes effect; command loss discards the queue, puts legs 0 to 3 at Z and enters the safe mode; in HOLD the starts with an empty
queue count, and HOLD_TMO of them put the legs at Z; a node reset puts every value at its Cold column (05_cell_endpoint_contract.md R112
to R145). -/
def Obligations.NodeSections : Prop := ∀ s : State,
  (∀ (c : Fin 192) (p : Fin 2) (f b : List (BitVec 8)) (r : Nat),
    f.length ≤ 744 → f.length % 8 = 0 → ((if p = 0 then (s.node c).idle0 else (s.node c).idle1) = false) → 
    ((if fieldAt f 23 1 % 2 = 1 then (if p = 0 then (s.node c).pos0 else (s.node c).pos1) else 2 * (if p = 0 then (s.node c).pos0 else (s.node c).pos1)) < 8) → 
    ((f.drop (40 + 88 * (if fieldAt f 23 1 % 2 = 1 then (if p = 0 then (s.node c).pos0 else (s.node c).pos1) else 2 * (if p = 0 then (s.node c).pos0 else (s.node c).pos1)))).take 88 = b) → 
    b.length = 88 → (s.node c).takes (f.take 40) b → Gives (.cellSectionTaken c p f r) s fun t =>
      (t.node c).lastF = some (fieldAt f 0 4) ∧
      (t.node c).cmdFr = fieldAt f 0 4 ∧
      (t.node c).loss = 0 ∧
      (t.node c).took ∧
      (t.node c).fCmd = false ∧
      (t.node c).nt = ((sectionTime (f.take 40) b).toNat + ((s.node c).nt * 4096 - r)) / 4096 ∧
      ((t.node c).agree = if (sectionTime (f.take 40) b - r).natAbs ≤ 2 * 65536 then min 4 ((s.node c).agree + 1) else 0) ∧
      (4 * 65536 < (sectionTime (f.take 40) b - r).natAbs → (t.node c).tsync = false) ∧
      (∀ m : Fin 8, (t.node c).req = some m.val → m.val = fieldAt b 0 1 % 8 ∨ (s.node c).req = some m.val) ∧
      ((s.node c).mode ≠ 5 → (t.node c).mode = (s.node c).mode) ∧
      ((t.node c).smpAt = if fieldAt b 0 1 / 8 % 2 = 1 then (s.node c).smpAt ++ [(t.node c).fullFrame (fieldAt f 0 4) * 16000 + fieldAt b 2 2] else (s.node c).smpAt) ∧
      OtherNodes s t c) ∧
  (∀ (c : Fin 192) (p : Fin 2) (f b : List (BitVec 8)) (r : Nat),
    f.length ≤ 744 → f.length % 8 = 0 → ((if p = 0 then (s.node c).idle0 else (s.node c).idle1) = false) → 
    ((if fieldAt f 23 1 % 2 = 1 then (if p = 0 then (s.node c).pos0 else (s.node c).pos1) else 2 * (if p = 0 then (s.node c).pos0 else (s.node c).pos1)) < 8) → 
    ((f.drop (40 + 88 * (if fieldAt f 23 1 % 2 = 1 then (if p = 0 then (s.node c).pos0 else (s.node c).pos1) else 2 * (if p = 0 then (s.node c).pos0 else (s.node c).pos1)))).take 88 = b) → 
    b.length = 88 → (s.node c).takes (f.take 40) b = false → Gives (.cellSectionTaken c p f r) s fun t =>
      t.node c = s.node c ∧
      OtherNodes s t c) ∧
  (∀ (c : Fin 192) (p : Fin 2) (f : List (BitVec 8)) (r : Nat),
    f.length ≤ 744 → f.length % 8 = 0 → 
    ((if p = 0 then (s.node c).idle0 else (s.node c).idle1) ∨ f.length < 40 + 88 * (if fieldAt f 23 1 % 2 = 1 then (if p = 0 then (s.node c).pos0 else (s.node c).pos1) else 2 * (if p = 0 then (s.node c).pos0 else (s.node c).pos1)) + 88) → 
    Gives (.cellSectionTaken c p f r) s fun t =>
      t.node c = s.node c ∧
      OtherNodes s t c) ∧
  (∀ (c : Fin 192) (p : Fin 2) (f b : List (BitVec 8)) (g : Nat),
    f.length ≤ 744 → f.length % 8 = 0 → ((if p = 0 then (s.node c).idle0 else (s.node c).idle1) = false) → 
    ((if fieldAt f 23 1 % 2 = 1 then (if p = 0 then (s.node c).pos0 else (s.node c).pos1) else 2 * (if p = 0 then (s.node c).pos0 else (s.node c).pos1)) < 8) → 
    ((f.drop (40 + 88 * (if fieldAt f 23 1 % 2 = 1 then (if p = 0 then (s.node c).pos0 else (s.node c).pos1) else 2 * (if p = 0 then (s.node c).pos0 else (s.node c).pos1)))).take 88 = b) → 
    b.length = 88 → (s.node c).tokenOk (f.take 40) b → (s.node c).obey = some (fieldAt f 18 4, fieldAt f 16 2) → 
    (s.node c).tokFr = some g → (g + 1) % 2 ^ 32 = fieldAt f 0 4 → (s.node c).tokRun = 2 → Gives (.cellTokenCheck c p f) s fun t =>
      (t.node c).gate ∧
      (t.node c).tokRun = 3 ∧
      (t.node c).tokFr = some (fieldAt f 0 4) ∧
      (t.node c).tokTmr ∧
      ((s.node c).gate = false → (t.node c).fTok = false) ∧
      OtherNodes s t c) ∧
  (∀ (c : Fin 192) (p : Fin 2) (f b : List (BitVec 8)) (g : Nat),
    f.length ≤ 744 → f.length % 8 = 0 → ((if p = 0 then (s.node c).idle0 else (s.node c).idle1) = false) → 
    ((if fieldAt f 23 1 % 2 = 1 then (if p = 0 then (s.node c).pos0 else (s.node c).pos1) else 2 * (if p = 0 then (s.node c).pos0 else (s.node c).pos1)) < 8) → 
    ((f.drop (40 + 88 * (if fieldAt f 23 1 % 2 = 1 then (if p = 0 then (s.node c).pos0 else (s.node c).pos1) else 2 * (if p = 0 then (s.node c).pos0 else (s.node c).pos1)))).take 88 = b) → 
    b.length = 88 → (s.node c).tokenOk (f.take 40) b → (s.node c).obey = some (fieldAt f 18 4, fieldAt f 16 2) → 
    (s.node c).tokFr = some g → (g + 1) % 2 ^ 32 ≠ fieldAt f 0 4 → g ≠ fieldAt f 0 4 → Gives (.cellTokenCheck c p f) s fun t =>
      (t.node c).gate = (s.node c).gate ∧
      (t.node c).tokRun = 1 ∧
      (t.node c).tokFr = some (fieldAt f 0 4) ∧
      OtherNodes s t c) ∧
  (∀ (c : Fin 192) (p : Fin 2) (f b : List (BitVec 8)),
    f.length ≤ 744 → f.length % 8 = 0 → ((if p = 0 then (s.node c).idle0 else (s.node c).idle1) = false) → 
    ((if fieldAt f 23 1 % 2 = 1 then (if p = 0 then (s.node c).pos0 else (s.node c).pos1) else 2 * (if p = 0 then (s.node c).pos0 else (s.node c).pos1)) < 8) → 
    ((f.drop (40 + 88 * (if fieldAt f 23 1 % 2 = 1 then (if p = 0 then (s.node c).pos0 else (s.node c).pos1) else 2 * (if p = 0 then (s.node c).pos0 else (s.node c).pos1)))).take 88 = b) → 
    b.length = 88 → (s.node c).tokenOk (f.take 40) b = false → Gives (.cellTokenCheck c p f) s fun t =>
      t.node c = s.node c ∧
      OtherNodes s t c) ∧
  (∀ (c : Fin 192), (s.node c).tokTmr → Gives (.tokenTimerExpiry c) s fun t =>
      (t.node c).gate = false ∧
      (t.node c).tokRun = 0 ∧
      (t.node c).fTok ∧
      (t.node c).sw = 0 ∧
      (t.node c).q = (s.node c).q ∧
      (t.node c).mode = (s.node c).mode ∧
      OtherNodes s t c) ∧
  (∀ (c : Fin 192), (s.node c).tokTmr = false → Gives (.tokenTimerExpiry c) s fun t =>
      t.node c = s.node c ∧
      OtherNodes s t c) ∧
  (∀ (c : Fin 192) (m : Nat), (s.node c).took → (s.node c).req = some m → Gives (.cellFrameStart c) s fun t =>
      (t.node c).mode = m ∧
      (t.node c).req = none ∧
      (t.node c).took = false ∧
      (t.node c).loss = 0 ∧
      (t.node c).nt = ((s.node c).nt / 16000 + 1) * 16000 ∧
      OtherNodes s t c) ∧
  (∀ (c : Fin 192),
    (s.node c).mode ≠ 0 → (s.node c).took = false → (s.node c).fCmd = false → 
    bitsOf ((s.node c).epGet 0x10) 0 4 ≤ (s.node c).loss + 1 → Gives (.cellFrameStart c) s fun t =>
      (t.node c).mode = 1 + bitsOf ((s.node c).epGet 0x10) 8 1 ∧
      (t.node c).loss = (s.node c).loss + 1 ∧
      (t.node c).q = [] ∧
      (t.node c).legs.take 4 = [0, 0, 0, 0] ∧
      (t.node c).tsync = false ∧
      (t.node c).fCmd ∧
      OtherNodes s t c) ∧
  (∀ (c : Fin 192),
    (s.node c).mode = 5 → (s.node c).took → (s.node c).req = none → (s.node c).q = [] → Gives (.cellFrameStart c) s fun t =>
      (t.node c).mode = 5 ∧
      ((t.node c).hold = (if (s.node c).holdQ then (s.node c).hold + 1 else 0)) ∧
      (t.node c).holdQ ∧
      OtherNodes s t c) ∧
  (∀ (c : Fin 192),
    (s.node c).mode = 5 → (s.node c).q = [] → bitsOf ((s.node c).epGet 0x14) 0 8 ≠ 0 → 
    bitsOf ((s.node c).epGet 0x14) 0 8 ≤ (s.node c).hold → Gives (.holdTimeout c) s fun t =>
      (t.node c).legs.take 4 = [0, 0, 0, 0] ∧
      (t.node c).sw = 0 ∧
      (t.node c).mode = 5 ∧
      OtherNodes s t c) ∧
  (∀ (c : Fin 192),
    
    ((s.node c).mode ≠ 5 ∨ (s.node c).q ≠ [] ∨ bitsOf ((s.node c).epGet 0x14) 0 8 = 0 ∨ (s.node c).hold < bitsOf ((s.node c).epGet 0x14) 0 8) → 
    Gives (.holdTimeout c) s fun t =>
      t.node c = s.node c ∧
      OtherNodes s t c) ∧
  (∀ (c : Fin 192), Gives (.nodeReset c) s fun t =>
      (t.node c = { d := (s.node c).d, idle0 := (s.node c).idle0, idle1 := (s.node c).idle1, legs := [0, 0, 0, 0, if (s.node c).d.bypPwr then 2 else 0, 0] }) ∧
      OtherNodes s t c)

/-- The entry at the head of the queue acts on its leg at its time and counts in EXEC_CNT; without TSYNC, or with a desaturation latched, it
is removed without effect; a waiting switch turns on after its dead time; the first ordered sample is taken at its instant, or at once
when that has passed, with the on-state voltage of the switches that conduct, and becomes the converted one; a frame is forwarded with the
own report in its slot (p in CAPACITY, 2p + 1 in LATENCY) and every other byte as received, and the report uses up one acknowledgement; a
set is forwarded with its hop count, any other as it came; a path whose input is lost forwards nothing; desaturation after the blanking,
bootstrap undervoltage, overvoltage and the leakage test have their effects (05_cell_endpoint_contract.md R117 to R143;
04_cell_link_protocol.md R87, R97). -/
def Obligations.NodeActions : Prop := ∀ s : State,
  (∀ (c : Fin 192) (e : Edge) (r : List Edge),
    (s.node c).q = e :: r → ((s.node c).mode = 4 ∨ (s.node c).mode = 5) → (s.node c).tsync → (s.node c).desatLatched = false → 
    (s.node c).legs.length = 6 → e.leg < 4 → (e.leg ≤ 1 → e.st ≠ 0 → (s.node c).leg 4 = 0) → 
    Nat.land (legOn e.leg e.st) (bitsOf (s.node c).trip 16 12) = 0 → Gives (.cellEdgeExecute c) s fun t =>
      (t.node c).q = r ∧
      (t.node c).exec = ((s.node c).exec + 1) % 256 ∧
      (t.node c).nt = max (s.node c).nt e.t ∧
      (t.node c).leg e.leg = e.st ∧
      (∀ k : Fin 6, k.val ≠ e.leg → (t.node c).leg k = (s.node c).leg k) ∧
      OtherNodes s t c) ∧
  (∀ (c : Fin 192) (e : Edge) (r : List Edge),
    (s.node c).q = e :: r → ((s.node c).mode = 4 ∨ (s.node c).mode = 5) → (s.node c).tsync → (s.node c).desatLatched = false → 
    (s.node c).legs.length = 6 → (e.leg = 5 ∨ (e.leg = 4 ∧ (e.st = 0 ∨ ((s.node c).leg 0 = 0 ∧ (s.node c).leg 1 = 0)))) → 
    Gives (.cellEdgeExecute c) s fun t =>
      (t.node c).q = r ∧
      (t.node c).exec = ((s.node c).exec + 1) % 256 ∧
      (t.node c).nt = max (s.node c).nt e.t ∧
      (t.node c).leg e.leg = e.st ∧
      (∀ k : Fin 6, k.val ≠ e.leg → (t.node c).leg k = (s.node c).leg k) ∧
      (t.node c).sw = (s.node c).sw ∧
      OtherNodes s t c) ∧
  (∀ (c : Fin 192) (e : Edge) (r : List Edge),
    (s.node c).q = e :: r → ((s.node c).mode = 4 ∨ (s.node c).mode = 5) → ((s.node c).tsync = false ∨ (s.node c).desatLatched) → 
    Gives (.cellEdgeExecute c) s fun t =>
      (t.node c).q = r ∧
      (t.node c).exec = ((s.node c).exec + 1) % 256 ∧
      (t.node c).nt = max (s.node c).nt e.t ∧
      (t.node c).legs = (s.node c).legs ∧
      (t.node c).sw = (s.node c).sw ∧
      OtherNodes s t c) ∧
  (∀ (c : Fin 192), ((s.node c).q = [] ∨ ((s.node c).mode ≠ 4 ∧ (s.node c).mode ≠ 5)) → Gives (.cellEdgeExecute c) s fun t =>
      t.node c = s.node c ∧
      OtherNodes s t c) ∧
  (∀ (c : Fin 192) (i : Fin 13) (d : Nat),
    i.val < 12 → ((s.node c).wait.find? (fun w => w.1 == i.val) = some (i.val, d)) → (s.node c).want.testBit i → 
    (s.node c).sw.testBit i = false → (s.node c).sw.testBit (compSw i) = false → Gives (.cellDeadtimeTurnOn c i) s fun t =>
      (t.node c).sw = (s.node c).sw + 2 ^ i.val ∧
      (t.node c).nt = max (s.node c).nt d ∧
      (t.node c).legs = (s.node c).legs ∧
      OtherNodes s t c) ∧
  (∀ (c : Fin 192) (d : Nat),
    (s.node c).bypAt = some d → (s.node c).leg 0 = 0 → (s.node c).leg 1 = 0 → (s.node c).legs.length = 6 → 
    Gives (.cellDeadtimeTurnOn c 12) s fun t =>
      (t.node c).leg 4 = 2 ∧
      (t.node c).bypAt = none ∧
      (t.node c).sw = (s.node c).sw ∧
      OtherNodes s t c) ∧
  (∀ (c : Fin 192) (i : Fin 13),
    (i.val = 12 → (s.node c).bypAt = none) → (i.val ≠ 12 → (s.node c).wait.find? (fun w => w.1 == i.val) = none) → 
    Gives (.cellDeadtimeTurnOn c i) s fun t =>
      t.node c = s.node c ∧
      OtherNodes s t c) ∧
  (∀ (c : Fin 192) (v a d : BitVec 16) (m q : List (BitVec 16)) (k : Nat) (r : List Nat),
    m.length = 4 → q.length = 12 → (s.node c).smpAt = k :: r → Gives (.cellSample c v a d m q) s fun t =>
      ((t.node c).conv.map Sample.frame, (t.node c).conv.map Sample.ofs) = (some ((max (s.node c).nt k) / 16000 % 65536), some ((max (s.node c).nt k) % 16000)) ∧
      ((t.node c).conv.map Sample.vdc, (t.node c).conv.map Sample.iarm, (t.node c).conv.map Sample.idab) = (some v.toNat, some a.toNat, some d.toNat) ∧
      (t.node c).conv.map Sample.temp = some (m.map BitVec.toNat) ∧
      (∀ i : Fin 12, (t.node c).conv.bind (fun x => x.von[i.val]?) = some (if (s.node c).sw.testBit i then ((q[i.val]?).getD 0xFFFF).toNat else (((((s.node c).conv <|> (s.node c).smp).getD {}).von[i.val]?).getD 0xFFFF))) ∧
      (t.node c).smpAt = r ∧
      (t.node c).smp = (s.node c).smp ∧
      (t.node c).nt = (max (s.node c).nt k) ∧
      OtherNodes s t c) ∧
  (∀ (c : Fin 192) (v a d : BitVec 16) (m q : List (BitVec 16)),
    m.length = 4 → q.length = 12 → (s.node c).smpAt = [] → Gives (.cellSample c v a d m q) s fun t =>
      t.node c = s.node c ∧
      OtherNodes s t c) ∧
  (∀ (c : Fin 192) (x : Sample), (s.node c).conv = some x → Gives (.cellConversionDone c) s fun t =>
      (t.node c).smp = some x ∧
      (t.node c).conv = none ∧
      OtherNodes s t c) ∧
  (∀ (c : Fin 192), (s.node c).conv = none → Gives (.cellConversionDone c) s fun t =>
      t.node c = s.node c ∧
      OtherNodes s t c) ∧
  (∀ (c : Fin 192) (p : Fin 2) (f u : List (BitVec 8)) (r : BitVec 16),
    f.length ≤ 744 → f.length % 8 = 0 → 40 ≤ f.length → crc32c (f.take 36) = fieldAt f 36 4 → u.length = 18 → 
    ((if p = 0 then (s.node c).idle0 else (s.node c).idle1) = false) → 
    ((if fieldAt f 23 1 % 2 = 1 then (if p = 0 then (s.node c).pos0 else (s.node c).pos1) else 2 * (if p = 0 then (s.node c).pos0 else (s.node c).pos1) + 1) < 8) → 
    (40 + 88 * (if fieldAt f 23 1 % 2 = 1 then (if p = 0 then (s.node c).pos0 else (s.node c).pos1) else 2 * (if p = 0 then (s.node c).pos0 else (s.node c).pos1) + 1) + 88 ≤ f.length) → 
    Gives (.cellReportWrite c p f r u) s fun t =>
      (t.node c).rep = (s.node c).report p r.toNat u ++ toBytes 2 (crc16 ((s.node c).report p r.toNat u)) ∧
      ((if p = 0 then (t.node c).path0.frame else (t.node c).path1.frame).length = f.length) ∧
      (((if p = 0 then (t.node c).path0.frame else (t.node c).path1.frame).drop (40 + 88 * (if fieldAt f 23 1 % 2 = 1 then (if p = 0 then (s.node c).pos0 else (s.node c).pos1) else 2 * (if p = 0 then (s.node c).pos0 else (s.node c).pos1) + 1))).take 88 = (t.node c).rep.take 88) ∧
      ((if p = 0 then (t.node c).path0.frame else (t.node c).path1.frame).take (40 + 88 * (if fieldAt f 23 1 % 2 = 1 then (if p = 0 then (s.node c).pos0 else (s.node c).pos1) else 2 * (if p = 0 then (s.node c).pos0 else (s.node c).pos1) + 1)) = f.take (40 + 88 * (if fieldAt f 23 1 % 2 = 1 then (if p = 0 then (s.node c).pos0 else (s.node c).pos1) else 2 * (if p = 0 then (s.node c).pos0 else (s.node c).pos1) + 1))) ∧
      ((if p = 0 then (t.node c).path0.frame else (t.node c).path1.frame).drop (40 + 88 * (if fieldAt f 23 1 % 2 = 1 then (if p = 0 then (s.node c).pos0 else (s.node c).pos1) else 2 * (if p = 0 then (s.node c).pos0 else (s.node c).pos1) + 1) + 88) = f.drop (40 + 88 * (if fieldAt f 23 1 % 2 = 1 then (if p = 0 then (s.node c).pos0 else (s.node c).pos1) else 2 * (if p = 0 then (s.node c).pos0 else (s.node c).pos1) + 1) + 88)) ∧
      ((t.node c).ack0 = (if p = 0 then (s.node c).ack0.drop 1 else (s.node c).ack0)) ∧
      ((t.node c).ack1 = (if p = 0 then (s.node c).ack1 else (s.node c).ack1.drop 1)) ∧
      (t.node c).mode = (s.node c).mode ∧
      (t.node c).legs = (s.node c).legs ∧
      OtherNodes s t c) ∧
  (∀ (c : Fin 192) (p : Fin 2) (f u : List (BitVec 8)) (r : BitVec 16),
    f.length ≤ 744 → f.length % 8 = 0 → 40 ≤ f.length → crc32c (f.take 36) = fieldAt f 36 4 → u.length = 18 → 
    ((if p = 0 then (s.node c).idle0 else (s.node c).idle1) = false) → 
    (f.length ≤ 40 + 88 * (if fieldAt f 23 1 % 2 = 1 then (if p = 0 then (s.node c).pos0 else (s.node c).pos1) else 2 * (if p = 0 then (s.node c).pos0 else (s.node c).pos1) + 1)) → 
    Gives (.cellReportWrite c p f r u) s fun t =>
      (t.node c).rep = (s.node c).rep ∧
      ((if p = 0 then (t.node c).path0.frame else (t.node c).path1.frame) = f) ∧
      (t.node c).ack0 = (s.node c).ack0 ∧
      (t.node c).ack1 = (s.node c).ack1 ∧
      OtherNodes s t c) ∧
  (∀ (c : Fin 192) (p : Fin 2) (f u : List (BitVec 8)) (r : BitVec 16),
    f.length ≤ 744 → f.length % 8 = 0 → u.length = 18 → (if p = 0 then (s.node c).idle0 else (s.node c).idle1) → 
    Gives (.cellReportWrite c p f r u) s fun t =>
      t.node c = s.node c ∧
      OtherNodes s t c) ∧
  (∀ (c : Fin 192) (p : Fin 2), Gives (.cellInputLos c p) s fun t =>
      (if p = 0 then (t.node c).idle0 else (t.node c).idle1) ∧
      (t.node c).mode = (s.node c).mode ∧
      (t.node c).legs = (s.node c).legs ∧
      OtherNodes s t c) ∧
  (∀ (c : Fin 192) (p : Fin 2), Gives (.cellInputRelock c p) s fun t =>
      (t.node c = if p = 0 then { s.node c with idle0 := false } else { s.node c with idle1 := false }) ∧
      OtherNodes s t c) ∧
  (∀ (c : Fin 192) (p : Fin 2) (g : List (BitVec 10)) (b : List (BitVec 8)),
    g.length = 16 → ((if p = 0 then (s.node c).idle0 else (s.node c).idle1) = false) → 
    (decodeSet (setRd (if p = 0 then (s.node c).path0 else (s.node c).path1).rdIn g) g = some b) → setGood b → 
    Gives (.cellOrderedSetForward c p g) s fun t =>
      (t.node c).fwd.length = 15 ∧
      setGood (t.node c).fwd ∧
      symOf (t.node c).fwd 5 = min 255 (symOf b 5 + 1) ∧
      (∀ k : Fin 15, 1 ≤ k.val → k.val ≠ 5 → symOf (t.node c).fwd k = symOf b k) ∧
      ((if p = 0 then (t.node c).path0 else (t.node c).path1).grp = (encodeSet (if p = 0 then (s.node c).path0 else (s.node c).path1).rdOut (t.node c).fwd).1) ∧
      ((if p = 0 then (t.node c).path0 else (t.node c).path1).blk = (symOf b 1 == 0x4C && symOf b 7 == 0)) ∧
      ((if p = 0 then (t.node c).pos0 else (t.node c).pos1) = symOf b 5) ∧
      OtherNodes s t c) ∧
  (∀ (c : Fin 192) (p : Fin 2) (g : List (BitVec 10)),
    g.length = 16 → ((if p = 0 then (s.node c).idle0 else (s.node c).idle1) = false) → 
    ((decodeSet (setRd (if p = 0 then (s.node c).path0 else (s.node c).path1).rdIn g) g).all fun b => !setGood b) → 
    Gives (.cellOrderedSetForward c p g) s fun t =>
      ((if p = 0 then (t.node c).path0 else (t.node c).path1).grp = g) ∧
      (t.node c).pos0 = (s.node c).pos0 ∧
      (t.node c).pos1 = (s.node c).pos1 ∧
      OtherNodes s t c) ∧
  (∀ (c : Fin 192) (p : Fin 2) (g : List (BitVec 10)),
    g.length = 16 → (if p = 0 then (s.node c).idle0 else (s.node c).idle1) → Gives (.cellOrderedSetForward c p g) s fun t =>
      t.node c = s.node c ∧
      OtherNodes s t c) ∧
  (∀ (c : Fin 192) (i : Fin 12) (k v : Nat),
    (s.node c).sw.testBit i → bitsOf ((s.node c).epGet (0x40 + 4 * i)) 15 1 = 1 → 
    ((s.node c).blankTo[i.val]?).getD 0 ≤ max (s.node c).nt k → bitsOf ((s.node c).epGet (0x40 + 4 * i)) 8 7 * 100 < v → 
    Gives (.desatTrip c i k v) s fun t =>
      (t.node c).trip.testBit i ∧
      (t.node c).legs.take 4 = [0, 0, 0, 0] ∧
      (t.node c).sw = 0 ∧
      (t.node c).q = (s.node c).q ∧
      OtherNodes s t c) ∧
  (∀ (c : Fin 192) (i : Fin 12) (k v : Nat),
    
    ((s.node c).sw.testBit i = false ∨ bitsOf ((s.node c).epGet (0x40 + 4 * i)) 15 1 = 0 ∨ max (s.node c).nt k < ((s.node c).blankTo[i.val]?).getD 0 ∨ v ≤ bitsOf ((s.node c).epGet (0x40 + 4 * i)) 8 7 * 100) → 
    Gives (.desatTrip c i k v) s fun t =>
      (t.node c).trip = (s.node c).trip ∧
      (t.node c).legs = (s.node c).legs ∧
      (t.node c).sw = (s.node c).sw ∧
      OtherNodes s t c) ∧
  (∀ (c : Fin 192) (i : Fin 12), i.val % 2 = 0 → Gives (.bsuvLockout c i true) s fun t =>
      (t.node c).trip.testBit (16 + i) ∧
      (t.node c).want.testBit i = false ∧
      (t.node c).sw.testBit i = false ∧
      (t.node c).legs = (s.node c).legs ∧
      OtherNodes s t c) ∧
  (∀ (c : Fin 192) (i : Fin 12), i.val % 2 = 1 → Gives (.bsuvLockout c i true) s fun t =>
      t.node c = s.node c ∧
      OtherNodes s t c) ∧
  (∀ (c : Fin 192) (i : Fin 12), Gives (.bsuvLockout c i false) s fun t =>
      (t.node c).trip = (s.node c).trip ∧
      (t.node c).sw = (s.node c).sw ∧
      (t.node c).legs = (s.node c).legs ∧
      (t.node c).bsuvLow.testBit i = ((s.node c).bsuvLow.testBit i && decide (i.val % 2 = 1)) ∧
      OtherNodes s t c) ∧
  (∀ (c : Fin 192), (s.node c).d.dump → Gives (.cellDumpOn c) s fun t =>
      t.node c = { s.node c with ov := true } ∧
      OtherNodes s t c) ∧
  (∀ (c : Fin 192), (s.node c).d.dump = false → Gives (.cellDumpOn c) s fun t =>
      t.node c = s.node c ∧
      OtherNodes s t c) ∧
  (∀ (c : Fin 192), Gives (.cellDumpOff c) s fun t =>
      t.node c = { s.node c with ov := false } ∧
      OtherNodes s t c) ∧
  (∀ (c : Fin 192) (a : BitVec 24) (k : Nat), (s.node c).leak = some k → k < 12 → Gives (.leakTestEnd c a) s fun t =>
      (t.node c).leak = none ∧
      (t.node c).epGet 0x94 = k + 16 + a.toNat * 256 ∧
      (t.node c).sw = (s.node c).sw ∧
      (t.node c).mode = (s.node c).mode ∧
      OtherNodes s t c) ∧
  (∀ (c : Fin 192) (a : BitVec 24), (s.node c).leak = none → Gives (.leakTestEnd c a) s fun t =>
      t.node c = s.node c ∧
      OtherNodes s t c)

/-! ### Chains, frames and the control cycle (chapters 02 and 04) -/

/-- Enabling a chain outside RUN takes it to WAIT, from which it goes to MEASURE at once when its topology fits and its receive paths are
live; in RUN, or where EN = 1 is reserved, it is refused; relinking does the same from any state but OFF with TCORR 0 and closed books;
disabling takes it to OFF with no credit; the end of SYNC marks the cells that are not ready LOST, posts each at S1 and puts the chain in
service; a missed header counts, and LOSS_FR of them on the last live path lose the chain at S2 with every enabled cell LOST and MODE_REQ
its LOSS_MODE; MB_CTL.GO stages a write or collides; the other chains stay as they are (04_cell_link_protocol.md R99 to R114). Setting
CYC_CFG.EN outside RUN puts the grid at CYC_START; a cycle start brings time to its start frame and counts CYC_NUM; a grid to be set anew
begins there; an entry whose swap is due comes at its swap instant: with a fresh fill copy it exchanges its copies, the new one showing
the cycle of its sample, its AGE, LATE and STALE, and without one it keeps the committed copy, counts MISSED and grows its AGE
(02_control_cycle.md R43 to R51). -/
def Obligations.ChainStates : Prop := ∀ s : State,
  (∀ (n : Fin 24), s.inRun = false → s.on (CHAIN_CFG_EN n) = false → s.chainEnReserved n = false → Gives (.chainEnable n) s fun t =>
      t.on (CHAIN_CFG_EN n) ∧
      (t.chainSt n = 1 ∨ t.chainSt n = 2) ∧
      (∀ c : Fin 192, c.val / 8 = n.val → t.reg (CELLCTL_CREDIT c) = 0 ∧ (t.cell c).opened = false) ∧
      (∀ c : Fin 192, c.val / 8 = n.val → t.rd (CELLCTL_TCORR0_TCORR c) = 0 ∧ t.rd (CELLCTL_TCORR1_TCORR c) = 0) ∧
      (∀ m : Fin 24, m ≠ n → t.chain m = s.chain m ∧ t.chainSt m = s.chainSt m) ∧
      Within s t [wCHAIN, wCELL, wENG, wSYS, wLOOP, wPROT, wFLT, wLPWM, wPGEN, wSADL]) ∧
  (∀ (n : Fin 24),
    s.inRun = false → s.on (CHAIN_CFG_EN n) = false → s.chainEnReserved n = false → s.topoOk n → s.topo n = 0 → 
    (s.laneSt n = 4 ∨ s.laneSt n = 5) → s.rd (CHAIN_MISS_P n 0) < s.rd (CHAIN_CFG_LOSS_FR n) → Gives (.chainEnable n) s fun t =>
      t.chainSt n = 2 ∧
      t.rd (CHAIN_STAT_LINKGEN n) = (s.rd (CHAIN_STAT_LINKGEN n) + 1) % 256 ∧
      (∀ c : Fin 192, c.val / 8 = n.val → t.on (CELLCTL_STAT_LOST c) = (s.cellEn c && decide (t.rd (CHAIN_STAT_HOPS n) ≤ c.val % 8))) ∧
      Within s t [wCHAIN, wCELL, wENG, wSYS, wLOOP, wPROT, wFLT, wLPWM, wPGEN, wSADL]) ∧
  (∀ (n : Fin 24),
    s.inRun = false → s.on (CHAIN_CFG_EN n) = false → s.chainEnReserved n = false → s.topoOk n → s.topo n = 0 → s.laneSt n ≠ 4 → 
    s.laneSt n ≠ 5 → Gives (.chainEnable n) s fun t =>
      t.chainSt n = 1 ∧
      t.rd (CHAIN_STAT_LINKGEN n) = s.rd (CHAIN_STAT_LINKGEN n) ∧
      Within s t [wCHAIN, wCELL, wENG, wSYS, wLOOP, wPROT, wFLT, wLPWM, wPGEN, wSADL]) ∧
  (∀ (n : Fin 24), s.inRun → s.on (CHAIN_CFG_EN n) = false → s.chainEnReserved n = false → Gives (.chainEnable n) s fun t =>
      Posted s t srcCHAIN n 0xF0 clsCONFIG 1 (CHAIN_CFG n) ∧
      Only s t []) ∧
  (∀ (n : Fin 24), s.chainEnReserved n → Gives (.chainEnable n) s fun t =>
      Posted s t srcCHAIN n 0xF1 clsCONFIG 1 (CHAIN_CFG n) ∧
      Only s t []) ∧
  (∀ (n : Fin 24), s.on (CHAIN_CFG_EN n) → s.chainEnReserved n = false → Gives (.chainEnable n) s fun t =>
      t = s) ∧
  (∀ (n : Fin 24), s.inRun = false → s.on (CHAIN_CFG_EN n) → Gives (.chainDisable n) s fun t =>
      t.on (CHAIN_CFG_EN n) = false ∧
      t.chainSt n = 0 ∧
      t.reg (CHAIN_MISS n) = 0 ∧
      t.rd (CHAIN_LIVE_P n 0) = 0 ∧ t.rd (CHAIN_LIVE_P n 1) = 0 ∧
      (∀ c : Fin 192, c.val / 8 = n.val → t.reg (CELLCTL_CREDIT c) = 0 ∧ (t.cell c).opened = false) ∧
      (∀ c : Fin 192, c.val / 8 ≠ n.val → t.cell c = s.cell c) ∧
      (∀ m : Fin 24, m ≠ n → t.chain m = s.chain m ∧ t.chainSt m = s.chainSt m) ∧
      Within s t [wCHAIN, wCELL, wENG, wSYS, wLOOP, wPROT, wFLT, wLPWM, wPGEN, wSADL]) ∧
  (∀ (n : Fin 24), s.inRun → s.on (CHAIN_CFG_EN n) → Gives (.chainDisable n) s fun t =>
      Posted s t srcCHAIN n 0xF0 clsCONFIG 1 (CHAIN_CFG n) ∧
      Only s t []) ∧
  (∀ (n : Fin 24), s.on (CHAIN_CFG_EN n) = false → Gives (.chainDisable n) s fun t =>
      t = s) ∧
  (∀ (n : Fin 24), s.chainSt n ≠ 0 → Gives (.chainRelink n) s fun t =>
      (t.chainSt n = 1 ∨ t.chainSt n = 2) ∧
      (∀ c : Fin 192, c.val / 8 = n.val → t.rd (CELLCTL_TCORR0_TCORR c) = 0 ∧ t.rd (CELLCTL_TCORR1_TCORR c) = 0 ∧ t.reg (CELLCTL_CREDIT c) = 0 ∧ (t.cell c).opened = false) ∧
      (∀ m : Fin 24, m ≠ n → t.chain m = s.chain m ∧ t.chainSt m = s.chainSt m) ∧
      Within s t [wCHAIN, wCELL, wENG, wSYS, wLOOP, wPROT, wFLT, wLPWM, wPGEN, wSADL]) ∧
  (∀ (n : Fin 24), s.chainSt n = 0 → Gives (.chainRelink n) s fun t =>
      t = s) ∧
  (∀ (n : Fin 24), s.chainSt n = 3 → Gives (.syncTimeout n) s fun t =>
      t.chainSt n = 4 ∧
      (∀ c : Fin 192, c.val / 8 = n.val → t.on (CELLCTL_STAT_LOST c) = (s.on (CELLCTL_STAT_LOST c) || (s.cellEn c && !(s.on (CELLCTL_STAT_TSYNC c) && ((s.cell c).opened || s.standby))))) ∧
      (∀ m : Fin 24, m ≠ n → t.chain m = s.chain m ∧ t.chainSt m = s.chainSt m) ∧
      Within s t [wCHAIN, wCELL, wENG, wSYS, wLOOP, wPROT, wFLT, wLPWM, wPGEN, wSADL]) ∧
  (∀ (n : Fin 24), s.chainSt n ≠ 3 → Gives (.syncTimeout n) s fun t =>
      t = s) ∧
  (∀ (c : Fin 192), s.hasCell c → s.on (CELLCTL_MB_CTL_PEND c) = false → Gives (.mbGo c) s fun t =>
      t.on (CELLCTL_MB_CTL_PEND c) ∧
      t.on (CELLCTL_MB_CTL_COLL c) = s.on (CELLCTL_MB_CTL_COLL c) ∧
      (t.cell c).mbWait = 0 ∧
      t.fq = s.fq ∧
      Only s t [CELLCTL_MB_CTL c]) ∧
  (∀ (c : Fin 192), s.hasCell c → s.on (CELLCTL_MB_CTL_PEND c) → Gives (.mbGo c) s fun t =>
      t.on (CELLCTL_MB_CTL_COLL c) ∧
      t.on (CELLCTL_MB_CTL_PEND c) ∧
      t.cell c = s.cell c ∧
      t.fq = s.fq ∧
      Only s t [CELLCTL_MB_CTL c]) ∧
  (∀ (c : Fin 192), s.hasCell c = false → Gives (.mbGo c) s fun t =>
      t = s) ∧
  (∀ (n : Fin 24) (p : Fin 2), s.chainSt n ≠ 0 → ((s.rxPaths n).any (fun q => q.1 == p.val)) → Gives (.headerMissed n p) s fun t =>
      t.rd (CHAIN_MISS_P n p) = min (s.rd (CHAIN_MISS_P n p) + 1) 255 ∧
      ((t.chain n).pmiss = (if s.topo n = 2 then (s.chain n).pmiss + 1 else (s.chain n).pmiss)) ∧
      (∀ m : Fin 24, m ≠ n → t.chain m = s.chain m ∧ t.rd (CHAIN_MISS_P m 0) = s.rd (CHAIN_MISS_P m 0)) ∧
      Within s t [wCHAIN, wCELL, wENG, wSYS, wLOOP, wPROT, wFLT, wLPWM, wPGEN, wSADL, wSAFE, wAGE, wNVC]) ∧
  (∀ (n : Fin 24) (p : Fin 2),
    (s.chainSt n = 0 ∨ (s.rxPaths n).any (fun q => q.1 == p.val) = false) → Gives (.headerMissed n p) s fun t =>
      t = s) ∧
  (∀ (n : Fin 24),
    s.topo n = 0 → (s.chainSt n = 4 ∨ s.chainSt n = 5) → s.rd (CHAIN_CFG_LOSS_FR n) ≤ s.rd (CHAIN_MISS_P n 0) + 1 → 
    s.rd (CHAIN_CFG_LOSS_FR n) ≤ 255 → s.role = 0 → Gives (.headerMissed n 0) s fun t =>
      t.chainSt n = 6 ∧
      Posted s t srcCHAIN n 4 clsLINK 2 n ∧
      (∀ c : Fin 192, c.val / 8 = n.val → s.cellEn c → t.on (CELLCTL_STAT_LOST c) ∧ t.rd (CELLCTL_CFG_MODE_REQ c) = 1 + s.rd (CELLCTL_CFG_LOSS_MODE c)) ∧
      (∀ c : Fin 192, c.val / 8 = n.val → t.reg (CELLCTL_CREDIT c) = 0 ∧ (t.cell c).opened = false) ∧
      Within s t [wCHAIN, wCELL, wENG, wSYS, wLOOP, wPROT, wFLT, wLPWM, wPGEN, wSADL]) ∧
  (s.inRun = false → s.on LOOP_CYC_CFG_EN = false → Gives .cycleGridEnable s fun t =>
      t.on LOOP_CYC_CFG_EN ∧
      t.grid.frames = s.rd LOOP_CYC_CFG_FRAMES ∧
      t.grid.anchor = (s.frame : Int) + toInt 32 (subMod 32 (s.reg LOOP_CYC_START) (s.reg LOOP_FRAME_NUM)) ∧
      t.grid.inCycle = false ∧
      t.grid.regrid = false ∧
      t.fq = s.fq ∧
      Only s t [LOOP_CYC_CFG]) ∧
  (s.inRun → s.on LOOP_CYC_CFG_EN = false → Gives .cycleGridEnable s fun t =>
      t.grid = s.grid ∧
      Posted s t srcLOOP 16 0xF0 clsCONFIG 1 LOOP_CYC_CFG ∧
      Only s t []) ∧
  (s.on LOOP_CYC_CFG_EN → Gives .cycleGridEnable s fun t =>
      t = s) ∧
  (s.on LOOP_CYC_CFG_EN → s.grid.regrid = false → Gives .cycleStart s fun t =>
      t.reg LOOP_CYC_NUM = (s.grid.next % 2 ^ 32).toNat ∧
      t.grid.next = s.grid.next + 1 ∧
      t.grid.anchor = s.grid.anchor ∧
      t.grid.frames = s.grid.frames ∧
      t.grid.inCycle ∧
      t.tb = max s.tb ((s.grid.anchor + s.grid.next * s.grid.frames).toNat * 1000 * 2 ^ 24) ∧
      (∀ c : Fin 192, t.cstE c = s.cstE c) ∧
      ∀ n : Fin 24, (t.chain n).tUse = s.rd (CHAIN_TRING_TRING n) ∧ (t.chain n).tPrev = (s.chain n).tUse) ∧
  (s.on LOOP_CYC_CFG_EN → s.grid.regrid → Gives .cycleStart s fun t =>
      t.tb = (s.timeTo ((s.grid.anchor + s.grid.next * s.grid.frames).toNat * 1000 * 2 ^ 24)).tb ∧
      t.grid.anchor = ((s.timeTo ((s.grid.anchor + s.grid.next * s.grid.frames).toNat * 1000 * 2 ^ 24)).frame : Int) + toInt 32 (subMod 32 (s.reg LOOP_CYC_START) ((s.timeTo ((s.grid.anchor + s.grid.next * s.grid.frames).toNat * 1000 * 2 ^ 24)).reg LOOP_FRAME_NUM)) ∧
      t.grid.frames = s.rd LOOP_CYC_CFG_FRAMES ∧
      t.grid.inCycle = false ∧
      t.grid.regrid = false ∧
      t.reg LOOP_CYC_NUM = s.reg LOOP_CYC_NUM ∧
      t.fq = s.fq ∧
      Only s t [LOOP_FRAME_NUM]) ∧
  (s.on LOOP_CYC_CFG_EN = false → Gives .cycleStart s fun t =>
      t = s) ∧
  (∀ (c : Fin 192) (m : Int) (u : Nat),
    s.on LOOP_CYC_CFG_EN → s.grid.inCycle → s.on (LOOP_CHCYC_EN (c / 8)) → s.on (CHAIN_TRING_VALID (c / 8)) → s.hasCell c → 
    c.val % 8 < s.rd (CHAIN_STAT_HOPS (c / 8)) → m = s.swapCyc c → (s.cstE c).done < m → (s.cstE c).fillT = some u → 
    Gives (.cstSwap c) s fun t =>
      (t.cstE c).cur = 1 - (s.cstE c).cur ∧
      (t.cstE c).curT = some u ∧
      (t.cstE c).fillT = none ∧
      (t.cstE c).exch ∧
      (t.cstE c).done = m ∧
      t.tb = max s.tb (ceilDiv (s.swapAt c m * 2 ^ 24) 1600) ∧
      (∀ d : Fin 192, d ≠ c → t.cstE d = s.cstE d) ∧
      t.load (cstAddr (1 - (s.cstE c).cur) c + 0x58) 4 = (s.cycleOfSample (c / 8) u % 65536).toNat * 65536 + (min 255 (m - s.cycleOfSample (c / 8) u).toNat) * 256 + 8 + 2 * bit (s.cstE c).fillLate + bit ((min 255 (m - s.cycleOfSample (c / 8) u).toNat) != 0) ∧
      (t.load (s.cstCom c + 0x58) 4).testBit 3 = false ∧
      StoresTwo s t (cstAddr (1 - (s.cstE c).cur) c + 0x58) (s.cstCom c + 0x58) 4 ∧
      RegsIn s t [wCHAIN, wCELL, wSYS, wLOOP, wFLT, wLPWM, wPGEN, wSADL, wTRC, wENG]) ∧
  (∀ (c : Fin 192) (m : Int),
    s.on LOOP_CYC_CFG_EN → s.grid.inCycle → s.on (LOOP_CHCYC_EN (c / 8)) → s.on (CHAIN_TRING_VALID (c / 8)) → s.hasCell c → 
    c.val % 8 < s.rd (CHAIN_STAT_HOPS (c / 8)) → m = s.swapCyc c → (s.cstE c).done < m → (s.cstE c).fillT = none → 
    Gives (.cstSwap c) s fun t =>
      (t.cstE c).cur = (s.cstE c).cur ∧
      (t.cstE c).curT = (s.cstE c).curT ∧
      (t.cstE c).exch = false ∧
      (t.cstE c).done = m ∧
      t.tb = max s.tb (ceilDiv (s.swapAt c m * 2 ^ 24) 1600) ∧
      (∀ d : Fin 192, d ≠ c → t.cstE d = s.cstE d) ∧
      t.rd (LOOP_CHCNT_MISSED (c / 8)) = min (s.rd (LOOP_CHCNT_MISSED (c / 8)) + 1) 65535 ∧
      t.load (s.cstCom c + 0x58) 4 = putBits (putBits (s.load (s.cstCom c + 0x58) 4) 8 8 (satN 8 (bitsOf (s.load (s.cstCom c + 0x58) 4) 8 8 + 1))) 0 1 1 ∧
      Stores s t (s.cstCom c + 0x58) 4 ∧
      RegsIn s t [wCHAIN, wCELL, wSYS, wLOOP, wFLT, wLPWM, wPGEN, wSADL, wTRC, wENG]) ∧
  (∀ (c : Fin 192), (s.swaps c = false ∨ s.swapCyc c ≤ (s.cstE c).done) → Gives (.cstSwap c) s fun t =>
      t = s)

/-- A departing frame carries 8 sections of 88 bytes, each with its SCRC, and a header of 40 with its frame number, DEVID, epoch and HCRC; a
transmit queue that runs empty fails the SCRC of that slot, counts and posts; a lane outside BLOCK, or of a chain that is OFF, sends none;
a header is the words of blocks 0 to 4 of the frame received, a section the words of its slot; a good header clears the count of misses
and names the path, a bad or foreign one counts HDR_ERR, a returned one in topology 2 sets LOOPED; a good report section sets what STAT
and RESID show, fills the fill copy and returns credit, a bad one counts SEC_ERR; a frame start brings time to it and ends the heartbeat
hold (02_control_cycle.md R41, R42; 04_cell_link_protocol.md R86 to R104). -/
def Obligations.FramesSentAndReceived : Prop := ∀ s : State,
  (∀ (l : Fin 24), s.txBlock l → s.chainSt (s.txPathOf l).1 ≠ 0 → Gives (.frameDepart l none) s fun t =>
      (t.lane l).txHdr.length = 40 ∧
      fieldAt (t.lane l).txHdr 0 4 = s.frame % 2 ^ 32 ∧
      fieldAt (t.lane l).txHdr 16 2 = s.rd SYS_DEV_ID_DEVID ∧
      fieldAt (t.lane l).txHdr 18 4 = s.epochAt s.frame % 2 ^ 32 ∧
      fieldAt (t.lane l).txHdr 22 1 = (l.val + 32 * s.topo (s.txPathOf l).1 + 128 * (s.txPathOf l).2) % 256 ∧
      fieldAt (t.lane l).txHdr 24 2 = s.rd (CHAIN_STAT_HOPS (s.txPathOf l).1) ∧
      hcrcOk (t.lane l).txHdr ∧
      (t.lane l).txSec.length = 8 ∧
      t.tb = max s.tb (ceilDiv (departure s.frame * 2 ^ 24) 1600) ∧
      (∀ i : Fin 8, ((t.lane l).txSec[i]?).any (fun b => b.length == 88 && scrcOk b)) ∧
      Within s t [wCELL, wENG, wFLT, wLANE, wLOOP, wLPWM, wMOD, wPROT, wPGEN, wSADL, wSYS]) ∧
  (∀ (l : Fin 24) (i : Fin 8), s.txBlock l → s.chainSt (s.txPathOf l).1 ≠ 0 → Gives (.frameDepart l (some i)) s fun t =>
      (t.lane l).txHdr.length = 40 ∧
      fieldAt (t.lane l).txHdr 0 4 = s.frame % 2 ^ 32 ∧
      fieldAt (t.lane l).txHdr 16 2 = s.rd SYS_DEV_ID_DEVID ∧
      fieldAt (t.lane l).txHdr 18 4 = s.epochAt s.frame % 2 ^ 32 ∧
      fieldAt (t.lane l).txHdr 22 1 = (l.val + 32 * s.topo (s.txPathOf l).1 + 128 * (s.txPathOf l).2) % 256 ∧
      fieldAt (t.lane l).txHdr 24 2 = s.rd (CHAIN_STAT_HOPS (s.txPathOf l).1) ∧
      hcrcOk (t.lane l).txHdr ∧
      (t.lane l).txSec.length = 8 ∧
      t.tb = max s.tb (ceilDiv (departure s.frame * 2 ^ 24) 1600) ∧
      (∀ k : Fin 8, ((t.lane l).txSec[k]?).any (fun b => b.length == 88 && scrcOk b == decide (k ≠ i))) ∧
      t.rd (LANE_ERRCNT_TXQ_UNDER l) = min (s.rd (LANE_ERRCNT_TXQ_UNDER l) + 1) 255 ∧
      Within s t [wCELL, wENG, wFLT, wLANE, wLOOP, wLPWM, wMOD, wPROT, wPGEN, wSADL, wSYS]) ∧
  (∀ (l : Fin 24) (u : Option (Fin 8)), (s.txBlock l = false ∨ s.chainSt (s.txPathOf l).1 = 0) → Gives (.frameDepart l u) s fun t =>
      t = s) ∧
  (∀ (l : Fin 24) (i : Fin 8),
    s.txBlock l → s.chainSt (s.txPathOf l).1 ≠ 0 → s.profile = 2 → s.cellAt (s.txPathOf l).1 (s.txPathOf l).2 i = none → 
    Gives (.frameDepart l none) s fun t =>
      (t.lane l).txSec[i]? = some (emptySec false)) ∧
  (s.tbRuns → Gives .frameStart s fun t =>
      t.frames = max s.frame (s.frames + 1) ∧
      t.tb = max s.tb (max s.frame (s.frames + 1) * 1000 * 2 ^ 24) ∧
      (s.dev ≠ 5 → t.on (SAFE_HLD 0) = false) ∧
      Within s t [wAGE, wENG, wFLT, wLOOP, wLPWM, wNVC, wPGEN, wPROT, wSADL, wSAFE, wSYS]) ∧
  (s.tbRuns = false → Gives .frameStart s fun t =>
      t = s) ∧
  (∀ (l : Fin 24) (h : List (BitVec 8)) (r : List (Nat × BitVec 64)) (a : Nat),
    takePart 0 5 (s.lane l).rxq = (some h, r) → s.chainSt (s.chainOfLane l).1 ≠ 0 → hcrcOk h → s.topo (s.chainOfLane l).1 ≠ 2 → 
    fieldAt h 16 2 = s.rd SYS_DEV_ID_DEVID → Gives (.headerReceived l a) s fun t =>
      t.rd (CHAIN_MISS_P (s.chainOfLane l).1 (s.chainOfLane l).2) = 0 ∧
      (t.lane l).rxPath = some (s.chainOfLane l).2 ∧
      (t.lane l).rxOther = false ∧
      (t.lane l).rxq = r ∧
      (t.chain (s.chainOfLane l).1).hdrHops = fieldAt h 24 1 ∧
      t.tb = max s.tb (a * 2 ^ 20) ∧
      (∀ m : Fin 24, m ≠ l → t.lane m = s.lane m) ∧
      Within s t [wCHAIN, wCELL, wENG, wSYS, wLOOP, wPROT, wFLT, wLPWM, wPGEN, wSADL, wSAFE, wAGE, wNVC]) ∧
  (∀ (l : Fin 24) (h : List (BitVec 8)) (r : List (Nat × BitVec 64)) (a : Nat),
    takePart 0 5 (s.lane l).rxq = (some h, r) → s.chainSt (s.chainOfLane l).1 = 4 → s.topo (s.chainOfLane l).1 = 0 → 
    s.laneSt l = 4 → 0 < s.rd (CHAIN_CFG_LOSS_FR (s.chainOfLane l).1) → hcrcOk h → fieldAt h 16 2 = s.rd SYS_DEV_ID_DEVID → 
    Gives (.headerReceived l a) s fun t =>
      (t.chain (s.chainOfLane l).1).tr0 = (transitOf h a :: (s.chain (s.chainOfLane l).1).tr0).take 16 ∧
      t.rd (CHAIN_TRING_TRING (s.chainOfLane l).1) = satN 24 (meanN ((transitOf h a :: (s.chain (s.chainOfLane l).1).tr0).take 16)) ∧
      t.on (CHAIN_TRING_VALID (s.chainOfLane l).1) ∧
      t.chainSt (s.chainOfLane l).1 = 4 ∧
      t.fq = s.fq ∧
      Within s t [wCHAIN, wLOOP]) ∧
  (∀ (l : Fin 24) (h : List (BitVec 8)) (r : List (Nat × BitVec 64)) (a : Nat),
    takePart 0 5 (s.lane l).rxq = (some h, r) → s.chainSt (s.chainOfLane l).1 ≠ 0 → hcrcOk h → s.topo (s.chainOfLane l).1 = 2 → 
    fieldAt h 16 2 = s.rd SYS_DEV_ID_DEVID → Gives (.headerReceived l a) s fun t =>
      t.rd (CHAIN_MISS_P (s.chainOfLane l).1 (s.chainOfLane l).2) = 0 ∧
      (t.lane l).rxPath = some (1 - (s.chainOfLane l).2) ∧
      (t.chain (s.chainOfLane l).1).looped ∧
      (t.chain (s.chainOfLane l).1).loopAge = 0 ∧
      t.on SADL_STAT_LOOPED ∧
      (t.lane l).rxq = r ∧
      t.tb = max s.tb (a * 2 ^ 20) ∧
      Within s t [wCHAIN, wCELL, wENG, wSYS, wLOOP, wPROT, wFLT, wLPWM, wPGEN, wSADL, wSAFE, wAGE, wNVC]) ∧
  (∀ (l : Fin 24) (h : List (BitVec 8)) (r : List (Nat × BitVec 64)) (a : Nat),
    takePart 0 5 (s.lane l).rxq = (some h, r) → s.chainSt (s.chainOfLane l).1 ≠ 0 → hcrcOk h → s.topo (s.chainOfLane l).1 = 2 → 
    fieldAt h 16 2 ≠ s.rd SYS_DEV_ID_DEVID → fieldAt h 16 2 = s.rd (LANE_PARTNER_DEVID l) → Gives (.headerReceived l a) s fun t =>
      t.rd (CHAIN_MISS_P (s.chainOfLane l).1 (s.chainOfLane l).2) = 0 ∧
      (t.lane l).rxPath = some (s.chainOfLane l).2 ∧
      (t.chain (s.chainOfLane l).1).pmiss = 0 ∧
      (t.chain (s.chainOfLane l).1).pact = ((fieldAt h 23 1).testBit 1) ∧
      (t.lane l).rxq = r ∧
      Within s t [wCHAIN, wCELL, wENG, wSYS, wLOOP, wPROT, wFLT, wLPWM, wPGEN, wSADL, wSAFE, wAGE, wNVC]) ∧
  (∀ (l : Fin 24) (h : List (BitVec 8)) (r : List (Nat × BitVec 64)) (a : Nat),
    takePart 0 5 (s.lane l).rxq = (some h, r) → s.chainSt (s.chainOfLane l).1 ≠ 0 → 
    (hcrcOk h = false ∨ (fieldAt h 16 2 ≠ s.rd SYS_DEV_ID_DEVID ∧ (s.topo (s.chainOfLane l).1 ≠ 2 ∨ fieldAt h 16 2 ≠ s.rd (LANE_PARTNER_DEVID l)))) → 
    Gives (.headerReceived l a) s fun t =>
      t.rd (CHAIN_ERR_HDR_ERR (s.chainOfLane l).1) = min (s.rd (CHAIN_ERR_HDR_ERR (s.chainOfLane l).1) + 1) 65535 ∧
      (t.lane l).rxOther = hcrcOk h ∧
      (t.lane l).rxPath = none ∧
      (t.lane l).rxq = r ∧
      t.tb = max s.tb (a * 2 ^ 20) ∧
      t.fq = s.fq ∧
      Only s t [CHAIN_ERR (s.chainOfLane l).1, LOOP_FRAME_NUM]) ∧
  (∀ (l : Fin 24) (a : Nat),
    (s.chainSt (s.chainOfLane l).1 = 0 ∨ (takePart 0 5 (s.lane l).rxq).1 = none) → Gives (.headerReceived l a) s fun t =>
      (t.lane l).rxq = (takePart 0 5 (s.lane l).rxq).2 ∧
      t.tb = s.tb ∧
      t.fq = s.fq ∧
      Only s t []) ∧
  (∀ (l : Fin 24) (i : Fin 8) (b : List (BitVec 8)) (r : List (Nat × BitVec 64)) (n : Fin 24) (p : Nat) (c : Fin 192),
    takePart (5 + 11 * i) 11 (s.lane l).rxq = (some b, r) → s.chainSt n ≠ 0 → s.chainOfLane l = (n.val, p) → 
    (s.lane l).rxOther = false → (s.profile = 2 ∨ (s.profile = 1 ∧ i.val % 2 = 1)) → 
    (s.cellAt n ((s.lane l).rxPath.getD p) (if s.profile = 1 then i.val / 2 else i.val) = some c.val) → b.length = 88 → scrcOk b → 
    Gives (.reportSectionReceived l i) s fun t =>
      t.rd (CELLCTL_STAT_MODE_RPT c) = fieldAt b 0 1 % 8 ∧
      t.on (CELLCTL_STAT_TSYNC c) = (fieldAt b 0 1).testBit 3 ∧
      t.on (CELLCTL_STAT_TOKEN_OK c) = (fieldAt b 0 1).testBit 4 ∧
      t.rd (CELLCTL_RESID_P c ((s.lane l).rxPath.getD p)) = fieldAt b 2 2 ∧
      (t.lane l).rxq = r ∧
      Stores s t (s.cstFillA c) 96 ∧
      ((fieldAt b 0 1).testBit 5 → newer (sampleTime s.frame b) (s.cstE c).curT → newer (sampleTime s.frame b) (s.cstE c).fillT → t.bytes (s.cstFillA c) 88 = b ∧ (t.cstE c).fillT = some (sampleTime s.frame b)) ∧
      ((fieldAt b 0 1).testBit 5 = false → t.cstE c = s.cstE c) ∧
      RegsIn s t [wCHAIN, wCELL, wENG, wSYS, wLOOP, wPROT, wFLT, wLPWM, wMOD, wPGEN, wSADL]) ∧
  (∀ (l : Fin 24) (i : Fin 8) (b : List (BitVec 8)) (r : List (Nat × BitVec 64)) (n : Fin 24) (p : Nat) (c : Fin 192),
    takePart (5 + 11 * i) 11 (s.lane l).rxq = (some b, r) → s.chainSt n ≠ 0 → s.chainOfLane l = (n.val, p) → 
    (s.lane l).rxOther = false → (s.profile = 2 ∨ (s.profile = 1 ∧ i.val % 2 = 1)) → 
    (s.cellAt n ((s.lane l).rxPath.getD p) (if s.profile = 1 then i.val / 2 else i.val) = some c.val) → b.length = 88 → scrcOk b → 
    s.standby = false → (s.cell c).reopen = none → s.booksOn c → 
    0 < toInt 8 (subMod 8 (fieldAt b 1 1) (s.rd (CELLCTL_CREDIT_EXEC c))) → 
    toInt 8 (subMod 8 (fieldAt b 1 1) (s.rd (CELLCTL_CREDIT_EXEC c))) ≤ (subMod 8 (s.rd (CELLCTL_CREDIT_SENT c)) (s.rd (CELLCTL_CREDIT_EXEC c)) : Nat) → 
    Gives (.reportSectionReceived l i) s fun t =>
      t.rd (CELLCTL_CREDIT_EXEC c) = fieldAt b 1 1 ∧
      t.rd (CELLCTL_CREDIT_CR c) = (s.rd (CELLCTL_CREDIT_CR c) + subMod 8 (fieldAt b 1 1) (s.rd (CELLCTL_CREDIT_EXEC c))) % 32 ∧
      t.rd (CELLCTL_CREDIT_SENT c) = s.rd (CELLCTL_CREDIT_SENT c)) ∧
  (∀ (l : Fin 24) (i : Fin 8) (b : List (BitVec 8)) (r : List (Nat × BitVec 64)) (n : Fin 24) (p : Nat) (c : Fin 192),
    takePart (5 + 11 * i) 11 (s.lane l).rxq = (some b, r) → s.chainSt n ≠ 0 → s.chainOfLane l = (n.val, p) → 
    (s.lane l).rxOther = false → (s.profile = 2 ∨ (s.profile = 1 ∧ i.val % 2 = 1)) → 
    (s.cellAt n ((s.lane l).rxPath.getD p) (if s.profile = 1 then i.val / 2 else i.val) = some c.val) → 
    (b.length ≠ 88 ∨ scrcOk b = false) → Gives (.reportSectionReceived l i) s fun t =>
      t.rd (CHAIN_ERR_SEC_ERR n) = min (s.rd (CHAIN_ERR_SEC_ERR n) + 1) 65535 ∧
      (t.lane l).rxq = r ∧
      t.fq = s.fq ∧
      Only s t [CHAIN_ERR n]) ∧
  (∀ (l : Fin 24) (i : Fin 8),
    
    (s.chainSt (s.chainOfLane l).1 = 0 ∨ (s.lane l).rxOther ∨ (s.profile = 1 ∧ i.val % 2 = 0) ∨ (takePart (5 + 11 * i) 11 (s.lane l).rxq).1 = none ∨ s.cellAt (s.chainOfLane l).1 ((s.lane l).rxPath.getD (s.chainOfLane l).2) (if s.profile = 1 then i.val / 2 else i.val) = none) → 
    Gives (.reportSectionReceived l i) s fun t =>
      (t.lane l).rxq = (takePart (5 + 11 * i) 11 (s.lane l).rxq).2 ∧
      t.cells = s.cells ∧
      t.fq = s.fq ∧
      Only s t [])

/-! ### Modulation and local outputs (chapter 06) -/

/-- Enabling outside RUN makes every channel plan anew; ANCHOR moves the grid; COMMIT makes the shadow values of every channel of its groups
pending and clears DIRTY, but for those that PAIRCHK refuses, and does nothing without the timebase and its DLL; a plan instant plans the
next period of a channel whose cell is sent RUN, with its entries in the order of their times, only puts the captured values in force in
any other mode, and queues the edges of a local channel; a carrier zero shows the values in force; AUX.GO plans its entry or posts a late
one; the budgets follow the waveform and post when they are empty (06_modulation_and_pwm.md R147 to R163). -/
def Obligations.ModulatorCapture : Prop := ∀ s : State,
  (s.inRun = false → s.on MOD_CFG_EN = false → Gives .modEnable s fun t =>
      t.on MOD_CFG_EN ∧
      t.modA = (s.frame : Int) + toInt 32 (subMod 32 (s.reg MOD_ANCHOR) (s.reg LOOP_FRAME_NUM)) ∧
      (∀ n : Fin 784, (t.chan n).z = none ∧ (t.chan n).sync) ∧
      (∀ n : Fin 768, t.rd (MODCH_STAT_LEG n) = s.rd (MODCH_STAT_LEG n)) ∧
      t.fq = s.fq ∧
      Within s t [wMOD]) ∧
  (s.inRun → s.on MOD_CFG_EN = false → Gives .modEnable s fun t =>
      t.chans = s.chans ∧
      Posted s t srcMOD 0 0xF0 clsCONFIG 1 MOD_CFG ∧
      Only s t []) ∧
  (s.on MOD_CFG_EN → Gives .modEnable s fun t =>
      t = s) ∧
  (∀ (f : BitVec 32), s.inRun = false → s.reg MOD_ANCHOR ≠ f.toNat → Gives (.modAnchorWrite f) s fun t =>
      t.reg MOD_ANCHOR = f.toNat ∧
      t.modA = (s.frame : Int) + toInt 32 (subMod 32 f.toNat (s.reg LOOP_FRAME_NUM)) ∧
      t.fq = s.fq ∧
      Only s t [ MOD_ANCHOR]) ∧
  (∀ (f : BitVec 32), s.inRun → s.reg MOD_ANCHOR ≠ f.toNat → Gives (.modAnchorWrite f) s fun t =>
      Posted s t srcMOD 0 0xF0 clsCONFIG 1 MOD_ANCHOR ∧
      t.modA = s.modA ∧
      Only s t []) ∧
  (∀ (f : BitVec 32), s.reg MOD_ANCHOR = f.toNat → Gives (.modAnchorWrite f) s fun t =>
      t = s) ∧
  (∀ (m : BitVec 32) (n : Fin 784),
    s.modRuns → s.hasChan n → (n.val < 768 ∨ s.oddOfPair (n - 768) = false) → m.toNat.testBit (s.rd (chGroup n)) → 
    (∀ j : Fin 8, s.on (MOD_STR_CFG_AUTO j) = false) → s.pairRefused n = false → Gives (.modCommit m) s fun t =>
      (t.chan n).pend = some { mode := s.rd (chMode n), period := s.reg (chShadow n 0), onc := s.reg (chShadow n 1), offc := s.reg (chShadow n 2), phase := s.reg (chShadow n 3) % (s.reg (chShadow n 0) * 16) } ∧
      t.on (chPend n) ∧
      t.rd (chDirty n) = 0 ∧
      t.reg (chShadow n 0) = s.reg (chShadow n 0) ∧
      t.rd MOD_CNT_CAPTURES = min (s.rd MOD_CNT_CAPTURES + 1) 65535 ∧
      Within s t [wMOD, wLPWM, wTRC]) ∧
  (∀ (m : BitVec 32) (n : Fin 784),
    s.modRuns → s.hasChan n → (n.val < 768 ∨ s.oddOfPair (n - 768) = false) → m.toNat.testBit (s.rd (chGroup n)) → 
    (∀ j : Fin 8, s.on (MOD_STR_CFG_AUTO j) = false) → s.pairRefused n → Gives (.modCommit m) s fun t =>
      (t.chan n).pend = (s.chan n).pend ∧
      t.on (chPairRef n) ∧
      t.rd (chDirty n) = s.rd (chDirty n) ∧
      Within s t [wMOD, wLPWM, wTRC]) ∧
  (∀ (m : BitVec 32) (n : Fin 784),
    (m.toNat.testBit (s.rd (chGroup n)) = false ∨ (768 ≤ n.val ∧ s.oddOfPair (n - 768))) → 
    (∀ j : Fin 8, s.on (MOD_STR_CFG_AUTO j) = false) → Gives (.modCommit m) s fun t =>
      (t.chan n).pend = (s.chan n).pend ∧
      t.rd (chDirty n) = s.rd (chDirty n) ∧
      Within s t [wMOD, wLPWM, wTRC]) ∧
  (∀ (m : BitVec 32), s.modRuns = false → Gives (.modCommit m) s fun t =>
      t = s) ∧
  (∀ (n : Fin 784) (z : Nat),
    s.modRuns → s.on MOD_CFG_EN → n < 768 → s.hasChan n → s.rd (CELLCTL_STAT_MODE_SENT (n / 4)) = 4 → (s.chan n).z = some z → 
    (s.chan n).pend = none → (s.chan n).ext = [] → (s.chan n).anchor = s.modA → (s.plan (n / 4)).upto.length = 4 → 
    Gives (.planInstant n) s fun t =>
      (t.chan n).z = some (z + (s.chan n).cur.period * 16) ∧
      (t.chan n).cur = (s.chan n).cur ∧
      (t.chan n).sync = false ∧
      (t.chan n).taken = (s.chan n).taken ++ [(z, (s.chan n).cur, (shape (s.chan n).cur ((s.chan n).cur.period * 16) false).2.2)] ∧
      (t.plan (n / 4)).upto = (s.plan (n / 4)).upto.set (n % 4) (z + (s.chan n).cur.period * 16) ∧
      t.tb = max s.tb (s.planInstant n z * 2 ^ 20) ∧
      Within s t [wMOD, (LOOP_FRAME_NUM, 4)]) ∧
  (∀ (n : Fin 784) (z : Nat),
    s.modRuns → s.on MOD_CFG_EN → n < 768 → s.hasChan n → s.rd (CELLCTL_STAT_MODE_SENT (n / 4)) = 4 → (s.chan n).z = some z → 
    (s.chan n).pend = none → (s.chan n).ext = [] → (s.chan n).anchor = s.modA → (s.chan n).sync = false → (s.chan n).pst = 1 → 
    (s.plan (n / 4)).planned = [] → (s.plan (n / 4)).upto = [0, 0, 0, 0] → (s.chan n).cur.mode = 1 → 0 < (s.chan n).cur.onc → 
    (s.chan n).cur.onc < (s.chan n).cur.offc → (s.chan n).cur.offc < (s.chan n).cur.period * 16 → s.rd MOD_BOOT0_THRESH = 0 → 
    Gives (.planInstant n) s fun t =>
      (t.plan (n / 4)).planned = [{ t := z + (s.chan n).cur.onc, leg := n % 4, st := 2, fl := 0 }, { t := z + (s.chan n).cur.offc, leg := n % 4, st := 1, fl := 2 }] ∧
      (t.chan n).pst = 1 ∧
      t.rd (MODCH_STAT_LEG n) = 1 ∧
      (t.cell (n / 4)).sendq = (s.cell (n / 4)).sendq ∧
      Within s t [wMOD, (LOOP_FRAME_NUM, 4)]) ∧
  (∀ (n : Fin 784) (z : Nat) (p : Machine.PSet),
    s.modRuns → s.on MOD_CFG_EN → n < 768 → s.hasChan n → s.rd (CELLCTL_STAT_MODE_SENT (n / 4)) ≠ 4 → (s.chan n).z = some z → 
    (s.chan n).pend = some p → (s.chan n).ext = [] → (s.chan n).anchor = s.modA → p.period = (s.chan n).cur.period → 
    p.phase = (s.chan n).cur.phase → Gives (.planInstant n) s fun t =>
      (t.cell (n / 4)).sendq = (s.cell (n / 4)).sendq ∧
      (t.plan (n / 4)).planned = (s.plan (n / 4)).planned ∧
      (t.chan n).z = some (z + p.period * 16) ∧
      (t.chan n).cur = p ∧
      (t.chan n).pend = none ∧
      (t.chan n).pst = 3 ∧
      t.tb = max s.tb (s.planInstant n z * 2 ^ 20) ∧
      Within s t [wMOD, (LOOP_FRAME_NUM, 4)]) ∧
  (∀ (n : Fin 784) (z : Nat),
    s.modRuns → s.on MOD_CFG_EN → 768 ≤ n → s.oddOfPair (n - 768) = false → (s.chan n).cur.mode ≠ 0 → (s.chan n).z = some z → 
    (s.chan n).pend = none → (s.chan n).anchor = s.modA → Gives (.planInstant n) s fun t =>
      (t.chan n).z = some (z + (s.chan n).cur.period * 16) ∧
      (t.chan n).sync = false ∧
      t.tb = max s.tb (s.planInstant n z * 2 ^ 20) ∧
      ((s.lp (n - 768)).q ++ (s.lp (n - 768)).waiting <+: (t.lp (n - 768)).q ++ (t.lp (n - 768)).waiting ∨ (s.lp (n - 768)).waiting ≠ []) ∧
      t.fq = s.fq ∧
      Only s t [LOOP_FRAME_NUM]) ∧
  (∀ (n : Fin 784),
    (s.modRuns = false ∨ s.on MOD_CFG_EN = false ∨ s.hasChan n = false ∨ (768 ≤ n.val ∧ s.oddOfPair (n - 768))) → 
    Gives (.planInstant n) s fun t =>
      t = s) ∧
  (∀ (n : Fin 768) (z : Nat) (p : Machine.PSet) (f : Bool) (r : List (Nat × Machine.PSet × Bool)),
    s.modRuns → (s.chan n).taken = (z, p, f) :: r → Gives (.carrierZero ⟨n, by omega⟩) s fun t =>
      t.reg (chPERIOD n) = p.period % 2 ^ 32 ∧
      t.reg (chONC n) = p.onc % 2 ^ 32 ∧
      t.reg (chOFFC n) = p.offc % 2 ^ 32 ∧
      t.reg (chPHASE n) = p.phase % 2 ^ 32 ∧
      (t.chan n).taken = r ∧
      t.on (MODCH_STAT_FULL n) = f ∧
      t.tb = max s.tb (z * 2 ^ 20) ∧
      t.fq = s.fq ∧
      Within s t [wMOD, (LOOP_FRAME_NUM, 4)]) ∧
  (∀ (n : Fin 784) (z : Nat) (p : Machine.PSet) (f : Bool) (r : List (Nat × Machine.PSet × Bool)),
    s.modRuns → 768 ≤ n → (s.chan n).taken = (z, p, f) :: r → Gives (.carrierZero n) s fun t =>
      t.reg (chPERIOD n) = p.period % 2 ^ 32 ∧
      t.reg (chONC n) = p.onc % 2 ^ 32 ∧
      t.reg (chOFFC n) = p.offc % 2 ^ 32 ∧
      t.reg (chPHASE n) = p.phase % 2 ^ 32 ∧
      (t.chan n).taken = r ∧
      t.on (LPWM_STAT_ARM_PEND (n - 768)) = false ∧
      MemKept s t) ∧
  (∀ (n : Fin 768),
    s.modRuns → (s.chan n).taken = [] → s.hasChan n → (s.on MOD_CFG_EN = false ∨ (s.chan n).z = none) → 
    Gives (.carrierZero ⟨n, by omega⟩) s fun t =>
      t.tb = max s.tb (gridZero s.modA (s.chan n).cur s.t16 * 2 ^ 20) ∧
      t.rd (MODCH_NEXTZ_NS n) = (gridZero s.modA (s.chan n).cur s.t16 + (s.chan n).cur.period * 16) / 16 % 1000000000 ∧
      t.chans = s.chans ∧
      t.fq = s.fq ∧
      Within s t [wMOD, (LOOP_FRAME_NUM, 4)]) ∧
  (∀ (n : Fin 784),
    (s.modRuns = false ∨ ((s.chan n).taken = [] ∧ (s.hasChan n = false ∨ (s.on MOD_CFG_EN ∧ (s.chan n).z ≠ none)))) → 
    Gives (.carrierZero n) s fun t =>
      t = s) ∧
  (∀ (c : Fin 192) (k : Nat),
    s.modRuns → s.on MOD_AUX_PEND = false → s.rd MOD_AUX_CELL = c.val → 4 ≤ s.rd MOD_AUX_LEG → 
    (k : Int) = ((s.frame : Int) + toInt 32 (subMod 32 (s.reg MOD_AUX_F) (s.reg LOOP_FRAME_NUM))) → 
    s.t16 * 100 < departure (s.deadline c (k * 16000 + s.reg MOD_AUX_T)) → (s.plan c).planned = [] → 
    ((s.plan c).upto.all (fun u => decide (k * 16000 + s.reg MOD_AUX_T < u)) = false) → Gives .auxGo s fun t =>
      t.on MOD_AUX_PEND ∧
      t.aux = some c.val ∧
      (t.plan c).planned = [{ t := k * 16000 + s.reg MOD_AUX_T, leg := s.rd MOD_AUX_LEG, st := s.rd MOD_AUX_STATE }] ∧
      (t.cell c).sendq = (s.cell c).sendq ∧
      t.fq = s.fq ∧
      Within s t [wMOD]) ∧
  (s.modRuns → s.on MOD_AUX_PEND = false → ((s.frame : Int) + toInt 32 (subMod 32 (s.reg MOD_AUX_F) (s.reg LOOP_FRAME_NUM))) < 0 → 
    Gives .auxGo s fun t =>
      PostedAny s t srcMOD 0 6 clsPROGRAM 1 ∧
      t.aux = s.aux ∧
      Only s t []) ∧
  (∀ (k : Nat),
    s.modRuns → s.on MOD_AUX_PEND = false → 
    (k : Int) = ((s.frame : Int) + toInt 32 (subMod 32 (s.reg MOD_AUX_F) (s.reg LOOP_FRAME_NUM))) → 
    departure (s.deadline (s.rd MOD_AUX_CELL) (k * 16000 + s.reg MOD_AUX_T)) ≤ s.t16 * 100 → Gives .auxGo s fun t =>
      PostedAny s t srcMOD 0 6 clsPROGRAM 1 ∧
      t.aux = s.aux ∧
      Only s t []) ∧
  ((s.modRuns = false ∨ s.on MOD_AUX_PEND) → Gives .auxGo s fun t =>
      t = s) ∧
  (∀ (n : Fin 768), Gives (.budgetRestore n) s fun t =>
      t.chan n = ((s.chan n).advance s.t16 s.tref16 (s.rd MOD_BOOT0_BUDGET * 16000) (decide (2 ≤ n.val % 4))) ∧
      t.rd (MODCH_BUDGET_BUD_A n) = min ((t.chan n).budA / 16000) 65535 ∧
      (t.rd (MODCH_BUDGET_BUD_B n) = (if 2 ≤ n.val % 4 then min ((t.chan n).budB / 16000) 65535 else 0)) ∧
      t.fq = s.fq ∧
      Only s t [ MODCH_BUDGET n]) ∧
  (∀ (n : Fin 768),
    ((s.chan n).advance s.t16 s.tref16 (s.rd MOD_BOOT0_BUDGET * 16000) (decide (2 ≤ n.val % 4))).budA = 0 → 
    ((s.chan n).advance s.t16 s.tref16 (s.rd MOD_BOOT0_BUDGET * 16000) (decide (2 ≤ n.val % 4))).empA = false → 
    Gives (.budgetEmpty n false) s fun t =>
      (t.chan n).empA ∧
      Posted s t srcMOD 0 4 clsSTAGE 0 n ∧
      t.rd (MODCH_BUDGET_BUD_A n) = 0 ∧
      Only s t [ MODCH_BUDGET n]) ∧
  (∀ (n : Fin 768),
    ((s.chan n).advance s.t16 s.tref16 (s.rd MOD_BOOT0_BUDGET * 16000) (decide (2 ≤ n.val % 4))).budB = 0 → 
    ((s.chan n).advance s.t16 s.tref16 (s.rd MOD_BOOT0_BUDGET * 16000) (decide (2 ≤ n.val % 4))).empB = false → 2 ≤ n.val % 4 → 
    Gives (.budgetEmpty n true) s fun t =>
      (t.chan n).empB ∧
      Posted s t srcMOD 0 4 clsSTAGE 0 n ∧
      t.rd (MODCH_BUDGET_BUD_B n) = 0 ∧
      Only s t [ MODCH_BUDGET n]) ∧
  (∀ (n : Fin 768) (b : Bool),
    
    (if b then ((s.chan n).advance s.t16 s.tref16 (s.rd MOD_BOOT0_BUDGET * 16000) (decide (2 ≤ n.val % 4))).budB ≠ 0 ∨ ((s.chan n).advance s.t16 s.tref16 (s.rd MOD_BOOT0_BUDGET * 16000) (decide (2 ≤ n.val % 4))).empB else ((s.chan n).advance s.t16 s.tref16 (s.rd MOD_BOOT0_BUDGET * 16000) (decide (2 ≤ n.val % 4))).budA ≠ 0 ∨ ((s.chan n).advance s.t16 s.tref16 (s.rd MOD_BOOT0_BUDGET * 16000) (decide (2 ≤ n.val % 4))).empA) → 
    Gives (.budgetEmpty n b) s fun t =>
      t.chan n = ((s.chan n).advance s.t16 s.tref16 (s.rd MOD_BOOT0_BUDGET * 16000) (decide (2 ≤ n.val % 4))) ∧
      t.fq = s.fq ∧
      Only s t [ MODCH_BUDGET n])

/-- The head of a local edge queue sets the waveform and counts when late; an active trip input latches the trip, turns both outputs off and
is recorded, with AUTO set as the start of a retry wait or as an exhausted one; a re-arm is accepted only with the input inactive and its
owner running, else CLEAR_REFUSED; a dead time that has passed turns its output on; the end of a retry wait re-arms a channel still
tripped, charges one try and starts a new wait when refused, and is held while the policy engine does not run; a debug halt puts the task
group of the engine at its safe mode, and a resume restores the state of the engine alone (06_modulation_and_pwm.md R170 to R176). -/
def Obligations.LocalOutputs : Prop := ∀ s : State,
  (∀ (m : Fin 16) (k v : Nat) (l : Bool) (r : List (Nat × Nat × Bool)),
    s.modRuns → (s.lp m).q = (k, v, l) :: r → (s.lp m).waiting = [] → (v ≠ 2 ∨ (s.lp m).wst = 2) → Gives (.lpwmEdge m) s fun t =>
      (t.lp m).wst = v ∧
      (t.lp m).q = r ∧
      t.tb = max s.tb (k * 2 ^ 20) ∧
      (l → t.rd (LPWM_CNT_LATE m) = min (s.rd (LPWM_CNT_LATE m) + 1) 65535 ∧ PostedAny s t srcMOD 0 7 clsTIMING 1) ∧
      (l = false → t.reg (LPWM_CNT m) = s.reg (LPWM_CNT m) ∧ t.fq = s.fq) ∧
      (s.lpBlocked m ∨ s.oddOfPair m → (t.lp m).onA = (s.lp m).onA ∧ (t.lp m).onB = (s.lp m).onB) ∧
      (s.lpBlocked m = false → s.oddOfPair m = false → s.on (LPWM_CTL_PAIR m) = false → (t.lp m).onA = decide (v = 2)) ∧
      Within s t [wLPWM, (LOOP_FRAME_NUM, 4)]) ∧
  (∀ (m : Fin 16) (k v : Nat) (l : Bool) (r : List (Nat × Nat × Bool)),
    s.modRuns → (s.lp m).q = (k, v, l) :: r → (s.lp m).waiting = [] → v = 2 → (s.lp m).wst ≠ 2 → Gives (.lpwmEdge m) s fun t =>
      (t.lp m).wst = v ∧
      (t.lp m).q = r ∧
      t.tb = max s.tb (k * 2 ^ 20) ∧
      (l → t.rd (LPWM_CNT_LATE m) = min (s.rd (LPWM_CNT_LATE m) + 1) 65535 ∧ PostedAny s t srcMOD 0 7 clsTIMING 1) ∧
      (l = false → t.reg (LPWM_CNT m) = s.reg (LPWM_CNT m) ∧ t.fq = s.fq) ∧
      (s.lpBlocked m ∨ s.oddOfPair m → (t.lp m).onA = (s.lp m).onA ∧ (t.lp m).onB = (s.lp m).onB) ∧
      (s.lpBlocked m = false → s.oddOfPair m = false → s.on (LPWM_CTL_PAIR m) = false → (t.lp m).onA = decide (v = 2)) ∧
      MemKept s t) ∧
  (∀ (m : Fin 16), (s.modRuns = false ∨ (s.lp m).q = []) → Gives (.lpwmEdge m) s fun t =>
      t = s) ∧
  (∀ (m : Fin 16),
    s.on (LPWM_CTL_TRIP_EN m) → s.on (LPWM_STAT_TRIP_IN m) → s.on (LPWM_STAT_TRIPPED m) = false → s.oddOfPair m = false → 
    s.on (PROT_LREC_CFG_AUTO m) = false → Gives (.lpwmTrip m) s fun t =>
      t.on (LPWM_STAT_TRIPPED m) ∧
      (t.lp m).onA = false ∧
      (t.lp m).onB = false ∧
      t.rd (LPWM_CNT_TRIPS m) = min (s.rd (LPWM_CNT_TRIPS m) + 1) 65535 ∧
      t.rd (PROT_LREC_ST_TRIPS m) = min (s.rd (PROT_LREC_ST_TRIPS m) + 1) 65535 ∧
      t.reg (PROT_LREC_T_TRIP m) = s.stampNs % 2 ^ 32 ∧
      t.on (PROT_LREC_ST_EXHAUST m) = s.on (PROT_LREC_ST_EXHAUST m) ∧
      t.on (PROT_LREC_ST_WAIT m) = s.on (PROT_LREC_ST_WAIT m) ∧
      Within s t [wLPWM, wPROT, wENG]) ∧
  (∀ (m : Fin 16),
    s.on (LPWM_CTL_TRIP_EN m) → s.on (LPWM_STAT_TRIP_IN m) → s.on (LPWM_STAT_TRIPPED m) = false → s.oddOfPair m = false → 
    s.on (PROT_LREC_CFG_AUTO m) → 
    (s.prot.lwin.any (fun w => w.1 == m.val && decide (s.ns - w.2 < s.rd PROT_RETRY_WIN_WIN * 1000000000)) = false) → 
    0 < s.rd PROT_CFG_TRIES → Gives (.lpwmTrip m) s fun t =>
      t.on (LPWM_STAT_TRIPPED m) ∧
      (t.lp m).onA = false ∧
      (t.lp m).onB = false ∧
      t.rd (LPWM_CNT_TRIPS m) = min (s.rd (LPWM_CNT_TRIPS m) + 1) 65535 ∧
      t.rd (PROT_LREC_ST_TRIPS m) = min (s.rd (PROT_LREC_ST_TRIPS m) + 1) 65535 ∧
      t.reg (PROT_LREC_T_TRIP m) = s.stampNs % 2 ^ 32 ∧
      t.rd (PROT_LREC_ST_TRIES m) = 0 ∧
      t.reg (PROT_LREC_T_WIN m) = s.tbSec % 2 ^ 32 ∧
      (s.on (PROT_LREC_ST_EXHAUST m) = false → t.on (PROT_LREC_ST_WAIT m)) ∧
      t.on (PROT_LREC_ST_EXHAUST m) = s.on (PROT_LREC_ST_EXHAUST m) ∧
      Within s t [wLPWM, wPROT, wENG]) ∧
  (∀ (m : Fin 16),
    s.on (LPWM_CTL_TRIP_EN m) → s.on (LPWM_STAT_TRIP_IN m) → s.on (LPWM_STAT_TRIPPED m) = false → s.oddOfPair m = false → 
    s.on (PROT_LREC_CFG_AUTO m) → 
    (s.prot.lwin.any (fun w => w.1 == m.val && decide (s.ns - w.2 < s.rd PROT_RETRY_WIN_WIN * 1000000000))) → 
    s.rd PROT_CFG_TRIES ≤ s.rd (PROT_LREC_ST_TRIES m) → Gives (.lpwmTrip m) s fun t =>
      t.on (LPWM_STAT_TRIPPED m) ∧
      (t.lp m).onA = false ∧
      (t.lp m).onB = false ∧
      t.rd (LPWM_CNT_TRIPS m) = min (s.rd (LPWM_CNT_TRIPS m) + 1) 65535 ∧
      t.rd (PROT_LREC_ST_TRIPS m) = min (s.rd (PROT_LREC_ST_TRIPS m) + 1) 65535 ∧
      t.reg (PROT_LREC_T_TRIP m) = s.stampNs % 2 ^ 32 ∧
      t.rd (PROT_LREC_ST_TRIES m) = s.rd (PROT_LREC_ST_TRIES m) ∧
      t.on (PROT_LREC_ST_EXHAUST m) ∧
      t.on (PROT_LREC_ST_WAIT m) = false ∧
      Within s t [wLPWM, wPROT, wENG]) ∧
  (∀ (m : Fin 16),
    (s.on (LPWM_CTL_TRIP_EN m) = false ∨ s.on (LPWM_STAT_TRIP_IN m) = false ∨ s.on (LPWM_STAT_TRIPPED m) ∨ s.oddOfPair m) → 
    Gives (.lpwmTrip m) s fun t =>
      t = s) ∧
  (∀ (m : Fin 16),
    s.oddOfPair m = false → (s.on (LPWM_STAT_TRIPPED m) ∨ s.on (LPWM_STAT_HALTED m) ∨ (s.lp m).pbOff) → 
    s.on (LPWM_STAT_TRIP_IN m) = false → (s.on (LPWM_CTL_OWN_EN m) = false ∨ s.engRuns (s.rd (LPWM_CTL_OWNER m))) → 
    Gives (.lpwmRearm m) s fun t =>
      t.on (LPWM_STAT_TRIPPED m) = false ∧
      t.on (LPWM_STAT_HALTED m) = false ∧
      t.on (LPWM_STAT_ARM_PEND m) ∧
      (t.lp m).onA = (s.lp m).onA ∧
      t.fq = s.fq ∧
      Only s t [LPWM_STAT m]) ∧
  (∀ (m : Fin 16),
    s.oddOfPair m = false → (s.on (LPWM_STAT_TRIPPED m) ∨ s.on (LPWM_STAT_HALTED m) ∨ (s.lp m).pbOff) → 
    (s.on (LPWM_STAT_TRIP_IN m) ∨ (s.on (LPWM_CTL_OWN_EN m) ∧ s.engRuns (s.rd (LPWM_CTL_OWNER m)) = false)) → 
    Gives (.lpwmRearm m) s fun t =>
      t.on (LPWM_STAT_CLEAR_REFUSED m) ∧
      t.on (LPWM_STAT_TRIPPED m) = s.on (LPWM_STAT_TRIPPED m) ∧
      t.on (LPWM_STAT_HALTED m) = s.on (LPWM_STAT_HALTED m) ∧
      t.on (LPWM_STAT_ARM_PEND m) = s.on (LPWM_STAT_ARM_PEND m) ∧
      t.lp m = s.lp m ∧
      t.fq = s.fq ∧
      Only s t [LPWM_STAT m]) ∧
  (∀ (m : Fin 16),
    (s.oddOfPair m ∨ (s.on (LPWM_STAT_TRIPPED m) = false ∧ s.on (LPWM_STAT_HALTED m) = false ∧ (s.lp m).pbOff = false)) → 
    Gives (.lpwmRearm m) s fun t =>
      t = s) ∧
  (∀ (m : Fin 16), s.modRuns → s.lpBlocked m = false → (s.lp m).want = 1 → Gives (.lpwmDeadtimeTurnOn m) s fun t =>
      (t.lp m).onA ∧
      t.tb = max s.tb (((s.lp m).offB + s.rd (LPWM_DT_RISE m) * 4) * 2 ^ 20) ∧
      (t.lp m).want = 0 ∧
      (t.lp m).onB = (s.lp m).onB ∧
      t.fq = s.fq ∧
      Within s t [wLPWM, (LOOP_FRAME_NUM, 4)]) ∧
  (∀ (m : Fin 16), s.modRuns → s.lpBlocked m = false → (s.lp m).want = 2 → Gives (.lpwmDeadtimeTurnOn m) s fun t =>
      (t.lp m).onB ∧
      t.tb = max s.tb (((s.lp m).offA + s.rd (LPWM_DT_FALL m) * 4) * 2 ^ 20) ∧
      (t.lp m).want = 0 ∧
      (t.lp m).onA = (s.lp m).onA ∧
      t.fq = s.fq ∧
      Within s t [wLPWM, (LOOP_FRAME_NUM, 4)]) ∧
  (∀ (m : Fin 16),
    (s.modRuns = false ∨ s.lpBlocked m ∨ ((s.lp m).want ≠ 1 ∧ (s.lp m).want ≠ 2)) → Gives (.lpwmDeadtimeTurnOn m) s fun t =>
      t = s) ∧
  (∀ (m : Fin 16),
    s.on (PROT_LREC_ST_WAIT m) → s.on (PROT_LREC_CFG_AUTO m) → s.on (PROT_LREC_ST_EXHAUST m) = false → s.protOk → 
    s.on (LPWM_STAT_TRIPPED m) → Gives (.lpwmRetryWaitEnd m) s fun t =>
      t.rd (PROT_LREC_ST_TRIES m) = min (s.rd (PROT_LREC_ST_TRIES m) + 1) 7 ∧
      t.on (PROT_LREC_ST_WAIT m) = !(s.lpRearm m).1 ∧
      ((s.lpRearm m).1 → t.on (LPWM_STAT_ARM_PEND m) ∧ t.on (LPWM_STAT_TRIPPED m) = false) ∧
      ((s.lpRearm m).1 = false → t.on (LPWM_STAT_TRIPPED m)) ∧
      t.fq = s.fq ∧
      Only s t [LPWM_STAT m, PROT_LREC_ST m]) ∧
  (∀ (m : Fin 16),
    s.on (PROT_LREC_ST_WAIT m) → s.on (PROT_LREC_CFG_AUTO m) → s.on (PROT_LREC_ST_EXHAUST m) = false → s.protOk → 
    s.on (LPWM_STAT_TRIPPED m) = false → Gives (.lpwmRetryWaitEnd m) s fun t =>
      t.on (PROT_LREC_ST_WAIT m) = false ∧
      t.rd (PROT_LREC_ST_TRIES m) = s.rd (PROT_LREC_ST_TRIES m) ∧
      t.fq = s.fq ∧
      Only s t [PROT_LREC_ST m]) ∧
  (∀ (m : Fin 16),
    s.on (PROT_LREC_ST_WAIT m) → s.on (PROT_LREC_CFG_AUTO m) → s.on (PROT_LREC_ST_EXHAUST m) = false → s.protOk = false → 
    m.val ∉ s.prot.lheld → Gives (.lpwmRetryWaitEnd m) s fun t =>
      t.prot.lheld = s.prot.lheld ++ [m.val] ∧
      t.rd (PROT_LREC_ST_TRIES m) = s.rd (PROT_LREC_ST_TRIES m) ∧
      t.on (PROT_LREC_ST_WAIT m) ∧
      Within s t [wPROT, wENG]) ∧
  (∀ (m : Fin 16),
    (s.on (PROT_LREC_ST_WAIT m) = false ∨ s.on (PROT_LREC_CFG_AUTO m) = false ∨ s.on (PROT_LREC_ST_EXHAUST m)) → 
    Gives (.lpwmRetryWaitEnd m) s fun t =>
      t = s) ∧
  (∀ (e : Fin 16),
    (s.rd (ENG_STAT_STATE e) = 1 ∨ s.rd (ENG_STAT_STATE e) = 2 ∨ s.rd (ENG_STAT_STATE e) = 5) → Gives (.debugHalt e) s fun t =>
      t.rd (ENG_STAT_STATE e) = 3 ∧
      t.bitAt MOD_HALT_ENG e ∧
      (t.eng e).was = s.rd (ENG_STAT_STATE e) ∧
      (t.core e).fly = [] ∧
      ((s.core e).after = 0 → Posted s t srcMOD 0 3 clsPROGRAM 2 e) ∧
      (∀ m : Fin 16, s.owns e (768 + m) → s.oddOfPair m = false → t.on (LPWM_STAT_HALTED m) ∧ (t.lp m).onA = false) ∧
      (∀ m : Fin 16, s.owns e (768 + m) = false → t.on (LPWM_STAT_HALTED m) = s.on (LPWM_STAT_HALTED m)) ∧
      (∀ c : Fin 192, s.hasChan (4 * c) → s.owns e (4 * c) → t.rd (CELLCTL_CFG_MODE_REQ c) = 1 + s.rd (CELLCTL_CFG_LOSS_MODE c)) ∧
      RegsIn s t [wCELL, wENG, wFLT, wLOOP, wLPWM, wMOD, wPGEN, wSADL, wSYS] ∧
      LocalOnly s t) ∧
  (∀ (e : Fin 16),
    s.rd (ENG_STAT_STATE e) ≠ 1 → s.rd (ENG_STAT_STATE e) ≠ 2 → s.rd (ENG_STAT_STATE e) ≠ 5 → Gives (.debugHalt e) s fun t =>
      t = s) ∧
  (∀ (e : Fin 16), s.rd (ENG_STAT_STATE e) = 3 → (s.eng e).was < 8 → Gives (.debugResume e) s fun t =>
      t.rd (ENG_STAT_STATE e) = (s.eng e).was ∧
      t.fq = s.fq ∧
      Only s t [ENG_STAT e]) ∧
  (∀ (e : Fin 16), s.rd (ENG_STAT_STATE e) ≠ 3 → Gives (.debugResume e) s fun t =>
      t = s)

/-! ### Protection (chapter 09) -/

/-- A report that shows a trip not yet latched sets LATCHED with its kind, counts it, is named in the next re-arm and starts the wait, or
locks the cell out once its tries are used up; a wait that ends queues the re-arm, held and posted once while the policy engine does not
run; UNLOCK of a cell in a safe mode clears LOCKOUT and its tries, of any other is refused; a push queues the dirty registers; a test
interval starts a test of the next switch that can be tested, its timeout aborts it; EVQ gives its oldest event; the dump output ends with
its one-shot (09_power_stage_protection.md R255 to R273). -/
def Obligations.ProtectionRecords : Prop := ∀ s : State,
  (∀ (l : Fin 24) (i : Fin 8) (b : List (BitVec 8)) (r : List (Nat × BitVec 64)) (n : Fin 24) (p : Nat) (c : Fin 192) (k : Fin 12),
    takePart (5 + 11 * i) 11 (s.lane l).rxq = (some b, r) → s.chainSt n ≠ 0 → s.chainOfLane l = (n.val, p) → 
    (s.lane l).rxOther = false → (s.profile = 2 ∨ (s.profile = 1 ∧ i.val % 2 = 1)) → 
    (s.cellAt n ((s.lane l).rxPath.getD p) (if s.profile = 1 then i.val / 2 else i.val) = some c.val) → b.length = 88 → scrcOk b → 
    s.rstate c ≠ 2 → (fieldAt b 52 2 % 4096).testBit k → s.on (PROT_SREC_ST_LATCHED (12 * c + k)) = false → 
    Gives (.reportSectionReceived l i) s fun t =>
      t.on (PROT_SREC_ST_LATCHED (12 * c + k)) ∧
      t.rd (PROT_SREC_ST_TRIPS (12 * c + k)) = min (s.rd (PROT_SREC_ST_TRIPS (12 * c + k)) + 1) 65535 ∧
      t.reg (PROT_SREC_T_TRIP (12 * c + k)) = s.stampNs % 2 ^ 32 ∧
      t.rd (PROT_SREC_ST_KIND (12 * c + k)) = 0 ∧
      t.bitAt (PROT_PARC_RPEND_DESAT c) k ∧
      RegsIn s t [wCHAIN, wCELL, wENG, wSYS, wLOOP, wPROT, wFLT, wLPWM, wMOD, wPGEN, wSADL]) ∧
  (∀ (l : Fin 24) (i : Fin 8) (b : List (BitVec 8)) (r : List (Nat × BitVec 64)) (n : Fin 24) (p : Nat) (c : Fin 192) (k : Fin 12),
    takePart (5 + 11 * i) 11 (s.lane l).rxq = (some b, r) → s.chainSt n ≠ 0 → s.chainOfLane l = (n.val, p) → 
    (s.lane l).rxOther = false → (s.profile = 2 ∨ (s.profile = 1 ∧ i.val % 2 = 1)) → 
    (s.cellAt n ((s.lane l).rxPath.getD p) (if s.profile = 1 then i.val / 2 else i.val) = some c.val) → b.length = 88 → scrcOk b → 
    s.rstate c ≠ 2 → (fieldAt b 50 2 % 4096).testBit k → (fieldAt b 52 2 % 4096).testBit k = false → 
    s.on (PROT_SREC_ST_LATCHED (12 * c + k)) = false → Gives (.reportSectionReceived l i) s fun t =>
      t.on (PROT_SREC_ST_LATCHED (12 * c + k)) ∧
      t.rd (PROT_SREC_ST_TRIPS (12 * c + k)) = min (s.rd (PROT_SREC_ST_TRIPS (12 * c + k)) + 1) 65535 ∧
      t.reg (PROT_SREC_T_TRIP (12 * c + k)) = s.stampNs % 2 ^ 32 ∧
      t.rd (PROT_SREC_ST_KIND (12 * c + k)) = 1 ∧
      t.bitAt (PROT_PARC_RPEND_BSUV c) k ∧
      RegsIn s t [wCHAIN, wCELL, wENG, wSYS, wLOOP, wPROT, wFLT, wLPWM, wMOD, wPGEN, wSADL]) ∧
  (∀ (l : Fin 24) (i : Fin 8) (b : List (BitVec 8)) (r : List (Nat × BitVec 64)) (n : Fin 24) (p : Nat) (c : Fin 192) (k : Fin 12),
    takePart (5 + 11 * i) 11 (s.lane l).rxq = (some b, r) → s.chainSt n ≠ 0 → s.chainOfLane l = (n.val, p) → 
    (s.lane l).rxOther = false → (s.profile = 2 ∨ (s.profile = 1 ∧ i.val % 2 = 1)) → 
    (s.cellAt n ((s.lane l).rxPath.getD p) (if s.profile = 1 then i.val / 2 else i.val) = some c.val) → b.length = 88 → scrcOk b → 
    s.rstate c ≠ 2 → 
    (s.on (PROT_SREC_ST_LATCHED (12 * c + k)) ∨ ((fieldAt b 52 2 % 4096).testBit k = false ∧ (fieldAt b 50 2 % 4096).testBit k = false)) → 
    (s.pc c).newGen = false → fieldAt b 6 1 % 8 = 0 → Gives (.reportSectionReceived l i) s fun t =>
      t.on (PROT_SREC_ST_LATCHED (12 * c + k)) = s.on (PROT_SREC_ST_LATCHED (12 * c + k)) ∧
      t.rd (PROT_SREC_ST_TRIPS (12 * c + k)) = s.rd (PROT_SREC_ST_TRIPS (12 * c + k))) ∧
  (∀ (c : Fin 192), s.rstate c = 1 → (s.pc c).due = false → (s.policyRuns ∨ s.prot.heldPosted) → Gives (.retryWaitEnd c) s fun t =>
      ((t.cell c).mbq = rearmW false :: (s.cell c).mbq.filter (fun w => w.tag != 0xF1)) ∧
      (t.pc c).due ∧
      t.rd (PROT_PARC_RSTAT_WAIT_LEFT c) = 0 ∧
      s.rstate c = t.rstate c ∧
      t.fq = s.fq ∧
      Only s t [PROT_PARC_RSTAT c]) ∧
  (∀ (c : Fin 192),
    s.rstate c = 1 → (s.pc c).due = false → s.policyRuns = false → s.prot.heldPosted = false → s.prot.evq.length < 16 → 
    Gives (.retryWaitEnd c) s fun t =>
      ((t.cell c).mbq = rearmW false :: (s.cell c).mbq.filter (fun w => w.tag != 0xF1)) ∧
      (t.pc c).due ∧
      t.prot.heldPosted ∧
      t.prot.heldLocal = false ∧
      Posted s t srcPROT 0 0xA clsSTAGE 1 (16 * c + 15) ∧
      t.prot.evq.length = s.prot.evq.length + 1 ∧
      t.rd PROT_EVQ_STAT_OCC = s.prot.evq.length + 1 ∧
      Within s t [wPROT, wENG]) ∧
  (∀ (c : Fin 192), (s.rstate c ≠ 1 ∨ (s.pc c).due) → Gives (.retryWaitEnd c) s fun t =>
      t = s) ∧
  (∀ (c : Fin 192),
    (s.rd (CELLCTL_STAT_MODE_RPT c) = 1 ∨ s.rd (CELLCTL_STAT_MODE_RPT c) = 2) → s.reg (PROT_PARC_RPEND c) = 0 → 
    Gives (.protUnlock c) s fun t =>
      t.on (CELLCTL_STAT_LOCKOUT c) = false ∧
      (∀ k : Fin 12, t.rd (PROT_SREC_ST_TRIES (12 * c + k)) = 0 ∧ t.on (PROT_SREC_ST_LATCHED (12 * c + k)) = s.on (PROT_SREC_ST_LATCHED (12 * c + k))) ∧
      (t.pc c).win = [] ∧
      t.rd PROT_UNLOCK_CELL = c.val ∧
      (s.rstate c = 3 → t.rd PROT_STAT_LOCKED = s.rd PROT_STAT_LOCKED - 1) ∧
      t.rstate c = 0 ∧
      (t.pc c).due = false ∧
      t.fq = s.fq ∧
      Within s t [wPROT, wCELL]) ∧
  (∀ (c : Fin 192),
    (s.rd (CELLCTL_STAT_MODE_RPT c) = 1 ∨ s.rd (CELLCTL_STAT_MODE_RPT c) = 2) → s.reg (PROT_PARC_RPEND c) ≠ 0 → 
    Gives (.protUnlock c) s fun t =>
      t.on (CELLCTL_STAT_LOCKOUT c) = false ∧
      (∀ k : Fin 12, t.rd (PROT_SREC_ST_TRIES (12 * c + k)) = 0 ∧ t.on (PROT_SREC_ST_LATCHED (12 * c + k)) = s.on (PROT_SREC_ST_LATCHED (12 * c + k))) ∧
      (t.pc c).win = [] ∧
      t.rd PROT_UNLOCK_CELL = c.val ∧
      (s.rstate c = 3 → t.rd PROT_STAT_LOCKED = s.rd PROT_STAT_LOCKED - 1) ∧
      t.rstate c = 1 ∧
      (t.pc c).due ∧
      (t.cell c).mbq.head? = some (rearmW true) ∧
      Within s t [wPROT, wCELL, wENG]) ∧
  (∀ (c : Fin 192), s.rd (CELLCTL_STAT_MODE_RPT c) ≠ 1 → s.rd (CELLCTL_STAT_MODE_RPT c) ≠ 2 → Gives (.protUnlock c) s fun t =>
      Posted s t srcPROT 0 0xF1 clsCONFIG 1 PROT_UNLOCK ∧
      t.cells = s.cells ∧
      Only s t []) ∧
  (∀ (c : Fin 192), (s.policyRuns ∨ s.prot.heldPosted) → Gives (.paramPush c) s fun t =>
      (∀ k : Fin 17, s.bitAt (PROT_PARC_PSTAT_DIRTY c) k → (k.val ≠ 16 ∨ s.on (PROT_PARC_PCTL_OV_EN c)) → (t.cell c).mbq.any (fun w => w.tag == 0xF0 && w.addr == imageEp k && w.lead == !s.on (PROT_PARC_PCTL_USE_F c))) ∧
      ((t.cell c).mbq.filter (fun w => w.tag != 0xF0) = (s.cell c).mbq.filter (fun w => w.tag != 0xF0)) ∧
      t.rd (PROT_PARC_PSTAT_DIRTY c) = s.rd (PROT_PARC_PSTAT_DIRTY c) ∧
      (t.on (PROT_PARC_PSTAT_SYNC c) → t.rd (PROT_PARC_PSTAT_DIRTY c) = 0 ∧ t.on (PROT_PARC_PSTAT_MISMATCH c) = false) ∧
      t.fq = s.fq ∧
      Only s t [PROT_PARC_PSTAT c]) ∧
  (∀ (c : Fin 192), s.policyRuns = false → s.prot.heldPosted = false → Gives (.paramPush c) s fun t =>
      t.rd (PROT_PARC_PSTAT_DIRTY c) = s.rd (PROT_PARC_PSTAT_DIRTY c) ∧
      (Posted s t srcPROT 0 0xA clsSTAGE 1 (16 * c + 15) ∨ 16 ≤ s.prot.evq.length) ∧
      Within s t [wPROT, wENG]) ∧
  (∀ (e : BitVec 32) (r : List (BitVec 32)), s.prot.evq = e :: r → r.length < 32 → Gives .evqRead s fun t =>
      t.prot.evq = r ∧
      t.rd PROT_EVQ_STAT_OCC = r.length ∧
      t.rd PROT_EVQ_STAT_LOST = s.rd PROT_EVQ_STAT_LOST ∧
      t.fq = s.fq ∧
      Only s t [PROT_EVQ_STAT]) ∧
  (s.prot.evq = [] → Gives .evqRead s fun t =>
      t = s) ∧
  (∀ (c : Fin 192) (k : Fin 12),
    s.on PROT_LEAK_CFG_EN → s.on PROT_LEAK_STAT_BUSY = false → s.leakIdx = 12 * c + k → s.leakElig (12 * c + k) → 
    (s.policyRuns ∨ s.prot.heldPosted) → Gives .leakInterval s fun t =>
      t.on PROT_LEAK_STAT_BUSY ∧
      t.rd PROT_LEAK_STAT_CELL = c.val ∧
      t.rd PROT_LEAK_STAT_SWITCH = k.val ∧
      t.prot.leakAck = false ∧
      (t.cell c).mbq = (s.cell c).mbq ++ [{ tag := 0xF2, addr := 0x90, data := k + 256 + s.rd PROT_LEAK_CFG_DUR * 65536, apply := 0, lead := true }] ∧
      t.fq = s.fq ∧
      Only s t [PROT_LEAK_STAT]) ∧
  (s.on PROT_LEAK_CFG_EN → s.on PROT_LEAK_STAT_BUSY = false → s.policyRuns = false → s.prot.heldPosted = false → 
    Gives .leakInterval s fun t =>
      (t.on PROT_LEAK_STAT_BUSY = false → t = s) ∧
      (t.on PROT_LEAK_STAT_BUSY → s.leakElig t.leakIdx) ∧
      Within s t [wPROT, wENG]) ∧
  ((s.on PROT_LEAK_CFG_EN = false ∨ s.on PROT_LEAK_STAT_BUSY) → Gives .leakInterval s fun t =>
      t = s) ∧
  (s.on PROT_LEAK_STAT_BUSY → Gives .leakTimeout s fun t =>
      t.on PROT_LEAK_STAT_BUSY = false ∧
      t.rd PROT_LEAK_STAT_ABORTS = min (s.rd PROT_LEAK_STAT_ABORTS + 1) 65535 ∧
      t.leakIdx = s.leakIdx ∧
      t.fq = s.fq ∧
      Only s t [PROT_LEAK_STAT]) ∧
  (s.on PROT_LEAK_STAT_BUSY = false → Gives .leakTimeout s fun t =>
      t = s) ∧
  (s.on PROT_DUMP_STAT_IN = false → Gives .dumpOneshotEnd s fun t =>
      t.on PROT_DUMP_STAT_ACTIVE = false ∧
      t.prot.shot = false ∧
      t.rd PROT_DUMP_STAT_COUNT = s.rd PROT_DUMP_STAT_COUNT ∧
      t.fq = s.fq ∧
      Only s t [PROT_DUMP_STAT]) ∧
  (s.on PROT_DUMP_STAT_IN → Gives .dumpOneshotEnd s fun t =>
      t.on PROT_DUMP_STAT_ACTIVE = s.on PROT_DUMP_STAT_ACTIVE ∧
      t.prot.shot = false ∧
      t.fq = s.fq ∧
      Only s t [])

/-! ### Engines (chapter 07) -/

/-- Enabling an engine that is OFF starts its program CRC, after which a Lupin engine is IDLE and an Aster engine runs from the base of its
program memory; a program word is written only while the engine is OFF with no CRC running, else posted; disabling takes it to OFF, after
a running task; RESTART leaves FAULTED; a self-test runs only from IDLE with no slot enabled, clears the registers, and ends IDLE or
FAULTED (07_lupin_engines.md R183 to R212). -/
def Obligations.EngineControl : Prop := ∀ s : State,
  (∀ (n : Fin 20), s.on (ENG_CTL_EN n) = false → Gives (.engineEnable n) s fun t =>
      t.on (ENG_CTL_EN n) ∧
      (t.eng n).crc = (s.engSt n == 0 && !s.sys.bistBad.contains n.val) ∧
      (t.eng n).off = false ∧
      t.cores = s.cores ∧
      t.fq = s.fq ∧
      Only s t [ENG_CTL n]) ∧
  (∀ (n : Fin 20), s.on (ENG_CTL_EN n) → Gives (.engineEnable n) s fun t =>
      t = s) ∧
  (∀ (n : Fin 20), (s.eng n).crc → Gives (.progCrcDone n) s fun t =>
      t.reg (ENG_PROG_CRC n) = crc32c (s.bytes (progBase n) 65536) % 2 ^ 32 ∧
      (t.eng n).crc = false ∧
      (t.engSt n = (if n.val < 16 then 1 else 2)) ∧
      (16 ≤ n.val → (t.core n).next = progBase n) ∧
      (∀ m : Fin 22, m.val ≠ n.val → t.core m = s.core m) ∧
      Within s t [wENG, wSYS, wPGEN, wPROT]) ∧
  (∀ (n : Fin 20), (s.eng n).crc = false → Gives (.progCrcDone n) s fun t =>
      t = s) ∧
  (∀ (n : Fin 16) (k : Fin 16384) (v : BitVec 32), s.engSt n = 0 → (s.eng n).crc = false → Gives (.progMemWrite n k v) s fun t =>
      t.load (progBase n + 4 * k) 4 = v.toNat ∧
      Stores s t (progBase n + 4 * k) 4 ∧
      t.fq = s.fq ∧
      t.regs = s.regs) ∧
  (∀ (n : Fin 16) (k : Fin 16384) (v : BitVec 32), (s.engSt n ≠ 0 ∨ (s.eng n).crc) → Gives (.progMemWrite n k v) s fun t =>
      PostedAny s t srcENG n 3 clsCONFIG 1 ∧
      Only s t []) ∧
  (∀ (n : Fin 20), (s.inTask n = false ∨ 16 ≤ n.val) → Gives (.engineDisable n) s fun t =>
      t.on (ENG_CTL_EN n) = false ∧
      t.engSt n = 0 ∧
      (t.eng n).crc = false ∧
      (t.eng n).relq = [] ∧
      (t.eng n).pfIn = [] ∧
      t.rd (ENG_STAT_PEND n) = 0 ∧
      Within s t [wENG, wSYS, wPGEN, wPROT]) ∧
  (∀ (n : Fin 20), n.val < 16 → s.inTask n → Gives (.engineDisable n) s fun t =>
      t.on (ENG_CTL_EN n) = false ∧
      t.engSt n = s.engSt n ∧
      (t.eng n).off ∧
      (t.eng n).relq = (s.eng n).relq ∧
      t.core n = s.core n ∧
      t.fq = s.fq ∧
      Only s t [ENG_CTL n]) ∧
  (∀ (n : Fin 20), s.engSt n = 4 → Gives (.engineRestart n) s fun t =>
      (t.engSt n = (if s.on (ENG_CTL_EN n) then 1 else 0)) ∧
      t.core n = s.core n ∧
      Within s t [wENG, wSYS, wPGEN, wPROT]) ∧
  (∀ (n : Fin 20), s.engSt n ≠ 4 → Gives (.engineRestart n) s fun t =>
      t = s) ∧
  (∀ (n : Fin 20), s.engSt n = 1 → (16 ≤ n.val ∨ s.anySlot n = false) → Gives (.selfTestStart n) s fun t =>
      t.engSt n = 5 ∧
      t.on (ENG_LST_BUSY n) ∧
      (t.core n).g = [] ∧
      (t.core n).acc = [] ∧
      (t.core n).accIn = [] ∧
      (t.core n).p = 1 ∧
      (t.core n).fly = [] ∧
      (∀ m : Fin 22, m.val ≠ n.val → t.core m = s.core m) ∧
      Within s t [wENG, wPROT]) ∧
  (∀ (n : Fin 20), (s.engSt n ≠ 1 ∨ (n.val < 16 ∧ s.anySlot n)) → Gives (.selfTestStart n) s fun t =>
      t.rd (ENG_LST_REFUSED n) = min (s.rd (ENG_LST_REFUSED n) + 1) 255 ∧
      t.core n = s.core n ∧
      t.fq = s.fq ∧
      Only s t [ENG_LST n]) ∧
  (∀ (n : Fin 20), s.on (ENG_LST_BUSY n) → Gives (.selfTestDone n true) s fun t =>
      t.on (ENG_LST_BUSY n) = false ∧
      t.on (ENG_LST_PASS n) ∧
      t.on (ENG_LST_FAIL n) = s.on (ENG_LST_FAIL n) ∧
      (t.engSt n = (if s.on (ENG_CTL_EN n) then 1 else 0)) ∧
      Within s t [wENG, wPROT]) ∧
  (∀ (n : Fin 20), s.on (ENG_LST_BUSY n) → Gives (.selfTestDone n false) s fun t =>
      t.on (ENG_LST_BUSY n) = false ∧
      t.on (ENG_LST_FAIL n) ∧
      t.engSt n = 4 ∧
      t.rd (ENG_FAULT_CAUSE n) = 6 ∧
      (t.eng n).relq = [] ∧
      (n.val + 0 ≠ 16 + s.rd PROT_CFG_PENG → PostedAny s t srcENG n 2 clsPROGRAM 2) ∧
      Within s t [wENG, wPROT, wCELL, wLPWM, wSYS, wPGEN]) ∧
  (∀ (n : Fin 20) (p : Bool), s.on (ENG_LST_BUSY n) = false → Gives (.selfTestDone n p) s fun t =>
      t = s)

/-- The next waiting release starts at the entry of its slot with CYC 0 and clear flags when nothing holds it; an IN descriptor copies its
bytes to data memory, an OUT one is staged when the buffer has room and then written whole; a swap exchanges the gain pages, in a task
only at the next start; INIT puts the generator at its target at rest, a locked one to plan to STOP_TGT, and does nothing while EN is set;
a controlled stop that has not ended by TMO is posted at S4; a migration is refused or pends, and its copy moves memory, slots, owners and
held releases (07_lupin_engines.md R185 to R216). -/
def Obligations.EngineTasks : Prop := ∀ s : State,
  (∀ (n : Fin 16) (j : Nat) (q : List Nat),
    (s.eng n).relq = j :: q → j < 8 → s.engFree n → s.pfBusy n j = false → Gives (.taskStart n) s fun t =>
      t.engSt n = 2 ∧
      t.rd (ENG_STAT_CUR_SLOT n) = j ∧
      (t.eng n).relq = q ∧
      (t.eng n).view = none ∧
      (t.core n).next = s.rd (ENG_TASK_CFG_ENTRY n j) ∧
      (t.core n).tsk = j ∧
      (t.core n).cyc = 0 ∧
      (t.core n).fl = 0 ∧
      (t.core n).g = (s.core n).g ∧
      (t.core n).acc = (s.core n).acc ∧
      (t.core n).fly = (s.core n).fly ∧
      (s.core n).now < (t.core n).now ∧
      (∀ k : Fin 4, t.on (GLUT_CFG_SWAP_PEND n k) = false) ∧
      LocalOnly s t ∧
      ((s.eng n).mirror = [] → (s.eng n).pgenMir = none → Within s t [wENG, wGLUT, wPGEN, wPROT]) ∧
      RegsIn s t [wENG, wGLUT, wPGEN, wPROT]) ∧
  (∀ (n : Fin 16) (j : Nat) (q : List Nat),
    (s.eng n).relq = j :: q → (s.engFree n = false ∨ s.pfBusy n j) → Gives (.taskStart n) s fun t =>
      t = s) ∧
  (∀ (n : Fin 16), (s.eng n).relq = [] → Gives (.taskStart n) s fun t =>
      t = s) ∧
  (∀ (n d : Fin 16), d.val ∈ (s.eng n).pfIn → Gives (.prefetchInDone n d) s fun t =>
      t.bytes (dataBase n + s.rd (ENG_PFD_DCTL_LADDR n d)) (s.pfdMoved n d) = s.bytes (s.rd (ENG_PFD_SADDR_ADDR n d)) (s.pfdMoved n d) ∧
      Stores s t (dataBase n + s.rd (ENG_PFD_DCTL_LADDR n d)) (s.pfdMoved n d) ∧
      (t.eng n).pfIn = (s.eng n).pfIn.filter (· != d.val) ∧
      t.fq = s.fq ∧
      RegsIn s t [(ENG_SNAPCNT n, 4)]) ∧
  (∀ (n d : Fin 16), d.val ∉ (s.eng n).pfIn → Gives (.prefetchInDone n d) s fun t =>
      t = s) ∧
  (∀ (n : Fin 16) (d : Nat) (r : List Nat),
    (s.eng n).stage = d :: r → (((s.eng n).out.map fun x => x.2.2.length).sum + s.pfdLen n d ≤ 1024) → 
    Gives (.outStageDone n) s fun t =>
      (t.eng n).stage = r ∧
      (t.eng n).out = (s.eng n).out ++ [(d, s.rd (ENG_PFD_SADDR_ADDR n d), s.bytes (dataBase n + s.rd (ENG_PFD_DCTL_LADDR n d)) (s.pfdMoved n d))] ∧
      t.fq = s.fq ∧
      Only s t []) ∧
  (∀ (n : Fin 16),
    (∀ d : Fin 16, (s.eng n).stage.head? = some d.val → 1024 < ((s.eng n).out.map fun x => x.2.2.length).sum + s.pfdLen n d) → 
    (s.eng n).stage.all (· < 16) → Gives (.outStageDone n) s fun t =>
      t = s) ∧
  (∀ (n : Fin 16) (d a : Nat) (b : List (BitVec 8)) (r : List (Nat × Nat × List (BitVec 8))),
    (s.eng n).out = (d, a, b) :: r → Gives (.prefetchOutDone n) s fun t =>
      t.bytes a b.length = b ∧
      Stores s t a b.length ∧
      (t.eng n).out = r ∧
      (∀ k : Fin 4, (t.core (16 + k)).rbuf.all (fun x => b.length = 0 || decide (32 * x + 32 ≤ a ∨ a + b.length ≤ 32 * x))) ∧
      t.fq = s.fq ∧
      t.regs = s.regs) ∧
  (∀ (n : Fin 16), (s.eng n).out = [] → Gives (.prefetchOutDone n) s fun t =>
      t = s) ∧
  (∀ (n : Fin 16) (k : Fin 4), s.inTask n → Gives (.glutSwapRequest n k) s fun t =>
      t.on (GLUT_CFG_SWAP_PEND n k) ∧
      (t.eng n).glut = (s.eng n).glut ∧
      t.fq = s.fq ∧
      Only s t [GLUT_CFG n k]) ∧
  (∀ (n : Fin 16) (k : Fin 4), s.inTask n = false → Gives (.glutSwapRequest n k) s fun t =>
      (∀ i : Fin 257, t.glutAct n (512 * k + i) = s.rd (glutPoint n k i)) ∧
      (∀ i : Fin 257, t.rd (glutPoint n k i) = s.glutAct n (512 * k + i) % 65536) ∧
      t.glutAct n (2048 + k) = s.rd (GLUT_CFG_SHIFT n k) ∧ t.glutAct n (2052 + k) = s.rd (GLUT_CFG_ASYM n k) ∧
      t.rd (GLUT_CFG_PAGE n k) = 1 - s.rd (GLUT_CFG_PAGE n k) ∧
      t.on (GLUT_CFG_SWAP_PEND n k) = false ∧
      t.fq = s.fq ∧
      Within s t [wGLUT]) ∧
  (∀ (n : Fin 16), s.on (PGEN_CFG_EN n) = false → s.on (PGEN_STAT_LOCKED n) = false → Gives (.pgenInit n) s fun t =>
      t.reg (PGEN_POS n) = s.reg (PGEN_TARGET n) % 2 ^ 32 ∧
      t.reg (PGEN_VEL n) = 0 ∧
      t.reg (PGEN_ACC n) = 0 ∧
      (t.eng n).plan = none ∧
      t.on (PGEN_STAT_MOVING n) = false ∧
      (t.eng n).tgt = s.reg (PGEN_TARGET n) ∧
      (t.eng n).replan = false ∧
      t.on (PGEN_STAT_AT_TGT n) ∧
      t.fq = s.fq ∧
      (s.on LOOP_CSTOP_ACTIVE = false → Only s t [PGEN_POS n, PGEN_VEL n, PGEN_ACC n, PGEN_STAT n]) ∧
      Within s t [wPGEN, wSYS, wLPWM, wLOOP]) ∧
  (∀ (n : Fin 16), s.on (PGEN_CFG_EN n) = false → s.on (PGEN_STAT_LOCKED n) → Gives (.pgenInit n) s fun t =>
      t.reg (PGEN_POS n) = s.reg (PGEN_TARGET n) % 2 ^ 32 ∧
      t.reg (PGEN_VEL n) = 0 ∧
      t.reg (PGEN_ACC n) = 0 ∧
      (t.eng n).plan = none ∧
      t.on (PGEN_STAT_MOVING n) = false ∧
      (t.eng n).tgt = (s.eng n).tgt ∧
      (t.eng n).replan = decide (s.reg (PGEN_TARGET n) ≠ (s.eng n).tgt) ∧
      t.on (PGEN_STAT_AT_TGT n) = decide (s.reg (PGEN_TARGET n) = (s.eng n).tgt) ∧
      Within s t [wPGEN, wSYS, wLPWM, wLOOP]) ∧
  (∀ (n : Fin 16), s.on (PGEN_CFG_EN n) → Gives (.pgenInit n) s fun t =>
      t = s) ∧
  (s.on LOOP_CSTOP_ACTIVE → Gives .cstopTimeout s fun t =>
      PostedAny s t srcLOOP 16 5 clsTIMING 4 ∧
      t.on FLT_STAT_PB ∧
      (s.dev = 2 ∨ s.dev = 3 → t.dev = 4) ∧
      (s.dev ≠ 2 → s.dev ≠ 3 → t.dev = s.dev) ∧
      Within s t [wFLT, wSYS, wLPWM, wLOOP, wPGEN, wSADL]) ∧
  (s.on LOOP_CSTOP_ACTIVE = false → Gives .cstopTimeout s fun t =>
      t = s) ∧
  (∀ (a b : Fin 16),
    s.on LOOP_MIGRATE_PEND = false → s.migrateOk a b → subMod 32 (s.reg LOOP_MIG_CYCLE) (s.reg LOOP_CYC_NUM) ≠ 0 → 
    subMod 32 (s.reg LOOP_MIG_CYCLE) (s.reg LOOP_CYC_NUM) < 2 ^ 31 → Gives (.migrateRequest a b) s fun t =>
      t.on LOOP_MIGRATE_PEND ∧
      t.rd LOOP_MIGRATE_SRC = a.val ∧
      t.rd LOOP_MIGRATE_DST = b.val ∧
      (t.eng a).migTo = some b.val ∧
      t.fq = s.fq ∧
      Only s t [LOOP_MIGRATE]) ∧
  (∀ (a b : Fin 16),
    
    (s.on LOOP_MIGRATE_PEND ∨ s.migrateOk a b = false ∨ subMod 32 (s.reg LOOP_MIG_CYCLE) (s.reg LOOP_CYC_NUM) = 0 ∨ 2 ^ 31 ≤ subMod 32 (s.reg LOOP_MIG_CYCLE) (s.reg LOOP_CYC_NUM)) → 
    Gives (.migrateRequest a b) s fun t =>
      t.on LOOP_MIGRATE_REFUSED ∧
      t.on LOOP_MIGRATE_PEND = s.on LOOP_MIGRATE_PEND ∧
      t.engs = s.engs ∧
      PostedAny s t srcLOOP 16 6 clsCONFIG 1 ∧
      Only s t [LOOP_MIGRATE]) ∧
  (∀ (a b : Fin 16),
    s.migrating = some (a.val, b.val) → a ≠ b → (s.eng a).migr → s.inTask a = false → (s.eng a).stage = [] → (s.eng a).held = [] → 
    Gives .migrationCopyDone s fun t =>
      t.bytes (dataBase b) 65536 = s.bytes (dataBase a) 65536 ∧
      Stores s t (dataBase b) 65536 ∧
      t.on LOOP_MIGRATE_PEND = false ∧
      t.on LOOP_MIGRATE_DONE ∧
      (t.eng a).migr = false ∧
      (t.eng a).migTo = none ∧
      (t.eng b).glut = (s.eng a).glut ∧
      (∀ j : Fin 8, t.on (ENG_TASK_CFG_EN a j) = false ∧ t.reg (ENG_TASK_CFG b j) = s.reg (ENG_TASK_CFG a j)) ∧
      (∀ d : Fin 16, t.reg (ENG_PFD_SADDR b d) = s.reg (ENG_PFD_SADDR a d) ∧ t.reg (ENG_PFD_DCTL b d) = s.reg (ENG_PFD_DCTL a d)) ∧
      (∀ m : Fin 784, s.hasChan m → s.owns a m → t.rd (chOwner m) = b.val) ∧
      RegsIn s t [wENG, wPGEN, wMOD, wLPWM, wLOOP]) ∧
  (s.migrating = none → Gives .migrationCopyDone s fun t =>
      t = s) ∧
  (∀ (a b : Fin 16),
    s.migrating = some (a.val, b.val) → ((s.eng a).migr = false ∨ s.inTask a ∨ (s.eng a).stage ≠ []) → 
    Gives .migrationCopyDone s fun t =>
      t = s)

/-! ### Supplies, resets and boot (chapter 17) -/

/-- A warning of a rail suspends write pulses and is posted, the recovery of the last one resumes them; a reset source of reach C or W turns
lanes and outputs off and resets the logic once no write pulse runs; one of reach A takes the link down and the converters with it, one of
reach S drops the tokens; a source that asserts again changes nothing; the release of an episode of reach C shows its cause, keeps the
MRAM and starts the boot from the boot ROM; one of reach W keeps the timebase and counts; one of reach A alone counts and leaves the logic
(17_reset_power_boot.md R447 to R458). A write of a word outside the owned areas is seen by every later read at its enabled bytes and
leaves the others; one in an owned area is refused with LOCKED; a scrub read moves SCRUB.NEXT on, counts a pass at the end, and counts and
posts a single error at S0 and a double error at S1 with its address; while the scrub is off it does nothing (17_reset_power_boot.md R460
to R462). -/
def Obligations.SuppliesAndResets : Prop := ∀ s : State,
  (∀ (r : Fin 10), s.bitAt PWR_STAT_WARN r = false → Gives (.railWarn r) s fun t =>
      t.bitAt PWR_STAT_WARN r ∧
      t.bitAt PWR_SEEN_WARN r ∧
      t.on PWR_STAT_SUSP ∧
      Posted s t srcPWR 0 1 clsSUPPLY 1 r ∧
      (r = 5 → t.sec.burn = none) ∧
      (r ≠ 5 → t.sec = s.sec) ∧
      Within s t [wPWR, wNVC, wSEC]) ∧
  (∀ (r : Fin 10), s.bitAt PWR_STAT_WARN r → Gives (.railWarn r) s fun t =>
      t = s) ∧
  (∀ (r : Fin 10),
    s.bitAt PWR_STAT_WARN r → (∀ k : Fin 10, k ≠ r → s.bitAt PWR_STAT_WARN k = false) → s.rd PWR_STAT_WARN < 1024 → 
    Gives (.railRecover r) s fun t =>
      t.bitAt PWR_STAT_WARN r = false ∧
      t.on PWR_STAT_SUSP = false ∧
      t.rd (PWR_DIP_COUNT r) = min (s.rd (PWR_DIP_COUNT r) + 1) 65535 ∧
      Posted s t srcPWR 0 2 clsSUPPLY 0 r ∧
      (s.pair.epochPend → t.pair.record = s.reg SADL_EPOCH ∧ t.pair.epochPend = false) ∧
      (s.sys.nvq ≠ [] → s.sys.heldOff = false → t.on NVC_STAT_PULSE) ∧
      t.age.held = none ∧
      Within s t [wPWR, wNVC, wAGE]) ∧
  (∀ (r k : Fin 10),
    s.bitAt PWR_STAT_WARN r → k ≠ r → s.bitAt PWR_STAT_WARN k → s.rd PWR_STAT_WARN < 1024 → Gives (.railRecover r) s fun t =>
      t.bitAt PWR_STAT_WARN r = false ∧
      t.bitAt PWR_STAT_WARN k ∧
      t.on PWR_STAT_SUSP ∧
      t.rd (PWR_DIP_COUNT r) = min (s.rd (PWR_DIP_COUNT r) + 1) 65535 ∧
      Posted s t srcPWR 0 2 clsSUPPLY 0 r ∧
      t.pair = s.pair ∧
      t.age = s.age ∧
      Within s t [wPWR, wNVC]) ∧
  (∀ (r : Fin 10), s.bitAt PWR_STAT_WARN r = false → Gives (.railRecover r) s fun t =>
      t = s) ∧
  (∀ (r : Fin 10), r.val ∉ s.sys.low → porOf r ∈ s.sys.asserted → Gives (.railBelowReset r) s fun t =>
      t.sys.low = r.val :: s.sys.low ∧
      t.sys.asserted = s.sys.asserted ∧
      t.fq = s.fq ∧
      Only s t []) ∧
  (∀ (r : Fin 10), r.val ∈ s.sys.low → Gives (.railBelowReset r) s fun t =>
      t = s) ∧
  (∀ (r : Fin 10),
    r.val ∉ s.sys.low → porOf r ∉ s.sys.asserted → s.reachOf (porOf r) ≤ 1 → s.sys.nvRun = none → s.sys.heldOff = false → 
    Gives (.railBelowReset r) s fun t =>
      r.val ∈ t.sys.low ∧
      porOf r ∈ t.sys.asserted ∧
      porOf r ∈ t.sys.epi ∧
      t.sys.heldOff = false ∧
      t.sys.nvq = [] ∧
      (∀ l : Fin 28, t.rd (LANE_STAT_TX_MODE l) = 0 ∧ t.laneSt l = 0) ∧
      (∀ m : Fin 16, (t.lp m).onA = false ∧ (t.lp m).onB = false) ∧
      (∀ n : Fin 20, t.engSt n = 0) ∧
      (∀ n : Fin 24, t.chainSt n = 0) ∧
      t.on SAFE_STATE_TOKENS = false ∧
      t.sec.keys = s.sec.keys ∧
      t.nodes = s.nodes ∧
      MramKept s.recFlush t ∧
      t.dev = 0) ∧
  (5 ∉ s.sys.asserted → s.reachOf 5 ≤ 1 → s.sys.nvRun = none → s.sys.heldOff = false → Gives .nresetAssert s fun t =>
      5 ∈ t.sys.asserted ∧
      5 ∈ t.sys.epi ∧
      (s.hasReach 0 = false → s.reachOf 5 = 1 → t.tb = s.tb) ∧
      t.sys.heldOff = false ∧
      t.sys.nvq = [] ∧
      (∀ l : Fin 28, t.rd (LANE_STAT_TX_MODE l) = 0 ∧ t.laneSt l = 0) ∧
      (∀ m : Fin 16, (t.lp m).onA = false ∧ (t.lp m).onB = false) ∧
      (∀ n : Fin 20, t.engSt n = 0) ∧
      (∀ n : Fin 24, t.chainSt n = 0) ∧
      t.on SAFE_STATE_TOKENS = false ∧
      t.sec.keys = s.sec.keys ∧
      t.nodes = s.nodes ∧
      MramKept s.recFlush t ∧
      t.dev = 0) ∧
  (5 ∉ s.sys.asserted → s.reachOf 5 ≤ 1 → s.sys.nvRun ≠ none → Gives .nresetAssert s fun t =>
      5 ∈ t.sys.asserted ∧
      t.sys.heldOff ∧
      t.sys.wasHeld ∧
      t.sys.nvRun = s.sys.nvRun ∧
      (∀ l : Fin 28, t.rd (LANE_STAT_TX_MODE l) = 0) ∧
      (∀ m : Fin 16, (t.lp m).onA = false ∧ (t.lp m).onB = false) ∧
      t.dev = s.dev ∧
      MramKept s t) ∧
  (5 ∉ s.sys.asserted → s.reachOf 5 = 2 → Gives .nresetAssert s fun t =>
      5 ∈ t.sys.asserted ∧
      5 ∈ t.sys.epi ∧
      t.on SYS_D2D_STAT_UP = false ∧
      t.adcs = [] ∧
      (∀ n : Fin 4, t.on (ADC_CTL_EN n) = false) ∧
      t.sys.heldOff = s.sys.heldOff ∧
      (t.dev = s.dev ∨ t.dev = 4) ∧
      MramKept s t) ∧
  (5 ∉ s.sys.asserted → s.reachOf 5 = 3 → Gives .nresetAssert s fun t =>
      5 ∈ t.sys.asserted ∧
      5 ∈ t.sys.epi ∧
      t.on SAFE_STATE_TOKENS = false ∧
      t.islSt = 0 ∧
      (t.dev = s.dev ∨ t.dev = 4) ∧
      (∀ n : Fin 4, t.reg (ADC_CTL n) = s.reg (ADC_CTL n)) ∧
      MemKept s t) ∧
  (5 ∈ s.sys.asserted → Gives .nresetAssert s fun t =>
      t = s) ∧
  (Gives .nresetRelease s fun t =>
      t.sys.asserted = s.sys.asserted.filter (· != 5) ∧
      t.sys.epi = s.sys.epi ∧
      t.sys.low = s.sys.low ∧
      t.fq = s.fq ∧
      Only s t []) ∧
  (∀ (r : Fin 10), r.val ∈ s.sys.low → Gives (.porRelease r) s fun t =>
      t.sys.low = s.sys.low.filter (· != r.val) ∧
      (t.sys.asserted = (if (s.sys.low.filter (· != r.val)).any (fun q => porOf q == porOf r) then s.sys.asserted else s.sys.asserted.filter (· != porOf r))) ∧
      t.sys.epi = s.sys.epi ∧
      t.fq = s.fq ∧
      Only s t []) ∧
  (∀ (r : Fin 10), r.val ∉ s.sys.low → Gives (.porRelease r) s fun t =>
      t = s) ∧
  (∀ (a : Nat) (b : List (BitVec 8)), s.sys.nvRun = some (a, b) → s.sys.heldOff = false → Gives .mramPulseDone s fun t =>
      t.bytes a b.length = b ∧
      Stores s t a b.length ∧
      (t.sys.nvRun ≠ some (a, b) ∨ s.sys.nvq.head? = some (a, b)) ∧
      t.on NVC_STAT_PULSE = t.sys.nvRun.isSome ∧
      t.fq = s.fq ∧
      RegsIn s t [(NVC_STAT, 4)]) ∧
  (∀ (a : Nat) (b : List (BitVec 8)),
    s.sys.nvRun = some (a, b) → s.sys.heldOff → s.sys.nvq = [] → inMram a → inMram (a + b.length) → Gives .mramPulseDone s fun t =>
      t.bytes a b.length = b ∧
      t.sys.nvRun = none ∧
      t.sys.heldOff = false ∧
      t.dev = 0 ∧
      (∀ n : Fin 20, t.engSt n = 0) ∧
      MramKept (s.setBytes a b) t) ∧
  (s.sys.nvRun = none → Gives .mramPulseDone s fun t =>
      t = s) ∧
  (∀ (b : BootIn), s.hasReach 0 → s.sys.asserted = [] → s.sys.heldOff = false → Gives (.resetRelease b) s fun t =>
      t.rd RST_CAUSE_REACH = 0 ∧
      t.on RST_CAUSE_HELDOFF = s.sys.wasHeld ∧
      (t.rd RST_CAUSE_SRC % 64 = ((List.range 6).map fun k => bit (s.sys.epi.contains k) * 2 ^ k).sum) ∧
      t.sys.epi = [] ∧
      t.dev = 0 ∧
      t.rd SYS_BOOT_STAT_STEP = 2 ∧
      t.on CLK_SYS_CTL_EN ∧
      t.engSt 16 = 2 ∧
      t.core 16 = coreCold 16 ∧
      (∀ n : Fin 16, t.engSt n = 0) ∧
      (∀ n : Fin 24, t.chainSt n = 0) ∧
      t.on SAFE_STATE_TOKENS = false ∧
      MramKept s.recFlush t) ∧
  (∀ (b : BootIn),
    s.hasReach 0 = false → s.hasReach 1 → s.sys.asserted = [] → s.sys.heldOff = false → Gives (.resetRelease b) s fun t =>
      t.rd RST_CAUSE_REACH = 1 ∧
      t.rd RST_COUNT_WARM = min (s.rd RST_COUNT_WARM + 1) 255 ∧
      t.tb = s.tb ∧
      t.frames = s.frames ∧
      t.sys.epi = [] ∧
      t.dev = 0 ∧
      t.rd SYS_BOOT_STAT_STEP = 2 ∧
      t.on CLK_SYS_CTL_EN ∧
      t.engSt 16 = 2 ∧
      t.core 16 = coreCold 16 ∧
      (∀ n : Fin 16, t.engSt n = 0) ∧
      (∀ n : Fin 24, t.chainSt n = 0) ∧
      t.on SAFE_STATE_TOKENS = false ∧
      MramKept s.recFlush t) ∧
  (∀ (b : BootIn),
    s.hasReach 0 = false → s.hasReach 1 = false → s.hasReach 2 → s.hasReach 3 = false → s.sys.asserted = [] → 
    s.sys.heldOff = false → Gives (.resetRelease b) s fun t =>
      t.sys.epi = [] ∧
      t.rd RST_CAUSE_REACH = 2 ∧
      t.rd RST_COUNT_ANA = min (s.rd RST_COUNT_ANA + 1) 255 ∧
      t.adcs = [] ∧
      (∀ n : Fin 16, t.engSt n = s.engSt n) ∧
      (t.dev = s.dev ∨ t.dev = 4) ∧
      t.rd SYS_BOOT_STAT_STEP = s.rd SYS_BOOT_STAT_STEP ∧
      MramKept s t) ∧
  (∀ (b : BootIn),
    s.hasReach 0 = false → s.hasReach 1 = false → s.hasReach 2 = false → s.hasReach 3 → s.sys.asserted = [] → 
    s.sys.heldOff = false → Gives (.resetRelease b) s fun t =>
      t.sys.epi = [] ∧
      t.rd RST_CAUSE_REACH = 3 ∧
      t.rd RST_COUNT_SAFE = min (s.rd RST_COUNT_SAFE + 1) 255 ∧
      t.on SAFE_STATE_TOKENS = false ∧
      t.islSt = 0 ∧
      t.isl.mbout.length = 1 ∧
      t.rd SAFE_MB_OUT_STAT_OCC = 1 ∧
      (t.dev = s.dev ∨ t.dev = 4) ∧
      MemKept s t) ∧
  (∀ (b : BootIn), (s.sys.epi = [] ∨ s.sys.asserted ≠ [] ∨ s.sys.heldOff) → Gives (.resetRelease b) s fun t =>
      t = s) ∧
  (∀ (w : Fin 524288) (v : BitVec 64) (e : BitVec 8), nvOwned (0x02000000 + 8 * w) = false → Gives (.mramWrite w v e) s fun t =>
      (∀ i : Fin 8, t.nvByte (0x02000000 + 8 * w + i) = if e.toNat.testBit i then BitVec.ofNat 8 (v.toNat / 2 ^ (8 * i.val)) else s.nvByte (0x02000000 + 8 * w + i)) ∧
      (e ≠ 0 → s.sys.nvRun = none → s.sys.nvq = [] → s.on PWR_STAT_SUSP = false → s.sys.heldOff = false → t.on NVC_STAT_PULSE ∧ t.rd NVC_STAT_WBUF = 0) ∧
      t.fq = s.fq ∧
      Only s t [NVC_STAT]) ∧
  (∀ (w : Fin 524288) (v : BitVec 64) (e : BitVec 8), nvOwned (0x02000000 + 8 * w) → Gives (.mramWrite w v e) s fun t =>
      t.sys = s.sys ∧
      Posted s t (srcAt (0x02000000 + 8 * w)).1 (srcAt (0x02000000 + 8 * w)).2 0xF0 clsCONFIG 1 (0x02000000 + 8 * w) ∧
      Only s t []) ∧
  (s.on NVC_CFG_SCRUB_EN → Gives (.scrubRead 0) s fun t =>
      t.rd NVC_SCRUB_NEXT = (s.rd NVC_SCRUB_NEXT + 1) % 524288 ∧
      (t.reg NVC_PASSES = (if s.rd NVC_SCRUB_NEXT = 524287 then (s.reg NVC_PASSES + 1) % 2 ^ 32 else s.reg NVC_PASSES)) ∧
      t.sys = s.sys ∧
      t.fq = s.fq ∧
      Only s t [NVC_SCRUB, NVC_PASSES]) ∧
  (s.on NVC_CFG_SCRUB_EN → Gives (.scrubRead 1) s fun t =>
      t.rd NVC_SCRUB_NEXT = (s.rd NVC_SCRUB_NEXT + 1) % 524288 ∧
      (t.reg NVC_PASSES = (if s.rd NVC_SCRUB_NEXT = 524287 then (s.reg NVC_PASSES + 1) % 2 ^ 32 else s.reg NVC_PASSES)) ∧
      t.rd NVC_CE_COUNT = min (s.rd NVC_CE_COUNT + 1) 4294967295 ∧
      t.sys.nvBad = s.sys.nvBad ∧
      Posted s t srcNVC 0 1 clsMEMORY 0 (s.rd NVC_SCRUB_NEXT) ∧
      Within s t [wNVC]) ∧
  (s.on NVC_CFG_SCRUB_EN → Gives (.scrubRead 2) s fun t =>
      t.rd NVC_SCRUB_NEXT = (s.rd NVC_SCRUB_NEXT + 1) % 524288 ∧
      (t.reg NVC_PASSES = (if s.rd NVC_SCRUB_NEXT = 524287 then (s.reg NVC_PASSES + 1) % 2 ^ 32 else s.reg NVC_PASSES)) ∧
      t.rd NVC_UE_COUNT = min (s.rd NVC_UE_COUNT + 1) 65535 ∧
      t.rd NVC_UE_ADDR_ADDR = s.rd NVC_SCRUB_NEXT ∧
      t.on NVC_UE_ADDR_VALID ∧
      s.rd NVC_SCRUB_NEXT ∈ t.sys.nvBad ∧
      Posted s t srcNVC 0 2 clsMEMORY 1 (s.rd NVC_SCRUB_NEXT) ∧
      Within s t [wNVC]) ∧
  (∀ (e : Fin 3), s.on NVC_CFG_SCRUB_EN = false → Gives (.scrubRead e) s fun t =>
      t = s)

/-- While the boot waits for the host, HOST_IMG.GO loads and verifies its image: a good one is loaded and takes the boot to step 7 with its
profile, a bad one is a violation with the reason of R432 and the boot waits on; in step 8 DONE enters READY with the state of the island,
and an expired limit is posted; at any other step each does nothing (17_reset_power_boot.md R467 to R470). A write of BLK_RST for a known
block puts its registers at their cold values and sets BUSY, with a fault at S1 when the block was not idle; a self-test of a block that
is not idle is refused; one while BUSY collides; an unknown code is a reserved value; the end clears BUSY and a self-test that was asked
for reports PASS or FAIL and leaves its memory cleared (17_reset_power_boot.md R463 to R465). -/
def Obligations.BootSteps : Prop := ∀ s : State,
  (∀ (k g : Bool) (y : Nat),
    s.dev = 0 → s.rd SYS_BOOT_STAT_STEP = 4 → s.rd SYS_BOOT_STAT_SRC = 2 → 
    s.imgWhy ⟨s.bytes 0x1000000 (s.rd SYS_HOST_IMG_LEN), k, g⟩ 0x800000 = y → y ≠ 0 → Gives (.hostImageGo k g) s fun t =>
      t.dev = 0 ∧
      t.rd SYS_BOOT_STAT_STEP = 4 ∧
      t.rd SYS_BOOT_STAT_SRC = 2 ∧
      t.profile = s.profile ∧
      t.bitAt SEC_STAT_VIOL 6 ∧
      (s.rd (SEC_POLICY_POL 6) < 2 → Posted s t srcSEC 0 6 clsSECURITY 1 y) ∧
      (y = 5 → MemKept s t) ∧
      RegsIn s t [wSYS, wSEC, wNVC]) ∧
  (∀ (b u : List (BitVec 8)),
    s.dev = 0 → s.rd SYS_BOOT_STAT_STEP = 4 → s.rd SYS_BOOT_STAT_SRC = 2 → s.bytes 0x1000000 (s.rd SYS_HOST_IMG_LEN) = b → 
    s.imgWhy ⟨b, true, true⟩ 0x800000 = 0 → crcBad b = none → imgPart b 6 = u → imgLimit (fieldAt b 8 1) u = none → 
    Gives (.hostImageGo true true) s fun t =>
      t.dev = 0 ∧
      t.rd SYS_BOOT_STAT_STEP = 7 ∧
      t.rd SYS_DEV_STATE_PROFILE = fieldAt b 8 1 ∧
      t.rd SEC_BOOT_SLOT = fieldAt b 9 1 ∧
      t.rd SEC_BOOT_VERSION = fieldAt b 0xA 1 ∧
      t.sys.cfgEntry = fieldAt b 0x14 4 ∧
      (∀ n : Fin 16, ∀ j : Fin 8, ∀ k : Fin 6, t.reg (ENG_TASK_CFG n j + 4 * k) = taskWord u n j k) ∧
      t.bytes 0x3F0000 (imgPart b 4).length = imgPart b 4 ∧
      t.bytes 0x3F8000 512 = imgPart b 5 ∧
      Posted s t srcSYS 0 5 clsCONFIG 1 2 ∧
      RegsIn s t [wSYS, wSEC, wENG, wLANE] ∧
      MramKept s t) ∧
  (∀ (k g : Bool), (s.dev ≠ 0 ∨ s.rd SYS_BOOT_STAT_STEP ≠ 4 ∨ s.rd SYS_BOOT_STAT_SRC ≠ 2) → Gives (.hostImageGo k g) s fun t =>
      t = s) ∧
  (s.dev = 0 → s.rd SYS_BOOT_STAT_STEP = 8 → s.sys.cfgTmo = false → Gives .configDone s fun t =>
      t.dev = 1 ∧
      t.rd SYS_BOOT_STAT_STEP = 9 ∧
      t.rd SYS_BOOT_STAT_ISLAND = s.islSt ∧
      Within s t [wSYS, wLOOP, wSAFE, wPGEN, wLPWM]) ∧
  ((s.dev ≠ 0 ∨ s.rd SYS_BOOT_STAT_STEP ≠ 8 ∨ s.sys.cfgTmo) → Gives .configDone s fun t =>
      t = s) ∧
  (s.dev = 0 → s.rd SYS_BOOT_STAT_STEP = 8 → s.sys.cfgTmo = false → Gives .configTimeout s fun t =>
      t.sys.cfgTmo ∧
      Posted s t srcSYS 0 4 clsCONFIG 1 0 ∧
      Only s t []) ∧
  ((s.dev ≠ 0 ∨ s.rd SYS_BOOT_STAT_STEP ≠ 8 ∨ s.sys.cfgTmo) → Gives .configTimeout s fun t =>
      t = s) ∧
  (∀ (c : BitVec 7) (b n : Nat) (v : Bool),
    blkRange c.toNat = some (b, n) → s.on RST_BLK_STAT_BUSY = false → s.blkIdle c.toNat → Gives (.blockReset c v) s fun t =>
      t.on RST_BLK_STAT_BUSY ∧
      t.rd RST_BLK_RST_CODE = c.toNat ∧
      t.on RST_BLK_RST_TEST = v ∧
      t.on RST_BLK_STAT_NOT_IDLE = s.on RST_BLK_STAT_NOT_IDLE ∧
      (t.sys.blk = some (c.toNat, (v && decide (c.toNat = 0x30 ∨ 0x40 ≤ c.toNat)), false)) ∧
      (c.toNat ≠ 0x30 → Cold t b n) ∧
      RegsIn s t [(b, n), wRST, wCHAIN, wCELL, wENG, wSYS, wLPWM, wLOOP, wPGEN, wFLT, wSADL] ∧
      MemKept s t) ∧
  (∀ (c : BitVec 7) (b n : Nat),
    blkRange c.toNat = some (b, n) → s.on RST_BLK_STAT_BUSY = false → s.blkIdle c.toNat = false → 
    Gives (.blockReset c false) s fun t =>
      t.on RST_BLK_STAT_BUSY ∧
      t.on RST_BLK_STAT_NOT_IDLE ∧
      t.sys.blk = some (c.toNat, false, true) ∧
      (c.toNat ≠ 0x30 → Cold t b n) ∧
      Posted s t srcRST 0 1 clsPROGRAM 1 c.toNat ∧
      RegsIn s t [(b, n), wRST, wCHAIN, wCELL, wENG, wSYS, wLPWM, wLOOP, wPGEN, wFLT, wSADL] ∧
      MemKept s t) ∧
  (∀ (c : BitVec 7),
    (blkRange c.toNat).isSome → (c.toNat = 0x30 ∨ 0x40 ≤ c.toNat) → s.on RST_BLK_STAT_BUSY = false → s.blkIdle c.toNat = false → 
    Gives (.blockReset c true) s fun t =>
      t.on RST_BLK_STAT_REFUSED ∧
      t.on RST_BLK_STAT_BUSY = false ∧
      t.sys.blk = s.sys.blk ∧
      t.fq = s.fq ∧
      Only s t [RST_BLK_STAT, RST_BLK_RST]) ∧
  (∀ (c : BitVec 7) (v : Bool), (blkRange c.toNat).isSome → s.on RST_BLK_STAT_BUSY → Gives (.blockReset c v) s fun t =>
      t.on RST_BLK_STAT_COLL ∧
      t.on RST_BLK_STAT_BUSY ∧
      t.sys.blk = s.sys.blk ∧
      t.fq = s.fq ∧
      Only s t [RST_BLK_STAT]) ∧
  (∀ (c : BitVec 7) (v : Bool), blkRange c.toNat = none → Gives (.blockReset c v) s fun t =>
      Posted s t srcRST 0 0xF1 clsCONFIG 1 RST_BLK_RST ∧
      t.sys.blk = s.sys.blk ∧
      Only s t []) ∧
  (s.on RST_BLK_STAT_BUSY → Gives .blockResetDone s fun t =>
      t.on RST_BLK_STAT_BUSY = false ∧
      t.fq = s.fq ∧
      Only s t [RST_BLK_STAT]) ∧
  (s.on RST_BLK_STAT_BUSY = false → Gives .blockResetDone s fun t =>
      t = s) ∧
  (∀ (c : Nat) (x : Bool), s.sys.blk = some (c, true, x) → s.on RST_BLK_STAT_BUSY = false → Gives (.blockSelfTestDone true) s fun t =>
      t.on RST_BLK_STAT_TEST_PASS ∧
      t.sys.blk = none ∧
      t.sys.bistBad = s.sys.bistBad ∧
      t.fq = s.fq ∧
      Only (s.coldMem (blkMem c)) t [RST_BLK_STAT]) ∧
  (∀ (c : Nat) (x : Bool), s.sys.blk = some (c, true, x) → s.on RST_BLK_STAT_BUSY = false → Gives (.blockSelfTestDone false) s fun t =>
      t.on RST_BLK_STAT_TEST_FAIL ∧
      t.sys.blk = none ∧
      (0x40 ≤ c → (c - 0x40) ∈ t.sys.bistBad) ∧
      Posted s t srcMEM (blkMemInst c) 3 clsMEMORY 2 0 ∧
      Only (s.coldMem (blkMem c)) t [RST_BLK_STAT]) ∧
  (∀ (p : Bool), (s.on RST_BLK_STAT_BUSY ∨ s.sys.blk = none) → Gives (.blockSelfTestDone p) s fun t =>
      t = s)

/-! ### MRAM and the Heath monitor (chapters 15 and 17) -/

/-- Ring oscillator, SRAM and bandgap measurements end with their values while an Aster engine runs; LKQ gives its oldest result; COMMIT
writes the record of REC0 to REC2 and HOURS at the head, holds it while pulses are suspended, or is refused when full; SUBMIT captures
SHADOW or is refused; validation refuses a plan with its reason or accepts it; a pending plan can be withdrawn (15_ageing_and_margins.md
R409 to R423). -/
def Obligations.HeathMonitor : Prop := ∀ s : State,
  (Gives .roStart s fun t =>
      t.on AGE_RO_CTL_BUSY ∧
      t.age = s.age ∧
      t.fq = s.fq ∧
      Only s t [AGE_RO_CTL]) ∧
  (∀ (l : List (BitVec 24)), l.length = 48 → s.asterRuns → s.on AGE_RO_CTL_BUSY → Gives (.roDone l) s fun t =>
      (∀ i : Fin 48, t.rd (AGE_RO_COUNT i) = ((l[i]?).getD 0).toNat) ∧
      t.on AGE_RO_CTL_BUSY = false ∧
      t.on AGE_RO_CTL_DONE ∧
      t.fq = s.fq ∧
      Within s t [wAGE]) ∧
  (∀ (l : List (BitVec 24)), l.length = 48 → (s.asterRuns = false ∨ s.on AGE_RO_CTL_BUSY = false) → Gives (.roDone l) s fun t =>
      t = s) ∧
  (s.on AGE_SRM_CTL_BUSY = false → Gives .srmStart s fun t =>
      t.on AGE_SRM_CTL_BUSY ∧
      t.age.srm = s.rd AGE_SRM_CTL_GROUP ∧
      t.fq = s.fq ∧
      Only s t [AGE_SRM_CTL]) ∧
  (s.on AGE_SRM_CTL_BUSY → Gives .srmStart s fun t =>
      t = s) ∧
  (∀ (k : BitVec 6), s.asterRuns → s.on AGE_SRM_CTL_BUSY → s.age.srm < 16 → Gives (.srmDone k) s fun t =>
      t.rd (AGE_SRM_MARGIN s.age.srm) = k.toNat ∧
      t.on (AGE_SRM_VALID s.age.srm) ∧
      t.on AGE_SRM_CTL_BUSY = false ∧
      t.on AGE_SRM_CTL_DONE ∧
      t.fq = s.fq ∧
      Within s t [wAGE]) ∧
  (∀ (k : BitVec 6), (s.asterRuns = false ∨ s.on AGE_SRM_CTL_BUSY = false) → Gives (.srmDone k) s fun t =>
      t = s) ∧
  (∀ (p : BitVec 16), s.asterRuns → s.age.bg0 = none → Gives (.bandgapMeasure p) s fun t =>
      t.age.bg0 = some p.toInt ∧
      t.rd AGE_BG_PPM = 0 ∧
      t.on AGE_BG_VALID ∧
      t.fq = s.fq ∧
      Only s t [AGE_BG]) ∧
  (∀ (p : BitVec 16) (b : Int), s.asterRuns → s.age.bg0 = some b → Gives (.bandgapMeasure p) s fun t =>
      t.age.bg0 = some b ∧
      t.rd AGE_BG_PPM = ofInt 16 (p.toInt - b) ∧
      t.on AGE_BG_VALID ∧
      t.fq = s.fq ∧
      Only s t [AGE_BG]) ∧
  (∀ (p : BitVec 16), s.asterRuns = false → Gives (.bandgapMeasure p) s fun t =>
      t = s) ∧
  (∀ (e : BitVec 32) (r : List (BitVec 32)), s.prot.lkq = e :: r → r.length < 32 → Gives .lkqRead s fun t =>
      t.prot.lkq = r ∧
      t.rd AGE_LKQ_STAT_OCC = r.length ∧
      t.fq = s.fq ∧
      Only s t [AGE_LKQ_STAT]) ∧
  (s.prot.lkq = [] → Gives .lkqRead s fun t =>
      t = s) ∧
  (s.on AGE_REC_STAT_PEND = false → (s.recOk (s.rd AGE_REC_HEAD_HEAD) = false ∨ s.on AGE_REC_CTL_WRAP) → 
    s.on PWR_STAT_SUSP = false → s.rd AGE_REC_HEAD_HEAD < 225280 → Gives .recordCommit s fun t =>
      t.nvBytes (recAddr (s.rd AGE_REC_HEAD_HEAD)) 16 = s.recMake ∧
      t.rd AGE_REC_HEAD_HEAD = (s.rd AGE_REC_HEAD_HEAD + 1) % 225280 ∧
      (s.recOk (s.rd AGE_REC_HEAD_HEAD) → t.fq = s.fq) ∧
      Only s t [AGE_REC_HEAD, NVC_STAT]) ∧
  (s.on AGE_REC_STAT_PEND = false → (s.recOk (s.rd AGE_REC_HEAD_HEAD) = false ∨ s.on AGE_REC_CTL_WRAP) → s.on PWR_STAT_SUSP → 
    Gives .recordCommit s fun t =>
      t.on AGE_REC_STAT_PEND ∧
      t.age.held = some s.recMake ∧
      t.sys = s.sys ∧
      Posted s t srcAGE 0 4 clsMEMORY 0 (s.reg AGE_HOURS) ∧
      Only s t [AGE_REC_STAT]) ∧
  (s.on AGE_REC_STAT_PEND = false → s.recOk (s.rd AGE_REC_HEAD_HEAD) = true → s.on AGE_REC_CTL_WRAP = false → 
    Gives .recordCommit s fun t =>
      t.on AGE_REC_STAT_FULL ∧
      t.age = s.age ∧
      t.sys = s.sys ∧
      t.fq = s.fq ∧
      Only s t [AGE_REC_STAT]) ∧
  (s.on AGE_REC_STAT_PEND → Gives .recordCommit s fun t =>
      t.on AGE_REC_STAT_COLL ∧
      t.age = s.age ∧
      t.sys = s.sys ∧
      t.fq = s.fq ∧
      Only s t [AGE_REC_STAT]) ∧
  (Gives .hourTick s fun t =>
      t.reg AGE_HOURS = (s.reg AGE_HOURS + 1) % 2 ^ 32 ∧
      t.fq = s.fq ∧
      Only s t [AGE_HOURS]) ∧
  (Gives .envLockSet s fun t =>
      t.on AGE_ENV_LOCK_LOCK ∧
      t.fq = s.fq ∧
      Only s t [AGE_ENV_LOCK]) ∧
  (s.on AGE_CFG_EN → s.standby = false → s.rd AGE_PLAN_STAT_STATE = 0 → Gives .planSubmit s fun t =>
      t.rd AGE_PLAN_STAT_STATE = 1 ∧
      (t.age.plan = (List.range 64).map (fun i => BitVec.ofNat 32 (s.reg (AGE_SHADOW i)))) ∧
      t.age.skipStep = false ∧
      t.fq = s.fq ∧
      Only s t [AGE_PLAN_STAT]) ∧
  (s.on AGE_CFG_EN → s.standby = false → s.rd AGE_PLAN_STAT_STATE ≠ 0 → Gives .planSubmit s fun t =>
      t.on AGE_PLAN_STAT_REFUSED ∧
      t.rd AGE_PLAN_STAT_WHY = 10 ∧
      t.rd AGE_PLAN_STAT_STATE = s.rd AGE_PLAN_STAT_STATE ∧
      t.age = s.age ∧
      Within s t [wAGE, wENG]) ∧
  ((s.on AGE_CFG_EN = false ∨ s.standby) → Gives .planSubmit s fun t =>
      t.on AGE_PLAN_STAT_REFUSED ∧
      t.rd AGE_PLAN_STAT_WHY = 9 ∧
      t.rd AGE_PLAN_STAT_STATE = s.rd AGE_PLAN_STAT_STATE ∧
      t.age = s.age ∧
      Within s t [wAGE, wENG]) ∧
  (∀ (y : Nat) (p : Nat),
    s.rd AGE_PLAN_STAT_STATE = 1 → s.asterRuns → s.planWhy s.age.plan = some (y, some p) → y < 16 → p < 32 → 
    Gives .planValidationDone s fun t =>
      t.rd AGE_PLAN_STAT_STATE = 0 ∧
      t.on AGE_PLAN_STAT_REFUSED ∧
      t.rd AGE_PLAN_STAT_WHY = y ∧
      t.rd AGE_PLAN_STAT_PARAM = p ∧
      t.age.plan = [] ∧
      Posted s t srcAGE 0 1 clsCONFIG 1 (y * 256 + p) ∧
      Within s t [wAGE, wENG]) ∧
  (∀ (y : Nat),
    s.rd AGE_PLAN_STAT_STATE = 1 → s.asterRuns → s.planWhy s.age.plan = some (y, none) → y < 16 → 
    Gives .planValidationDone s fun t =>
      t.rd AGE_PLAN_STAT_STATE = 0 ∧
      t.on AGE_PLAN_STAT_REFUSED ∧
      t.rd AGE_PLAN_STAT_WHY = y ∧
      t.age.plan = [] ∧
      Posted s t srcAGE 0 1 clsCONFIG 1 (y * 256 + t.rd AGE_PLAN_STAT_PARAM) ∧
      Within s t [wAGE, wENG]) ∧
  (s.rd AGE_PLAN_STAT_STATE = 1 → s.asterRuns → s.planWhy s.age.plan = none → 
    (s.on AGE_PLAN_STAT_INFORCE ∨ s.on LOOP_CYC_CFG_EN) → Gives .planValidationDone s fun t =>
      t.rd AGE_PLAN_STAT_STATE = 2 ∧
      t.on AGE_PLAN_STAT_ACCEPTED ∧
      t.age = s.age ∧
      t.fq = s.fq ∧
      Within s t [wAGE, wENG]) ∧
  ((s.rd AGE_PLAN_STAT_STATE ≠ 1 ∨ s.asterRuns = false) → Gives .planValidationDone s fun t =>
      t = s) ∧
  (s.rd AGE_PLAN_STAT_STATE = 2 → Gives .planCancel s fun t =>
      t.rd AGE_PLAN_STAT_STATE = 0 ∧
      t.age.plan = [] ∧
      t.fq = s.fq ∧
      Only s t [AGE_PLAN_STAT]) ∧
  (s.rd AGE_PLAN_STAT_STATE ≠ 2 → Gives .planCancel s fun t =>
      t = s)

/-! ### Security (chapter 16) -/

/-- A tamper input, a supply or clock glitch and a low temperature set their VIOL bit and post SECURITY at S1; a policy other than 0 locks the
vault and closes debug, one of 2 or more erases the keys, the helper data and the identity key; a challenge is issued, but only 1 s after
a failure; a right answer opens debug, a wrong one counts, and the third in a row is a violation (16_security.md R438 to R444). -/
def Obligations.SecurityViolations : Prop := ∀ s : State,
  (∀ (i : Fin 2), Gives (.tamper i) s fun t =>
      t.bitAt SEC_STAT_VIOL i ∧
      (s.rd (SEC_POLICY_POL i) ≠ 0 → t.on SEC_STAT_LOCKED ∧ t.on SEC_STAT_DBG_OPEN = false) ∧
      (s.rd (SEC_POLICY_POL i) = 0 → t.on SEC_STAT_LOCKED = s.on SEC_STAT_LOCKED ∧ t.on SEC_STAT_DBG_OPEN = s.on SEC_STAT_DBG_OPEN) ∧
      (2 ≤ s.rd (SEC_POLICY_POL i) → t.sec.keys = [] ∧ t.sec.helper = false ∧ t.sec.idKey = none ∧ t.on SEC_STAT_ERASED ∧ t.rd SEC_VAULT_STAT_PUF = 0) ∧
      (s.rd (SEC_POLICY_POL i) < 2 → Posted s t srcSEC 0 1 clsSECURITY 1 i ∧ t.sec = s.sec ∧ t.sys = s.sys) ∧
      Within s t [wSEC, wNVC]) ∧
  (∀ (i : Fin 3), Gives (.vglitch i) s fun t =>
      t.bitAt SEC_STAT_VIOL 2 ∧
      (s.rd (SEC_POLICY_POL 2) ≠ 0 → t.on SEC_STAT_LOCKED ∧ t.on SEC_STAT_DBG_OPEN = false) ∧
      (s.rd (SEC_POLICY_POL 2) = 0 → t.on SEC_STAT_LOCKED = s.on SEC_STAT_LOCKED ∧ t.on SEC_STAT_DBG_OPEN = s.on SEC_STAT_DBG_OPEN) ∧
      (2 ≤ s.rd (SEC_POLICY_POL 2) → t.sec.keys = [] ∧ t.sec.helper = false ∧ t.sec.idKey = none ∧ t.on SEC_STAT_ERASED ∧ t.rd SEC_VAULT_STAT_PUF = 0) ∧
      (s.rd (SEC_POLICY_POL 2) < 2 → Posted s t srcSEC 0 2 clsSECURITY 1 i ∧ t.sec = s.sec ∧ t.sys = s.sys) ∧
      Within s t [wSEC, wNVC]) ∧
  (∀ (i : Fin 2), Gives (.cglitch i) s fun t =>
      t.bitAt SEC_STAT_VIOL 3 ∧
      (s.rd (SEC_POLICY_POL 3) ≠ 0 → t.on SEC_STAT_LOCKED ∧ t.on SEC_STAT_DBG_OPEN = false) ∧
      (s.rd (SEC_POLICY_POL 3) = 0 → t.on SEC_STAT_LOCKED = s.on SEC_STAT_LOCKED ∧ t.on SEC_STAT_DBG_OPEN = s.on SEC_STAT_DBG_OPEN) ∧
      (2 ≤ s.rd (SEC_POLICY_POL 3) → t.sec.keys = [] ∧ t.sec.helper = false ∧ t.sec.idKey = none ∧ t.on SEC_STAT_ERASED ∧ t.rd SEC_VAULT_STAT_PUF = 0) ∧
      (s.rd (SEC_POLICY_POL 3) < 2 → Posted s t srcSEC 0 3 clsSECURITY 1 i ∧ t.sec = s.sec ∧ t.sys = s.sys) ∧
      Within s t [wSEC, wNVC]) ∧
  (Gives .lowtemp s fun t =>
      t.bitAt SEC_STAT_VIOL 4 ∧
      (s.rd (SEC_POLICY_POL 4) ≠ 0 → t.on SEC_STAT_LOCKED ∧ t.on SEC_STAT_DBG_OPEN = false) ∧
      (s.rd (SEC_POLICY_POL 4) = 0 → t.on SEC_STAT_LOCKED = s.on SEC_STAT_LOCKED ∧ t.on SEC_STAT_DBG_OPEN = s.on SEC_STAT_DBG_OPEN) ∧
      (2 ≤ s.rd (SEC_POLICY_POL 4) → t.sec.keys = [] ∧ t.sec.helper = false ∧ t.sec.idKey = none ∧ t.on SEC_STAT_ERASED ∧ t.rd SEC_VAULT_STAT_PUF = 0) ∧
      (s.rd (SEC_POLICY_POL 4) < 2 → Posted s t srcSEC 0 4 clsSECURITY 1 0 ∧ t.sec = s.sec ∧ t.sys = s.sys) ∧
      Within s t [wSEC, wNVC]) ∧
  (s.sec.failAt = none → Gives .debugChallengeRead s fun t =>
      t.sec.chal.isSome ∧
      t.fq = s.fq ∧
      Only s t []) ∧
  (∀ (f : Nat), s.sec.failAt = some f → 1000000000 ≤ s.ns - f → Gives .debugChallengeRead s fun t =>
      t.sec.chal.isSome ∧
      t.fq = s.fq ∧
      Only s t []) ∧
  (∀ (f : Nat), s.sec.failAt = some f → s.ns < f + 1000000000 → Gives .debugChallengeRead s fun t =>
      t = s) ∧
  (s.sec.chal.isSome → s.on SEC_FUSE_DBG_KEY → s.on SEC_STAT_LOCKED = false → Gives (.debugAuthResponse true true) s fun t =>
      t.on SEC_STAT_DBG_OPEN ∧
      t.rd SEC_DBG_FAILS = 0 ∧
      t.sec.chal = none ∧
      t.sec.failAt = none ∧
      t.fq = s.fq ∧
      Within s t [wSEC]) ∧
  (∀ (k g : Bool),
    s.sec.chal.isSome → (k = false ∨ g = false ∨ s.on SEC_FUSE_DBG_KEY = false ∨ s.on SEC_STAT_LOCKED) → s.rd SEC_DBG_FAILS < 2 → 
    Gives (.debugAuthResponse k g) s fun t =>
      t.on SEC_STAT_DBG_OPEN = s.on SEC_STAT_DBG_OPEN ∧
      t.rd SEC_DBG_FAILS = s.rd SEC_DBG_FAILS + 1 ∧
      t.sec.chal = none ∧
      t.sec.failAt = some s.ns ∧
      t.fq = s.fq ∧
      Within s t [wSEC]) ∧
  (∀ (k g : Bool),
    s.sec.chal.isSome → (k = false ∨ g = false ∨ s.on SEC_FUSE_DBG_KEY = false ∨ s.on SEC_STAT_LOCKED) → 2 ≤ s.rd SEC_DBG_FAILS → 
    Gives (.debugAuthResponse k g) s fun t =>
      t.rd SEC_DBG_FAILS = 0 ∧
      t.bitAt SEC_STAT_VIOL 5 ∧
      t.sec.chal = none ∧
      t.sec.failAt = some s.ns ∧
      (s.rd (SEC_POLICY_POL 5) < 2 → Posted s t srcSEC 0 5 clsSECURITY 1 (s.sec.fails + 1)) ∧
      Within s t [wSEC, wNVC]) ∧
  (∀ (k g : Bool), s.sec.chal = none → Gives (.debugAuthResponse k g) s fun t =>
      t = s)

/-- A vault command of an Aster engine in privileged mode that the state of the vault allows sets BUSY, one that it does not sets REFUSED with
a fault, one of any other master is LOCKED; when it completes, BUSY clears, DONE sets and it has its effect; a burn in READY whose
conditions hold sets BUSY and raises FLOOR or revokes its slot when it ends (16_security.md R433 to R445). -/
def Obligations.VaultAndFuses : Prop := ∀ s : State,
  (∀ (m : Master), s.asterPriv m → s.vaultAccepts 1 → Gives (.vaultEnrol m) s fun t =>
      t.on SEC_VAULT_STAT_BUSY ∧
      t.sec = { s.sec with cmd := some (1, 0) } ∧
      t.fq = s.fq ∧
      Only s t [SEC_VAULT_STAT]) ∧
  (∀ (m : Master), s.asterPriv m → s.vaultAccepts 1 = false → Gives (.vaultEnrol m) s fun t =>
      t.on SEC_VAULT_STAT_REFUSED ∧
      Posted s t srcSEC 0 9 clsSECURITY 1 1 ∧
      t.sec = s.sec ∧
      Only s t [SEC_VAULT_STAT]) ∧
  (∀ (m : Master), s.asterPriv m = false → Gives (.vaultEnrol m) s fun t =>
      Posted s t srcSEC 0 0xF0 clsCONFIG 1 SEC_VAULT_CTL ∧
      t.sec = s.sec ∧
      Only s t []) ∧
  (∀ (m : Master) (k : Fin 16), s.asterPriv m → s.vaultAccepts 2 → Gives (.vaultImport m k) s fun t =>
      t.on SEC_VAULT_STAT_BUSY ∧
      t.sec = { s.sec with cmd := some (2, k.val) } ∧
      t.fq = s.fq ∧
      Only s t [SEC_VAULT_STAT]) ∧
  (∀ (m : Master) (k : Fin 16), s.asterPriv m → s.vaultAccepts 2 = false → Gives (.vaultImport m k) s fun t =>
      t.on SEC_VAULT_STAT_REFUSED ∧
      Posted s t srcSEC 0 9 clsSECURITY 1 2 ∧
      t.sec = s.sec ∧
      Only s t [SEC_VAULT_STAT]) ∧
  (∀ (m : Master) (k : Fin 16), s.asterPriv m = false → Gives (.vaultImport m k) s fun t =>
      Posted s t srcSEC 0 0xF0 clsCONFIG 1 SEC_VAULT_CTL ∧
      t.sec = s.sec ∧
      Only s t []) ∧
  (∀ (m : Master) (k : Fin 16), s.asterPriv m → s.vaultAccepts 3 → Gives (.vaultClear m k) s fun t =>
      t.on SEC_VAULT_STAT_BUSY ∧
      t.sec = { s.sec with cmd := some (3, k.val) } ∧
      t.fq = s.fq ∧
      Only s t [SEC_VAULT_STAT]) ∧
  (∀ (m : Master) (k : Fin 16), s.asterPriv m → s.vaultAccepts 3 = false → Gives (.vaultClear m k) s fun t =>
      t.on SEC_VAULT_STAT_REFUSED ∧
      Posted s t srcSEC 0 9 clsSECURITY 1 3 ∧
      t.sec = s.sec ∧
      Only s t [SEC_VAULT_STAT]) ∧
  (∀ (m : Master) (k : Fin 16), s.asterPriv m = false → Gives (.vaultClear m k) s fun t =>
      Posted s t srcSEC 0 0xF0 clsCONFIG 1 SEC_VAULT_CTL ∧
      t.sec = s.sec ∧
      Only s t []) ∧
  (∀ (m : Master), s.asterPriv m → s.vaultAccepts 4 → Gives (.vaultGenId m) s fun t =>
      t.on SEC_VAULT_STAT_BUSY ∧
      t.sec = { s.sec with cmd := some (4, 0) } ∧
      t.fq = s.fq ∧
      Only s t [SEC_VAULT_STAT]) ∧
  (∀ (m : Master), s.asterPriv m → s.vaultAccepts 4 = false → Gives (.vaultGenId m) s fun t =>
      t.on SEC_VAULT_STAT_REFUSED ∧
      Posted s t srcSEC 0 9 clsSECURITY 1 4 ∧
      t.sec = s.sec ∧
      Only s t [SEC_VAULT_STAT]) ∧
  (∀ (m : Master), s.asterPriv m = false → Gives (.vaultGenId m) s fun t =>
      Posted s t srcSEC 0 0xF0 clsCONFIG 1 SEC_VAULT_CTL ∧
      t.sec = s.sec ∧
      Only s t []) ∧
  (∀ (m : Master), s.asterPriv m → s.vaultAccepts 5 → Gives (.vaultSign m) s fun t =>
      t.on SEC_VAULT_STAT_BUSY ∧
      t.sec = { s.sec with cmd := some (5, 0) } ∧
      t.fq = s.fq ∧
      Only s t [SEC_VAULT_STAT]) ∧
  (∀ (m : Master), s.asterPriv m → s.vaultAccepts 5 = false → Gives (.vaultSign m) s fun t =>
      t.on SEC_VAULT_STAT_REFUSED ∧
      Posted s t srcSEC 0 9 clsSECURITY 1 5 ∧
      t.sec = s.sec ∧
      Only s t [SEC_VAULT_STAT]) ∧
  (∀ (m : Master), s.asterPriv m = false → Gives (.vaultSign m) s fun t =>
      Posted s t srcSEC 0 0xF0 clsCONFIG 1 SEC_VAULT_CTL ∧
      t.sec = s.sec ∧
      Only s t []) ∧
  (∀ (k : Nat), s.sec.cmd = some (1, k) → Gives .vaultCommandDone s fun t =>
      t.on SEC_VAULT_STAT_BUSY = false ∧
      t.on SEC_VAULT_STAT_DONE ∧
      t.sec.cmd = none ∧
      t.sec.helper ∧
      t.sec.keys = [] ∧
      t.sec.idKey = none ∧
      t.rd SEC_VAULT_STAT_PUF = 2 ∧
      t.on SEC_STAT_ERASED = false ∧
      t.fq = s.fq ∧
      Within s t [wSEC, wNVC]) ∧
  (∀ (k : Nat), s.sec.cmd = some (2, k) → Gives .vaultCommandDone s fun t =>
      t.on SEC_VAULT_STAT_BUSY = false ∧
      t.on SEC_VAULT_STAT_DONE ∧
      t.sec.cmd = none ∧
      (t.sec.keys = Tbl.put k ((List.range 8).map fun j => BitVec.ofNat 32 (s.reg (SEC_KEY_IN j))) s.sec.keys) ∧
      (∀ j : Fin 8, t.reg (SEC_KEY_IN j) = 0) ∧
      t.sec.helper = s.sec.helper ∧
      t.fq = s.fq ∧
      Within s t [wSEC, wNVC]) ∧
  (∀ (k : Nat), s.sec.cmd = some (3, k) → Gives .vaultCommandDone s fun t =>
      t.on SEC_VAULT_STAT_BUSY = false ∧
      t.on SEC_VAULT_STAT_DONE ∧
      t.sec.cmd = none ∧
      t.sec.keys = Tbl.drop k s.sec.keys ∧
      t.sec.helper = s.sec.helper ∧
      t.sec.idKey = s.sec.idKey ∧
      t.fq = s.fq ∧
      Within s t [wSEC, wNVC]) ∧
  (∀ (k : Nat), s.sec.cmd = some (4, k) → Gives .vaultCommandDone s fun t =>
      t.on SEC_VAULT_STAT_BUSY = false ∧
      t.on SEC_VAULT_STAT_DONE ∧
      t.sec.cmd = none ∧
      t.sec.idKey.isSome ∧
      t.rd SEC_VAULT_STAT_ID = 1 ∧
      t.sec.keys = s.sec.keys ∧
      t.fq = s.fq ∧
      Within s t [wSEC, wNVC]) ∧
  (∀ (k : Nat), s.sec.cmd = some (5, k) → Gives .vaultCommandDone s fun t =>
      t.on SEC_VAULT_STAT_BUSY = false ∧
      t.on SEC_VAULT_STAT_DONE ∧
      t.sec.cmd = none ∧
      t.sec.idKey = s.sec.idKey ∧
      t.sec.keys = s.sec.keys ∧
      t.sys = s.sys ∧
      t.fq = s.fq ∧
      Within s t [wSEC]) ∧
  (s.sec.cmd = none → Gives .vaultCommandDone s fun t =>
      t = s) ∧
  (∀ (m : Master), s.burnOk m none → Gives (.rollbackBurn m) s fun t =>
      t.on SEC_FUSE_STAT_BUSY ∧
      t.sec.burn = some none ∧
      t.fq = s.fq ∧
      Only s t [SEC_FUSE_STAT]) ∧
  (∀ (m : Master), s.burnOk m none = false → Gives (.rollbackBurn m) s fun t =>
      t.sec = s.sec ∧
      (Posted s t srcSEC 0 (if s.asterPriv m then 0xF1 else 0xF0) clsCONFIG 1 SEC_ROLLBACK) ∧
      Only s t []) ∧
  (∀ (m : Master) (k : Fin 4), s.burnOk m (some k) → Gives (.revokeBurn m k) s fun t =>
      t.on SEC_FUSE_STAT_BUSY ∧
      t.sec.burn = some (some k.val) ∧
      t.rd SEC_REVOKE_SLOT = k.val ∧
      t.fq = s.fq ∧
      Only s t [SEC_FUSE_STAT, SEC_REVOKE]) ∧
  (∀ (m : Master) (k : Fin 4), s.burnOk m (some k) = false → Gives (.revokeBurn m k) s fun t =>
      t.sec = s.sec ∧
      (Posted s t srcSEC 0 (if s.asterPriv m then 0xF1 else 0xF0) clsCONFIG 1 SEC_REVOKE) ∧
      Only s t []) ∧
  (s.sec.burn = some none → s.rd SEC_FUSE_FLOOR < 32 → Gives .fuseBurnDone s fun t =>
      t.rd SEC_FUSE_FLOOR = s.rd SEC_FUSE_FLOOR + 1 ∧
      t.on SEC_FUSE_STAT_BUSY = false ∧
      t.sec.burn = none ∧
      t.fq = s.fq ∧
      Only s t [SEC_FUSE, SEC_FUSE_STAT]) ∧
  (∀ (k : Fin 4), s.sec.burn = some (some k.val) → Gives .fuseBurnDone s fun t =>
      t.bitAt SEC_FUSE_REVOKED k ∧
      t.rd SEC_FUSE_FLOOR = s.rd SEC_FUSE_FLOOR ∧
      t.on SEC_FUSE_STAT_BUSY = false ∧
      t.sec.burn = none ∧
      t.fq = s.fq ∧
      Only s t [SEC_FUSE, SEC_FUSE_STAT]) ∧
  (s.sec.burn = none → Gives .fuseBurnDone s fun t =>
      t = s)

/-! ### Register accesses (chapter 00) -/

/-- A write of an RW field sets it, of a W1C field clears the bits written 1, of an RO field is ignored; one that would change an RWS field in
RUN posts LOCKED_WRITE, a reserved value posts RESERVED_VALUE, an address that names no register, or no aligned word, posts a CONFIG fault
at S0, and none of these changes a register; a register of a number that names no cell ignores the write; a write by a master that reaches
no register, outside the register space, or at a block in reset changes nothing (00_scope.md R10 to R13). -/
def Obligations.RegisterWrites : Prop := ∀ s : State,
  (∀ (m : Master) (i : Fin 64) (v : BitVec 32),
    s.masterOn m → s.on RST_BLK_STAT_BUSY = false → Gives (.registerWrite m (BitVec.ofNat 32 (AGE_SHADOW i)) v) s fun t =>
      t.reg (AGE_SHADOW i) = v.toNat ∧
      t.fq = s.fq ∧
      Only s t [AGE_SHADOW i]) ∧
  (∀ (m : Master) (v : BitVec 32),
    s.masterOn m → s.on RST_BLK_STAT_BUSY = false → Gives (.registerWrite m (BitVec.ofNat 32 HOST_DB_STAT) v) s fun t =>
      t.rd HOST_DB_STAT_PEND = Nat.land (s.rd HOST_DB_STAT_PEND) (255 - v.toNat % 256) ∧
      t.fq = s.fq ∧
      Only s t [HOST_DB_STAT]) ∧
  (∀ (m : Master) (v : BitVec 32),
    s.masterOn m → s.on RST_BLK_STAT_BUSY = false → Gives (.registerWrite m (BitVec.ofNat 32 LOOP_FRAME_NUM) v) s fun t =>
      Only s t [] ∧
      t.fq = s.fq) ∧
  (∀ (m : Master) (v : BitVec 32),
    s.masterOn m → s.on RST_BLK_STAT_BUSY = false → s.inRun → s.rd SADL_CFG_EN ≠ v.toNat % 2 → 
    Gives (.registerWrite m (BitVec.ofNat 32 SADL_CFG) v) s fun t =>
      Only s t [] ∧
      Posted s t srcSADL 0 0xF0 clsCONFIG 1 SADL_CFG) ∧
  (∀ (m : Master) (v : BitVec 32),
    s.masterOn m → s.on RST_BLK_STAT_BUSY = false → 6 ≤ v.toNat / 8192 % 8 → 
    Gives (.registerWrite m (BitVec.ofNat 32 FLT_ACK) v) s fun t =>
      Only s t [] ∧
      Posted s t srcFLT 0xFF 0xF1 clsCONFIG 1 FLT_ACK) ∧
  (∀ (m : Master) (a v : BitVec 32),
    s.masterOn m → s.on RST_BLK_STAT_BUSY = false → a.toNat % 4 = 0 → inRegs a.toNat → regOf a.toNat = none → 
    Gives (.registerWrite m a v) s fun t =>
      Only s t [] ∧
      Posted s t (srcAt a.toNat).1 (srcAt a.toNat).2 0xF2 clsCONFIG 0 a.toNat) ∧
  (∀ (m : Master) (a v : BitVec 32),
    s.masterOn m → s.on RST_BLK_STAT_BUSY = false → a.toNat % 4 ≠ 0 → inRegs a.toNat → Gives (.registerWrite m a v) s fun t =>
      Only s t [] ∧
      Posted s t (srcAt a.toNat).1 (srcAt a.toNat).2 0xF2 clsCONFIG 0 a.toNat) ∧
  (∀ (m : Master) (a v : BitVec 32),
    a.toNat % 4 = 0 → (regOf a.toNat).isSome → s.regAbsent a.toNat → Gives (.registerWrite m a v) s fun t =>
      t = s) ∧
  (∀ (m : Master) (a v : BitVec 32),
    (s.masterOn m = false ∨ inRegs a.toNat = false ∨ s.blkError a.toNat) → Gives (.registerWrite m a v) s fun t =>
      t = s)

/-! ### Ethernet (chapter 11) -/

/-- With the timebase locked and an Aster engine running, a link of an enabled port comes up when the partner offers 1000 Mbit/s full duplex;
it goes down; a TAIL that names a descriptor and takes none from the port is stored, any other refused; a frame with a bad FCS, without a
descriptor, too long, or without its MACsec tag in strict mode is counted and dropped, a good one goes with its length and stamp to the
next owned descriptor, or to the other port; a response to the outstanding Pdelay_Req gives the delay; a frame sent returns its
descriptor, with status 1 when no key protects it and status 2 when an insertion was asked of no PTP message, a forwarded one leaves its
queue; an exchange without response counts PD_TO; on a port or link that does not run each does nothing
(11_clocks_timebase_network_time.md R327 to R336). -/
def Obligations.EthernetPorts : Prop := ∀ s : State,
  (∀ (p : Fin 2) (k : Bool), s.ethRuns → s.on (ETH_CTL_EN p) → (k ∨ s.on (ETH_CTL_AN_EN p) = false) → Gives (.ethLinkUp p k) s fun t =>
      t.on (ETH_STAT_LINK p) ∧
      t.on (ETH_STAT_PCS_SYNC p) ∧
      t.on (ETH_STAT_AN_DONE p) = s.on (ETH_CTL_AN_EN p) ∧
      t.on (ETH_STAT_SPEED_ERR p) = false ∧
      t.fq = s.fq ∧
      Only s t [ETH_STAT p]) ∧
  (∀ (p : Fin 2), s.ethRuns → s.on (ETH_CTL_EN p) → s.on (ETH_CTL_AN_EN p) → Gives (.ethLinkUp p false) s fun t =>
      t.on (ETH_STAT_LINK p) = false ∧
      t.on (ETH_STAT_SPEED_ERR p) ∧
      t.on (ETH_STAT_PCS_SYNC p) ∧
      t.fq = s.fq ∧
      Only s t [ETH_STAT p]) ∧
  (∀ (p : Fin 2) (k : Bool), (s.ethRuns = false ∨ s.on (ETH_CTL_EN p) = false) → Gives (.ethLinkUp p k) s fun t =>
      t = s) ∧
  (∀ (p : Fin 2), Gives (.ethLinkDown p) s fun t =>
      t.on (ETH_STAT_LINK p) = false ∧
      t.on (ETH_STAT_AN_DONE p) = false ∧
      t.on (ETH_STAT_PCS_SYNC p) = false ∧
      t.on (ETH_STAT_SPEED_ERR p) = s.on (ETH_STAT_SPEED_ERR p) ∧
      t.fq = s.fq ∧
      Only s t [ETH_STAT p]) ∧
  (∀ (p : Fin 2) (v : BitVec 8),
    v.toNat < s.rd (ETH_TXR_LEN_LEN p) → 
    (s.rd (ETH_TX_TAIL_TAIL p) + s.rd (ETH_TXR_LEN_LEN p) - s.rd (ETH_TX_HEAD_HEAD p)) % s.rd (ETH_TXR_LEN_LEN p) ≤ (v.toNat + s.rd (ETH_TXR_LEN_LEN p) - s.rd (ETH_TX_HEAD_HEAD p)) % s.rd (ETH_TXR_LEN_LEN p) → 
    Gives (.ethTxTailWrite p v) s fun t =>
      t.rd (ETH_TX_TAIL_TAIL p) = v.toNat ∧
      t.fq = s.fq ∧
      Only s t [ETH_TX_TAIL p]) ∧
  (∀ (p : Fin 2) (v : BitVec 8),
    
    (s.rd (ETH_TXR_LEN_LEN p) ≤ v.toNat ∨ ¬ (s.rd (ETH_TX_TAIL_TAIL p) + s.rd (ETH_TXR_LEN_LEN p) - s.rd (ETH_TX_HEAD_HEAD p)) % s.rd (ETH_TXR_LEN_LEN p) ≤ (v.toNat + s.rd (ETH_TXR_LEN_LEN p) - s.rd (ETH_TX_HEAD_HEAD p)) % s.rd (ETH_TXR_LEN_LEN p)) → 
    Gives (.ethTxTailWrite p v) s fun t =>
      Posted s t srcETH p 0xF1 clsCONFIG 1 (ETH_TX_TAIL p) ∧
      Only s t []) ∧
  (∀ (p : Fin 2) (v : BitVec 8),
    v.toNat < s.rd (ETH_RXR_LEN_LEN p) → 
    (s.rd (ETH_RX_TAIL_TAIL p) + s.rd (ETH_RXR_LEN_LEN p) - s.rd (ETH_RX_HEAD_HEAD p)) % s.rd (ETH_RXR_LEN_LEN p) ≤ (v.toNat + s.rd (ETH_RXR_LEN_LEN p) - s.rd (ETH_RX_HEAD_HEAD p)) % s.rd (ETH_RXR_LEN_LEN p) → 
    Gives (.ethRxTailWrite p v) s fun t =>
      t.rd (ETH_RX_TAIL_TAIL p) = v.toNat ∧
      t.fq = s.fq ∧
      Only s t [ETH_RX_TAIL p]) ∧
  (∀ (p : Fin 2) (v : BitVec 8),
    
    (s.rd (ETH_RXR_LEN_LEN p) ≤ v.toNat ∨ ¬ (s.rd (ETH_RX_TAIL_TAIL p) + s.rd (ETH_RXR_LEN_LEN p) - s.rd (ETH_RX_HEAD_HEAD p)) % s.rd (ETH_RXR_LEN_LEN p) ≤ (v.toNat + s.rd (ETH_RXR_LEN_LEN p) - s.rd (ETH_RX_HEAD_HEAD p)) % s.rd (ETH_RXR_LEN_LEN p)) → 
    Gives (.ethRxTailWrite p v) s fun t =>
      Posted s t srcETH p 0xF1 clsCONFIG 1 (ETH_RX_TAIL p) ∧
      Only s t []) ∧
  (∀ (p : Fin 2) (q : Nat) (g : Option SecTag) (f : List (BitVec 8)) (k : Bool),
    (s.ethRuns = false ∨ s.on (ETH_CTL_EN p) = false ∨ s.on (ETH_STAT_LINK p) = false) → 
    Gives (.ethFrameReceived p q k g f) s fun t =>
      t = s) ∧
  (∀ (p : Fin 2) (q : Nat) (g : Option SecTag) (f : List (BitVec 8)),
    s.ethRuns → s.on (ETH_CTL_EN p) → s.on (ETH_STAT_LINK p) → Gives (.ethFrameReceived p q false g f) s fun t =>
      t.rd (ETH_CNT_FCS_ERR p) = min (s.rd (ETH_CNT_FCS_ERR p) + 1) 65535 ∧
      t.fq = s.fq ∧
      Only s t [ETH_CNT p]) ∧
  (∀ (p : Fin 2) (q : Nat) (g : Option SecTag) (f : List (BitVec 8)),
    s.ethRuns → s.on (ETH_CTL_EN p) → s.on (ETH_STAT_LINK p) → 
    (s.on (ETH_MS_CTL_EN p) = false ∨ s.rd (ETH_MS_CTL_VALIDATE p) = 0) → s.on (ETH_CTL_FWD p) = false → ptpAt f = none → 
    (s.rxOwned p = 0 ∨ 1536 < f.length) → Gives (.ethFrameReceived p q true g f) s fun t =>
      t.rd (ETH_CNT_RX_DROP p) = min (s.rd (ETH_CNT_RX_DROP p) + 1) 65535 ∧
      t.fq = s.fq ∧
      Only s t [ETH_CNT p]) ∧
  (∀ (p : Fin 2) (q : Nat) (g : Option SecTag) (f : List (BitVec 8)) (b : Nat),
    s.ethRuns → s.on (ETH_CTL_EN p) → s.on (ETH_STAT_LINK p) → 
    (s.on (ETH_MS_CTL_EN p) = false ∨ s.rd (ETH_MS_CTL_VALIDATE p) = 0) → s.on (ETH_CTL_FWD p) = false → ptpAt f = none → 
    s.rxOwned p ≠ 0 → 14 ≤ f.length → f.length ≤ 1536 → inSram (s.rxDesc p + 15) → s.load (s.rxDesc p) 4 = b → 
    inSram (b + f.length) → (b + f.length ≤ s.rxDesc p ∨ s.rxDesc p + 16 ≤ b) → Gives (.ethFrameReceived p q true g f) s fun t =>
      t.load (s.rxDesc p + 4) 4 = f.length ∧
      (s.on PTP_CFG_EN → s.on (ETH_CTL_TS_APPLY p) = false → t.load (s.rxDesc p + 8) 4 = q / 4 % 1000000000 + q % 4 * 2 ^ 30 ∧ t.load (s.rxDesc p + 12) 4 = q / 4 / 1000000000 % 2 ^ 32) ∧
      t.rd (ETH_RX_HEAD_HEAD p) = (s.rd (ETH_RX_HEAD_HEAD p) + 1) % s.rd (ETH_RXR_LEN_LEN p) ∧
      t.bytes b f.length = f ∧
      (s.on (ETH_CTL_IRQ_EN p) → t.bitAt (ENG_IRQ_PEND_PEND 16) 12 ∧ t.bitAt (ENG_IRQ_PEND_PEND 19) 12) ∧
      t.fq = s.fq ∧
      RegsIn s t [(ETH_RX_HEAD p, 4), wENG] ∧
      StoresIn s t [(b, f.length), (s.rxDesc p + 4, 12)]) ∧
  (∀ (p : Fin 2) (q : Nat) (g : Option SecTag) (f : List (BitVec 8)) (b : Nat) (h : SecTag) (r : Nat),
    s.ethRuns → s.on (ETH_CTL_EN p) → s.on (ETH_STAT_LINK p) → s.on (ETH_MS_CTL_EN p) → s.rd (ETH_MS_CTL_VALIDATE p) ≠ 0 → 
    s.on (ETH_CTL_FWD p) = false → ptpAt f = none → g = some h → s.rxSc p h = some r → (s.reg (ETH_SA p r h.an)).testBit 4 → 
    s.reg (ETH_LPN p r h.an) ≤ h.pn.toNat → h.good → s.keyed (s.reg (ETH_SA p r h.an) % 16) → s.rxOwned p ≠ 0 → 14 ≤ f.length → 
    f.length ≤ 1536 → inSram (s.rxDesc p + 15) → s.load (s.rxDesc p) 4 = b → inSram (b + f.length) → 
    (b + f.length ≤ s.rxDesc p ∨ s.rxDesc p + 16 ≤ b) → Gives (.ethFrameReceived p q true g f) s fun t =>
      t.load (s.rxDesc p + 4) 4 = f.length + 2 ^ 18 ∧
      t.reg (ETH_LPN p r h.an) = min (2 ^ 32 - 1) (max (s.reg (ETH_LPN p r h.an)) (h.pn.toNat + 1 - s.reg (ETH_MS_WIN p))) ∧
      t.rd (ETH_RX_HEAD_HEAD p) = (s.rd (ETH_RX_HEAD_HEAD p) + 1) % s.rd (ETH_RXR_LEN_LEN p) ∧
      t.bytes b f.length = f ∧
      (s.on (ETH_CTL_IRQ_EN p) → t.bitAt (ENG_IRQ_PEND_PEND 16) 12 ∧ t.bitAt (ENG_IRQ_PEND_PEND 19) 12) ∧
      t.fq = s.fq ∧
      RegsIn s t [(ETH_RX_HEAD p, 4), (ETH_LPN p r h.an, 4), wENG] ∧
      StoresIn s t [(b, f.length), (s.rxDesc p + 4, 12)]) ∧
  (∀ (p : Fin 2) (q : Nat) (f : List (BitVec 8)),
    s.ethRuns → s.on (ETH_CTL_EN p) → s.on (ETH_STAT_LINK p) → s.on (ETH_MS_CTL_EN p) → s.rd (ETH_MS_CTL_VALIDATE p) = 2 → 
    Gives (.ethFrameReceived p q true none f) s fun t =>
      t.rd (ETH_MS_CNT_BAD p) = min (s.rd (ETH_MS_CNT_BAD p) + 1) 65535 ∧
      t.fq = s.fq ∧
      Only s t [ETH_MS_CNT p]) ∧
  (∀ (p : Fin 2) (q : Nat) (h : SecTag) (f : List (BitVec 8)),
    s.ethRuns → s.on (ETH_CTL_EN p) → s.on (ETH_STAT_LINK p) → s.on (ETH_MS_CTL_EN p) → s.rd (ETH_MS_CTL_VALIDATE p) = 2 → 
    s.rxSc p h = none → Gives (.ethFrameReceived p q true (some h) f) s fun t =>
      t.rd (ETH_MS_CNT2_NOSA p) = min (s.rd (ETH_MS_CNT2_NOSA p) + 1) 65535 ∧
      t.fq = s.fq ∧
      Only s t [ETH_MS_CNT2 p]) ∧
  (∀ (p : Fin 2) (q : Nat) (h : SecTag) (f : List (BitVec 8)) (r : Nat),
    s.ethRuns → s.on (ETH_CTL_EN p) → s.on (ETH_STAT_LINK p) → s.on (ETH_MS_CTL_EN p) → s.rd (ETH_MS_CTL_VALIDATE p) ≠ 0 → 
    s.rxSc p h = some r → (s.reg (ETH_SA p r h.an)).testBit 4 → s.on (ETH_MS_CTL_REPLAY p) → 
    h.pn.toNat < s.reg (ETH_LPN p r h.an) → Gives (.ethFrameReceived p q true (some h) f) s fun t =>
      t.rd (ETH_MS_CNT_LATE p) = min (s.rd (ETH_MS_CNT_LATE p) + 1) 65535 ∧
      t.fq = s.fq ∧
      Only s t [ETH_MS_CNT p]) ∧
  (∀ (p : Fin 2) (q : Nat) (g : Option SecTag) (f : List (BitVec 8)),
    s.ethRuns → s.on (ETH_CTL_EN p) → s.on (ETH_STAT_LINK p) → s.on (ETH_MS_CTL_EN p) = false → s.on (ETH_CTL_FWD p) → 
    ptpAt f = none → ptpUdp f = false → fieldAt f 0 6 ≠ s.ethAddr p → fieldAt f 0 1 % 2 = 0 → 
    (((s.eth (1 - p)).fwd.map fun y => y.frame.length).sum + f.length ≤ 16384) → Gives (.ethFrameReceived p q true g f) s fun t =>
      (t.eth (1 - p)).fwd = (s.eth (1 - p)).fwd ++ [⟨f, s.ingress p q, s.rd (PTP_PDLY_USE_D p), false⟩] ∧
      t.eth p = s.eth p ∧
      t.rd (ETH_CNT2_FWD p) = min (s.rd (ETH_CNT2_FWD p) + 1) 65535 ∧
      t.fq = s.fq ∧
      Only s t [ETH_CNT2 p]) ∧
  (∀ (p : Fin 2) (q : Nat) (g : Option SecTag) (f : List (BitVec 8)),
    s.ethRuns → s.on (ETH_CTL_EN p) → s.on (ETH_STAT_LINK p) → s.on (ETH_MS_CTL_EN p) = false → s.on (ETH_CTL_FWD p) → 
    ptpAt f = none → ptpUdp f = false → fieldAt f 0 6 ≠ s.ethAddr p → fieldAt f 0 1 % 2 = 0 → 
    (16384 < ((s.eth (1 - p)).fwd.map fun y => y.frame.length).sum + f.length) → Gives (.ethFrameReceived p q true g f) s fun t =>
      t.rd (ETH_CNT2_FWD_DROP p) = min (s.rd (ETH_CNT2_FWD_DROP p) + 1) 65535 ∧
      t.eths = s.eths ∧
      t.fq = s.fq ∧
      Only s t [ETH_CNT2 p]) ∧
  (∀ (p : Fin 2) (q : Nat) (g : Option SecTag) (f : List (BitVec 8)) (x : PdReq) (n : Nat),
    s.ethRuns → s.on (ETH_CTL_EN p) → s.on (ETH_STAT_LINK p) → s.on (ETH_MS_CTL_EN p) = false → s.on (ETH_CTL_FWD p) = false → 
    s.on PTP_CFG_EN → s.rxOwned p = 0 → ptpAt f = some n → ptpType f = some 3 → ptpTwoStep f n = false → (s.eth p).pd = some x → 
    x.seq = ptpSeq f n → Gives (.ethFrameReceived p q true g f) s fun t =>
      t.rd (PTP_PDLY_D p) = ofInt 24 (satI 24 (((s.ingress p q - x.t1) * 4096 - ptpCorr f n + 4096) / 8192)) ∧
      t.on (PTP_PDLY_VALID p) ∧
      (t.eth p).pd = none ∧
      t.rd (PTP_PCNT_PD_DONE p) = min (s.rd (PTP_PCNT_PD_DONE p) + 1) 65535 ∧
      t.rd (ETH_CNT_RX_DROP p) = min (s.rd (ETH_CNT_RX_DROP p) + 1) 65535 ∧
      t.fq = s.fq ∧
      Only s t [PTP_PDLY p, PTP_PCNT p, ETH_CNT p]) ∧
  (∀ (p : Fin 2) (k : Bool) (q : Nat),
    (s.ethRuns = false ∨ s.on (ETH_CTL_EN p) = false ∨ s.on (ETH_STAT_LINK p) = false) → Gives (.ethFrameSent p k q) s fun t =>
      t = s) ∧
  (∀ (p : Fin 2) (q : Nat),
    s.ethRuns → s.on (ETH_CTL_EN p) → s.on (ETH_STAT_LINK p) → (s.eth p).fwd = [] → s.txOwned p ≠ 0 → inSram (s.txDesc p + 15) → 
    s.on (ETH_MS_CTL_EN p) = false → s.load (s.txDesc p + 4) 4 / 2 ^ 17 % 8 = 0 → Gives (.ethFrameSent p false q) s fun t =>
      t.rd (ETH_TX_HEAD_HEAD p) = (s.rd (ETH_TX_HEAD_HEAD p) + 1) % s.rd (ETH_TXR_LEN_LEN p) ∧
      (s.on (ETH_CTL_IRQ_EN p) → t.bitAt (ENG_IRQ_PEND_PEND 16) 12) ∧
      (t.eth p).last = s.bytes (s.load (s.txDesc p) 4) (s.load (s.txDesc p + 4) 4 % 2048) ∧
      (t.eth p).lastPn = none ∧
      t.load (s.txDesc p + 4) 4 / 2 ^ 28 = 0 ∧
      t.fq = s.fq ∧
      RegsIn s t [(ETH_TX_HEAD p, 4), wENG] ∧
      Stores s t (s.txDesc p + 4) 4) ∧
  (∀ (p : Fin 2) (q : Nat),
    s.ethRuns → s.on (ETH_CTL_EN p) → s.on (ETH_STAT_LINK p) → (s.eth p).fwd = [] → s.txOwned p ≠ 0 → inSram (s.txDesc p + 15) → 
    s.on (ETH_MS_CTL_EN p) = false → s.load (s.txDesc p + 4) 4 / 2 ^ 17 % 8 ≠ 0 → 
    (ptpAt (s.bytes (s.load (s.txDesc p) 4) (s.load (s.txDesc p + 4) 4 % 2048)) = none ∨ s.on PTP_CFG_EN = false) → 
    Gives (.ethFrameSent p false q) s fun t =>
      t.rd (ETH_TX_HEAD_HEAD p) = (s.rd (ETH_TX_HEAD_HEAD p) + 1) % s.rd (ETH_TXR_LEN_LEN p) ∧
      (s.on (ETH_CTL_IRQ_EN p) → t.bitAt (ENG_IRQ_PEND_PEND 16) 12) ∧
      (t.eth p).last = s.bytes (s.load (s.txDesc p) 4) (s.load (s.txDesc p + 4) 4 % 2048) ∧
      t.load (s.txDesc p + 4) 4 / 2 ^ 28 = 2 ∧
      t.fq = s.fq ∧
      RegsIn s t [(ETH_TX_HEAD p, 4), wENG] ∧
      Stores s t (s.txDesc p + 4) 4) ∧
  (∀ (p : Fin 2) (q : Nat),
    s.ethRuns → s.on (ETH_CTL_EN p) → s.on (ETH_STAT_LINK p) → (s.eth p).fwd = [] → s.txOwned p ≠ 0 → inSram (s.txDesc p + 15) → 
    s.on (ETH_MS_CTL_EN p) → 
    (s.on (ETH_MS_TXSA_EN p (s.rd (ETH_MS_CTL_TX_AN p))) && s.keyed (s.rd (ETH_MS_TXSA_KEY p (s.rd (ETH_MS_CTL_TX_AN p))))) = false → 
    Gives (.ethFrameSent p false q) s fun t =>
      t.rd (ETH_TX_HEAD_HEAD p) = (s.rd (ETH_TX_HEAD_HEAD p) + 1) % s.rd (ETH_TXR_LEN_LEN p) ∧
      (s.on (ETH_CTL_IRQ_EN p) → t.bitAt (ENG_IRQ_PEND_PEND 16) 12) ∧
      (t.eth p).last = (s.eth p).last ∧
      t.rd (ETH_MS_CNT2_NOSA p) = min (s.rd (ETH_MS_CNT2_NOSA p) + 1) 65535 ∧
      t.load (s.txDesc p + 4) 4 / 2 ^ 28 = 1 ∧
      t.fq = s.fq ∧
      RegsIn s t [(ETH_TX_HEAD p, 4), (ETH_MS_CNT2 p, 4), wENG] ∧
      Stores s t (s.txDesc p + 4) 4) ∧
  (∀ (p : Fin 2) (q n : Nat),
    s.ethRuns → s.on (ETH_CTL_EN p) → s.on (ETH_STAT_LINK p) → (s.eth p).fwd = [] → s.txOwned p ≠ 0 → inSram (s.txDesc p + 15) → 
    s.on (ETH_MS_CTL_EN p) → 
    (s.on (ETH_MS_TXSA_EN p (s.rd (ETH_MS_CTL_TX_AN p))) && s.keyed (s.rd (ETH_MS_TXSA_KEY p (s.rd (ETH_MS_CTL_TX_AN p))))) → 
    s.reg (ETH_MS_TXPN p (s.rd (ETH_MS_CTL_TX_AN p))) = n → n + 1 < 0xF0000000 → s.load (s.txDesc p + 4) 4 / 2 ^ 17 % 8 = 0 → 
    Gives (.ethFrameSent p false q) s fun t =>
      t.rd (ETH_TX_HEAD_HEAD p) = (s.rd (ETH_TX_HEAD_HEAD p) + 1) % s.rd (ETH_TXR_LEN_LEN p) ∧
      (s.on (ETH_CTL_IRQ_EN p) → t.bitAt (ENG_IRQ_PEND_PEND 16) 12) ∧
      (t.eth p).last = s.bytes (s.load (s.txDesc p) 4) (s.load (s.txDesc p + 4) 4 % 2048) ∧
      (t.eth p).lastPn = some n ∧
      t.reg (ETH_MS_TXPN p (s.rd (ETH_MS_CTL_TX_AN p))) = n + 1 ∧
      t.load (s.txDesc p + 4) 4 / 2 ^ 28 = 0 ∧
      t.fq = s.fq ∧
      RegsIn s t [(ETH_TX_HEAD p, 4), (ETH_MS_TXPN p (s.rd (ETH_MS_CTL_TX_AN p)), 4), wENG] ∧
      Stores s t (s.txDesc p + 4) 4) ∧
  (∀ (p : Fin 2) (q : Nat) (x : EthFwd),
    s.ethRuns → s.on (ETH_CTL_EN p) → s.on (ETH_STAT_LINK p) → (s.eth p).fwd = [x] → s.on (ETH_MS_CTL_EN p) = false → 
    ptpAt x.frame = none → Gives (.ethFrameSent p true q) s fun t =>
      (t.eth p).last = x.frame ∧
      (t.eth p).fwd = [] ∧
      t.fq = s.fq ∧
      Only s t []) ∧
  (∀ (p : Fin 2) (q n : Nat) (x : EthFwd),
    s.ethRuns → s.on (ETH_CTL_EN p) → s.on (ETH_STAT_LINK p) → (s.eth p).fwd = [x] → s.on (ETH_MS_CTL_EN p) = false → 
    ptpAt x.frame = some n → beAt x.frame n 1 % 16 = 0 → s.on PTP_CFG_EN → s.on PTP_CFG_TC_EN → s.on (ETH_CTL_FWD (1 - p)) → 
    s.rd PTP_CFG_TC_MODE = 0 → Gives (.ethFrameSent p true q) s fun t =>
      (t.eth p).last = ptpAddCorr x.frame n ((s.egress p q - x.t + (x.add : Nat)) * 4096) ∧
      (t.eth p).fwd = [] ∧
      t.rd PTP_CNT_TC_CORR = min (s.rd PTP_CNT_TC_CORR + 1) 65535 ∧
      t.fq = s.fq ∧
      Only s t [PTP_CNT]) ∧
  (∀ (p : Fin 2) (k : Bool) (q : Nat), (s.eth p).fwd = [] → (k ∨ s.txOwned p = 0) → Gives (.ethFrameSent p k q) s fun t =>
      t = s) ∧
  (∀ (p : Fin 2), s.ethRuns → (s.eth p).pd.isSome → Gives (.pdelayTimeout p) s fun t =>
      (t.eth p).pd = none ∧
      t.rd (PTP_PCNT_PD_TO p) = min (s.rd (PTP_PCNT_PD_TO p) + 1) 65535 ∧
      t.fq = s.fq ∧
      Only s t [PTP_PCNT p]) ∧
  (∀ (p : Fin 2), (s.ethRuns = false ∨ (s.eth p).pd = none) → Gives (.pdelayTimeout p) s fun t =>
      t = s)

/-! ### The redundant pair (chapter 12) -/

/-- A Saddle frame departs with its header and 8 slots of 88 bytes, the slot of an empty transmit queue with a failing SCRC, counted and
posted; the words of blocks 0 to 4 of a frame are its header: a good one is a heartbeat and shows the partner in P_ID, one with our own
DEVID posts a fault; a valid header of an ACTIVE partner takes LISTEN to STANDBY, one with a source that ranks higher demotes an ACTIVE
device; a slot with a bad SCRC or a reserved type counts; HEALTH, DIGEST, mirror, generator, MBOX and PLAN slots are kept as their types
say; without a heartbeat HB_OK clears, HB_LOSS counts and a fault is posted; with the pair OFF each does nothing (12_redundant_pair.md
R345 to R362). CFG.EN outside RUN takes the device to LISTEN without books, or to OFF, in RUN it is refused; TAKE of a LISTEN or STANDBY
device that hears no active partner makes it ACTIVE with an epoch above all it knows, which goes to the epoch record, any other sets
TAKE_REF with a fault; YIELD is offered by an ACTIVE device alone; the demotion hold ends (12_redundant_pair.md R353 to R360). -/
def Obligations.SaddleLink : Prop := ∀ s : State,
  (∀ (i : Fin 4), s.role ≠ 0 → s.laneSt (24 + i) = 4 → s.txBlock (24 + i) → Gives (.saddleFrameDepart i none) s fun t =>
      (t.lane (24 + i)).txHdr.length = 40 ∧
      hcrcOk (t.lane (24 + i)).txHdr ∧
      fieldAt (t.lane (24 + i)).txHdr 0 4 = s.frame % 2 ^ 32 ∧
      fieldAt (t.lane (24 + i)).txHdr 16 2 = s.rd SYS_DEV_ID_DEVID ∧
      fieldAt (t.lane (24 + i)).txHdr 18 4 = s.epochAt s.frame % 2 ^ 32 ∧
      fieldAt (t.lane (24 + i)).txHdr 24 1 % 4 = s.role ∧
      fieldAt (t.lane (24 + i)).txHdr 24 1 / 32 = s.dev ∧
      (t.lane (24 + i)).txSec.length = 8 ∧
      t.tb = max s.tb (ceilDiv (departure s.frame * 2 ^ 24) 1600) ∧
      (∀ j : Fin 8, ((t.lane (24 + i)).txSec[j]?).any (fun b => b.length == 88 && scrcOk b)) ∧
      t.fq = s.fq ∧
      (∀ l : Fin 28, l.val ≠ 24 + i → t.lane l = s.lane l) ∧
      Only s t [LOOP_FRAME_NUM]) ∧
  (∀ (i : Fin 4) (k : Fin 8), s.role ≠ 0 → s.laneSt (24 + i) = 4 → s.txBlock (24 + i) → Gives (.saddleFrameDepart i (some k)) s fun t =>
      (t.lane (24 + i)).txHdr.length = 40 ∧
      hcrcOk (t.lane (24 + i)).txHdr ∧
      fieldAt (t.lane (24 + i)).txHdr 0 4 = s.frame % 2 ^ 32 ∧
      fieldAt (t.lane (24 + i)).txHdr 16 2 = s.rd SYS_DEV_ID_DEVID ∧
      fieldAt (t.lane (24 + i)).txHdr 18 4 = s.epochAt s.frame % 2 ^ 32 ∧
      fieldAt (t.lane (24 + i)).txHdr 24 1 % 4 = s.role ∧
      fieldAt (t.lane (24 + i)).txHdr 24 1 / 32 = s.dev ∧
      (t.lane (24 + i)).txSec.length = 8 ∧
      t.tb = max s.tb (ceilDiv (departure s.frame * 2 ^ 24) 1600) ∧
      (∀ j : Fin 8, ((t.lane (24 + i)).txSec[j]?).any (fun b => b.length == 88 && scrcOk b == decide (j ≠ k))) ∧
      t.rd (LANE_ERRCNT_TXQ_UNDER (24 + i)) = min (s.rd (LANE_ERRCNT_TXQ_UNDER (24 + i)) + 1) 255 ∧
      Posted s t srcLANE (24 + i) 7 clsLINK 1 (24 + i) ∧
      (∀ l : Fin 28, l.val ≠ 24 + i → t.lane l = s.lane l) ∧
      Only s t [LOOP_FRAME_NUM, LANE_ERRCNT (24 + i), ENG_IRQ_PEND 16, ENG_IRQ_PEND 17, ENG_IRQ_PEND 18, ENG_IRQ_PEND 19]) ∧
  (∀ (i : Fin 4) (u : Option (Fin 8)),
    (s.role = 0 ∨ s.laneSt (24 + i) ≠ 4 ∨ s.txBlock (24 + i) = false) → Gives (.saddleFrameDepart i u) s fun t =>
      t = s) ∧
  (∀ (i : Fin 4) (h : List (BitVec 8)) (r : List (Nat × BitVec 64)) (a : Nat),
    takePart 0 5 (s.lane (24 + i)).rxq = (some h, r) → s.role ≠ 0 → hcrcOk h → fieldAt h 16 2 ≠ s.rd SYS_DEV_ID_DEVID → 
    Gives (.saddleHeaderReceived i a) s fun t =>
      t.on SADL_STAT_HB_OK ∧
      t.bitAt SADL_STAT_LANES i ∧
      t.pair.hbAge = 0 ∧
      t.pair.laneAge = s.pair.laneAge.set i 0 ∧
      t.pair.rx = s.pair.rx.set i (some (fieldAt h 0 4, a)) ∧
      t.rd SADL_P_ID_DEVID = fieldAt h 16 2 ∧
      t.rd SADL_P_ID_ROLE = fieldAt h 24 1 % 4 ∧
      t.rd SADL_P_ID_STATE = fieldAt h 24 1 / 32 ∧
      t.on SADL_P_ID_VALID ∧
      t.rd SADL_STAT_YIELD_RX = fieldAt h 24 1 / 4 % 2 ∧
      (t.lane (24 + i)).rxq = r ∧
      t.tb = max s.tb (a * 2 ^ 20) ∧
      (∀ l : Fin 28, l.val ≠ 24 + i → t.lane l = s.lane l) ∧
      t.reg SADL_P_EPOCH = max (s.reg SADL_P_EPOCH) (fieldAt h 18 4) ∧
      t.pair.sameId = false ∧
      ((fieldAt h 23 1).testBit 1 → t.pair.actAge = 0) ∧
      RegsIn s t [wSADL, wCELL, wAGE, wLOOP, wNVC, wCHAIN, wSYS, wENG, wPROT, wFLT, wLPWM, wPGEN] ∧
      SramOnly s t) ∧
  (∀ (i : Fin 4) (h : List (BitVec 8)) (r : List (Nat × BitVec 64)) (a : Nat),
    takePart 0 5 (s.lane (24 + i)).rxq = (some h, r) → s.role ≠ 0 → hcrcOk h → fieldAt h 16 2 ≠ s.rd SYS_DEV_ID_DEVID → 
    s.role = 1 → s.on SADL_CFG_TKO_EN = false → s.pair.sameId = false → (fieldAt h 23 1).testBit 1 → 
    Gives (.saddleHeaderReceived i a) s fun t =>
      t.role = 2 ∧
      t.reg SADL_EPOCH = s.reg SADL_EPOCH) ∧
  (∀ (i : Fin 4) (h : List (BitVec 8)) (r : List (Nat × BitVec 64)) (a : Nat),
    takePart 0 5 (s.lane (24 + i)).rxq = (some h, r) → s.role ≠ 0 → hcrcOk h → fieldAt h 16 2 ≠ s.rd SYS_DEV_ID_DEVID → 
    fieldAt h 28 4 = 0xFFFFFFFF → s.role = 3 → s.on SADL_CFG_TKO_EN = false → 
    outranks (fieldAt h 18 4, fieldAt h 16 2) (s.reg SADL_EPOCH, s.rd SYS_DEV_ID_DEVID) → 
    Gives (.saddleHeaderReceived i a) s fun t =>
      t.role = 2 ∧
      t.rd SADL_CNT_DEMOTIONS = min (s.rd SADL_CNT_DEMOTIONS + 1) 65535 ∧
      t.on SADL_STAT_YIELD_TX = false ∧
      Posted s t srcSADL 0 3 clsPAIR 1 (max (s.reg SADL_P_EPOCH) (fieldAt h 18 4)) ∧
      t.pair.mboxq = [] ∧ t.pair.pgenq = [] ∧ t.pair.mirq = [] ∧ t.pair.planq = [] ∧
      ∀ c : Fin 192, s.hasCell c → t.reg (CELLCTL_CREDIT c) = 0 ∧ (t.cell c).opened = false) ∧
  (∀ (i : Fin 4) (h : List (BitVec 8)) (r : List (Nat × BitVec 64)) (a : Nat),
    takePart 0 5 (s.lane (24 + i)).rxq = (some h, r) → s.role ≠ 0 → hcrcOk h → fieldAt h 28 4 = 0xFFFFFFFF → 
    fieldAt h 16 2 = s.rd SYS_DEV_ID_DEVID → s.pair.sameId = false → Gives (.saddleHeaderReceived i a) s fun t =>
      t.on SADL_STAT_HB_OK ∧
      t.bitAt SADL_STAT_LANES i ∧
      t.pair.hbAge = 0 ∧
      t.pair.laneAge = s.pair.laneAge.set i 0 ∧
      t.pair.rx = s.pair.rx.set i (some (fieldAt h 0 4, a)) ∧
      t.rd SADL_P_ID_DEVID = fieldAt h 16 2 ∧
      t.rd SADL_P_ID_ROLE = fieldAt h 24 1 % 4 ∧
      t.rd SADL_P_ID_STATE = fieldAt h 24 1 / 32 ∧
      t.on SADL_P_ID_VALID ∧
      t.rd SADL_STAT_YIELD_RX = fieldAt h 24 1 / 4 % 2 ∧
      (t.lane (24 + i)).rxq = r ∧
      t.tb = max s.tb (a * 2 ^ 20) ∧
      (∀ l : Fin 28, l.val ≠ 24 + i → t.lane l = s.lane l) ∧
      t.pair.sameId ∧
      t.role = s.role ∧
      Posted s t srcSADL 0 0xA clsPAIR 1 (s.rd SYS_DEV_ID_DEVID) ∧
      Only s t [SADL_STAT, SADL_P_ID, LOOP_FRAME_NUM]) ∧
  (∀ (i : Fin 4) (h : List (BitVec 8)) (r : List (Nat × BitVec 64)) (a : Nat),
    takePart 0 5 (s.lane (24 + i)).rxq = (some h, r) → s.role ≠ 0 → hcrcOk h → fieldAt h 28 4 = 0xFFFFFFFF → 
    fieldAt h 16 2 = s.rd SYS_DEV_ID_DEVID → s.pair.sameId → Gives (.saddleHeaderReceived i a) s fun t =>
      t.on SADL_STAT_HB_OK ∧
      t.bitAt SADL_STAT_LANES i ∧
      t.pair.hbAge = 0 ∧
      t.pair.laneAge = s.pair.laneAge.set i 0 ∧
      t.pair.rx = s.pair.rx.set i (some (fieldAt h 0 4, a)) ∧
      t.rd SADL_P_ID_DEVID = fieldAt h 16 2 ∧
      t.rd SADL_P_ID_ROLE = fieldAt h 24 1 % 4 ∧
      t.rd SADL_P_ID_STATE = fieldAt h 24 1 / 32 ∧
      t.on SADL_P_ID_VALID ∧
      t.rd SADL_STAT_YIELD_RX = fieldAt h 24 1 / 4 % 2 ∧
      (t.lane (24 + i)).rxq = r ∧
      t.tb = max s.tb (a * 2 ^ 20) ∧
      (∀ l : Fin 28, l.val ≠ 24 + i → t.lane l = s.lane l) ∧
      t.pair.sameId ∧
      t.fq = s.fq ∧
      Only s t [SADL_STAT, SADL_P_ID, LOOP_FRAME_NUM]) ∧
  (∀ (i : Fin 4) (h : List (BitVec 8)) (r : List (Nat × BitVec 64)) (a : Nat),
    takePart 0 5 (s.lane (24 + i)).rxq = (some h, r) → s.role ≠ 0 → hcrcOk h → fieldAt h 28 4 ≠ 0xFFFFFFFF → s.pair.ofs = [] → 
    Gives (.saddleHeaderReceived i a) s fun t =>
      t.on SADL_TOFS_VALID ∧
      t.rd SADL_TOFS_OFS = ofInt 24 (satI 24 (((((a * 4096 : Nat) : Int) - hdrDep h) / 4096 - toInt 32 (subMod 32 (fieldAt h 28 4) (departure16 (((max s.tb (a * 2 ^ 20)) / 2 ^ 24 / 1000 : Nat) + toInt 32 (subMod 32 (fieldAt h 0 4) ((max s.tb (a * 2 ^ 20)) / 2 ^ 24 / 1000 % 2 ^ 32)) - 1 : Int).toNat % 2 ^ 32))) / 2)) ∧
      t.on SADL_TOFS_RING = false) ∧
  (∀ (i : Fin 4) (h : List (BitVec 8)) (r : List (Nat × BitVec 64)) (a : Nat),
    takePart 0 5 (s.lane (24 + i)).rxq = (some h, r) → s.role ≠ 0 → hcrcOk h = false → Gives (.saddleHeaderReceived i a) s fun t =>
      t.pair = s.pair ∧
      (t.lane (24 + i)).rxq = r ∧
      t.tb = max s.tb (a * 2 ^ 20) ∧
      t.fq = s.fq ∧
      (∀ l : Fin 28, l.val ≠ 24 + i → t.lane l = s.lane l) ∧
      Only s t [LOOP_FRAME_NUM]) ∧
  (∀ (i : Fin 4) (a : Nat), (s.role = 0 ∨ (takePart 0 5 (s.lane (24 + i)).rxq).1 = none) → Gives (.saddleHeaderReceived i a) s fun t =>
      (t.lane (24 + i)).rxq = (takePart 0 5 (s.lane (24 + i)).rxq).2 ∧
      t.pair = s.pair ∧
      t.tb = s.tb ∧
      t.fq = s.fq ∧
      (∀ l : Fin 28, l.val ≠ 24 + i → t.lane l = s.lane l) ∧
      Only s t []) ∧
  (∀ (i : Fin 4) (j : Fin 8) (b : List (BitVec 8)) (r : List (Nat × BitVec 64)),
    takePart (5 + 11 * j) 11 (s.lane (24 + i)).rxq = (some b, r) → s.role ≠ 0 → 
    (b.length ≠ 88 ∨ scrcOk b = false ∨ 6 < fieldAt b 0 1) → Gives (.saddleSlotReceived i j) s fun t =>
      (t.lane (24 + i)).rxq = r ∧
      t.rd SADL_CNT3_SLOT_ERR = min (s.rd SADL_CNT3_SLOT_ERR + 1) 65535 ∧
      t.pair = s.pair ∧
      t.fq = s.fq ∧
      (∀ l : Fin 28, l.val ≠ 24 + i → t.lane l = s.lane l) ∧
      Only s t [SADL_CNT3]) ∧
  (∀ (i : Fin 4) (j : Fin 8),
    (s.role = 0 ∨ (takePart (5 + 11 * j) 11 (s.lane (24 + i)).rxq).1 = none) → Gives (.saddleSlotReceived i j) s fun t =>
      (t.lane (24 + i)).rxq = (takePart (5 + 11 * j) 11 (s.lane (24 + i)).rxq).2 ∧
      t.pair = s.pair ∧
      t.fq = s.fq ∧
      (∀ l : Fin 28, l.val ≠ 24 + i → t.lane l = s.lane l) ∧
      Only s t []) ∧
  (∀ (i : Fin 4) (j : Fin 8) (b : List (BitVec 8)) (r : List (Nat × BitVec 64)),
    takePart (5 + 11 * j) 11 (s.lane (24 + i)).rxq = (some b, r) → s.role ≠ 0 → b.length = 88 → scrcOk b → fieldAt b 0 1 = 0 → 
    Gives (.saddleSlotReceived i j) s fun t =>
      (t.lane (24 + i)).rxq = r ∧
      t.pair = s.pair ∧
      t.fq = s.fq ∧
      (∀ l : Fin 28, l.val ≠ 24 + i → t.lane l = s.lane l) ∧
      Only s t []) ∧
  (∀ (i : Fin 4) (j : Fin 8) (b : List (BitVec 8)) (r : List (Nat × BitVec 64)),
    takePart (5 + 11 * j) 11 (s.lane (24 + i)).rxq = (some b, r) → s.role ≠ 0 → b.length = 88 → scrcOk b → fieldAt b 0 1 = 1 → 
    Gives (.saddleSlotReceived i j) s fun t =>
      (t.lane (24 + i)).rxq = r ∧
      t.pair.live = fieldAt b 2 3 ∧
      t.pair.healthAge = 0 ∧
      (∀ n : Fin 24, fieldAt b (5 + 3 * n) 3 ≠ 0xFFFFFF → t.rd (SADL_PTRANS_T n) = fieldAt b (5 + 3 * n) 3 ∧ t.on (SADL_PTRANS_VALID n)) ∧
      (∀ n : Fin 24, fieldAt b (5 + 3 * n) 3 = 0xFFFFFF → t.reg (SADL_PTRANS n) = s.reg (SADL_PTRANS n)) ∧
      RegsIn s t [wSADL, wCHAIN, wCELL, wENG, wSYS, wLOOP, wPROT, wFLT, wLPWM, wPGEN]) ∧
  (∀ (i : Fin 4) (j : Fin 8) (b : List (BitVec 8)) (r : List (Nat × BitVec 64)),
    takePart (5 + 11 * j) 11 (s.lane (24 + i)).rxq = (some b, r) → s.role ≠ 0 → b.length = 88 → scrcOk b → fieldAt b 0 1 = 2 → 
    s.role = 2 → s.pair.pdigs = [] → (∀ q ∈ s.pair.digs, q.1 ≠ fieldAt b 2 4) → Gives (.saddleSlotReceived i j) s fun t =>
      (t.lane (24 + i)).rxq = r ∧
      t.pair.pdigs = [(fieldAt b 2 4, fieldAt b 6 4, fieldAt b 10 4)] ∧
      t.pair.differ = s.pair.differ ∧
      t.fq = s.fq ∧
      (∀ l : Fin 28, l.val ≠ 24 + i → t.lane l = s.lane l) ∧
      Only s t []) ∧
  (∀ (i : Fin 4) (j : Fin 8) (b : List (BitVec 8)) (r : List (Nat × BitVec 64)) (c d : Nat),
    takePart (5 + 11 * j) 11 (s.lane (24 + i)).rxq = (some b, r) → s.role ≠ 0 → b.length = 88 → scrcOk b → fieldAt b 0 1 = 2 → 
    s.role = 2 → s.pair.pdigs = [] → s.pair.digs = [(fieldAt b 2 4, c, d)] → c = fieldAt b 6 4 ∧ d = fieldAt b 10 4 → 
    Gives (.saddleSlotReceived i j) s fun t =>
      (t.lane (24 + i)).rxq = r ∧
      t.pair.pdigs = [] ∧
      t.pair.differ = 0 ∧
      t.fq = s.fq ∧
      (∀ l : Fin 28, l.val ≠ 24 + i → t.lane l = s.lane l) ∧
      Only s t []) ∧
  (∀ (i : Fin 4) (j : Fin 8) (b : List (BitVec 8)) (r : List (Nat × BitVec 64)) (c d : Nat),
    takePart (5 + 11 * j) 11 (s.lane (24 + i)).rxq = (some b, r) → s.role ≠ 0 → b.length = 88 → scrcOk b → fieldAt b 0 1 = 2 → 
    s.role = 2 → s.pair.pdigs = [] → s.pair.digs = [(fieldAt b 2 4, c, d)] → (c ≠ fieldAt b 6 4 ∨ d ≠ fieldAt b 10 4) → 
    s.pair.differ + 1 ≠ s.rd SADL_DIG_LIM → Gives (.saddleSlotReceived i j) s fun t =>
      (t.lane (24 + i)).rxq = r ∧
      t.pair.pdigs = [] ∧
      t.pair.differ = s.pair.differ + 1 ∧
      t.rd SADL_CNT2_DIG_MIS = min (s.rd SADL_CNT2_DIG_MIS + 1) 65535 ∧
      Posted s t srcSADL 0 4 clsPAIR 0 (fieldAt b 2 4) ∧
      (∀ l : Fin 28, l.val ≠ 24 + i → t.lane l = s.lane l) ∧
      Only s t [SADL_CNT2]) ∧
  (∀ (i : Fin 4) (j : Fin 8) (b : List (BitVec 8)) (r : List (Nat × BitVec 64)) (c d : Nat),
    takePart (5 + 11 * j) 11 (s.lane (24 + i)).rxq = (some b, r) → s.role ≠ 0 → b.length = 88 → scrcOk b → fieldAt b 0 1 = 2 → 
    s.role = 2 → s.pair.pdigs = [] → s.pair.digs = [(fieldAt b 2 4, c, d)] → (c ≠ fieldAt b 6 4 ∨ d ≠ fieldAt b 10 4) → 
    s.pair.differ + 1 = s.rd SADL_DIG_LIM → Gives (.saddleSlotReceived i j) s fun t =>
      (t.lane (24 + i)).rxq = r ∧
      t.pair.differ = s.pair.differ + 1 ∧
      t.rd SADL_CNT2_DIG_MIS = min (s.rd SADL_CNT2_DIG_MIS + 1) 65535 ∧
      t.on SADL_STAT_DIVERGED ∧
      (∀ l : Fin 28, l.val ≠ 24 + i → t.lane l = s.lane l) ∧
      Only s t [SADL_CNT2, SADL_STAT]) ∧
  (∀ (i : Fin 4) (j : Fin 8) (b : List (BitVec 8)) (r : List (Nat × BitVec 64)),
    takePart (5 + 11 * j) 11 (s.lane (24 + i)).rxq = (some b, r) → s.role ≠ 0 → b.length = 88 → scrcOk b → fieldAt b 0 1 = 2 → 
    s.role ≠ 2 → Gives (.saddleSlotReceived i j) s fun t =>
      (t.lane (24 + i)).rxq = r ∧
      t.pair = s.pair ∧
      t.fq = s.fq ∧
      (∀ l : Fin 28, l.val ≠ 24 + i → t.lane l = s.lane l) ∧
      Only s t []) ∧
  (∀ (i : Fin 4) (j : Fin 8) (b : List (BitVec 8)) (r : List (Nat × BitVec 64)),
    takePart (5 + 11 * j) 11 (s.lane (24 + i)).rxq = (some b, r) → s.role ≠ 0 → b.length = 88 → scrcOk b → fieldAt b 0 1 = 3 → 
    s.role ≠ 3 → s.pair.asm = [] → 8 < s.rd (SADL_MIR_LEN (fieldAt b 3 1)) → Gives (.saddleSlotReceived i j) s fun t =>
      (t.lane (24 + i)).rxq = r ∧
      t.pair.asm = [⟨fieldAt b 3 1, fieldAt b 8 4, fieldAt b 2 1 % 16, fieldAt b 2 1 / 16 % 8, [{ part := fieldAt b 7 1, addr := fieldAt b 4 2, data := (b.drop 12).take (8 * min 8 (fieldAt b 6 1)) }]⟩] ∧
      t.engs = s.engs ∧
      t.fq = s.fq ∧
      (∀ l : Fin 28, l.val ≠ 24 + i → t.lane l = s.lane l) ∧
      Only s t []) ∧
  (∀ (i : Fin 4) (j : Fin 8) (b : List (BitVec 8)) (r : List (Nat × BitVec 64)),
    takePart (5 + 11 * j) 11 (s.lane (24 + i)).rxq = (some b, r) → s.role ≠ 0 → b.length = 88 → scrcOk b → fieldAt b 0 1 = 3 → 
    s.role ≠ 3 → s.pair.asm = [] → s.rd (SADL_MIR_LEN (fieldAt b 3 1)) ≤ 8 → (s.eng (fieldAt b 2 1 % 16)).mirror = [] → 
    Gives (.saddleSlotReceived i j) s fun t =>
      (t.lane (24 + i)).rxq = r ∧
      t.pair.asm = [] ∧
      (t.eng (fieldAt b 2 1 % 16)).mirror = [(fieldAt b 2 1 / 16 % 8, fieldAt b 4 2, (b.drop 12).take (8 * min 8 (fieldAt b 6 1)))] ∧
      t.fq = s.fq ∧
      (∀ l : Fin 28, l.val ≠ 24 + i → t.lane l = s.lane l) ∧
      Only s t []) ∧
  (∀ (i : Fin 4) (j : Fin 8) (b : List (BitVec 8)) (r : List (Nat × BitVec 64)),
    takePart (5 + 11 * j) 11 (s.lane (24 + i)).rxq = (some b, r) → s.role ≠ 0 → b.length = 88 → scrcOk b → fieldAt b 0 1 = 4 → 
    s.role ≠ 3 → fieldAt b 2 1 = 1 → Gives (.saddleSlotReceived i j) s fun t =>
      (t.lane (24 + i)).rxq = r ∧
      (t.eng (fieldAt b 4 1 % 16)).pgenMir = some { flags := fieldAt b 5 1, pos := toInt 64 (fieldAt b 8 8), vel := toInt 64 (fieldAt b 16 8), acc := toInt 64 (fieldAt b 24 8), tgt := fieldAt b 32 4, stop := fieldAt b 36 4 } ∧
      t.pair = s.pair ∧
      t.fq = s.fq ∧
      (∀ l : Fin 28, l.val ≠ 24 + i → t.lane l = s.lane l) ∧
      Only s t []) ∧
  (∀ (i : Fin 4) (j : Fin 8) (b : List (BitVec 8)) (r : List (Nat × BitVec 64)),
    takePart (5 + 11 * j) 11 (s.lane (24 + i)).rxq = (some b, r) → s.role ≠ 0 → b.length = 88 → scrcOk b → fieldAt b 0 1 = 5 → 
    s.role ≠ 3 → fieldAt b 2 1 = 1 → Gives (.saddleSlotReceived i j) s fun t =>
      (t.lane (24 + i)).rxq = r ∧
      t.pair.outst = s.pair.outst ++ [⟨fieldAt b 4 1, { tag := fieldAt b 5 1, addr := fieldAt b 6 2, data := fieldAt b 8 4, apply := fieldAt b 12 4 }, fieldAt b 16 4⟩] ∧
      t.fq = s.fq ∧
      (∀ l : Fin 28, l.val ≠ 24 + i → t.lane l = s.lane l) ∧
      Only s t []) ∧
  (∀ (i : Fin 4) (j : Fin 8) (b : List (BitVec 8)) (r : List (Nat × BitVec 64)),
    takePart (5 + 11 * j) 11 (s.lane (24 + i)).rxq = (some b, r) → s.role ≠ 0 → b.length = 88 → scrcOk b → fieldAt b 0 1 = 5 → 
    s.role ≠ 3 → fieldAt b 2 1 = 2 → Gives (.saddleSlotReceived i j) s fun t =>
      (t.lane (24 + i)).rxq = r ∧
      t.pair.outst = s.pair.outst ++ [⟨fieldAt b 4 1, { tag := fieldAt b 5 1, addr := fieldAt b 6 2, data := fieldAt b 8 4, apply := fieldAt b 12 4 }, fieldAt b 16 4⟩, ⟨fieldAt b 22 1, { tag := fieldAt b 23 1, addr := fieldAt b 24 2, data := fieldAt b 26 4, apply := fieldAt b 30 4 }, fieldAt b 34 4⟩] ∧
      t.fq = s.fq ∧
      (∀ l : Fin 28, l.val ≠ 24 + i → t.lane l = s.lane l) ∧
      Only s t []) ∧
  (∀ (i : Fin 4) (j : Fin 8) (b : List (BitVec 8)) (r : List (Nat × BitVec 64)),
    takePart (5 + 11 * j) 11 (s.lane (24 + i)).rxq = (some b, r) → s.role ≠ 0 → b.length = 88 → scrcOk b → fieldAt b 0 1 = 6 → 
    s.role ≠ 3 → Gives (.saddleSlotReceived i j) s fun t =>
      (t.lane (24 + i)).rxq = r ∧
      t.pair.planIn.head? = some (fieldAt b 2 1 % 4, (b.drop 4).take 64) ∧
      t.fq = s.fq ∧
      (∀ l : Fin 28, l.val ≠ 24 + i → t.lane l = s.lane l) ∧
      Only s t []) ∧
  (∀ (i : Fin 4) (j : Fin 8) (b : List (BitVec 8)) (r : List (Nat × BitVec 64)),
    takePart (5 + 11 * j) 11 (s.lane (24 + i)).rxq = (some b, r) → s.role ≠ 0 → b.length = 88 → scrcOk b → 3 ≤ fieldAt b 0 1 → 
    fieldAt b 0 1 ≤ 6 → s.role = 3 → Gives (.saddleSlotReceived i j) s fun t =>
      (t.lane (24 + i)).rxq = r ∧
      t.pair = s.pair ∧
      t.engs = s.engs ∧
      t.fq = s.fq ∧
      (∀ l : Fin 28, l.val ≠ 24 + i → t.lane l = s.lane l) ∧
      Only s t []) ∧
  (s.on SADL_STAT_HB_OK → s.rd SADL_CFG_HB_MISS < s.pair.hbAge → s.pairReady = false → Gives .hbLost s fun t =>
      t.on SADL_STAT_HB_OK = false ∧
      t.rd SADL_STAT_LANES = 0 ∧
      t.on SADL_STAT_YIELD_RX = false ∧
      t.rd SADL_CNT2_HB_LOSS = min (s.rd SADL_CNT2_HB_LOSS + 1) 65535 ∧
      t.role = s.role ∧
      Posted s t srcSADL 0 1 clsPAIR 1 0 ∧
      Only s t [SADL_STAT, SADL_CNT2]) ∧
  (∀ (n : Fin 24),
    s.on SADL_STAT_HB_OK → s.rd SADL_CFG_HB_MISS < s.pair.hbAge → s.pairReady → (∀ n ∈ s.serving, s.pStopped n = false) → 
    n.val ∈ s.serving → (s.chain n).pmiss = 0 → (s.chain n).pact → Gives .hbLost s fun t =>
      t.on SADL_STAT_HB_OK = false ∧
      t.rd SADL_STAT_LANES = 0 ∧
      t.on SADL_STAT_YIELD_RX = false ∧
      t.rd SADL_CNT2_HB_LOSS = min (s.rd SADL_CNT2_HB_LOSS + 1) 65535 ∧
      t.role = 2 ∧
      t.reg SADL_EPOCH = s.reg SADL_EPOCH ∧
      Posted s t srcSADL 0 1 clsPAIR 1 0 ∧
      Only s t [SADL_STAT, SADL_CNT2]) ∧
  (s.on SADL_STAT_HB_OK → s.rd SADL_CFG_HB_MISS < s.pair.hbAge → s.pairReady → (∀ n ∈ s.serving, s.pStopped n = false) → 
    (∀ n ∈ s.serving, 1 ≤ (s.chain n).pmiss ∨ (s.chain n).pact = false) → Gives .hbLost s fun t =>
      t.on SADL_STAT_HB_OK = false ∧
      t.rd SADL_STAT_LANES = 0 ∧
      t.on SADL_STAT_YIELD_RX = false ∧
      t.rd SADL_CNT2_HB_LOSS = min (s.rd SADL_CNT2_HB_LOSS + 1) 65535 ∧
      t.role = 3 ∧
      t.rd SADL_TKO_CAUSE_CAUSE = 2 ∧
      RegsIn s t [wSADL, wNVC, wAGE]) ∧
  (∀ (n : Fin 24),
    s.on SADL_STAT_HB_OK → s.rd SADL_CFG_HB_MISS < s.pair.hbAge → s.pairReady → s.on SADL_STAT_HOLD_ACT = false → 
    n.val ∈ s.serving → s.pStopped n → (∀ m ∈ s.serving, m < n → s.pStopped m = false) → Gives .hbLost s fun t =>
      t.on SADL_STAT_HB_OK = false ∧
      t.rd SADL_STAT_LANES = 0 ∧
      t.on SADL_STAT_YIELD_RX = false ∧
      t.rd SADL_CNT2_HB_LOSS = min (s.rd SADL_CNT2_HB_LOSS + 1) 65535 ∧
      t.role = 3 ∧
      t.rd SADL_TKO_CAUSE_CAUSE = 1 ∧
      t.rd SADL_TKO_CAUSE_CHAIN = n ∧
      RegsIn s t [wSADL, wNVC, wAGE]) ∧
  ((s.on SADL_STAT_HB_OK = false ∨ s.pair.hbAge ≤ s.rd SADL_CFG_HB_MISS) → Gives .hbLost s fun t =>
      t = s) ∧
  (s.inRun = false → s.on SADL_CFG_EN = false → Gives .pairEnable s fun t =>
      t.on SADL_CFG_EN ∧
      t.rd SADL_STAT_ROLE = 1 ∧
      t.on SADL_STAT_HB_OK = false ∧
      t.reg SADL_P_EPOCH = 0 ∧
      t.reg SADL_P_ID = 0 ∧
      t.reg SADL_EPOCH = s.reg SADL_EPOCH ∧
      t.pair.record = s.pair.record ∧
      (∀ c : Fin 192, t.reg (CELLCTL_CREDIT c) = 0 ∧ (t.cell c).opened = false) ∧
      t.mem = s.mem ∧
      t.fq = s.fq ∧
      RegsIn s t [wSADL, wCELL]) ∧
  (s.inRun → s.on SADL_CFG_EN = false → Gives .pairEnable s fun t =>
      Only s t [] ∧
      Posted s t srcSADL 0 0xF0 clsCONFIG 1 SADL_CFG ∧
      t.pair = s.pair) ∧
  (s.on SADL_CFG_EN → Gives .pairEnable s fun t =>
      t = s) ∧
  (s.inRun = false → s.on SADL_CFG_EN → Gives .pairDisable s fun t =>
      t.on SADL_CFG_EN = false ∧
      t.rd SADL_STAT_ROLE = 0 ∧
      t.reg SADL_EPOCH = s.reg SADL_EPOCH ∧
      t.pair.record = s.pair.record ∧
      t.cells = s.cells ∧
      t.fq = s.fq ∧
      Only s t [SADL_CFG, SADL_STAT, SADL_P_EPOCH, SADL_P_ID, SADL_TOFS]) ∧
  (s.inRun → s.on SADL_CFG_EN → Gives .pairDisable s fun t =>
      Only s t [] ∧
      Posted s t srcSADL 0 0xF0 clsCONFIG 1 SADL_CFG ∧
      t.pair = s.pair) ∧
  (s.on SADL_CFG_EN = false → Gives .pairDisable s fun t =>
      t = s) ∧
  (
    ((s.role = 1 ∨ s.role = 2) ∧ (s.dev = 2 ∨ s.dev = 3) ∧ s.powerSet ∧ (s.role = 2 ∨ s.pair.sameId = false) ∧ (3 < s.pair.actAge ∨ s.on SADL_STAT_YIELD_RX)) → 
    s.pair.planIn = [] → Gives .pairTake s fun t =>
      t.role = 3 ∧
      t.reg SADL_EPOCH = (max (max (s.reg SADL_EPOCH) (s.reg SADL_P_EPOCH)) s.pair.record + 1) % 2 ^ 32 ∧
      (s.on PWR_STAT_SUSP = false → t.pair.record = (max (max (s.reg SADL_EPOCH) (s.reg SADL_P_EPOCH)) s.pair.record + 1) % 2 ^ 32) ∧
      (s.on PWR_STAT_SUSP → t.pair.epochPend) ∧
      t.rd SADL_TKO_CAUSE_CAUSE = 4 ∧
      t.reg SADL_TKO_LOG = s.firstRaised % 2 ^ 32 ∧
      t.on SADL_STAT_HOLD_ACT = false ∧
      t.rd SADL_CNT_TAKEOVERS = min (s.rd SADL_CNT_TAKEOVERS + 1) 65535 ∧
      Posted s t srcSADL 0 2 clsPAIR 1 ((max (max (s.reg SADL_EPOCH) (s.reg SADL_P_EPOCH)) s.pair.record + 1) % 2 ^ 32) ∧
      (∀ c : Fin 192, s.hasCell c → (t.cell c).opened = false ∧ (t.cell c).reopen = some s.firstRaised) ∧
      RegsIn s t [wSADL, wNVC]) ∧
  (
    ((s.role = 1 ∨ s.role = 2) ∧ (s.dev = 2 ∨ s.dev = 3) ∧ s.powerSet ∧ (s.role = 2 ∨ s.pair.sameId = false) ∧ (3 < s.pair.actAge ∨ s.on SADL_STAT_YIELD_RX)) → 
    Gives .pairTake s fun t =>
      t.role = 3 ∧
      t.reg SADL_EPOCH = (max (max (s.reg SADL_EPOCH) (s.reg SADL_P_EPOCH)) s.pair.record + 1) % 2 ^ 32 ∧
      t.rd SADL_TKO_CAUSE_CAUSE = 4 ∧
      t.rd SADL_CNT_TAKEOVERS = min (s.rd SADL_CNT_TAKEOVERS + 1) 65535 ∧
      RegsIn s t [wSADL, wNVC, wAGE]) ∧
  (
    (¬ ((s.role = 1 ∨ s.role = 2) ∧ (s.dev = 2 ∨ s.dev = 3) ∧ s.powerSet ∧ (s.role = 2 ∨ s.pair.sameId = false) ∧ (3 < s.pair.actAge ∨ s.on SADL_STAT_YIELD_RX))) → 
    Gives .pairTake s fun t =>
      t.role = s.role ∧
      t.on SADL_STAT_TAKE_REF ∧
      Posted s t srcSADL 0 6 clsPAIR 1 0 ∧
      t.pair = s.pair ∧
      Only s t [SADL_STAT]) ∧
  (s.role = 3 → Gives .pairYield s fun t =>
      t.on SADL_STAT_YIELD_TX ∧
      t.fq = s.fq ∧
      Only s t [SADL_STAT]) ∧
  (s.role ≠ 3 → Gives .pairYield s fun t =>
      t = s) ∧
  (Gives .yieldEnd s fun t =>
      t.on SADL_STAT_YIELD_TX = false ∧
      t.role = s.role ∧
      t.fq = s.fq ∧
      Only s t [SADL_STAT]) ∧
  (s.on SADL_STAT_HOLD_ACT → s.pairReady = false → Gives .demotionHoldEnd s fun t =>
      t.on SADL_STAT_HOLD_ACT = false ∧
      t.role = s.role ∧
      t.fq = s.fq ∧
      Only s t [SADL_STAT]) ∧
  (s.on SADL_STAT_HOLD_ACT → s.pairReady → Gives .demotionHoldEnd s fun t =>
      t.on SADL_STAT_HOLD_ACT = false ∧
      (t.role = 2 ∨ t.role = 3) ∧
      RegsIn s t [wSADL, wNVC, wAGE]) ∧
  (s.on SADL_STAT_HOLD_ACT = false → Gives .demotionHoldEnd s fun t =>
      t = s)

/-! ### CAN (chapter 18) -/

/-- SETREQ of an enabled transmit object without a request sets TXREQ, any other sets WCOLL; CANCEL ends the request, or waits while its frame
is on the bus; a valid frame is stored with its identifier, format, DLC, data and stamp in the lowest object that matches, with NEWDAT
(and MSGLST with a fault over a NEWDAT of 1), or counted; a frame sent ends as TRANSMITTED; a read of RXS clears NEWDAT; TSCAP captures
counter and timebase; a controller that is not on the bus receives and sends nothing (18_can_fd.md R478 to R486). A receive error counts
ERR and raises REC by 1 or 8, above 127 to error-passive; a transmit error raises TEC by 8, to error-passive from 128 and to bus-off above
255; a lost arbitration counts and changes no error counter; a pending cancellation ends there; RECOVER, or ABO at bus-off, starts the
count of 128 and its end returns the controller to error-active with cleared counters; a protocol exception is reported; clearing INIT
joins the bus and ignores SAM where it does not apply; a stopped CK_CAN freezes the controller; a controller in the wrong state does
nothing (18_can_fd.md R474 to R487). -/
def Obligations.CanObjects : Prop := ∀ s : State,
  (∀ (m : Fin 4) (o : Fin 64),
    s.on (CAN_OBJ_OCFG_EN m o) → s.on (CAN_OBJ_OCFG_DIR m o) → s.on (CAN_OBJ_TXS_TXREQ m o) = false → 
    Gives (.canSetreq m o) s fun t =>
      t.on (CAN_OBJ_TXS_TXREQ m o) ∧
      t.on (CAN_OBJ_TXS_WCOLL m o) = s.on (CAN_OBJ_TXS_WCOLL m o) ∧
      t.rd (CAN_STAT_PEND m) = (s.txPending m).length + 1 ∧
      t.fq = s.fq ∧
      Only s t [CAN_OBJ_TXS m o, CAN_STAT m]) ∧
  (∀ (m : Fin 4) (o : Fin 64),
    (s.on (CAN_OBJ_OCFG_EN m o) = false ∨ s.on (CAN_OBJ_OCFG_DIR m o) = false ∨ s.on (CAN_OBJ_TXS_TXREQ m o)) → 
    Gives (.canSetreq m o) s fun t =>
      t.on (CAN_OBJ_TXS_WCOLL m o) ∧
      t.on (CAN_OBJ_TXS_TXREQ m o) = s.on (CAN_OBJ_TXS_TXREQ m o) ∧
      t.can m = s.can m ∧
      t.fq = s.fq ∧
      Only s t [CAN_OBJ_TXS m o]) ∧
  (∀ (m : Fin 4) (o : Fin 64), s.on (CAN_OBJ_TXS_TXREQ m o) → s.canOn m → Gives (.canCancel m o true) s fun t =>
      t.on (CAN_OBJ_TXS_CANC_PEND m o) ∧
      t.on (CAN_OBJ_TXS_TXREQ m o) ∧
      t.fq = s.fq ∧
      Only s t [CAN_OBJ_TXS m o]) ∧
  (∀ (m : Fin 4) (o : Fin 64) (k : Bool),
    s.on (CAN_OBJ_TXS_TXREQ m o) → (k = false ∨ s.canOn m = false) → Gives (.canCancel m o k) s fun t =>
      t.on (CAN_OBJ_TXS_TXREQ m o) = false ∧
      t.on (CAN_OBJ_TXS_CANCELLED m o) ∧
      t.on (CAN_OBJ_TXS_CANC_PEND m o) = false ∧
      t.bitAt (CAN_IR_IR m) 2 ∧
      t.rd (CAN_CNT_TX_CANC m) = min (s.rd (CAN_CNT_TX_CANC m) + 1) 65535 ∧
      t.fq = s.fq ∧
      Only s t [CAN_OBJ_TXS m o, CAN_STAT m, CAN_CNT m, CAN_IR m, ENG_IRQ_PEND 16, ENG_IRQ_PEND 17, ENG_IRQ_PEND 18, ENG_IRQ_PEND 19]) ∧
  (∀ (m : Fin 4) (o : Fin 64) (k : Bool), s.on (CAN_OBJ_TXS_TXREQ m o) = false → Gives (.canCancel m o k) s fun t =>
      t = s) ∧
  (∀ (m : Fin 4) (o : Fin 64) (f : CanFrame) (k l : Nat),
    s.canOn m → (f.fdf = false ∨ s.on (CAN_CTL_FDOE m)) → s.canMatch m f = some o.val → Gives (.canFrameReceived m f k l) s fun t =>
      t.rd (CAN_OBJ_RXID_ID m o) = f.id.toNat ∧
      t.rd (CAN_OBJ_RXS_RDLC m o) = f.dlc.toNat ∧
      t.on (CAN_OBJ_RXS_RXTD m o) = f.xtd ∧ t.on (CAN_OBJ_RXS_RRTR m o) = f.rtr ∧ t.on (CAN_OBJ_RXS_RFDF m o) = f.fdf ∧
      t.on (CAN_OBJ_RXS_RBRS m o) = f.brs ∧ t.on (CAN_OBJ_RXS_ESI m o) = f.esi ∧
      t.on (CAN_OBJ_RXS_NEWDAT m o) ∧
      (∀ b : Fin 16, t.reg (CAN_DATA m o b) = ofBytes (((((f.data.take (if f.rtr then 0 else dlcLen f.fdf f.dlc.toNat)) ++ List.replicate 64 0).take 64).drop (4 * b)).take 4)) ∧
      (s.on (CAN_TSC_EN m) = false → t.reg (CAN_OBJ_STAMP m o) = s.reg (CAN_TSCNT m) ∧ t.reg (CAN_TSCNT m) = s.reg (CAN_TSCNT m)) ∧
      (s.on (CAN_TSC_EN m) → s.rd (CAN_TSC_TSPRE m) = 0 → (s.can m).frozen = false → (s.can m).sub = 0 → t.reg (CAN_OBJ_STAMP m o) = (s.reg (CAN_TSCNT m) + k) % 2 ^ 32 ∧ t.reg (CAN_TSCNT m) = (s.reg (CAN_TSCNT m) + k + l) % 2 ^ 32) ∧
      t.bitAt (CAN_IR_IR m) 0 ∧
      t.rd (CAN_CNT2_RX_OK m) = min (s.rd (CAN_CNT2_RX_OK m) + 1) 65535 ∧
      (∀ q : Fin 64, q ≠ o → ∀ k : Fin 32, t.reg (CAN_OBJ_OCFG m q + 4 * k) = s.reg (CAN_OBJ_OCFG m q + 4 * k)) ∧
      Within s t [(CAN_OBJ_OCFG m o, 0x80), (CAN_CTL m, 0x1000), wENG]) ∧
  (∀ (m : Fin 4) (o : Fin 64) (f : CanFrame) (k l : Nat),
    s.canOn m → (f.fdf = false ∨ s.on (CAN_CTL_FDOE m)) → s.canMatch m f = some o.val → s.on (CAN_OBJ_RXS_NEWDAT m o) → 
    s.rd (CAN_STAT_STATE m) = 1 → s.rd (CAN_ECNT_TEC m) < 128 → s.on (CAN_ECNT_RP m) = false → 
    Gives (.canFrameReceived m f k l) s fun t =>
      t.on (CAN_OBJ_RXS_MSGLST m o) ∧
      t.on (CAN_OBJ_RXS_NEWDAT m o) ∧
      t.bitAt (CAN_IR_IR m) 6 ∧
      Posted s t srcCAN m 5 clsLINK 0 o) ∧
  (∀ (m : Fin 4) (f : CanFrame) (k l : Nat),
    s.canOn m → (f.fdf = false ∨ s.on (CAN_CTL_FDOE m)) → s.canMatch m f = none → Gives (.canFrameReceived m f k l) s fun t =>
      t.rd (CAN_CNT2_NOMATCH m) = min (s.rd (CAN_CNT2_NOMATCH m) + 1) 65535 ∧
      t.rd (CAN_CNT2_RX_OK m) = s.rd (CAN_CNT2_RX_OK m) ∧
      Within s t [(CAN_CTL m, 0x1000), wENG]) ∧
  (∀ (m : Fin 4) (f : CanFrame) (k l : Nat),
    s.canOn m → (f.fdf = false ∨ s.on (CAN_CTL_FDOE m)) → s.on (CAN_ECNT_RP m) = false → s.rd (CAN_ECNT_TEC m) < 128 → 
    Gives (.canFrameReceived m f k l) s fun t =>
      t.rd (CAN_ECNT_REC m) = s.rd (CAN_ECNT_REC m) - 1 ∧
      t.rd (CAN_ECNT_TEC m) = s.rd (CAN_ECNT_TEC m) ∧
      t.rd (CAN_STAT_STATE m) = 1 ∧
      t.rd (CAN_STAT_ACT m) = 0) ∧
  (∀ (m : Fin 4) (f : CanFrame) (k l : Nat),
    s.canOn m → (f.fdf = false ∨ s.on (CAN_CTL_FDOE m)) → s.on (CAN_ECNT_RP m) → Gives (.canFrameReceived m f k l) s fun t =>
      t.on (CAN_ECNT_RP m) = false ∧
      119 ≤ t.rd (CAN_ECNT_REC m) ∧ t.rd (CAN_ECNT_REC m) ≤ 127) ∧
  (∀ (m : Fin 4) (f : CanFrame) (k l : Nat),
    (s.canOn m = false ∨ (f.fdf ∧ s.on (CAN_CTL_FDOE m) = false)) → Gives (.canFrameReceived m f k l) s fun t =>
      t = s) ∧
  (∀ (m : Fin 4) (o : Fin 64) (d k l : Nat),
    s.canOn m → s.rd (CAN_CTL_MODE m) ≠ 1 → s.on (CAN_OBJ_TXS_TXREQ m o) → o.val ∈ (s.can m).cands → s.rd (CAN_CTL_MODE m) ≠ 2 → 
    Gives (.canTxDone m o d k l) s fun t =>
      t.on (CAN_OBJ_TXS_TXREQ m o) = false ∧
      t.on (CAN_OBJ_TXS_CANC_PEND m o) = false ∧
      t.on (CAN_OBJ_TXS_TRANSMITTED m o) ∧
      t.rd (CAN_ECNT_TEC m) = s.rd (CAN_ECNT_TEC m) - 1 ∧
      t.bitAt (CAN_IR_IR m) 1 ∧
      t.rd (CAN_STAT_ACT m) = 0 ∧
      t.rd (CAN_CNT_TX_OK m) = min (s.rd (CAN_CNT_TX_OK m) + 1) 65535 ∧
      (s.on (CAN_TSC_EN m) = false → t.reg (CAN_OBJ_STAMP m o) = s.reg (CAN_TSCNT m)) ∧
      (∀ q : Fin 64, q ≠ o → ∀ k : Fin 32, t.reg (CAN_OBJ_OCFG m q + 4 * k) = s.reg (CAN_OBJ_OCFG m q + 4 * k)) ∧
      Within s t [(CAN_OBJ_OCFG m o, 0x80), (CAN_CTL m, 0x1000), wENG]) ∧
  (∀ (m : Fin 4) (o : Fin 64) (d k l : Nat),
    s.canOn m → s.rd (CAN_CTL_MODE m) ≠ 1 → s.on (CAN_OBJ_TXS_TXREQ m o) → o.val ∈ (s.can m).cands → s.rd (CAN_CTL_MODE m) = 2 → 
    s.canMatch m (s.canOwn m o) = none → Gives (.canTxDone m o d k l) s fun t =>
      t.on (CAN_OBJ_TXS_TXREQ m o) = false ∧
      t.on (CAN_OBJ_TXS_CANC_PEND m o) = false ∧
      t.on (CAN_OBJ_TXS_TRANSMITTED m o) ∧
      t.rd (CAN_ECNT_TEC m) = s.rd (CAN_ECNT_TEC m) - 1 ∧
      t.bitAt (CAN_IR_IR m) 1 ∧
      t.rd (CAN_STAT_ACT m) = 0 ∧
      t.rd (CAN_CNT_TX_OK m) = min (s.rd (CAN_CNT_TX_OK m) + 1) 65535 ∧
      t.rd (CAN_CNT2_NOMATCH m) = min (s.rd (CAN_CNT2_NOMATCH m) + 1) 65535 ∧
      ∀ q : Fin 64, q ≠ o → ∀ k : Fin 32, t.reg (CAN_OBJ_OCFG m q + 4 * k) = s.reg (CAN_OBJ_OCFG m q + 4 * k)) ∧
  (∀ (m : Fin 4) (o : Fin 64) (d k l : Nat) (q : Fin 64),
    s.canOn m → s.rd (CAN_CTL_MODE m) ≠ 1 → s.on (CAN_OBJ_TXS_TXREQ m o) → o.val ∈ (s.can m).cands → s.rd (CAN_CTL_MODE m) = 2 → 
    s.canMatch m (s.canOwn m o) = some q.val → Gives (.canTxDone m o d k l) s fun t =>
      t.on (CAN_OBJ_TXS_TXREQ m o) = false ∧
      t.on (CAN_OBJ_TXS_CANC_PEND m o) = false ∧
      t.on (CAN_OBJ_TXS_TRANSMITTED m o) ∧
      t.rd (CAN_ECNT_TEC m) = s.rd (CAN_ECNT_TEC m) - 1 ∧
      t.bitAt (CAN_IR_IR m) 1 ∧
      t.rd (CAN_STAT_ACT m) = 0 ∧
      t.rd (CAN_CNT_TX_OK m) = min (s.rd (CAN_CNT_TX_OK m) + 1) 65535 ∧
      t.on (CAN_OBJ_RXS_NEWDAT m q) ∧
      t.rd (CAN_OBJ_RXID_ID m q) = s.rd (CAN_OBJ_OID_ID m o) ∧
      t.rd (CAN_CNT2_RX_OK m) = min (s.rd (CAN_CNT2_RX_OK m) + 1) 65535) ∧
  (∀ (m : Fin 4) (o : Fin 64) (d k l : Nat),
    s.canOn m → s.rd (CAN_CTL_MODE m) ≠ 1 → s.on (CAN_OBJ_TXS_TXREQ m o) → o.val ∈ (s.can m).cands → s.rd (CAN_CTL_MODE m) ≠ 2 → 
    s.on (CAN_TDC_EN m) → (s.canOwn m o).brs → s.rd (CAN_TDC_TDCF m) ≤ d → Gives (.canTxDone m o d k l) s fun t =>
      t.rd (CAN_TDC_TDCV m) = min 127 d) ∧
  (∀ (m : Fin 4) (o : Fin 64) (d k l : Nat),
    (s.canOn m = false ∨ s.rd (CAN_CTL_MODE m) = 1 ∨ s.on (CAN_OBJ_TXS_TXREQ m o) = false ∨ o.val ∉ (s.can m).cands) → 
    Gives (.canTxDone m o d k l) s fun t =>
      t = s) ∧
  (∀ (m : Fin 4) (p : Nat), (s.on (CAN_TSC_EN m) = false ∨ (s.can m).frozen) → Gives (.canTscap m p) s fun t =>
      t.reg (CAN_CAP_CNT m) = s.reg (CAN_TSCNT m) ∧
      t.reg (CAN_CAP_NS m) = s.stampNs ∧
      t.reg (CAN_CAP_SEC m) = s.tbSec % 2 ^ 32 ∧
      t.on (CAN_TSCAP_DONE m) ∧
      t.bitAt (CAN_IR_IR m) 8 ∧
      t.fq = s.fq ∧
      Only s t [CAN_CAP_CNT m, CAN_CAP_NS m, CAN_CAP_SEC m, CAN_TSCAP m, CAN_IR m, ENG_IRQ_PEND 16, ENG_IRQ_PEND 17, ENG_IRQ_PEND 18, ENG_IRQ_PEND 19]) ∧
  (∀ (m : Fin 4) (p : Nat), s.on (CAN_TSC_EN m) → (s.can m).frozen = false → Gives (.canTscap m p) s fun t =>
      t.reg (CAN_TSCNT m) = (s.reg (CAN_TSCNT m) + ((s.can m).sub + p) / (s.rd (CAN_TSC_TSPRE m) + 1)) % 2 ^ 32 ∧
      t.reg (CAN_CAP_CNT m) = t.reg (CAN_TSCNT m) ∧
      (t.can m).sub = ((s.can m).sub + p) % (s.rd (CAN_TSC_TSPRE m) + 1) ∧
      t.reg (CAN_CAP_NS m) = s.stampNs ∧
      t.reg (CAN_CAP_SEC m) = s.tbSec % 2 ^ 32 ∧
      t.on (CAN_TSCAP_DONE m) ∧
      t.bitAt (CAN_IR_IR m) 8 ∧
      t.fq = s.fq ∧
      Only s t [CAN_TSCNT m, CAN_CAP_CNT m, CAN_CAP_NS m, CAN_CAP_SEC m, CAN_TSCAP m, CAN_IR m, ENG_IRQ_PEND 16, ENG_IRQ_PEND 17, ENG_IRQ_PEND 18, ENG_IRQ_PEND 19]) ∧
  (∀ (m : Fin 4) (o : Fin 64), Gives (.canRxsRead m o) s fun t =>
      t.on (CAN_OBJ_RXS_NEWDAT m o) = false ∧
      t.on (CAN_OBJ_RXS_MSGLST m o) = s.on (CAN_OBJ_RXS_MSGLST m o) ∧
      t.fq = s.fq ∧
      Only s t [CAN_OBJ_RXS m o]) ∧
  (∀ (m : Fin 4), s.canOn m → s.rd (CAN_ECNT_REC m) ≤ 126 → Gives (.canRxError m false false) s fun t =>
      t.rd (CAN_ECNT_REC m) = s.rd (CAN_ECNT_REC m) + 1 ∧
      t.rd (CAN_ECNT_TEC m) = s.rd (CAN_ECNT_TEC m) ∧
      t.rd (CAN_CNT3_ERR m) = min (s.rd (CAN_CNT3_ERR m) + 1) 65535 ∧
      Within s t [(CAN_CTL m, 0x1000), wENG]) ∧
  (∀ (m : Fin 4), s.canOn m → s.rd (CAN_ECNT_REC m) ≤ 119 → Gives (.canRxError m false true) s fun t =>
      t.rd (CAN_ECNT_REC m) = s.rd (CAN_ECNT_REC m) + 8 ∧
      t.rd (CAN_CNT3_ERR m) = min (s.rd (CAN_CNT3_ERR m) + 1) 65535 ∧
      Within s t [(CAN_CTL m, 0x1000), wENG]) ∧
  (∀ (m : Fin 4) (b : Bool),
    s.canOn m → (128 ≤ s.rd (CAN_ECNT_REC m) + (if b then 8 else 1)) → s.rd (CAN_STAT_STATE m) = 1 → 
    Gives (.canRxError m false b) s fun t =>
      t.rd (CAN_ECNT_REC m) = 127 ∧
      t.on (CAN_ECNT_RP m) ∧
      t.rd (CAN_STAT_STATE m) = 2 ∧
      t.bitAt (CAN_IR_IR m) 3 ∧
      Posted s t srcCAN m 1 clsLINK 0 (s.rd (CAN_ECNT_TEC m)) ∧
      t.rd (CAN_CNT3_ERR m) = min (s.rd (CAN_CNT3_ERR m) + 1) 65535 ∧
      Within s t [(CAN_CTL m, 0x1000), wENG]) ∧
  (∀ (m : Fin 4) (b : Bool), s.canOn m → s.on (CAN_CTL_PXHD m) = false → Gives (.canRxError m true b) s fun t =>
      t.on (CAN_STAT_PXE m) ∧
      t.bitAt (CAN_IR_IR m) 7 ∧
      Posted s t srcCAN m 7 clsLINK 0 0 ∧
      t.reg (CAN_ECNT m) = s.reg (CAN_ECNT m) ∧
      t.reg (CAN_CNT3 m) = s.reg (CAN_CNT3 m) ∧
      Only s t [CAN_STAT m, CAN_IR m, ENG_IRQ_PEND 16, ENG_IRQ_PEND 17, ENG_IRQ_PEND 18, ENG_IRQ_PEND 19]) ∧
  (∀ (m : Fin 4), s.canOn m → s.on (CAN_CTL_PXHD m) → s.rd (CAN_ECNT_REC m) ≤ 126 → Gives (.canRxError m true false) s fun t =>
      t.rd (CAN_ECNT_REC m) = s.rd (CAN_ECNT_REC m) + 1 ∧
      t.on (CAN_STAT_PXE m) = s.on (CAN_STAT_PXE m) ∧
      t.rd (CAN_CNT3_ERR m) = min (s.rd (CAN_CNT3_ERR m) + 1) 65535 ∧
      Within s t [(CAN_CTL m, 0x1000), wENG]) ∧
  (∀ (m : Fin 4) (x b : Bool), s.canOn m = false → Gives (.canRxError m x b) s fun t =>
      t = s) ∧
  (∀ (m : Fin 4) (o : Fin 64) (q : Bool),
    s.canOn m → s.rd (CAN_CTL_MODE m) ≠ 1 → s.on (CAN_OBJ_TXS_TXREQ m o) → o.val ∈ (s.can m).cands → 
    s.on (CAN_OBJ_TXS_CANC_PEND m o) = false → Gives (.canTxFail m o true q) s fun t =>
      t.rd (CAN_CNT3_ARB_LOST m) = min (s.rd (CAN_CNT3_ARB_LOST m) + 1) 65535 ∧
      t.on (CAN_OBJ_TXS_TXREQ m o) ∧
      t.reg (CAN_ECNT m) = s.reg (CAN_ECNT m) ∧
      t.fq = s.fq ∧
      Only s t [CAN_CNT3 m, CAN_STAT m]) ∧
  (∀ (m : Fin 4) (o : Fin 64),
    s.canOn m → s.rd (CAN_CTL_MODE m) ≠ 1 → s.on (CAN_OBJ_TXS_TXREQ m o) → o.val ∈ (s.can m).cands → 
    s.on (CAN_OBJ_TXS_CANC_PEND m o) = false → Gives (.canTxFail m o false true) s fun t =>
      t.rd (CAN_CNT3_ERR m) = min (s.rd (CAN_CNT3_ERR m) + 1) 65535 ∧
      t.on (CAN_OBJ_TXS_TXREQ m o) ∧
      t.reg (CAN_ECNT m) = s.reg (CAN_ECNT m) ∧
      t.fq = s.fq ∧
      Only s t [CAN_CNT3 m, CAN_STAT m]) ∧
  (∀ (m : Fin 4) (o : Fin 64) (x q : Bool),
    s.canOn m → s.rd (CAN_CTL_MODE m) ≠ 1 → s.on (CAN_OBJ_TXS_TXREQ m o) → o.val ∈ (s.can m).cands → 
    s.on (CAN_OBJ_TXS_CANC_PEND m o) → (x ∨ q) → Gives (.canTxFail m o x q) s fun t =>
      t.on (CAN_OBJ_TXS_TXREQ m o) = false ∧
      t.on (CAN_OBJ_TXS_CANCELLED m o) ∧
      t.on (CAN_OBJ_TXS_CANC_PEND m o) = false ∧
      t.bitAt (CAN_IR_IR m) 2 ∧
      t.rd (CAN_CNT_TX_CANC m) = min (s.rd (CAN_CNT_TX_CANC m) + 1) 65535 ∧
      t.reg (CAN_ECNT m) = s.reg (CAN_ECNT m) ∧
      t.fq = s.fq ∧
      Only s t [CAN_OBJ_TXS m o, CAN_CNT m, CAN_CNT3 m, CAN_IR m, CAN_STAT m, ENG_IRQ_PEND 16, ENG_IRQ_PEND 17, ENG_IRQ_PEND 18, ENG_IRQ_PEND 19]) ∧
  (∀ (m : Fin 4) (o : Fin 64),
    s.canOn m → s.rd (CAN_CTL_MODE m) ≠ 1 → s.on (CAN_OBJ_TXS_TXREQ m o) → o.val ∈ (s.can m).cands → 
    s.on (CAN_OBJ_TXS_CANC_PEND m o) = false → s.rd (CAN_ECNT_TEC m) < 248 → Gives (.canTxFail m o false false) s fun t =>
      t.rd (CAN_ECNT_TEC m) = s.rd (CAN_ECNT_TEC m) + 8 ∧
      (t.rd (CAN_STAT_STATE m) = (if 120 ≤ s.rd (CAN_ECNT_TEC m) ∨ s.on (CAN_ECNT_RP m) then 2 else 1)) ∧
      t.rd (CAN_CNT3_ERR m) = min (s.rd (CAN_CNT3_ERR m) + 1) 65535 ∧
      t.on (CAN_OBJ_TXS_TXREQ m o) ∧
      Within s t [(CAN_CTL m, 0x1000), wENG]) ∧
  (∀ (m : Fin 4) (o : Fin 64),
    s.canOn m → s.rd (CAN_CTL_MODE m) ≠ 1 → s.on (CAN_OBJ_TXS_TXREQ m o) → o.val ∈ (s.can m).cands → 
    s.on (CAN_OBJ_TXS_CANC_PEND m o) = false → 248 ≤ s.rd (CAN_ECNT_TEC m) → Gives (.canTxFail m o false false) s fun t =>
      t.rd (CAN_STAT_STATE m) = 3 ∧
      (t.can m).off ∧
      t.rd (CAN_ECNT_TEC m) = 255 ∧
      t.bitAt (CAN_IR_IR m) 4 ∧
      (s.on (CAN_CTL_ABO m) → t.on (CAN_STAT_RECOV m) ∧ t.rd (CAN_ECNT_BOC m) = 0) ∧
      Posted s t srcCAN m 2 clsLINK 1 0 ∧
      Within s t [(CAN_CTL m, 0x1000), wENG]) ∧
  (∀ (m : Fin 4) (o : Fin 64) (x q : Bool),
    (s.canOn m = false ∨ s.rd (CAN_CTL_MODE m) = 1 ∨ s.on (CAN_OBJ_TXS_TXREQ m o) = false ∨ o.val ∉ (s.can m).cands) → 
    Gives (.canTxFail m o x q) s fun t =>
      t = s) ∧
  (∀ (m : Fin 4),
    s.rd (CAN_STAT_STATE m) = 3 → s.on (CAN_STAT_RECOV m) = false → (s.can m).frozen = false → Gives (.canRecover m) s fun t =>
      t.on (CAN_STAT_RECOV m) ∧
      t.rd (CAN_ECNT_BOC m) = 0 ∧
      t.rd (CAN_STAT_STATE m) = 3 ∧
      t.fq = s.fq ∧
      Only s t [CAN_STAT m, CAN_ECNT m]) ∧
  (∀ (m : Fin 4), (s.rd (CAN_STAT_STATE m) ≠ 3 ∨ s.on (CAN_STAT_RECOV m) ∨ (s.can m).frozen) → Gives (.canRecover m) s fun t =>
      t = s) ∧
  (∀ (m : Fin 4),
    s.asterRuns → s.rd (CAN_STAT_STATE m) = 3 → s.on (CAN_STAT_RECOV m) → (s.can m).frozen = false → 
    Gives (.canBusoffRecovered m) s fun t =>
      t.rd (CAN_STAT_STATE m) = 1 ∧
      t.rd (CAN_ECNT_TEC m) = 0 ∧
      t.rd (CAN_ECNT_REC m) = 0 ∧
      t.on (CAN_ECNT_RP m) = false ∧
      t.rd (CAN_ECNT_BOC m) = 128 ∧
      t.on (CAN_STAT_RECOV m) = false ∧
      (t.can m).off = false ∧
      t.bitAt (CAN_IR_IR m) 5 ∧
      Posted s t srcCAN m 3 clsLINK 0 0 ∧
      Only s t [CAN_STAT m, CAN_ECNT m, CAN_IR m, ENG_IRQ_PEND 16, ENG_IRQ_PEND 17, ENG_IRQ_PEND 18, ENG_IRQ_PEND 19]) ∧
  (∀ (m : Fin 4),
    (s.asterRuns = false ∨ s.rd (CAN_STAT_STATE m) ≠ 3 ∨ s.on (CAN_STAT_RECOV m) = false ∨ (s.can m).frozen) → 
    Gives (.canBusoffRecovered m) s fun t =>
      t = s) ∧
  (∀ (m : Fin 4),
    s.on (CAN_CTL_INIT m) → (s.can m).frozen = false → s.rd (CAN_ECNT_TEC m) < 128 → s.on (CAN_ECNT_RP m) = false → 
    (s.can m).off = false → s.samIgnored m = false → Gives (.canInitClear m) s fun t =>
      t.on (CAN_CTL_INIT m) = false ∧
      t.rd (CAN_STAT_STATE m) = 1 ∧
      t.rd (CAN_STAT_ACT m) = 3 ∧
      t.on (CAN_STAT_SAM_IGN m) = false ∧
      t.fq = s.fq ∧
      Only s t [CAN_CTL m, CAN_STAT m]) ∧
  (∀ (m : Fin 4),
    s.on (CAN_CTL_INIT m) → (s.can m).frozen = false → s.rd (CAN_ECNT_TEC m) < 128 → s.on (CAN_ECNT_RP m) = false → 
    (s.can m).off = false → s.samIgnored m → Gives (.canInitClear m) s fun t =>
      t.on (CAN_CTL_INIT m) = false ∧
      t.rd (CAN_STAT_STATE m) = 1 ∧
      t.rd (CAN_STAT_ACT m) = 3 ∧
      t.on (CAN_STAT_SAM_IGN m) ∧
      Posted s t srcCAN m 4 clsCONFIG 0 0 ∧
      Only s t [CAN_CTL m, CAN_STAT m]) ∧
  (∀ (m : Fin 4),
    s.on (CAN_CTL_INIT m) → (s.can m).frozen = false → (s.can m).off → s.samIgnored m = false → Gives (.canInitClear m) s fun t =>
      t.on (CAN_CTL_INIT m) = false ∧
      t.rd (CAN_STAT_STATE m) = 3 ∧
      t.fq = s.fq ∧
      Only s t [CAN_CTL m, CAN_STAT m]) ∧
  (∀ (m : Fin 4),
    s.on (CAN_CTL_INIT m) → (s.can m).frozen = false → (s.can m).off = false → 
    (128 ≤ s.rd (CAN_ECNT_TEC m) ∨ s.on (CAN_ECNT_RP m)) → Gives (.canInitClear m) s fun t =>
      t.on (CAN_CTL_INIT m) = false ∧
      t.rd (CAN_STAT_STATE m) = 2 ∧
      t.rd (CAN_STAT_ACT m) = 3 ∧
      Within s t [(CAN_CTL m, 0x1000), wENG]) ∧
  (∀ (m : Fin 4), (s.on (CAN_CTL_INIT m) = false ∨ (s.can m).frozen) → Gives (.canInitClear m) s fun t =>
      t = s) ∧
  (∀ (m : Fin 4), (s.can m).frozen = false → Gives (.canClockStop m) s fun t =>
      (t.can m).frozen ∧
      t.on (CAN_STAT_CLKSTOP m) ∧
      t.rd (CAN_STAT_STATE m) = s.rd (CAN_STAT_STATE m) ∧
      Posted s t srcCAN m 6 clsCLOCK 1 0 ∧
      Only s t [CAN_STAT m]) ∧
  (∀ (m : Fin 4), (s.can m).frozen → Gives (.canClockStop m) s fun t =>
      t = s)

/-! ### Host interface and trace (chapter 19) -/

/-- The link comes up with width and speed and goes down with a fault, a descriptor in progress ending with status 3; PERST resets the
endpoint and keeps doorbells and mailbox; mailbox words pass in order, a full queue drops or refuses, an empty one gives nothing; a vector
that can be sent goes to its address with its data, any other stays pending; a TAIL that names a descriptor and takes none from the
channel is stored, any other refused; a DMA descriptor moves its data, or ends with status 1 (the host answers with an error) or 2 (its
device range is none that DMA reaches), and returns with its status and stamp (19_host_interface_and_trace.md R492 to R500). -/
def Obligations.HostInterface : Prop := ∀ s : State,
  (∀ (w v : Fin 3), Gives (.pcieLinkUp w v) s fun t =>
      t.on HOST_LINK_UP ∧
      t.rd HOST_LINK_WIDTH = 2 ^ w.val ∧
      t.rd HOST_LINK_SPEED = v + 1 ∧
      t.on HOST_LINK_BME = s.on HOST_LINK_BME ∧
      (s.on HOST_LINK_BME → ∀ v : Fin 32, s.on (HOST_MSIX_VCTL_MASK v) = false → t.bitAt HOST_MSIX_PBA_PEND v = false) ∧
      t.host.h2d = s.host.h2d ∧ t.host.d2h = s.host.d2h ∧
      t.fq = s.fq ∧
      Only s t [HOST_LINK, HOST_MSIX_PBA]) ∧
  (s.on HOST_LINK_UP → (∀ d : Fin 4, s.dmaBusy d = false) → Gives .pcieLinkDown s fun t =>
      t.on HOST_LINK_UP = false ∧
      t.rd HOST_LINK_WIDTH = 0 ∧ t.rd HOST_LINK_SPEED = 0 ∧
      t.on HOST_LINK_BME = s.on HOST_LINK_BME ∧
      Posted s t srcHOST 0 3 clsLINK 1 0 ∧
      t.host = s.host ∧
      Only s t [HOST_LINK]) ∧
  (∀ (d : Fin 4),
    s.on HOST_LINK_UP → s.dmaBusy d → (∀ e : Fin 4, e ≠ d → s.dmaBusy e = false) → inSram (s.dmaDesc d + 31) → 
    Gives .pcieLinkDown s fun t =>
      t.on HOST_LINK_UP = false ∧
      t.rd (HOST_DMA_HEAD_HEAD d) = (s.rd (HOST_DMA_HEAD_HEAD d) + 1) % s.rd (HOST_DMA_RING_LEN_LEN d) ∧
      t.load (s.dmaDesc d + 12) 4 / 2 ^ 28 = 3 ∧
      t.rd (HOST_DMA_ERR_COUNT d) = min (s.rd (HOST_DMA_ERR_COUNT d) + 1) 65535 ∧
      RegsIn s t [(HOST_DMA_HEAD d, 4), (HOST_DMA_ERR d, 4), (HOST_MSIX_PBA, 4), (HOST_LINK, 4)] ∧
      Stores s t (s.dmaDesc d + 12) 8) ∧
  (s.on HOST_LINK_UP = false → Gives .pcieLinkDown s fun t =>
      t = s) ∧
  (Gives .perst s fun t =>
      (∀ d : Fin 4, t.reg (HOST_DMA_CTL d) = 0 ∧ t.reg (HOST_DMA_HEAD d) = 0 ∧ t.reg (HOST_DMA_TAIL d) = 0) ∧
      (∀ v : Fin 32, t.reg (HOST_MSIX_ADDR_LO v) = 0 ∧ t.reg (HOST_MSIX_DATA v) = 0 ∧ t.on (HOST_MSIX_VCTL_MASK v)) ∧
      t.on HOST_LINK_UP = false ∧
      t.on HOST_LINK_BME = false ∧
      t.reg HOST_MSIX_PBA = 0 ∧
      t.reg HOST_DB_STAT = s.reg HOST_DB_STAT ∧
      (∀ i : Fin 8, t.reg (HOST_DB_VAL i) = s.reg (HOST_DB_VAL i)) ∧
      t.host.h2d = s.host.h2d ∧ t.host.d2h = s.host.d2h ∧
      (s.on HOST_LINK_UP = false → t.mem = s.mem ∧ t.fq = s.fq) ∧
      RegsIn s t [wHOST] ∧
      SramOnly s t) ∧
  (Gives .bmeSet s fun t =>
      t.on HOST_LINK_BME ∧
      (s.on HOST_LINK_UP → ∀ v : Fin 32, s.on (HOST_MSIX_VCTL_MASK v) = false → t.bitAt HOST_MSIX_PBA_PEND v = false) ∧
      t.on HOST_LINK_UP = s.on HOST_LINK_UP ∧
      t.fq = s.fq ∧
      Only s t [HOST_LINK, HOST_MSIX_PBA]) ∧
  (Gives .bmeClear s fun t =>
      t.on HOST_LINK_BME = false ∧
      t.on HOST_LINK_UP = s.on HOST_LINK_UP ∧
      t.fq = s.fq ∧
      t.host = s.host ∧
      Only s t [HOST_LINK]) ∧
  (∀ (w : BitVec 32), s.on HOST_LINK_UP → s.host.h2d.length < 32 → Gives (.h2dWrite w) s fun t =>
      t.host.h2d = s.host.h2d ++ [w] ∧
      t.host.d2h = s.host.d2h ∧
      t.rd HOST_MBX_STAT_H2D_OCC = s.host.h2d.length + 1 ∧
      t.bitAt (ENG_IRQ_PEND_PEND (16 + s.rd HOST_DB_ROUTE_MBX)) 4 ∧
      t.fq = s.fq ∧
      Only s t [HOST_MBX_STAT, ENG_IRQ_PEND 16, ENG_IRQ_PEND 17, ENG_IRQ_PEND 18, ENG_IRQ_PEND 19]) ∧
  (∀ (w : BitVec 32), s.on HOST_LINK_UP → 32 ≤ s.host.h2d.length → Gives (.h2dWrite w) s fun t =>
      t.host = s.host ∧
      t.rd HOST_MBX_STAT_H2D_DROP = min (s.rd HOST_MBX_STAT_H2D_DROP + 1) 65535 ∧
      Posted s t srcHOST 0 1 clsLINK 0 0 ∧
      Only s t [HOST_MBX_STAT]) ∧
  (∀ (w : BitVec 32), s.on HOST_LINK_UP = false → Gives (.h2dWrite w) s fun t =>
      t = s) ∧
  (∀ (w : BitVec 32) (r : List (BitVec 32)), s.host.h2d = w :: r → r.length < 32 → Gives .h2dRead s fun t =>
      t.host.h2d = r ∧
      t.host.d2h = s.host.d2h ∧
      t.rd HOST_MBX_STAT_H2D_OCC = r.length ∧
      t.fq = s.fq ∧
      Only s t [HOST_MBX_STAT, ENG_IRQ_PEND 16, ENG_IRQ_PEND 17, ENG_IRQ_PEND 18, ENG_IRQ_PEND 19]) ∧
  (s.host.h2d = [] → Gives .h2dRead s fun t =>
      t = s) ∧
  (∀ (w : BitVec 32), s.host.d2h.length < 32 → Gives (.d2hWrite w) s fun t =>
      t.host.d2h = s.host.d2h ++ [w] ∧
      t.host.h2d = s.host.h2d ∧
      t.rd HOST_MBX_STAT_D2H_OCC = s.host.d2h.length + 1 ∧
      (s.on (HOST_MSIX_VCTL_MASK 6) ∨ s.on HOST_LINK_BME = false ∨ s.on HOST_LINK_UP = false → t.bitAt HOST_MSIX_PBA_PEND 6) ∧
      (s.on (HOST_MSIX_VCTL_MASK 6) = false → s.on HOST_LINK_BME → s.on HOST_LINK_UP → t.host.out.head? = some (s.reg (HOST_MSIX_ADDR_LO 6) + 2 ^ 32 * s.reg (HOST_MSIX_ADDR_HI 6), toBytes 4 (s.reg (HOST_MSIX_DATA 6)))) ∧
      t.fq = s.fq ∧
      Only s t [HOST_MBX_STAT, HOST_MSIX_PBA]) ∧
  (∀ (w : BitVec 32), 32 ≤ s.host.d2h.length → Gives (.d2hWrite w) s fun t =>
      t.host = s.host ∧
      t.on HOST_MBX_STAT_D2H_FULL ∧
      t.fq = s.fq ∧
      Only s t [HOST_MBX_STAT]) ∧
  (∀ (w : BitVec 32) (r : List (BitVec 32)), s.on HOST_LINK_UP → s.host.d2h = w :: r → r.length < 32 → Gives .d2hRead s fun t =>
      t.host.d2h = r ∧
      t.host.h2d = s.host.h2d ∧
      t.rd HOST_MBX_STAT_D2H_OCC = r.length ∧
      t.fq = s.fq ∧
      Only s t [HOST_MBX_STAT, HOST_MSIX_PBA]) ∧
  ((s.on HOST_LINK_UP = false ∨ s.host.d2h = []) → Gives .d2hRead s fun t =>
      t = s) ∧
  (∀ (v : Fin 32),
    8 ≤ v.val → (s.on (HOST_MSIX_VCTL_MASK v) ∨ s.on HOST_LINK_BME = false ∨ s.on HOST_LINK_UP = false) → 
    Gives (.msixSend v) s fun t =>
      t.bitAt HOST_MSIX_PBA_PEND v ∧
      t.host = s.host ∧
      t.fq = s.fq ∧
      Only s t [HOST_MSIX_PBA]) ∧
  (∀ (v : Fin 32),
    8 ≤ v.val → s.on (HOST_MSIX_VCTL_MASK v) = false → s.on HOST_LINK_BME → s.on HOST_LINK_UP → Gives (.msixSend v) s fun t =>
      t.host.out.head? = some (s.reg (HOST_MSIX_ADDR_LO v) + 2 ^ 32 * s.reg (HOST_MSIX_ADDR_HI v), toBytes 4 (s.reg (HOST_MSIX_DATA v))) ∧
      t.host.h2d = s.host.h2d ∧ t.host.d2h = s.host.d2h ∧
      t.fq = s.fq ∧
      Only s t []) ∧
  (∀ (v : Fin 32), v.val < 8 → Gives (.msixSend v) s fun t =>
      t.host = s.host ∧
      Posted s t srcHOST 0 0xF1 clsCONFIG 1 HOST_MSIX_SEND ∧
      Only s t []) ∧
  (∀ (v : Fin 32), Gives (.msixUnmask v) s fun t =>
      t.on (HOST_MSIX_VCTL_MASK v) = false ∧
      (s.on HOST_LINK_UP → s.on HOST_LINK_BME → t.bitAt HOST_MSIX_PBA_PEND v = false) ∧
      t.fq = s.fq ∧
      Only s t [HOST_MSIX_VCTL v, HOST_MSIX_PBA]) ∧
  (∀ (d : Fin 4) (v : BitVec 8),
    v.toNat < s.rd (HOST_DMA_RING_LEN_LEN d) → 
    (s.rd (HOST_DMA_TAIL_TAIL d) + s.rd (HOST_DMA_RING_LEN_LEN d) - s.rd (HOST_DMA_HEAD_HEAD d)) % s.rd (HOST_DMA_RING_LEN_LEN d) ≤ (v.toNat + s.rd (HOST_DMA_RING_LEN_LEN d) - s.rd (HOST_DMA_HEAD_HEAD d)) % s.rd (HOST_DMA_RING_LEN_LEN d) → 
    Gives (.dmaTailWrite d v) s fun t =>
      t.rd (HOST_DMA_TAIL_TAIL d) = v.toNat ∧
      t.fq = s.fq ∧
      Only s t [HOST_DMA_TAIL d]) ∧
  (∀ (d : Fin 4) (v : BitVec 8),
    
    (s.rd (HOST_DMA_RING_LEN_LEN d) ≤ v.toNat ∨ ¬ (s.rd (HOST_DMA_TAIL_TAIL d) + s.rd (HOST_DMA_RING_LEN_LEN d) - s.rd (HOST_DMA_HEAD_HEAD d)) % s.rd (HOST_DMA_RING_LEN_LEN d) ≤ (v.toNat + s.rd (HOST_DMA_RING_LEN_LEN d) - s.rd (HOST_DMA_HEAD_HEAD d)) % s.rd (HOST_DMA_RING_LEN_LEN d)) → 
    Gives (.dmaTailWrite d v) s fun t =>
      Only s t [] ∧
      Posted s t srcHOST 0 0xF1 clsCONFIG 1 (HOST_DMA_TAIL d)) ∧
  (∀ (d : Fin 4) (l : List (BitVec 8)) (a n : Nat),
    s.dmaBusy d → s.load (s.dmaDesc d + 8) 4 = a → s.load (s.dmaDesc d + 12) 4 % 2 ^ 21 = n → inSram (s.dmaDesc d + 31) → 
    a + n ≤ 0x400000 → n ≤ l.length → (s.load (s.dmaDesc d + 12) 4).testBit 24 = false → 
    (a + n ≤ s.dmaDesc d ∨ s.dmaDesc d + 32 ≤ a) → Gives (.dmaDescriptorDone d false l) s fun t =>
      t.bytes a n = l.take n ∧
      t.rd (HOST_DMA_HEAD_HEAD d) = (s.rd (HOST_DMA_HEAD_HEAD d) + 1) % s.rd (HOST_DMA_RING_LEN_LEN d) ∧
      t.load (s.dmaDesc d + 12) 4 / 2 ^ 28 = 0 ∧
      t.load (s.dmaDesc d + 16) 4 = s.stampNs ∧
      ((s.load (s.dmaDesc d + 12) 4).testBit 26 → s.on (HOST_DMA_CTL_IRQ_EN d) → s.on (HOST_MSIX_VCTL_MASK (1 + d)) → t.bitAt HOST_MSIX_PBA_PEND (1 + d)) ∧
      t.rd (HOST_DMA_ERR_COUNT d) = s.rd (HOST_DMA_ERR_COUNT d) ∧
      t.fq = s.fq ∧
      RegsIn s t [(HOST_DMA_HEAD d, 4), (HOST_DMA_ERR d, 4), (HOST_MSIX_PBA, 4)] ∧
      StoresIn s t [(a, n), (s.dmaDesc d + 12, 8)]) ∧
  (∀ (d : Fin 4) (l : List (BitVec 8)) (a n : Nat),
    s.dmaBusy d → s.load (s.dmaDesc d + 8) 4 = a → s.load (s.dmaDesc d + 12) 4 % 2 ^ 21 = n → inSram (s.dmaDesc d + 31) → 
    a + n ≤ 0x400000 → (s.load (s.dmaDesc d + 12) 4).testBit 24 → (s.load (s.dmaDesc d + 12) 4).testBit 26 = false → 
    Gives (.dmaDescriptorDone d false l) s fun t =>
      t.host.out.head? = some (s.load (s.dmaDesc d) 4 + 2 ^ 32 * s.load (s.dmaDesc d + 4) 4, s.bytes a n) ∧
      t.rd (HOST_DMA_HEAD_HEAD d) = (s.rd (HOST_DMA_HEAD_HEAD d) + 1) % s.rd (HOST_DMA_RING_LEN_LEN d) ∧
      t.load (s.dmaDesc d + 12) 4 / 2 ^ 28 = 0 ∧
      t.load (s.dmaDesc d + 16) 4 = s.stampNs ∧
      t.fq = s.fq ∧
      RegsIn s t [(HOST_DMA_HEAD d, 4), (HOST_DMA_ERR d, 4), (HOST_MSIX_PBA, 4)] ∧
      Stores s t (s.dmaDesc d + 12) 8) ∧
  (∀ (d : Fin 4) (l : List (BitVec 8)) (a n : Nat) (e : Bool),
    s.dmaBusy d → s.load (s.dmaDesc d + 8) 4 = a → s.load (s.dmaDesc d + 12) 4 % 2 ^ 21 = n → inSram (s.dmaDesc d + 31) → 
    s.dmaOk a n (!(s.load (s.dmaDesc d + 12) 4).testBit 24) → 
    (e ∨ ((s.load (s.dmaDesc d + 12) 4).testBit 24 = false ∧ l.length < n)) → Gives (.dmaDescriptorDone d e l) s fun t =>
      t.rd (HOST_DMA_HEAD_HEAD d) = (s.rd (HOST_DMA_HEAD_HEAD d) + 1) % s.rd (HOST_DMA_RING_LEN_LEN d) ∧
      t.load (s.dmaDesc d + 12) 4 / 2 ^ 28 = 1 ∧
      t.load (s.dmaDesc d + 16) 4 = s.stampNs ∧
      t.rd (HOST_DMA_ERR_COUNT d) = min (s.rd (HOST_DMA_ERR_COUNT d) + 1) 65535 ∧
      Posted s t srcHOST 0 2 clsLINK 1 d ∧
      RegsIn s t [(HOST_DMA_HEAD d, 4), (HOST_DMA_ERR d, 4), (HOST_MSIX_PBA, 4)] ∧
      Stores s t (s.dmaDesc d + 12) 8) ∧
  (∀ (d : Fin 4) (l : List (BitVec 8)) (a n : Nat) (e : Bool),
    s.dmaBusy d → s.load (s.dmaDesc d + 8) 4 = a → s.load (s.dmaDesc d + 12) 4 % 2 ^ 21 = n → inSram (s.dmaDesc d + 31) → 
    s.dmaOk a n (!(s.load (s.dmaDesc d + 12) 4).testBit 24) = false → Gives (.dmaDescriptorDone d e l) s fun t =>
      t.rd (HOST_DMA_HEAD_HEAD d) = (s.rd (HOST_DMA_HEAD_HEAD d) + 1) % s.rd (HOST_DMA_RING_LEN_LEN d) ∧
      t.load (s.dmaDesc d + 12) 4 / 2 ^ 28 = 2 ∧
      t.load (s.dmaDesc d + 16) 4 = s.stampNs ∧
      t.rd (HOST_DMA_ERR_COUNT d) = min (s.rd (HOST_DMA_ERR_COUNT d) + 1) 65535 ∧
      Posted s t srcHOST 0 2 clsLINK 1 d ∧
      RegsIn s t [(HOST_DMA_HEAD d, 4), (HOST_DMA_ERR d, 4), (HOST_MSIX_PBA, 4)] ∧
      Stores s t (s.dmaDesc d + 12) 8) ∧
  (∀ (d : Fin 4) (e : Bool) (l : List (BitVec 8)), s.dmaBusy d = false → Gives (.dmaDescriptorDone d e l) s fun t =>
      t = s)

/-- A host write of DB_VAL[i] stores the word, sets PEND bit i and source 4 of the engine named, and over a PEND of 1 also sets OVR and posts
DB_OVR; without the link it does nothing; a program clears PEND. With Bus Master Enable clear, DMA channels hold their descriptor, stream
records are dropped and counted, MSI-X messages stay pending (19_host_interface_and_trace.md R496, R497). -/
def Obligations.DoorbellsAndBusMaster : Prop := ∀ s : State,
  (∀ (i : Fin 8) (w : BitVec 32), s.on HOST_LINK_UP → s.bitAt HOST_DB_STAT_PEND i = false → Gives (.doorbellWrite i w) s fun t =>
      t.reg (HOST_DB_VAL i) = w.toNat ∧
      t.bitAt HOST_DB_STAT_PEND i ∧
      t.bitAt HOST_DB_STAT_OVR i = s.bitAt HOST_DB_STAT_OVR i ∧
      t.bitAt (ENG_IRQ_PEND_PEND (16 + s.rd (HOST_DB_ROUTE_ENG i))) 4 ∧
      t.fq = s.fq ∧
      Only s t [HOST_DB_VAL i, HOST_DB_STAT, ENG_IRQ_PEND 16, ENG_IRQ_PEND 17, ENG_IRQ_PEND 18, ENG_IRQ_PEND 19]) ∧
  (∀ (i : Fin 8) (w : BitVec 32), s.on HOST_LINK_UP → s.bitAt HOST_DB_STAT_PEND i → Gives (.doorbellWrite i w) s fun t =>
      t.reg (HOST_DB_VAL i) = w.toNat ∧
      t.bitAt HOST_DB_STAT_PEND i ∧
      t.bitAt HOST_DB_STAT_OVR i ∧
      t.bitAt (ENG_IRQ_PEND_PEND (16 + s.rd (HOST_DB_ROUTE_ENG i))) 4 ∧
      Posted s t srcHOST 0 4 clsLINK 0 i ∧
      Only s t [HOST_DB_VAL i, HOST_DB_STAT, ENG_IRQ_PEND 16, ENG_IRQ_PEND 17, ENG_IRQ_PEND 18, ENG_IRQ_PEND 19]) ∧
  (∀ (i : Fin 8) (w : BitVec 32), s.on HOST_LINK_UP = false → Gives (.doorbellWrite i w) s fun t =>
      t = s) ∧
  (∀ (j : Fin 4) (v : BitVec 32),
    s.on RST_BLK_STAT_BUSY = false → Gives (.registerWrite (.aster j) (BitVec.ofNat 32 HOST_DB_STAT) v) s fun t =>
      t.rd HOST_DB_STAT_PEND = Nat.land (s.rd HOST_DB_STAT_PEND) (255 - v.toNat % 256) ∧
      (∀ i : Fin 8, t.reg (HOST_DB_VAL i) = s.reg (HOST_DB_VAL i)) ∧
      Only s t [HOST_DB_STAT]) ∧
  (∀ (d : Fin 4) (e : Bool) (l : List (BitVec 8)), s.on HOST_LINK_BME = false → Gives (.dmaDescriptorDone d e l) s fun t =>
      t = s) ∧
  (∀ (b : Bool) (x y z u : BitVec 32) (r : List (Word × Word × Word × Word)),
    s.on HOST_LINK_BME = false → s.trc.q = (x, y, z, u) :: r → s.rd TRC_CTL_MODE = 3 → s.rd TRC_STAT_STATE ≠ 3 → 
    s.on (TRC_PROBE_STREAM (y.toNat % 64)) → Gives (.recordDrain b) s fun t =>
      t.trc.q = r ∧
      (t.rd TRC_STR_STAT_QDROP = min (s.rd TRC_STR_STAT_QDROP + 1) 255 ∨ t.rd TRC_STR_STAT_RDROP = min (s.rd TRC_STR_STAT_RDROP + 1) 65535) ∧
      t.trc.page = s.trc.page ∧
      t.host = s.host ∧
      t.fq = s.fq ∧
      Only s t [TRC_STR_STAT]) ∧
  (∀ (v : Fin 32), 8 ≤ v.val → s.on HOST_LINK_BME = false → Gives (.msixSend v) s fun t =>
      t.bitAt HOST_MSIX_PBA_PEND v ∧
      t.host = s.host ∧
      Only s t [HOST_MSIX_PBA])

/-- A record waiting is dropped with MODE 0 or outside a capture, is written at WPTR, which moves on and wraps, in an armed or triggered one,
and ends a capture whose POST records or, in ONE-SHOT, whose memory are full; in STREAM it goes to its place in the open page, opens a
page with a credit, or is dropped and counted; ARM starts at the base; FORCE triggers an armed capture that has its PRE records, sending
vector 5, and counts any other; STOP completes a capture; a grant of credits that fits is held, one beyond the buffer is refused whole
with a fault (19_host_interface_and_trace.md R501 to R504). -/
def Obligations.TraceCapture : Prop := ∀ s : State,
  (∀ (b : Bool), s.trc.q = [] → Gives (.recordDrain b) s fun t =>
      t = s) ∧
  (∀ (b : Bool) (x y z u : BitVec 32) (r : List (Word × Word × Word × Word)),
    s.trc.q = (x, y, z, u) :: r → 
    (s.rd TRC_CTL_MODE = 0 ∨ (s.rd TRC_CTL_MODE ≠ 3 ∧ s.rd TRC_STAT_STATE ≠ 1 ∧ s.rd TRC_STAT_STATE ≠ 2)) → 
    Gives (.recordDrain b) s fun t =>
      t.trc.q = r ∧
      t.trc.written = s.trc.written ∧
      t.fq = s.fq ∧
      Only s t []) ∧
  (∀ (b : Bool) (x y z u : BitVec 32) (r : List (Word × Word × Word × Word)),
    s.trc.q = (x, y, z, u) :: r → s.rd TRC_CTL_MODE = 2 → s.rd TRC_STAT_STATE = 1 → s.rd TRC_WPTR_IDX + 1 < s.trcCap → 
    Gives (.recordDrain b) s fun t =>
      t.rd TRC_WPTR_IDX = s.rd TRC_WPTR_IDX + 1 ∧
      t.rd TRC_STAT_STATE = 1 ∧
      t.reg TRC_STAT = s.reg TRC_STAT ∧
      t.fq = s.fq ∧
      RegsIn s t [(TRC_WPTR, 4)] ∧
      t.trc.q = r ∧
      t.trc.written = s.trc.written + 1 ∧
      t.load (0x1000000 + 16 * s.rd TRC_WPTR_IDX) 4 = x.toNat ∧
      t.load ((0x1000000 + 16 * s.rd TRC_WPTR_IDX) + 4) 4 = y.toNat ∧
      t.load ((0x1000000 + 16 * s.rd TRC_WPTR_IDX) + 8) 4 = z.toNat ∧
      t.load ((0x1000000 + 16 * s.rd TRC_WPTR_IDX) + 12) 4 = u.toNat ∧
      Stores s t (0x1000000 + 16 * s.rd TRC_WPTR_IDX) 16) ∧
  (∀ (b : Bool) (x y z u : BitVec 32) (r : List (Word × Word × Word × Word)),
    s.trc.q = (x, y, z, u) :: r → s.rd TRC_CTL_MODE = 2 → s.rd TRC_STAT_STATE = 1 → s.rd TRC_WPTR_IDX + 1 = s.trcCap → 
    Gives (.recordDrain b) s fun t =>
      t.rd TRC_WPTR_IDX = 0 ∧
      t.on TRC_STAT_WRAP ∧
      t.rd TRC_STAT_STATE = 1 ∧
      t.fq = s.fq ∧
      RegsIn s t [(TRC_WPTR, 4), (TRC_STAT, 4)] ∧
      t.trc.q = r ∧
      t.trc.written = s.trc.written + 1 ∧
      t.load (0x1000000 + 16 * s.rd TRC_WPTR_IDX) 4 = x.toNat ∧
      t.load ((0x1000000 + 16 * s.rd TRC_WPTR_IDX) + 4) 4 = y.toNat ∧
      t.load ((0x1000000 + 16 * s.rd TRC_WPTR_IDX) + 8) 4 = z.toNat ∧
      t.load ((0x1000000 + 16 * s.rd TRC_WPTR_IDX) + 12) 4 = u.toNat ∧
      Stores s t (0x1000000 + 16 * s.rd TRC_WPTR_IDX) 16) ∧
  (∀ (b : Bool) (x y z u : BitVec 32) (r : List (Word × Word × Word × Word)),
    s.trc.q = (x, y, z, u) :: r → (s.rd TRC_CTL_MODE = 1 ∨ s.rd TRC_CTL_MODE = 2) → s.rd TRC_STAT_STATE = 2 → 1 < s.trc.left → 
    s.rd TRC_WPTR_IDX + 1 < s.trcCap → s.trc.written + 1 ≠ s.trcCap → Gives (.recordDrain b) s fun t =>
      t.rd TRC_WPTR_IDX = s.rd TRC_WPTR_IDX + 1 ∧
      t.trc.left = s.trc.left - 1 ∧
      t.rd TRC_STAT_STATE = 2 ∧
      t.fq = s.fq ∧
      RegsIn s t [(TRC_WPTR, 4)] ∧
      t.trc.q = r ∧
      t.trc.written = s.trc.written + 1 ∧
      t.load (0x1000000 + 16 * s.rd TRC_WPTR_IDX) 4 = x.toNat ∧
      t.load ((0x1000000 + 16 * s.rd TRC_WPTR_IDX) + 4) 4 = y.toNat ∧
      t.load ((0x1000000 + 16 * s.rd TRC_WPTR_IDX) + 8) 4 = z.toNat ∧
      t.load ((0x1000000 + 16 * s.rd TRC_WPTR_IDX) + 12) 4 = u.toNat ∧
      Stores s t (0x1000000 + 16 * s.rd TRC_WPTR_IDX) 16) ∧
  (∀ (b : Bool) (x y z u : BitVec 32) (r : List (Word × Word × Word × Word)),
    s.trc.q = (x, y, z, u) :: r → (s.rd TRC_CTL_MODE = 1 ∨ s.rd TRC_CTL_MODE = 2) → s.rd TRC_STAT_STATE = 2 → s.trc.left = 1 → 
    Gives (.recordDrain b) s fun t =>
      t.rd TRC_STAT_STATE = 3 ∧
      t.on TRC_STAT_DONE ∧
      t.bitAt (ENG_IRQ_PEND_PEND 16) 13 ∧ t.bitAt (ENG_IRQ_PEND_PEND 19) 13 ∧
      (s.on (HOST_MSIX_VCTL_MASK 5) → t.bitAt HOST_MSIX_PBA_PEND 5) ∧
      t.fq = s.fq ∧
      RegsIn s t [(TRC_WPTR, 4), (TRC_STAT, 4), (HOST_MSIX_PBA, 4), wENG] ∧
      t.trc.q = r ∧
      t.trc.written = s.trc.written + 1 ∧
      t.load (0x1000000 + 16 * s.rd TRC_WPTR_IDX) 4 = x.toNat ∧
      t.load ((0x1000000 + 16 * s.rd TRC_WPTR_IDX) + 4) 4 = y.toNat ∧
      t.load ((0x1000000 + 16 * s.rd TRC_WPTR_IDX) + 8) 4 = z.toNat ∧
      t.load ((0x1000000 + 16 * s.rd TRC_WPTR_IDX) + 12) 4 = u.toNat ∧
      Stores s t (0x1000000 + 16 * s.rd TRC_WPTR_IDX) 16) ∧
  (∀ (b : Bool) (x y z u : BitVec 32) (r : List (Word × Word × Word × Word)),
    s.trc.q = (x, y, z, u) :: r → s.rd TRC_CTL_MODE = 1 → s.rd TRC_STAT_STATE = 1 → s.trc.written + 1 = s.trcCap → 
    Gives (.recordDrain b) s fun t =>
      t.rd TRC_STAT_STATE = 3 ∧
      t.on TRC_STAT_DONE ∧
      t.bitAt (ENG_IRQ_PEND_PEND 16) 13 ∧ t.bitAt (ENG_IRQ_PEND_PEND 19) 13 ∧
      (s.on (HOST_MSIX_VCTL_MASK 5) → t.bitAt HOST_MSIX_PBA_PEND 5) ∧
      t.fq = s.fq ∧
      RegsIn s t [(TRC_WPTR, 4), (TRC_STAT, 4), (HOST_MSIX_PBA, 4), wENG] ∧
      t.trc.q = r ∧
      t.trc.written = s.trc.written + 1 ∧
      t.load (0x1000000 + 16 * s.rd TRC_WPTR_IDX) 4 = x.toNat ∧
      t.load ((0x1000000 + 16 * s.rd TRC_WPTR_IDX) + 4) 4 = y.toNat ∧
      t.load ((0x1000000 + 16 * s.rd TRC_WPTR_IDX) + 8) 4 = z.toNat ∧
      t.load ((0x1000000 + 16 * s.rd TRC_WPTR_IDX) + 12) 4 = u.toNat ∧
      Stores s t (0x1000000 + 16 * s.rd TRC_WPTR_IDX) 16) ∧
  (∀ (b : Bool) (x y z u : BitVec 32) (r : List (Word × Word × Word × Word)),
    s.trc.q = (x, y, z, u) :: r → s.rd TRC_CTL_MODE = 3 → 
    (s.on (TRC_PROBE_STREAM (y.toNat % 64)) = false ∨ s.rd TRC_STAT_STATE = 3) → Gives (.recordDrain b) s fun t =>
      t.trc.q = r ∧
      t.trc.page = s.trc.page ∧
      t.fq = s.fq ∧
      t.host = s.host ∧
      Only s t []) ∧
  (∀ (b : Bool) (x y z u : BitVec 32) (r : List (Word × Word × Word × Word)),
    s.trc.q = (x, y, z, u) :: r → s.rd TRC_CTL_MODE = 3 → s.rd TRC_STAT_STATE ≠ 3 → s.on (TRC_PROBE_STREAM (y.toNat % 64)) → 
    min 4096000 (s.trc.bucket + s.rd TRC_STR_RATE_MBPS * (s.ns - s.trc.fillNs)) < 16000 → Gives (.recordDrain b) s fun t =>
      t.trc.q = r ∧
      t.rd TRC_STR_STAT_RDROP = min (s.rd TRC_STR_STAT_RDROP + 1) 65535 ∧
      t.trc.page = s.trc.page ∧
      t.host = s.host ∧
      t.fq = s.fq ∧
      Only s t [TRC_STR_STAT]) ∧
  (∀ (b : Bool) (x y z u : BitVec 32) (r : List (Word × Word × Word × Word)),
    s.trc.q = (x, y, z, u) :: r → s.rd TRC_CTL_MODE = 3 → s.rd TRC_STAT_STATE ≠ 3 → s.on (TRC_PROBE_STREAM (y.toNat % 64)) → 
    16000 ≤ min 4096000 (s.trc.bucket + s.rd TRC_STR_RATE_MBPS * (s.ns - s.trc.fillNs)) → 
    (b ∨ s.on HOST_LINK_BME = false ∨ s.on HOST_LINK_UP = false) → Gives (.recordDrain b) s fun t =>
      t.trc.q = r ∧
      t.rd TRC_STR_STAT_QDROP = min (s.rd TRC_STR_STAT_QDROP + 1) 255 ∧
      t.trc.page = s.trc.page ∧
      t.host = s.host ∧
      t.fq = s.fq ∧
      Only s t [TRC_STR_STAT]) ∧
  (∀ (x y z u : BitVec 32) (r : List (Word × Word × Word × Word)) (k : Nat),
    s.trc.q = (x, y, z, u) :: r → s.rd TRC_CTL_MODE = 3 → s.rd TRC_STAT_STATE ≠ 3 → s.on (TRC_PROBE_STREAM (y.toNat % 64)) → 
    16000 ≤ min 4096000 (s.trc.bucket + s.rd TRC_STR_RATE_MBPS * (s.ns - s.trc.fillNs)) → s.on HOST_LINK_BME → s.on HOST_LINK_UP → 
    s.trc.page = some k → k < 255 → Gives (.recordDrain false) s fun t =>
      t.trc.q = r ∧
      t.host.out.head? = some ((4096 * s.rd TRC_STR_BASE_LO_ADDR + 2 ^ 32 * s.rd TRC_STR_BASE_HI_ADDR + 4096 * (s.trc.pg % s.rd TRC_STR_PAGES_N) + 16 * k), toBytes 4 x.toNat ++ toBytes 4 y.toNat ++ toBytes 4 z.toNat ++ toBytes 4 u.toNat) ∧
      t.trc.page = some (k + 1) ∧
      t.trc.bytes = (s.trc.bytes + 16) % 2 ^ 64 ∧
      t.fq = s.fq ∧
      Only s t []) ∧
  (∀ (x y z u : BitVec 32) (r : List (Word × Word × Word × Word)),
    s.trc.q = (x, y, z, u) :: r → s.rd TRC_CTL_MODE = 3 → s.rd TRC_STAT_STATE ≠ 3 → s.on (TRC_PROBE_STREAM (y.toNat % 64)) → 
    16000 ≤ min 4096000 (s.trc.bucket + s.rd TRC_STR_RATE_MBPS * (s.ns - s.trc.fillNs)) → s.on HOST_LINK_BME → s.on HOST_LINK_UP → 
    s.trc.page = some 255 → Gives (.recordDrain false) s fun t =>
      t.trc.q = r ∧
      t.host.out.head? = some (8 * s.rd TRC_STR_WPTR_LO_ADDR + 2 ^ 32 * s.rd TRC_STR_WPTR_HI_ADDR, toBytes 8 ((s.trc.bytes + 16) % 2 ^ 64)) ∧
      t.host.out[1]? = some ((4096 * s.rd TRC_STR_BASE_LO_ADDR + 2 ^ 32 * s.rd TRC_STR_BASE_HI_ADDR + 4096 * (s.trc.pg % s.rd TRC_STR_PAGES_N) + 16 * 255), toBytes 4 x.toNat ++ toBytes 4 y.toNat ++ toBytes 4 z.toNat ++ toBytes 4 u.toNat) ∧
      t.trc.page = none ∧
      t.trc.pg = (s.trc.pg + 1) % s.rd TRC_STR_PAGES_N ∧
      t.rd TRC_STR_DONE_N = min (s.rd TRC_STR_DONE_N + 1) 4294967295 ∧
      t.fq = s.fq ∧
      Only s t [TRC_STR_DONE]) ∧
  (∀ (x y z u : BitVec 32) (r : List (Word × Word × Word × Word)),
    s.trc.q = (x, y, z, u) :: r → s.rd TRC_CTL_MODE = 3 → s.rd TRC_STAT_STATE ≠ 3 → s.on (TRC_PROBE_STREAM (y.toNat % 64)) → 
    16000 ≤ min 4096000 (s.trc.bucket + s.rd TRC_STR_RATE_MBPS * (s.ns - s.trc.fillNs)) → s.on HOST_LINK_BME → s.on HOST_LINK_UP → 
    s.trc.page = none → s.rd TRC_STR_HELD_N ≠ 0 → Gives (.recordDrain false) s fun t =>
      t.trc.q = r ∧
      t.rd TRC_STR_HELD_N = s.rd TRC_STR_HELD_N - 1 ∧
      t.trc.page = some 1 ∧
      (s.rd TRC_STR_HELD_N - 1 = s.rd TRC_STR_LOW_N → s.on (HOST_MSIX_VCTL_MASK 5) → t.bitAt HOST_MSIX_PBA_PEND 5) ∧
      t.trc.bytes = (s.trc.bytes + 16) % 2 ^ 64 ∧
      t.fq = s.fq ∧
      Only s t [TRC_STR_HELD, HOST_MSIX_PBA]) ∧
  (∀ (x y z u : BitVec 32) (r : List (Word × Word × Word × Word)),
    s.trc.q = (x, y, z, u) :: r → s.rd TRC_CTL_MODE = 3 → s.rd TRC_STAT_STATE ≠ 3 → s.on (TRC_PROBE_STREAM (y.toNat % 64)) → 
    16000 ≤ min 4096000 (s.trc.bucket + s.rd TRC_STR_RATE_MBPS * (s.ns - s.trc.fillNs)) → s.on HOST_LINK_BME → s.on HOST_LINK_UP → 
    s.trc.page = none → s.rd TRC_STR_HELD_N = 0 → Gives (.recordDrain false) s fun t =>
      t.trc.q = r ∧
      t.rd TRC_STR_DROP_N = min (s.rd TRC_STR_DROP_N + 1) 4294967295 ∧
      t.trc.page = none ∧
      t.trc.dropPosted ∧
      (s.trc.dropPosted = false → Posted s t srcTRC 0 2 clsLINK 0 0) ∧
      (s.trc.dropPosted → t.fq = s.fq) ∧
      t.host = s.host ∧
      Only s t [TRC_STR_DROP]) ∧
  (Gives .traceArm s fun t =>
      t.rd TRC_STAT_STATE = 1 ∧
      t.reg TRC_WPTR = 0 ∧
      t.on TRC_STAT_WRAP = false ∧
      t.on TRC_TRIG_IDX_VALID = false ∧
      t.trc.written = 0 ∧
      t.trc.q = s.trc.q ∧
      t.fq = s.fq ∧
      Only s t [TRC_STAT, TRC_WPTR, TRC_TRIG_IDX]) ∧
  (s.rd TRC_CTL_MODE ≠ 3 → (s.rd TRC_STAT_STATE = 1 ∨ s.rd TRC_STAT_STATE = 2) → s.trc.page = none → Gives .traceStop s fun t =>
      t.rd TRC_STAT_STATE = 3 ∧
      t.on TRC_STAT_DONE ∧
      t.bitAt (ENG_IRQ_PEND_PEND 16) 13 ∧ t.bitAt (ENG_IRQ_PEND_PEND 19) 13 ∧
      (s.on (HOST_MSIX_VCTL_MASK 5) → t.bitAt HOST_MSIX_PBA_PEND 5) ∧
      t.trc = s.trc ∧
      t.fq = s.fq ∧
      Only s t [TRC_STAT, HOST_MSIX_PBA, ENG_IRQ_PEND 16, ENG_IRQ_PEND 17, ENG_IRQ_PEND 18, ENG_IRQ_PEND 19]) ∧
  (s.rd TRC_CTL_MODE = 3 → s.trc.page = none → Gives .traceStop s fun t =>
      t.rd TRC_STAT_STATE = 3 ∧
      t.on TRC_STAT_DONE ∧
      t.bitAt (ENG_IRQ_PEND_PEND 16) 13 ∧ t.bitAt (ENG_IRQ_PEND_PEND 19) 13 ∧
      (s.on (HOST_MSIX_VCTL_MASK 5) → t.bitAt HOST_MSIX_PBA_PEND 5) ∧
      t.trc = s.trc ∧
      (s.master → s.on (HOST_MSIX_VCTL_MASK 5) → t.host.out.head? = some (8 * s.rd TRC_STR_WPTR_LO_ADDR + 2 ^ 32 * s.rd TRC_STR_WPTR_HI_ADDR, toBytes 8 s.trc.bytes)) ∧
      t.fq = s.fq ∧
      Only s t [TRC_STAT, HOST_MSIX_PBA, ENG_IRQ_PEND 16, ENG_IRQ_PEND 17, ENG_IRQ_PEND 18, ENG_IRQ_PEND 19]) ∧
  (∀ (k : Nat), s.rd TRC_CTL_MODE = 3 → s.trc.page = some k → k ≤ 256 → Gives .traceStop s fun t =>
      t.rd TRC_STAT_STATE = 3 ∧
      t.on TRC_STAT_DONE ∧
      t.bitAt (ENG_IRQ_PEND_PEND 16) 13 ∧ t.bitAt (ENG_IRQ_PEND_PEND 19) 13 ∧
      (s.on (HOST_MSIX_VCTL_MASK 5) → t.bitAt HOST_MSIX_PBA_PEND 5) ∧
      t.trc.page = none ∧
      t.trc.pg = (s.trc.pg + 1) % s.rd TRC_STR_PAGES_N ∧
      t.trc.bytes = (s.trc.bytes + 16 * (256 - k)) % 2 ^ 64 ∧
      t.rd TRC_STR_DONE_N = min (s.rd TRC_STR_DONE_N + 1) 4294967295 ∧
      (s.master → s.on (HOST_MSIX_VCTL_MASK 5) → t.host.out.head? = some (8 * s.rd TRC_STR_WPTR_LO_ADDR + 2 ^ 32 * s.rd TRC_STR_WPTR_HI_ADDR, toBytes 8 ((s.trc.bytes + 16 * (256 - k)) % 2 ^ 64))) ∧
      t.fq = s.fq ∧
      Only s t [TRC_STAT, HOST_MSIX_PBA, TRC_STR_DONE, ENG_IRQ_PEND 16, ENG_IRQ_PEND 17, ENG_IRQ_PEND 18, ENG_IRQ_PEND 19]) ∧
  (s.rd TRC_CTL_MODE ≠ 3 → s.rd TRC_STAT_STATE ≠ 1 → s.rd TRC_STAT_STATE ≠ 2 → s.trc.page = none → Gives .traceStop s fun t =>
      t = s) ∧
  (s.rd TRC_CTL_MODE ≠ 3 → s.rd TRC_STAT_STATE = 1 → s.rd TRC_PRE_N ≤ s.trc.written → s.rd TRC_POST_N ≠ 0 → Gives .traceForce s fun t =>
      t.rd TRC_STAT_STATE = 2 ∧
      t.rd TRC_TRIG_IDX_IDX = s.rd TRC_WPTR_IDX ∧
      t.on TRC_TRIG_IDX_VALID ∧
      t.trc.left = s.rd TRC_POST_N ∧
      (s.on (HOST_MSIX_VCTL_MASK 5) → t.bitAt HOST_MSIX_PBA_PEND 5) ∧
      t.fq = s.fq ∧
      Only s t [TRC_STAT, TRC_TRIG_IDX, HOST_MSIX_PBA]) ∧
  (s.rd TRC_CTL_MODE ≠ 3 → s.rd TRC_STAT_STATE = 1 → s.rd TRC_PRE_N ≤ s.trc.written → s.rd TRC_POST_N = 0 → Gives .traceForce s fun t =>
      t.rd TRC_TRIG_IDX_IDX = s.rd TRC_WPTR_IDX ∧
      t.on TRC_TRIG_IDX_VALID ∧
      t.rd TRC_STAT_STATE = 3 ∧
      t.on TRC_STAT_DONE ∧
      t.bitAt (ENG_IRQ_PEND_PEND 16) 13 ∧ t.bitAt (ENG_IRQ_PEND_PEND 19) 13 ∧
      (s.on (HOST_MSIX_VCTL_MASK 5) → t.bitAt HOST_MSIX_PBA_PEND 5) ∧
      t.fq = s.fq ∧
      Only s t [TRC_STAT, TRC_TRIG_IDX, HOST_MSIX_PBA, ENG_IRQ_PEND 16, ENG_IRQ_PEND 17, ENG_IRQ_PEND 18, ENG_IRQ_PEND 19]) ∧
  (s.rd TRC_CTL_MODE ≠ 3 → (s.rd TRC_STAT_STATE ≠ 1 ∨ s.trc.written < s.rd TRC_PRE_N) → Gives .traceForce s fun t =>
      t.rd TRC_CNT_IGN = min (s.rd TRC_CNT_IGN + 1) 65535 ∧
      t.trc = s.trc ∧
      t.fq = s.fq ∧
      Only s t [TRC_CNT]) ∧
  (s.rd TRC_CTL_MODE = 3 → Gives .traceForce s fun t =>
      t = s) ∧
  (∀ (n : BitVec 19),
    s.rd TRC_STR_HELD_N + n.toNat + bit s.trc.page.isSome ≤ s.rd TRC_STR_PAGES_N → s.rd TRC_STR_PAGES_N < 2 ^ 19 → 
    Gives (.streamCredit n) s fun t =>
      t.rd TRC_STR_HELD_N = s.rd TRC_STR_HELD_N + n.toNat ∧
      t.rd TRC_STR_GRANT_N = min (s.rd TRC_STR_GRANT_N + n.toNat) 4294967295 ∧
      t.trc.dropPosted = false ∧
      t.trc.page = s.trc.page ∧
      t.fq = s.fq ∧
      Only s t [TRC_STR_HELD, TRC_STR_GRANT]) ∧
  (∀ (n : BitVec 19), s.rd TRC_STR_PAGES_N < s.rd TRC_STR_HELD_N + n.toNat + bit s.trc.page.isSome → Gives (.streamCredit n) s fun t =>
      t.rd TRC_STR_STAT_CREDIT_ERR = min (s.rd TRC_STR_STAT_CREDIT_ERR + 1) 255 ∧
      Posted s t srcTRC 0 3 clsCONFIG 1 n.toNat ∧
      t.trc = s.trc ∧
      Only s t [TRC_STR_STAT])

/-! ### Instructions: integer, multiply, fixed point, multiply-accumulate (chapter 08) -/

/-- Integer instructions write the result of their table row, after one cycle, and set no flag (08_qorov_instruction_set.md R228); `add g0,
g0, g0` is also the nop of the M slot (R253); where the predicate is false, or the other slot raises, none has an effect (R220, R252); on
a core that does not issue each leaves the state as it is. -/
def Obligations.IntegerResults : Prop := ∀ (s u : State) (i : Iss) (q : Fin 8) (rd ra rb : Fin 32),
  let a := u.gr i.core ra
  let b := u.gr i.core rb
  let x := u.gi i.core ra
  let y := u.gi i.core rb
  let all : List Instr := [.add i rd ra rb, .sub i rd ra rb, .and i rd ra rb, .or i rd ra rb, .xor i rd ra rb, .shl i rd ra rb,
    .shr i rd ra rb, .sar i rd ra rb, .min i rd ra rb, .max i rd ra rb, .sel i q rd ra rb]
  (Issues s i kX u →
  Does i (.add i rd ra rb) s (fun t => ToGpr u t i 1 rd (a + b) 0) ∧
  Does i (.sub i rd ra rb) s (fun t => ToGpr u t i 1 rd (a + 2 ^ 32 - b) 0) ∧
  Does i (.and i rd ra rb) s (fun t => ToGpr u t i 1 rd (a &&& b) 0) ∧
  Does i (.or i rd ra rb) s (fun t => ToGpr u t i 1 rd (a ||| b) 0) ∧
  Does i (.xor i rd ra rb) s (fun t => ToGpr u t i 1 rd (a ^^^ b) 0) ∧
  Does i (.shl i rd ra rb) s (fun t => ToGpr u t i 1 rd (a <<< (b % 256)) 0) ∧
  Does i (.shr i rd ra rb) s (fun t => ToGpr u t i 1 rd (a >>> (b % 256)) 0) ∧
  Does i (.sar i rd ra rb) s (fun t => ToGpr u t i 1 rd ((x / 2 ^ (b % 256)) % 2 ^ 32).toNat 0) ∧
  Does i (.min i rd ra rb) s (fun t => ToGpr u t i 1 rd (if x ≤ y then a else b) 0) ∧
  Does i (.max i rd ra rb) s (fun t => ToGpr u t i 1 rd (if x ≤ y then b else a) 0) ∧
  Does i (.sel i q rd ra rb) s (fun t => ToGpr u t i 1 rd (if u.pr i.core q then a else b) 0)) ∧
  (Issues s i { slot := .m } u → i.m → i.pn = false → i.pred = 0 → Does i (.add i 0 0 0) s fun t => ToGpr u t i 1 0 0 0) ∧
  (Fetched s i kX u → i.dead ∨ u.pr i.core i.pred = i.pn → ∀ c ∈ all, Does i c s fun t => t = u) ∧
  (s.canIssue i.core = false → ∀ c ∈ all, Gives c s fun t => t = s)

/-- Multiply writes the low or the signed high word after 3 cycles; divide and remainder truncate toward zero after 18, a zero divisor gives
the value of its row and DZ, and −2^31 / −1 saturates with SAT (R229). -/
def Obligations.MultiplyDivideResults : Prop := ∀ (s u : State) (i : Iss) (rd ra rb : Fin 32), Issues s i kX u →
  let a := u.gr i.core ra
  let b := u.gr i.core rb
  let x := u.gi i.core ra
  let y := u.gi i.core rb
  Does i (.mul i rd ra rb) s (fun t => ToGpr u t i 3 rd (a * b) 0) ∧
  Does i (.mulh i rd ra rb) s (fun t => ToGpr u t i 3 rd (x * y / 2 ^ 32 % 2 ^ 32).toNat 0) ∧
  Does i (.div i rd ra rb) s (fun t =>
    if y = 0 then ToGpr u t i 18 rd (if x < 0 then 2 ^ 31 else 2 ^ 31 - 1) flDZ
    else if x = -2 ^ 31 ∧ y = -1 then ToGpr u t i 18 rd (2 ^ 31 - 1) flSAT
    else ToGpr u t i 18 rd (x.tdiv y % 2 ^ 32).toNat 0) ∧
  Does i (.divu i rd ra rb) s (fun t => if b = 0 then ToGpr u t i 18 rd (2 ^ 32 - 1) flDZ else ToGpr u t i 18 rd (a / b) 0) ∧
  Does i (.rem i rd ra rb) s (fun t =>
    if y = 0 then ToGpr u t i 18 rd a flDZ else ToGpr u t i 18 rd (x.tmod y % 2 ^ 32).toNat 0)

/-- Fixed-point instructions limit an exact result to its format, with SAT when it was limited; `abss` takes RB 0 (R230). -/
def Obligations.FixedPointResults : Prop := ∀ (s u : State) (i : Iss) (rd ra rb : Fin 32), Issues s i kX u →
  let x := u.gi i.core ra
  let y := u.gi i.core rb
  let x0 := toInt 16 (u.gr i.core ra)
  let x1 := toInt 16 (u.gr i.core ra / 65536)
  let y0 := toInt 16 (u.gr i.core rb)
  let y1 := toInt 16 (u.gr i.core rb / 65536)
  let lim := fun (v : Int) => max (-2 ^ 31) (min (2 ^ 31 - 1) v)
  let lim16 := fun (v : Int) => max (-2 ^ 15) (min (2 ^ 15 - 1) v)
  let word := fun (t : State) (lat : Nat) (v : Int) =>
    ToGpr u t i lat rd (lim v % 2 ^ 32).toNat (if lim v = v then 0 else flSAT)
  let pair := fun (t : State) (lat : Nat) (v w : Int) =>
    ToGpr u t i lat rd ((lim16 v % 2 ^ 16).toNat + 65536 * (lim16 w % 2 ^ 16).toNat) (if lim16 v = v ∧ lim16 w = w then 0 else flSAT)
  Does i (.adds i rd ra rb) s (fun t => word t 1 (x + y)) ∧
  Does i (.subs i rd ra rb) s (fun t => word t 1 (x - y)) ∧
  Does i (.abss i rd ra 0) s (fun t => word t 1 (x.natAbs : Nat)) ∧
  Does i (.qmul i rd ra rb) s (fun t => word t 3 ((x * y + 2 ^ 30) / 2 ^ 31)) ∧
  Does i (.add2 i rd ra rb) s (fun t => pair t 1 (x0 + y0) (x1 + y1)) ∧
  Does i (.sub2 i rd ra rb) s (fun t => pair t 1 (x0 - y0) (x1 - y1)) ∧
  Does i (.mul2 i rd ra rb) s (fun t => pair t 3 ((x0 * y0 + 2 ^ 14) / 2 ^ 15) ((x1 * y1 + 2 ^ 14) / 2 ^ 15)) ∧
  Does i (.pack i rd ra rb) s (fun t => pair t 1 ((x + 2 ^ 15) / 2 ^ 16) ((y + 2 ^ 15) / 2 ^ 16))

/-- Multiply-accumulate instructions put the new value of accumulator rd, limited to 2^71 − 1 in magnitude, where the next MAC takes it at
once and `accr` after 3 cycles; `accw` stores a shifted register, `accr` returns the accumulator shifted, rounded and limited (R231,
R232). -/
def Obligations.AccumulatorResults : Prop := ∀ (s u : State) (i : Iss) (rd ra rb : Fin 32) (k : BitVec 12), Issues s i kX u →
  let a := u.gr i.core ra
  let b := u.gr i.core rb
  let x := u.gi i.core ra
  let y := u.gi i.core rb
  let c := u.accNow i.core rd
  let p := toInt 16 a * toInt 16 b
  let q := toInt 16 (a / 65536) * toInt 16 (b / 65536)
  let sh := k.toNat % 128
  let n := k.toNat / 128 % 4
  let r := (u.accSeen i.core n + (if k.toNat.testBit 9 ∧ sh ≠ 0 then 2 ^ (sh - 1) else 0)) / 2 ^ sh
  let w := max (-2 ^ 31) (min (2 ^ 31 - 1) r)
  (rd.val < 4 →
    Does i (.mac i rd ra rb) s (fun t => ToAcc u t i 3 rd (c + x * y)) ∧
    Does i (.macu i rd ra rb) s (fun t => ToAcc u t i 3 rd (c + (a * b : Nat))) ∧
    Does i (.mpy i rd ra rb) s (fun t => ToAcc u t i 3 rd (x * y)) ∧
    Does i (.qmac i rd ra rb) s (fun t => ToAcc u t i 3 rd (c + 2 * (x * y))) ∧
    Does i (.mac2 i rd ra rb) s (fun t => ToAcc u t i 3 rd (c + (p + q)))) ∧
  (sh ≤ 39 → k.toNat < 512 → Does i (.accw i 0 ra k) s (fun t => ToAcc u t i 1 n (x * 2 ^ sh))) ∧
  (sh ≤ 71 → k.toNat < 1024 →
    Does i (.accr i rd 0 k) s (fun t => ToGpr u t i 2 rd (w % 2 ^ 32).toNat (if w = r then 0 else flSAT)))

/-! ### Instructions: float, compare, immediates (chapter 08) -/

/-- Float instructions write the rounded result of their table row with its flags, after the latency of the row; `fmadd` rounds once (R233). -/
def Obligations.FloatResults : Prop := ∀ (s u : State) (i : Iss) (rd ra rb : Fin 32), Issues s i kF u →
  let a := u.gr i.core ra
  let b := u.gr i.core rb
  let gpr := fun (t : State) (lat : Nat) (x : Nat × Nat) => ToGpr u t i lat rd x.1 x.2
  Does i (.fadd i rd ra rb) s (fun t => gpr t 4 (fAdd a b)) ∧
  Does i (.fsub i rd ra rb) s (fun t => gpr t 4 (fAdd a (b ^^^ 2 ^ 31))) ∧
  Does i (.fmul i rd ra rb) s (fun t => gpr t 4 (fMul a b)) ∧
  Does i (.fdiv i rd ra rb) s (fun t => gpr t 12 (fDiv a b)) ∧
  Does i (.fmadd i rd ra rb) s (fun t => ∃ nv, gpr t 5 (fMadd (u.gr i.core rd) a b nv)) ∧
  Does i (.fmin i rd ra rb) s (fun t => gpr t 1 (fPick true a b, 0)) ∧
  Does i (.fmax i rd ra rb) s (fun t => gpr t 1 (fPick false a b, 0)) ∧
  Does i (.fabs i rd ra 0) s (fun t => gpr t 1 (fAbs a, 0)) ∧
  Does i (.fcvtFi i rd ra 0) s (fun t => gpr t 3 (fOfInt (u.gi i.core ra))) ∧
  Does i (.fcvtIf i rd ra 0) s (fun t => gpr t 3 (fToInt a))

/-- Float results follow R217 and R225: every NaN is 0x7FC00000, no result is subnormal, a result flushed to zero has UF and NX, an overflow
is an infinity with OF and NX, only a finite non-zero number divided by zero sets FDZ, and sums and products commute. -/
def Obligations.FloatFormat : Prop := ∀ (a b c : Nat) (nv : Bool), a < 2 ^ 32 → b < 2 ^ 32 → c < 2 ^ 32 →
  ∀ r ∈ [fAdd a b, fMul a b, fDiv a b, fMadd c a b nv],
    r.1 < 2 ^ 32 ∧ (fNan r.1 → r.1 = 0x7FC00000) ∧ (fExp r.1 = 0 → fFrac r.1 = 0) ∧
    (r.2 &&& flUF ≠ 0 → fExp r.1 = 0 ∧ r.2 = flUF + flNX) ∧ (r.2 &&& flOF ≠ 0 → fInf r.1 ∧ r.2 = flOF + flNX) ∧
    (fNan a ∨ fNan b → r.1 = 0x7FC00000) ∧
    ((fDiv a b).2 &&& flFDZ ≠ 0 ↔ fExp b = 0 ∧ fExp a ≠ 0 ∧ fExp a ≠ 255) ∧
    fAdd a b = fAdd b a ∧ fMul a b = fMul b a

/-- A compare combines its result with predicate RD[2:0] as RD[4:3] says, after one cycle; float compares of a NaN are false, ordered ones
with NV (R234). -/
def Obligations.CompareResults : Prop := ∀ (s u : State) (i : Iss) (rd ra rb : Fin 32) (imm : BitVec 12), rd.val / 8 ≠ 3 →
  let n := i.core.val
  let a := u.gr n ra
  let b := u.gr n rb
  let x := u.gi n ra
  let y := u.gi n rb
  let old := u.pr n (rd.val % 8)
  let pred := fun (t : State) (v : Bool) (fl : Nat) =>
    ToPred u t i (rd.val % 8) (if rd.val / 8 = 0 then v else if rd.val / 8 = 1 then old && v else old || v) fl
  let nan := fNan a || fNan b
  (Issues s i kX u →
    Does i (.ceq i rd ra rb) s (fun t => pred t (a == b) 0) ∧
    Does i (.cne i rd ra rb) s (fun t => pred t (a != b) 0) ∧
    Does i (.clt i rd ra rb) s (fun t => pred t (decide (x < y)) 0) ∧
    Does i (.cltu i rd ra rb) s (fun t => pred t (decide (a < b)) 0) ∧
    Does i (.ceqi i rd ra imm) s (fun t => pred t (x == imm.toInt) 0) ∧
    Does i (.clti i rd ra imm) s (fun t => pred t (decide (x < imm.toInt)) 0) ∧
    (ra.val < 8 → rb.val < 8 →
      Does i (.pand i rd ra rb) s (fun t => pred t (u.pr n ra && u.pr n rb) 0) ∧
      Does i (.por i rd ra rb) s (fun t => pred t (u.pr n ra || u.pr n rb) 0) ∧
      Does i (.pxor i rd ra rb) s (fun t => pred t (u.pr n ra != u.pr n rb) 0))) ∧
  (Issues s i kF u →
    Does i (.fceq i rd ra rb) s (fun t => pred t (!nan && fVal a == fVal b) 0) ∧
    Does i (.fclt i rd ra rb) s (fun t => pred t (!nan && decide (fVal a < fVal b)) (if nan then flNV else 0)) ∧
    Does i (.fcle i rd ra rb) s (fun t => pred t (!nan && decide (fVal a ≤ fVal b)) (if nan then flNV else 0)))

/-- Immediate instructions: sign-extended for `addi` and `lil`, zero-extended for the logical ones, shift counts below 32; `lih` keeps the low
half of rd (R235). -/
def Obligations.ImmediateResults : Prop := ∀ (s u : State) (i : Iss) (rd ra : Fin 32) (imm : BitVec 12) (w : BitVec 16), Issues s i kX u →
  let a := u.gr i.core ra
  Does i (.addi i rd ra imm) s (fun t => ToGpr u t i 1 rd (((a : Int) + imm.toInt) % 2 ^ 32).toNat 0) ∧
  Does i (.andi i rd ra imm) s (fun t => ToGpr u t i 1 rd (a &&& imm.toNat) 0) ∧
  Does i (.ori i rd ra imm) s (fun t => ToGpr u t i 1 rd (a ||| imm.toNat) 0) ∧
  (imm.toNat < 32 →
    Does i (.shli i rd ra imm) s (fun t => ToGpr u t i 1 rd (a <<< imm.toNat) 0) ∧
    Does i (.shri i rd ra imm) s (fun t => ToGpr u t i 1 rd (a >>> imm.toNat) 0)) ∧
  Does i (.lil i rd (w.setWidth 17)) s (fun t => ToGpr u t i 1 rd (w.toInt % 2 ^ 32).toNat 0) ∧
  Does i (.lih i rd (w.setWidth 17)) s (fun t => ToGpr u t i 1 rd (u.gr i.core rd % 2 ^ 16 + w.toNat * 2 ^ 16) 0)

/-! ### Instructions: memory, branches, units, time, privileged instructions (chapter 08) -/

/-- Loads return the little-endian bytes of data memory, of memory an engine's regions allow, or of the island's memories and parameter store,
with latency 2, sign-extended by `ldh`; the scaled offset wraps modulo 2^32 (R217, R236, 14_safety_island.md R386). A word load of an
Aster engine from a register reads the register, a shorter one reads 0 as UNMAPPED. A load that is misaligned, that the regions refuse,
that reaches nothing or that meets an uncorrectable error raises cause 2 (R236, R251, 07_lupin_engines.md R207, 17_reset_power_boot.md
R466); the island's I/O registers and mailbox ends read a free value (notes/assumptions/79.md). -/
def Obligations.LoadResults : Prop := ∀ (s u : State) (i : Iss) (rt ra : Fin 32) (ofs : BitVec 12) (ue : Bool), Issues s i kM u →
  let n := i.core.val
  let c := u.core n
  let ea := fun (k : Nat) => (((u.gr n ra : Int) + ofs.toInt * k) % 2 ^ 32).toNat
  let b := fun (k j : Nat) => (u.byte (place n (ea k) + j)).toNat
  let loads := fun (k : Nat) => if k = 4 then [Instr.ldw i rt ra ofs ue]
    else if k = 2 then [Instr.ldh i rt ra ofs ue, Instr.ldhu i rt ra ofs ue] else [Instr.ldbu i rt ra ofs ue]
  let plain := 20 ≤ n ∨ ue = false
  let aster := 16 ≤ n ∧ n < 20 ∧ c.status.getLsbD 2 = false
  let raised := fun (v t : State) (k e : Nat) => Enters v t n c.pc e 0 ∧ (t.core n).badaddr = BitVec.ofNat 32 (ea k)
  (Readable u n (ea 4) → ea 4 % 4 = 0 → plain → Does i (.ldw i rt ra ofs ue) s fun t =>
    ToGpr u t i 2 rt (b 4 0 + 256 * b 4 1 + 65536 * b 4 2 + 16777216 * b 4 3) 0) ∧
  (Readable u n (ea 2) → ea 2 % 2 = 0 → plain →
    Does i (.ldh i rt ra ofs ue) s (fun t => ToGpr u t i 2 rt (b 2 0 + 256 * b 2 1 + (if 128 ≤ b 2 1 then 0xFFFF0000 else 0)) 0) ∧
    Does i (.ldhu i rt ra ofs ue) s (fun t => ToGpr u t i 2 rt (b 2 0 + 256 * b 2 1) 0)) ∧
  (Readable u n (ea 1) → plain → Does i (.ldbu i rt ra ofs ue) s fun t => ToGpr u t i 2 rt (b 1 0) 0) ∧
  (16 ≤ n → n < 20 → u.allowed n (ea 4) .r → inRegs (ea 4) → ea 4 % 4 = 0 → u.blkError (ea 4) = false →
    Does i (.ldw i rt ra ofs ue) s fun t => ToGpr (u.regRead (ea 4)).2 t i 2 rt (u.regRead (ea 4)).1 0) ∧
  (∀ k ∈ [1, 2], 16 ≤ n → n < 20 → u.allowed n (ea k) .r → inRegs (ea k) → ea k % k = 0 → u.blkError (ea k) = false → ∀ x ∈ loads k,
    Does i x s fun t => ToGpr (u.unmapped (ea k)) t i 2 rt 0 0) ∧
  (20 ≤ n → 0x30000 ≤ ea 4 → ea 4 < 0x30200 → ea 4 % 4 = 0 → Does i (.ldw i rt ra ofs ue) s fun t =>
    ToGpr u t i 2 rt (u.reg (SAFE_PARAM ((ea 4 - 0x30000) / 4))) 0) ∧
  (∀ k ∈ [1, 2, 4], 20 ≤ n → 0x31000 ≤ ea k → ea k < 0x33000 → ea k % k = 0 → ∀ x ∈ loads k, Does i x s fun t => ∃ v, ToGpr u t i 2 rt v 0) ∧
  (∀ k ∈ [1, 2, 4], n < 16 → ea k % k ≠ 0 ∨ 0x10000 ≤ ea k ∨ ue → ∀ x ∈ loads k, Does i x s fun t => Faulted u t n 2) ∧
  (∀ k ∈ [1, 2, 4], aster → ea k % k ≠ 0 → ∀ x ∈ loads k, Does i x s fun t => raised u t k 2) ∧
  (∀ k ∈ [1, 2, 4], aster → ea k % k = 0 → ¬ u.allowed n (ea k) .r → ∀ x ∈ loads k, Does i x s fun t => raised u t k 18) ∧
  (∀ k ∈ [1, 2, 4], aster → ea k % k = 0 → u.allowed n (ea k) .r → (inRegs (ea k) ∧ u.blkError (ea k)) ∨ (inRegs (ea k) = false ∧ inMem (ea k) = false) →
    ∀ x ∈ loads k, Does i x s fun t => raised u t k 2) ∧
  (∀ k ∈ [1, 2, 4], aster → ea k % k = 0 → u.allowed n (ea k) .r → ue → inSram (ea k) → ∀ x ∈ loads k, Does i x s fun t =>
    raised (u.postUe (ea k)) t k 2) ∧
  (∀ k ∈ [1, 2, 4], 20 ≤ n → ea k % k ≠ 0 ∨ (¬ Readable u n (ea k) ∧ (ea k < 0x30000 ∨ 0x30200 ≤ ea k) ∧ (ea k < 0x31000 ∨ 0x33000 ≤ ea k)) →
    ∀ x ∈ loads k, Does i x s fun t => t.islSt = 4)

/-- Stores put the low bytes of rt, little-endian, at the effective address and change no other byte and no register; a Lupin engine's store
is in flight for one cycle; an Aster engine's word store to a register writes the register, a shorter one is UNMAPPED; the island's
program RAM takes a store in LOAD alone. A store that is misaligned, that the regions refuse or that reaches nothing raises cause 2 (R236,
R251, 07_lupin_engines.md R207, 14_safety_island.md R386). -/
def Obligations.StoreEffects : Prop := ∀ (s u : State) (i : Iss) (rt ra : Fin 32) (ofs : BitVec 12), Issues s i kM u →
  let n := i.core.val
  let c := u.core n
  let ea := fun (k : Nat) => (((u.gr n ra : Int) + ofs.toInt * k) % 2 ^ 32).toNat
  let store := fun (k : Nat) => if k = 4 then Instr.stw i rt ra ofs else if k = 2 then Instr.sth i rt ra ofs else Instr.stb i rt ra ofs
  let ram := fun (k : Nat) => 0x10000 ≤ ea k ∧ ea k < 0x18000
  let aster := 16 ≤ n ∧ n < 20 ∧ c.status.getLsbD 2 = false
  let raised := fun (t : State) (k e : Nat) => Enters u t n c.pc e 0 ∧ (t.core n).badaddr = BitVec.ofNat 32 (ea k)
  let stored := fun (t : State) (k : Nat) =>
    t.regs = u.regs ∧ t.fq = u.fq ∧ (∀ m j, t.gr m j = u.gr m j) ∧
    if n < 16 then
      t.mem = u.mem ∧ ∀ f, f ∈ (t.core n).fly ↔ f ∈ c.fly ∨ f = ⟨c.now + 1, 2 * c.now + bit i.m, .data (place n (ea k)) (toBytes k (u.gr n rt))⟩
    else ∀ a, t.byte a =
      if place n (ea k) ≤ a ∧ a < place n (ea k) + k then BitVec.ofNat 8 (u.gr n rt / 256 ^ (a - place n (ea k))) else u.byte a
  (∀ k ∈ [1, 2, 4], Writable u n (ea k) ∨ (20 ≤ n ∧ ram k ∧ u.islSt = 0) → ea k % k = 0 → Does i (store k) s fun t => stored t k) ∧
  (16 ≤ n → n < 20 → u.allowed n (ea 4) .w → inRegs (ea 4) → ea 4 % 4 = 0 → u.blkError (ea 4) = false →
    Does i (.stw i rt ra ofs) s fun t => t = u.regWrite (.aster (Fin.ofNat 4 (n - 16))) (ea 4) (u.gr n rt)) ∧
  (∀ k ∈ [1, 2], 16 ≤ n → n < 20 → u.allowed n (ea k) .w → inRegs (ea k) → ea k % k = 0 → u.blkError (ea k) = false →
    Does i (store k) s fun t => t = u.unmapped (ea k)) ∧
  (∀ k ∈ [1, 2, 4], 20 ≤ n → ea k % k = 0 → ea k < 0x2000 ∨ (ram k ∧ u.islSt ≠ 0) ∨ (0x31000 ≤ ea k ∧ ea k < 0x33000) →
    Does i (store k) s fun t => t = u) ∧
  (20 ≤ n → 0x30000 ≤ ea 4 → ea 4 < 0x30200 → ea 4 % 4 = 0 → Does i (.stw i rt ra ofs) s fun t =>
    let a := SAFE_PARAM ((ea 4 - 0x30000) / 4)
    t.reg a = (if u.islSt = 0 then u.gr n rt else u.reg a) ∧ Only u t [a] ∧ t.fq = u.fq ∧ t.cores = u.cores) ∧
  (∀ k ∈ [1, 2, 4], n < 16 → ea k % k ≠ 0 ∨ 0x10000 ≤ ea k → Does i (store k) s fun t => Faulted u t n 2) ∧
  (∀ k ∈ [1, 2, 4], aster → ea k % k ≠ 0 → Does i (store k) s fun t => raised t k 2) ∧
  (∀ k ∈ [1, 2, 4], aster → ea k % k = 0 → ¬ u.allowed n (ea k) .w → Does i (store k) s fun t => raised t k 18) ∧
  (∀ k ∈ [1, 2, 4], aster → ea k % k = 0 → u.allowed n (ea k) .w →
    (inRegs (ea k) ∧ u.blkError (ea k)) ∨ (inRegs (ea k) = false ∧ (inMem (ea k) = false ∨ roMem (ea k))) → Does i (store k) s fun t => raised t k 2) ∧
  (∀ k ∈ [1, 2, 4], 20 ≤ n → ea k % k ≠ 0 ∨ 0x24000 ≤ ea k ∧ ea k < 0x30000 ∨ 0x33000 ≤ ea k → Does i (store k) s fun t => t.islSt = 4)

/-- On a Lupin engine the results due by the cycle in which a bundle issues, and no others, have reached their registers, the last of a
register's results winning (R222); the bundle before it is complete, and the new one stands at the next address (R221, R238). -/
def Obligations.ResultsReachRegistersWhenDue : Prop := ∀ (s : State) (i : Iss) (cost r : Nat), i.core.val < 16 → i.same = false → r ≠ 0 →
  let n := i.core.val
  let c := s.core n
  let u := s.beginIssue i cost
  c.after = 0 →
  let due := c.fly.filter fun f => decide (f.due ≤ c.now + c.gap)
  let mine := due.filterMap fun f => match f.dst with
    | .gpr k v => if k = r then some v.toNat else none
    | _ => none
  u.gr n r = mine.getLast?.getD (s.gr n r) ∧ (u.core n).now = c.now + c.gap ∧ (u.core n).pc = BitVec.ofNat 32 c.next ∧
    (u.core n).next = c.next + 8 ∧ (u.core n).flyWas = (u.core n).fly ∧ (u.core n).accWas = (u.core n).accIn ∧
    (∀ m, m ≠ n → u.core m = s.core m) ∧ u.regs = s.regs ∧
    ∀ f, f ∈ (u.core n).fly ↔ f ∈ c.fly ∧ c.now + c.gap < f.due

/-- Branches go on at their target when it lies in program memory or boot ROM, and take the address that follows as the link; a target outside
them raises cause 2 on an Aster engine, leaves a Lupin engine FAULTED with cause 2 and fails the island (R238, R251, 14_safety_island.md
R385). -/
def Obligations.BranchTargets : Prop := ∀ (s u : State) (i : Iss) (rd ra : Fin 32) (disp : BitVec 22), Issues s i kB u →
  let n := i.core.val
  let c := u.core n
  let step := if n < 16 then 8 else 4
  let rel := (((c.pc.toNat : Int) + disp.toInt * step) % 2 ^ 32).toNat
  let lk := (c.pc.toNat + step) % 2 ^ 32
  let at_ : CoreS := { c with next := rel }
  let reg : CoreS := { c with next := u.gr n ra }
  (inProgram n rel →
    Does i (.br i disp) s (fun t => OtherCores u t n ∧ t.core n = at_) ∧
    Does i (.brl i disp) s (fun t => ToGpr (u.setCore n at_) t i 1 31 lk 0)) ∧
  (inProgram n (u.gr n ra) →
    Does i (.jr i 0 ra 0) s (fun t => OtherCores u t n ∧ t.core n = reg) ∧
    Does i (.jrl i rd ra 0) s (fun t => ToGpr (u.setCore n reg) t i 1 rd lk 0)) ∧
  (16 ≤ n → n < 20 → c.status.getLsbD 2 = false → ¬ inProgram n rel → ∀ b ∈ [Instr.br i disp, Instr.brl i disp],
    Does i b s fun t => Enters u t n c.pc 2 0 ∧ (t.core n).badaddr = BitVec.ofNat 32 rel) ∧
  (16 ≤ n → n < 20 → c.status.getLsbD 2 = false → ¬ inProgram n (u.gr n ra) → ∀ b ∈ [Instr.jr i 0 ra 0, Instr.jrl i rd ra 0],
    Does i b s fun t => Enters u t n c.pc 2 0 ∧ (t.core n).badaddr = BitVec.ofNat 32 (u.gr n ra)) ∧
  (n < 16 → ¬ inProgram n rel → ∀ b ∈ [Instr.br i disp, Instr.brl i disp], Does i b s fun t => Faulted u t n 2) ∧
  (n < 16 → ¬ inProgram n (u.gr n ra) → ∀ b ∈ [Instr.jr i 0 ra 0, Instr.jrl i rd ra 0], Does i b s fun t => Faulted u t n 2) ∧
  (20 ≤ n → ¬ inProgram n rel → ∀ b ∈ [Instr.br i disp, Instr.brl i disp], Does i b s fun t => t.islSt = 4) ∧
  (20 ≤ n → ¬ inProgram n (u.gr n ra) → ∀ b ∈ [Instr.jr i 0 ra 0, Instr.jrl i rd ra 0], Does i b s fun t => t.islSt = 4)

/-- `csnap` of a declared cell puts 96 bytes of the pinned copy in flight to data memory for 6 cycles and keeps the view of the release; where
the swaps of a cycle have begun and not all completed among the declared cells, the copies before that cycle are pinned, their status
words show STRADDLE and SNAP_CNT counts; a copy overwritten since gives the committed one, counts TORN and posts a fault; an uncorrectable
error posts SRAM_UE; an undeclared cell raises cause 3, a destination that is misaligned or outside data memory cause 2 (R193 to R196,
R239, 17_reset_power_boot.md R466). -/
def Obligations.SnapshotEffects : Prop := ∀ (s u : State) (i : Iss) (rd ra : Fin 32) (k : BitVec 12), Issues s i kML u → k.toNat < 256 →
  let n := i.core.val
  let c := u.core n
  let cell := (u.gr n ra + k.toNat) % 2 ^ 32
  let d := u.gr n rd
  let cells := (u.slotCells n c.tsk).eraseDups
  let flies := fun (t : State) (bs : List (BitVec 8)) =>
    t.mem = u.mem ∧ (t.core n).g = c.g ∧ ∀ f, f ∈ (t.core n).fly ↔ f ∈ c.fly ∨ f = ⟨c.now + 6, 2 * c.now + bit i.m, .data (dataBase n + d) bs⟩
  (d % 16 = 0 → d + 96 ≤ 0x10000 →
    (cell < 192 → cell ∈ u.slotCells n c.tsk →
      ((u.eng n).view = none → u.straddles cells = none → Does i (.csnap i rd ra k false) s fun t =>
        t.regs = u.regs ∧ t.fq = u.fq ∧ (t.eng n).view = some (u.viewOf n c.tsk) ∧ flies t (u.bytes (cstAddr (u.cstE cell).cur cell) 96)) ∧
      (∀ m, (u.eng n).view = none → u.straddles cells = some m → Does i (.csnap i rd ra k false) s fun t =>
        t.rd LOOP_SNAP_CNT_STRADDLE = min (u.rd LOOP_SNAP_CNT_STRADDLE + 1) 65535 ∧ Only u t [LOOP_SNAP_CNT] ∧ t.fq = u.fq ∧
          flies t (u.snapBytes (cstAddr (if m = (u.cstE cell).done ∧ (u.cstE cell).exch then 1 - (u.cstE cell).cur else (u.cstE cell).cur) cell) true)) ∧
      (∀ b, (u.eng n).view = some ([(cell, b, false)], false) → Does i (.csnap i rd ra k false) s fun t =>
        t.regs = u.regs ∧ t.fq = u.fq ∧ (t.eng n).view = (u.eng n).view ∧ flies t (u.bytes (cstAddr b cell) 96)) ∧
      (∀ b, (u.eng n).view = some ([(cell, b, false)], false) → Does i (.csnap i rd ra k true) s fun t =>
        Only u t [] ∧ Posted u t srcMEM (memInst (cstAddr b cell)) 2 clsMEMORY 2 ((cstAddr b cell - 0x8000000) / 4) ∧
          flies t (u.bytes (cstAddr b cell) 96)) ∧
      (∀ b, (u.eng n).view = some ([(cell, b, true)], false) → Does i (.csnap i rd ra k false) s fun t =>
        t.rd (ENG_SNAPCNT_TORN n) = min (u.rd (ENG_SNAPCNT_TORN n) + 1) 65535 ∧ Only u t [ENG_SNAPCNT n] ∧
          Posted u t srcLOOP n 4 clsTIMING 1 cell ∧ flies t (u.bytes (u.cstCom cell) 96))) ∧
    (cell ∉ u.slotCells n c.tsk ∨ 192 ≤ cell → ∀ ue, Does i (.csnap i rd ra k ue) s fun t => Faulted u t n 3)) ∧
  (d % 16 ≠ 0 ∨ 0x10000 < d + 96 → ∀ ue, Does i (.csnap i rd ra k ue) s fun t => Faulted u t n 2)

/-- `msh` writes a shadow that its engine may write and sets its DIRTY bit; a reserved value changes nothing and posts RESERVED_VALUE from
MOD; a channel that does not exist or that another engine owns raises cause 2, an absent one is ignored; `ldall` captures the dirty
channels of its groups; `glut` interpolates between two points of the table in force, at its ends beyond the range; `pstep` steps the
generator and returns its position (R151, R152, R199 to R201, R240 to R242). -/
def Obligations.ModulatorInstructions : Prop := ∀ (s u : State) (i : Iss) (rd ra : Fin 32) (k : BitVec 12),
  let n := i.core.val
  let ch := (u.gr n ra + k.toNat % 1024) % 2 ^ 32
  let f := k.toNat / 1024
  let v := u.gr n rd
  let e := u.gi n ra
  let x := min (2 ^ 31 - 1) e.natAbs * 2 ^ u.glutAct n (2048 + k.toNat)
  let pt := fun j => toInt 16 (u.glutAct n (512 * k.toNat + j))
  let line := fun (p q : Int) (y w : Nat) => p + ((q - p) * (y % 2 ^ w : Nat) + 2 ^ (w - 1)) / 2 ^ w
  let asym := u.glutAct n (2052 + k.toNat) = 1
  let g := if 2 ^ 31 ≤ x then (if asym ∧ e < 0 then pt 0 else pt 256)
    else if asym ∧ e < 0 then line (pt (128 - x / 2 ^ 24)) (pt (127 - x / 2 ^ 24)) x 24
    else if asym then line (pt (128 + x / 2 ^ 24)) (pt (129 + x / 2 ^ 24)) x 24
    else line (pt (x / 2 ^ 23)) (pt (x / 2 ^ 23 + 1)) x 23
  let stepped := fun (t : State) (w : State) =>
    ToGpr (w.setCore n { w.core n with
      pgWas := some (u.pgenBack n)
      after := if u.rd (PGEN_CFG_SLOT n) = (u.core n).tsk then 1 else 2 }) t i 8 rd (w.reg (PGEN_POS n)) 0
  (Issues s i kML u → ch < 784 → (u.on (chOwnEn ch) → u.rd (chOwner ch) = n) →
    (u.hasChan ch → shadowOk ch f v → Does i (.msh i rd ra k) s fun t =>
      t.reg (chShadow ch f) = v % 2 ^ (if f = 0 then 20 else 24) ∧ (t.rd (chDirty ch)).testBit f ∧ t.fq = u.fq ∧
        Only u t [chShadow ch f, chSTAT ch]) ∧
    (u.hasChan ch → ¬ shadowOk ch f v → Does i (.msh i rd ra k) s fun t =>
      Only u t [] ∧ Posted u t srcMOD 0 0xF1 clsCONFIG 1 (chShadow ch f)) ∧
    (u.hasChan ch = false → Does i (.msh i rd ra k) s fun t => t = u)) ∧
  (Issues s i kML u → 784 ≤ ch ∨ (u.on (chOwnEn ch) ∧ u.rd (chOwner ch) ≠ n) → Does i (.msh i rd ra k) s fun t => Faulted u t n 2) ∧
  (Issues s i kML u → Does i (.ldall i 0 ra 0) s fun t => t = u.capture (u.gr n ra)) ∧
  (Issues s i kXL u → k.toNat < 4 → Does i (.glut i rd ra k) s fun t => ToGpr u t i 4 rd (g % 2 ^ 32).toNat 0) ∧
  (Issues s i kXL u → Does i (.pstepKeep i rd 0 0) s fun t => stepped t (u.pstep n (u.core n).tsk none)) ∧
  (Issues s i kXL u → Does i (.pstepTarget i rd ra 0) s fun t => stepped t (u.pstep n (u.core n).tsk (some (u.gr n ra))))

/-- `tbrd` takes a snapshot at most 8 ns behind the timebase, never behind the last one, and returns its parts; `wait` returns how far the
instant has passed or holds the engine; `mfs` reads pc, tsk, cyc and fl, and the register of a `wait` that ends takes the overshoot (R23,
R243, R244, R248). -/
def Obligations.TimeAndSpecialReads : Prop :=
  (∀ (s u : State) (i : Iss) (rd ra rb : Fin 32) (sel : BitVec 3),
    let n := i.core.val
    let c := u.core n
    let ns := fun (v : Nat) => v / 2 ^ 24
    let tgt := (u.gr n rb * 1000000000 + min 999999999 (u.gr n ra % 2 ^ 30)) * 2 ^ 24
    (Issues s i kMA u → Does i (.tbrdSnapshot i rd 0) s fun t => ∃ v, v ≤ max u.tb c.snap ∧ u.tb ≤ v + 8 * 2 ^ 24 ∧ (c.snap ≤ u.tb → c.snap ≤ v) ∧
      (t.core n).snap = v ∧ ToGpr u t i 2 rd (ns v % 1000000000 + ns v / 1000000000 % 4 * 2 ^ 30) 0) ∧
    (Issues s i kMA u → sel.toNat < 5 → 0 < sel.toNat → Does i (.tbrdPart i rd sel 0) s fun t => ToGpr u t i 2 rd
      (if sel = 1 then ns c.snap / 1000000000 % 2 ^ 32 else if sel = 2 then ns c.snap / 1000000000 / 2 ^ 32 % 2 ^ 16
        else if sel = 3 then c.snap % 2 ^ 24 else ns c.snap / 1000 % 2 ^ 32) 0) ∧
    (Issues s i kA u → 16 ≤ n → c.snap ≤ u.tb → u.tb < tgt → Does i (.wait i rd ra rb) s fun t =>
      (t.core n).wait = some (rd.val, tgt) ∧ (t.core n).g = c.g ∧ OtherCores u t n) ∧
    (Issues s i kA u → 16 ≤ n → tgt + 8 * 2 ^ 24 ≤ u.tb → c.snap ≤ u.tb → Does i (.wait i rd ra rb) s fun t =>
      ∃ v, tgt ≤ v ∧ v ≤ u.tb ∧ ToGpr u t i 1 rd (min ((v - tgt) / 2 ^ 24) (2 ^ 32 - 1)) 0) ∧
    (Issues s i kX u →
      Does i (.mfs i rd ra 0) s (fun t => ToGpr u t i 1 rd c.pc.toNat 0) ∧
      Does i (.mfs i rd ra 1) s (fun t => ToGpr u t i 1 rd (if n < 16 then c.tsk else if n < 20 then 128 + n else 44 + n) 0) ∧
      (n < 16 → Does i (.mfs i rd ra 2) s fun t => ToGpr u t i 1 rd c.cyc.toNat 0) ∧
      (16 ≤ n → Does i (.mfs i rd ra 2) s fun t => ∃ v : Word, ToGpr (u.setCore n { c with cyc := v }) t i 1 rd v.toNat 0) ∧
      Does i (.mfs i rd ra 3) s (fun t => ToGpr u t i 1 rd c.fl.toNat 0) ∧
      Does i (.mfsClear i rd ra 7) s (fun t => ToGpr (u.setCore n { c with fl := 0 }) t i 1 rd c.fl.toNat 0))) ∧
  (∀ (s : State) (k : Fin 4) (rd tgt : Nat),
    let n := 16 + k.val
    ((s.core n).wait = some (rd, tgt) → s.engSt n = 2 → s.gated n = false → tgt ≤ s.tb → (s.core n).snap ≤ s.tb →
    Gives (.waitEnd k) s fun t => (t.core n).wait = none ∧ t.regs = s.regs ∧ t.mem = s.mem ∧
      ∃ v, tgt ≤ v ∧ v ≤ s.tb ∧ ∀ j, t.gr n j = if j = rd ∧ rd ≠ 0 then min ((v - tgt) / 2 ^ 24) (2 ^ 32 - 1) else s.gr n j) ∧
    ((s.core n).wait = none ∨ s.engSt n ≠ 2 ∨ s.gated n → Gives (.waitEnd k) s fun t => t = s))

/-- `fpost` posts from PROG with the class, kind, severity and datum of its fields; `tprb` adds a record of an enabled probe; `tmeas` returns
a sensor's last result and starts a measurement; `tend` ends the task with its cycle count, to IDLE, or OFF when the engine is disabled,
the results on their way to its registers still to come; `prf` fills the read buffer (R222, R237, R245 to R247). -/
def Obligations.UnitInstructions : Prop := ∀ (s u : State) (i : Iss) (rd ra : Fin 32) (k ofs : BitVec 12),
  let n := i.core.val
  let c := u.core n
  let a := (((u.gr n ra : Int) + ofs.toInt * 32) % 2 ^ 32).toNat
  (Issues s i kM u → rd.val ≤ 12 → k.toNat % 16 < 4 → Does i (.fpost i rd ra k) s fun t =>
    t.regs = u.regs ∧ t.mem = u.mem ∧ t.cores = u.cores ∧
      Posted u t srcPROG n (k.toNat / 16) rd (k.toNat % 8) (u.gr n ra % 2 ^ 31)) ∧
  (Issues s i kM u → rd.val ≤ 12 → 4 ≤ k.toNat % 16 → k.toNat % 16 ≤ 5 → Does i (.fpost i rd ra k) s fun t =>
    t.on FLT_STAT_PB ∧ (u.dev = 2 ∨ u.dev = 3 → t.dev = 4) ∧ Posted u t srcPROG n (k.toNat / 16) rd (k.toNat % 8) (u.gr n ra % 2 ^ 31)) ∧
  (Issues s i kMA u → k.toNat < 64 → u.on (TRC_PROBE_EN k.toNat) → u.rd (TRC_PROBE_SRC k.toNat) = 0 → u.trc.q.length < 64 →
    Does i (.tprb i 0 ra k) s fun t => t.fq = u.fq ∧ t.regs = u.regs ∧ t.mem = u.mem ∧ t.cores = u.cores ∧ t.trc.q = u.trc.q ++
      [(BitVec.ofNat 32 u.stampNs, BitVec.ofNat 32 (k.toNat + n * 256 + u.trc.seq % 65536 * 65536), BitVec.ofNat 32 (u.gr n ra),
        BitVec.ofNat 32 (c.pc.toNat % 65536))]) ∧
  (Issues s i kMA u → k.toNat < 64 → u.on (TRC_PROBE_EN k.toNat) = false ∨ u.rd (TRC_PROBE_SRC k.toNat) ≠ 0 →
    Does i (.tprb i 0 ra k) s fun t => t = u) ∧
  (Issues s i kMA u → k.toNat < 12 → k.toNat ∈ u.sys.thm → Does i (.tmeas i rd ra k) s fun t =>
    ToGpr u t i 2 rd (u.reg (THM_RES k.toNat)) 0) ∧
  (Issues s i kMA u → k.toNat < 12 → k.toNat ∉ u.sys.thm → Does i (.tmeas i rd ra k) s fun t =>
    let w := (u.wr ⟨THM_RES k.toNat, 21, 1⟩ 1).setSys { u.sys with thm := k.toNat :: u.sys.thm }
    ToGpr w t i 2 rd (w.reg (THM_RES k.toNat)) 0) ∧
  (Issues s i kML u → u.on (ENG_CTL_EN n) → Does i (.tend i 0 0 0) s fun t => t.engSt n = 1 ∧
    (t.core n).fly = c.fly.filter (fun f => !f.toData) ∧ (t.core n).g = c.g ∧ (t.eng n).view = none ∧
    t.rd (ENG_TASK_MAXCYC_CYCLES n c.tsk) = max (u.rd (ENG_TASK_MAXCYC_CYCLES n c.tsk)) (min (c.cyc.toNat + 1) (2 ^ 24 - 1))) ∧
  (Issues s i kML u → u.on (ENG_CTL_EN n) = false → Does i (.tend i 0 0 0) s fun t => t.engSt n = 0 ∧
    (t.core n).fly = c.fly.filter (fun f => !f.toData) ∧ (t.core n).g = c.g ∧ (t.eng n).relq = []) ∧
  (Issues s i kA u → u.allowed n a .r → inMem a → Does i (.prf i 0 ra ofs) s fun t =>
    t.core n = { c with rbuf := some (a / 32) } ∧ OtherCores u t n) ∧
  (Issues s i kA u → u.allowed n a .r = false ∨ inMem a = false → Does i (.prf i 0 ra ofs) s fun t => t = u)

/-- In privileged mode `rfe` restores pc, IE, PRIV and clears EXL, `idle` stops issue, `mfc` and `mtc` read and write a control register (an
interrupt that STATUS makes takeable is entered before the next instruction), `rgld` loads a region from three words; in user mode each
raises cause 4 (R249 to R251). -/
def Obligations.PrivilegedInstructions : Prop := ∀ (s u : State) (i : Iss) (rd ra : Fin 32) (k j : Nat), 16 ≤ i.core.val → k < 6 → j < 16 →
  let n := i.core.val
  let c := u.core n
  let kk := BitVec.ofNat 9 (2 * k)
  let v := u.gr n ra
  let w := BitVec.ofNat 32 v
  let set : CoreS := { c with
    status := if k = 0 then w &&& 0x1F else c.status
    epc := if k = 1 then w else c.epc
    ecause := if k = 2 then w &&& 0x80001F1F else c.ecause
    badaddr := if k = 3 then w else c.badaddr
    vbase := if k = 4 then w &&& 0xFFFFFE00 else c.vbase
    scratch := if k = 5 then w else c.scratch }
  let p := u.setCore n set
  (Issues s i (kP 2) u → c.status.getLsbD 1 = true → Does i (.rfe i 0 0 0) s fun t => OtherCores u t n ∧
    (t.core n).next = c.epc.toNat ∧ (t.core n).status.getLsbD 0 = c.status.getLsbD 3 ∧
    (t.core n).status.getLsbD 1 = c.status.getLsbD 4 ∧ (t.core n).status.getLsbD 2 = false ∧ (t.core n).g = c.g) ∧
  (Issues s i (kP 1) u → c.status.getLsbD 1 = true →
    Does i (.idle i 0 0 0) s (fun t => OtherCores u t n ∧ t.core n = { c with idle := true }) ∧
    Does i (.mfc i rd 0 kk) s (fun t => ToGpr u t i 1 rd
      (if k = 0 then c.status else if k = 1 then c.epc else if k = 2 then c.ecause else if k = 3 then c.badaddr
        else if k = 4 then c.vbase else c.scratch).toNat 0) ∧
    (20 ≤ n ∨ u.takeable n ∨ p.takeable n = false → Does i (.mtc i 0 ra kk) s fun t => OtherCores u t n ∧ t.core n = set) ∧
    (n < 20 → u.takeable n = false → p.takeable n → Does i (.mtc i 0 ra kk) s fun t => ∃ q, q < 16 ∧
      Enters p t n (BitVec.ofNat 32 c.next) (2 ^ 31 + 256 * q) (0x100 + 0x10 * q))) ∧
  (Issues s i (kP 4) u → n < 20 → c.status.getLsbD 1 = true → v % 4 = 0 → v + 12 ≤ 0x400000 →
    u.allowed n v .r → u.allowed n (v + 4) .r → u.allowed n (v + 8) .r → Does i (.rgld i 0 ra (BitVec.ofNat 9 (2 * j))) s fun t =>
      t.rd (ENG_REGION_BASE_ADDR n j) = u.load v 4 / 256 ∧ t.rd (ENG_REGION_LIMIT_ADDR n j) = u.load (v + 4) 4 / 256 ∧
      t.reg (ENG_REGION_ATTR n j) = u.load (v + 8) 4 % 32 ∧ t.fq = u.fq ∧ t.cores = u.cores ∧
      Only u t [ENG_REGION_BASE n j, ENG_REGION_LIMIT n j, ENG_REGION_ATTR n j]) ∧
  (n < 20 → c.status.getLsbD 1 = false → c.status.getLsbD 2 = false →
    (Issues s i (kP 2) u → Does i (.rfe i 0 0 0) s (fun t => Enters u t n c.pc 4 0)) ∧
    (Issues s i (kP 1) u →
      Does i (.idle i 0 0 0) s (fun t => Enters u t n c.pc 4 0) ∧ Does i (.mfc i rd 0 kk) s (fun t => Enters u t n c.pc 4 0) ∧
      Does i (.mtc i 0 ra kk) s (fun t => Enters u t n c.pc 4 0)) ∧
    (Issues s i (kP 4) u → Does i (.rgld i 0 ra kk) s fun t => Enters u t n c.pc 4 0)) ∧
  (20 ≤ n → c.status.getLsbD 1 = false → (Issues s i (kP 2) u → Does i (.rfe i 0 0 0) s fun t => t.islSt = 4) ∧
    (Issues s i (kP 1) u → ∀ q ∈ [Instr.idle i 0 0 0, Instr.mfc i rd 0 kk, Instr.mtc i 0 ra kk], Does i q s fun t => t.islSt = 4) ∧
    (Issues s i (kP 4) u → Does i (.rgld i 0 ra kk) s fun t => t.islSt = 4))

/-- An Aster engine takes the exceptions of a reserved encoding (cause 1) and of a misaligned access (cause 2, BADADDR) with the entry of
R251; one raised while EXL is set leaves the engine FAULTED with cause 5; a reserved encoding, or an address outside program memory,
leaves a Lupin engine FAULTED with cause 1 or 2, and a safety core fails the island (R219, R227, R251, R252, 07_lupin_engines.md R190,
14_safety_island.md R385). -/
def Obligations.ExceptionEntry : Prop := ∀ (s u : State) (i : Iss) (rt ra rb : Fin 32) (ofs : BitVec 12),
  let n := i.core.val
  let c := u.core n
  let ea := (((u.gr n ra : Int) + ofs.toInt * 4) % 2 ^ 32).toNat
  let begun := s.beginIssue i kX.cost = u ∧ s.canIssue i.core
  (16 ≤ n → n < 20 → c.status.getLsbD 2 = false →
    (Issues s i kX u → rb ≠ 0 → Does i (.abss i rt ra rb) s fun t => Enters u t n c.pc 1 0 ∧ (t.core n).badaddr = c.badaddr) ∧
    (Issues s i kM u → ea % 4 ≠ 0 → Does i (.ldw i rt ra ofs false) s fun t =>
      Enters u t n c.pc 2 0 ∧ (t.core n).badaddr = BitVec.ofNat 32 ea) ∧
    (begun → inProgram n c.pc.toNat = false → Does i (.add i rt ra rb) s fun t => Enters u t n c.pc 2 0 ∧ (t.core n).badaddr = c.pc) ∧
    (begun → inProgram n c.pc.toNat → u.allowed n c.pc.toNat .x → i.reserved → Does i (.add i rt ra rb) s fun t => Enters u t n c.pc 1 0)) ∧
  (16 ≤ n → n < 20 → c.status.getLsbD 2 = true → Issues s i kX u → rb ≠ 0 → Does i (.abss i rt ra rb) s fun t =>
    t.engSt n = 4 ∧ t.rd (ENG_FAULT_CAUSE n) = 5 ∧ t.core n = c ∧ Posted u t srcENG n 1 clsPROGRAM 2 5) ∧
  (n < 16 → Issues s i kX u → rb ≠ 0 → Does i (.abss i rt ra rb) s fun t => Faulted u t n 1) ∧
  (n < 16 → begun → inProgram n c.pc.toNat → i.reserved → Does i (.add i rt ra rb) s fun t => Faulted u t n 1) ∧
  (n < 16 → begun → inProgram n c.pc.toNat = false → Does i (.add i rt ra rb) s fun t => Faulted u t n 2) ∧
  (20 ≤ n → Issues s i kX u → rb ≠ 0 → Does i (.abss i rt ra rb) s fun t => t.islSt = 4)

/-- An interrupt is taken for the lowest enabled pending source while IE is set and EXL clear: EPC names the `wait` in progress or the next
instruction, ECAUSE has bit 31 and the source, and the vector stands at 0x100 + 0x10 i (07_lupin_engines.md R206, R251). -/
def Obligations.InterruptEntry : Prop := ∀ (s : State) (k : Fin 4) (i : Nat),
  let n := 16 + k.val
  let c := s.core n
  let src := fun (j : Nat) => (s.rd (ENG_IRQ_EN_EN n)).testBit j && (s.rd (ENG_IRQ_PEND_PEND n)).testBit j
  (s.engSt n = 2 → s.gated n = false → c.status.getLsbD 0 = true → c.status.getLsbD 2 = false → i < 16 → src i → (∀ j, j < i → ¬ src j) →
  Gives (.interruptTaken k) s fun t =>
    Enters s t n (if c.wait.isSome then c.pc else BitVec.ofNat 32 c.next) (2 ^ 31 + 256 * i) (0x100 + 0x10 * i) ∧
    (t.core n).wait = none ∧ (t.core n).idle = false) ∧
  (s.engSt n ≠ 2 ∨ s.gated n ∨ c.status.getLsbD 0 = false ∨ c.status.getLsbD 2 = true ∨ (∀ j, j < 16 → ¬ src j) →
    Gives (.interruptTaken k) s fun t => t = s)

/-- An access that names nothing: in the register space, or by the host or the debug port below it, it posts UNMAPPED at S0 and changes no
register and no memory, as does any access to the trace memory that LATENCY leaves out; an Aster engine's access below the register space
raises cause 2; an access by a master that reaches nothing, or one that names something, is no such event (00_scope.md R13,
01_architecture.md R31, 20_register_index.md R510). -/
def Obligations.UnmappedAccesses : Prop := ∀ (s : State) (m : Master) (a : BitVec 32) (size : Fin 5) (wr : Bool),
  let k := a.toNat
  let none' := inMem k = false ∨ (wr ∧ roMem k)
  (s.masterOn m → inRegs k → namesReg k size = false → s.blkError k = false → Gives (.unmappedAccess m a size) s fun t =>
    Only s t [] ∧ Posted s t (srcAt k).1 (srcAt k).2 0xF2 clsCONFIG 0 k) ∧
  (s.masterOn m = false ∨ inRegs k = false ∨ namesReg k size ∨ s.blkError k → Gives (.unmappedAccess m a size) s fun t => t = s) ∧
  (s.masterOn m → k < 0x40000000 → s.traceHole k → Gives (.unmappedMemoryAccess m a wr) s fun t =>
    Only s t [] ∧ Posted s t (srcAt k).1 (srcAt k).2 0xF2 clsCONFIG 0 k) ∧
  (s.masterOn m → k < 0x40000000 → none' → (m = .host ∨ m = .debug) → Gives (.unmappedMemoryAccess m a wr) s fun t =>
    Only s t [] ∧ Posted s t (srcAt k).1 (srcAt k).2 0xF2 clsCONFIG 0 k) ∧
  (∀ j : Fin 4, m = .aster j → k < 0x40000000 → none' → s.traceHole k = false → s.engSt (16 + j) = 2 → s.gated (16 + j) = false →
    (s.core (16 + j)).status.getLsbD 2 = false → Gives (.unmappedMemoryAccess m a wr) s fun t =>
      Enters s t (16 + j) (s.core (16 + j)).pc 2 0 ∧ (t.core (16 + j)).badaddr = a) ∧
  (s.masterOn m = false ∨ 0x40000000 ≤ k ∨ (¬ none' ∧ s.traceHole k = false) → Gives (.unmappedMemoryAccess m a wr) s fun t => t = s)
end

