-- ==== Sys2Proof/Laws/Arms.lean ====
section
/-! SUPPORT. Laws/Arms.lean: the meaning each arm of `exec` calls. -/
namespace Sys2Proof.Machine

theorem exec_registerWrite (m : Master) (a v : BitVec 32) (s : State) : exec (.registerWrite m a v) s = execRegisterWrite m a v s := rfl
theorem exec_unmappedAccess (m : Master) (a : BitVec 32) (size : Fin 5) (s : State) : exec (.unmappedAccess m a size) s = execUnmappedAccess m a size s := rfl
theorem exec_unmappedMemoryAccess (m : Master) (a : BitVec 32) (wr : Bool) (s : State) : exec (.unmappedMemoryAccess m a wr) s = execUnmappedMemoryAccess m a wr s := rfl
theorem exec_d2dFlitReceived (ok : Bool) (load : D2dLoad) (s : State) : exec (.d2dFlitReceived ok load) s = execD2dFlitReceived ok load s := rfl
theorem exec_d2dDown (s : State) : exec (.d2dDown) s = execD2dDown s := rfl
theorem exec_stateReqReady (forced : Bool) (s : State) : exec (.stateReqReady forced) s = execStateReqReady forced s := rfl
theorem exec_stateReqArmed (forced : Bool) (s : State) : exec (.stateReqArmed forced) s = execStateReqArmed forced s := rfl
theorem exec_stateReqRun (forced : Bool) (s : State) : exec (.stateReqRun forced) s = execStateReqRun forced s := rfl
theorem exec_stateReqStopped (forced : Bool) (s : State) : exec (.stateReqStopped forced) s = execStateReqStopped forced s := rfl
theorem exec_stateReqDormant (forced : Bool) (s : State) : exec (.stateReqDormant forced) s = execStateReqDormant forced s := rfl
theorem exec_bootLockRetry (s : State) : exec (.bootLockRetry) s = execBootLockRetry s := rfl
theorem exec_heartbeatMiss (s : State) : exec (.heartbeatMiss) s = execHeartbeatMiss s := rfl
theorem exec_frameStart (s : State) : exec (.frameStart) s = execFrameStart s := rfl
theorem exec_frameDepart (l : Fin 24) (under : Option (Fin 8)) (s : State) : exec (.frameDepart l under) s = execFrameDepart l under s := rfl
theorem exec_cycleGridEnable (s : State) : exec (.cycleGridEnable) s = execCycleGridEnable s := rfl
theorem exec_cycleStart (s : State) : exec (.cycleStart) s = execCycleStart s := rfl
theorem exec_cstSwap (c : Fin 192) (s : State) : exec (.cstSwap c) s = execCstSwap c s := rfl
theorem exec_reportSectionReceived (l : Fin 24) (x : Fin 8) (s : State) : exec (.reportSectionReceived l x) s = execReportSectionReceived l x s := rfl
theorem exec_laneEnable (n : Fin 28) (s : State) : exec (.laneEnable n) s = execLaneEnable n s := rfl
theorem exec_laneDisable (n : Fin 28) (s : State) : exec (.laneDisable n) s = execLaneDisable n s := rfl
theorem exec_laneRearm (n : Fin 28) (s : State) : exec (.laneRearm n) s = execLaneRearm n s := rfl
theorem exec_laneTxcomma (n : Fin 28) (s : State) : exec (.laneTxcomma n) s = execLaneTxcomma n s := rfl
theorem exec_txeqApply (n : Fin 28) (s : State) : exec (.txeqApply n) s = execTxeqApply n s := rfl
theorem exec_losAssert (n : Fin 28) (s : State) : exec (.losAssert n) s = execLosAssert n s := rfl
theorem exec_losDeassert (n : Fin 28) (s : State) : exec (.losDeassert n) s = execLosDeassert n s := rfl
theorem exec_cdrLock (n : Fin 28) (s : State) : exec (.cdrLock n) s = execCdrLock n s := rfl
theorem exec_cdrLockLoss (n : Fin 28) (s : State) : exec (.cdrLockLoss n) s = execCdrLockLoss n s := rfl
theorem exec_orderedSetReceived (n : Fin 28) (groups : List (BitVec 10)) (s : State) : exec (.orderedSetReceived n groups) s = execOrderedSetReceived n groups s := rfl
theorem exec_soloHandover (n : Fin 28) (s : State) : exec (.soloHandover n) s = execSoloHandover n s := rfl
theorem exec_blockReceived (n : Fin 28) (hdr : BitVec 2) (payload : BitVec 64) (s : State) : exec (.blockReceived n hdr payload) s = execBlockReceived n hdr payload s := rfl
theorem exec_slipWindowEnd (n : Fin 28) (s : State) : exec (.slipWindowEnd n) s = execSlipWindowEnd n s := rfl
theorem exec_laneSlip (n : Fin 28) (s : State) : exec (.laneSlip n) s = execLaneSlip n s := rfl
theorem exec_slipTimeout (n : Fin 28) (s : State) : exec (.slipTimeout n) s = execSlipTimeout n s := rfl
theorem exec_recoverEnd (n : Fin 28) (s : State) : exec (.recoverEnd n) s = execRecoverEnd n s := rfl
theorem exec_attemptTimeout (n : Fin 28) (s : State) : exec (.attemptTimeout n) s = execAttemptTimeout n s := rfl
theorem exec_attemptIdleEnd (n : Fin 28) (s : State) : exec (.attemptIdleEnd n) s = execAttemptIdleEnd n s := rfl
theorem exec_rearmDue (n : Fin 28) (s : State) : exec (.rearmDue n) s = execRearmDue n s := rfl
theorem exec_joinTimeout (n : Fin 28) (s : State) : exec (.joinTimeout n) s = execJoinTimeout n s := rfl
theorem exec_esStart (n : Fin 28) (s : State) : exec (.esStart n) s = execEsStart n s := rfl
theorem exec_esRunDone (n : Fin 28) (errs : Nat) (s : State) : exec (.esRunDone n errs) s = execEsRunDone n errs s := rfl
theorem exec_headerReceived (l : Fin 24) (arr : Nat) (s : State) : exec (.headerReceived l arr) s = execHeaderReceived l arr s := rfl
theorem exec_headerMissed (n : Fin 24) (p : Fin 2) (s : State) : exec (.headerMissed n p) s = execHeaderMissed n p s := rfl
theorem exec_chainEnable (n : Fin 24) (s : State) : exec (.chainEnable n) s = execChainEnable n s := rfl
theorem exec_chainDisable (n : Fin 24) (s : State) : exec (.chainDisable n) s = execChainDisable n s := rfl
theorem exec_chainRelink (n : Fin 24) (s : State) : exec (.chainRelink n) s = execChainRelink n s := rfl
theorem exec_syncTimeout (n : Fin 24) (s : State) : exec (.syncTimeout n) s = execSyncTimeout n s := rfl
theorem exec_mbGo (c : Fin 192) (s : State) : exec (.mbGo c) s = execMbGo c s := rfl
theorem exec_cellSectionTaken (c : Fin 192) (p : Fin 2) (f : List Byte) (run : Nat) (s : State) : exec (.cellSectionTaken c p f run) s = execCellSectionTaken c p f run s := rfl
theorem exec_cellTokenCheck (c : Fin 192) (p : Fin 2) (f : List Byte) (s : State) : exec (.cellTokenCheck c p f) s = execCellTokenCheck c p f s := rfl
theorem exec_tokenTimerExpiry (c : Fin 192) (s : State) : exec (.tokenTimerExpiry c) s = execTokenTimerExpiry c s := rfl
theorem exec_cellFrameStart (c : Fin 192) (s : State) : exec (.cellFrameStart c) s = execCellFrameStart c s := rfl
theorem exec_leakTestEnd (c : Fin 192) (na : BitVec 24) (s : State) : exec (.leakTestEnd c na) s = execLeakTestEnd c na s := rfl
theorem exec_cellEdgeExecute (c : Fin 192) (s : State) : exec (.cellEdgeExecute c) s = execCellEdgeExecute c s := rfl
theorem exec_cellDeadtimeTurnOn (c : Fin 192) (sw : Fin 13) (s : State) : exec (.cellDeadtimeTurnOn c sw) s = execCellDeadtimeTurnOn c sw s := rfl
theorem exec_holdTimeout (c : Fin 192) (s : State) : exec (.holdTimeout c) s = execHoldTimeout c s := rfl
theorem exec_cellSample (c : Fin 192) (vdc iarm idab : BitVec 16) (temp von : List (BitVec 16)) (s : State) : exec (.cellSample c vdc iarm idab temp von) s = execCellSample c vdc iarm idab temp von s := rfl
theorem exec_cellConversionDone (c : Fin 192) (s : State) : exec (.cellConversionDone c) s = execCellConversionDone c s := rfl
theorem exec_cellReportWrite (c : Fin 192) (p : Fin 2) (f : List Byte) (resid : BitVec 16) (user : List Byte) (s : State) : exec (.cellReportWrite c p f resid user) s = execCellReportWrite c p f resid user s := rfl
theorem exec_cellInputLos (c : Fin 192) (p : Fin 2) (s : State) : exec (.cellInputLos c p) s = execCellInputLos c p s := rfl
theorem exec_cellOrderedSetForward (c : Fin 192) (p : Fin 2) (groups : List (BitVec 10)) (s : State) : exec (.cellOrderedSetForward c p groups) s = execCellOrderedSetForward c p groups s := rfl
theorem exec_desatTrip (c : Fin 192) (sw : Fin 12) (t mv : Nat) (s : State) : exec (.desatTrip c sw t mv) s = execDesatTrip c sw t mv s := rfl
theorem exec_bsuvLockout (c : Fin 192) (sw : Fin 12) (low : Bool) (s : State) : exec (.bsuvLockout c sw low) s = execBsuvLockout c sw low s := rfl
theorem exec_cellDumpOn (c : Fin 192) (s : State) : exec (.cellDumpOn c) s = execCellDumpOn c s := rfl
theorem exec_cellDumpOff (c : Fin 192) (s : State) : exec (.cellDumpOff c) s = execCellDumpOff c s := rfl
theorem exec_modEnable (s : State) : exec (.modEnable) s = execModEnable s := rfl
theorem exec_modAnchorWrite (frame : BitVec 32) (s : State) : exec (.modAnchorWrite frame) s = execModAnchorWrite frame s := rfl
theorem exec_modCommit (mask : BitVec 32) (s : State) : exec (.modCommit mask) s = execModCommit mask s := rfl
theorem exec_planInstant (ch : Fin 784) (s : State) : exec (.planInstant ch) s = execPlanInstant ch s := rfl
theorem exec_carrierZero (ch : Fin 784) (s : State) : exec (.carrierZero ch) s = execCarrierZero ch s := rfl
theorem exec_auxGo (s : State) : exec (.auxGo) s = execAuxGo s := rfl
theorem exec_budgetEmpty (n : Fin 768) (b : Bool) (s : State) : exec (.budgetEmpty n b) s = execBudgetEmpty n b s := rfl
theorem exec_budgetRestore (n : Fin 768) (s : State) : exec (.budgetRestore n) s = execBudgetRestore n s := rfl
theorem exec_debugHalt (e : Fin 16) (s : State) : exec (.debugHalt e) s = execDebugHalt e s := rfl
theorem exec_debugResume (e : Fin 16) (s : State) : exec (.debugResume e) s = execDebugResume e s := rfl
theorem exec_coreClockStop (s : State) : exec (.coreClockStop) s = execCoreClockStop s := rfl
theorem exec_lpwmEdge (m : Fin 16) (s : State) : exec (.lpwmEdge m) s = execLpwmEdge m s := rfl
theorem exec_lpwmTrip (m : Fin 16) (s : State) : exec (.lpwmTrip m) s = execLpwmTrip m s := rfl
theorem exec_lpwmRearm (m : Fin 16) (s : State) : exec (.lpwmRearm m) s = execLpwmRearm m s := rfl
theorem exec_progMemWrite (n : Fin 16) (word : Fin 16384) (v : BitVec 32) (s : State) : exec (.progMemWrite n word v) s = execProgMemWrite n word v s := rfl
theorem exec_engineEnable (n : Fin 20) (s : State) : exec (.engineEnable n) s = execEngineEnable n s := rfl
theorem exec_progCrcDone (n : Fin 20) (s : State) : exec (.progCrcDone n) s = execProgCrcDone n s := rfl
theorem exec_engineDisable (n : Fin 20) (s : State) : exec (.engineDisable n) s = execEngineDisable n s := rfl
theorem exec_taskRelease (tt : Fin 32) (s : State) : exec (.taskRelease tt) s = execTaskRelease tt s := rfl
theorem exec_taskStart (n : Fin 16) (s : State) : exec (.taskStart n) s = execTaskStart n s := rfl
theorem exec_engineRestart (n : Fin 20) (s : State) : exec (.engineRestart n) s = execEngineRestart n s := rfl
theorem exec_prefetchInStart (tt : Fin 32) (s : State) : exec (.prefetchInStart tt) s = execPrefetchInStart tt s := rfl
theorem exec_prefetchInDone (n : Fin 16) (d : Fin 16) (s : State) : exec (.prefetchInDone n d) s = execPrefetchInDone n d s := rfl
theorem exec_outStageDone (n : Fin 16) (s : State) : exec (.outStageDone n) s = execOutStageDone n s := rfl
theorem exec_glutSwapRequest (n : Fin 16) (t : Fin 4) (s : State) : exec (.glutSwapRequest n t) s = execGlutSwapRequest n t s := rfl
theorem exec_pgenInit (n : Fin 16) (s : State) : exec (.pgenInit n) s = execPgenInit n s := rfl
theorem exec_cstopTimeout (s : State) : exec (.cstopTimeout) s = execCstopTimeout s := rfl
theorem exec_interruptTaken (k : Fin 4) (s : State) : exec (.interruptTaken k) s = execInterruptTaken k s := rfl
theorem exec_selfTestStart (n : Fin 20) (s : State) : exec (.selfTestStart n) s = execSelfTestStart n s := rfl
theorem exec_selfTestDone (n : Fin 20) (pass : Bool) (s : State) : exec (.selfTestDone n pass) s = execSelfTestDone n pass s := rfl
theorem exec_migrateRequest (src dst : Fin 16) (s : State) : exec (.migrateRequest src dst) s = execMigrateRequest src dst s := rfl
theorem exec_migrationCopyDone (s : State) : exec (.migrationCopyDone) s = execMigrationCopyDone s := rfl
theorem exec_add (x : Iss) (rd ra rb : Fin 32) (s : State) : exec (.add x rd ra rb) s = execAdd x rd ra rb s := rfl
theorem exec_sub (x : Iss) (rd ra rb : Fin 32) (s : State) : exec (.sub x rd ra rb) s = execSub x rd ra rb s := rfl
theorem exec_and (x : Iss) (rd ra rb : Fin 32) (s : State) : exec (.and x rd ra rb) s = execAnd x rd ra rb s := rfl
theorem exec_or (x : Iss) (rd ra rb : Fin 32) (s : State) : exec (.or x rd ra rb) s = execOr x rd ra rb s := rfl
theorem exec_xor (x : Iss) (rd ra rb : Fin 32) (s : State) : exec (.xor x rd ra rb) s = execXor x rd ra rb s := rfl
theorem exec_shl (x : Iss) (rd ra rb : Fin 32) (s : State) : exec (.shl x rd ra rb) s = execShl x rd ra rb s := rfl
theorem exec_shr (x : Iss) (rd ra rb : Fin 32) (s : State) : exec (.shr x rd ra rb) s = execShr x rd ra rb s := rfl
theorem exec_sar (x : Iss) (rd ra rb : Fin 32) (s : State) : exec (.sar x rd ra rb) s = execSar x rd ra rb s := rfl
theorem exec_min (x : Iss) (rd ra rb : Fin 32) (s : State) : exec (.min x rd ra rb) s = execMin x rd ra rb s := rfl
theorem exec_max (x : Iss) (rd ra rb : Fin 32) (s : State) : exec (.max x rd ra rb) s = execMax x rd ra rb s := rfl
theorem exec_sel (x : Iss) (q : Fin 8) (rd ra rb : Fin 32) (s : State) : exec (.sel x q rd ra rb) s = execSel x q rd ra rb s := rfl
theorem exec_mul (x : Iss) (rd ra rb : Fin 32) (s : State) : exec (.mul x rd ra rb) s = execMul x rd ra rb s := rfl
theorem exec_mulh (x : Iss) (rd ra rb : Fin 32) (s : State) : exec (.mulh x rd ra rb) s = execMulh x rd ra rb s := rfl
theorem exec_div (x : Iss) (rd ra rb : Fin 32) (s : State) : exec (.div x rd ra rb) s = execDiv x rd ra rb s := rfl
theorem exec_divu (x : Iss) (rd ra rb : Fin 32) (s : State) : exec (.divu x rd ra rb) s = execDivu x rd ra rb s := rfl
theorem exec_rem (x : Iss) (rd ra rb : Fin 32) (s : State) : exec (.rem x rd ra rb) s = execRem x rd ra rb s := rfl
theorem exec_adds (x : Iss) (rd ra rb : Fin 32) (s : State) : exec (.adds x rd ra rb) s = execAdds x rd ra rb s := rfl
theorem exec_subs (x : Iss) (rd ra rb : Fin 32) (s : State) : exec (.subs x rd ra rb) s = execSubs x rd ra rb s := rfl
theorem exec_abss (x : Iss) (rd ra rb : Fin 32) (s : State) : exec (.abss x rd ra rb) s = execAbss x rd ra rb s := rfl
theorem exec_qmul (x : Iss) (rd ra rb : Fin 32) (s : State) : exec (.qmul x rd ra rb) s = execQmul x rd ra rb s := rfl
theorem exec_add2 (x : Iss) (rd ra rb : Fin 32) (s : State) : exec (.add2 x rd ra rb) s = execAdd2 x rd ra rb s := rfl
theorem exec_sub2 (x : Iss) (rd ra rb : Fin 32) (s : State) : exec (.sub2 x rd ra rb) s = execSub2 x rd ra rb s := rfl
theorem exec_mul2 (x : Iss) (rd ra rb : Fin 32) (s : State) : exec (.mul2 x rd ra rb) s = execMul2 x rd ra rb s := rfl
theorem exec_pack (x : Iss) (rd ra rb : Fin 32) (s : State) : exec (.pack x rd ra rb) s = execPack x rd ra rb s := rfl
theorem exec_mac (x : Iss) (rd ra rb : Fin 32) (s : State) : exec (.mac x rd ra rb) s = execMac x rd ra rb s := rfl
theorem exec_macu (x : Iss) (rd ra rb : Fin 32) (s : State) : exec (.macu x rd ra rb) s = execMacu x rd ra rb s := rfl
theorem exec_mpy (x : Iss) (rd ra rb : Fin 32) (s : State) : exec (.mpy x rd ra rb) s = execMpy x rd ra rb s := rfl
theorem exec_qmac (x : Iss) (rd ra rb : Fin 32) (s : State) : exec (.qmac x rd ra rb) s = execQmac x rd ra rb s := rfl
theorem exec_mac2 (x : Iss) (rd ra rb : Fin 32) (s : State) : exec (.mac2 x rd ra rb) s = execMac2 x rd ra rb s := rfl
theorem exec_accr (x : Iss) (rd ra : Fin 32) (k : BitVec 12) (s : State) : exec (.accr x rd ra k) s = execAccr x rd ra k s := rfl
theorem exec_accw (x : Iss) (rd ra : Fin 32) (k : BitVec 12) (s : State) : exec (.accw x rd ra k) s = execAccw x rd ra k s := rfl
theorem exec_fadd (x : Iss) (rd ra rb : Fin 32) (s : State) : exec (.fadd x rd ra rb) s = execFadd x rd ra rb s := rfl
theorem exec_fsub (x : Iss) (rd ra rb : Fin 32) (s : State) : exec (.fsub x rd ra rb) s = execFsub x rd ra rb s := rfl
theorem exec_fmul (x : Iss) (rd ra rb : Fin 32) (s : State) : exec (.fmul x rd ra rb) s = execFmul x rd ra rb s := rfl
theorem exec_fdiv (x : Iss) (rd ra rb : Fin 32) (s : State) : exec (.fdiv x rd ra rb) s = execFdiv x rd ra rb s := rfl
theorem exec_fmadd (x : Iss) (rd ra rb : Fin 32) (s : State) : exec (.fmadd x rd ra rb) s = execFmadd x rd ra rb s := rfl
theorem exec_fmin (x : Iss) (rd ra rb : Fin 32) (s : State) : exec (.fmin x rd ra rb) s = execFmin x rd ra rb s := rfl
theorem exec_fmax (x : Iss) (rd ra rb : Fin 32) (s : State) : exec (.fmax x rd ra rb) s = execFmax x rd ra rb s := rfl
theorem exec_fabs (x : Iss) (rd ra rb : Fin 32) (s : State) : exec (.fabs x rd ra rb) s = execFabs x rd ra rb s := rfl
theorem exec_fcvtFi (x : Iss) (rd ra rb : Fin 32) (s : State) : exec (.fcvtFi x rd ra rb) s = execFcvtFi x rd ra rb s := rfl
theorem exec_fcvtIf (x : Iss) (rd ra rb : Fin 32) (s : State) : exec (.fcvtIf x rd ra rb) s = execFcvtIf x rd ra rb s := rfl
theorem exec_ceq (x : Iss) (rd ra rb : Fin 32) (s : State) : exec (.ceq x rd ra rb) s = execCeq x rd ra rb s := rfl
theorem exec_cne (x : Iss) (rd ra rb : Fin 32) (s : State) : exec (.cne x rd ra rb) s = execCne x rd ra rb s := rfl
theorem exec_clt (x : Iss) (rd ra rb : Fin 32) (s : State) : exec (.clt x rd ra rb) s = execClt x rd ra rb s := rfl
theorem exec_cltu (x : Iss) (rd ra rb : Fin 32) (s : State) : exec (.cltu x rd ra rb) s = execCltu x rd ra rb s := rfl
theorem exec_fceq (x : Iss) (rd ra rb : Fin 32) (s : State) : exec (.fceq x rd ra rb) s = execFceq x rd ra rb s := rfl
theorem exec_fclt (x : Iss) (rd ra rb : Fin 32) (s : State) : exec (.fclt x rd ra rb) s = execFclt x rd ra rb s := rfl
theorem exec_fcle (x : Iss) (rd ra rb : Fin 32) (s : State) : exec (.fcle x rd ra rb) s = execFcle x rd ra rb s := rfl
theorem exec_pand (x : Iss) (rd ra rb : Fin 32) (s : State) : exec (.pand x rd ra rb) s = execPand x rd ra rb s := rfl
theorem exec_por (x : Iss) (rd ra rb : Fin 32) (s : State) : exec (.por x rd ra rb) s = execPor x rd ra rb s := rfl
theorem exec_pxor (x : Iss) (rd ra rb : Fin 32) (s : State) : exec (.pxor x rd ra rb) s = execPxor x rd ra rb s := rfl
theorem exec_ceqi (x : Iss) (rd ra : Fin 32) (imm : BitVec 12) (s : State) : exec (.ceqi x rd ra imm) s = execCeqi x rd ra imm s := rfl
theorem exec_clti (x : Iss) (rd ra : Fin 32) (imm : BitVec 12) (s : State) : exec (.clti x rd ra imm) s = execClti x rd ra imm s := rfl
theorem exec_addi (x : Iss) (rd ra : Fin 32) (imm : BitVec 12) (s : State) : exec (.addi x rd ra imm) s = execAddi x rd ra imm s := rfl
theorem exec_andi (x : Iss) (rd ra : Fin 32) (imm : BitVec 12) (s : State) : exec (.andi x rd ra imm) s = execAndi x rd ra imm s := rfl
theorem exec_ori (x : Iss) (rd ra : Fin 32) (imm : BitVec 12) (s : State) : exec (.ori x rd ra imm) s = execOri x rd ra imm s := rfl
theorem exec_shli (x : Iss) (rd ra : Fin 32) (imm : BitVec 12) (s : State) : exec (.shli x rd ra imm) s = execShli x rd ra imm s := rfl
theorem exec_shri (x : Iss) (rd ra : Fin 32) (imm : BitVec 12) (s : State) : exec (.shri x rd ra imm) s = execShri x rd ra imm s := rfl
theorem exec_lil (x : Iss) (rd : Fin 32) (imm : BitVec 17) (s : State) : exec (.lil x rd imm) s = execLil x rd imm s := rfl
theorem exec_lih (x : Iss) (rd : Fin 32) (imm : BitVec 17) (s : State) : exec (.lih x rd imm) s = execLih x rd imm s := rfl
theorem exec_ldw (x : Iss) (rt ra : Fin 32) (ofs : BitVec 12) (ue : Bool) (s : State) : exec (.ldw x rt ra ofs ue) s = execLdw x rt ra ofs ue s := rfl
theorem exec_ldh (x : Iss) (rt ra : Fin 32) (ofs : BitVec 12) (ue : Bool) (s : State) : exec (.ldh x rt ra ofs ue) s = execLdh x rt ra ofs ue s := rfl
theorem exec_ldhu (x : Iss) (rt ra : Fin 32) (ofs : BitVec 12) (ue : Bool) (s : State) : exec (.ldhu x rt ra ofs ue) s = execLdhu x rt ra ofs ue s := rfl
theorem exec_ldbu (x : Iss) (rt ra : Fin 32) (ofs : BitVec 12) (ue : Bool) (s : State) : exec (.ldbu x rt ra ofs ue) s = execLdbu x rt ra ofs ue s := rfl
theorem exec_stw (x : Iss) (rt ra : Fin 32) (ofs : BitVec 12) (s : State) : exec (.stw x rt ra ofs) s = execStw x rt ra ofs s := rfl
theorem exec_sth (x : Iss) (rt ra : Fin 32) (ofs : BitVec 12) (s : State) : exec (.sth x rt ra ofs) s = execSth x rt ra ofs s := rfl
theorem exec_stb (x : Iss) (rt ra : Fin 32) (ofs : BitVec 12) (s : State) : exec (.stb x rt ra ofs) s = execStb x rt ra ofs s := rfl
theorem exec_prf (x : Iss) (rt ra : Fin 32) (ofs : BitVec 12) (s : State) : exec (.prf x rt ra ofs) s = execPrf x rt ra ofs s := rfl
theorem exec_br (x : Iss) (disp : BitVec 22) (s : State) : exec (.br x disp) s = execBr x disp s := rfl
theorem exec_brl (x : Iss) (disp : BitVec 22) (s : State) : exec (.brl x disp) s = execBrl x disp s := rfl
theorem exec_jr (x : Iss) (rd ra : Fin 32) (k : BitVec 12) (s : State) : exec (.jr x rd ra k) s = execJr x rd ra k s := rfl
theorem exec_jrl (x : Iss) (rd ra : Fin 32) (k : BitVec 12) (s : State) : exec (.jrl x rd ra k) s = execJrl x rd ra k s := rfl
theorem exec_csnap (x : Iss) (rd ra : Fin 32) (k : BitVec 12) (ue : Bool) (s : State) : exec (.csnap x rd ra k ue) s = execCsnap x rd ra k ue s := rfl
theorem exec_msh (x : Iss) (rd ra : Fin 32) (k : BitVec 12) (s : State) : exec (.msh x rd ra k) s = execMsh x rd ra k s := rfl
theorem exec_ldall (x : Iss) (rd ra : Fin 32) (k : BitVec 12) (s : State) : exec (.ldall x rd ra k) s = execLdall x rd ra k s := rfl
theorem exec_glut (x : Iss) (rd ra : Fin 32) (k : BitVec 12) (s : State) : exec (.glut x rd ra k) s = execGlut x rd ra k s := rfl
theorem exec_pstepKeep (x : Iss) (rd ra : Fin 32) (k : BitVec 11) (s : State) : exec (.pstepKeep x rd ra k) s = execPstepKeep x rd ra k s := rfl
theorem exec_pstepTarget (x : Iss) (rd ra : Fin 32) (k : BitVec 11) (s : State) : exec (.pstepTarget x rd ra k) s = execPstepTarget x rd ra k s := rfl
theorem exec_tbrdSnapshot (x : Iss) (rd : Fin 32) (k : BitVec 9) (s : State) : exec (.tbrdSnapshot x rd k) s = execTbrdSnapshot x rd k s := rfl
theorem exec_tbrdPart (x : Iss) (rd : Fin 32) (sel : BitVec 3) (k : BitVec 9) (s : State) : exec (.tbrdPart x rd sel k) s = execTbrdPart x rd sel k s := rfl
theorem exec_wait (x : Iss) (rd ra rb : Fin 32) (s : State) : exec (.wait x rd ra rb) s = execWait x rd ra rb s := rfl
theorem exec_waitEnd (k : Fin 4) (s : State) : exec (.waitEnd k) s = execWaitEnd k s := rfl
theorem exec_fpost (x : Iss) (rd ra : Fin 32) (k : BitVec 12) (s : State) : exec (.fpost x rd ra k) s = execFpost x rd ra k s := rfl
theorem exec_tprb (x : Iss) (rd ra : Fin 32) (k : BitVec 12) (s : State) : exec (.tprb x rd ra k) s = execTprb x rd ra k s := rfl
theorem exec_tmeas (x : Iss) (rd ra : Fin 32) (k : BitVec 12) (s : State) : exec (.tmeas x rd ra k) s = execTmeas x rd ra k s := rfl
theorem exec_tend (x : Iss) (rd ra : Fin 32) (k : BitVec 12) (s : State) : exec (.tend x rd ra k) s = execTend x rd ra k s := rfl
theorem exec_mfs (x : Iss) (rd ra : Fin 32) (k : BitVec 12) (s : State) : exec (.mfs x rd ra k) s = execMfs x rd ra k s := rfl
theorem exec_mfsClear (x : Iss) (rd ra : Fin 32) (k : BitVec 12) (s : State) : exec (.mfsClear x rd ra k) s = execMfsClear x rd ra k s := rfl
theorem exec_rfe (x : Iss) (rd ra : Fin 32) (k : BitVec 9) (s : State) : exec (.rfe x rd ra k) s = execRfe x rd ra k s := rfl
theorem exec_idle (x : Iss) (rd ra : Fin 32) (k : BitVec 9) (s : State) : exec (.idle x rd ra k) s = execIdle x rd ra k s := rfl
theorem exec_mfc (x : Iss) (rd ra : Fin 32) (k : BitVec 9) (s : State) : exec (.mfc x rd ra k) s = execMfc x rd ra k s := rfl
theorem exec_mtc (x : Iss) (rd ra : Fin 32) (k : BitVec 9) (s : State) : exec (.mtc x rd ra k) s = execMtc x rd ra k s := rfl
theorem exec_rgld (x : Iss) (rd ra : Fin 32) (k : BitVec 9) (s : State) : exec (.rgld x rd ra k) s = execRgld x rd ra k s := rfl
theorem exec_retryWaitEnd (c : Fin 192) (s : State) : exec (.retryWaitEnd c) s = execRetryWaitEnd c s := rfl
theorem exec_protUnlock (c : Fin 192) (s : State) : exec (.protUnlock c) s = execProtUnlock c s := rfl
theorem exec_paramPush (c : Fin 192) (s : State) : exec (.paramPush c) s = execParamPush c s := rfl
theorem exec_evqRead (s : State) : exec (.evqRead) s = execEvqRead s := rfl
theorem exec_leakInterval (s : State) : exec (.leakInterval) s = execLeakInterval s := rfl
theorem exec_leakTimeout (s : State) : exec (.leakTimeout) s = execLeakTimeout s := rfl
theorem exec_lpwmRetryWaitEnd (m : Fin 16) (s : State) : exec (.lpwmRetryWaitEnd m) s = execLpwmRetryWaitEnd m s := rfl
theorem exec_dumpOneshotEnd (s : State) : exec (.dumpOneshotEnd) s = execDumpOneshotEnd s := rfl
theorem exec_adcTrigger (a : Fin 4) (s : State) : exec (.adcTrigger a) s = execAdcTrigger a s := rfl
theorem exec_adcConversionDone (a : Fin 4) (vin : Int) (s : State) : exec (.adcConversionDone a vin) s = execAdcConversionDone a vin s := rfl
theorem exec_adcUrgentGo (a : Fin 4) (inp : BitVec 3) (s : State) : exec (.adcUrgentGo a inp) s = execAdcUrgentGo a inp s := rfl
theorem exec_adcCalReq (a : Fin 4) (s : State) : exec (.adcCalReq a) s = execAdcCalReq a s := rfl
theorem exec_adcCalDone (a : Fin 4) (s : State) : exec (.adcCalDone a) s = execAdcCalDone a s := rfl
theorem exec_resLoRead (a : Fin 4) (k : Fin 17) (s : State) : exec (.resLoRead a k) s = execResLoRead a k s := rfl
theorem exec_resHiRead (a : Fin 4) (k : Fin 17) (s : State) : exec (.resHiRead a k) s = execResHiRead a k s := rfl
theorem exec_refEnable (s : State) : exec (.refEnable) s = execRefEnable s := rfl
theorem exec_refReady (s : State) : exec (.refReady) s = execRefReady s := rfl
theorem exec_cmpEnable (x : Fin 24) (s : State) : exec (.cmpEnable x) s = execCmpEnable x s := rfl
theorem exec_cmpHoldRelease (x : Fin 24) (vin : Int) (s : State) : exec (.cmpHoldRelease x vin) s = execCmpHoldRelease x vin s := rfl
theorem exec_dacSettled (x : Fin 24) (s : State) : exec (.dacSettled x) s = execDacSettled x s := rfl
theorem exec_cmpOutputAssert (x : Fin 24) (vin : Int) (s : State) : exec (.cmpOutputAssert x vin) s = execCmpOutputAssert x vin s := rfl
theorem exec_cmpOutputDeassert (x : Fin 24) (vin : Int) (s : State) : exec (.cmpOutputDeassert x vin) s = execCmpOutputDeassert x vin s := rfl
theorem exec_cmpClearLatch (x : Fin 24) (s : State) : exec (.cmpClearLatch x) s = execCmpClearLatch x s := rfl
theorem exec_thmRequest (mask : BitVec 12) (s : State) : exec (.thmRequest mask) s = execThmRequest mask s := rfl
theorem exec_thmMeasureDone (x : Fin 12) (t : BitVec 16) (s : State) : exec (.thmMeasureDone x t) s = execThmMeasureDone x t s := rfl
theorem exec_sensorBroken (x : Fin 12) (s : State) : exec (.sensorBroken x) s = execSensorBroken x s := rfl
theorem exec_sensorHot (x : Fin 12) (t : BitVec 16) (s : State) : exec (.sensorHot x t) s = execSensorHot x t s := rfl
theorem exec_sensorCool (x : Fin 12) (t : BitVec 16) (s : State) : exec (.sensorCool x t) s = execSensorCool x t s := rfl
theorem exec_wakeEvent (cause : Fin 32) (s : State) : exec (.wakeEvent cause) s = execWakeEvent cause s := rfl
theorem exec_sysAdpllEnable (s : State) : exec (.sysAdpllEnable) s = execSysAdpllEnable s := rfl
theorem exec_tbAdpllEnable (s : State) : exec (.tbAdpllEnable) s = execTbAdpllEnable s := rfl
theorem exec_lockWindowEnd (p : Fin 2) (count : Nat) (s : State) : exec (.lockWindowEnd p count) s = execLockWindowEnd p count s := rfl
theorem exec_refLoss (r : Fin 2) (s : State) : exec (.refLoss r) s = execRefLoss r s := rfl
theorem exec_refQualified (r : Fin 2) (j : BitVec 24) (s : State) : exec (.refQualified r j) s = execRefQualified r j s := rfl
theorem exec_tbRefSwitch (r : Fin 2) (s : State) : exec (.tbRefSwitch r) s = execTbRefSwitch r s := rfl
theorem exec_tbRefSwitchDone (j : BitVec 24) (s : State) : exec (.tbRefSwitchDone j) s = execTbRefSwitchDone j s := rfl
theorem exec_sysRampGo (s : State) : exec (.sysRampGo) s = execSysRampGo s := rfl
theorem exec_sysRampDone (s : State) : exec (.sysRampDone) s = execSysRampDone s := rfl
theorem exec_spreadRequest (en : Bool) (depth : BitVec 7) (s : State) : exec (.spreadRequest en depth) s = execSpreadRequest en depth s := rfl
theorem exec_tbRampGo (s : State) : exec (.tbRampGo) s = execTbRampGo s := rfl
theorem exec_tbRampDone (s : State) : exec (.tbRampDone) s = execTbRampDone s := rfl
theorem exec_dllLock (s : State) : exec (.dllLock) s = execDllLock s := rfl
theorem exec_dllLost (s : State) : exec (.dllLost) s = execDllLost s := rfl
theorem exec_slewGo (s : State) : exec (.slewGo) s = execSlewGo s := rfl
theorem exec_slewStop (s : State) : exec (.slewStop) s = execSlewStop s := rfl
theorem exec_slewDone (s : State) : exec (.slewDone) s = execSlewDone s := rfl
theorem exec_timebaseSet (s : State) : exec (.timebaseSet) s = execTimebaseSet s := rfl
theorem exec_timebaseSnapshotRead (s : State) : exec (.timebaseSnapshotRead) s = execTimebaseSnapshotRead s := rfl
theorem exec_ttArm (t : Fin 32) (w : BitVec 32) (s : State) : exec (.ttArm t w) s = execTtArm t w s := rfl
theorem exec_ttEvent (t : Fin 32) (s : State) : exec (.ttEvent t) s = execTtEvent t s := rfl
theorem exec_ppsWidthEnd (s : State) : exec (.ppsWidthEnd) s = execPpsWidthEnd s := rfl
theorem exec_captureEdge (k : Fin 8) (rising : Bool) (q : Fin 8) (s : State) : exec (.captureEdge k rising q) s = execCaptureEdge k rising q s := rfl
theorem exec_ethLinkUp (p : Fin 2) (ok : Bool) (s : State) : exec (.ethLinkUp p ok) s = execEthLinkUp p ok s := rfl
theorem exec_ethFrameReceived (p : Fin 2) (q : Nat) (fcsOk : Bool) (tag : Option SecTag) (f : List Byte) (s : State) : exec (.ethFrameReceived p q fcsOk tag f) s = execEthFrameReceived p q fcsOk tag f s := rfl
theorem exec_ethTxTailWrite (p : Fin 2) (v : BitVec 8) (s : State) : exec (.ethTxTailWrite p v) s = execEthTxTailWrite p v s := rfl
theorem exec_ethRxTailWrite (p : Fin 2) (v : BitVec 8) (s : State) : exec (.ethRxTailWrite p v) s = execEthRxTailWrite p v s := rfl
theorem exec_ethFrameSent (p : Fin 2) (fwd : Bool) (q : Nat) (s : State) : exec (.ethFrameSent p fwd q) s = execEthFrameSent p fwd q s := rfl
theorem exec_pdelayTimeout (p : Fin 2) (s : State) : exec (.pdelayTimeout p) s = execPdelayTimeout p s := rfl
theorem exec_saddleFrameDepart (x : Fin 4) (under : Option (Fin 8)) (s : State) : exec (.saddleFrameDepart x under) s = execSaddleFrameDepart x under s := rfl
theorem exec_saddleHeaderReceived (x : Fin 4) (arr : Nat) (s : State) : exec (.saddleHeaderReceived x arr) s = execSaddleHeaderReceived x arr s := rfl
theorem exec_saddleSlotReceived (x : Fin 4) (j : Fin 8) (s : State) : exec (.saddleSlotReceived x j) s = execSaddleSlotReceived x j s := rfl
theorem exec_hbLost (s : State) : exec (.hbLost) s = execHbLost s := rfl
theorem exec_pairEnable (s : State) : exec (.pairEnable) s = execPairEnable s := rfl
theorem exec_pairDisable (s : State) : exec (.pairDisable) s = execPairDisable s := rfl
theorem exec_pairTake (s : State) : exec (.pairTake) s = execPairTake s := rfl
theorem exec_pairYield (s : State) : exec (.pairYield) s = execPairYield s := rfl
theorem exec_yieldEnd (s : State) : exec (.yieldEnd) s = execYieldEnd s := rfl
theorem exec_demotionHoldEnd (s : State) : exec (.demotionHoldEnd) s = execDemotionHoldEnd s := rfl
theorem exec_faultEntry (d : Fin 36) (s : State) : exec (.faultEntry d) s = execFaultEntry d s := rfl
theorem exec_faultAck (mask : BitVec 32) (s : State) : exec (.faultAck mask) s = execFaultAck mask s := rfl
theorem exec_histMsgHiRead (x : Fin 32) (s : State) : exec (.histMsgHiRead x) s = execHistMsgHiRead x s := rfl
theorem exec_islandLoadEnd (pcrc bcrc : BitVec 32) (prog block : List Byte) (s : State) : exec (.islandLoadEnd pcrc bcrc prog block) s = execIslandLoadEnd pcrc bcrc prog block s := rfl
theorem exec_safeMbInWrite (w : BitVec 32) (s : State) : exec (.safeMbInWrite w) s = execSafeMbInWrite w s := rfl
theorem exec_safeMbOutRead (s : State) : exec (.safeMbOutRead) s = execSafeMbOutRead s := rfl
theorem exec_islandFrameStrobe (ns : Nat) (s : State) : exec (.islandFrameStrobe ns) s = execIslandFrameStrobe ns s := rfl
theorem exec_epochWordChange (s : State) : exec (.epochWordChange) s = execEpochWordChange s := rfl
theorem exec_safeInputOpen (x : Fin 6) (s : State) : exec (.safeInputOpen x) s = execSafeInputOpen x s := rfl
theorem exec_safeInputClose (x : Fin 6) (s : State) : exec (.safeInputClose x) s = execSafeInputClose x s := rfl
theorem exec_discrepancy (k : Fin 3) (s : State) : exec (.discrepancy k) s = execDiscrepancy k s := rfl
theorem exec_sdmResult (x : Fin 4) (v : BitVec 16) (live : Bool) (s : State) : exec (.sdmResult x v live) s = execSdmResult x v live s := rfl
theorem exec_sdmStuck (x : Fin 4) (s : State) : exec (.sdmStuck x) s = execSdmStuck x s := rfl
theorem exec_slcTrip (x : Fin 4) (s : State) : exec (.slcTrip x) s = execSlcTrip x s := rfl
theorem exec_spdTrip (s : State) : exec (.spdTrip) s = execSpdTrip s := rfl
theorem exec_positionUpdate (a b : Fin 101) (s : State) : exec (.positionUpdate a b) s = execPositionUpdate a b s := rfl
theorem exec_doorLockRelease (s : State) : exec (.doorLockRelease) s = execDoorLockRelease s := rfl
theorem exec_safeOkOpen (s : State) : exec (.safeOkOpen) s = execSafeOkOpen s := rfl
theorem exec_islandTokensStart (s : State) : exec (.islandTokensStart) s = execIslandTokensStart s := rfl
theorem exec_sackRise (s : State) : exec (.sackRise) s = execSackRise s := rfl
theorem exec_sackRelease (s : State) : exec (.sackRelease) s = execSackRelease s := rfl
theorem exec_sackJam (s : State) : exec (.sackJam) s = execSackJam s := rfl
theorem exec_proofIntervalExpiry (s : State) : exec (.proofIntervalExpiry) s = execProofIntervalExpiry s := rfl
theorem exec_confirmArm (s : State) : exec (.confirmArm) s = execConfirmArm s := rfl
theorem exec_confirmCheck (v : BitVec 32) (s : State) : exec (.confirmCheck v) s = execConfirmCheck v s := rfl
theorem exec_confirmWindowExpiry (s : State) : exec (.confirmWindowExpiry) s = execConfirmWindowExpiry s := rfl
theorem exec_lockstepFail (pc : BitVec 32) (s : State) : exec (.lockstepFail pc) s = execLockstepFail pc s := rfl
theorem exec_roStart (s : State) : exec (.roStart) s = execRoStart s := rfl
theorem exec_roDone (counts : List (BitVec 24)) (s : State) : exec (.roDone counts) s = execRoDone counts s := rfl
theorem exec_srmStart (s : State) : exec (.srmStart) s = execSrmStart s := rfl
theorem exec_srmDone (steps : BitVec 6) (s : State) : exec (.srmDone steps) s = execSrmDone steps s := rfl
theorem exec_bandgapMeasure (ppm : BitVec 16) (s : State) : exec (.bandgapMeasure ppm) s = execBandgapMeasure ppm s := rfl
theorem exec_lkqRead (s : State) : exec (.lkqRead) s = execLkqRead s := rfl
theorem exec_recordCommit (s : State) : exec (.recordCommit) s = execRecordCommit s := rfl
theorem exec_hourTick (s : State) : exec (.hourTick) s = execHourTick s := rfl
theorem exec_planSubmit (s : State) : exec (.planSubmit) s = execPlanSubmit s := rfl
theorem exec_planValidationDone (s : State) : exec (.planValidationDone) s = execPlanValidationDone s := rfl
theorem exec_planCancel (s : State) : exec (.planCancel) s = execPlanCancel s := rfl
theorem exec_envLockSet (s : State) : exec (.envLockSet) s = execEnvLockSet s := rfl
theorem exec_rollbackBurn (m : Master) (s : State) : exec (.rollbackBurn m) s = execRollbackBurn m s := rfl
theorem exec_revokeBurn (m : Master) (slot : Fin 4) (s : State) : exec (.revokeBurn m slot) s = execRevokeBurn m slot s := rfl
theorem exec_fuseBurnDone (s : State) : exec (.fuseBurnDone) s = execFuseBurnDone s := rfl
theorem exec_vaultEnrol (m : Master) (s : State) : exec (.vaultEnrol m) s = execVaultEnrol m s := rfl
theorem exec_vaultImport (m : Master) (slot : Fin 16) (s : State) : exec (.vaultImport m slot) s = execVaultImport m slot s := rfl
theorem exec_vaultClear (m : Master) (slot : Fin 16) (s : State) : exec (.vaultClear m slot) s = execVaultClear m slot s := rfl
theorem exec_vaultGenId (m : Master) (s : State) : exec (.vaultGenId m) s = execVaultGenId m s := rfl
theorem exec_vaultSign (m : Master) (s : State) : exec (.vaultSign m) s = execVaultSign m s := rfl
theorem exec_vaultCommandDone (s : State) : exec (.vaultCommandDone) s = execVaultCommandDone s := rfl
theorem exec_tamper (x : Fin 2) (s : State) : exec (.tamper x) s = execTamper x s := rfl
theorem exec_vglitch (rail : Fin 3) (s : State) : exec (.vglitch rail) s = execVglitch rail s := rfl
theorem exec_cglitch (k : Fin 2) (s : State) : exec (.cglitch k) s = execCglitch k s := rfl
theorem exec_lowtemp (s : State) : exec (.lowtemp) s = execLowtemp s := rfl
theorem exec_debugChallengeRead (s : State) : exec (.debugChallengeRead) s = execDebugChallengeRead s := rfl
theorem exec_debugAuthResponse (keyOk sigOk : Bool) (s : State) : exec (.debugAuthResponse keyOk sigOk) s = execDebugAuthResponse keyOk sigOk s := rfl
theorem exec_railWarn (r : Fin 10) (s : State) : exec (.railWarn r) s = execRailWarn r s := rfl
theorem exec_railRecover (r : Fin 10) (s : State) : exec (.railRecover r) s = execRailRecover r s := rfl
theorem exec_railBelowReset (r : Fin 10) (s : State) : exec (.railBelowReset r) s = execRailBelowReset r s := rfl
theorem exec_porRelease (r : Fin 10) (s : State) : exec (.porRelease r) s = execPorRelease r s := rfl
theorem exec_nresetAssert (s : State) : exec (.nresetAssert) s = execNresetAssert s := rfl
theorem exec_nresetRelease (s : State) : exec (.nresetRelease) s = execNresetRelease s := rfl
theorem exec_resetRelease (b : BootIn) (s : State) : exec (.resetRelease b) s = execResetRelease b s := rfl
theorem exec_hostImageGo (keyOk sigOk : Bool) (s : State) : exec (.hostImageGo keyOk sigOk) s = execHostImageGo keyOk sigOk s := rfl
theorem exec_configDone (s : State) : exec (.configDone) s = execConfigDone s := rfl
theorem exec_configTimeout (s : State) : exec (.configTimeout) s = execConfigTimeout s := rfl
theorem exec_mramWrite (w : Fin 524288) (v : BitVec 64) (be : BitVec 8) (s : State) : exec (.mramWrite w v be) s = execMramWrite w v be s := rfl
theorem exec_mramPulseDone (s : State) : exec (.mramPulseDone) s = execMramPulseDone s := rfl
theorem exec_scrubRead (err : Fin 3) (s : State) : exec (.scrubRead err) s = execScrubRead err s := rfl
theorem exec_blockReset (code : BitVec 7) (test : Bool) (s : State) : exec (.blockReset code test) s = execBlockReset code test s := rfl
theorem exec_blockResetDone (s : State) : exec (.blockResetDone) s = execBlockResetDone s := rfl
theorem exec_blockSelfTestDone (pass : Bool) (s : State) : exec (.blockSelfTestDone pass) s = execBlockSelfTestDone pass s := rfl
theorem exec_canFrameReceived (m : Fin 4) (f : CanFrame) (sof len : Nat) (s : State) : exec (.canFrameReceived m f sof len) s = execCanFrameReceived m f sof len s := rfl
theorem exec_canSetreq (m : Fin 4) (o : Fin 64) (s : State) : exec (.canSetreq m o) s = execCanSetreq m o s := rfl
theorem exec_canCancel (m : Fin 4) (o : Fin 64) (started : Bool) (s : State) : exec (.canCancel m o started) s = execCanCancel m o started s := rfl
theorem exec_canTxDone (m : Fin 4) (o : Fin 64) (d sof len : Nat) (s : State) : exec (.canTxDone m o d sof len) s = execCanTxDone m o d sof len s := rfl
theorem exec_canTxFail (m : Fin 4) (o : Fin 64) (arb quiet : Bool) (s : State) : exec (.canTxFail m o arb quiet) s = execCanTxFail m o arb quiet s := rfl
theorem exec_canRecover (m : Fin 4) (s : State) : exec (.canRecover m) s = execCanRecover m s := rfl
theorem exec_canBusoffRecovered (m : Fin 4) (s : State) : exec (.canBusoffRecovered m) s = execCanBusoffRecovered m s := rfl
theorem exec_canInitClear (m : Fin 4) (s : State) : exec (.canInitClear m) s = execCanInitClear m s := rfl
theorem exec_canTscap (m : Fin 4) (p : Nat) (s : State) : exec (.canTscap m p) s = execCanTscap m p s := rfl
theorem exec_canClockStop (m : Fin 4) (s : State) : exec (.canClockStop m) s = execCanClockStop m s := rfl
theorem exec_canRxsRead (m : Fin 4) (o : Fin 64) (s : State) : exec (.canRxsRead m o) s = execCanRxsRead m o s := rfl
theorem exec_perst (s : State) : exec (.perst) s = execPerst s := rfl
theorem exec_pcieLinkDown (s : State) : exec (.pcieLinkDown) s = execPcieLinkDown s := rfl
theorem exec_bmeClear (s : State) : exec (.bmeClear) s = execBmeClear s := rfl
theorem exec_doorbellWrite (x : Fin 8) (w : BitVec 32) (s : State) : exec (.doorbellWrite x w) s = execDoorbellWrite x w s := rfl
theorem exec_h2dWrite (w : BitVec 32) (s : State) : exec (.h2dWrite w) s = execH2dWrite w s := rfl
theorem exec_h2dRead (s : State) : exec (.h2dRead) s = execH2dRead s := rfl
theorem exec_d2hWrite (w : BitVec 32) (s : State) : exec (.d2hWrite w) s = execD2hWrite w s := rfl
theorem exec_d2hRead (s : State) : exec (.d2hRead) s = execD2hRead s := rfl
theorem exec_msixSend (v : Fin 32) (s : State) : exec (.msixSend v) s = execMsixSend v s := rfl
theorem exec_msixUnmask (v : Fin 32) (s : State) : exec (.msixUnmask v) s = execMsixUnmask v s := rfl
theorem exec_dmaTailWrite (d : Fin 4) (v : BitVec 8) (s : State) : exec (.dmaTailWrite d v) s = execDmaTailWrite d v s := rfl
theorem exec_dmaDescriptorDone (d : Fin 4) (err : Bool) (data : List Byte) (s : State) : exec (.dmaDescriptorDone d err data) s = execDmaDescriptorDone d err data s := rfl
theorem exec_recordDrain (full : Bool) (s : State) : exec (.recordDrain full) s = execRecordDrain full s := rfl
theorem exec_traceArm (s : State) : exec (.traceArm) s = execTraceArm s := rfl
theorem exec_traceStop (s : State) : exec (.traceStop) s = execTraceStop s := rfl
theorem exec_traceForce (s : State) : exec (.traceForce) s = execTraceForce s := rfl
theorem exec_streamCredit (add : BitVec 19) (s : State) : exec (.streamCredit add) s = execStreamCredit add s := rfl
theorem exec_cellInputRelock (c : Fin 192) (p : Fin 2) (s : State) : exec (.cellInputRelock c p) s = execCellInputRelock c p s := rfl
theorem exec_nodeReset (c : Fin 192) (s : State) : exec (.nodeReset c) s = execNodeReset c s := rfl
theorem exec_lpwmDeadtimeTurnOn (m : Fin 16) (s : State) : exec (.lpwmDeadtimeTurnOn m) s = execLpwmDeadtimeTurnOn m s := rfl
theorem exec_prefetchOutDone (n : Fin 16) (s : State) : exec (.prefetchOutDone n) s = execPrefetchOutDone n s := rfl
theorem exec_sensorBrokenClear (x : Fin 12) (s : State) : exec (.sensorBrokenClear x) s = execSensorBrokenClear x s := rfl
theorem exec_coreClockResume (s : State) : exec (.coreClockResume) s = execCoreClockResume s := rfl
theorem exec_strobeMissing (ns : Nat) (s : State) : exec (.strobeMissing ns) s = execStrobeMissing ns s := rfl
theorem exec_ethLinkDown (p : Fin 2) (s : State) : exec (.ethLinkDown p) s = execEthLinkDown p s := rfl
theorem exec_canRxError (m : Fin 4) (pxe big : Bool) (s : State) : exec (.canRxError m pxe big) s = execCanRxError m pxe big s := rfl
theorem exec_pcieLinkUp (w v : Fin 3) (s : State) : exec (.pcieLinkUp w v) s = execPcieLinkUp w v s := rfl
theorem exec_bmeSet (s : State) : exec (.bmeSet) s = execBmeSet s := rfl

end Sys2Proof.Machine
end

