-- ==== Sys2Proof/Laws/Table.lean ====
section
/-! SUPPORT. Laws/Table.lean: the sparse tables keep their canonical form, and a read after a write. -/
namespace Sys2Proof.Machine

variable {α : Type}

/-- Every key lies above a bound. -/
def Tbl.above (b : Option Nat) (j : Nat) : Bool := match b with | none => true | some m => decide (m < j)

theorem Tbl.wfFrom_cons [DecidableEq α] {d : Nat → α} {b : Option Nat} {j : Nat} {v : α} {t : List (Nat × α)} :
    Tbl.wfFrom d b ((j, v) :: t) = true ↔ Tbl.above b j = true ∧ v ≠ d j ∧ Tbl.wfFrom d (some j) t = true := by
  cases b <;> simp [Tbl.wfFrom, Tbl.above, and_assoc]

theorem Tbl.above_trans {b : Option Nat} {i j : Nat} (h : Tbl.above b i = true) (hij : i < j) : Tbl.above b j = true := by
  cases b with
  | none => rfl
  | some m => simp [Tbl.above] at *; omega

theorem Tbl.wfFrom_weaken [DecidableEq α] {d : Nat → α} {b : Option Nat} {i : Nat} {t : List (Nat × α)}
    (hb : Tbl.above b i = true) (h : Tbl.wfFrom d (some i) t = true) : Tbl.wfFrom d b t = true := by
  cases t with
  | nil => simp [Tbl.wfFrom]
  | cons e t =>
    obtain ⟨j, v⟩ := e
    rw [Tbl.wfFrom_cons] at *
    refine ⟨Tbl.above_trans hb ?_, h.2⟩
    simpa [Tbl.above] using h.1

theorem Tbl.wfFrom_put [DecidableEq α] {d : Nat → α} {k : Nat} {v : α} (hv : v ≠ d k) (l : List (Nat × α)) (b : Option Nat)
    (hb : Tbl.above b k = true) (h : Tbl.wfFrom d b l = true) : Tbl.wfFrom d b (Tbl.put k v l) = true := by
  induction l generalizing b with
  | nil =>
    simp only [Tbl.put]
    exact Tbl.wfFrom_cons.2 ⟨hb, hv, by simp [Tbl.wfFrom]⟩
  | cons e t ih =>
    obtain ⟨j, w⟩ := e
    rw [Tbl.wfFrom_cons] at h
    simp only [Tbl.put]
    split
    · rename_i hk
      rw [Tbl.wfFrom_cons, Tbl.wfFrom_cons]
      exact ⟨hb, hv, by simpa [Tbl.above] using hk, h.2⟩
    · split
      · rename_i hk
        subst hk
        rw [Tbl.wfFrom_cons]
        exact ⟨hb, hv, h.2.2⟩
      · rw [Tbl.wfFrom_cons]
        exact ⟨h.1, h.2.1, ih (some j) (by simp [Tbl.above]; omega) h.2.2⟩

theorem Tbl.wfFrom_filter [DecidableEq α] {d : Nat → α} (p : Nat × α → Bool) (l : List (Nat × α)) (b : Option Nat)
    (h : Tbl.wfFrom d b l = true) : Tbl.wfFrom d b (l.filter p) = true := by
  induction l generalizing b with
  | nil => simpa using h
  | cons e t ih =>
    obtain ⟨j, w⟩ := e
    rw [Tbl.wfFrom_cons] at h
    by_cases hp : p (j, w) = true
    · rw [List.filter_cons_of_pos hp, Tbl.wfFrom_cons]
      exact ⟨h.1, h.2.1, ih (some j) h.2.2⟩
    · rw [List.filter_cons_of_neg (by simpa using hp)]
      exact Tbl.wfFrom_weaken h.1 (ih (some j) h.2.2)

theorem Tbl.drop_eq_filter (k : Nat) (l : List (Nat × α)) : Tbl.drop k l = l.filter fun e => decide (e.1 ≠ k) := by
  induction l with
  | nil => rfl
  | cons e t ih =>
    obtain ⟨j, w⟩ := e
    by_cases h : j = k <;> simp [Tbl.drop, h, ih]

theorem Tbl.wf_set [DecidableEq α] {d : Nat → α} {l : List (Nat × α)} (h : Tbl.wf d l = true) (k : Nat) (v : α) :
    Tbl.wf d (Tbl.set d l k v) = true := by
  simp only [Tbl.set, Tbl.wf] at *
  split
  · rw [Tbl.drop_eq_filter]; exact Tbl.wfFrom_filter _ _ _ h
  · rename_i hv
    exact Tbl.wfFrom_put hv _ _ rfl h

theorem Tbl.wf_filter [DecidableEq α] {d : Nat → α} {l : List (Nat × α)} (h : Tbl.wf d l = true) (p : Nat × α → Bool) :
    Tbl.wf d (l.filter p) = true := Tbl.wfFrom_filter p l none h

/-! ### Reading -/

theorem Tbl.find_drop_self (k : Nat) (l : List (Nat × α)) : Tbl.find k (Tbl.drop k l) = none := by
  induction l with
  | nil => rfl
  | cons e t ih =>
    obtain ⟨j, w⟩ := e
    by_cases h : j = k <;> simp [Tbl.drop, Tbl.find, h, ih]

theorem Tbl.find_drop_ne {k j : Nat} (h : j ≠ k) (l : List (Nat × α)) : Tbl.find j (Tbl.drop k l) = Tbl.find j l := by
  induction l with
  | nil => rfl
  | cons e t ih =>
    obtain ⟨i, w⟩ := e
    by_cases hk : i = k
    · subst hk
      simp [Tbl.drop, Tbl.find, ih, Ne.symm h]
    · by_cases hj : i = j
      · subst hj; simp [Tbl.drop, Tbl.find, hk]
      · simp [Tbl.drop, Tbl.find, hk, hj, ih]

theorem Tbl.find_put_self (k : Nat) (v : α) (l : List (Nat × α)) : Tbl.find k (Tbl.put k v l) = some v := by
  induction l with
  | nil => simp [Tbl.put, Tbl.find]
  | cons e t ih =>
    obtain ⟨j, w⟩ := e
    simp only [Tbl.put]
    split
    · simp [Tbl.find]
    · split
      · simp [Tbl.find]
      · rename_i h; simp [Tbl.find, h, ih]

theorem Tbl.find_put_ne {k j : Nat} (h : j ≠ k) (v : α) (l : List (Nat × α)) : Tbl.find j (Tbl.put k v l) = Tbl.find j l := by
  induction l with
  | nil => simp [Tbl.put, Tbl.find, Ne.symm h]
  | cons e t ih =>
    obtain ⟨i, w⟩ := e
    simp only [Tbl.put]
    split
    · simp [Tbl.find, Ne.symm h]
    · split
      · rename_i hk; subst hk; simp [Tbl.find, Ne.symm h]
      · by_cases hj : i = j <;> simp [Tbl.find, hj, ih]

theorem Tbl.get_set_self [DecidableEq α] (d : Nat → α) (l : List (Nat × α)) (k : Nat) (v : α) :
    Tbl.get d (Tbl.set d l k v) k = v := by
  simp only [Tbl.get, Tbl.set]
  split
  · rename_i h; simp [Tbl.find_drop_self, h]
  · simp [Tbl.find_put_self]

theorem Tbl.get_set_ne [DecidableEq α] (d : Nat → α) (l : List (Nat × α)) {k j : Nat} (h : j ≠ k) (v : α) :
    Tbl.get d (Tbl.set d l k v) j = Tbl.get d l j := by
  simp only [Tbl.get, Tbl.set]
  split
  · simp [Tbl.find_drop_ne h]
  · simp [Tbl.find_put_ne h]

end Sys2Proof.Machine
end

