-- ==== Sys2Proof/Laws/Keep.lean ====
section
/-! SUPPORT. Laws/Keep.lean: what a meaning leaves as it is: it keeps the canonical form and the queue depths of Safety.lean, and it never
touches the command queue. The relation, and how it passes through the shared operations. -/
namespace Sys2Proof.Machine

/-- The part of the state that the invariant and the queue speak of. -/
structure Tracked where
  pending : List Instr
  regs : List (Nat × Word)
  mem : List Host.Cell
  fq : List (Nat × FaultQ)
  trigq : List TrigE
  recs : List (Word × Word × Word × Word)
  h2d : List Word
  d2h : List Word

def Tracked.Inv (v : Tracked) : Prop :=
  (Registers.wf v.regs ∧ Memory.wf v.mem) ∧
    (∀ q ∈ v.fq, q.2.msgs.length ≤ 16) ∧ v.trigq.length ≤ 32 ∧ v.recs.length ≤ 64 ∧ v.h2d.length ≤ 32 ∧ v.d2h.length ≤ 32

def State.tracked (s : State) : Tracked := ⟨s.pending, s.regs, s.mem, s.fq, s.trigq, s.trc.q, s.host.h2d, s.host.d2h⟩

theorem State.inv_tracked (s : State) : s.Inv ↔ s.tracked.Inv := Iff.rfl

/-- `v` is as `s` leaves it. -/
def KeepT (s : State) (v : Tracked) : Prop := (s.tracked.Inv → v.Inv) ∧ v.pending = s.pending

/-- `t` keeps what `s` has. -/
def Keep (s t : State) : Prop := KeepT s t.tracked

theorem Keep.refl (s : State) : Keep s s := ⟨id, rfl⟩
theorem Keep.trans {s t u : State} (h : Keep s t) (k : Keep t u) : Keep s u := ⟨fun x => k.1 (h.1 x), k.2.trans h.2⟩

/-- A state that differs in other fields only. -/
theorem Keep.mk {s x : State} (h : Keep s x) :
    KeepT s ⟨x.pending, x.regs, x.mem, x.fq, x.trigq, x.trc.q, x.host.h2d, x.host.d2h⟩ := h

/-- A state written out keeps what its tracked fields keep. -/
theorem Keep.ofMk {s : State} {pending : List Instr} {free : Nat} {regs : List (Nat × Word)} {mem : List Host.Cell} {tb : Nat} {frames : Nat} {fq : List (Nat × FaultQ)} {wired : Nat} {grid : GridH} {lanes : List (Nat × LaneH)} {chains : List (Nat × ChainH)} {cells : List (Nat × CellH)} {cst : List (Nat × CstE)} {nodes : List (Nat × NodeS)} {chans : List (Nat × ChanH)} {plans : List (Nat × CellPlan)} {starved : List Nat} {aux : Option Nat} {modA : Int} {lpwm : List (Nat × LpwmH)} {cores : List (Nat × CoreS)} {engs : List (Nat × EngH)} {protc : List (Nat × ProtC)} {prot : ProtH} {pair : PairH} {adcs : List (Nat × AdcH)} {cmps : List (Nat × CmpH)} {sys : SysH} {tts : List (Nat × TtH)} {trigq : List TrigE} {age : AgeH} {isl : IslH} {eths : List (Nat × EthH)} {cans : List (Nat × CanH)} {sec : SecH} {trc : TraceH} {host : HostH}
    (h : KeepT s ⟨pending, regs, mem, fq, trigq, trc.q, host.h2d, host.d2h⟩) :
    Keep s ⟨pending, free, regs, mem, tb, frames, fq, wired, grid, lanes, chains, cells, cst, nodes, chans, plans, starved, aux, modA, lpwm, cores, engs, protc, prot, pair, adcs, cmps, sys, tts, trigq, age, isl, eths, cans, sec, trc, host⟩ := h

theorem Keep.ite {s t u : State} {c : Prop} [Decidable c] (h : Keep s t) (k : Keep s u) : Keep s (if c then t else u) := by
  split <;> assumption

theorem Keep.when {s t : State} (h : Keep s t) (b : Bool) {f : State → State} (hf : ∀ u, Keep s u → Keep s (f u)) :
    Keep s (t.when b f) := by
  unfold State.when
  split
  · exact hf t h
  · exact h

theorem Keep.forEach {s t : State} {α : Type} (h : Keep s t) (l : List α) {f : State → α → State}
    (hf : ∀ u a, Keep s u → Keep s (f u a)) : Keep s (t.forEach l f) := by
  unfold State.forEach
  induction l generalizing t with
  | nil => exact h
  | cons a l ih => exact ih (hf t a h)

theorem Keep.setReg {s t : State} (h : Keep s t) (a v : Nat) : Keep s (t.setReg a v) :=
  ⟨fun x => ⟨⟨Tbl.wf_set (h.1 x).1.1 _ _, (h.1 x).1.2⟩, (h.1 x).2⟩, h.2⟩

theorem Keep.setByte {s t : State} (h : Keep s t) (a : Nat) (b : Byte) : Keep s (t.setByte a b) :=
  ⟨fun x => ⟨⟨(h.1 x).1.1, Tbl.wf_set (h.1 x).1.2 _ _⟩, (h.1 x).2⟩, h.2⟩

theorem Keep.setBytes {s t : State} (h : Keep s t) (a : Nat) (l : List Byte) : Keep s (t.setBytes a l) := by
  induction l generalizing t a with
  | nil => exact h
  | cons b l ih => exact ih (h.setByte a b) (a + 1)

theorem Keep.same {s t : State} (h : Keep s t) : Keep s (id t) := h

/-- A next state that a command answers keeps what `s` has. -/
def KeepO (s : State) (o : Out) : Prop := ∀ t, o = .next t → Keep s t

theorem KeepO.next {s t : State} (h : Keep s t) : KeepO s (.next t) := fun _ e => by cases e; exact h
theorem KeepO.fault {s : State} (f : Fault) : KeepO s (.fault f) := fun _ e => by cases e
theorem KeepO.ite {s : State} {o p : Out} {c : Prop} [Decidable c] (h : KeepO s o) (k : KeepO s p) : KeepO s (if c then o else p) := by
  split <;> assumption

end Sys2Proof.Machine
end

