-- ==== Sys2Proof/Laws/KeepOps.lean ====
section
/-! SUPPORT. Laws/KeepOps.lean: the operations and commands of Machine/Ops.lean keep the invariant and the command queue. -/
namespace Sys2Proof.Machine
open State

theorem State.wr_k {zz s : State} (hs : Keep zz s) (f : Fld) (x : Nat) : Keep zz (State.wr s f x) := by
  unfold State.wr
  repeat' (first | with_reducible (first | assumption | apply Keep.setReg) | intro _ _ _ | intro _ _)

theorem State.set1_k {zz s : State} (hs : Keep zz s) (f : Fld) : Keep zz (State.set1 s f) := by
  unfold State.set1
  repeat' (first | with_reducible (first | assumption | apply wr_k) | intro _ _ _ | intro _ _)

theorem State.clr_k {zz s : State} (hs : Keep zz s) (f : Fld) : Keep zz (State.clr s f) := by
  unfold State.clr
  repeat' (first | with_reducible (first | assumption | apply wr_k) | intro _ _ _ | intro _ _)

theorem State.addSat_k {zz s : State} (hs : Keep zz s) (f : Fld) (n : Nat) : Keep zz (State.addSat s f n) := by
  unfold State.addSat
  repeat' (first | with_reducible (first | assumption | apply wr_k) | intro _ _ _ | intro _ _)

theorem State.bump_k {zz s : State} (hs : Keep zz s) (f : Fld) : Keep zz (State.bump s f) := by
  unfold State.bump
  repeat' (first | with_reducible (first | assumption | apply addSat_k) | intro _ _ _ | intro _ _)

theorem State.setBit_k {zz s : State} (hs : Keep zz s) (f : Fld) (i : Nat) : Keep zz (State.setBit s f i) := by
  unfold State.setBit
  repeat' (first | with_reducible (first | assumption | apply wr_k) | intro _ _ _ | intro _ _ | (with_reducible apply Keep.ofMk; with_reducible refine Keep.mk ?_))

theorem State.clrBit_k {zz s : State} (hs : Keep zz s) (f : Fld) (i : Nat) : Keep zz (State.clrBit s f i) := by
  unfold State.clrBit
  repeat' (first | with_reducible (first | assumption | apply wr_k) | intro _ _ _ | intro _ _ | (with_reducible apply Keep.ofMk; with_reducible refine Keep.mk ?_))

theorem State.drawnN_k {zz s : State} (hs : Keep zz s) (k : Nat) : Keep zz (State.drawnN s k) := by
  unfold State.drawnN
  repeat' (first | with_reducible (first | assumption) | intro _ _ _ | intro _ _ | (with_reducible apply Keep.ofMk; with_reducible refine Keep.mk ?_))

theorem State.drawn_k {zz s : State} (hs : Keep zz s)  : Keep zz (State.drawn s) := by
  unfold State.drawn
  repeat' (first | with_reducible (first | assumption) | intro _ _ _ | intro _ _ | (with_reducible apply Keep.ofMk; with_reducible refine Keep.mk ?_))

theorem State.wrFree_k {zz s : State} (hs : Keep zz s) (f : Fld) : Keep zz (State.wrFree s f) := by
  unfold State.wrFree
  repeat' (first | with_reducible (first | assumption | apply wr_k | apply drawn_k) | intro _ _ _ | intro _ _)

theorem State.store_k {zz s : State} (hs : Keep zz s) (a : Nat) (k : Nat) (n : Nat) : Keep zz (State.store s a k n) := by
  unfold State.store
  repeat' (first | with_reducible (first | assumption | apply Keep.setBytes) | intro _ _ _ | intro _ _)

theorem State.setLane_k {zz s : State} (hs : Keep zz s) (n : Nat) (x : LaneH) : Keep zz (State.setLane s n x) := by
  unfold State.setLane
  try dsimp only
  repeat' (first | with_reducible (first | assumption) | intro _ _ _ | intro _ _ | (with_reducible apply Keep.ofMk; with_reducible refine Keep.mk ?_))

theorem State.setChain_k {zz s : State} (hs : Keep zz s) (n : Nat) (x : ChainH) : Keep zz (State.setChain s n x) := by
  unfold State.setChain
  try dsimp only
  repeat' (first | with_reducible (first | assumption) | intro _ _ _ | intro _ _ | (with_reducible apply Keep.ofMk; with_reducible refine Keep.mk ?_))

theorem State.setCell_k {zz s : State} (hs : Keep zz s) (c : Nat) (x : CellH) : Keep zz (State.setCell s c x) := by
  unfold State.setCell
  try dsimp only
  repeat' (first | with_reducible (first | assumption) | intro _ _ _ | intro _ _ | (with_reducible apply Keep.ofMk; with_reducible refine Keep.mk ?_))

theorem State.setCst_k {zz s : State} (hs : Keep zz s) (c : Nat) (x : CstE) : Keep zz (State.setCst s c x) := by
  unfold State.setCst
  try dsimp only
  repeat' (first | with_reducible (first | assumption) | intro _ _ _ | intro _ _ | (with_reducible apply Keep.ofMk; with_reducible refine Keep.mk ?_))

theorem State.setNode_k {zz s : State} (hs : Keep zz s) (c : Nat) (x : NodeS) : Keep zz (State.setNode s c x) := by
  unfold State.setNode
  try dsimp only
  repeat' (first | with_reducible (first | assumption) | intro _ _ _ | intro _ _ | (with_reducible apply Keep.ofMk; with_reducible refine Keep.mk ?_))

theorem State.setChan_k {zz s : State} (hs : Keep zz s) (n : Nat) (x : ChanH) : Keep zz (State.setChan s n x) := by
  unfold State.setChan
  try dsimp only
  repeat' (first | with_reducible (first | assumption) | intro _ _ _ | intro _ _ | (with_reducible apply Keep.ofMk; with_reducible refine Keep.mk ?_))

theorem State.setPlan_k {zz s : State} (hs : Keep zz s) (c : Nat) (x : CellPlan) : Keep zz (State.setPlan s c x) := by
  unfold State.setPlan
  try dsimp only
  repeat' (first | with_reducible (first | assumption) | intro _ _ _ | intro _ _ | (with_reducible apply Keep.ofMk; with_reducible refine Keep.mk ?_))

theorem State.setLp_k {zz s : State} (hs : Keep zz s) (m : Nat) (x : LpwmH) : Keep zz (State.setLp s m x) := by
  unfold State.setLp
  try dsimp only
  repeat' (first | with_reducible (first | assumption) | intro _ _ _ | intro _ _ | (with_reducible apply Keep.ofMk; with_reducible refine Keep.mk ?_))

theorem State.setCore_k {zz s : State} (hs : Keep zz s) (n : Nat) (x : CoreS) : Keep zz (State.setCore s n x) := by
  unfold State.setCore
  repeat' (first | with_reducible (first | assumption) | intro _ _ _ | intro _ _ | (with_reducible apply Keep.ofMk; with_reducible refine Keep.mk ?_))

theorem State.setEng_k {zz s : State} (hs : Keep zz s) (n : Nat) (x : EngH) : Keep zz (State.setEng s n x) := by
  unfold State.setEng
  try dsimp only
  repeat' (first | with_reducible (first | assumption) | intro _ _ _ | intro _ _ | (with_reducible apply Keep.ofMk; with_reducible refine Keep.mk ?_))

theorem State.setPc_k {zz s : State} (hs : Keep zz s) (c : Nat) (x : ProtC) : Keep zz (State.setPc s c x) := by
  unfold State.setPc
  try dsimp only
  repeat' (first | with_reducible (first | assumption) | intro _ _ _ | intro _ _ | (with_reducible apply Keep.ofMk; with_reducible refine Keep.mk ?_))

theorem State.setAdc_k {zz s : State} (hs : Keep zz s) (a : Nat) (x : AdcH) : Keep zz (State.setAdc s a x) := by
  unfold State.setAdc
  try dsimp only
  repeat' (first | with_reducible (first | assumption) | intro _ _ _ | intro _ _ | (with_reducible apply Keep.ofMk; with_reducible refine Keep.mk ?_))

theorem State.setCmp_k {zz s : State} (hs : Keep zz s) (i : Nat) (x : CmpH) : Keep zz (State.setCmp s i x) := by
  unfold State.setCmp
  try dsimp only
  repeat' (first | with_reducible (first | assumption) | intro _ _ _ | intro _ _ | (with_reducible apply Keep.ofMk; with_reducible refine Keep.mk ?_))

theorem State.setTt_k {zz s : State} (hs : Keep zz s) (t : Nat) (x : TtH) : Keep zz (State.setTt s t x) := by
  unfold State.setTt
  try dsimp only
  repeat' (first | with_reducible (first | assumption) | intro _ _ _ | intro _ _ | (with_reducible apply Keep.ofMk; with_reducible refine Keep.mk ?_))

theorem State.setEth_k {zz s : State} (hs : Keep zz s) (p : Nat) (x : EthH) : Keep zz (State.setEth s p x) := by
  unfold State.setEth
  try dsimp only
  repeat' (first | with_reducible (first | assumption) | intro _ _ _ | intro _ _ | (with_reducible apply Keep.ofMk; with_reducible refine Keep.mk ?_))

theorem State.setCan_k {zz s : State} (hs : Keep zz s) (m : Nat) (x : CanH) : Keep zz (State.setCan s m x) := by
  unfold State.setCan
  try dsimp only
  repeat' (first | with_reducible (first | assumption) | intro _ _ _ | intro _ _ | (with_reducible apply Keep.ofMk; with_reducible refine Keep.mk ?_))

theorem State.setSec_k {zz s : State} (hs : Keep zz s) (x : SecH) : Keep zz (State.setSec s x) := by
  unfold State.setSec
  repeat' (first | with_reducible (first | assumption) | intro _ _ _ | intro _ _ | (with_reducible apply Keep.ofMk; with_reducible refine Keep.mk ?_))

theorem State.setSys_k {zz s : State} (hs : Keep zz s) (x : SysH) : Keep zz (State.setSys s x) := by
  unfold State.setSys
  repeat' (first | with_reducible (first | assumption) | intro _ _ _ | intro _ _ | (with_reducible apply Keep.ofMk; with_reducible refine Keep.mk ?_))

theorem State.dropBuf_k {zz s : State} (hs : Keep zz s) (a : Nat) (k : Nat) : Keep zz (State.dropBuf s a k) := by
  unfold State.dropBuf
  try dsimp only
  repeat' (first | with_reducible (first | assumption | apply Keep.when | apply Keep.forEach | apply setCore_k) | intro _ _ _ | intro _ _ | (with_reducible apply Keep.ofMk; with_reducible refine Keep.mk ?_))

theorem State.putMem_k {zz s : State} (hs : Keep zz s) (a : Nat) (bs : List Byte) : Keep zz (State.putMem s a bs) := by
  unfold State.putMem
  repeat' (first | with_reducible (first | assumption | apply Keep.setBytes | apply dropBuf_k) | intro _ _ _ | intro _ _)

theorem State.land_k {zz s : State} (hs : Keep zz s) (n : Nat) (f : Flight) : Keep zz (State.land s n f) := by
  unfold State.land
  try dsimp only
  repeat' (first | with_reducible (first | assumption | apply setCore_k | apply putMem_k | apply Keep.ite) | intro _ _ _ | intro _ _ | split | dsimp only | (with_reducible apply Keep.ofMk; with_reducible refine Keep.mk ?_))

theorem State.landTo_k {zz s : State} (hs : Keep zz s) (n : Nat) (t : Nat) : Keep zz (State.landTo s n t) := by
  unfold State.landTo
  try dsimp only
  repeat' (first | with_reducible (first | assumption | apply Keep.forEach | apply setCore_k | apply land_k) | intro _ _ _ | intro _ _ | (with_reducible apply Keep.ofMk; with_reducible refine Keep.mk ?_))

theorem State.landData_k {zz s : State} (hs : Keep zz s) (n : Nat) : Keep zz (State.landData s n) := by
  unfold State.landData
  try dsimp only
  repeat' (first | with_reducible (first | assumption | apply Keep.forEach | apply setCore_k | apply land_k) | intro _ _ _ | intro _ _ | (with_reducible apply Keep.ofMk; with_reducible refine Keep.mk ?_))

theorem State.settle_k {zz s : State} (hs : Keep zz s) (n : Nat) : Keep zz (State.settle s n) := by
  unfold State.settle
  try dsimp only
  repeat' (first | with_reducible (first | assumption | apply Keep.forEach | apply setCore_k | apply land_k) | intro _ _ _ | intro _ _ | (with_reducible apply Keep.ofMk; with_reducible refine Keep.mk ?_))

theorem State.setTb_k {zz s : State} (hs : Keep zz s) (t : Nat) : Keep zz (State.setTb s t) := by
  unfold State.setTb
  repeat' (first | with_reducible (first | assumption | apply wr_k) | intro _ _ _ | intro _ _ | (with_reducible apply Keep.ofMk; with_reducible refine Keep.mk ?_))

theorem State.slewPass_k {zz s : State} (hs : Keep zz s) (d : Nat) : Keep zz (State.slewPass s d) := by
  unfold State.slewPass
  repeat' (first | with_reducible (first | assumption | apply Keep.ite) | intro _ _ _ | intro _ _ | split | (with_reducible apply Keep.ofMk; with_reducible refine Keep.mk ?_))

theorem State.timeTo_k {zz s : State} (hs : Keep zz s) (t : Nat) : Keep zz (State.timeTo s t) := by
  unfold State.timeTo
  repeat' (first | with_reducible (first | assumption | apply setTb_k | apply slewPass_k) | intro _ _ _ | intro _ _)

theorem State.irqTo_k {zz s : State} (hs : Keep zz s) (k : Nat) (i : Nat) : Keep zz (State.irqTo s k i) := by
  unfold State.irqTo
  repeat' (first | with_reducible (first | assumption | apply setBit_k) | intro _ _ _ | intro _ _)

theorem State.irq_k {zz s : State} (hs : Keep zz s) (i : Nat) : Keep zz (State.irq s i) := by
  unfold State.irq
  repeat' (first | with_reducible (first | assumption | apply irqTo_k) | intro _ _ _ | intro _ _)

end Sys2Proof.Machine
end

