-- ==== Sys2Proof/Laws/KeepFaults.lean ====
section
/-! SUPPORT. Laws/KeepFaults.lean: the operations and commands of Machine/Faults.lean keep the invariant and the command queue. -/
namespace Sys2Proof.Machine
open State

theorem State.setDev_k {zz s : State} (hs : Keep zz s) (n : Nat) : Keep zz (State.setDev s n) := by
  unfold State.setDev
  try dsimp only
  repeat' (first | with_reducible (first | assumption | apply Keep.when | apply Keep.forEach | apply wr_k | apply clr_k) | intro _ _ _ | intro _ _)

theorem State.cstopCheck_k {zz s : State} (hs : Keep zz s)  : Keep zz (State.cstopCheck s) := by
  unfold State.cstopCheck
  try dsimp only
  repeat' (first | with_reducible (first | assumption | apply Keep.when | apply setDev_k) | intro _ _ _ | intro _ _)

theorem State.lockPgen_k {zz s : State} (hs : Keep zz s) (n : Nat) : Keep zz (State.lockPgen s n) := by
  unfold State.lockPgen
  try dsimp only
  repeat' (first | with_reducible (first | assumption | apply Keep.when | apply wr_k | apply set1_k | apply clr_k | apply setEng_k | apply Keep.ite) | intro _ _ _ | intro _ _ | split | (with_reducible apply Keep.ofMk; with_reducible refine Keep.mk ?_))

theorem State.cstopStart_k {zz s : State} (hs : Keep zz s)  : Keep zz (State.cstopStart s) := by
  unfold State.cstopStart
  try dsimp only
  repeat' (first | with_reducible (first | assumption | apply Keep.when | apply Keep.forEach | apply set1_k | apply cstopCheck_k | apply lockPgen_k) | intro _ _ _ | intro _ _)

theorem State.books_k {zz s : State} (hs : Keep zz s)  : Keep zz (State.books s) := by
  unfold State.books
  try dsimp only
  repeat' (first | with_reducible (first | assumption | apply Keep.forEach | apply wr_k) | intro _ _ _ | intro _ _)

theorem State.pins_k {zz s : State} (hs : Keep zz s) (m : Nat) : Keep zz (State.pins s m) := by
  unfold State.pins
  try dsimp only
  repeat' (first | with_reducible (first | assumption | apply Keep.when | apply wr_k | apply Keep.ite) | intro _ _ _ | intro _ _ | split)

theorem State.lpOff_k {zz s : State} (hs : Keep zz s) (m : Nat) : Keep zz (State.lpOff s m) := by
  unfold State.lpOff
  try dsimp only
  repeat' (first | with_reducible (first | assumption | apply setLp_k | apply pins_k | apply Keep.ite) | intro _ _ _ | intro _ _ | split | (with_reducible apply Keep.ofMk; with_reducible refine Keep.mk ?_))

theorem State.pairOff_k {zz s : State} (hs : Keep zz s) (m : Nat) : Keep zz (State.pairOff s m) := by
  unfold State.pairOff
  try dsimp only
  repeat' (first | with_reducible (first | assumption | apply setLp_k | apply pins_k | apply Keep.ite) | intro _ _ _ | intro _ _ | split | (with_reducible apply Keep.ofMk; with_reducible refine Keep.mk ?_))

theorem State.lpwmOff_k {zz s : State} (hs : Keep zz s) (m : Nat) : Keep zz (State.lpwmOff s m) := by
  unfold State.lpwmOff
  repeat' (first | with_reducible (first | assumption | apply setLp_k | apply lpOff_k) | intro _ _ _ | intro _ _ | (with_reducible apply Keep.ofMk; with_reducible refine Keep.mk ?_))

theorem State.pulseBlock_k {zz s : State} (hs : Keep zz s)  : Keep zz (State.pulseBlock s) := by
  unfold State.pulseBlock
  try dsimp only
  repeat' (first | with_reducible (first | assumption | apply Keep.when | apply Keep.forEach | apply set1_k | apply setDev_k | apply lpwmOff_k) | intro _ _ _ | intro _ _)

theorem State.resetRequest_k {zz s : State} (hs : Keep zz s)  : Keep zz (State.resetRequest s) := by
  unfold State.resetRequest
  try dsimp only
  repeat' (first | with_reducible (first | assumption | apply Keep.when | apply set1_k) | intro _ _ _ | intro _ _)

theorem State.wiredReact_k {zz s : State} (hs : Keep zz s) (sev : Nat) : Keep zz (State.wiredReact s sev) := by
  unfold State.wiredReact
  try dsimp only
  repeat' (first | with_reducible (first | assumption | apply Keep.when | apply pulseBlock_k | apply resetRequest_k) | intro _ _ _ | intro _ _)

theorem State.powerLost_k {zz s : State} (hs : Keep zz s)  : Keep zz (State.powerLost s) := by
  unfold State.powerLost
  try dsimp only
  repeat' (first | with_reducible (first | assumption | apply Keep.when | apply setDev_k) | intro _ _ _ | intro _ _)

/-- The bound on the queues of `setFq` and of `fqOf`. -/
theorem fq_put {l : List (Nat × FaultQ)} (h : ∀ q ∈ l, q.2.msgs.length ≤ 16) (d : Nat) {x : FaultQ} (hx : x.msgs.length ≤ 16) :
    ∀ q ∈ Tbl.put d x l, q.2.msgs.length ≤ 16 := by
  induction l with
  | nil => simpa [Tbl.put] using hx
  | cons e t ih =>
    simp only [Tbl.put]
    split
    · intro q hq
      rcases List.mem_cons.1 hq with rfl | hq
      · exact hx
      · exact h q hq
    · split
      · intro q hq
        rcases List.mem_cons.1 hq with rfl | hq
        · exact hx
        · exact h q (List.mem_cons_of_mem _ hq)
      · intro q hq
        rcases List.mem_cons.1 hq with rfl | hq
        · exact h _ List.mem_cons_self
        · exact ih (fun q hq => h q (List.mem_cons_of_mem _ hq)) q hq

theorem fq_set {l : List (Nat × FaultQ)} (h : ∀ q ∈ l, q.2.msgs.length ≤ 16) (d : Nat) {x : FaultQ} (hx : x.msgs.length ≤ 16) :
    ∀ q ∈ Tbl.set (fun _ => {}) l d x, q.2.msgs.length ≤ 16 := by
  unfold Tbl.set
  split
  · rw [Tbl.drop_eq_filter]; exact fun q hq => h q ((List.mem_filter.1 hq).1)
  · exact fq_put h d hx

theorem fq_find {l : List (Nat × FaultQ)} (h : ∀ q ∈ l, q.2.msgs.length ≤ 16) (d : Nat) :
    ((Tbl.find d l).getD {}).msgs.length ≤ 16 := by
  induction l with
  | nil => simp [Tbl.find]
  | cons e t ih =>
    obtain ⟨j, w⟩ := e
    simp only [Tbl.find]
    split
    · exact h (j, w) List.mem_cons_self
    · exact ih fun q hq => h q (List.mem_cons_of_mem _ hq)

theorem FaultQ.push_le {q : FaultQ} (h : q.msgs.length ≤ 16) (m : Msg) (sev cls : Nat) : (q.push m sev cls).msgs.length ≤ 16 := by
  unfold FaultQ.push
  split
  · simp; omega
  · split <;> exact h

/-- A queue that the invariant of `s` bounds takes the place of another. -/
theorem State.setFq_k {z s : State} (hs : Keep z s) (d : Nat) {q : FaultQ} (hq : s.Inv → q.msgs.length ≤ 16) : Keep z (s.setFq d q) :=
  ⟨fun x => ⟨(hs.1 x).1, fq_set (hs.1 x).2.1 d (hq (hs.1 x)), (hs.1 x).2.2⟩, hs.2⟩

theorem State.fqOf_le {s : State} (h : s.Inv) (d : Nat) : (s.fqOf d).msgs.length ≤ 16 := fq_find h.2.1 d

theorem State.post_k {z s : State} (hs : Keep z s) (src inst kind cls sev datum : Nat) : Keep z (s.post src inst kind cls sev datum) := by
  unfold State.post
  dsimp only
  apply State.wiredReact_k
  apply Keep.when
  · exact State.setFq_k hs _ fun h => FaultQ.push_le (State.fqOf_le h _) _ _ _
  · intro _ _
    with_reducible apply Keep.ofMk; exact Keep.mk ‹_›

theorem postConfig_k {zz s : State} (hs : Keep zz s) (src : Nat) (inst : Nat) (kind : Nat) (sev : Nat) (a : Nat) : Keep zz (postConfig src inst kind sev a s) := by
  unfold postConfig
  repeat' (first | with_reducible (first | assumption | apply post_k) | intro _ _ _ | intro _ _)

theorem State.locked_k {zz s : State} (hs : Keep zz s) (a : Nat) : Keep zz (State.locked s a) := by
  unfold State.locked
  repeat' (first | with_reducible (first | assumption | apply post_k) | intro _ _ _ | intro _ _)

theorem State.reserved_k {zz s : State} (hs : Keep zz s) (a : Nat) : Keep zz (State.reserved s a) := by
  unfold State.reserved
  repeat' (first | with_reducible (first | assumption | apply post_k) | intro _ _ _ | intro _ _)

theorem State.unmapped_k {zz s : State} (hs : Keep zz s) (a : Nat) : Keep zz (State.unmapped s a) := by
  unfold State.unmapped
  repeat' (first | with_reducible (first | assumption | apply post_k) | intro _ _ _ | intro _ _)

theorem State.rws_k {zz s : State} (hs : Keep zz s) (f : Fld) (v : Nat) (src : Nat) (inst : Nat) (g : State → State) (hg : ∀ u, Keep zz u → Keep zz (g u)) : Keep zz (State.rws s f v src inst g) := by
  unfold State.rws
  repeat' (first | with_reducible (first | assumption | apply postConfig_k | apply Keep.ite | apply hg) | intro _ _ _ | intro _ _ | split)

theorem State.hostPut_k {zz s : State} (hs : Keep zz s) (a : Nat) (bs : List Byte) : Keep zz (State.hostPut s a bs) := by
  unfold State.hostPut
  try dsimp only
  repeat' (first | with_reducible (first | assumption | apply Keep.when) | intro _ _ _ | intro _ _ | (with_reducible apply Keep.ofMk; with_reducible refine Keep.mk ?_))

theorem State.msixPut_k {zz s : State} (hs : Keep zz s) (v : Nat) : Keep zz (State.msixPut s v) := by
  unfold State.msixPut
  repeat' (first | with_reducible (first | assumption | apply hostPut_k) | intro _ _ _ | intro _ _)

theorem State.msix_k {zz s : State} (hs : Keep zz s) (v : Nat) : Keep zz (State.msix s v) := by
  unfold State.msix
  repeat' (first | with_reducible (first | assumption | apply setBit_k | apply msixPut_k | apply Keep.ite) | intro _ _ _ | intro _ _ | split)

end Sys2Proof.Machine
end

