-- ==== Sys2Proof/Laws/KeepLinks.lean ====
section
/-! SUPPORT. Laws/KeepLinks.lean: the operations and commands of Machine/Links.lean keep the invariant and the command queue. -/
namespace Sys2Proof.Machine
open State

theorem State.postLane_k {zz s : State} (hs : Keep zz s) (l : Nat) (kind : Nat) (sev : Nat) : Keep zz (State.postLane s l kind sev) := by
  unfold State.postLane
  repeat' (first | with_reducible (first | assumption | apply irq_k | apply post_k) | intro _ _ _ | intro _ _)

theorem State.postChain_k {zz s : State} (hs : Keep zz s) (n : Nat) (kind : Nat) (sev : Nat) (datum : Nat) : Keep zz (State.postChain s n kind sev datum) := by
  unfold State.postChain
  repeat' (first | with_reducible (first | assumption | apply post_k) | intro _ _ _ | intro _ _)

theorem State.setRing_k {zz s : State} (hs : Keep zz s) (n : Nat) : Keep zz (State.setRing s n) := by
  unfold State.setRing
  try dsimp only
  repeat' (first | with_reducible (first | assumption | apply wr_k | apply set1_k) | intro _ _ _ | intro _ _ | split | dsimp only)

theorem State.setChainSt_k {zz s : State} (hs : Keep zz s) (n : Nat) (st : Nat) : Keep zz (State.setChainSt s n st) := by
  unfold State.setChainSt
  try dsimp only
  repeat' (first | with_reducible (first | assumption | apply Keep.when | apply wr_k | apply irq_k | apply powerLost_k) | intro _ _ _ | intro _ _)

theorem State.closeBooks_k {zz s : State} (hs : Keep zz s) (n : Nat) : Keep zz (State.closeBooks s n) := by
  unfold State.closeBooks
  try dsimp only
  repeat' (first | with_reducible (first | assumption | apply Keep.forEach | apply Keep.setReg | apply setCell_k) | intro _ _ _ | intro _ _ | (with_reducible apply Keep.ofMk; with_reducible refine Keep.mk ?_))

theorem State.chainOff_k {zz s : State} (hs : Keep zz s) (n : Nat) : Keep zz (State.chainOff s n) := by
  unfold State.chainOff
  try dsimp only
  repeat' (first | with_reducible (first | assumption | apply Keep.setReg | apply wr_k | apply setChainSt_k | apply closeBooks_k) | intro _ _ _ | intro _ _)

theorem State.chainWait_k {zz s : State} (hs : Keep zz s) (n : Nat) : Keep zz (State.chainWait s n) := by
  unfold State.chainWait
  try dsimp only
  repeat' (first | with_reducible (first | assumption | apply Keep.forEach | apply clr_k | apply setChain_k | apply setChainSt_k | apply closeBooks_k) | intro _ _ _ | intro _ _ | (with_reducible apply Keep.ofMk; with_reducible refine Keep.mk ?_))

theorem State.chainMeasure_k {zz s : State} (hs : Keep zz s) (n : Nat) : Keep zz (State.chainMeasure s n) := by
  unfold State.chainMeasure
  try dsimp only
  repeat' (first | with_reducible (first | assumption | apply Keep.when | apply Keep.forEach | apply wr_k | apply set1_k | apply clr_k | apply setChain_k | apply setCell_k | apply setPc_k | apply postChain_k | apply setChainSt_k | apply closeBooks_k) | intro _ _ _ | intro _ _ | (with_reducible apply Keep.ofMk; with_reducible refine Keep.mk ?_))

theorem State.chainLost_k {zz s : State} (hs : Keep zz s) (n : Nat) : Keep zz (State.chainLost s n) := by
  unfold State.chainLost
  try dsimp only
  repeat' (first | with_reducible (first | assumption | apply Keep.when | apply Keep.forEach | apply wr_k | apply set1_k | apply postChain_k | apply setChainSt_k | apply closeBooks_k) | intro _ _ _ | intro _ _)

theorem State.chainProgress_k {zz s : State} (hs : Keep zz s) (n : Nat) : Keep zz (State.chainProgress s n) := by
  unfold State.chainProgress
  try dsimp only
  repeat' (first | with_reducible (first | assumption | apply Keep.when | apply setRing_k | apply setChainSt_k) | intro _ _ _ | intro _ _)

theorem State.chainTryWait_k {zz s : State} (hs : Keep zz s) (n : Nat) : Keep zz (State.chainTryWait s n) := by
  unfold State.chainTryWait
  try dsimp only
  repeat' (first | with_reducible (first | assumption | apply Keep.when | apply setChain_k | apply post_k | apply chainMeasure_k | apply Keep.ite) | intro _ _ _ | intro _ _ | split | (with_reducible apply Keep.ofMk; with_reducible refine Keep.mk ?_))

theorem State.chainEval_k {zz s : State} (hs : Keep zz s) (n : Nat) : Keep zz (State.chainEval s n) := by
  unfold State.chainEval
  try dsimp only
  repeat' (first | with_reducible (first | assumption | apply Keep.when | apply Keep.forEach | apply wr_k | apply postChain_k | apply setChainSt_k | apply chainWait_k | apply chainLost_k | apply chainTryWait_k | apply Keep.ite) | intro _ _ _ | intro _ _ | split)

theorem State.laneMoved_k {zz s : State} (hs : Keep zz s) (l : Nat) : Keep zz (State.laneMoved s l) := by
  unfold State.laneMoved
  try dsimp only
  repeat' (first | with_reducible (first | assumption | apply Keep.when | apply chainEval_k) | intro _ _ _ | intro _ _)

theorem State.esAbort_k {zz s : State} (hs : Keep zz s) (l : Nat) : Keep zz (State.esAbort s l) := by
  unfold State.esAbort
  try dsimp only
  repeat' (first | with_reducible (first | assumption | apply Keep.when | apply wr_k | apply set1_k | apply clr_k | apply drawn_k) | intro _ _ _ | intro _ _)

theorem State.setLaneSt_k {zz s : State} (hs : Keep zz s) (l : Nat) (st : Nat) : Keep zz (State.setLaneSt s l st) := by
  unfold State.setLaneSt
  repeat' (first | with_reducible (first | assumption | apply wr_k) | intro _ _ _ | intro _ _)

theorem State.boundTx_k {zz s : State} (hs : Keep zz s) (l : Nat) (mode : Nat) : Keep zz (State.boundTx s l mode) := by
  unfold State.boundTx
  try dsimp only
  repeat' (first | with_reducible (first | assumption | apply Keep.when | apply wr_k) | intro _ _ _ | intro _ _)

theorem State.laneShow_k {zz s : State} (hs : Keep zz s) (l : Nat) : Keep zz (State.laneShow s l) := by
  unfold State.laneShow
  try dsimp only
  repeat' (first | with_reducible (first | assumption | apply drawn_k | apply setLane_k | apply Keep.ite) | intro _ _ _ | intro _ _ | split | (with_reducible apply Keep.ofMk; with_reducible refine Keep.mk ?_))

theorem State.laneDown_k {zz s : State} (hs : Keep zz s) (l : Nat) : Keep zz (State.laneDown s l) := by
  unfold State.laneDown
  try dsimp only
  repeat' (first | with_reducible (first | assumption | apply wr_k | apply clr_k | apply setLane_k | apply laneMoved_k | apply esAbort_k | apply setLaneSt_k | apply laneShow_k) | intro _ _ _ | intro _ _ | (with_reducible apply Keep.ofMk; with_reducible refine Keep.mk ?_))

theorem State.laneComma_k {zz s : State} (hs : Keep zz s) (l : Nat) : Keep zz (State.laneComma s l) := by
  unfold State.laneComma
  try dsimp only
  repeat' (first | with_reducible (first | assumption | apply wr_k | apply clr_k | apply setLaneSt_k) | intro _ _ _ | intro _ _)

theorem State.laneTrain_k {zz s : State} (hs : Keep zz s) (l : Nat) (attempt : Nat) : Keep zz (State.laneTrain s l attempt) := by
  unfold State.laneTrain
  try dsimp only
  repeat' (first | with_reducible (first | assumption | apply wr_k | apply setLane_k | apply boundTx_k | apply laneShow_k | apply laneComma_k) | intro _ _ _ | intro _ _ | (with_reducible apply Keep.ofMk; with_reducible refine Keep.mk ?_))

theorem State.laneTry_k {zz s : State} (hs : Keep zz s) (l : Nat) : Keep zz (State.laneTry s l) := by
  unfold State.laneTry
  try dsimp only
  repeat' (first | with_reducible (first | assumption | apply Keep.when | apply laneTrain_k) | intro _ _ _ | intro _ _)

theorem State.lanesTry_k {zz s : State} (hs : Keep zz s)  : Keep zz (State.lanesTry s) := by
  unfold State.lanesTry
  try dsimp only
  repeat' (first | with_reducible (first | assumption | apply Keep.forEach | apply laneTry_k) | intro _ _ _ | intro _ _)

theorem State.laneFollow_k {zz s : State} (hs : Keep zz s) (l : Nat) : Keep zz (State.laneFollow s l) := by
  unfold State.laneFollow
  try dsimp only
  repeat' (first | with_reducible (first | assumption | apply boundTx_k | apply laneShow_k | apply Keep.ite) | intro _ _ _ | intro _ _ | split)

theorem State.laneRecover_k {zz s : State} (hs : Keep zz s) (l : Nat) : Keep zz (State.laneRecover s l) := by
  unfold State.laneRecover
  try dsimp only
  repeat' (first | with_reducible (first | assumption | apply bump_k | apply laneMoved_k | apply esAbort_k | apply setLaneSt_k | apply boundTx_k | apply laneShow_k) | intro _ _ _ | intro _ _)

theorem State.laneFail_k {zz s : State} (hs : Keep zz s) (l : Nat) : Keep zz (State.laneFail s l) := by
  unfold State.laneFail
  try dsimp only
  repeat' (first | with_reducible (first | assumption | apply setLane_k | apply laneMoved_k | apply setLaneSt_k | apply boundTx_k | apply laneShow_k) | intro _ _ _ | intro _ _ | (with_reducible apply Keep.ofMk; with_reducible refine Keep.mk ?_))

theorem State.laneAttemptFailed_k {zz s : State} (hs : Keep zz s) (l : Nat) : Keep zz (State.laneAttemptFailed s l) := by
  unfold State.laneAttemptFailed
  try dsimp only
  repeat' (first | with_reducible (first | assumption | apply setLane_k | apply postLane_k | apply boundTx_k | apply laneShow_k | apply laneComma_k | apply laneFail_k | apply Keep.ite) | intro _ _ _ | intro _ _ | split | (with_reducible apply Keep.ofMk; with_reducible refine Keep.mk ?_))

theorem State.laneSlipSearch_k {zz s : State} (hs : Keep zz s) (l : Nat) : Keep zz (State.laneSlipSearch s l) := by
  unfold State.laneSlipSearch
  try dsimp only
  repeat' (first | with_reducible (first | assumption | apply clr_k | apply setLane_k | apply laneMoved_k | apply setLaneSt_k) | intro _ _ _ | intro _ _ | (with_reducible apply Keep.ofMk; with_reducible refine Keep.mk ?_))

theorem State.laneService_k {zz s : State} (hs : Keep zz s) (l : Nat) : Keep zz (State.laneService s l) := by
  unfold State.laneService
  try dsimp only
  repeat' (first | with_reducible (first | assumption | apply setLane_k | apply laneMoved_k | apply setLaneSt_k | apply Keep.ite) | intro _ _ _ | intro _ _ | split | (with_reducible apply Keep.ofMk; with_reducible refine Keep.mk ?_))

theorem State.laneSlipFail_k {zz s : State} (hs : Keep zz s) (l : Nat) : Keep zz (State.laneSlipFail s l) := by
  unfold State.laneSlipFail
  repeat' (first | with_reducible (first | assumption | apply postLane_k | apply laneRecover_k) | intro _ _ _ | intro _ _)

theorem State.laneCdrLost_k {zz s : State} (hs : Keep zz s) (l : Nat) : Keep zz (State.laneCdrLost s l) := by
  unfold State.laneCdrLost
  try dsimp only
  repeat' (first | with_reducible (first | assumption | apply clr_k | apply setLane_k | apply postLane_k | apply esAbort_k | apply laneShow_k | apply laneComma_k | apply laneRecover_k | apply laneAttemptFailed_k) | intro _ _ _ | intro _ _ | split | dsimp only | (with_reducible apply Keep.ofMk; with_reducible refine Keep.mk ?_))

theorem State.laneTxHandover_k {zz s : State} (hs : Keep zz s) (l : Nat) : Keep zz (State.laneTxHandover s l) := by
  unfold State.laneTxHandover
  try dsimp only
  repeat' (first | with_reducible (first | assumption | apply Keep.when | apply wr_k | apply drawnN_k | apply setLane_k | apply setLaneSt_k) | intro _ _ _ | intro _ _ | (with_reducible apply Keep.ofMk; with_reducible refine Keep.mk ?_))

theorem State.laneTryService_k {zz s : State} (hs : Keep zz s) (l : Nat) : Keep zz (State.laneTryService s l) := by
  unfold State.laneTryService
  try dsimp only
  repeat' (first | with_reducible (first | assumption | apply Keep.when | apply laneService_k) | intro _ _ _ | intro _ _)

end Sys2Proof.Machine
end

