-- ==== Sys2Proof/Laws/KeepBooks.lean ====
section
/-! SUPPORT. Laws/KeepBooks.lean: the operations and commands of Machine/Books.lean keep the invariant and the command queue. -/
namespace Sys2Proof.Machine
open State

theorem State.openBooks_k {zz s : State} (hs : Keep zz s) (c : Nat) (sE : Nat) (e : Nat) (cr : Nat) (mbS : Nat) (mbE : Nat) (mbCr : Nat) : Keep zz (State.openBooks s c sE e cr mbS mbE mbCr) := by
  unfold State.openBooks
  try dsimp only
  repeat' (first | with_reducible (first | assumption | apply wr_k | apply clr_k | apply setCell_k) | intro _ _ _ | intro _ _ | (with_reducible apply Keep.ofMk; with_reducible refine Keep.mk ?_))

theorem State.auditFail_k {zz s : State} (hs : Keep zz s) (c : Nat) : Keep zz (State.auditFail s c) := by
  unfold State.auditFail
  try dsimp only
  repeat' (first | with_reducible (first | assumption | apply set1_k | apply bump_k | apply postChain_k) | intro _ _ _ | intro _ _)

theorem State.edgeReturn_k {zz s : State} (hs : Keep zz s) (c : Nat) (exec : Nat) : Keep zz (State.edgeReturn s c exec) := by
  unfold State.edgeReturn
  try dsimp only
  repeat' (first | with_reducible (first | assumption | apply wr_k | apply auditFail_k | apply Keep.ite) | intro _ _ _ | intro _ _ | split)

theorem State.mbReturn_k {zz s : State} (hs : Keep zz s) (c : Nat) (done : Nat) : Keep zz (State.mbReturn s c done) := by
  unfold State.mbReturn
  try dsimp only
  repeat' (first | with_reducible (first | assumption | apply wr_k | apply setCell_k | apply auditFail_k | apply Keep.ite) | intro _ _ _ | intro _ _ | split | (with_reducible apply Keep.ofMk; with_reducible refine Keep.mk ?_))

theorem State.reportBooks_k {zz s : State} (hs : Keep zz s) (c : Nat) (fr : Nat) (bs : List Byte) : Keep zz (State.reportBooks s c fr bs) := by
  unfold State.reportBooks
  try dsimp only
  repeat' (first | with_reducible (first | assumption | apply Keep.when | apply setCell_k | apply openBooks_k | apply edgeReturn_k | apply mbReturn_k | apply Keep.ite) | intro _ _ _ | intro _ _ | split | dsimp only | (with_reducible apply Keep.ofMk; with_reducible refine Keep.mk ?_))

theorem State.audit_k {zz s : State} (hs : Keep zz s) (c : Nat) (fr : Nat) (bs : List Byte) : Keep zz (State.audit s c fr bs) := by
  unfold State.audit
  try dsimp only
  repeat' (first | with_reducible (first | assumption | apply bump_k | apply auditFail_k | apply Keep.ite) | intro _ _ _ | intro _ _ | split | dsimp only)

end Sys2Proof.Machine
end

