-- ==== Sys2Proof/Laws/KeepTrace.lean ====
section
/-! SUPPORT. Laws/KeepTrace.lean: the operations and commands of Machine/Trace.lean keep the invariant and the command queue. -/
namespace Sys2Proof.Machine
open State

theorem State.makeRec_k {z s : State} (hs : Keep z s) (p src eng w2 w3 : Nat) : Keep z (s.makeRec p src eng w2 w3) := by
  unfold State.makeRec
  dsimp only
  split
  · rename_i h
    exact ⟨fun x => ⟨(hs.1 x).1, (hs.1 x).2.1, (hs.1 x).2.2.1, by simp [State.tracked]; omega, (hs.1 x).2.2.2.2⟩, hs.2⟩
  · apply Keep.when
    · apply State.bump_k
      with_reducible apply Keep.ofMk; exact Keep.mk hs
    · intro _ _
      apply State.post_k; assumption

theorem State.probes_k {zz s : State} (hs : Keep zz s) (src : Nat) (c : Nat → Bool) (w2 : Nat → Nat) (w3 : Nat) : Keep zz (State.probes s src c w2 w3) := by
  unfold State.probes
  try dsimp only
  repeat' (first | with_reducible (first | assumption | apply Keep.when | apply Keep.forEach | apply makeRec_k) | intro _ _ _ | intro _ _)

theorem State.trcDone_k {zz s : State} (hs : Keep zz s)  : Keep zz (State.trcDone s) := by
  unfold State.trcDone
  repeat' (first | with_reducible (first | assumption | apply wr_k | apply set1_k | apply irq_k | apply msix_k) | intro _ _ _ | intro _ _)

theorem State.trcTrigger_k {zz s : State} (hs : Keep zz s)  : Keep zz (State.trcTrigger s) := by
  unfold State.trcTrigger
  try dsimp only
  repeat' (first | with_reducible (first | assumption | apply Keep.when | apply wr_k | apply set1_k | apply bump_k | apply msix_k | apply trcDone_k | apply Keep.ite) | intro _ _ _ | intro _ _ | split | (with_reducible apply Keep.ofMk; with_reducible refine Keep.mk ?_))

theorem State.trcFault_k {zz s : State} (hs : Keep zz s) (sev : Nat) (k : Nat) : Keep zz (State.trcFault s sev k) := by
  unfold State.trcFault
  try dsimp only
  repeat' (first | with_reducible (first | assumption | apply Keep.when | apply trcTrigger_k) | intro _ _ _ | intro _ _)

theorem State.trcTt_k {zz s : State} (hs : Keep zz s) (t : Nat) : Keep zz (State.trcTt s t) := by
  unfold State.trcTt
  try dsimp only
  repeat' (first | with_reducible (first | assumption | apply Keep.when | apply trcTrigger_k) | intro _ _ _ | intro _ _)

theorem State.trcCmp_k {zz s : State} (hs : Keep zz s) (c : Nat) : Keep zz (State.trcCmp s c) := by
  unfold State.trcCmp
  try dsimp only
  repeat' (first | with_reducible (first | assumption | apply Keep.when | apply trcTrigger_k) | intro _ _ _ | intro _ _)

theorem State.trcStore_k {zz s : State} (hs : Keep zz s) (r : Word × Word × Word × Word) : Keep zz (State.trcStore s r) := by
  unfold State.trcStore
  try dsimp only
  repeat' (first | with_reducible (first | assumption | apply wr_k | apply set1_k | apply putMem_k | apply Keep.ite) | intro _ _ _ | intro _ _ | split | (with_reducible apply Keep.ofMk; with_reducible refine Keep.mk ?_))

theorem State.trcCapture_k {zz s : State} (hs : Keep zz s) (r : Word × Word × Word × Word) : Keep zz (State.trcCapture s r) := by
  unfold State.trcCapture
  try dsimp only
  repeat' (first | with_reducible (first | assumption | apply Keep.when | apply trcDone_k | apply trcStore_k | apply Keep.ite) | intro _ _ _ | intro _ _ | split | (with_reducible apply Keep.ofMk; with_reducible refine Keep.mk ?_))

theorem State.streamProgress_k {zz s : State} (hs : Keep zz s)  : Keep zz (State.streamProgress s) := by
  unfold State.streamProgress
  repeat' (first | with_reducible (first | assumption | apply hostPut_k) | intro _ _ _ | intro _ _)

theorem State.streamOut_k {zz s : State} (hs : Keep zz s) (k : Nat) (bs : List Byte) : Keep zz (State.streamOut s k bs) := by
  unfold State.streamOut
  try dsimp only
  repeat' (first | with_reducible (first | assumption | apply hostPut_k) | intro _ _ _ | intro _ _ | (with_reducible apply Keep.ofMk; with_reducible refine Keep.mk ?_))

theorem State.pageDone_k {zz s : State} (hs : Keep zz s)  : Keep zz (State.pageDone s) := by
  unfold State.pageDone
  try dsimp only
  repeat' (first | with_reducible (first | assumption | apply bump_k | apply streamProgress_k) | intro _ _ _ | intro _ _ | (with_reducible apply Keep.ofMk; with_reducible refine Keep.mk ?_))

theorem State.streamPut_k {zz s : State} (hs : Keep zz s) (r : Word × Word × Word × Word) : Keep zz (State.streamPut s r) := by
  unfold State.streamPut
  try dsimp only
  repeat' (first | with_reducible (first | assumption | apply Keep.when | apply wr_k | apply bump_k | apply post_k | apply msix_k | apply streamOut_k | apply pageDone_k | apply Keep.ite) | intro _ _ _ | intro _ _ | split | dsimp only | (with_reducible apply Keep.ofMk; with_reducible refine Keep.mk ?_))

theorem State.rateTake_k {zz s : State} (hs : Keep zz s)  : Keep zz (State.rateTake s).2 := by
  unfold State.rateTake
  try dsimp only
  repeat' (first | with_reducible (first | assumption | apply Keep.ite) | intro _ _ _ | intro _ _ | split | dsimp only | (with_reducible apply Keep.ofMk; with_reducible refine Keep.mk ?_))

theorem State.trcStream_k {zz s : State} (hs : Keep zz s) (r : Word × Word × Word × Word) (full : Bool) : Keep zz (State.trcStream s r full) := by
  unfold State.trcStream
  try dsimp only
  repeat' (first | with_reducible (first | assumption | apply bump_k | apply streamPut_k | apply rateTake_k | apply Keep.ite) | intro _ _ _ | intro _ _ | split)

theorem execRecordDrain_k {z s : State} (hs : Keep z s) (full : Bool) : KeepO z (execRecordDrain full s) := by
  unfold execRecordDrain
  split
  · exact KeepO.next hs
  · rename_i r t h
    have hk : Keep z { s with trc := { s.trc with q := t } } :=
      ⟨fun x => ⟨(hs.1 x).1, (hs.1 x).2.1, (hs.1 x).2.2.1, by
        have := (hs.1 x).2.2.2.1
        simp only [State.tracked, h, List.length_cons] at this ⊢
        omega, (hs.1 x).2.2.2.2⟩, hs.2⟩
    dsimp only
    apply KeepO.next
    split
    · exact hk
    · split
      · exact State.trcStream_k hk _ _
      · exact State.trcCapture_k hk _

theorem State.doTraceArm_k {zz s : State} (hs : Keep zz s)  : Keep zz (State.doTraceArm s) := by
  unfold State.doTraceArm
  try dsimp only
  repeat' (first | with_reducible (first | assumption | apply Keep.setReg | apply wr_k | apply clr_k) | intro _ _ _ | intro _ _ | (with_reducible apply Keep.ofMk; with_reducible refine Keep.mk ?_))

theorem execTraceArm_k {zz s : State} (hs : Keep zz s)  : KeepO zz (execTraceArm s) := by
  unfold execTraceArm
  repeat' (first | with_reducible (first | assumption | apply KeepO.next | apply doTraceArm_k) | intro _ _ _ | intro _ _)

theorem State.doTraceStop_k {zz s : State} (hs : Keep zz s)  : Keep zz (State.doTraceStop s) := by
  unfold State.doTraceStop
  try dsimp only
  repeat' (first | with_reducible (first | assumption | apply Keep.when | apply drawn_k | apply trcDone_k | apply streamProgress_k | apply streamOut_k | apply pageDone_k) | intro _ _ _ | intro _ _ | split | dsimp only)

theorem execTraceStop_k {zz s : State} (hs : Keep zz s)  : KeepO zz (execTraceStop s) := by
  unfold execTraceStop
  repeat' (first | with_reducible (first | assumption | apply KeepO.next | apply doTraceStop_k) | intro _ _ _ | intro _ _)

theorem execTraceForce_k {zz s : State} (hs : Keep zz s)  : KeepO zz (execTraceForce s) := by
  unfold execTraceForce
  repeat' (first | with_reducible (first | assumption | apply KeepO.next | apply trcTrigger_k) | intro _ _ _ | intro _ _)

theorem State.doStreamCredit_k {zz s : State} (hs : Keep zz s) (n : Nat) : Keep zz (State.doStreamCredit s n) := by
  unfold State.doStreamCredit
  try dsimp only
  repeat' (first | with_reducible (first | assumption | apply wr_k | apply addSat_k | apply bump_k | apply post_k | apply Keep.ite) | intro _ _ _ | intro _ _ | split | (with_reducible apply Keep.ofMk; with_reducible refine Keep.mk ?_))

theorem execStreamCredit_k {zz s : State} (hs : Keep zz s) (add : BitVec 19) : KeepO zz (execStreamCredit add s) := by
  unfold execStreamCredit
  repeat' (first | with_reducible (first | assumption | apply KeepO.next | apply doStreamCredit_k) | intro _ _ _ | intro _ _)

end Sys2Proof.Machine
end

