-- ==== Sys2Proof/Laws/KeepCycle.lean ====
section
/-! SUPPORT. Laws/KeepCycle.lean: the operations and commands of Machine/Cycle.lean keep the invariant and the command queue. -/
namespace Sys2Proof.Machine
open State

theorem State.postF_k {zz s : State} (hs : Keep zz s) (src : Nat) (inst : Nat) (kind : Nat) (cls : Nat) (sev : Nat) : Keep zz (State.postF s src inst kind cls sev) := by
  unfold State.postF
  repeat' (first | with_reducible (first | assumption | apply drawn_k | apply post_k) | intro _ _ _ | intro _ _)

theorem State.setGrid_k {zz s : State} (hs : Keep zz s)  : Keep zz (State.setGrid s) := by
  unfold State.setGrid
  try dsimp only
  repeat' (first | with_reducible (first | assumption | apply Keep.forEach | apply setCst_k | apply Keep.ite) | intro _ _ _ | intro _ _ | split | (with_reducible apply Keep.ofMk; with_reducible refine Keep.mk ?_))

theorem State.pinnedOver_k {zz s : State} (hs : Keep zz s) (c : Nat) (bank : Nat) : Keep zz (State.pinnedOver s c bank) := by
  unfold State.pinnedOver
  try dsimp only
  repeat' (first | with_reducible (first | assumption | apply Keep.forEach | apply setEng_k | apply Keep.ite) | intro _ _ _ | intro _ _ | split | dsimp only | (with_reducible apply Keep.ofMk; with_reducible refine Keep.mk ?_))

theorem State.cstFill_k {zz s : State} (hs : Keep zz s) (c : Nat) (bs : List Byte) : Keep zz (State.cstFill s c bs) := by
  unfold State.cstFill
  try dsimp only
  repeat' (first | with_reducible (first | assumption | apply Keep.when | apply setCst_k | apply putMem_k | apply pinnedOver_k) | intro _ _ _ | intro _ _ | (with_reducible apply Keep.ofMk; with_reducible refine Keep.mk ?_))

theorem State.ageLim_k {zz s : State} (hs : Keep zz s) (c : Nat) (age : Nat) : Keep zz (State.ageLim s c age) := by
  unfold State.ageLim
  try dsimp only
  repeat' (first | with_reducible (first | assumption | apply Keep.when | apply setCell_k | apply postChain_k | apply Keep.ite) | intro _ _ _ | intro _ _ | split | (with_reducible apply Keep.ofMk; with_reducible refine Keep.mk ?_))

theorem State.cstCommit_k {zz s : State} (hs : Keep zz s) (c : Nat) (t : Nat) (m : Int) : Keep zz (State.cstCommit s c t m) := by
  unfold State.cstCommit
  try dsimp only
  repeat' (first | with_reducible (first | assumption | apply Keep.when | apply bump_k | apply setCst_k | apply putMem_k | apply audit_k | apply probes_k | apply ageLim_k) | intro _ _ _ | intro _ _ | (with_reducible apply Keep.ofMk; with_reducible refine Keep.mk ?_))

theorem State.cstSkip_k {zz s : State} (hs : Keep zz s) (c : Nat) : Keep zz (State.cstSkip s c) := by
  unfold State.cstSkip
  try dsimp only
  repeat' (first | with_reducible (first | assumption | apply bump_k | apply putMem_k | apply ageLim_k) | intro _ _ _ | intro _ _)

theorem State.cstSwap_k {zz s : State} (hs : Keep zz s) (c : Nat) : Keep zz (State.cstSwap s c) := by
  unfold State.cstSwap
  try dsimp only
  repeat' (first | with_reducible (first | assumption | apply Keep.when | apply setCst_k | apply timeTo_k | apply cstCommit_k | apply cstSkip_k) | intro _ _ _ | intro _ _ | split | dsimp only | (with_reducible apply Keep.ofMk; with_reducible refine Keep.mk ?_))

theorem State.clrUpdate_k {zz s : State} (hs : Keep zz s) (n : Nat) : Keep zz (State.clrUpdate s n) := by
  unfold State.clrUpdate
  try dsimp only
  repeat' (first | with_reducible (first | assumption | apply Keep.when | apply wr_k | apply set1_k | apply postF_k | apply Keep.ite) | intro _ _ _ | intro _ _ | split | dsimp only)

theorem State.cycleChains_k {zz s : State} (hs : Keep zz s)  : Keep zz (State.cycleChains s) := by
  unfold State.cycleChains
  try dsimp only
  repeat' (first | with_reducible (first | assumption | apply Keep.when | apply Keep.forEach | apply setChain_k | apply clrUpdate_k) | intro _ _ _ | intro _ _ | (with_reducible apply Keep.ofMk; with_reducible refine Keep.mk ?_))

end Sys2Proof.Machine
end

