-- ==== Sys2Proof/Laws/KeepModulator.lean ====
section
/-! SUPPORT. Laws/KeepModulator.lean: the operations and commands of Machine/Modulator.lean keep the invariant and the command queue. -/
namespace Sys2Proof.Machine
open State

theorem State.putShadow_k {zz s : State} (hs : Keep zz s) (n : Nat) (f : Nat) (v : Nat) : Keep zz (State.putShadow s n f v) := by
  unfold State.putShadow
  try dsimp only
  repeat' (first | with_reducible (first | assumption | apply Keep.setReg | apply setBit_k | apply Keep.ite) | intro _ _ _ | intro _ _ | split)

theorem State.respaceCell_k {zz s : State} (hs : Keep zz s) (c : Nat) (i : Nat) (period : Nat) (base : Nat) (d : Nat) : Keep zz (State.respaceCell s c i period base d) := by
  unfold State.respaceCell
  try dsimp only
  repeat' (first | with_reducible (first | assumption | apply putShadow_k) | intro _ _ _ | intro _ _)

theorem State.respace_k {zz s : State} (hs : Keep zz s) (j : Nat) : Keep zz (State.respace s j) := by
  unfold State.respace
  try dsimp only
  repeat' (first | with_reducible (first | assumption | apply Keep.forEach | apply wr_k | apply respaceCell_k | apply Keep.ite) | intro _ _ _ | intro _ _ | split)

theorem State.captureCh_k {zz s : State} (hs : Keep zz s) (n : Nat) : Keep zz (State.captureCh s n) := by
  unfold State.captureCh
  try dsimp only
  repeat' (first | with_reducible (first | assumption | apply Keep.when | apply set1_k | apply clr_k | apply bump_k | apply setChan_k | apply post_k | apply Keep.ite) | intro _ _ _ | intro _ _ | split | (with_reducible apply Keep.ofMk; with_reducible refine Keep.mk ?_))

theorem State.capture_k {zz s : State} (hs : Keep zz s) (mask : Nat) : Keep zz (State.capture s mask) := by
  unfold State.capture
  try dsimp only
  repeat' (first | with_reducible (first | assumption | apply Keep.when | apply Keep.forEach | apply bump_k | apply probes_k | apply respace_k | apply captureCh_k) | intro _ _ _ | intro _ _)

theorem State.budgetNow_k {zz s : State} (hs : Keep zz s) (n : Nat) : Keep zz (State.budgetNow s n) := by
  unfold State.budgetNow
  try dsimp only
  repeat' (first | with_reducible (first | assumption | apply wr_k | apply setChan_k | apply Keep.ite) | intro _ _ _ | intro _ _ | split)

theorem State.setAnchor_k {zz s : State} (hs : Keep zz s)  : Keep zz (State.setAnchor s) := by
  unfold State.setAnchor
  repeat' (first | with_reducible (first | assumption) | intro _ _ _ | intro _ _ | (with_reducible apply Keep.ofMk; with_reducible refine Keep.mk ?_))

theorem State.joinOne_k {zz s : State} (hs : Keep zz s) (c : Nat) (e : Edge) (rest : List Edge) : Keep zz (State.joinOne s c e rest) := by
  unfold State.joinOne
  try dsimp only
  repeat' (first | with_reducible (first | assumption | apply Keep.when | apply Keep.forEach | apply bump_k | apply setCell_k | apply setChan_k | apply setPlan_k | apply Keep.ite) | intro _ _ _ | intro _ _ | split | dsimp only | (with_reducible apply Keep.ofMk; with_reducible refine Keep.mk ?_))

theorem State.joinAll_k {z s : State} (hs : Keep z s) (c k : Nat) : Keep z (State.joinAll s c k) := by
  induction k generalizing s with
  | zero => exact hs
  | succ k ih =>
    unfold State.joinAll
    split
    · exact hs
    · split
      · exact ih (State.joinOne_k hs _ _ _)
      · exact hs

theorem State.auxDone_k {zz s : State} (hs : Keep zz s) (c : Nat) : Keep zz (State.auxDone s c) := by
  unfold State.auxDone
  try dsimp only
  repeat' (first | with_reducible (first | assumption | apply Keep.when | apply clr_k) | intro _ _ _ | intro _ _ | (with_reducible apply Keep.ofMk; with_reducible refine Keep.mk ?_))

theorem State.join_k {zz s : State} (hs : Keep zz s) (c : Nat) : Keep zz (State.join s c) := by
  unfold State.join
  try dsimp only
  repeat' (first | with_reducible (first | assumption | apply budgetNow_k | apply joinAll_k | apply auxDone_k) | intro _ _ _ | intro _ _)

theorem State.unknown_k {zz s : State} (hs : Keep zz s) (n : Nat) : Keep zz (State.unknown s n) := by
  unfold State.unknown
  repeat' (first | with_reducible (first | assumption | apply wr_k | apply setChan_k) | intro _ _ _ | intro _ _ | (with_reducible apply Keep.ofMk; with_reducible refine Keep.mk ?_))

theorem State.cutWaves_k {zz s : State} (hs : Keep zz s) (c : Nat) (keep : Bool) : Keep zz (State.cutWaves s c keep) := by
  unfold State.cutWaves
  try dsimp only
  repeat' (first | with_reducible (first | assumption | apply Keep.forEach | apply setChan_k | apply Keep.ite) | intro _ _ _ | intro _ _ | split | (with_reducible apply Keep.ofMk; with_reducible refine Keep.mk ?_))

theorem State.showNext_k {zz s : State} (hs : Keep zz s) (n : Nat) : Keep zz (State.showNext s n) := by
  unfold State.showNext
  try dsimp only
  repeat' (first | with_reducible (first | assumption | apply wr_k) | intro _ _ _ | intro _ _ | split | dsimp only)

theorem State.discardCell_k {zz s : State} (hs : Keep zz s) (c : Nat) (keep : Bool) : Keep zz (State.discardCell s c keep) := by
  unfold State.discardCell
  try dsimp only
  repeat' (first | with_reducible (first | assumption | apply Keep.forEach | apply setCell_k | apply setChan_k | apply setPlan_k | apply auxDone_k | apply unknown_k | apply cutWaves_k | apply showNext_k) | intro _ _ _ | intro _ _ | (with_reducible apply Keep.ofMk; with_reducible refine Keep.mk ?_))

theorem State.starve_k {zz s : State} (hs : Keep zz s) (c : Nat) : Keep zz (State.starve s c) := by
  unfold State.starve
  try dsimp only
  repeat' (first | with_reducible (first | assumption | apply Keep.when | apply Keep.forEach | apply set1_k | apply bump_k | apply post_k | apply discardCell_k) | intro _ _ _ | intro _ _ | (with_reducible apply Keep.ofMk; with_reducible refine Keep.mk ?_))

theorem State.uncomp_k {zz s : State} (hs : Keep zz s) (j : Nat) : Keep zz (State.uncomp s j) := by
  unfold State.uncomp
  repeat' (first | with_reducible (first | assumption | apply bump_k | apply post_k) | intro _ _ _ | intro _ _)

theorem State.notch_k {zz s : State} (hs : Keep zz s) (n : Nat) (z : Nat) (e : Nat) : Keep zz (State.notch s n z e) := by
  unfold State.notch
  try dsimp only
  repeat' (first | with_reducible (first | assumption | apply bump_k | apply setChan_k | apply uncomp_k | apply Keep.ite) | intro _ _ _ | intro _ _ | split | dsimp only | (with_reducible apply Keep.ofMk; with_reducible refine Keep.mk ?_))

theorem State.periodPlanned_k {zz s : State} (hs : Keep zz s) (n : Nat) (z : Nat) (lt : Nat) (p : PSet) (w : Nat × List (Nat × Nat) × Bool) (notch : Bool) (es : List (Nat × Nat × Nat)) (last : Nat) (x : ChanH) : Keep zz (State.periodPlanned s n z lt p w notch es last x) := by
  unfold State.periodPlanned
  try dsimp only
  repeat' (first | with_reducible (first | assumption | apply Keep.when | apply wr_k | apply setChan_k | apply setPlan_k | apply join_k | apply showNext_k | apply notch_k) | intro _ _ _ | intro _ _ | (with_reducible apply Keep.ofMk; with_reducible refine Keep.mk ?_))

theorem State.planRemote_k {zz s : State} (hs : Keep zz s) (n : Nat) : Keep zz (State.planRemote s n) := by
  unfold State.planRemote
  try dsimp only
  repeat' (first | with_reducible (first | assumption | apply Keep.forEach | apply timeTo_k | apply budgetNow_k | apply uncomp_k | apply notch_k | apply periodPlanned_k | apply Keep.ite) | intro _ _ _ | intro _ _ | split | (with_reducible apply Keep.ofMk; with_reducible refine Keep.mk ?_))

theorem State.planIdle_k {zz s : State} (hs : Keep zz s) (n : Nat) : Keep zz (State.planIdle s n) := by
  unfold State.planIdle
  try dsimp only
  repeat' (first | with_reducible (first | assumption | apply Keep.when | apply Keep.forEach | apply setChan_k | apply timeTo_k | apply unknown_k | apply showNext_k | apply uncomp_k | apply Keep.ite) | intro _ _ _ | intro _ _ | split | (with_reducible apply Keep.ofMk; with_reducible refine Keep.mk ?_))

theorem State.pushLocal_k {zz s : State} (hs : Keep zz s) (m : Nat) (t : Nat) (st : Nat) : Keep zz (State.pushLocal s m t st) := by
  unfold State.pushLocal
  try dsimp only
  repeat' (first | with_reducible (first | assumption | apply setLp_k | apply Keep.ite) | intro _ _ _ | intro _ _ | split | (with_reducible apply Keep.ofMk; with_reducible refine Keep.mk ?_))

theorem State.planLocal_k {zz s : State} (hs : Keep zz s) (n : Nat) : Keep zz (State.planLocal s n) := by
  unfold State.planLocal
  try dsimp only
  repeat' (first | with_reducible (first | assumption | apply Keep.forEach | apply setChan_k | apply timeTo_k | apply pushLocal_k | apply Keep.ite) | intro _ _ _ | intro _ _ | split | (with_reducible apply Keep.ofMk; with_reducible refine Keep.mk ?_))

theorem State.planAt_k {zz s : State} (hs : Keep zz s) (n : Nat) : Keep zz (State.planAt s n) := by
  unfold State.planAt
  try dsimp only
  repeat' (first | with_reducible (first | assumption | apply planRemote_k | apply planIdle_k | apply planLocal_k | apply Keep.ite) | intro _ _ _ | intro _ _ | split)

theorem State.lpDrive_k {zz s : State} (hs : Keep zz s) (m : Nat) : Keep zz (State.lpDrive s m) := by
  unfold State.lpDrive
  try dsimp only
  repeat' (first | with_reducible (first | assumption | apply setLp_k | apply pins_k | apply lpOff_k | apply Keep.ite) | intro _ _ _ | intro _ _ | split | (with_reducible apply Keep.ofMk; with_reducible refine Keep.mk ?_))

theorem State.lpTrip_k {zz s : State} (hs : Keep zz s) (m : Nat) : Keep zz (State.lpTrip s m) := by
  unfold State.lpTrip
  try dsimp only
  repeat' (first | with_reducible (first | assumption | apply Keep.when | apply set1_k | apply clr_k | apply bump_k | apply lpOff_k) | intro _ _ _ | intro _ _)

theorem State.lpRearm_k {zz s : State} (hs : Keep zz s) (m : Nat) : Keep zz (State.lpRearm s m).2 := by
  unfold State.lpRearm
  try dsimp only
  repeat' (first | with_reducible (first | assumption | apply set1_k | apply clr_k | apply setLp_k | apply Keep.ite) | intro _ _ _ | intro _ _ | split | dsimp only | (with_reducible apply Keep.ofMk; with_reducible refine Keep.mk ?_))

theorem State.bundleEnd_k {zz s : State} (hs : Keep zz s) (n : Nat) : Keep zz (State.bundleEnd s n) := by
  unfold State.bundleEnd
  try dsimp only
  repeat' (first | with_reducible (first | assumption | apply setCore_k | apply cstopCheck_k | apply postF_k | apply Keep.ite) | intro _ _ _ | intro _ _ | split | (with_reducible apply Keep.ofMk; with_reducible refine Keep.mk ?_))

theorem State.groupSafe_k {zz s : State} (hs : Keep zz s) (e : Nat) : Keep zz (State.groupSafe s e) := by
  unfold State.groupSafe
  try dsimp only
  repeat' (first | with_reducible (first | assumption | apply Keep.forEach | apply wr_k | apply set1_k | apply lpOff_k) | intro _ _ _ | intro _ _)

end Sys2Proof.Machine
end

