-- ==== Sys2Proof/Laws/KeepProt.lean ====
section
/-! SUPPORT. Laws/KeepProt.lean: the operations and commands of Machine/Prot.lean keep the invariant and the command queue. -/
namespace Sys2Proof.Machine
open State

theorem State.evPush_k {zz s : State} (hs : Keep zz s) (kind : Nat) (cs : Nat) : Keep zz (State.evPush s kind cs) := by
  unfold State.evPush
  try dsimp only
  repeat' (first | with_reducible (first | assumption | apply Keep.when | apply wr_k | apply bump_k | apply drawn_k | apply irq_k | apply post_k | apply Keep.ite) | intro _ _ _ | intro _ _ | split | (with_reducible apply Keep.ofMk; with_reducible refine Keep.mk ?_))

theorem State.protCell_k {zz s : State} (hs : Keep zz s) (kind : Nat) (sev : Nat) (c : Nat) (sw : Nat) : Keep zz (State.protCell s kind sev c sw) := by
  unfold State.protCell
  repeat' (first | with_reducible (first | assumption | apply post_k | apply evPush_k) | intro _ _ _ | intro _ _)

theorem State.protLocal_k {zz s : State} (hs : Keep zz s) (kind : Nat) (sev : Nat) (m : Nat) : Keep zz (State.protLocal s kind sev m) := by
  unfold State.protLocal
  try dsimp only
  repeat' (first | with_reducible (first | assumption | apply drawn_k | apply post_k | apply evPush_k) | intro _ _ _ | intro _ _)

theorem State.protHold_k {zz s : State} (hs : Keep zz s) (c : Nat) : Keep zz (State.protHold s c) := by
  unfold State.protHold
  try dsimp only
  repeat' (first | with_reducible (first | assumption | apply Keep.when | apply protCell_k) | intro _ _ _ | intro _ _ | (with_reducible apply Keep.ofMk; with_reducible refine Keep.mk ?_))

theorem State.protHoldLocal_k {zz s : State} (hs : Keep zz s) (m : Nat) : Keep zz (State.protHoldLocal s m) := by
  unfold State.protHoldLocal
  try dsimp only
  repeat' (first | with_reducible (first | assumption | apply Keep.when | apply protLocal_k) | intro _ _ _ | intro _ _ | (with_reducible apply Keep.ofMk; with_reducible refine Keep.mk ?_))

theorem State.queueRearm_k {zz s : State} (hs : Keep zz s) (c : Nat) (spare : Bool) : Keep zz (State.queueRearm s c spare) := by
  unfold State.queueRearm
  try dsimp only
  repeat' (first | with_reducible (first | assumption | apply setCell_k | apply setPc_k) | intro _ _ _ | intro _ _ | (with_reducible apply Keep.ofMk; with_reducible refine Keep.mk ?_))

theorem State.dropRearm_k {zz s : State} (hs : Keep zz s) (c : Nat) : Keep zz (State.dropRearm s c) := by
  unfold State.dropRearm
  try dsimp only
  repeat' (first | with_reducible (first | assumption | apply setCell_k | apply setPc_k) | intro _ _ _ | intro _ _ | (with_reducible apply Keep.ofMk; with_reducible refine Keep.mk ?_))

theorem State.protWait_k {zz s : State} (hs : Keep zz s) (c : Nat) : Keep zz (State.protWait s c) := by
  unfold State.protWait
  try dsimp only
  repeat' (first | with_reducible (first | assumption | apply wr_k | apply setPc_k | apply dropRearm_k) | intro _ _ _ | intro _ _ | (with_reducible apply Keep.ofMk; with_reducible refine Keep.mk ?_))

theorem State.lockOut_k {zz s : State} (hs : Keep zz s) (c : Nat) : Keep zz (State.lockOut s c) := by
  unfold State.lockOut
  try dsimp only
  repeat' (first | with_reducible (first | assumption | apply Keep.when | apply wr_k | apply set1_k | apply clr_k | apply bump_k | apply protCell_k | apply dropRearm_k) | intro _ _ _ | intro _ _)

theorem State.openWin_k {zz s : State} (hs : Keep zz s) (c : Nat) (sw : Nat) : Keep zz (State.openWin s c sw) := by
  unfold State.openWin
  try dsimp only
  repeat' (first | with_reducible (first | assumption | apply Keep.when | apply Keep.setReg | apply clr_k | apply setPc_k) | intro _ _ _ | intro _ _ | (with_reducible apply Keep.ofMk; with_reducible refine Keep.mk ?_))

theorem State.newTrip_k {zz s : State} (hs : Keep zz s) (c : Nat) (sw : Nat) (k : Nat) : Keep zz (State.newTrip s c sw k) := by
  unfold State.newTrip
  try dsimp only
  repeat' (first | with_reducible (first | assumption | apply Keep.setReg | apply wr_k | apply set1_k | apply bump_k | apply setBit_k | apply protCell_k | apply protWait_k | apply lockOut_k | apply openWin_k | apply Keep.ite) | intro _ _ _ | intro _ _ | split)

theorem State.unlatch_k {zz s : State} (hs : Keep zz s) (c : Nat) (sw : Nat) : Keep zz (State.unlatch s c sw) := by
  unfold State.unlatch
  repeat' (first | with_reducible (first | assumption | apply clr_k | apply clrBit_k) | intro _ _ _ | intro _ _)

theorem State.charge_k {zz s : State} (hs : Keep zz s) (c : Nat) (sw : Nat) (spare : Bool) : Keep zz (State.charge s c sw spare) := by
  unfold State.charge
  try dsimp only
  repeat' (first | with_reducible (first | assumption | apply Keep.when | apply bump_k) | intro _ _ _ | intro _ _)

theorem State.rearmDone_k {zz s : State} (hs : Keep zz s) (c : Nat) : Keep zz (State.rearmDone s c) := by
  unfold State.rearmDone
  repeat' (first | with_reducible (first | assumption | apply wr_k | apply dropRearm_k | apply protWait_k | apply Keep.ite) | intro _ _ _ | intro _ _ | split)

theorem State.rearmAck_k {zz s : State} (hs : Keep zz s) (c : Nat) (stat : Nat) (rdata : Nat) (data : Nat) (spare : Bool) : Keep zz (State.rearmAck s c stat rdata data spare) := by
  unfold State.rearmAck
  try dsimp only
  repeat' (first | with_reducible (first | assumption | apply Keep.when | apply Keep.forEach | apply bump_k | apply protWait_k | apply unlatch_k | apply charge_k | apply rearmDone_k | apply Keep.ite) | intro _ _ _ | intro _ _ | split)

theorem State.rearmBits_k {zz s : State} (hs : Keep zz s) (c : Nat) (sw : Nat) (d : Nat) (now : Nat) (spare : Bool) : Keep zz (State.rearmBits s c sw d now spare) := by
  unfold State.rearmBits
  try dsimp only
  repeat' (first | with_reducible (first | assumption | apply Keep.when | apply clr_k | apply clrBit_k | apply charge_k) | intro _ _ _ | intro _ _)

theorem State.rearmGen_k {zz s : State} (hs : Keep zz s) (c : Nat) (desat : Nat) (bsuv : Nat) : Keep zz (State.rearmGen s c desat bsuv) := by
  unfold State.rearmGen
  try dsimp only
  repeat' (first | with_reducible (first | assumption | apply Keep.when | apply Keep.forEach | apply bump_k | apply setPc_k | apply land_k | apply rearmDone_k | apply rearmBits_k) | intro _ _ _ | intro _ _ | (with_reducible apply Keep.ofMk; with_reducible refine Keep.mk ?_))

theorem State.rearmSent_k {zz s : State} (hs : Keep zz s) (c : Nat) (w : MbW) : Keep zz (State.rearmSent s c w) := by
  unfold State.rearmSent
  try dsimp only
  repeat' (first | with_reducible (first | assumption | apply wr_k | apply clr_k | apply setPc_k) | intro _ _ _ | intro _ _ | (with_reducible apply Keep.ofMk; with_reducible refine Keep.mk ?_))

theorem State.syncUpd_k {zz s : State} (hs : Keep zz s) (c : Nat) : Keep zz (State.syncUpd s c) := by
  unfold State.syncUpd
  repeat' (first | with_reducible (first | assumption | apply wr_k) | intro _ _ _ | intro _ _)

theorem State.imageDirty_k {zz s : State} (hs : Keep zz s) (c : Nat) (i : Nat) : Keep zz (State.imageDirty s c i) := by
  unfold State.imageDirty
  repeat' (first | with_reducible (first | assumption | apply clr_k | apply setBit_k) | intro _ _ _ | intro _ _)

theorem State.pushWith_k {zz s : State} (hs : Keep zz s) (c : Nat) (f : Option Nat) : Keep zz (State.pushWith s c f) := by
  unfold State.pushWith
  try dsimp only
  repeat' (first | with_reducible (first | assumption | apply setCell_k | apply setPc_k | apply protHold_k | apply syncUpd_k) | intro _ _ _ | intro _ _ | (with_reducible apply Keep.ofMk; with_reducible refine Keep.mk ?_))

theorem State.pushStart_k {zz s : State} (hs : Keep zz s) (c : Nat) : Keep zz (State.pushStart s c) := by
  unfold State.pushStart
  repeat' (first | with_reducible (first | assumption | apply pushWith_k | apply Keep.ite) | intro _ _ _ | intro _ _ | split)

theorem State.pushAll_k {zz s : State} (hs : Keep zz s) (c : Nat) : Keep zz (State.pushAll s c) := by
  unfold State.pushAll
  try dsimp only
  repeat' (first | with_reducible (first | assumption | apply wr_k | apply pushStart_k) | intro _ _ _ | intro _ _)

theorem State.pushAck_k {zz s : State} (hs : Keep zz s) (c : Nat) (stat : Nat) (rdata : Nat) (w : MbW) : Keep zz (State.pushAck s c stat rdata w) := by
  unfold State.pushAck
  try dsimp only
  repeat' (first | with_reducible (first | assumption | apply set1_k | apply clrBit_k | apply setPc_k | apply protCell_k | apply syncUpd_k | apply Keep.ite) | intro _ _ _ | intro _ _ | split | (with_reducible apply Keep.ofMk; with_reducible refine Keep.mk ?_))

theorem State.lkqPush_k {zz s : State} (hs : Keep zz s) (c : Nat) (sw : Nat) (na : Nat) : Keep zz (State.lkqPush s c sw na) := by
  unfold State.lkqPush
  try dsimp only
  repeat' (first | with_reducible (first | assumption | apply Keep.when | apply wr_k | apply bump_k | apply post_k | apply Keep.ite) | intro _ _ _ | intro _ _ | split | (with_reducible apply Keep.ofMk; with_reducible refine Keep.mk ?_))

theorem State.leakAt_k {zz s : State} (hs : Keep zz s) (i : Nat) : Keep zz (State.leakAt s i) := by
  unfold State.leakAt
  repeat' (first | with_reducible (first | assumption | apply wr_k) | intro _ _ _ | intro _ _)

theorem State.leakAbort_k {zz s : State} (hs : Keep zz s)  : Keep zz (State.leakAbort s) := by
  unfold State.leakAbort
  repeat' (first | with_reducible (first | assumption | apply clr_k | apply bump_k) | intro _ _ _ | intro _ _)

theorem State.leakAcked_k {zz s : State} (hs : Keep zz s) (c : Nat) (stat : Nat) : Keep zz (State.leakAcked s c stat) := by
  unfold State.leakAcked
  try dsimp only
  repeat' (first | with_reducible (first | assumption | apply Keep.when | apply leakAbort_k | apply Keep.ite) | intro _ _ _ | intro _ _ | split | (with_reducible apply Keep.ofMk; with_reducible refine Keep.mk ?_))

theorem State.leakReport_k {zz s : State} (hs : Keep zz s) (c : Nat) (w : Nat) : Keep zz (State.leakReport s c w) := by
  unfold State.leakReport
  try dsimp only
  repeat' (first | with_reducible (first | assumption | apply Keep.when | apply Keep.setReg | apply clr_k | apply protCell_k | apply lkqPush_k | apply leakAt_k | apply leakAbort_k | apply Keep.ite) | intro _ _ _ | intro _ _ | split)

theorem State.protReport_k {zz s : State} (hs : Keep zz s) (c : Nat) (gen : Bool) (bs : List Byte) : Keep zz (State.protReport s c gen bs) := by
  unfold State.protReport
  try dsimp only
  repeat' (first | with_reducible (first | assumption | apply Keep.when | apply Keep.forEach | apply setCell_k | apply protCell_k | apply newTrip_k | apply rearmGen_k | apply leakReport_k | apply Keep.ite) | intro _ _ _ | intro _ _ | split | (with_reducible apply Keep.ofMk; with_reducible refine Keep.mk ?_))

theorem State.protAck_k {zz s : State} (hs : Keep zz s) (c : Nat) (tag : Nat) (stat : Nat) (rdata : Nat) (w : Option MbW) : Keep zz (State.protAck s c tag stat rdata w) := by
  unfold State.protAck
  try dsimp only
  repeat' (first | with_reducible (first | assumption | apply rearmAck_k | apply pushAck_k | apply leakAcked_k | apply Keep.ite) | intro _ _ _ | intro _ _ | split | dsimp only)

theorem State.protTrip_k {zz s : State} (hs : Keep zz s) (m : Nat) : Keep zz (State.protTrip s m) := by
  unfold State.protTrip
  try dsimp only
  repeat' (first | with_reducible (first | assumption | apply Keep.when | apply Keep.setReg | apply set1_k | apply clr_k | apply bump_k | apply protLocal_k | apply Keep.ite) | intro _ _ _ | intro _ _ | split | (with_reducible apply Keep.ofMk; with_reducible refine Keep.mk ?_))

theorem State.protRearmLocal_k {zz s : State} (hs : Keep zz s) (m : Nat) : Keep zz (State.protRearmLocal s m) := by
  unfold State.protRearmLocal
  try dsimp only
  repeat' (first | with_reducible (first | assumption | apply wr_k | apply clr_k | apply bump_k | apply lpRearm_k | apply Keep.ite) | intro _ _ _ | intro _ _ | split)

theorem State.protWaitEnd_k {zz s : State} (hs : Keep zz s) (m : Nat) : Keep zz (State.protWaitEnd s m) := by
  unfold State.protWaitEnd
  try dsimp only
  repeat' (first | with_reducible (first | assumption | apply Keep.when | apply protHoldLocal_k | apply protRearmLocal_k | apply Keep.ite) | intro _ _ _ | intro _ _ | split | (with_reducible apply Keep.ofMk; with_reducible refine Keep.mk ?_))

theorem State.protRelease_k {zz s : State} (hs : Keep zz s)  : Keep zz (State.protRelease s) := by
  unfold State.protRelease
  try dsimp only
  repeat' (first | with_reducible (first | assumption | apply Keep.when | apply Keep.forEach | apply protHold_k | apply protHoldLocal_k | apply protRearmLocal_k | apply Keep.ite) | intro _ _ _ | intro _ _ | split | dsimp only | (with_reducible apply Keep.ofMk; with_reducible refine Keep.mk ?_))

theorem State.dumpOn_k {zz s : State} (hs : Keep zz s)  : Keep zz (State.dumpOn s) := by
  unfold State.dumpOn
  try dsimp only
  repeat' (first | with_reducible (first | assumption | apply Keep.when | apply set1_k | apply bump_k | apply drawn_k | apply post_k | apply evPush_k) | intro _ _ _ | intro _ _ | (with_reducible apply Keep.ofMk; with_reducible refine Keep.mk ?_))

theorem State.dumpEval_k {zz s : State} (hs : Keep zz s) (line : Bool) : Keep zz (State.dumpEval s line) := by
  unfold State.dumpEval
  try dsimp only
  repeat' (first | with_reducible (first | assumption | apply wr_k | apply clr_k | apply dumpOn_k | apply Keep.ite) | intro _ _ _ | intro _ _ | split | (with_reducible apply Keep.ofMk; with_reducible refine Keep.mk ?_))

theorem State.doRetryWaitEnd_k {zz s : State} (hs : Keep zz s) (c : Nat) : Keep zz (State.doRetryWaitEnd s c) := by
  unfold State.doRetryWaitEnd
  try dsimp only
  repeat' (first | with_reducible (first | assumption | apply Keep.when | apply clr_k | apply protHold_k | apply queueRearm_k) | intro _ _ _ | intro _ _)

theorem execRetryWaitEnd_k {zz s : State} (hs : Keep zz s) (c : Fin 192) : KeepO zz (execRetryWaitEnd c s) := by
  unfold execRetryWaitEnd
  repeat' (first | with_reducible (first | assumption | apply KeepO.next | apply doRetryWaitEnd_k) | intro _ _ _ | intro _ _)

theorem State.doUnlock_k {zz s : State} (hs : Keep zz s) (c : Nat) : Keep zz (State.doUnlock s c) := by
  unfold State.doUnlock
  try dsimp only
  repeat' (first | with_reducible (first | assumption | apply Keep.when | apply Keep.forEach | apply wr_k | apply clr_k | apply setPc_k | apply postConfig_k | apply protHold_k | apply queueRearm_k | apply dropRearm_k | apply Keep.ite) | intro _ _ _ | intro _ _ | split | (with_reducible apply Keep.ofMk; with_reducible refine Keep.mk ?_))

theorem execProtUnlock_k {zz s : State} (hs : Keep zz s) (c : Fin 192) : KeepO zz (execProtUnlock c s) := by
  unfold execProtUnlock
  repeat' (first | with_reducible (first | assumption | apply KeepO.next | apply doUnlock_k) | intro _ _ _ | intro _ _)

theorem execParamPush_k {zz s : State} (hs : Keep zz s) (c : Fin 192) : KeepO zz (execParamPush c s) := by
  unfold execParamPush
  repeat' (first | with_reducible (first | assumption | apply KeepO.next | apply pushStart_k) | intro _ _ _ | intro _ _)

theorem State.evqRead_k {zz s : State} (hs : Keep zz s)  : Keep zz (State.evqRead s).2 := by
  unfold State.evqRead
  try dsimp only
  repeat' (first | with_reducible (first | assumption | apply wr_k) | intro _ _ _ | intro _ _ | split | dsimp only | (with_reducible apply Keep.ofMk; with_reducible refine Keep.mk ?_))

theorem execEvqRead_k {zz s : State} (hs : Keep zz s)  : KeepO zz (execEvqRead s) := by
  unfold execEvqRead
  repeat' (first | with_reducible (first | assumption | apply KeepO.next | apply evqRead_k) | intro _ _ _ | intro _ _)

theorem State.doLeakInterval_k {zz s : State} (hs : Keep zz s)  : Keep zz (State.doLeakInterval s) := by
  unfold State.doLeakInterval
  try dsimp only
  repeat' (first | with_reducible (first | assumption | apply Keep.when | apply set1_k | apply setCell_k | apply protHold_k | apply leakAt_k) | intro _ _ _ | intro _ _ | split | dsimp only | (with_reducible apply Keep.ofMk; with_reducible refine Keep.mk ?_))

theorem execLeakInterval_k {zz s : State} (hs : Keep zz s)  : KeepO zz (execLeakInterval s) := by
  unfold execLeakInterval
  repeat' (first | with_reducible (first | assumption | apply KeepO.next | apply doLeakInterval_k) | intro _ _ _ | intro _ _)

theorem execLeakTimeout_k {zz s : State} (hs : Keep zz s)  : KeepO zz (execLeakTimeout s) := by
  unfold execLeakTimeout
  repeat' (first | with_reducible (first | assumption | apply KeepO.next | apply Keep.when | apply leakAbort_k) | intro _ _ _ | intro _ _)

theorem execLpwmRetryWaitEnd_k {zz s : State} (hs : Keep zz s) (m : Fin 16) : KeepO zz (execLpwmRetryWaitEnd m s) := by
  unfold execLpwmRetryWaitEnd
  repeat' (first | with_reducible (first | assumption | apply KeepO.next | apply protWaitEnd_k) | intro _ _ _ | intro _ _)

theorem execDumpOneshotEnd_k {zz s : State} (hs : Keep zz s)  : KeepO zz (execDumpOneshotEnd s) := by
  unfold execDumpOneshotEnd
  try dsimp only
  repeat' (first | with_reducible (first | assumption | apply KeepO.next | apply Keep.when | apply clr_k) | intro _ _ _ | intro _ _ | (with_reducible apply Keep.ofMk; with_reducible refine Keep.mk ?_))

theorem execLpwmTrip_k {zz s : State} (hs : Keep zz s) (m : Fin 16) : KeepO zz (execLpwmTrip m s) := by
  unfold execLpwmTrip
  try dsimp only
  repeat' (first | with_reducible (first | assumption | apply KeepO.next | apply Keep.when | apply lpTrip_k | apply protTrip_k) | intro _ _ _ | intro _ _)

end Sys2Proof.Machine
end

