-- ==== Sys2Proof/Laws/KeepMram.lean ====
section
/-! SUPPORT. Laws/KeepMram.lean: the operations and commands of Machine/Mram.lean keep the invariant and the command queue. -/
namespace Sys2Proof.Machine
open State

theorem State.nvShow_k {zz s : State} (hs : Keep zz s)  : Keep zz (State.nvShow s) := by
  unfold State.nvShow
  try dsimp only
  repeat' (first | with_reducible (first | assumption | apply wr_k) | intro _ _ _ | intro _ _)

theorem State.nvStart_k {zz s : State} (hs : Keep zz s)  : Keep zz (State.nvStart s) := by
  unfold State.nvStart
  try dsimp only
  repeat' (first | with_reducible (first | assumption | apply setSys_k | apply nvShow_k | apply Keep.ite) | intro _ _ _ | intro _ _ | split | dsimp only | (with_reducible apply Keep.ofMk; with_reducible refine Keep.mk ?_))

theorem State.nvPut_k {zz s : State} (hs : Keep zz s) (a : Nat) (bs : List Byte) : Keep zz (State.nvPut s a bs) := by
  unfold State.nvPut
  repeat' (first | with_reducible (first | assumption | apply setSys_k | apply nvStart_k) | intro _ _ _ | intro _ _ | (with_reducible apply Keep.ofMk; with_reducible refine Keep.mk ?_))

theorem State.nvProgram_k {zz s : State} (hs : Keep zz s) (w : Nat × List Byte) : Keep zz (State.nvProgram s w) := by
  unfold State.nvProgram
  try dsimp only
  repeat' (first | with_reducible (first | assumption | apply setSys_k | apply putMem_k) | intro _ _ _ | intro _ _ | (with_reducible apply Keep.ofMk; with_reducible refine Keep.mk ?_))

theorem State.nvPulseEnd_k {zz s : State} (hs : Keep zz s)  : Keep zz (State.nvPulseEnd s) := by
  unfold State.nvPulseEnd
  try dsimp only
  repeat' (first | with_reducible (first | assumption | apply setSys_k | apply nvProgram_k) | intro _ _ _ | intro _ _ | split | dsimp only | (with_reducible apply Keep.ofMk; with_reducible refine Keep.mk ?_))

theorem State.recPut_k {zz s : State} (hs : Keep zz s) (i : Nat) (p : List Byte) : Keep zz (State.recPut s i p) := by
  unfold State.recPut
  repeat' (first | with_reducible (first | assumption | apply setSys_k | apply nvStart_k) | intro _ _ _ | intro _ _ | (with_reducible apply Keep.ofMk; with_reducible refine Keep.mk ?_))

theorem State.recErase_k {zz s : State} (hs : Keep zz s) (p : List Byte) : Keep zz (State.recErase s p) := by
  unfold State.recErase
  try dsimp only
  repeat' (first | with_reducible (first | assumption | apply setSys_k | apply nvStart_k) | intro _ _ _ | intro _ _ | (with_reducible apply Keep.ofMk; with_reducible refine Keep.mk ?_))

theorem State.recLoad_k {zz s : State} (hs : Keep zz s) (i : Nat) : Keep zz (State.recLoad s i).2 := by
  unfold State.recLoad
  try dsimp only
  repeat' (first | with_reducible (first | assumption | apply bump_k | apply post_k) | intro _ _ _ | intro _ _ | split | dsimp only)

theorem State.recFlush_k {zz s : State} (hs : Keep zz s)  : Keep zz (State.recFlush s) := by
  unfold State.recFlush
  try dsimp only
  repeat' (first | with_reducible (first | assumption | apply Keep.forEach | apply nvProgram_k) | intro _ _ _ | intro _ _)

end Sys2Proof.Machine
end

