-- ==== Sys2Proof/Laws/KeepIsland.lean ====
section
/-! SUPPORT. Laws/KeepIsland.lean: the operations and commands of Machine/Island.lean keep the invariant and the command queue. -/
namespace Sys2Proof.Machine
open State

theorem State.setIsl_k {zz s : State} (hs : Keep zz s) (x : IslH) : Keep zz (State.setIsl s x) := by
  unfold State.setIsl
  repeat' (first | with_reducible (first | assumption) | intro _ _ _ | intro _ _ | (with_reducible apply Keep.ofMk; with_reducible refine Keep.mk ?_))

theorem State.postSafe_k {zz s : State} (hs : Keep zz s) (kind : Nat) (cls : Nat) (sev : Nat) (datum : Nat) : Keep zz (State.postSafe s kind cls sev datum) := by
  unfold State.postSafe
  repeat' (first | with_reducible (first | assumption | apply post_k) | intro _ _ _ | intro _ _)

theorem State.tokensOff_k {zz s : State} (hs : Keep zz s)  : Keep zz (State.tokensOff s) := by
  unfold State.tokensOff
  try dsimp only
  repeat' (first | with_reducible (first | assumption | apply Keep.when | apply clr_k | apply powerLost_k | apply setIsl_k | apply Keep.ite) | intro _ _ _ | intro _ _ | split | (with_reducible apply Keep.ofMk; with_reducible refine Keep.mk ?_))

theorem State.earthEval_k {zz s : State} (hs : Keep zz s)  : Keep zz (State.earthEval s) := by
  unfold State.earthEval
  try dsimp only
  repeat' (first | with_reducible (first | assumption | apply Keep.when | apply wr_k | apply clr_k) | intro _ _ _ | intro _ _)

theorem State.islEval_k {zz s : State} (hs : Keep zz s)  : Keep zz (State.islEval s) := by
  unfold State.islEval
  try dsimp only
  repeat' (first | with_reducible (first | assumption | apply wr_k | apply set1_k | apply tokensOff_k | apply earthEval_k | apply Keep.ite) | intro _ _ _ | intro _ _ | split)

theorem State.islFail_k {zz s : State} (hs : Keep zz s)  : Keep zz (State.islFail s) := by
  unfold State.islFail
  repeat' (first | with_reducible (first | assumption | apply wr_k | apply clr_k | apply tokensOff_k) | intro _ _ _ | intro _ _)

theorem State.recTrips_k {zz s : State} (hs : Keep zz s)  : Keep zz (State.recTrips s) := by
  unfold State.recTrips
  repeat' (first | with_reducible (first | assumption | apply recPut_k) | intro _ _ _ | intro _ _)

theorem State.recProof_k {zz s : State} (hs : Keep zz s)  : Keep zz (State.recProof s) := by
  unfold State.recProof
  repeat' (first | with_reducible (first | assumption | apply recPut_k) | intro _ _ _ | intro _ _)

theorem State.islRecords_k {zz s : State} (hs : Keep zz s)  : Keep zz (State.islRecords s) := by
  unfold State.islRecords
  try dsimp only
  repeat' (first | with_reducible (first | assumption | apply Keep.setReg | apply wr_k | apply setSys_k | apply recLoad_k | apply setIsl_k) | intro _ _ _ | intro _ _ | split | dsimp only | (with_reducible apply Keep.ofMk; with_reducible refine Keep.mk ?_))

theorem State.trip_k {zz s : State} (hs : Keep zz s) (d : Nat) : Keep zz (State.trip s d) := by
  unfold State.trip
  try dsimp only
  repeat' (first | with_reducible (first | assumption | apply Keep.when | apply set1_k | apply bump_k | apply recTrips_k) | intro _ _ _ | intro _ _)

theorem State.demand_k {zz s : State} (hs : Keep zz s) (d : Nat) : Keep zz (State.demand s d) := by
  unfold State.demand
  repeat' (first | with_reducible (first | assumption | apply set1_k | apply trip_k) | intro _ _ _ | intro _ _)

theorem State.islHold_k {zz s : State} (hs : Keep zz s) (h : Nat) (b : Bool) : Keep zz (State.islHold s h b) := by
  unfold State.islHold
  repeat' (first | with_reducible (first | assumption | apply wr_k | apply islEval_k) | intro _ _ _ | intro _ _)

theorem State.discEval_k {zz s : State} (hs : Keep zz s)  : Keep zz (State.discEval s) := by
  unfold State.discEval
  try dsimp only
  repeat' (first | with_reducible (first | assumption | apply wr_k | apply setIsl_k) | intro _ _ _ | intro _ _ | (with_reducible apply Keep.ofMk; with_reducible refine Keep.mk ?_))

theorem State.spbOpen_k {zz s : State} (hs : Keep zz s)  : Keep zz (State.spbOpen s) := by
  unfold State.spbOpen
  try dsimp only
  repeat' (first | with_reducible (first | assumption | apply Keep.when | apply postSafe_k | apply demand_k) | intro _ _ _ | intro _ _)

theorem State.doorOpen_k {zz s : State} (hs : Keep zz s) (i : Nat) : Keep zz (State.doorOpen s i) := by
  unfold State.doorOpen
  try dsimp only
  repeat' (first | with_reducible (first | assumption | apply setIsl_k | apply postSafe_k | apply trip_k | apply demand_k | apply Keep.ite) | intro _ _ _ | intro _ _ | split | dsimp only | (with_reducible apply Keep.ofMk; with_reducible refine Keep.mk ?_))

theorem State.proofPass_k {zz s : State} (hs : Keep zz s)  : Keep zz (State.proofPass s) := by
  unfold State.proofPass
  repeat' (first | with_reducible (first | assumption | apply Keep.setReg | apply clr_k | apply setIsl_k | apply recProof_k) | intro _ _ _ | intro _ _ | (with_reducible apply Keep.ofMk; with_reducible refine Keep.mk ?_))

theorem State.opTime_k {zz s : State} (hs : Keep zz s) (ns : Nat) : Keep zz (State.opTime s ns) := by
  unfold State.opTime
  try dsimp only
  repeat' (first | with_reducible (first | assumption | apply Keep.when | apply Keep.setReg | apply setIsl_k | apply recProof_k) | intro _ _ _ | intro _ _ | (with_reducible apply Keep.ofMk; with_reducible refine Keep.mk ?_))

theorem State.doorClose_k {zz s : State} (hs : Keep zz s) (i : Nat) : Keep zz (State.doorClose s i) := by
  unfold State.doorClose
  try dsimp only
  repeat' (first | with_reducible (first | assumption | apply Keep.when | apply clr_k | apply setIsl_k | apply proofPass_k | apply Keep.ite) | intro _ _ _ | intro _ _ | split | dsimp only | (with_reducible apply Keep.ofMk; with_reducible refine Keep.mk ?_))

theorem State.doInputOpen_k {zz s : State} (hs : Keep zz s) (i : Nat) : Keep zz (State.doInputOpen s i) := by
  unfold State.doInputOpen
  try dsimp only
  repeat' (first | with_reducible (first | assumption | apply Keep.when | apply clr_k | apply setIsl_k | apply islEval_k | apply discEval_k | apply spbOpen_k | apply doorOpen_k | apply Keep.ite) | intro _ _ _ | intro _ _ | split | (with_reducible apply Keep.ofMk; with_reducible refine Keep.mk ?_))

theorem execSafeInputOpen_k {zz s : State} (hs : Keep zz s) (i : Fin 6) : KeepO zz (execSafeInputOpen i s) := by
  unfold execSafeInputOpen
  try dsimp only
  repeat' (first | with_reducible (first | assumption | apply KeepO.next | apply Keep.when | apply doInputOpen_k) | intro _ _ _ | intro _ _)

theorem State.doInputClose_k {zz s : State} (hs : Keep zz s) (i : Nat) : Keep zz (State.doInputClose s i) := by
  unfold State.doInputClose
  try dsimp only
  repeat' (first | with_reducible (first | assumption | apply Keep.when | apply set1_k | apply clr_k | apply islEval_k | apply discEval_k | apply doorClose_k | apply Keep.ite) | intro _ _ _ | intro _ _ | split)

theorem execSafeInputClose_k {zz s : State} (hs : Keep zz s) (i : Fin 6) : KeepO zz (execSafeInputClose i s) := by
  unfold execSafeInputClose
  try dsimp only
  repeat' (first | with_reducible (first | assumption | apply KeepO.next | apply Keep.when | apply doInputClose_k) | intro _ _ _ | intro _ _)

theorem execDiscrepancy_k {zz s : State} (hs : Keep zz s) (k : Fin 3) : KeepO zz (execDiscrepancy k s) := by
  unfold execDiscrepancy
  try dsimp only
  repeat' (first | with_reducible (first | assumption | apply KeepO.next | apply Keep.when | apply setIsl_k | apply postSafe_k | apply islEval_k | apply demand_k) | intro _ _ _ | intro _ _ | (with_reducible apply Keep.ofMk; with_reducible refine Keep.mk ?_))

theorem State.voltage_k {zz s : State} (hs : Keep zz s) (low : Bool) : Keep zz (State.voltage s low) := by
  unfold State.voltage
  repeat' (first | with_reducible (first | assumption | apply setIsl_k | apply Keep.ite) | intro _ _ _ | intro _ _ | split | (with_reducible apply Keep.ofMk; with_reducible refine Keep.mk ?_))

theorem State.doSdmResult_k {zz s : State} (hs : Keep zz s) (i : Nat) (v : Nat) (live : Bool) : Keep zz (State.doSdmResult s i v live) := by
  unfold State.doSdmResult
  try dsimp only
  repeat' (first | with_reducible (first | assumption | apply Keep.when | apply wr_k | apply clr_k | apply setIsl_k | apply postSafe_k | apply islEval_k | apply voltage_k | apply Keep.ite) | intro _ _ _ | intro _ _ | split | (with_reducible apply Keep.ofMk; with_reducible refine Keep.mk ?_))

theorem execSdmResult_k {zz s : State} (hs : Keep zz s) (i : Fin 4) (v : BitVec 16) (live : Bool) : KeepO zz (execSdmResult i v live s) := by
  unfold execSdmResult
  repeat' (first | with_reducible (first | assumption | apply KeepO.next | apply doSdmResult_k) | intro _ _ _ | intro _ _)

theorem State.setPos_k {zz s : State} (hs : Keep zz s)  : Keep zz (State.setPos s) := by
  unfold State.setPos
  try dsimp only
  repeat' (first | with_reducible (first | assumption | apply wr_k | apply islEval_k | apply discEval_k | apply Keep.ite) | intro _ _ _ | intro _ _ | split)

theorem State.doSdmStuck_k {zz s : State} (hs : Keep zz s) (i : Nat) : Keep zz (State.doSdmStuck s i) := by
  unfold State.doSdmStuck
  try dsimp only
  repeat' (first | with_reducible (first | assumption | apply Keep.when | apply set1_k | apply setIsl_k | apply postSafe_k | apply voltage_k | apply setPos_k) | intro _ _ _ | intro _ _ | (with_reducible apply Keep.ofMk; with_reducible refine Keep.mk ?_))

theorem execSdmStuck_k {zz s : State} (hs : Keep zz s) (i : Fin 4) : KeepO zz (execSdmStuck i s) := by
  unfold execSdmStuck
  try dsimp only
  repeat' (first | with_reducible (first | assumption | apply KeepO.next | apply Keep.when | apply doSdmStuck_k) | intro _ _ _ | intro _ _)

theorem execSlcTrip_k {zz s : State} (hs : Keep zz s) (i : Fin 4) : KeepO zz (execSlcTrip i s) := by
  unfold execSlcTrip
  try dsimp only
  repeat' (first | with_reducible (first | assumption | apply KeepO.next | apply Keep.when | apply setIsl_k | apply postSafe_k | apply islEval_k | apply demand_k) | intro _ _ _ | intro _ _ | (with_reducible apply Keep.ofMk; with_reducible refine Keep.mk ?_))

theorem execSpdTrip_k {zz s : State} (hs : Keep zz s)  : KeepO zz (execSpdTrip s) := by
  unfold execSpdTrip
  try dsimp only
  repeat' (first | with_reducible (first | assumption | apply KeepO.next | apply Keep.when | apply postSafe_k | apply islEval_k | apply demand_k) | intro _ _ _ | intro _ _)

theorem execPositionUpdate_k {zz s : State} (hs : Keep zz s) (a : Fin 101) (b : Fin 101) : KeepO zz (execPositionUpdate a b s) := by
  unfold execPositionUpdate
  repeat' (first | with_reducible (first | assumption | apply KeepO.next | apply setIsl_k | apply setPos_k) | intro _ _ _ | intro _ _ | (with_reducible apply Keep.ofMk; with_reducible refine Keep.mk ?_))

theorem execDoorLockRelease_k {zz s : State} (hs : Keep zz s)  : KeepO zz (execDoorLockRelease s) := by
  unfold execDoorLockRelease
  try dsimp only
  repeat' (first | with_reducible (first | assumption | apply KeepO.next | apply Keep.when | apply set1_k) | intro _ _ _ | intro _ _)

theorem execSafeOkOpen_k {zz s : State} (hs : Keep zz s)  : KeepO zz (execSafeOkOpen s) := by
  unfold execSafeOkOpen
  try dsimp only
  repeat' (first | with_reducible (first | assumption | apply KeepO.next | apply Keep.when | apply clr_k) | intro _ _ _ | intro _ _)

theorem execIslandTokensStart_k {zz s : State} (hs : Keep zz s)  : KeepO zz (execIslandTokensStart s) := by
  unfold execIslandTokensStart
  try dsimp only
  repeat' (first | with_reducible (first | assumption | apply KeepO.next | apply Keep.when | apply set1_k) | intro _ _ _ | intro _ _)

theorem State.doSackRise_k {zz s : State} (hs : Keep zz s)  : Keep zz (State.doSackRise s) := by
  unfold State.doSackRise
  try dsimp only
  repeat' (first | with_reducible (first | assumption | apply set1_k | apply clr_k | apply bump_k | apply setIsl_k | apply Keep.ite) | intro _ _ _ | intro _ _ | split | (with_reducible apply Keep.ofMk; with_reducible refine Keep.mk ?_))

theorem execSackRise_k {zz s : State} (hs : Keep zz s)  : KeepO zz (execSackRise s) := by
  unfold execSackRise
  repeat' (first | with_reducible (first | assumption | apply KeepO.next | apply Keep.when | apply doSackRise_k) | intro _ _ _ | intro _ _)

theorem execSackRelease_k {zz s : State} (hs : Keep zz s)  : KeepO zz (execSackRelease s) := by
  unfold execSackRelease
  try dsimp only
  repeat' (first | with_reducible (first | assumption | apply KeepO.next | apply Keep.when | apply wr_k | apply bump_k | apply setIsl_k | apply islEval_k | apply recTrips_k | apply Keep.ite | apply KeepO.ite) | intro _ _ _ | intro _ _ | split | (with_reducible apply Keep.ofMk; with_reducible refine Keep.mk ?_))

theorem execSackJam_k {zz s : State} (hs : Keep zz s)  : KeepO zz (execSackJam s) := by
  unfold execSackJam
  try dsimp only
  repeat' (first | with_reducible (first | assumption | apply KeepO.next | apply Keep.when | apply set1_k | apply setIsl_k | apply postSafe_k) | intro _ _ _ | intro _ _ | (with_reducible apply Keep.ofMk; with_reducible refine Keep.mk ?_))

theorem execProofIntervalExpiry_k {zz s : State} (hs : Keep zz s)  : KeepO zz (execProofIntervalExpiry s) := by
  unfold execProofIntervalExpiry
  try dsimp only
  repeat' (first | with_reducible (first | assumption | apply KeepO.next | apply Keep.when | apply set1_k | apply setIsl_k | apply postSafe_k | apply recProof_k) | intro _ _ _ | intro _ _ | (with_reducible apply Keep.ofMk; with_reducible refine Keep.mk ?_))

theorem State.confirmArm_k {zz s : State} (hs : Keep zz s)  : Keep zz (State.confirmArm s) := by
  unfold State.confirmArm
  try dsimp only
  repeat' (first | with_reducible (first | assumption | apply Keep.when | apply set1_k | apply Keep.ite) | intro _ _ _ | intro _ _ | split)

theorem execConfirmArm_k {zz s : State} (hs : Keep zz s)  : KeepO zz (execConfirmArm s) := by
  unfold execConfirmArm
  repeat' (first | with_reducible (first | assumption | apply KeepO.next | apply confirmArm_k) | intro _ _ _ | intro _ _)

theorem State.confirmCheck_k {zz s : State} (hs : Keep zz s) (v : Nat) : Keep zz (State.confirmCheck s v) := by
  unfold State.confirmCheck
  try dsimp only
  repeat' (first | with_reducible (first | assumption | apply Keep.when | apply Keep.setReg | apply wr_k | apply set1_k | apply clr_k | apply recPut_k | apply setIsl_k | apply postSafe_k | apply islEval_k | apply recProof_k | apply Keep.ite) | intro _ _ _ | intro _ _ | split | (with_reducible apply Keep.ofMk; with_reducible refine Keep.mk ?_))

theorem execConfirmCheck_k {zz s : State} (hs : Keep zz s) (v : BitVec 32) : KeepO zz (execConfirmCheck v s) := by
  unfold execConfirmCheck
  repeat' (first | with_reducible (first | assumption | apply KeepO.next | apply confirmCheck_k) | intro _ _ _ | intro _ _)

theorem State.confirmWrite_k {zz s : State} (hs : Keep zz s) (v : Nat) : Keep zz (State.confirmWrite s v) := by
  unfold State.confirmWrite
  repeat' (first | with_reducible (first | assumption | apply confirmArm_k | apply confirmCheck_k | apply Keep.ite) | intro _ _ _ | intro _ _ | split)

theorem execConfirmWindowExpiry_k {zz s : State} (hs : Keep zz s)  : KeepO zz (execConfirmWindowExpiry s) := by
  unfold execConfirmWindowExpiry
  repeat' (first | with_reducible (first | assumption | apply KeepO.next | apply clr_k) | intro _ _ _ | intro _ _)

theorem State.doLoadEnd_k {zz s : State} (hs : Keep zz s) (pcrc : Nat) (bcrc : Nat) (p : List Byte) (b : List Byte) : Keep zz (State.doLoadEnd s pcrc bcrc p b) := by
  unfold State.doLoadEnd
  try dsimp only
  repeat' (first | with_reducible (first | assumption | apply Keep.forEach | apply Keep.setReg | apply Keep.setBytes | apply wr_k | apply clr_k | apply setSys_k | apply setIsl_k | apply postSafe_k | apply islEval_k | apply islFail_k | apply spbOpen_k | apply Keep.ite) | intro _ _ _ | intro _ _ | split | dsimp only | (with_reducible apply Keep.ofMk; with_reducible refine Keep.mk ?_))

theorem State.mbinWrite_k {zz s : State} (hs : Keep zz s) (w : Nat) : Keep zz (State.mbinWrite s w) := by
  unfold State.mbinWrite
  try dsimp only
  repeat' (first | with_reducible (first | assumption | apply wr_k | apply set1_k | apply setIsl_k | apply Keep.ite) | intro _ _ _ | intro _ _ | split | (with_reducible apply Keep.ofMk; with_reducible refine Keep.mk ?_))

theorem execSafeMbInWrite_k {zz s : State} (hs : Keep zz s) (w : BitVec 32) : KeepO zz (execSafeMbInWrite w s) := by
  unfold execSafeMbInWrite
  repeat' (first | with_reducible (first | assumption | apply KeepO.next | apply mbinWrite_k) | intro _ _ _ | intro _ _)

theorem State.mboutRead_k {zz s : State} (hs : Keep zz s)  : Keep zz (State.mboutRead s).2 := by
  unfold State.mboutRead
  try dsimp only
  repeat' (first | with_reducible (first | assumption | apply wr_k | apply setIsl_k) | intro _ _ _ | intro _ _ | split | dsimp only | (with_reducible apply Keep.ofMk; with_reducible refine Keep.mk ?_))

theorem execSafeMbOutRead_k {zz s : State} (hs : Keep zz s)  : KeepO zz (execSafeMbOutRead s) := by
  unfold execSafeMbOutRead
  repeat' (first | with_reducible (first | assumption | apply KeepO.next | apply mboutRead_k) | intro _ _ _ | intro _ _)

theorem State.bankWrite_k {zz s : State} (hs : Keep zz s) (k : Nat) : Keep zz (State.bankWrite s k) := by
  unfold State.bankWrite
  try dsimp only
  repeat' (first | with_reducible (first | assumption | apply setIsl_k | apply Keep.ite) | intro _ _ _ | intro _ _ | split | (with_reducible apply Keep.ofMk; with_reducible refine Keep.mk ?_))

theorem State.strobeBad_k {zz s : State} (hs : Keep zz s) (ns : Nat) : Keep zz (State.strobeBad s ns) := by
  unfold State.strobeBad
  try dsimp only
  repeat' (first | with_reducible (first | assumption | apply Keep.when | apply setIsl_k | apply postSafe_k | apply islHold_k) | intro _ _ _ | intro _ _ | (with_reducible apply Keep.ofMk; with_reducible refine Keep.mk ?_))

theorem State.doStrobe_k {zz s : State} (hs : Keep zz s) (ns : Nat) : Keep zz (State.doStrobe s ns) := by
  unfold State.doStrobe
  try dsimp only
  repeat' (first | with_reducible (first | assumption | apply Keep.when | apply clr_k | apply setIsl_k | apply islHold_k | apply opTime_k | apply bankWrite_k | apply strobeBad_k | apply Keep.ite) | intro _ _ _ | intro _ _ | split | (with_reducible apply Keep.ofMk; with_reducible refine Keep.mk ?_))

theorem execIslandFrameStrobe_k {zz s : State} (hs : Keep zz s) (ns : Nat) : KeepO zz (execIslandFrameStrobe ns s) := by
  unfold execIslandFrameStrobe
  try dsimp only
  repeat' (first | with_reducible (first | assumption | apply KeepO.next | apply Keep.when | apply doStrobe_k) | intro _ _ _ | intro _ _)

theorem execStrobeMissing_k {zz s : State} (hs : Keep zz s) (ns : Nat) : KeepO zz (execStrobeMissing ns s) := by
  unfold execStrobeMissing
  try dsimp only
  repeat' (first | with_reducible (first | assumption | apply KeepO.next | apply Keep.when | apply strobeBad_k) | intro _ _ _ | intro _ _)

theorem execEpochWordChange_k {zz s : State} (hs : Keep zz s)  : KeepO zz (execEpochWordChange s) := by
  unfold execEpochWordChange
  try dsimp only
  repeat' (first | with_reducible (first | assumption | apply KeepO.next | apply Keep.when | apply setIsl_k | apply Keep.ite | apply KeepO.ite) | intro _ _ _ | intro _ _ | split | dsimp only | (with_reducible apply Keep.ofMk; with_reducible refine Keep.mk ?_))

theorem execHeartbeatMiss_k {zz s : State} (hs : Keep zz s)  : KeepO zz (execHeartbeatMiss s) := by
  unfold execHeartbeatMiss
  try dsimp only
  repeat' (first | with_reducible (first | assumption | apply KeepO.next | apply Keep.when | apply postF_k | apply islHold_k) | intro _ _ _ | intro _ _)

theorem execCoreClockStop_k {zz s : State} (hs : Keep zz s)  : KeepO zz (execCoreClockStop s) := by
  unfold execCoreClockStop
  try dsimp only
  repeat' (first | with_reducible (first | assumption | apply KeepO.next | apply Keep.when | apply Keep.forEach | apply wr_k | apply setLp_k | apply lpOff_k | apply laneShow_k | apply postF_k | apply islHold_k) | intro _ _ _ | intro _ _ | (with_reducible apply Keep.ofMk; with_reducible refine Keep.mk ?_))

theorem execCoreClockResume_k {zz s : State} (hs : Keep zz s)  : KeepO zz (execCoreClockResume s) := by
  unfold execCoreClockResume
  try dsimp only
  repeat' (first | with_reducible (first | assumption | apply KeepO.next | apply Keep.when | apply Keep.forEach | apply setLp_k | apply pins_k | apply islHold_k) | intro _ _ _ | intro _ _ | (with_reducible apply Keep.ofMk; with_reducible refine Keep.mk ?_))

theorem State.safetyFail_k {zz s : State} (hs : Keep zz s) (pc : Nat) : Keep zz (State.safetyFail s pc) := by
  unfold State.safetyFail
  try dsimp only
  repeat' (first | with_reducible (first | assumption | apply Keep.when | apply postSafe_k | apply islFail_k) | intro _ _ _ | intro _ _)

theorem execLockstepFail_k {zz s : State} (hs : Keep zz s) (pc : BitVec 32) : KeepO zz (execLockstepFail pc s) := by
  unfold execLockstepFail
  repeat' (first | with_reducible (first | assumption | apply KeepO.next | apply safetyFail_k) | intro _ _ _ | intro _ _)

end Sys2Proof.Machine
end

