-- ==== Sys2Proof/Laws/KeepAnalogue.lean ====
section
/-! SUPPORT. Laws/KeepAnalogue.lean: the operations and commands of Machine/Analogue.lean keep the invariant and the command queue. -/
namespace Sys2Proof.Machine
open State

theorem State.postAna_k {zz s : State} (hs : Keep zz s) (inst : Nat) (kind : Nat) (sev : Nat) : Keep zz (State.postAna s inst kind sev) := by
  unfold State.postAna
  repeat' (first | with_reducible (first | assumption | apply postF_k) | intro _ _ _ | intro _ _)

theorem State.flitIn_k {zz s : State} (hs : Keep zz s)  : Keep zz (State.flitIn s).2 := by
  unfold State.flitIn
  repeat' (first | with_reducible (first | assumption | apply bump_k | apply postAna_k | apply Keep.ite) | intro _ _ _ | intro _ _ | split | dsimp only | (with_reducible apply Keep.ofMk; with_reducible refine Keep.mk ?_))

theorem State.loseLoad_k {zz s : State} (hs : Keep zz s) (x : D2dLoad) : Keep zz (State.loseLoad s x) := by
  unfold State.loseLoad
  try dsimp only
  repeat' (first | with_reducible (first | assumption | apply Keep.when | apply setSys_k) | intro _ _ _ | intro _ _ | (with_reducible apply Keep.ofMk; with_reducible refine Keep.mk ?_))

theorem State.takeLoss_k {zz s : State} (hs : Keep zz s) (x : D2dLoad) : Keep zz (State.takeLoss s x).2 := by
  unfold State.takeLoss
  repeat' (first | with_reducible (first | assumption | apply setSys_k) | intro _ _ _ | intro _ _ | dsimp only | (with_reducible apply Keep.ofMk; with_reducible refine Keep.mk ?_))

theorem State.cmpLevel_k {zz s : State} (hs : Keep zz s) (i : Nat) : Keep zz (State.cmpLevel s i).2 := by
  unfold State.cmpLevel
  try dsimp only
  repeat' (first | with_reducible (first | assumption | apply drawn_k | apply Keep.ite) | intro _ _ _ | intro _ _ | split | dsimp only)

theorem State.doCapture_k {zz s : State} (hs : Keep zz s) (k : Nat) (src : Nat) (rising : Bool) (q : Nat) : Keep zz (State.doCapture s k src rising q) := by
  unfold State.doCapture
  try dsimp only
  repeat' (first | with_reducible (first | assumption | apply Keep.when | apply Keep.setReg | apply wr_k | apply set1_k | apply bump_k | apply Keep.ite) | intro _ _ _ | intro _ _ | split)

theorem State.tripLine_k {zz s : State} (hs : Keep zz s) (i : Nat) (b : Bool) : Keep zz (State.tripLine s i b) := by
  unfold State.tripLine
  try dsimp only
  repeat' (first | with_reducible (first | assumption | apply Keep.when | apply Keep.forEach | apply wr_k | apply trcCmp_k | apply dumpEval_k | apply doCapture_k) | intro _ _ _ | intro _ _)

theorem State.wake_k {zz s : State} (hs : Keep zz s) (cause : Nat) : Keep zz (State.wake s cause) := by
  unfold State.wake
  try dsimp only
  repeat' (first | with_reducible (first | assumption | apply Keep.when | apply Keep.forEach | apply wr_k | apply setDev_k | apply pins_k | apply lanesTry_k | apply islHold_k) | intro _ _ _ | intro _ _)

theorem State.cmpEval_k {zz s : State} (hs : Keep zz s) (i : Nat) : Keep zz (State.cmpEval s i) := by
  unfold State.cmpEval
  try dsimp only
  repeat' (first | with_reducible (first | assumption | apply Keep.when | apply wr_k | apply set1_k | apply bump_k | apply irq_k | apply tripLine_k | apply wake_k | apply Keep.ite) | intro _ _ _ | intro _ _ | split)

theorem State.cmpHold_k {zz s : State} (hs : Keep zz s) (i : Nat) : Keep zz (State.cmpHold s i) := by
  unfold State.cmpHold
  repeat' (first | with_reducible (first | assumption | apply set1_k | apply cmpEval_k) | intro _ _ _ | intro _ _)

theorem State.cmpApply_k {zz s : State} (hs : Keep zz s) (i : Nat) : Keep zz (State.cmpApply s i) := by
  unfold State.cmpApply
  try dsimp only
  repeat' (first | with_reducible (first | assumption | apply Keep.when | apply wr_k | apply set1_k | apply clr_k | apply setCmp_k | apply takeLoss_k | apply cmpEval_k | apply cmpHold_k | apply Keep.ite) | intro _ _ _ | intro _ _ | split | (with_reducible apply Keep.ofMk; with_reducible refine Keep.mk ?_))

theorem State.routeOn_k {zz s : State} (hs : Keep zz s) (i : Nat) : Keep zz (State.routeOn s i) := by
  unfold State.routeOn
  try dsimp only
  repeat' (first | with_reducible (first | assumption | apply Keep.when | apply cmpHold_k) | intro _ _ _ | intro _ _)

theorem State.routeOff_k {zz s : State} (hs : Keep zz s) (i : Nat) : Keep zz (State.routeOff s i) := by
  unfold State.routeOff
  try dsimp only
  repeat' (first | with_reducible (first | assumption | apply Keep.when | apply cmpEval_k) | intro _ _ _ | intro _ _)

theorem State.cmpCarrier_k {zz s : State} (hs : Keep zz s) (m : Nat) : Keep zz (State.cmpCarrier s m) := by
  unfold State.cmpCarrier
  try dsimp only
  repeat' (first | with_reducible (first | assumption | apply Keep.when | apply Keep.forEach | apply clr_k | apply cmpEval_k) | intro _ _ _ | intro _ _)

theorem State.linkRetrain_k {zz s : State} (hs : Keep zz s)  : Keep zz (State.linkRetrain s) := by
  unfold State.linkRetrain
  try dsimp only
  repeat' (first | with_reducible (first | assumption | apply Keep.forEach | apply set1_k | apply clr_k | apply cmpApply_k) | intro _ _ _ | intro _ _)

theorem State.linkDown_k {zz s : State} (hs : Keep zz s)  : Keep zz (State.linkDown s) := by
  unfold State.linkDown
  try dsimp only
  repeat' (first | with_reducible (first | assumption | apply Keep.when | apply Keep.forEach | apply set1_k | apply clr_k | apply postAna_k) | intro _ _ _ | intro _ _)

theorem State.adcStart_k {zz s : State} (hs : Keep zz s) (a : Nat) (t0 : Nat) (len : Nat) (late : Bool) : Keep zz (State.adcStart s a t0 len late) := by
  unfold State.adcStart
  try dsimp only
  repeat' (first | with_reducible (first | assumption | apply set1_k | apply clr_k | apply setAdc_k) | intro _ _ _ | intro _ _ | (with_reducible apply Keep.ofMk; with_reducible refine Keep.mk ?_))

theorem State.trigMiss_k {zz s : State} (hs : Keep zz s) (a : Nat) : Keep zz (State.trigMiss s a) := by
  unfold State.trigMiss
  repeat' (first | with_reducible (first | assumption | apply bump_k | apply postAna_k) | intro _ _ _ | intro _ _)

theorem State.adcEvent_k {zz s : State} (hs : Keep zz s) (src : Nat) (sel : Nat) : Keep zz (State.adcEvent s src sel) := by
  unfold State.adcEvent
  try dsimp only
  repeat' (first | with_reducible (first | assumption | apply Keep.when | apply Keep.forEach | apply setAdc_k) | intro _ _ _ | intro _ _ | (with_reducible apply Keep.ofMk; with_reducible refine Keep.mk ?_))

theorem State.adcTrigger_k {zz s : State} (hs : Keep zz s) (a : Nat) : Keep zz (State.adcTrigger s a) := by
  unfold State.adcTrigger
  try dsimp only
  repeat' (first | with_reducible (first | assumption | apply setAdc_k | apply adcStart_k | apply trigMiss_k | apply Keep.ite) | intro _ _ _ | intro _ _ | split | dsimp only | (with_reducible apply Keep.ofMk; with_reducible refine Keep.mk ?_))

theorem State.adcUrgent_k {zz s : State} (hs : Keep zz s) (a : Nat) : Keep zz (State.adcUrgent s a) := by
  unfold State.adcUrgent
  try dsimp only
  repeat' (first | with_reducible (first | assumption | apply set1_k | apply bump_k | apply setAdc_k | apply Keep.ite) | intro _ _ _ | intro _ _ | split | (with_reducible apply Keep.ofMk; with_reducible refine Keep.mk ?_))

theorem State.adcRecord_k {zz s : State} (hs : Keep zz s) (a : Nat) (k : Nat) (v : Nat) (ain : Nat) (t : Nat) (late : Bool) (urg : Bool) (seq : Nat) : Keep zz (State.adcRecord s a k v ain t late urg seq) := by
  unfold State.adcRecord
  try dsimp only
  repeat' (first | with_reducible (first | assumption | apply Keep.when | apply Keep.setReg | apply wr_k | apply set1_k | apply putMem_k | apply irq_k | apply Keep.ite) | intro _ _ _ | intro _ _ | split)

theorem State.adcDeliver_k {zz s : State} (hs : Keep zz s) (a : Nat) (k : Nat) (v : Nat) (ain : Nat) (t : Nat) (late : Bool) (urg : Bool) : Keep zz (State.adcDeliver s a k v ain t late urg) := by
  unfold State.adcDeliver
  try dsimp only
  repeat' (first | with_reducible (first | assumption | apply setAdc_k | apply flitIn_k | apply takeLoss_k | apply adcRecord_k | apply Keep.ite) | intro _ _ _ | intro _ _ | split | (with_reducible apply Keep.ofMk; with_reducible refine Keep.mk ?_))

theorem State.adcDone_k {zz s : State} (hs : Keep zz s) (a : Nat) (v : Int) : Keep zz (State.adcDone s a v) := by
  unfold State.adcDone
  try dsimp only
  repeat' (first | with_reducible (first | assumption | apply wr_k | apply clr_k | apply setAdc_k | apply timeTo_k | apply adcStart_k | apply adcDeliver_k | apply Keep.ite) | intro _ _ _ | intro _ _ | split | dsimp only | (with_reducible apply Keep.ofMk; with_reducible refine Keep.mk ?_))

theorem State.adcSampled_k {zz s : State} (hs : Keep zz s) (a : Nat) : Keep zz (State.adcSampled s a) := by
  unfold State.adcSampled
  try dsimp only
  repeat' (first | with_reducible (first | assumption | apply Keep.when | apply setAdc_k) | intro _ _ _ | intro _ _ | (with_reducible apply Keep.ofMk; with_reducible refine Keep.mk ?_))

theorem State.adcCalReq_k {zz s : State} (hs : Keep zz s) (a : Nat) : Keep zz (State.adcCalReq s a) := by
  unfold State.adcCalReq
  try dsimp only
  repeat' (first | with_reducible (first | assumption | apply set1_k | apply bump_k | apply takeLoss_k | apply Keep.ite) | intro _ _ _ | intro _ _ | split | dsimp only)

theorem State.adcStop_k {zz s : State} (hs : Keep zz s) (a : Nat) : Keep zz (State.adcStop s a) := by
  unfold State.adcStop
  try dsimp only
  repeat' (first | with_reducible (first | assumption | apply clr_k | apply setAdc_k) | intro _ _ _ | intro _ _ | (with_reducible apply Keep.ofMk; with_reducible refine Keep.mk ?_))

theorem State.adcWindows_k {zz s : State} (hs : Keep zz s) (tt : Nat) : Keep zz (State.adcWindows s tt) := by
  unfold State.adcWindows
  try dsimp only
  repeat' (first | with_reducible (first | assumption | apply Keep.when | apply Keep.forEach | apply setAdc_k) | intro _ _ _ | intro _ _ | (with_reducible apply Keep.ofMk; with_reducible refine Keep.mk ?_))

theorem State.voteEval_k {zz s : State} (hs : Keep zz s) (sn : Nat) : Keep zz (State.voteEval s sn) := by
  unfold State.voteEval
  try dsimp only
  repeat' (first | with_reducible (first | assumption | apply Keep.when | apply Keep.forEach | apply wr_k | apply bump_k | apply postF_k | apply islHold_k) | intro _ _ _ | intro _ _)

theorem State.thmStart_k {zz s : State} (hs : Keep zz s) (i : Nat) : Keep zz (State.thmStart s i) := by
  unfold State.thmStart
  try dsimp only
  repeat' (first | with_reducible (first | assumption | apply Keep.when | apply wr_k) | intro _ _ _ | intro _ _ | (with_reducible apply Keep.ofMk; with_reducible refine Keep.mk ?_))

theorem State.thmDone_k {zz s : State} (hs : Keep zz s) (i : Nat) (v : Nat) : Keep zz (State.thmDone s i v) := by
  unfold State.thmDone
  try dsimp only
  repeat' (first | with_reducible (first | assumption | apply Keep.when | apply Keep.setReg | apply drawn_k | apply takeLoss_k | apply Keep.ite) | intro _ _ _ | intro _ _ | split | (with_reducible apply Keep.ofMk; with_reducible refine Keep.mk ?_))

theorem State.wakeIfDue_k {zz s : State} (hs : Keep zz s)  : Keep zz (State.wakeIfDue s) := by
  unfold State.wakeIfDue
  try dsimp only
  repeat' (first | with_reducible (first | assumption | apply wake_k) | intro _ _ _ | intro _ _ | split | dsimp only)

theorem State.dormant_k {zz s : State} (hs : Keep zz s)  : Keep zz (State.dormant s) := by
  unfold State.dormant
  try dsimp only
  repeat' (first | with_reducible (first | assumption | apply Keep.when | apply Keep.forEach | apply wr_k | apply setDev_k | apply lpOff_k | apply laneDown_k | apply islHold_k | apply adcStop_k | apply wakeIfDue_k) | intro _ _ _ | intro _ _)

end Sys2Proof.Machine
end

