-- ==== Sys2Proof/Laws/KeepSystem.lean ====
section
/-! SUPPORT. Laws/KeepSystem.lean: the operations and commands of Machine/System.lean keep the invariant and the command queue. -/
namespace Sys2Proof.Machine
open State

theorem State.powerCheck_k {zz s : State} (hs : Keep zz s)  : Keep zz (State.powerCheck s) := by
  unfold State.powerCheck
  repeat' (first | with_reducible (first | assumption | apply Keep.when | apply powerLost_k) | intro _ _ _ | intro _ _)

theorem State.stateRefuse_k {zz s : State} (hs : Keep zz s) (t : Nat) : Keep zz (State.stateRefuse s t) := by
  unfold State.stateRefuse
  repeat' (first | with_reducible (first | assumption | apply wr_k | apply set1_k | apply post_k) | intro _ _ _ | intro _ _)

theorem State.stateReq_k {zz s : State} (hs : Keep zz s) (t : Nat) (ok : Bool) (f : State → State) (hf : ∀ u, Keep zz u → Keep zz (f u)) : Keep zz (State.stateReq s t ok f) := by
  unfold State.stateReq
  repeat' (first | with_reducible (first | assumption | apply wr_k | apply clr_k | apply stateRefuse_k | apply Keep.ite | apply hf) | intro _ _ _ | intro _ _ | split)

theorem State.reqReady_k {zz s : State} (hs : Keep zz s)  : Keep zz (State.reqReady s) := by
  unfold State.reqReady
  try dsimp only
  repeat' (first | with_reducible (first | assumption | apply Keep.forEach | apply setDev_k | apply lpOff_k | apply stateReq_k) | intro _ _ _ | intro _ _)

theorem State.reqArmed_k {zz s : State} (hs : Keep zz s)  : Keep zz (State.reqArmed s) := by
  unfold State.reqArmed
  try dsimp only
  repeat' (first | with_reducible (first | assumption | apply Keep.forEach | apply setDev_k | apply pins_k | apply stateReq_k) | intro _ _ _ | intro _ _)

theorem State.reqRun_k {zz s : State} (hs : Keep zz s)  : Keep zz (State.reqRun s) := by
  unfold State.reqRun
  try dsimp only
  repeat' (first | with_reducible (first | assumption | apply setDev_k | apply stateReq_k) | intro _ _ _ | intro _ _)

theorem State.reqStopped_k {zz s : State} (hs : Keep zz s)  : Keep zz (State.reqStopped s) := by
  unfold State.reqStopped
  try dsimp only
  repeat' (first | with_reducible (first | assumption | apply setDev_k | apply cstopStart_k | apply stateReq_k | apply Keep.ite) | intro _ _ _ | intro _ _ | split)

theorem State.reqDormant_k {zz s : State} (hs : Keep zz s)  : Keep zz (State.reqDormant s) := by
  unfold State.reqDormant
  repeat' (first | with_reducible (first | assumption | apply dormant_k | apply stateReq_k) | intro _ _ _ | intro _ _)

theorem State.reqUnless_k {zz s : State} (hs : Keep zz s) (forced : Bool) (t : Nat) (f : State → State) (hf : ∀ u, Keep zz u → Keep zz (f u)) : KeepO zz (State.reqUnless s forced t f) := by
  unfold State.reqUnless
  repeat' (first | with_reducible (first | assumption | apply KeepO.next | apply stateRefuse_k | apply Keep.ite | apply KeepO.ite | apply hf) | intro _ _ _ | intro _ _ | split)

theorem execStateReqReady_k {zz s : State} (hs : Keep zz s) (forced : Bool) : KeepO zz (execStateReqReady forced s) := by
  unfold execStateReqReady
  repeat' (first | with_reducible (first | assumption | apply KeepO.next | apply reqReady_k | apply reqUnless_k) | intro _ _ _ | intro _ _)

theorem execStateReqArmed_k {zz s : State} (hs : Keep zz s) (forced : Bool) : KeepO zz (execStateReqArmed forced s) := by
  unfold execStateReqArmed
  repeat' (first | with_reducible (first | assumption | apply KeepO.next | apply reqArmed_k | apply reqUnless_k) | intro _ _ _ | intro _ _)

theorem execStateReqRun_k {zz s : State} (hs : Keep zz s) (forced : Bool) : KeepO zz (execStateReqRun forced s) := by
  unfold execStateReqRun
  repeat' (first | with_reducible (first | assumption | apply KeepO.next | apply reqRun_k | apply reqUnless_k) | intro _ _ _ | intro _ _)

theorem execStateReqStopped_k {zz s : State} (hs : Keep zz s) (forced : Bool) : KeepO zz (execStateReqStopped forced s) := by
  unfold execStateReqStopped
  repeat' (first | with_reducible (first | assumption | apply KeepO.next | apply reqStopped_k | apply reqUnless_k) | intro _ _ _ | intro _ _)

theorem execStateReqDormant_k {zz s : State} (hs : Keep zz s) (forced : Bool) : KeepO zz (execStateReqDormant forced s) := by
  unfold execStateReqDormant
  repeat' (first | with_reducible (first | assumption | apply KeepO.next | apply reqDormant_k | apply reqUnless_k) | intro _ _ _ | intro _ _)

end Sys2Proof.Machine
end

