-- ==== Sys2Proof/Laws/KeepModCmds.lean ====
section
/-! SUPPORT. Laws/KeepModCmds.lean: the operations and commands of Machine/ModCmds.lean keep the invariant and the command queue. -/
namespace Sys2Proof.Machine
open State

theorem State.modStart_k {zz s : State} (hs : Keep zz s)  : Keep zz (State.modStart s) := by
  unfold State.modStart
  try dsimp only
  repeat' (first | with_reducible (first | assumption | apply Keep.when | apply Keep.forEach | apply set1_k | apply setChan_k | apply setAnchor_k | apply showNext_k) | intro _ _ _ | intro _ _ | (with_reducible apply Keep.ofMk; with_reducible refine Keep.mk ?_))

theorem execModEnable_k {zz s : State} (hs : Keep zz s)  : KeepO zz (execModEnable s) := by
  unfold execModEnable
  repeat' (first | with_reducible (first | assumption | apply KeepO.next | apply rws_k | apply modStart_k) | intro _ _ _ | intro _ _)

theorem execModAnchorWrite_k {zz s : State} (hs : Keep zz s) (frame : BitVec 32) : KeepO zz (execModAnchorWrite frame s) := by
  unfold execModAnchorWrite
  try dsimp only
  repeat' (first | with_reducible (first | assumption | apply KeepO.next | apply Keep.setReg | apply rws_k | apply setAnchor_k) | intro _ _ _ | intro _ _)

theorem execModCommit_k {zz s : State} (hs : Keep zz s) (mask : BitVec 32) : KeepO zz (execModCommit mask s) := by
  unfold execModCommit
  repeat' (first | with_reducible (first | assumption | apply KeepO.next | apply capture_k) | intro _ _ _ | intro _ _)

theorem execPlanInstant_k {zz s : State} (hs : Keep zz s) (ch : Fin 784) : KeepO zz (execPlanInstant ch s) := by
  unfold execPlanInstant
  repeat' (first | with_reducible (first | assumption | apply KeepO.next | apply planAt_k) | intro _ _ _ | intro _ _)

theorem State.localZero_k {zz s : State} (hs : Keep zz s) (m : Nat) : Keep zz (State.localZero s m) := by
  unfold State.localZero
  try dsimp only
  repeat' (first | with_reducible (first | assumption | apply Keep.when | apply clr_k | apply lpDrive_k | apply cmpCarrier_k | apply adcEvent_k) | intro _ _ _ | intro _ _)

theorem State.bareZero_k {zz s : State} (hs : Keep zz s) (n : Nat) : Keep zz (State.bareZero s n) := by
  unfold State.bareZero
  try dsimp only
  repeat' (first | with_reducible (first | assumption | apply wr_k | apply timeTo_k | apply localZero_k | apply Keep.ite) | intro _ _ _ | intro _ _ | split)

theorem State.doCarrierZero_k {zz s : State} (hs : Keep zz s) (n : Nat) : Keep zz (State.doCarrierZero s n) := by
  unfold State.doCarrierZero
  try dsimp only
  repeat' (first | with_reducible (first | assumption | apply Keep.when | apply Keep.setReg | apply wr_k | apply setChan_k | apply timeTo_k | apply showNext_k | apply localZero_k | apply bareZero_k | apply Keep.ite) | intro _ _ _ | intro _ _ | split | dsimp only | (with_reducible apply Keep.ofMk; with_reducible refine Keep.mk ?_))

theorem execCarrierZero_k {zz s : State} (hs : Keep zz s) (ch : Fin 784) : KeepO zz (execCarrierZero ch s) := by
  unfold execCarrierZero
  repeat' (first | with_reducible (first | assumption | apply KeepO.next | apply doCarrierZero_k) | intro _ _ _ | intro _ _)

theorem State.doAuxGo_k {zz s : State} (hs : Keep zz s)  : Keep zz (State.doAuxGo s) := by
  unfold State.doAuxGo
  try dsimp only
  repeat' (first | with_reducible (first | assumption | apply set1_k | apply setPlan_k | apply postF_k | apply join_k | apply Keep.ite) | intro _ _ _ | intro _ _ | split | (with_reducible apply Keep.ofMk; with_reducible refine Keep.mk ?_))

theorem execAuxGo_k {zz s : State} (hs : Keep zz s)  : KeepO zz (execAuxGo s) := by
  unfold execAuxGo
  repeat' (first | with_reducible (first | assumption | apply KeepO.next | apply doAuxGo_k) | intro _ _ _ | intro _ _)

theorem State.doBudgetEmpty_k {zz s : State} (hs : Keep zz s) (n : Nat) (b : Bool) : Keep zz (State.doBudgetEmpty s n b) := by
  unfold State.doBudgetEmpty
  try dsimp only
  repeat' (first | with_reducible (first | assumption | apply Keep.when | apply setChan_k | apply post_k | apply budgetNow_k | apply Keep.ite) | intro _ _ _ | intro _ _ | split | (with_reducible apply Keep.ofMk; with_reducible refine Keep.mk ?_))

theorem execBudgetEmpty_k {zz s : State} (hs : Keep zz s) (n : Fin 768) (b : Bool) : KeepO zz (execBudgetEmpty n b s) := by
  unfold execBudgetEmpty
  repeat' (first | with_reducible (first | assumption | apply KeepO.next | apply doBudgetEmpty_k) | intro _ _ _ | intro _ _)

theorem execBudgetRestore_k {zz s : State} (hs : Keep zz s) (n : Fin 768) : KeepO zz (execBudgetRestore n s) := by
  unfold execBudgetRestore
  repeat' (first | with_reducible (first | assumption | apply KeepO.next | apply budgetNow_k) | intro _ _ _ | intro _ _)

theorem State.doDebugHalt_k {zz s : State} (hs : Keep zz s) (e : Nat) : Keep zz (State.doDebugHalt s e) := by
  unfold State.doDebugHalt
  try dsimp only
  repeat' (first | with_reducible (first | assumption | apply Keep.when | apply wr_k | apply setBit_k | apply setEng_k | apply settle_k | apply post_k | apply bundleEnd_k | apply groupSafe_k | apply powerCheck_k) | intro _ _ _ | intro _ _ | (with_reducible apply Keep.ofMk; with_reducible refine Keep.mk ?_))

theorem execDebugHalt_k {zz s : State} (hs : Keep zz s) (e : Fin 16) : KeepO zz (execDebugHalt e s) := by
  unfold execDebugHalt
  repeat' (first | with_reducible (first | assumption | apply KeepO.next | apply doDebugHalt_k) | intro _ _ _ | intro _ _)

theorem execDebugResume_k {zz s : State} (hs : Keep zz s) (e : Fin 16) : KeepO zz (execDebugResume e s) := by
  unfold execDebugResume
  try dsimp only
  repeat' (first | with_reducible (first | assumption | apply KeepO.next | apply Keep.when | apply wr_k) | intro _ _ _ | intro _ _)

theorem State.doLpwmEdge_k {zz s : State} (hs : Keep zz s) (m : Nat) : Keep zz (State.doLpwmEdge s m) := by
  unfold State.doLpwmEdge
  try dsimp only
  repeat' (first | with_reducible (first | assumption | apply Keep.when | apply bump_k | apply setLp_k | apply timeTo_k | apply postF_k | apply lpDrive_k | apply adcEvent_k | apply Keep.ite) | intro _ _ _ | intro _ _ | split | dsimp only | (with_reducible apply Keep.ofMk; with_reducible refine Keep.mk ?_))

theorem execLpwmEdge_k {zz s : State} (hs : Keep zz s) (m : Fin 16) : KeepO zz (execLpwmEdge m s) := by
  unfold execLpwmEdge
  repeat' (first | with_reducible (first | assumption | apply KeepO.next | apply doLpwmEdge_k) | intro _ _ _ | intro _ _)

theorem execLpwmRearm_k {zz s : State} (hs : Keep zz s) (m : Fin 16) : KeepO zz (execLpwmRearm m s) := by
  unfold execLpwmRearm
  repeat' (first | with_reducible (first | assumption | apply KeepO.next | apply lpRearm_k) | intro _ _ _ | intro _ _)

theorem State.doDeadtimeOn_k {zz s : State} (hs : Keep zz s) (m : Nat) : Keep zz (State.doDeadtimeOn s m) := by
  unfold State.doDeadtimeOn
  try dsimp only
  repeat' (first | with_reducible (first | assumption | apply Keep.when | apply setLp_k | apply timeTo_k | apply pins_k | apply Keep.ite) | intro _ _ _ | intro _ _ | split | (with_reducible apply Keep.ofMk; with_reducible refine Keep.mk ?_))

theorem execLpwmDeadtimeTurnOn_k {zz s : State} (hs : Keep zz s) (m : Fin 16) : KeepO zz (execLpwmDeadtimeTurnOn m s) := by
  unfold execLpwmDeadtimeTurnOn
  repeat' (first | with_reducible (first | assumption | apply KeepO.next | apply doDeadtimeOn_k) | intro _ _ _ | intro _ _)

end Sys2Proof.Machine
end

