-- ==== Sys2Proof/Laws/KeepPgen.lean ====
section
/-! SUPPORT. Laws/KeepPgen.lean: the operations and commands of Machine/Pgen.lean keep the invariant and the command queue. -/
namespace Sys2Proof.Machine
open State

theorem State.pgenShow_k {zz s : State} (hs : Keep zz s) (n : Nat) (p : Int) (v : Int) (a : Int) : Keep zz (State.pgenShow s n p v a) := by
  unfold State.pgenShow
  try dsimp only
  repeat' (first | with_reducible (first | assumption | apply Keep.setReg | apply setEng_k) | intro _ _ _ | intro _ _ | (with_reducible apply Keep.ofMk; with_reducible refine Keep.mk ?_))

theorem State.pgenReplan_k {zz s : State} (hs : Keep zz s) (n : Nat) : Keep zz (State.pgenReplan s n) := by
  unfold State.pgenReplan
  try dsimp only
  repeat' (first | with_reducible (first | assumption | apply wr_k | apply set1_k | apply clr_k | apply bump_k | apply setEng_k) | intro _ _ _ | intro _ _ | (with_reducible apply Keep.ofMk; with_reducible refine Keep.mk ?_))

theorem State.pgenAdvance_k {zz s : State} (hs : Keep zz s) (n : Nat) (dt : Nat) : Keep zz (State.pgenAdvance s n dt) := by
  unfold State.pgenAdvance
  try dsimp only
  repeat' (first | with_reducible (first | assumption | apply set1_k | apply clr_k | apply setEng_k | apply pgenShow_k | apply Keep.ite) | intro _ _ _ | intro _ _ | split | dsimp only | (with_reducible apply Keep.ofMk; with_reducible refine Keep.mk ?_))

theorem State.pgenTarget_k {zz s : State} (hs : Keep zz s) (n : Nat) (t : Nat) : Keep zz (State.pgenTarget s n t) := by
  unfold State.pgenTarget
  try dsimp only
  repeat' (first | with_reducible (first | assumption | apply setEng_k) | intro _ _ _ | intro _ _ | (with_reducible apply Keep.ofMk; with_reducible refine Keep.mk ?_))

theorem State.pstep_k {zz s : State} (hs : Keep zz s) (n : Nat) (j : Nat) (t : Option Nat) : Keep zz (State.pstep s n j t) := by
  unfold State.pstep
  try dsimp only
  repeat' (first | with_reducible (first | assumption | apply Keep.when | apply set1_k | apply setEng_k | apply pgenReplan_k | apply pgenAdvance_k | apply pgenTarget_k | apply Keep.ite) | intro _ _ _ | intro _ _ | split | dsimp only | (with_reducible apply Keep.ofMk; with_reducible refine Keep.mk ?_))

theorem State.pgenRestore_k {zz s : State} (hs : Keep zz s) (n : Nat) (x : PgenBack) : Keep zz (State.pgenRestore s n x) := by
  unfold State.pgenRestore
  try dsimp only
  repeat' (first | with_reducible (first | assumption | apply Keep.setReg | apply setEng_k | apply pgenShow_k) | intro _ _ _ | intro _ _ | (with_reducible apply Keep.ofMk; with_reducible refine Keep.mk ?_))

theorem State.pgenInit_k {zz s : State} (hs : Keep zz s) (n : Nat) : Keep zz (State.pgenInit s n) := by
  unfold State.pgenInit
  try dsimp only
  repeat' (first | with_reducible (first | assumption | apply wr_k | apply clr_k | apply setEng_k | apply cstopCheck_k | apply pgenShow_k | apply Keep.ite) | intro _ _ _ | intro _ _ | split | (with_reducible apply Keep.ofMk; with_reducible refine Keep.mk ?_))

theorem State.pgenMirror_k {zz s : State} (hs : Keep zz s) (n : Nat) : Keep zz (State.pgenMirror s n) := by
  unfold State.pgenMirror
  try dsimp only
  repeat' (first | with_reducible (first | assumption | apply Keep.setReg | apply wr_k | apply setEng_k | apply pgenShow_k | apply Keep.ite) | intro _ _ _ | intro _ _ | split | dsimp only | (with_reducible apply Keep.ofMk; with_reducible refine Keep.mk ?_))

end Sys2Proof.Machine
end

