-- ==== Sys2Proof/Laws/KeepEngines.lean ====
section
/-! SUPPORT. Laws/KeepEngines.lean: the operations and commands of Machine/Engines.lean keep the invariant and the command queue. -/
namespace Sys2Proof.Machine
open State

theorem State.setEngSt_k {zz s : State} (hs : Keep zz s) (n : Nat) (st : Nat) : Keep zz (State.setEngSt s n st) := by
  unfold State.setEngSt
  repeat' (first | with_reducible (first | assumption | apply Keep.when | apply wr_k | apply protRelease_k) | intro _ _ _ | intro _ _)

theorem State.setRelq_k {zz s : State} (hs : Keep zz s) (n : Nat) (q : List Nat) : Keep zz (State.setRelq s n q) := by
  unfold State.setRelq
  try dsimp only
  repeat' (first | with_reducible (first | assumption | apply wr_k | apply setEng_k) | intro _ _ _ | intro _ _ | (with_reducible apply Keep.ofMk; with_reducible refine Keep.mk ?_))

theorem State.skipAll_k {zz s : State} (hs : Keep zz s) (n : Nat) : Keep zz (State.skipAll s n) := by
  unfold State.skipAll
  try dsimp only
  repeat' (first | with_reducible (first | assumption | apply Keep.forEach | apply bump_k | apply setRelq_k) | intro _ _ _ | intro _ _)

theorem State.engIdle_k {zz s : State} (hs : Keep zz s) (n : Nat) : Keep zz (State.engIdle s n) := by
  unfold State.engIdle
  repeat' (first | with_reducible (first | assumption | apply setEngSt_k | apply setRelq_k | apply Keep.ite) | intro _ _ _ | intro _ _ | split)

theorem State.engFaulted_k {zz s : State} (hs : Keep zz s) (n : Nat) (cause : Nat) (pc : Nat) : Keep zz (State.engFaulted s n cause pc) := by
  unfold State.engFaulted
  try dsimp only
  repeat' (first | with_reducible (first | assumption | apply wr_k | apply setEng_k | apply setEngSt_k | apply skipAll_k) | intro _ _ _ | intro _ _ | (with_reducible apply Keep.ofMk; with_reducible refine Keep.mk ?_))

theorem State.engException_k {zz s : State} (hs : Keep zz s) (n : Nat) (cause : Nat) (pc : Nat) : Keep zz (State.engException s n cause pc) := by
  unfold State.engException
  try dsimp only
  repeat' (first | with_reducible (first | assumption | apply irq_k | apply post_k | apply groupSafe_k | apply powerCheck_k | apply engFaulted_k) | intro _ _ _ | intro _ _)

theorem State.applyMirror_k {zz s : State} (hs : Keep zz s) (n : Nat) (j : Nat) : Keep zz (State.applyMirror s n j) := by
  unfold State.applyMirror
  try dsimp only
  repeat' (first | with_reducible (first | assumption | apply Keep.forEach | apply setEng_k | apply putMem_k) | intro _ _ _ | intro _ _ | (with_reducible apply Keep.ofMk; with_reducible refine Keep.mk ?_))

theorem State.pfStart_k {zz s : State} (hs : Keep zz s) (n : Nat) (j : Nat) : Keep zz (State.pfStart s n j) := by
  unfold State.pfStart
  try dsimp only
  repeat' (first | with_reducible (first | assumption | apply setEng_k | apply applyMirror_k) | intro _ _ _ | intro _ _ | (with_reducible apply Keep.ofMk; with_reducible refine Keep.mk ?_))

theorem State.overrun_k {zz s : State} (hs : Keep zz s) (n : Nat) (j : Nat) : Keep zz (State.overrun s n j) := by
  unfold State.overrun
  try dsimp only
  repeat' (first | with_reducible (first | assumption | apply bump_k | apply setBit_k | apply irq_k | apply post_k) | intro _ _ _ | intro _ _)

theorem State.release_k {zz s : State} (hs : Keep zz s) (n : Nat) (j : Nat) : Keep zz (State.release s n j) := by
  unfold State.release
  try dsimp only
  repeat' (first | with_reducible (first | assumption | apply Keep.when | apply bump_k | apply setEng_k | apply setRelq_k | apply pfStart_k | apply overrun_k | apply Keep.ite) | intro _ _ _ | intro _ _ | split | (with_reducible apply Keep.ofMk; with_reducible refine Keep.mk ?_))

theorem State.taskRelease_k {zz s : State} (hs : Keep zz s) (tt : Nat) : Keep zz (State.taskRelease s tt) := by
  unfold State.taskRelease
  try dsimp only
  repeat' (first | with_reducible (first | assumption | apply Keep.when | apply Keep.forEach | apply release_k) | intro _ _ _ | intro _ _)

theorem State.prefetchTrigger_k {zz s : State} (hs : Keep zz s) (tt : Nat) : Keep zz (State.prefetchTrigger s tt) := by
  unfold State.prefetchTrigger
  try dsimp only
  repeat' (first | with_reducible (first | assumption | apply Keep.when | apply Keep.forEach | apply pfStart_k) | intro _ _ _ | intro _ _)

theorem State.withdraw_k {zz s : State} (hs : Keep zz s) (n : Nat) (j : Nat) : Keep zz (State.withdraw s n j) := by
  unfold State.withdraw
  try dsimp only
  repeat' (first | with_reducible (first | assumption | apply Keep.when | apply setEng_k | apply setRelq_k) | intro _ _ _ | intro _ _ | (with_reducible apply Keep.ofMk; with_reducible refine Keep.mk ?_))

theorem State.doInDone_k {zz s : State} (hs : Keep zz s) (n : Nat) (d : Nat) : Keep zz (State.doInDone s n d) := by
  unfold State.doInDone
  try dsimp only
  repeat' (first | with_reducible (first | assumption | apply Keep.when | apply bump_k | apply setEng_k | apply putMem_k) | intro _ _ _ | intro _ _ | (with_reducible apply Keep.ofMk; with_reducible refine Keep.mk ?_))

theorem execPrefetchInDone_k {zz s : State} (hs : Keep zz s) (n : Fin 16) (d : Fin 16) : KeepO zz (execPrefetchInDone n d s) := by
  unfold execPrefetchInDone
  repeat' (first | with_reducible (first | assumption | apply KeepO.next | apply doInDone_k) | intro _ _ _ | intro _ _)

theorem State.setGlutAct_k {zz s : State} (hs : Keep zz s) (n : Nat) (k : Nat) (v : Nat) : Keep zz (State.setGlutAct s n k v) := by
  unfold State.setGlutAct
  try dsimp only
  repeat' (first | with_reducible (first | assumption | apply setEng_k) | intro _ _ _ | intro _ _ | (with_reducible apply Keep.ofMk; with_reducible refine Keep.mk ?_))

theorem State.glutSwap_k {zz s : State} (hs : Keep zz s) (n : Nat) (t : Nat) : Keep zz (State.glutSwap s n t) := by
  unfold State.glutSwap
  try dsimp only
  repeat' (first | with_reducible (first | assumption | apply Keep.forEach | apply wr_k | apply clr_k | apply setGlutAct_k) | intro _ _ _ | intro _ _)

theorem execGlutSwapRequest_k {zz s : State} (hs : Keep zz s) (n : Fin 16) (t : Fin 4) : KeepO zz (execGlutSwapRequest n t s) := by
  unfold execGlutSwapRequest
  repeat' (first | with_reducible (first | assumption | apply KeepO.next | apply set1_k | apply glutSwap_k | apply Keep.ite | apply KeepO.ite) | intro _ _ _ | intro _ _ | split)

theorem State.doTaskStart_k {zz s : State} (hs : Keep zz s) (n : Nat) : Keep zz (State.doTaskStart s n) := by
  unfold State.doTaskStart
  try dsimp only
  repeat' (first | with_reducible (first | assumption | apply Keep.when | apply Keep.forEach | apply wr_k | apply drawn_k | apply setCore_k | apply setEng_k | apply pgenMirror_k | apply setEngSt_k | apply setRelq_k | apply applyMirror_k | apply glutSwap_k) | intro _ _ _ | intro _ _ | split | dsimp only | (with_reducible apply Keep.ofMk; with_reducible refine Keep.mk ?_))

theorem execTaskStart_k {zz s : State} (hs : Keep zz s) (n : Fin 16) : KeepO zz (execTaskStart n s) := by
  unfold execTaskStart
  repeat' (first | with_reducible (first | assumption | apply KeepO.next | apply doTaskStart_k) | intro _ _ _ | intro _ _)

theorem State.doOutStage_k {zz s : State} (hs : Keep zz s) (n : Nat) : Keep zz (State.doOutStage s n) := by
  unfold State.doOutStage
  try dsimp only
  repeat' (first | with_reducible (first | assumption | apply Keep.when | apply setEng_k) | intro _ _ _ | intro _ _ | split | dsimp only | (with_reducible apply Keep.ofMk; with_reducible refine Keep.mk ?_))

theorem execOutStageDone_k {zz s : State} (hs : Keep zz s) (n : Fin 16) : KeepO zz (execOutStageDone n s) := by
  unfold execOutStageDone
  repeat' (first | with_reducible (first | assumption | apply KeepO.next | apply doOutStage_k) | intro _ _ _ | intro _ _)

theorem execPrefetchOutDone_k {zz s : State} (hs : Keep zz s) (n : Fin 16) : KeepO zz (execPrefetchOutDone n s) := by
  unfold execPrefetchOutDone
  try dsimp only
  repeat' (first | with_reducible (first | assumption | apply KeepO.next | apply setEng_k | apply putMem_k) | intro _ _ _ | intro _ _ | split | dsimp only | (with_reducible apply Keep.ofMk; with_reducible refine Keep.mk ?_))

theorem State.engEnable_k {zz s : State} (hs : Keep zz s) (n : Nat) : Keep zz (State.engEnable s n) := by
  unfold State.engEnable
  try dsimp only
  repeat' (first | with_reducible (first | assumption | apply set1_k | apply setEng_k | apply Keep.ite) | intro _ _ _ | intro _ _ | split | (with_reducible apply Keep.ofMk; with_reducible refine Keep.mk ?_))

theorem execEngineEnable_k {zz s : State} (hs : Keep zz s) (n : Fin 20) : KeepO zz (execEngineEnable n s) := by
  unfold execEngineEnable
  repeat' (first | with_reducible (first | assumption | apply KeepO.next | apply engEnable_k) | intro _ _ _ | intro _ _)

theorem execProgMemWrite_k {zz s : State} (hs : Keep zz s) (n : Fin 16) (word : Fin 16384) (v : BitVec 32) : KeepO zz (execProgMemWrite n word v s) := by
  unfold execProgMemWrite
  try dsimp only
  repeat' (first | with_reducible (first | assumption | apply KeepO.next | apply putMem_k | apply postF_k | apply Keep.ite | apply KeepO.ite) | intro _ _ _ | intro _ _ | split)

theorem State.doCrcDone_k {zz s : State} (hs : Keep zz s) (n : Nat) : Keep zz (State.doCrcDone s n) := by
  unfold State.doCrcDone
  try dsimp only
  repeat' (first | with_reducible (first | assumption | apply Keep.when | apply Keep.setReg | apply setCore_k | apply setEng_k | apply powerCheck_k | apply setEngSt_k | apply Keep.ite) | intro _ _ _ | intro _ _ | split | (with_reducible apply Keep.ofMk; with_reducible refine Keep.mk ?_))

theorem execProgCrcDone_k {zz s : State} (hs : Keep zz s) (n : Fin 20) : KeepO zz (execProgCrcDone n s) := by
  unfold execProgCrcDone
  repeat' (first | with_reducible (first | assumption | apply KeepO.next | apply doCrcDone_k) | intro _ _ _ | intro _ _)

theorem State.engDisable_k {zz s : State} (hs : Keep zz s) (n : Nat) : Keep zz (State.engDisable s n) := by
  unfold State.engDisable
  try dsimp only
  repeat' (first | with_reducible (first | assumption | apply clr_k | apply setEng_k | apply powerCheck_k | apply setEngSt_k | apply setRelq_k | apply Keep.ite) | intro _ _ _ | intro _ _ | split | (with_reducible apply Keep.ofMk; with_reducible refine Keep.mk ?_))

theorem execEngineDisable_k {zz s : State} (hs : Keep zz s) (n : Fin 20) : KeepO zz (execEngineDisable n s) := by
  unfold execEngineDisable
  repeat' (first | with_reducible (first | assumption | apply KeepO.next | apply engDisable_k) | intro _ _ _ | intro _ _)

theorem execEngineRestart_k {zz s : State} (hs : Keep zz s) (n : Fin 20) : KeepO zz (execEngineRestart n s) := by
  unfold execEngineRestart
  try dsimp only
  repeat' (first | with_reducible (first | assumption | apply KeepO.next | apply Keep.when | apply engIdle_k) | intro _ _ _ | intro _ _)

theorem execPgenInit_k {zz s : State} (hs : Keep zz s) (n : Fin 16) : KeepO zz (execPgenInit n s) := by
  unfold execPgenInit
  repeat' (first | with_reducible (first | assumption | apply KeepO.next | apply pgenInit_k) | intro _ _ _ | intro _ _)

theorem execCstopTimeout_k {zz s : State} (hs : Keep zz s)  : KeepO zz (execCstopTimeout s) := by
  unfold execCstopTimeout
  try dsimp only
  repeat' (first | with_reducible (first | assumption | apply KeepO.next | apply Keep.when | apply postF_k) | intro _ _ _ | intro _ _)

theorem State.lstStart_k {zz s : State} (hs : Keep zz s) (n : Nat) : Keep zz (State.lstStart s n) := by
  unfold State.lstStart
  try dsimp only
  repeat' (first | with_reducible (first | assumption | apply set1_k | apply bump_k | apply setCore_k | apply setEngSt_k | apply Keep.ite) | intro _ _ _ | intro _ _ | split | (with_reducible apply Keep.ofMk; with_reducible refine Keep.mk ?_))

theorem execSelfTestStart_k {zz s : State} (hs : Keep zz s) (n : Fin 20) : KeepO zz (execSelfTestStart n s) := by
  unfold execSelfTestStart
  repeat' (first | with_reducible (first | assumption | apply KeepO.next | apply lstStart_k) | intro _ _ _ | intro _ _)

theorem State.lstDone_k {zz s : State} (hs : Keep zz s) (n : Nat) (pass : Bool) : Keep zz (State.lstDone s n pass) := by
  unfold State.lstDone
  try dsimp only
  repeat' (first | with_reducible (first | assumption | apply Keep.when | apply set1_k | apply clr_k | apply irq_k | apply postF_k | apply groupSafe_k | apply engIdle_k | apply engFaulted_k | apply Keep.ite) | intro _ _ _ | intro _ _ | split)

theorem execSelfTestDone_k {zz s : State} (hs : Keep zz s) (n : Fin 20) (pass : Bool) : KeepO zz (execSelfTestDone n pass s) := by
  unfold execSelfTestDone
  repeat' (first | with_reducible (first | assumption | apply KeepO.next | apply lstDone_k) | intro _ _ _ | intro _ _)

theorem State.migrateRefuse_k {zz s : State} (hs : Keep zz s)  : Keep zz (State.migrateRefuse s) := by
  unfold State.migrateRefuse
  repeat' (first | with_reducible (first | assumption | apply set1_k | apply postF_k) | intro _ _ _ | intro _ _)

theorem State.doMigrate_k {zz s : State} (hs : Keep zz s) (a : Nat) (b : Nat) : Keep zz (State.doMigrate s a b) := by
  unfold State.doMigrate
  try dsimp only
  repeat' (first | with_reducible (first | assumption | apply wr_k | apply set1_k | apply setEng_k | apply migrateRefuse_k | apply Keep.ite) | intro _ _ _ | intro _ _ | split | (with_reducible apply Keep.ofMk; with_reducible refine Keep.mk ?_))

theorem execMigrateRequest_k {zz s : State} (hs : Keep zz s) (src : Fin 16) (dst : Fin 16) : KeepO zz (execMigrateRequest src dst s) := by
  unfold execMigrateRequest
  repeat' (first | with_reducible (first | assumption | apply KeepO.next | apply doMigrate_k) | intro _ _ _ | intro _ _)

theorem State.migrateCycle_k {zz s : State} (hs : Keep zz s)  : Keep zz (State.migrateCycle s) := by
  unfold State.migrateCycle
  try dsimp only
  repeat' (first | with_reducible (first | assumption | apply Keep.when | apply clr_k | apply setEng_k | apply setRelq_k | apply migrateRefuse_k | apply Keep.ite) | intro _ _ _ | intro _ _ | split | dsimp only | (with_reducible apply Keep.ofMk; with_reducible refine Keep.mk ?_))

theorem State.copyReg_k {zz s : State} (hs : Keep zz s) (x : Nat) (y : Nat) : Keep zz (State.copyReg s x y) := by
  unfold State.copyReg
  repeat' (first | with_reducible (first | assumption | apply Keep.setReg) | intro _ _ _ | intro _ _)

theorem State.doCopyDone_k {zz s : State} (hs : Keep zz s)  : Keep zz (State.doCopyDone s) := by
  unfold State.doCopyDone
  try dsimp only
  repeat' (first | with_reducible (first | assumption | apply Keep.when | apply Keep.forEach | apply wr_k | apply set1_k | apply clr_k | apply setEng_k | apply putMem_k | apply irq_k | apply release_k | apply copyReg_k) | intro _ _ _ | intro _ _ | split | dsimp only | (with_reducible apply Keep.ofMk; with_reducible refine Keep.mk ?_))

theorem execMigrationCopyDone_k {zz s : State} (hs : Keep zz s)  : KeepO zz (execMigrationCopyDone s) := by
  unfold execMigrationCopyDone
  repeat' (first | with_reducible (first | assumption | apply KeepO.next | apply doCopyDone_k) | intro _ _ _ | intro _ _)

end Sys2Proof.Machine
end

