-- ==== Sys2Proof/Laws/KeepClocks.lean ====
section
/-! SUPPORT. Laws/KeepClocks.lean: the operations and commands of Machine/Clocks.lean keep the invariant and the command queue. -/
namespace Sys2Proof.Machine
open State

theorem State.setPll_k {zz s : State} (hs : Keep zz s) (p : Nat) (x : PllH) : Keep zz (State.setPll s p x) := by
  unfold State.setPll
  repeat' (first | with_reducible (first | assumption | apply setSys_k | apply Keep.ite) | intro _ _ _ | intro _ _ | split | (with_reducible apply Keep.ofMk; with_reducible refine Keep.mk ?_))

theorem State.pllAgain_k {zz s : State} (hs : Keep zz s) (p : Nat) (relock : Bool) : Keep zz (State.pllAgain s p relock) := by
  unfold State.pllAgain
  repeat' (first | with_reducible (first | assumption | apply setPll_k) | intro _ _ _ | intro _ _ | (with_reducible apply Keep.ofMk; with_reducible refine Keep.mk ?_))

theorem State.pllWindow_k {zz s : State} (hs : Keep zz s) (p : Nat) : Keep zz (State.pllWindow s p) := by
  unfold State.pllWindow
  repeat' (first | with_reducible (first | assumption | apply setPll_k) | intro _ _ _ | intro _ _ | (with_reducible apply Keep.ofMk; with_reducible refine Keep.mk ?_))

theorem State.limpEnter_k {zz s : State} (hs : Keep zz s)  : Keep zz (State.limpEnter s) := by
  unfold State.limpEnter
  try dsimp only
  repeat' (first | with_reducible (first | assumption | apply Keep.when | apply Keep.forEach | apply wr_k | apply set1_k | apply clr_k | apply laneDown_k | apply powerCheck_k | apply doDebugHalt_k) | intro _ _ _ | intro _ _)

theorem State.limpExit_k {zz s : State} (hs : Keep zz s)  : Keep zz (State.limpExit s) := by
  unfold State.limpExit
  try dsimp only
  repeat' (first | with_reducible (first | assumption | apply wr_k | apply set1_k | apply clr_k | apply lanesTry_k) | intro _ _ _ | intro _ _)

theorem State.lockLost_k {zz s : State} (hs : Keep zz s) (p : Nat) : Keep zz (State.lockLost s p) := by
  unfold State.lockLost
  try dsimp only
  repeat' (first | with_reducible (first | assumption | apply Keep.when | apply clr_k | apply bump_k | apply postF_k | apply pllAgain_k | apply limpEnter_k) | intro _ _ _ | intro _ _)

theorem State.adpllOn_k {zz s : State} (hs : Keep zz s) (p : Nat) : Keep zz (State.adpllOn s p) := by
  unfold State.adpllOn
  try dsimp only
  repeat' (first | with_reducible (first | assumption | apply Keep.when | apply wr_k | apply set1_k | apply pllAgain_k | apply pllWindow_k) | intro _ _ _ | intro _ _)

theorem State.adpllOff_k {zz s : State} (hs : Keep zz s) (p : Nat) : Keep zz (State.adpllOff s p) := by
  unfold State.adpllOff
  try dsimp only
  repeat' (first | with_reducible (first | assumption | apply Keep.when | apply clr_k | apply setSys_k | apply pllAgain_k | apply lockLost_k | apply Keep.ite) | intro _ _ _ | intro _ _ | split | (with_reducible apply Keep.ofMk; with_reducible refine Keep.mk ?_))

theorem execSysAdpllEnable_k {zz s : State} (hs : Keep zz s)  : KeepO zz (execSysAdpllEnable s) := by
  unfold execSysAdpllEnable
  repeat' (first | with_reducible (first | assumption | apply KeepO.next | apply adpllOn_k) | intro _ _ _ | intro _ _)

theorem execTbAdpllEnable_k {zz s : State} (hs : Keep zz s)  : KeepO zz (execTbAdpllEnable s) := by
  unfold execTbAdpllEnable
  repeat' (first | with_reducible (first | assumption | apply KeepO.next | apply adpllOn_k) | intro _ _ _ | intro _ _)

theorem State.lockRise_k {zz s : State} (hs : Keep zz s) (p : Nat) : Keep zz (State.lockRise s p) := by
  unfold State.lockRise
  try dsimp only
  repeat' (first | with_reducible (first | assumption | apply Keep.when | apply set1_k | apply clr_k | apply wrFree_k | apply setSys_k | apply pllAgain_k | apply limpExit_k) | intro _ _ _ | intro _ _ | (with_reducible apply Keep.ofMk; with_reducible refine Keep.mk ?_))

theorem State.judge_k {zz s : State} (hs : Keep zz s) (p : Nat) (count : Nat) : Keep zz (State.judge s p count) := by
  unfold State.judge
  try dsimp only
  repeat' (first | with_reducible (first | assumption | apply Keep.when | apply setPll_k | apply lockLost_k | apply lockRise_k | apply Keep.ite) | intro _ _ _ | intro _ _ | split | (with_reducible apply Keep.ofMk; with_reducible refine Keep.mk ?_))

theorem State.doWindow_k {zz s : State} (hs : Keep zz s) (p : Nat) (count : Nat) : Keep zz (State.doWindow s p count) := by
  unfold State.doWindow
  try dsimp only
  repeat' (first | with_reducible (first | assumption | apply Keep.when | apply set1_k | apply setSys_k | apply pllWindow_k | apply judge_k | apply Keep.ite) | intro _ _ _ | intro _ _ | split | (with_reducible apply Keep.ofMk; with_reducible refine Keep.mk ?_))

theorem State.refSwitch_k {zz s : State} (hs : Keep zz s) (r : Nat) : Keep zz (State.refSwitch s r) := by
  unfold State.refSwitch
  try dsimp only
  repeat' (first | with_reducible (first | assumption | apply set1_k | apply setSys_k) | intro _ _ _ | intro _ _ | (with_reducible apply Keep.ofMk; with_reducible refine Keep.mk ?_))

theorem State.coast_k {zz s : State} (hs : Keep zz s) (p : Nat) : Keep zz (State.coast s p) := by
  unfold State.coast
  try dsimp only
  repeat' (first | with_reducible (first | assumption | apply set1_k | apply bump_k | apply postF_k | apply pllAgain_k | apply Keep.ite) | intro _ _ _ | intro _ _ | split)

theorem State.doRefLoss_k {zz s : State} (hs : Keep zz s) (r : Nat) : Keep zz (State.doRefLoss s r) := by
  unfold State.doRefLoss
  try dsimp only
  repeat' (first | with_reducible (first | assumption | apply Keep.when | apply clr_k | apply setSys_k | apply postF_k | apply refSwitch_k | apply coast_k | apply Keep.ite) | intro _ _ _ | intro _ _ | split | (with_reducible apply Keep.ofMk; with_reducible refine Keep.mk ?_))

theorem execRefLoss_k {zz s : State} (hs : Keep zz s) (r : Fin 2) : KeepO zz (execRefLoss r s) := by
  unfold execRefLoss
  repeat' (first | with_reducible (first | assumption | apply KeepO.next | apply doRefLoss_k) | intro _ _ _ | intro _ _)

theorem State.phaseJump_k {zz s : State} (hs : Keep zz s) (r : Nat) (j : Nat) : Keep zz (State.phaseJump s r j) := by
  unfold State.phaseJump
  try dsimp only
  repeat' (first | with_reducible (first | assumption | apply wr_k | apply set1_k | apply post_k | apply pllAgain_k) | intro _ _ _ | intro _ _)

theorem State.doRefQualified_k {zz s : State} (hs : Keep zz s) (r : Nat) (j : Nat) : Keep zz (State.doRefQualified s r j) := by
  unfold State.doRefQualified
  try dsimp only
  repeat' (first | with_reducible (first | assumption | apply Keep.when | apply set1_k | apply pllAgain_k | apply phaseJump_k) | intro _ _ _ | intro _ _)

theorem execRefQualified_k {zz s : State} (hs : Keep zz s) (r : Fin 2) (j : BitVec 24) : KeepO zz (execRefQualified r j s) := by
  unfold execRefQualified
  repeat' (first | with_reducible (first | assumption | apply KeepO.next | apply doRefQualified_k) | intro _ _ _ | intro _ _)

theorem State.tbSrc_k {zz s : State} (hs : Keep zz s) (r : Nat) : Keep zz (State.tbSrc s r) := by
  unfold State.tbSrc
  try dsimp only
  repeat' (first | with_reducible (first | assumption | apply Keep.when | apply wr_k | apply refSwitch_k | apply Keep.ite) | intro _ _ _ | intro _ _ | split)

theorem execTbRefSwitch_k {zz s : State} (hs : Keep zz s) (r : Fin 2) : KeepO zz (execTbRefSwitch r s) := by
  unfold execTbRefSwitch
  repeat' (first | with_reducible (first | assumption | apply KeepO.next | apply tbSrc_k) | intro _ _ _ | intro _ _)

theorem State.refSwitchDone_k {zz s : State} (hs : Keep zz s) (j : Nat) : Keep zz (State.refSwitchDone s j) := by
  unfold State.refSwitchDone
  try dsimp only
  repeat' (first | with_reducible (first | assumption | apply Keep.when | apply wr_k | apply set1_k | apply clr_k | apply setSys_k | apply phaseJump_k) | intro _ _ _ | intro _ _ | split | dsimp only | (with_reducible apply Keep.ofMk; with_reducible refine Keep.mk ?_))

theorem execTbRefSwitchDone_k {zz s : State} (hs : Keep zz s) (j : BitVec 24) : KeepO zz (execTbRefSwitchDone j s) := by
  unfold execTbRefSwitchDone
  repeat' (first | with_reducible (first | assumption | apply KeepO.next | apply refSwitchDone_k) | intro _ _ _ | intro _ _)

theorem State.sysRefused_k {zz s : State} (hs : Keep zz s) (why : Nat) : Keep zz (State.sysRefused s why) := by
  unfold State.sysRefused
  repeat' (first | with_reducible (first | assumption | apply wr_k | apply set1_k | apply post_k) | intro _ _ _ | intro _ _)

theorem State.rampStart_k {zz s : State} (hs : Keep zz s) (khz : Nat) : Keep zz (State.rampStart s khz) := by
  unfold State.rampStart
  repeat' (first | with_reducible (first | assumption | apply set1_k | apply setSys_k) | intro _ _ _ | intro _ _ | (with_reducible apply Keep.ofMk; with_reducible refine Keep.mk ?_))

theorem State.sysRampGo_k {zz s : State} (hs : Keep zz s)  : Keep zz (State.sysRampGo s) := by
  unfold State.sysRampGo
  try dsimp only
  repeat' (first | with_reducible (first | assumption | apply sysRefused_k | apply rampStart_k | apply Keep.ite) | intro _ _ _ | intro _ _ | split)

theorem execSysRampGo_k {zz s : State} (hs : Keep zz s)  : KeepO zz (execSysRampGo s) := by
  unfold execSysRampGo
  repeat' (first | with_reducible (first | assumption | apply KeepO.next | apply sysRampGo_k) | intro _ _ _ | intro _ _)

theorem State.sysRampDone_k {zz s : State} (hs : Keep zz s)  : Keep zz (State.sysRampDone s) := by
  unfold State.sysRampDone
  try dsimp only
  repeat' (first | with_reducible (first | assumption | apply Keep.when | apply wr_k | apply set1_k | apply clr_k) | intro _ _ _ | intro _ _)

theorem execSysRampDone_k {zz s : State} (hs : Keep zz s)  : KeepO zz (execSysRampDone s) := by
  unfold execSysRampDone
  repeat' (first | with_reducible (first | assumption | apply KeepO.next | apply sysRampDone_k) | intro _ _ _ | intro _ _)

theorem State.spreadSet_k {zz s : State} (hs : Keep zz s) (en : Bool) (d : Nat) : Keep zz (State.spreadSet s en d) := by
  unfold State.spreadSet
  repeat' (first | with_reducible (first | assumption | apply wr_k) | intro _ _ _ | intro _ _)

theorem State.spreadWrite_k {zz s : State} (hs : Keep zz s) (en : Bool) (d : Nat) : Keep zz (State.spreadWrite s en d) := by
  unfold State.spreadWrite
  repeat' (first | with_reducible (first | assumption | apply reserved_k | apply sysRefused_k | apply spreadSet_k | apply Keep.ite) | intro _ _ _ | intro _ _ | split)

theorem execSpreadRequest_k {zz s : State} (hs : Keep zz s) (en : Bool) (depth : BitVec 7) : KeepO zz (execSpreadRequest en depth s) := by
  unfold execSpreadRequest
  repeat' (first | with_reducible (first | assumption | apply KeepO.next | apply spreadWrite_k) | intro _ _ _ | intro _ _)

theorem State.tbRampGo_k {zz s : State} (hs : Keep zz s)  : Keep zz (State.tbRampGo s) := by
  unfold State.tbRampGo
  try dsimp only
  repeat' (first | with_reducible (first | assumption | apply wr_k | apply set1_k | apply setSys_k | apply post_k | apply Keep.ite) | intro _ _ _ | intro _ _ | split | (with_reducible apply Keep.ofMk; with_reducible refine Keep.mk ?_))

theorem execTbRampGo_k {zz s : State} (hs : Keep zz s)  : KeepO zz (execTbRampGo s) := by
  unfold execTbRampGo
  repeat' (first | with_reducible (first | assumption | apply KeepO.next | apply tbRampGo_k) | intro _ _ _ | intro _ _)

theorem execTbRampDone_k {zz s : State} (hs : Keep zz s)  : KeepO zz (execTbRampDone s) := by
  unfold execTbRampDone
  try dsimp only
  repeat' (first | with_reducible (first | assumption | apply KeepO.next | apply Keep.when | apply set1_k | apply clr_k | apply setSys_k) | intro _ _ _ | intro _ _ | (with_reducible apply Keep.ofMk; with_reducible refine Keep.mk ?_))

theorem execDllLock_k {zz s : State} (hs : Keep zz s)  : KeepO zz (execDllLock s) := by
  unfold execDllLock
  try dsimp only
  repeat' (first | with_reducible (first | assumption | apply KeepO.next | apply Keep.when | apply set1_k) | intro _ _ _ | intro _ _)

theorem execDllLost_k {zz s : State} (hs : Keep zz s)  : KeepO zz (execDllLost s) := by
  unfold execDllLost
  try dsimp only
  repeat' (first | with_reducible (first | assumption | apply KeepO.next | apply Keep.when | apply clr_k | apply postF_k) | intro _ _ _ | intro _ _)

theorem execBootLockRetry_k {zz s : State} (hs : Keep zz s)  : KeepO zz (execBootLockRetry s) := by
  unfold execBootLockRetry
  try dsimp only
  repeat' (first | with_reducible (first | assumption | apply KeepO.next | apply Keep.when | apply postF_k | apply pllAgain_k | apply pllWindow_k) | intro _ _ _ | intro _ _)

theorem State.slewEnd_k {zz s : State} (hs : Keep zz s)  : Keep zz (State.slewEnd s) := by
  unfold State.slewEnd
  repeat' (first | with_reducible (first | assumption | apply set1_k | apply clr_k | apply setSys_k) | intro _ _ _ | intro _ _ | (with_reducible apply Keep.ofMk; with_reducible refine Keep.mk ?_))

theorem State.idle_k {zz s : State} (hs : Keep zz s)  : Keep zz (State.idle s) := by
  unfold State.idle
  try dsimp only
  repeat' (first | with_reducible (first | assumption | apply Keep.when | apply setSys_k | apply setTb_k | apply slewEnd_k) | intro _ _ _ | intro _ _ | (with_reducible apply Keep.ofMk; with_reducible refine Keep.mk ?_))

theorem State.slewGo_k {zz s : State} (hs : Keep zz s)  : Keep zz (State.slewGo s) := by
  unfold State.slewGo
  try dsimp only
  repeat' (first | with_reducible (first | assumption | apply Keep.when | apply set1_k | apply setSys_k | apply reserved_k | apply slewEnd_k | apply Keep.ite) | intro _ _ _ | intro _ _ | split | (with_reducible apply Keep.ofMk; with_reducible refine Keep.mk ?_))

theorem execSlewGo_k {zz s : State} (hs : Keep zz s)  : KeepO zz (execSlewGo s) := by
  unfold execSlewGo
  repeat' (first | with_reducible (first | assumption | apply KeepO.next | apply slewGo_k) | intro _ _ _ | intro _ _)

theorem State.slewStop_k {zz s : State} (hs : Keep zz s)  : Keep zz (State.slewStop s) := by
  unfold State.slewStop
  repeat' (first | with_reducible (first | assumption | apply clr_k) | intro _ _ _ | intro _ _)

theorem execSlewStop_k {zz s : State} (hs : Keep zz s)  : KeepO zz (execSlewStop s) := by
  unfold execSlewStop
  repeat' (first | with_reducible (first | assumption | apply KeepO.next | apply slewStop_k) | intro _ _ _ | intro _ _)

theorem State.slewDone_k {zz s : State} (hs : Keep zz s)  : Keep zz (State.slewDone s) := by
  unfold State.slewDone
  try dsimp only
  repeat' (first | with_reducible (first | assumption | apply Keep.when | apply setTb_k | apply slewEnd_k) | intro _ _ _ | intro _ _)

theorem execSlewDone_k {zz s : State} (hs : Keep zz s)  : KeepO zz (execSlewDone s) := by
  unfold execSlewDone
  repeat' (first | with_reducible (first | assumption | apply KeepO.next | apply slewDone_k) | intro _ _ _ | intro _ _)

theorem State.nowRead_k {zz s : State} (hs : Keep zz s)  : Keep zz (State.nowRead s) := by
  unfold State.nowRead
  try dsimp only
  repeat' (first | with_reducible (first | assumption | apply Keep.setReg | apply wr_k) | intro _ _ _ | intro _ _)

theorem execTimebaseSnapshotRead_k {zz s : State} (hs : Keep zz s)  : KeepO zz (execTimebaseSnapshotRead s) := by
  unfold execTimebaseSnapshotRead
  repeat' (first | with_reducible (first | assumption | apply KeepO.next | apply nowRead_k) | intro _ _ _ | intro _ _)

theorem State.ttArm_k {zz s : State} (hs : Keep zz s) (t : Nat) : Keep zz (State.ttArm s t) := by
  unfold State.ttArm
  try dsimp only
  repeat' (first | with_reducible (first | assumption | apply setTt_k | apply Keep.ite) | intro _ _ _ | intro _ _ | split)

theorem State.ttDue_k {zz s : State} (hs : Keep zz s) (t : Nat) (at16 : Nat) : Keep zz (State.ttDue s t at16) := by
  unfold State.ttDue
  try dsimp only
  repeat' (first | with_reducible (first | assumption | apply setTt_k) | intro _ _ _ | intro _ _ | (with_reducible apply Keep.ofMk; with_reducible refine Keep.mk ?_))

theorem State.dropCycleDues_k {zz s : State} (hs : Keep zz s)  : Keep zz (State.dropCycleDues s) := by
  unfold State.dropCycleDues
  try dsimp only
  repeat' (first | with_reducible (first | assumption | apply Keep.when | apply Keep.forEach | apply setTt_k) | intro _ _ _ | intro _ _ | (with_reducible apply Keep.ofMk; with_reducible refine Keep.mk ?_))

theorem State.ttCycle_k {zz s : State} (hs : Keep zz s)  : Keep zz (State.ttCycle s) := by
  unfold State.ttCycle
  try dsimp only
  repeat' (first | with_reducible (first | assumption | apply Keep.when | apply Keep.forEach | apply ttDue_k) | intro _ _ _ | intro _ _)

theorem State.ttSwap_k {zz s : State} (hs : Keep zz s) (c : Nat) : Keep zz (State.ttSwap s c) := by
  unfold State.ttSwap
  try dsimp only
  repeat' (first | with_reducible (first | assumption | apply Keep.when | apply Keep.forEach | apply ttDue_k) | intro _ _ _ | intro _ _)

theorem State.trigPush_k {z s : State} (hs : Keep z s) (t : Nat) : Keep z (s.trigPush t) := by
  unfold State.trigPush
  apply Keep.when hs
  intro u hu
  split
  · rename_i h
    exact ⟨fun x => ⟨(hu.1 x).1, (hu.1 x).2.1, by simp [State.tracked]; omega, (hu.1 x).2.2.2⟩, hu.2⟩
  · exact State.post_k (State.bump_k hu _) _ _ _ _ _ _

theorem trigTake_le {t : Nat} {c : TrigE → Bool} {f : TrigE → TrigE} {l q : List TrigE} (h : trigTake t c f l = some q) :
    q.length ≤ l.length := by
  induction l generalizing q with
  | nil => simp [trigTake] at h
  | cons e r ih =>
    simp only [trigTake] at h
    split at h
    · simp only [Option.some.injEq] at h
      subst h
      split <;> simp
    · cases hr : trigTake t c f r with
      | none => simp [hr] at h
      | some p =>
        simp only [hr, Option.map_some, Option.some.injEq] at h
        subst h
        simpa using ih hr

theorem Keep.trigq {z s : State} (hs : Keep z s) {q : List TrigE} (h : q.length ≤ s.trigq.length) : Keep z { s with trigq := q } :=
  ⟨fun x => ⟨(hs.1 x).1, (hs.1 x).2.1, Nat.le_trans h (hs.1 x).2.2.1, (hs.1 x).2.2.2⟩, hs.2⟩

theorem execTaskRelease_k {z s : State} (hs : Keep z s) (tt : Fin 32) : KeepO z (execTaskRelease tt s) := by
  unfold execTaskRelease
  apply KeepO.next
  split
  · exact hs
  · rename_i q h
    exact State.taskRelease_k (Keep.trigq hs (trigTake_le h)) _

theorem execPrefetchInStart_k {z s : State} (hs : Keep z s) (tt : Fin 32) : KeepO z (execPrefetchInStart tt s) := by
  unfold execPrefetchInStart
  apply KeepO.next
  split
  · exact hs
  · rename_i q h
    exact State.prefetchTrigger_k (Keep.trigq hs (trigTake_le h)) _

theorem State.canCount_k {zz s : State} (hs : Keep zz s) (m : Nat) (p : Nat) : Keep zz (State.canCount s m p) := by
  unfold State.canCount
  try dsimp only
  repeat' (first | with_reducible (first | assumption | apply Keep.when | apply Keep.setReg | apply setCan_k) | intro _ _ _ | intro _ _ | (with_reducible apply Keep.ofMk; with_reducible refine Keep.mk ?_))

theorem State.canIr_k {zz s : State} (hs : Keep zz s) (m : Nat) (b : Nat) : Keep zz (State.canIr s m b) := by
  unfold State.canIr
  try dsimp only
  repeat' (first | with_reducible (first | assumption | apply Keep.when | apply setBit_k | apply irq_k) | intro _ _ _ | intro _ _)

theorem State.tscap_k {zz s : State} (hs : Keep zz s) (m : Nat) (p : Nat) : Keep zz (State.tscap s m p) := by
  unfold State.tscap
  try dsimp only
  repeat' (first | with_reducible (first | assumption | apply Keep.setReg | apply set1_k | apply canCount_k | apply canIr_k) | intro _ _ _ | intro _ _)

theorem State.ttFire_k {zz s : State} (hs : Keep zz s) (t : Nat) : Keep zz (State.ttFire s t) := by
  unfold State.ttFire
  try dsimp only
  repeat' (first | with_reducible (first | assumption | apply Keep.when | apply Keep.forEach | apply Keep.setReg | apply set1_k | apply drawn_k | apply setSys_k | apply irq_k | apply trcTt_k | apply wake_k | apply adcEvent_k | apply adcWindows_k | apply trigPush_k | apply tscap_k | apply Keep.ite) | intro _ _ _ | intro _ _ | split | (with_reducible apply Keep.ofMk; with_reducible refine Keep.mk ?_))

theorem State.doTtEvent_k {zz s : State} (hs : Keep zz s) (t : Nat) : Keep zz (State.doTtEvent s t) := by
  unfold State.doTtEvent
  try dsimp only
  repeat' (first | with_reducible (first | assumption | apply setTt_k | apply timeTo_k | apply ttFire_k | apply Keep.ite) | intro _ _ _ | intro _ _ | split | dsimp only | (with_reducible apply Keep.ofMk; with_reducible refine Keep.mk ?_))

theorem execTtEvent_k {zz s : State} (hs : Keep zz s) (t : Fin 32) : KeepO zz (execTtEvent t s) := by
  unfold execTtEvent
  try dsimp only
  repeat' (first | with_reducible (first | assumption | apply KeepO.next | apply Keep.when | apply doTtEvent_k) | intro _ _ _ | intro _ _)

theorem State.ppsEval_k {zz s : State} (hs : Keep zz s)  : Keep zz (State.ppsEval s) := by
  unfold State.ppsEval
  try dsimp only
  repeat' (first | with_reducible (first | assumption | apply Keep.when | apply setSys_k) | intro _ _ _ | intro _ _ | (with_reducible apply Keep.ofMk; with_reducible refine Keep.mk ?_))

theorem State.ttWrite_k {zz s : State} (hs : Keep zz s) (t : Nat) (w : Nat) : Keep zz (State.ttWrite s t w) := by
  unfold State.ttWrite
  try dsimp only
  repeat' (first | with_reducible (first | assumption | apply Keep.when | apply Keep.setReg | apply reserved_k | apply ttArm_k | apply doTtEvent_k | apply ppsEval_k | apply Keep.ite) | intro _ _ _ | intro _ _ | split)

theorem execTtArm_k {zz s : State} (hs : Keep zz s) (t : Fin 32) (w : BitVec 32) : KeepO zz (execTtArm t w s) := by
  unfold execTtArm
  repeat' (first | with_reducible (first | assumption | apply KeepO.next | apply ttWrite_k) | intro _ _ _ | intro _ _)

theorem execPpsWidthEnd_k {zz s : State} (hs : Keep zz s)  : KeepO zz (execPpsWidthEnd s) := by
  unfold execPpsWidthEnd
  repeat' (first | with_reducible (first | assumption | apply KeepO.next | apply setSys_k) | intro _ _ _ | intro _ _ | (with_reducible apply Keep.ofMk; with_reducible refine Keep.mk ?_))

theorem State.tbSet_k {zz s : State} (hs : Keep zz s)  : Keep zz (State.tbSet s) := by
  unfold State.tbSet
  try dsimp only
  repeat' (first | with_reducible (first | assumption | apply Keep.when | apply Keep.forEach | apply clr_k | apply setTt_k | apply setSys_k | apply setTb_k | apply reserved_k | apply setIsl_k | apply Keep.ite) | intro _ _ _ | intro _ _ | split | (with_reducible apply Keep.ofMk; with_reducible refine Keep.mk ?_))

theorem execTimebaseSet_k {zz s : State} (hs : Keep zz s)  : KeepO zz (execTimebaseSet s) := by
  unfold execTimebaseSet
  repeat' (first | with_reducible (first | assumption | apply KeepO.next | apply tbSet_k) | intro _ _ _ | intro _ _)

theorem execCaptureEdge_k {zz s : State} (hs : Keep zz s) (k : Fin 8) (rising : Bool) (q : Fin 8) : KeepO zz (execCaptureEdge k rising q s) := by
  unfold execCaptureEdge
  repeat' (first | with_reducible (first | assumption | apply KeepO.next | apply doCapture_k) | intro _ _ _ | intro _ _)

end Sys2Proof.Machine
end

