-- ==== Sys2Proof/Laws/KeepNvc.lean ====
section
/-! SUPPORT. Laws/KeepNvc.lean: the operations and commands of Machine/Nvc.lean keep the invariant and the command queue. -/
namespace Sys2Proof.Machine
open State

theorem State.nvWrite_k {zz s : State} (hs : Keep zz s) (a : Nat) (bs : List Byte) : Keep zz (State.nvWrite s a bs) := by
  unfold State.nvWrite
  repeat' (first | with_reducible (first | assumption | apply locked_k | apply nvPut_k | apply Keep.ite) | intro _ _ _ | intro _ _ | split)

theorem State.nvWriteWord_k {zz s : State} (hs : Keep zz s) (w : Nat) (v : Nat) (be : Nat) : Keep zz (State.nvWriteWord s w v be) := by
  unfold State.nvWriteWord
  try dsimp only
  repeat' (first | with_reducible (first | assumption | apply locked_k | apply nvPut_k | apply Keep.ite) | intro _ _ _ | intro _ _ | split)

theorem execMramWrite_k {zz s : State} (hs : Keep zz s) (w : Fin 524288) (v : BitVec 64) (be : BitVec 8) : KeepO zz (execMramWrite w v be s) := by
  unfold execMramWrite
  repeat' (first | with_reducible (first | assumption | apply KeepO.next | apply nvWriteWord_k) | intro _ _ _ | intro _ _)

theorem State.doScrub_k {zz s : State} (hs : Keep zz s) (err : Nat) : Keep zz (State.doScrub s err) := by
  unfold State.doScrub
  try dsimp only
  repeat' (first | with_reducible (first | assumption | apply Keep.when | apply Keep.setReg | apply wr_k | apply set1_k | apply clr_k | apply bump_k | apply setSys_k | apply post_k | apply nvPut_k | apply Keep.ite) | intro _ _ _ | intro _ _ | split | (with_reducible apply Keep.ofMk; with_reducible refine Keep.mk ?_))

theorem execScrubRead_k {zz s : State} (hs : Keep zz s) (err : Fin 3) : KeepO zz (execScrubRead err s) := by
  unfold execScrubRead
  repeat' (first | with_reducible (first | assumption | apply KeepO.next | apply doScrub_k) | intro _ _ _ | intro _ _)

theorem State.nvBadRead_k {zz s : State} (hs : Keep zz s) (a : Nat) : Keep zz (State.nvBadRead s a).2 := by
  unfold State.nvBadRead
  try dsimp only
  repeat' (first | with_reducible (first | assumption | apply post_k | apply Keep.ite) | intro _ _ _ | intro _ _ | split | dsimp only)

end Sys2Proof.Machine
end

