-- ==== Sys2Proof/Laws/KeepAgeing.lean ====
section
/-! SUPPORT. Laws/KeepAgeing.lean: the operations and commands of Machine/Ageing.lean keep the invariant and the command queue. -/
namespace Sys2Proof.Machine
open State

theorem execRoStart_k {zz s : State} (hs : Keep zz s)  : KeepO zz (execRoStart s) := by
  unfold execRoStart
  repeat' (first | with_reducible (first | assumption | apply KeepO.next | apply set1_k) | intro _ _ _ | intro _ _)

theorem execRoDone_k {zz s : State} (hs : Keep zz s) (counts : List (BitVec 24)) : KeepO zz (execRoDone counts s) := by
  unfold execRoDone
  try dsimp only
  repeat' (first | with_reducible (first | assumption | apply KeepO.next | apply KeepO.fault | apply Keep.when | apply Keep.forEach | apply wr_k | apply set1_k | apply clr_k | apply Keep.ite | apply KeepO.ite) | intro _ _ _ | intro _ _ | split)

theorem State.srmStart_k {zz s : State} (hs : Keep zz s)  : Keep zz (State.srmStart s) := by
  unfold State.srmStart
  try dsimp only
  repeat' (first | with_reducible (first | assumption | apply Keep.when | apply set1_k) | intro _ _ _ | intro _ _ | (with_reducible apply Keep.ofMk; with_reducible refine Keep.mk ?_))

theorem execSrmStart_k {zz s : State} (hs : Keep zz s)  : KeepO zz (execSrmStart s) := by
  unfold execSrmStart
  repeat' (first | with_reducible (first | assumption | apply KeepO.next | apply srmStart_k) | intro _ _ _ | intro _ _)

theorem execSrmDone_k {zz s : State} (hs : Keep zz s) (steps : BitVec 6) : KeepO zz (execSrmDone steps s) := by
  unfold execSrmDone
  try dsimp only
  repeat' (first | with_reducible (first | assumption | apply KeepO.next | apply Keep.when | apply wr_k | apply set1_k | apply clr_k) | intro _ _ _ | intro _ _)

theorem State.doBandgap_k {zz s : State} (hs : Keep zz s) (d : Int) : Keep zz (State.doBandgap s d) := by
  unfold State.doBandgap
  try dsimp only
  repeat' (first | with_reducible (first | assumption | apply wr_k | apply set1_k) | intro _ _ _ | intro _ _ | (with_reducible apply Keep.ofMk; with_reducible refine Keep.mk ?_))

theorem execBandgapMeasure_k {zz s : State} (hs : Keep zz s) (ppm : BitVec 16) : KeepO zz (execBandgapMeasure ppm s) := by
  unfold execBandgapMeasure
  try dsimp only
  repeat' (first | with_reducible (first | assumption | apply KeepO.next | apply Keep.when | apply doBandgap_k) | intro _ _ _ | intro _ _)

theorem State.lkqRead_k {zz s : State} (hs : Keep zz s)  : Keep zz (State.lkqRead s).2 := by
  unfold State.lkqRead
  try dsimp only
  repeat' (first | with_reducible (first | assumption | apply wr_k) | intro _ _ _ | intro _ _ | split | dsimp only | (with_reducible apply Keep.ofMk; with_reducible refine Keep.mk ?_))

theorem execLkqRead_k {zz s : State} (hs : Keep zz s)  : KeepO zz (execLkqRead s) := by
  unfold execLkqRead
  repeat' (first | with_reducible (first | assumption | apply KeepO.next | apply lkqRead_k) | intro _ _ _ | intro _ _)

theorem State.recHead_k {zz s : State} (hs : Keep zz s)  : Keep zz (State.recHead s) := by
  unfold State.recHead
  repeat' (first | with_reducible (first | assumption | apply wr_k) | intro _ _ _ | intro _ _)

theorem State.recAppend_k {zz s : State} (hs : Keep zz s) (b : List Byte) : Keep zz (State.recAppend s b) := by
  unfold State.recAppend
  try dsimp only
  repeat' (first | with_reducible (first | assumption | apply Keep.when | apply wr_k | apply post_k | apply nvPut_k) | intro _ _ _ | intro _ _)

theorem State.recCommit_k {zz s : State} (hs : Keep zz s)  : Keep zz (State.recCommit s) := by
  unfold State.recCommit
  try dsimp only
  repeat' (first | with_reducible (first | assumption | apply set1_k | apply post_k | apply recAppend_k | apply Keep.ite) | intro _ _ _ | intro _ _ | split | (with_reducible apply Keep.ofMk; with_reducible refine Keep.mk ?_))

theorem execRecordCommit_k {zz s : State} (hs : Keep zz s)  : KeepO zz (execRecordCommit s) := by
  unfold execRecordCommit
  repeat' (first | with_reducible (first | assumption | apply KeepO.next | apply recCommit_k) | intro _ _ _ | intro _ _)

theorem State.recResume_k {zz s : State} (hs : Keep zz s)  : Keep zz (State.recResume s) := by
  unfold State.recResume
  try dsimp only
  repeat' (first | with_reducible (first | assumption | apply clr_k | apply recAppend_k) | intro _ _ _ | intro _ _ | split | dsimp only | (with_reducible apply Keep.ofMk; with_reducible refine Keep.mk ?_))

theorem execHourTick_k {zz s : State} (hs : Keep zz s)  : KeepO zz (execHourTick s) := by
  unfold execHourTick
  repeat' (first | with_reducible (first | assumption | apply KeepO.next | apply Keep.setReg) | intro _ _ _ | intro _ _)

theorem execEnvLockSet_k {zz s : State} (hs : Keep zz s)  : KeepO zz (execEnvLockSet s) := by
  unfold execEnvLockSet
  repeat' (first | with_reducible (first | assumption | apply KeepO.next | apply set1_k) | intro _ _ _ | intro _ _)

theorem State.planRefuse_k {zz s : State} (hs : Keep zz s) (why : Nat) (p : Option Nat) : Keep zz (State.planRefuse s why p) := by
  unfold State.planRefuse
  try dsimp only
  repeat' (first | with_reducible (first | assumption | apply wr_k | apply set1_k | apply drawn_k | apply irq_k | apply post_k | apply Keep.ite) | intro _ _ _ | intro _ _ | split)

theorem State.planClock_k {zz s : State} (hs : Keep zz s) (l : List Word) : Keep zz (State.planClock s l).2 := by
  unfold State.planClock
  try dsimp only
  repeat' (first | with_reducible (first | assumption | apply Keep.when | apply wr_k | apply set1_k | apply post_k | apply rampStart_k | apply spreadSet_k | apply Keep.ite) | intro _ _ _ | intro _ _ | split | dsimp only)

theorem State.planCell_k {zz s : State} (hs : Keep zz s) (l : List Word) (f : Option Nat) (c : Nat) : Keep zz (State.planCell s l f c) := by
  unfold State.planCell
  try dsimp only
  repeat' (first | with_reducible (first | assumption | apply Keep.when | apply Keep.forEach | apply wr_k | apply imageDirty_k | apply pushWith_k) | intro _ _ _ | intro _ _)

theorem State.cellsSync_k {zz s : State} (hs : Keep zz s)  : Keep zz (State.cellsSync s) := by
  unfold State.cellsSync
  try dsimp only
  repeat' (first | with_reducible (first | assumption | apply Keep.when | apply set1_k) | intro _ _ _ | intro _ _)

theorem State.planApply_k {zz s : State} (hs : Keep zz s) (first : Bool) : Keep zz (State.planApply s first) := by
  unfold State.planApply
  try dsimp only
  repeat' (first | with_reducible (first | assumption | apply Keep.when | apply Keep.forEach | apply Keep.setReg | apply wr_k | apply set1_k | apply clr_k | apply putMem_k | apply post_k | apply nvPut_k | apply planClock_k | apply planCell_k | apply cellsSync_k | apply Keep.ite) | intro _ _ _ | intro _ _ | split | (with_reducible apply Keep.ofMk; with_reducible refine Keep.mk ?_))

theorem State.planCycle_k {zz s : State} (hs : Keep zz s)  : Keep zz (State.planCycle s) := by
  unfold State.planCycle
  try dsimp only
  repeat' (first | with_reducible (first | assumption | apply Keep.when | apply planApply_k) | intro _ _ _ | intro _ _)

theorem State.planSubmit_k {zz s : State} (hs : Keep zz s) (l : List Word) (skip : Bool) : Keep zz (State.planSubmit s l skip) := by
  unfold State.planSubmit
  repeat' (first | with_reducible (first | assumption | apply wr_k | apply planRefuse_k | apply Keep.ite) | intro _ _ _ | intro _ _ | split | (with_reducible apply Keep.ofMk; with_reducible refine Keep.mk ?_))

theorem State.doSubmit_k {zz s : State} (hs : Keep zz s)  : Keep zz (State.doSubmit s) := by
  unfold State.doSubmit
  try dsimp only
  repeat' (first | with_reducible (first | assumption | apply planSubmit_k) | intro _ _ _ | intro _ _)

theorem execPlanSubmit_k {zz s : State} (hs : Keep zz s)  : KeepO zz (execPlanSubmit s) := by
  unfold execPlanSubmit
  repeat' (first | with_reducible (first | assumption | apply KeepO.next | apply doSubmit_k) | intro _ _ _ | intro _ _)

theorem State.planValidated_k {zz s : State} (hs : Keep zz s)  : Keep zz (State.planValidated s) := by
  unfold State.planValidated
  try dsimp only
  repeat' (first | with_reducible (first | assumption | apply Keep.when | apply wr_k | apply set1_k | apply clr_k | apply irq_k | apply planRefuse_k | apply planApply_k) | intro _ _ _ | intro _ _ | split | dsimp only | (with_reducible apply Keep.ofMk; with_reducible refine Keep.mk ?_))

theorem execPlanValidationDone_k {zz s : State} (hs : Keep zz s)  : KeepO zz (execPlanValidationDone s) := by
  unfold execPlanValidationDone
  repeat' (first | with_reducible (first | assumption | apply KeepO.next | apply planValidated_k) | intro _ _ _ | intro _ _)

theorem State.planCancel_k {zz s : State} (hs : Keep zz s)  : Keep zz (State.planCancel s) := by
  unfold State.planCancel
  try dsimp only
  repeat' (first | with_reducible (first | assumption | apply Keep.when | apply clr_k) | intro _ _ _ | intro _ _ | (with_reducible apply Keep.ofMk; with_reducible refine Keep.mk ?_))

theorem execPlanCancel_k {zz s : State} (hs : Keep zz s)  : KeepO zz (execPlanCancel s) := by
  unfold execPlanCancel
  repeat' (first | with_reducible (first | assumption | apply KeepO.next | apply planCancel_k) | intro _ _ _ | intro _ _)

theorem State.planTakeover_k {zz s : State} (hs : Keep zz s)  : Keep zz (State.planTakeover s) := by
  unfold State.planTakeover
  try dsimp only
  repeat' (first | with_reducible (first | assumption | apply planSubmit_k | apply Keep.ite) | intro _ _ _ | intro _ _ | split)

end Sys2Proof.Machine
end

