-- ==== Sys2Proof/Laws/KeepAnaCmds.lean ====
section
/-! SUPPORT. Laws/KeepAnaCmds.lean: the operations and commands of Machine/AnaCmds.lean keep the invariant and the command queue. -/
namespace Sys2Proof.Machine
open State

theorem State.doFlit_k {zz s : State} (hs : Keep zz s) (ok : Bool) (x : D2dLoad) : Keep zz (State.doFlit s ok x) := by
  unfold State.doFlit
  repeat' (first | with_reducible (first | assumption | apply Keep.when | apply bump_k | apply postAna_k | apply flitIn_k | apply loseLoad_k | apply linkRetrain_k | apply Keep.ite) | intro _ _ _ | intro _ _ | split)

theorem execD2dFlitReceived_k {zz s : State} (hs : Keep zz s) (ok : Bool) (load : D2dLoad) : KeepO zz (execD2dFlitReceived ok load s) := by
  unfold execD2dFlitReceived
  repeat' (first | with_reducible (first | assumption | apply KeepO.next | apply doFlit_k) | intro _ _ _ | intro _ _)

theorem execD2dDown_k {zz s : State} (hs : Keep zz s)  : KeepO zz (execD2dDown s) := by
  unfold execD2dDown
  repeat' (first | with_reducible (first | assumption | apply KeepO.next | apply linkDown_k) | intro _ _ _ | intro _ _)

theorem execAdcTrigger_k {zz s : State} (hs : Keep zz s) (a : Fin 4) : KeepO zz (execAdcTrigger a s) := by
  unfold execAdcTrigger
  repeat' (first | with_reducible (first | assumption | apply KeepO.next | apply adcTrigger_k) | intro _ _ _ | intro _ _)

theorem execAdcConversionDone_k {zz s : State} (hs : Keep zz s) (a : Fin 4) (vin : Int) : KeepO zz (execAdcConversionDone a vin s) := by
  unfold execAdcConversionDone
  repeat' (first | with_reducible (first | assumption | apply KeepO.next | apply adcDone_k) | intro _ _ _ | intro _ _)

theorem execAdcUrgentGo_k {zz s : State} (hs : Keep zz s) (a : Fin 4) (inp : BitVec 3) : KeepO zz (execAdcUrgentGo a inp s) := by
  unfold execAdcUrgentGo
  repeat' (first | with_reducible (first | assumption | apply KeepO.next | apply wr_k | apply adcUrgent_k) | intro _ _ _ | intro _ _)

theorem execAdcCalReq_k {zz s : State} (hs : Keep zz s) (a : Fin 4) : KeepO zz (execAdcCalReq a s) := by
  unfold execAdcCalReq
  repeat' (first | with_reducible (first | assumption | apply KeepO.next | apply adcCalReq_k) | intro _ _ _ | intro _ _)

theorem execAdcCalDone_k {zz s : State} (hs : Keep zz s) (a : Fin 4) : KeepO zz (execAdcCalDone a s) := by
  unfold execAdcCalDone
  try dsimp only
  repeat' (first | with_reducible (first | assumption | apply KeepO.next | apply Keep.when | apply set1_k | apply clr_k) | intro _ _ _ | intro _ _)

theorem execResLoRead_k {zz s : State} (hs : Keep zz s) (a : Fin 4) (k : Fin 17) : KeepO zz (execResLoRead a k s) := by
  unfold execResLoRead
  try dsimp only
  repeat' (first | with_reducible (first | assumption | apply KeepO.next | apply setAdc_k | apply Keep.ite | apply KeepO.ite) | intro _ _ _ | intro _ _ | split | (with_reducible apply Keep.ofMk; with_reducible refine Keep.mk ?_))

theorem execResHiRead_k {zz s : State} (hs : Keep zz s) (a : Fin 4) (k : Fin 17) : KeepO zz (execResHiRead a k s) := by
  unfold execResHiRead
  repeat' (first | with_reducible (first | assumption | apply KeepO.next | apply setAdc_k) | intro _ _ _ | intro _ _ | (with_reducible apply Keep.ofMk; with_reducible refine Keep.mk ?_))

theorem execRefEnable_k {zz s : State} (hs : Keep zz s)  : KeepO zz (execRefEnable s) := by
  unfold execRefEnable
  repeat' (first | with_reducible (first | assumption | apply KeepO.next | apply set1_k) | intro _ _ _ | intro _ _)

theorem execRefReady_k {zz s : State} (hs : Keep zz s)  : KeepO zz (execRefReady s) := by
  unfold execRefReady
  try dsimp only
  repeat' (first | with_reducible (first | assumption | apply KeepO.next | apply Keep.when | apply Keep.forEach | apply set1_k) | intro _ _ _ | intro _ _)

theorem execCmpEnable_k {zz s : State} (hs : Keep zz s) (i : Fin 24) : KeepO zz (execCmpEnable i s) := by
  unfold execCmpEnable
  repeat' (first | with_reducible (first | assumption | apply KeepO.next | apply set1_k | apply cmpApply_k) | intro _ _ _ | intro _ _)

theorem State.doHoldRelease_k {zz s : State} (hs : Keep zz s) (i : Nat) (v : Int) : Keep zz (State.doHoldRelease s i v) := by
  unfold State.doHoldRelease
  try dsimp only
  repeat' (first | with_reducible (first | assumption | apply Keep.when | apply wr_k | apply clr_k | apply cmpEval_k) | intro _ _ _ | intro _ _)

theorem execCmpHoldRelease_k {zz s : State} (hs : Keep zz s) (i : Fin 24) (vin : Int) : KeepO zz (execCmpHoldRelease i vin s) := by
  unfold execCmpHoldRelease
  repeat' (first | with_reducible (first | assumption | apply KeepO.next | apply doHoldRelease_k) | intro _ _ _ | intro _ _)

theorem execDacSettled_k {zz s : State} (hs : Keep zz s) (i : Fin 24) : KeepO zz (execDacSettled i s) := by
  unfold execDacSettled
  repeat' (first | with_reducible (first | assumption | apply KeepO.next | apply clr_k) | intro _ _ _ | intro _ _)

theorem State.doRaw_k {zz s : State} (hs : Keep zz s) (i : Nat) (b : Bool) (v : Int) : Keep zz (State.doRaw s i b v) := by
  unfold State.doRaw
  try dsimp only
  repeat' (first | with_reducible (first | assumption | apply Keep.when | apply wr_k | apply cmpLevel_k | apply cmpEval_k | apply Keep.ite) | intro _ _ _ | intro _ _ | split)

theorem execCmpOutputAssert_k {zz s : State} (hs : Keep zz s) (i : Fin 24) (vin : Int) : KeepO zz (execCmpOutputAssert i vin s) := by
  unfold execCmpOutputAssert
  repeat' (first | with_reducible (first | assumption | apply KeepO.next | apply doRaw_k) | intro _ _ _ | intro _ _)

theorem execCmpOutputDeassert_k {zz s : State} (hs : Keep zz s) (i : Fin 24) (vin : Int) : KeepO zz (execCmpOutputDeassert i vin s) := by
  unfold execCmpOutputDeassert
  repeat' (first | with_reducible (first | assumption | apply KeepO.next | apply doRaw_k) | intro _ _ _ | intro _ _)

theorem execCmpClearLatch_k {zz s : State} (hs : Keep zz s) (i : Fin 24) : KeepO zz (execCmpClearLatch i s) := by
  unfold execCmpClearLatch
  try dsimp only
  repeat' (first | with_reducible (first | assumption | apply KeepO.next | apply Keep.when | apply clr_k | apply cmpEval_k) | intro _ _ _ | intro _ _)

theorem execThmRequest_k {zz s : State} (hs : Keep zz s) (mask : BitVec 12) : KeepO zz (execThmRequest mask s) := by
  unfold execThmRequest
  try dsimp only
  repeat' (first | with_reducible (first | assumption | apply KeepO.next | apply Keep.forEach | apply thmStart_k) | intro _ _ _ | intro _ _)

theorem execThmMeasureDone_k {zz s : State} (hs : Keep zz s) (i : Fin 12) (t : BitVec 16) : KeepO zz (execThmMeasureDone i t s) := by
  unfold execThmMeasureDone
  repeat' (first | with_reducible (first | assumption | apply KeepO.next | apply thmDone_k) | intro _ _ _ | intro _ _)

theorem execSensorBroken_k {zz s : State} (hs : Keep zz s) (i : Fin 12) : KeepO zz (execSensorBroken i s) := by
  unfold execSensorBroken
  try dsimp only
  repeat' (first | with_reducible (first | assumption | apply KeepO.next | apply Keep.when | apply bump_k | apply setBit_k | apply post_k | apply voteEval_k) | intro _ _ _ | intro _ _)

theorem execSensorBrokenClear_k {zz s : State} (hs : Keep zz s) (i : Fin 12) : KeepO zz (execSensorBrokenClear i s) := by
  unfold execSensorBrokenClear
  repeat' (first | with_reducible (first | assumption | apply KeepO.next | apply clrBit_k | apply voteEval_k) | intro _ _ _ | intro _ _)

theorem execSensorHot_k {zz s : State} (hs : Keep zz s) (i : Fin 12) (t : BitVec 16) : KeepO zz (execSensorHot i t s) := by
  unfold execSensorHot
  try dsimp only
  repeat' (first | with_reducible (first | assumption | apply KeepO.next | apply Keep.when | apply setBit_k | apply voteEval_k) | intro _ _ _ | intro _ _)

theorem execSensorCool_k {zz s : State} (hs : Keep zz s) (i : Fin 12) (t : BitVec 16) : KeepO zz (execSensorCool i t s) := by
  unfold execSensorCool
  try dsimp only
  repeat' (first | with_reducible (first | assumption | apply KeepO.next | apply Keep.when | apply clrBit_k | apply voteEval_k) | intro _ _ _ | intro _ _)

theorem execWakeEvent_k {zz s : State} (hs : Keep zz s) (cause : Fin 32) : KeepO zz (execWakeEvent cause s) := by
  unfold execWakeEvent
  try dsimp only
  repeat' (first | with_reducible (first | assumption | apply KeepO.next | apply Keep.when | apply wake_k | apply Keep.ite | apply KeepO.ite) | intro _ _ _ | intro _ _ | split)

end Sys2Proof.Machine
end

