-- ==== Sys2Proof/Laws/KeepSecurity.lean ====
section
/-! SUPPORT. Laws/KeepSecurity.lean: the operations and commands of Machine/Security.lean keep the invariant and the command queue. -/
namespace Sys2Proof.Machine
open State

theorem State.postSec_k {zz s : State} (hs : Keep zz s) (kind : Nat) (datum : Nat) : Keep zz (State.postSec s kind datum) := by
  unfold State.postSec
  repeat' (first | with_reducible (first | assumption | apply post_k) | intro _ _ _ | intro _ _)

theorem State.vaultShow_k {zz s : State} (hs : Keep zz s)  : Keep zz (State.vaultShow s) := by
  unfold State.vaultShow
  try dsimp only
  repeat' (first | with_reducible (first | assumption | apply wr_k) | intro _ _ _ | intro _ _)

theorem State.vaultLoad_k {zz s : State} (hs : Keep zz s)  : Keep zz (State.vaultLoad s) := by
  unfold State.vaultLoad
  try dsimp only
  repeat' (first | with_reducible (first | assumption | apply wr_k | apply setSec_k | apply recLoad_k | apply Keep.ite) | intro _ _ _ | intro _ _ | split | dsimp only | (with_reducible apply Keep.ofMk; with_reducible refine Keep.mk ?_))

theorem State.clearKeyIn_k {zz s : State} (hs : Keep zz s)  : Keep zz (State.clearKeyIn s) := by
  unfold State.clearKeyIn
  try dsimp only
  repeat' (first | with_reducible (first | assumption | apply Keep.forEach | apply Keep.setReg) | intro _ _ _ | intro _ _)

theorem State.clearSig_k {zz s : State} (hs : Keep zz s)  : Keep zz (State.clearSig s) := by
  unfold State.clearSig
  try dsimp only
  repeat' (first | with_reducible (first | assumption | apply Keep.forEach | apply Keep.setReg) | intro _ _ _ | intro _ _)

theorem State.vaultAbort_k {zz s : State} (hs : Keep zz s)  : Keep zz (State.vaultAbort s) := by
  unfold State.vaultAbort
  try dsimp only
  repeat' (first | with_reducible (first | assumption | apply Keep.when | apply clr_k | apply setSec_k | apply clearKeyIn_k | apply clearSig_k) | intro _ _ _ | intro _ _ | split | dsimp only | (with_reducible apply Keep.ofMk; with_reducible refine Keep.mk ?_))

theorem State.erase_k {zz s : State} (hs : Keep zz s) (v : Nat) : Keep zz (State.erase s v) := by
  unfold State.erase
  try dsimp only
  repeat' (first | with_reducible (first | assumption | apply wr_k | apply set1_k | apply setSec_k | apply recErase_k | apply postSec_k | apply vaultShow_k | apply vaultAbort_k) | intro _ _ _ | intro _ _ | (with_reducible apply Keep.ofMk; with_reducible refine Keep.mk ?_))

theorem State.violate_k {zz s : State} (hs : Keep zz s) (v : Nat) (datum : Nat) : Keep zz (State.violate s v datum) := by
  unfold State.violate
  try dsimp only
  repeat' (first | with_reducible (first | assumption | apply Keep.when | apply set1_k | apply clr_k | apply setBit_k | apply postSec_k | apply erase_k | apply Keep.ite) | intro _ _ _ | intro _ _ | split)

theorem execTamper_k {zz s : State} (hs : Keep zz s) (i : Fin 2) : KeepO zz (execTamper i s) := by
  unfold execTamper
  repeat' (first | with_reducible (first | assumption | apply KeepO.next | apply violate_k) | intro _ _ _ | intro _ _)

theorem execVglitch_k {zz s : State} (hs : Keep zz s) (rail : Fin 3) : KeepO zz (execVglitch rail s) := by
  unfold execVglitch
  repeat' (first | with_reducible (first | assumption | apply KeepO.next | apply violate_k) | intro _ _ _ | intro _ _)

theorem execCglitch_k {zz s : State} (hs : Keep zz s) (k : Fin 2) : KeepO zz (execCglitch k s) := by
  unfold execCglitch
  repeat' (first | with_reducible (first | assumption | apply KeepO.next | apply violate_k) | intro _ _ _ | intro _ _)

theorem execLowtemp_k {zz s : State} (hs : Keep zz s)  : KeepO zz (execLowtemp s) := by
  unfold execLowtemp
  repeat' (first | with_reducible (first | assumption | apply KeepO.next | apply violate_k) | intro _ _ _ | intro _ _)

theorem State.vaultCtl_k {zz s : State} (hs : Keep zz s) (m : Master) (c : Nat) (slot : Nat) : Keep zz (State.vaultCtl s m c slot) := by
  unfold State.vaultCtl
  repeat' (first | with_reducible (first | assumption | apply set1_k | apply setSec_k | apply locked_k | apply postSec_k | apply Keep.ite) | intro _ _ _ | intro _ _ | split | (with_reducible apply Keep.ofMk; with_reducible refine Keep.mk ?_))

theorem execVaultEnrol_k {zz s : State} (hs : Keep zz s) (m : Master) : KeepO zz (execVaultEnrol m s) := by
  unfold execVaultEnrol
  repeat' (first | with_reducible (first | assumption | apply KeepO.next | apply vaultCtl_k) | intro _ _ _ | intro _ _)

theorem execVaultImport_k {zz s : State} (hs : Keep zz s) (m : Master) (slot : Fin 16) : KeepO zz (execVaultImport m slot s) := by
  unfold execVaultImport
  repeat' (first | with_reducible (first | assumption | apply KeepO.next | apply vaultCtl_k) | intro _ _ _ | intro _ _)

theorem execVaultClear_k {zz s : State} (hs : Keep zz s) (m : Master) (slot : Fin 16) : KeepO zz (execVaultClear m slot s) := by
  unfold execVaultClear
  repeat' (first | with_reducible (first | assumption | apply KeepO.next | apply vaultCtl_k) | intro _ _ _ | intro _ _)

theorem execVaultGenId_k {zz s : State} (hs : Keep zz s) (m : Master) : KeepO zz (execVaultGenId m s) := by
  unfold execVaultGenId
  repeat' (first | with_reducible (first | assumption | apply KeepO.next | apply vaultCtl_k) | intro _ _ _ | intro _ _)

theorem execVaultSign_k {zz s : State} (hs : Keep zz s) (m : Master) : KeepO zz (execVaultSign m s) := by
  unfold execVaultSign
  repeat' (first | with_reducible (first | assumption | apply KeepO.next | apply vaultCtl_k) | intro _ _ _ | intro _ _)

theorem State.vaultEffect_k {zz s : State} (hs : Keep zz s) (c : Nat) (slot : Nat) : Keep zz (State.vaultEffect s c slot) := by
  unfold State.vaultEffect
  try dsimp only
  repeat' (first | with_reducible (first | assumption | apply Keep.forEach | apply wr_k | apply clr_k | apply drawn_k | apply wrFree_k | apply setSec_k | apply clearKeyIn_k | apply Keep.ite) | intro _ _ _ | intro _ _ | split | (with_reducible apply Keep.ofMk; with_reducible refine Keep.mk ?_))

theorem State.vaultDone_k {zz s : State} (hs : Keep zz s)  : Keep zz (State.vaultDone s) := by
  unfold State.vaultDone
  try dsimp only
  repeat' (first | with_reducible (first | assumption | apply Keep.when | apply set1_k | apply clr_k | apply setSec_k | apply recPut_k | apply vaultShow_k | apply vaultEffect_k) | intro _ _ _ | intro _ _ | split | dsimp only | (with_reducible apply Keep.ofMk; with_reducible refine Keep.mk ?_))

theorem execVaultCommandDone_k {zz s : State} (hs : Keep zz s)  : KeepO zz (execVaultCommandDone s) := by
  unfold execVaultCommandDone
  repeat' (first | with_reducible (first | assumption | apply KeepO.next | apply vaultDone_k) | intro _ _ _ | intro _ _)

theorem State.keyIn_k {zz s : State} (hs : Keep zz s) (m : Master) (j : Nat) (v : Nat) : Keep zz (State.keyIn s m j v) := by
  unfold State.keyIn
  repeat' (first | with_reducible (first | assumption | apply Keep.setReg | apply locked_k | apply Keep.ite) | intro _ _ _ | intro _ _ | split)

theorem State.burn_k {zz s : State} (hs : Keep zz s) (m : Master) (x : Option Nat) (a : Nat) : Keep zz (State.burn s m x a) := by
  unfold State.burn
  repeat' (first | with_reducible (first | assumption | apply set1_k | apply setSec_k | apply locked_k | apply reserved_k | apply Keep.ite) | intro _ _ _ | intro _ _ | split | (with_reducible apply Keep.ofMk; with_reducible refine Keep.mk ?_))

theorem execRollbackBurn_k {zz s : State} (hs : Keep zz s) (m : Master) : KeepO zz (execRollbackBurn m s) := by
  unfold execRollbackBurn
  repeat' (first | with_reducible (first | assumption | apply KeepO.next | apply burn_k) | intro _ _ _ | intro _ _)

theorem State.revoke_k {zz s : State} (hs : Keep zz s) (m : Master) (k : Nat) : Keep zz (State.revoke s m k) := by
  unfold State.revoke
  try dsimp only
  repeat' (first | with_reducible (first | assumption | apply Keep.when | apply wr_k | apply burn_k) | intro _ _ _ | intro _ _)

theorem execRevokeBurn_k {zz s : State} (hs : Keep zz s) (m : Master) (slot : Fin 4) : KeepO zz (execRevokeBurn m slot s) := by
  unfold execRevokeBurn
  repeat' (first | with_reducible (first | assumption | apply KeepO.next | apply revoke_k) | intro _ _ _ | intro _ _)

theorem State.burnDone_k {zz s : State} (hs : Keep zz s)  : Keep zz (State.burnDone s) := by
  unfold State.burnDone
  try dsimp only
  repeat' (first | with_reducible (first | assumption | apply wr_k | apply clr_k | apply setBit_k | apply setSec_k | apply burn_k) | intro _ _ _ | intro _ _ | split | dsimp only | (with_reducible apply Keep.ofMk; with_reducible refine Keep.mk ?_))

theorem execFuseBurnDone_k {zz s : State} (hs : Keep zz s)  : KeepO zz (execFuseBurnDone s) := by
  unfold execFuseBurnDone
  repeat' (first | with_reducible (first | assumption | apply KeepO.next | apply burnDone_k) | intro _ _ _ | intro _ _)

theorem State.burnAbort_k {zz s : State} (hs : Keep zz s)  : Keep zz (State.burnAbort s) := by
  unfold State.burnAbort
  try dsimp only
  repeat' (first | with_reducible (first | assumption | apply Keep.when | apply set1_k | apply clr_k | apply setSec_k | apply burn_k) | intro _ _ _ | intro _ _ | (with_reducible apply Keep.ofMk; with_reducible refine Keep.mk ?_))

theorem State.challenge_k {zz s : State} (hs : Keep zz s)  : Keep zz (State.challenge s) := by
  unfold State.challenge
  try dsimp only
  repeat' (first | with_reducible (first | assumption | apply Keep.when | apply drawn_k | apply setSec_k) | intro _ _ _ | intro _ _ | split | dsimp only | (with_reducible apply Keep.ofMk; with_reducible refine Keep.mk ?_))

theorem execDebugChallengeRead_k {zz s : State} (hs : Keep zz s)  : KeepO zz (execDebugChallengeRead s) := by
  unfold execDebugChallengeRead
  repeat' (first | with_reducible (first | assumption | apply KeepO.next | apply challenge_k) | intro _ _ _ | intro _ _)

theorem State.debugAuth_k {zz s : State} (hs : Keep zz s) (keyOk : Bool) (sigOk : Bool) : Keep zz (State.debugAuth s keyOk sigOk) := by
  unfold State.debugAuth
  try dsimp only
  repeat' (first | with_reducible (first | assumption | apply Keep.when | apply wr_k | apply set1_k | apply clr_k | apply setSec_k | apply violate_k | apply Keep.ite) | intro _ _ _ | intro _ _ | split | (with_reducible apply Keep.ofMk; with_reducible refine Keep.mk ?_))

theorem execDebugAuthResponse_k {zz s : State} (hs : Keep zz s) (keyOk : Bool) (sigOk : Bool) : KeepO zz (execDebugAuthResponse keyOk sigOk s) := by
  unfold execDebugAuthResponse
  repeat' (first | with_reducible (first | assumption | apply KeepO.next | apply debugAuth_k) | intro _ _ _ | intro _ _)

end Sys2Proof.Machine
end

