-- ==== Sys2Proof/Laws/KeepLaneCmds.lean ====
section
/-! SUPPORT. Laws/KeepLaneCmds.lean: the operations and commands of Machine/LaneCmds.lean keep the invariant and the command queue. -/
namespace Sys2Proof.Machine
open State

theorem State.doLaneEnable_k {zz s : State} (hs : Keep zz s) (l : Nat) : Keep zz (State.doLaneEnable s l) := by
  unfold State.doLaneEnable
  repeat' (first | with_reducible (first | assumption | apply set1_k | apply laneTry_k) | intro _ _ _ | intro _ _)

theorem execLaneEnable_k {zz s : State} (hs : Keep zz s) (n : Fin 28) : KeepO zz (execLaneEnable n s) := by
  unfold execLaneEnable
  repeat' (first | with_reducible (first | assumption | apply KeepO.next | apply doLaneEnable_k) | intro _ _ _ | intro _ _)

theorem State.doLaneDisable_k {zz s : State} (hs : Keep zz s) (l : Nat) : Keep zz (State.doLaneDisable s l) := by
  unfold State.doLaneDisable
  repeat' (first | with_reducible (first | assumption | apply clr_k | apply laneDown_k) | intro _ _ _ | intro _ _)

theorem execLaneDisable_k {zz s : State} (hs : Keep zz s) (n : Fin 28) : KeepO zz (execLaneDisable n s) := by
  unfold execLaneDisable
  repeat' (first | with_reducible (first | assumption | apply KeepO.next | apply doLaneDisable_k) | intro _ _ _ | intro _ _)

theorem State.doLaneRearm_k {zz s : State} (hs : Keep zz s) (l : Nat) : Keep zz (State.doLaneRearm s l) := by
  unfold State.doLaneRearm
  try dsimp only
  repeat' (first | with_reducible (first | assumption | apply Keep.when | apply laneTrain_k) | intro _ _ _ | intro _ _)

theorem execLaneRearm_k {zz s : State} (hs : Keep zz s) (n : Fin 28) : KeepO zz (execLaneRearm n s) := by
  unfold execLaneRearm
  repeat' (first | with_reducible (first | assumption | apply KeepO.next | apply doLaneRearm_k) | intro _ _ _ | intro _ _)

theorem State.doLaneTxcomma_k {zz s : State} (hs : Keep zz s) (l : Nat) : Keep zz (State.doLaneTxcomma s l) := by
  unfold State.doLaneTxcomma
  try dsimp only
  repeat' (first | with_reducible (first | assumption | apply Keep.when | apply wr_k | apply laneShow_k) | intro _ _ _ | intro _ _)

theorem execLaneTxcomma_k {zz s : State} (hs : Keep zz s) (n : Fin 28) : KeepO zz (execLaneTxcomma n s) := by
  unfold execLaneTxcomma
  repeat' (first | with_reducible (first | assumption | apply KeepO.next | apply doLaneTxcomma_k) | intro _ _ _ | intro _ _)

theorem execTxeqApply_k {zz s : State} (hs : Keep zz s) (n : Fin 28) : KeepO zz (execTxeqApply n s) := by
  unfold execTxeqApply
  repeat' (first | with_reducible (first | assumption | apply KeepO.next | apply setLane_k) | intro _ _ _ | intro _ _ | (with_reducible apply Keep.ofMk; with_reducible refine Keep.mk ?_))

theorem execLosAssert_k {zz s : State} (hs : Keep zz s) (n : Fin 28) : KeepO zz (execLosAssert n s) := by
  unfold execLosAssert
  try dsimp only
  repeat' (first | with_reducible (first | assumption | apply KeepO.next | apply Keep.when | apply set1_k | apply laneCdrLost_k) | intro _ _ _ | intro _ _)

theorem execLosDeassert_k {zz s : State} (hs : Keep zz s) (n : Fin 28) : KeepO zz (execLosDeassert n s) := by
  unfold execLosDeassert
  repeat' (first | with_reducible (first | assumption | apply KeepO.next | apply clr_k) | intro _ _ _ | intro _ _)

theorem execCdrLock_k {zz s : State} (hs : Keep zz s) (n : Fin 28) : KeepO zz (execCdrLock n s) := by
  unfold execCdrLock
  try dsimp only
  repeat' (first | with_reducible (first | assumption | apply KeepO.next | apply Keep.when | apply set1_k) | intro _ _ _ | intro _ _)

theorem execCdrLockLoss_k {zz s : State} (hs : Keep zz s) (n : Fin 28) : KeepO zz (execCdrLockLoss n s) := by
  unfold execCdrLockLoss
  try dsimp only
  repeat' (first | with_reducible (first | assumption | apply KeepO.next | apply Keep.when | apply laneCdrLost_k) | intro _ _ _ | intro _ _)

theorem State.countTsb_k {zz s : State} (hs : Keep zz s) (l : Nat) (set : List Byte) : Keep zz (State.countTsb s l set) := by
  unfold State.countTsb
  try dsimp only
  repeat' (first | with_reducible (first | assumption | apply setLane_k | apply Keep.ite) | intro _ _ _ | intro _ _ | split | (with_reducible apply Keep.ofMk; with_reducible refine Keep.mk ?_))

theorem State.setMatched_k {zz s : State} (hs : Keep zz s) (l : Nat) (set : List Byte) : Keep zz (State.setMatched s l set) := by
  unfold State.setMatched
  try dsimp only
  repeat' (first | with_reducible (first | assumption | apply wr_k | apply set1_k | apply setLane_k | apply postLane_k | apply laneFail_k | apply Keep.ite) | intro _ _ _ | intro _ _ | split | (with_reducible apply Keep.ofMk; with_reducible refine Keep.mk ?_))

theorem State.setMismatched_k {zz s : State} (hs : Keep zz s) (l : Nat) : Keep zz (State.setMismatched s l) := by
  unfold State.setMismatched
  try dsimp only
  repeat' (first | with_reducible (first | assumption | apply Keep.when | apply bump_k | apply setLane_k | apply postLane_k) | intro _ _ _ | intro _ _ | (with_reducible apply Keep.ofMk; with_reducible refine Keep.mk ?_))

theorem State.setFollow_k {zz s : State} (hs : Keep zz s) (l : Nat) (set : List Byte) : Keep zz (State.setFollow s l set) := by
  unfold State.setFollow
  try dsimp only
  repeat' (first | with_reducible (first | assumption | apply Keep.when | apply setLane_k | apply setLaneSt_k | apply laneShow_k | apply laneTxHandover_k | apply laneTryService_k) | intro _ _ _ | intro _ _ | (with_reducible apply Keep.ofMk; with_reducible refine Keep.mk ?_))

theorem State.setAccepted_k {zz s : State} (hs : Keep zz s) (l : Nat) (set : List Byte) : Keep zz (State.setAccepted s l set) := by
  unfold State.setAccepted
  try dsimp only
  repeat' (first | with_reducible (first | assumption | apply setLane_k | apply setLaneSt_k | apply countTsb_k | apply setMatched_k | apply setMismatched_k | apply setFollow_k | apply Keep.ite) | intro _ _ _ | intro _ _ | split | (with_reducible apply Keep.ofMk; with_reducible refine Keep.mk ?_))

theorem State.setDiscarded_k {zz s : State} (hs : Keep zz s) (l : Nat) : Keep zz (State.setDiscarded s l) := by
  unfold State.setDiscarded
  try dsimp only
  repeat' (first | with_reducible (first | assumption | apply bump_k | apply setLane_k) | intro _ _ _ | intro _ _ | (with_reducible apply Keep.ofMk; with_reducible refine Keep.mk ?_))

theorem State.doOrderedSet_k {zz s : State} (hs : Keep zz s) (l : Nat) (gs : List (BitVec 10)) : Keep zz (State.doOrderedSet s l gs) := by
  unfold State.doOrderedSet
  try dsimp only
  repeat' (first | with_reducible (first | assumption | apply setLane_k | apply idle_k | apply setAccepted_k | apply setDiscarded_k | apply Keep.ite) | intro _ _ _ | intro _ _ | split | dsimp only | (with_reducible apply Keep.ofMk; with_reducible refine Keep.mk ?_))

theorem execOrderedSetReceived_k {zz s : State} (hs : Keep zz s) (n : Fin 28) (groups : List (BitVec 10)) : KeepO zz (execOrderedSetReceived n groups s) := by
  unfold execOrderedSetReceived
  repeat' (first | with_reducible (first | assumption | apply KeepO.next | apply KeepO.fault | apply doOrderedSet_k | apply Keep.ite | apply KeepO.ite) | intro _ _ _ | intro _ _ | split)

theorem execSoloHandover_k {zz s : State} (hs : Keep zz s) (n : Fin 28) : KeepO zz (execSoloHandover n s) := by
  unfold execSoloHandover
  try dsimp only
  repeat' (first | with_reducible (first | assumption | apply KeepO.next | apply Keep.when | apply laneTxHandover_k | apply laneTryService_k) | intro _ _ _ | intro _ _)

theorem State.deliver_k {zz s : State} (hs : Keep zz s) (l : Nat) (i : Nat) (p : Nat) : Keep zz (State.deliver s l i p) := by
  unfold State.deliver
  try dsimp only
  repeat' (first | with_reducible (first | assumption | apply bump_k | apply setLane_k | apply postLane_k | apply Keep.ite) | intro _ _ _ | intro _ _ | split | (with_reducible apply Keep.ofMk; with_reducible refine Keep.mk ?_))

theorem State.frameBlock_k {zz s : State} (hs : Keep zz s) (l : Nat) (hdr : Nat) (p : Nat) : Keep zz (State.frameBlock s l hdr p) := by
  unfold State.frameBlock
  try dsimp only
  repeat' (first | with_reducible (first | assumption | apply Keep.when | apply setLane_k | apply idle_k | apply deliver_k | apply Keep.ite) | intro _ _ _ | intro _ _ | split | (with_reducible apply Keep.ofMk; with_reducible refine Keep.mk ?_))

theorem State.blockInService_k {zz s : State} (hs : Keep zz s) (l : Nat) (hdr : Nat) (p : Nat) : Keep zz (State.blockInService s l hdr p) := by
  unfold State.blockInService
  try dsimp only
  repeat' (first | with_reducible (first | assumption | apply Keep.same | apply bump_k | apply setLane_k | apply postLane_k | apply laneRecover_k | apply laneSlipSearch_k | apply frameBlock_k | apply Keep.ite) | intro _ _ _ | intro _ _ | split | (with_reducible apply Keep.ofMk; with_reducible refine Keep.mk ?_))

theorem State.doBlock_k {zz s : State} (hs : Keep zz s) (l : Nat) (hdr : Nat) (p : Nat) : Keep zz (State.doBlock s l hdr p) := by
  unfold State.doBlock
  try dsimp only
  repeat' (first | with_reducible (first | assumption | apply Keep.when | apply bump_k | apply setLane_k | apply laneAttemptFailed_k | apply laneTryService_k | apply blockInService_k | apply Keep.ite) | intro _ _ _ | intro _ _ | split | (with_reducible apply Keep.ofMk; with_reducible refine Keep.mk ?_))

theorem execBlockReceived_k {zz s : State} (hs : Keep zz s) (n : Fin 28) (hdr : BitVec 2) (payload : BitVec 64) : KeepO zz (execBlockReceived n hdr payload s) := by
  unfold execBlockReceived
  repeat' (first | with_reducible (first | assumption | apply KeepO.next | apply doBlock_k) | intro _ _ _ | intro _ _)

theorem State.doSlipWindowEnd_k {zz s : State} (hs : Keep zz s) (l : Nat) : Keep zz (State.doSlipWindowEnd s l) := by
  unfold State.doSlipWindowEnd
  try dsimp only
  repeat' (first | with_reducible (first | assumption | apply Keep.when | apply wr_k | apply set1_k | apply laneService_k | apply laneSlipFail_k | apply Keep.ite) | intro _ _ _ | intro _ _ | split)

theorem execSlipWindowEnd_k {zz s : State} (hs : Keep zz s) (n : Fin 28) : KeepO zz (execSlipWindowEnd n s) := by
  unfold execSlipWindowEnd
  repeat' (first | with_reducible (first | assumption | apply KeepO.next | apply doSlipWindowEnd_k) | intro _ _ _ | intro _ _)

theorem State.doLaneSlip_k {zz s : State} (hs : Keep zz s) (l : Nat) : Keep zz (State.doLaneSlip s l) := by
  unfold State.doLaneSlip
  try dsimp only
  repeat' (first | with_reducible (first | assumption | apply Keep.when | apply set1_k | apply clr_k | apply addSat_k | apply setLane_k | apply Keep.ite) | intro _ _ _ | intro _ _ | split | (with_reducible apply Keep.ofMk; with_reducible refine Keep.mk ?_))

theorem execLaneSlip_k {zz s : State} (hs : Keep zz s) (n : Fin 28) : KeepO zz (execLaneSlip n s) := by
  unfold execLaneSlip
  repeat' (first | with_reducible (first | assumption | apply KeepO.next | apply doLaneSlip_k) | intro _ _ _ | intro _ _)

theorem execSlipTimeout_k {zz s : State} (hs : Keep zz s) (n : Fin 28) : KeepO zz (execSlipTimeout n s) := by
  unfold execSlipTimeout
  try dsimp only
  repeat' (first | with_reducible (first | assumption | apply KeepO.next | apply Keep.when | apply laneSlipFail_k) | intro _ _ _ | intro _ _)

theorem execRecoverEnd_k {zz s : State} (hs : Keep zz s) (n : Fin 28) : KeepO zz (execRecoverEnd n s) := by
  unfold execRecoverEnd
  try dsimp only
  repeat' (first | with_reducible (first | assumption | apply KeepO.next | apply Keep.when | apply laneTrain_k) | intro _ _ _ | intro _ _)

theorem execAttemptTimeout_k {zz s : State} (hs : Keep zz s) (n : Fin 28) : KeepO zz (execAttemptTimeout n s) := by
  unfold execAttemptTimeout
  try dsimp only
  repeat' (first | with_reducible (first | assumption | apply KeepO.next | apply Keep.when | apply laneAttemptFailed_k | apply idle_k) | intro _ _ _ | intro _ _)

theorem execAttemptIdleEnd_k {zz s : State} (hs : Keep zz s) (n : Fin 28) : KeepO zz (execAttemptIdleEnd n s) := by
  unfold execAttemptIdleEnd
  try dsimp only
  repeat' (first | with_reducible (first | assumption | apply KeepO.next | apply Keep.when | apply laneTrain_k | apply idle_k) | intro _ _ _ | intro _ _)

theorem State.doRearmDue_k {zz s : State} (hs : Keep zz s) (l : Nat) : Keep zz (State.doRearmDue s l) := by
  unfold State.doRearmDue
  try dsimp only
  repeat' (first | with_reducible (first | assumption | apply Keep.when | apply set1_k | apply setLane_k | apply irq_k) | intro _ _ _ | intro _ _ | (with_reducible apply Keep.ofMk; with_reducible refine Keep.mk ?_))

theorem execRearmDue_k {zz s : State} (hs : Keep zz s) (n : Fin 28) : KeepO zz (execRearmDue n s) := by
  unfold execRearmDue
  repeat' (first | with_reducible (first | assumption | apply KeepO.next | apply doRearmDue_k) | intro _ _ _ | intro _ _)

theorem State.rearmCheck_k {zz s : State} (hs : Keep zz s) (l : Nat) : Keep zz (State.rearmCheck s l) := by
  unfold State.rearmCheck
  try dsimp only
  repeat' (first | with_reducible (first | assumption | apply Keep.when | apply doRearmDue_k) | intro _ _ _ | intro _ _)

theorem execJoinTimeout_k {zz s : State} (hs : Keep zz s) (n : Fin 28) : KeepO zz (execJoinTimeout n s) := by
  unfold execJoinTimeout
  try dsimp only
  repeat' (first | with_reducible (first | assumption | apply KeepO.next | apply Keep.when | apply laneSlipSearch_k | apply idle_k) | intro _ _ _ | intro _ _)

theorem State.doEsStart_k {zz s : State} (hs : Keep zz s) (l : Nat) : Keep zz (State.doEsStart s l) := by
  unfold State.doEsStart
  repeat' (first | with_reducible (first | assumption | apply set1_k | apply setLane_k | apply Keep.ite) | intro _ _ _ | intro _ _ | split | (with_reducible apply Keep.ofMk; with_reducible refine Keep.mk ?_))

theorem execEsStart_k {zz s : State} (hs : Keep zz s) (n : Fin 28) : KeepO zz (execEsStart n s) := by
  unfold execEsStart
  repeat' (first | with_reducible (first | assumption | apply KeepO.next | apply doEsStart_k) | intro _ _ _ | intro _ _)

theorem execEsRunDone_k {zz s : State} (hs : Keep zz s) (n : Fin 28) (errs : Nat) : KeepO zz (execEsRunDone n errs s) := by
  unfold execEsRunDone
  try dsimp only
  repeat' (first | with_reducible (first | assumption | apply KeepO.next | apply Keep.when | apply wr_k | apply set1_k | apply clr_k) | intro _ _ _ | intro _ _)

end Sys2Proof.Machine
end

