-- ==== Sys2Proof/Laws/KeepNode.lean ====
section
/-! SUPPORT. Laws/KeepNode.lean: the operations and commands of Machine/Node.lean keep the invariant and the command queue. -/
namespace Sys2Proof.Machine
open State

theorem State.nodeUp_k {zz s : State} (hs : Keep zz s) (c : Nat) (f : NodeS → NodeS) : Keep zz (State.nodeUp s c f) := by
  unfold State.nodeUp
  repeat' (first | with_reducible (first | assumption | apply setNode_k) | intro _ _ _ | intro _ _)

theorem execCellSectionTaken_k {zz s : State} (hs : Keep zz s) (c : Fin 192) (p : Fin 2) (f : List Byte) (run : Nat) : KeepO zz (execCellSectionTaken c p f run s) := by
  unfold execCellSectionTaken
  try dsimp only
  repeat' (first | with_reducible (first | assumption | apply KeepO.next | apply KeepO.fault | apply drawn_k | apply nodeUp_k | apply Keep.ite | apply KeepO.ite) | intro _ _ _ | intro _ _ | split)

theorem execCellTokenCheck_k {zz s : State} (hs : Keep zz s) (c : Fin 192) (p : Fin 2) (f : List Byte) : KeepO zz (execCellTokenCheck c p f s) := by
  unfold execCellTokenCheck
  try dsimp only
  repeat' (first | with_reducible (first | assumption | apply KeepO.next | apply KeepO.fault | apply nodeUp_k | apply Keep.ite | apply KeepO.ite) | intro _ _ _ | intro _ _ | split | dsimp only)

theorem execTokenTimerExpiry_k {zz s : State} (hs : Keep zz s) (c : Fin 192) : KeepO zz (execTokenTimerExpiry c s) := by
  unfold execTokenTimerExpiry
  try dsimp only
  repeat' (first | with_reducible (first | assumption | apply KeepO.next | apply nodeUp_k | apply Keep.ite | apply KeepO.ite) | intro _ _ _ | intro _ _ | split | (with_reducible apply Keep.ofMk; with_reducible refine Keep.mk ?_))

theorem execCellFrameStart_k {zz s : State} (hs : Keep zz s) (c : Fin 192) : KeepO zz (execCellFrameStart c s) := by
  unfold execCellFrameStart
  try dsimp only
  repeat' (first | with_reducible (first | assumption | apply KeepO.next | apply drawnN_k | apply nodeUp_k) | intro _ _ _ | intro _ _)

theorem execLeakTestEnd_k {zz s : State} (hs : Keep zz s) (c : Fin 192) (na : BitVec 24) : KeepO zz (execLeakTestEnd c na s) := by
  unfold execLeakTestEnd
  try dsimp only
  repeat' (first | with_reducible (first | assumption | apply KeepO.next | apply nodeUp_k) | intro _ _ _ | intro _ _ | split | dsimp only | (with_reducible apply Keep.ofMk; with_reducible refine Keep.mk ?_))

theorem execCellEdgeExecute_k {zz s : State} (hs : Keep zz s) (c : Fin 192) : KeepO zz (execCellEdgeExecute c s) := by
  unfold execCellEdgeExecute
  repeat' (first | with_reducible (first | assumption | apply KeepO.next | apply nodeUp_k) | intro _ _ _ | intro _ _)

theorem execCellDeadtimeTurnOn_k {zz s : State} (hs : Keep zz s) (c : Fin 192) (sw : Fin 13) : KeepO zz (execCellDeadtimeTurnOn c sw s) := by
  unfold execCellDeadtimeTurnOn
  try dsimp only
  repeat' (first | with_reducible (first | assumption | apply KeepO.next | apply nodeUp_k) | intro _ _ _ | intro _ _)

theorem execHoldTimeout_k {zz s : State} (hs : Keep zz s) (c : Fin 192) : KeepO zz (execHoldTimeout c s) := by
  unfold execHoldTimeout
  try dsimp only
  repeat' (first | with_reducible (first | assumption | apply KeepO.next | apply nodeUp_k | apply Keep.ite | apply KeepO.ite) | intro _ _ _ | intro _ _ | split)

theorem execCellSample_k {zz s : State} (hs : Keep zz s) (c : Fin 192) (vdc : BitVec 16) (iarm : BitVec 16) (idab : BitVec 16) (temp : List (BitVec 16)) (von : List (BitVec 16)) : KeepO zz (execCellSample c vdc iarm idab temp von s) := by
  unfold execCellSample
  try dsimp only
  repeat' (first | with_reducible (first | assumption | apply KeepO.next | apply KeepO.fault | apply nodeUp_k | apply Keep.ite | apply KeepO.ite) | intro _ _ _ | intro _ _ | split)

theorem execCellConversionDone_k {zz s : State} (hs : Keep zz s) (c : Fin 192) : KeepO zz (execCellConversionDone c s) := by
  unfold execCellConversionDone
  try dsimp only
  repeat' (first | with_reducible (first | assumption | apply KeepO.next | apply nodeUp_k) | intro _ _ _ | intro _ _ | split | dsimp only | (with_reducible apply Keep.ofMk; with_reducible refine Keep.mk ?_))

theorem execCellReportWrite_k {zz s : State} (hs : Keep zz s) (c : Fin 192) (p : Fin 2) (f : List Byte) (resid : BitVec 16) (user : List Byte) : KeepO zz (execCellReportWrite c p f resid user s) := by
  unfold execCellReportWrite
  try dsimp only
  repeat' (first | with_reducible (first | assumption | apply KeepO.next | apply KeepO.fault | apply drawn_k | apply nodeUp_k | apply Keep.ite | apply KeepO.ite) | intro _ _ _ | intro _ _ | split)

theorem execCellInputLos_k {zz s : State} (hs : Keep zz s) (c : Fin 192) (p : Fin 2) : KeepO zz (execCellInputLos c p s) := by
  unfold execCellInputLos
  try dsimp only
  repeat' (first | with_reducible (first | assumption | apply KeepO.next | apply nodeUp_k | apply Keep.ite | apply KeepO.ite) | intro _ _ _ | intro _ _ | split | (with_reducible apply Keep.ofMk; with_reducible refine Keep.mk ?_))

theorem execCellInputRelock_k {zz s : State} (hs : Keep zz s) (c : Fin 192) (p : Fin 2) : KeepO zz (execCellInputRelock c p s) := by
  unfold execCellInputRelock
  try dsimp only
  repeat' (first | with_reducible (first | assumption | apply KeepO.next | apply nodeUp_k | apply Keep.ite | apply KeepO.ite) | intro _ _ _ | intro _ _ | split | (with_reducible apply Keep.ofMk; with_reducible refine Keep.mk ?_))

theorem execCellOrderedSetForward_k {zz s : State} (hs : Keep zz s) (c : Fin 192) (p : Fin 2) (groups : List (BitVec 10)) : KeepO zz (execCellOrderedSetForward c p groups s) := by
  unfold execCellOrderedSetForward
  try dsimp only
  repeat' (first | with_reducible (first | assumption | apply KeepO.next | apply KeepO.fault | apply nodeUp_k | apply Keep.ite | apply KeepO.ite) | intro _ _ _ | intro _ _ | split)

theorem execDesatTrip_k {zz s : State} (hs : Keep zz s) (c : Fin 192) (sw : Fin 12) (t : Nat) (mv : Nat) : KeepO zz (execDesatTrip c sw t mv s) := by
  unfold execDesatTrip
  try dsimp only
  repeat' (first | with_reducible (first | assumption | apply KeepO.next | apply nodeUp_k) | intro _ _ _ | intro _ _)

theorem execBsuvLockout_k {zz s : State} (hs : Keep zz s) (c : Fin 192) (sw : Fin 12) (low : Bool) : KeepO zz (execBsuvLockout c sw low s) := by
  unfold execBsuvLockout
  try dsimp only
  repeat' (first | with_reducible (first | assumption | apply KeepO.next | apply nodeUp_k) | intro _ _ _ | intro _ _)

theorem execCellDumpOn_k {zz s : State} (hs : Keep zz s) (c : Fin 192) : KeepO zz (execCellDumpOn c s) := by
  unfold execCellDumpOn
  try dsimp only
  repeat' (first | with_reducible (first | assumption | apply KeepO.next | apply nodeUp_k | apply Keep.ite | apply KeepO.ite) | intro _ _ _ | intro _ _ | split | (with_reducible apply Keep.ofMk; with_reducible refine Keep.mk ?_))

theorem execCellDumpOff_k {zz s : State} (hs : Keep zz s) (c : Fin 192) : KeepO zz (execCellDumpOff c s) := by
  unfold execCellDumpOff
  try dsimp only
  repeat' (first | with_reducible (first | assumption | apply KeepO.next | apply nodeUp_k) | intro _ _ _ | intro _ _ | (with_reducible apply Keep.ofMk; with_reducible refine Keep.mk ?_))

theorem execNodeReset_k {zz s : State} (hs : Keep zz s) (c : Fin 192) : KeepO zz (execNodeReset c s) := by
  unfold execNodeReset
  try dsimp only
  repeat' (first | with_reducible (first | assumption | apply KeepO.next | apply nodeUp_k | apply Keep.ite | apply KeepO.ite) | intro _ _ _ | intro _ _ | split)

end Sys2Proof.Machine
end

