-- ==== Sys2Proof/Laws/KeepPair.lean ====
section
/-! SUPPORT. Laws/KeepPair.lean: the operations and commands of Machine/Pair.lean keep the invariant and the command queue. -/
namespace Sys2Proof.Machine
open State

theorem State.setPair_k {zz s : State} (hs : Keep zz s) (x : PairH) : Keep zz (State.setPair s x) := by
  unfold State.setPair
  repeat' (first | with_reducible (first | assumption) | intro _ _ _ | intro _ _ | (with_reducible apply Keep.ofMk; with_reducible refine Keep.mk ?_))

theorem State.postPair_k {zz s : State} (hs : Keep zz s) (kind : Nat) (sev : Nat) (datum : Nat) : Keep zz (State.postPair s kind sev datum) := by
  unfold State.postPair
  repeat' (first | with_reducible (first | assumption | apply post_k) | intro _ _ _ | intro _ _)

theorem State.closeAll_k {zz s : State} (hs : Keep zz s)  : Keep zz (State.closeAll s) := by
  unfold State.closeAll
  try dsimp only
  repeat' (first | with_reducible (first | assumption | apply Keep.forEach | apply closeBooks_k) | intro _ _ _ | intro _ _)

theorem State.reopenAll_k {zz s : State} (hs : Keep zz s) (k : Nat) : Keep zz (State.reopenAll s k) := by
  unfold State.reopenAll
  try dsimp only
  repeat' (first | with_reducible (first | assumption | apply Keep.when | apply Keep.forEach | apply setCell_k) | intro _ _ _ | intro _ _ | (with_reducible apply Keep.ofMk; with_reducible refine Keep.mk ?_))

theorem State.recordEpoch_k {zz s : State} (hs : Keep zz s)  : Keep zz (State.recordEpoch s) := by
  unfold State.recordEpoch
  try dsimp only
  repeat' (first | with_reducible (first | assumption | apply recPut_k | apply setPair_k | apply Keep.ite) | intro _ _ _ | intro _ _ | split | (with_reducible apply Keep.ofMk; with_reducible refine Keep.mk ?_))

theorem State.epochLoad_k {zz s : State} (hs : Keep zz s)  : Keep zz (State.epochLoad s) := by
  unfold State.epochLoad
  try dsimp only
  repeat' (first | with_reducible (first | assumption | apply Keep.setReg | apply recLoad_k | apply setPair_k) | intro _ _ _ | intro _ _ | split | dsimp only | (with_reducible apply Keep.ofMk; with_reducible refine Keep.mk ?_))

theorem State.toActive_k {zz s : State} (hs : Keep zz s) (cause : Nat) (ch : Nat) : Keep zz (State.toActive s cause ch) := by
  unfold State.toActive
  try dsimp only
  repeat' (first | with_reducible (first | assumption | apply Keep.setReg | apply wr_k | apply clr_k | apply bump_k | apply planTakeover_k | apply setPair_k | apply postPair_k | apply reopenAll_k | apply recordEpoch_k) | intro _ _ _ | intro _ _ | (with_reducible apply Keep.ofMk; with_reducible refine Keep.mk ?_))

theorem State.demote_k {zz s : State} (hs : Keep zz s)  : Keep zz (State.demote s) := by
  unfold State.demote
  try dsimp only
  repeat' (first | with_reducible (first | assumption | apply Keep.when | apply Keep.forEach | apply wr_k | apply set1_k | apply clr_k | apply bump_k | apply setCell_k | apply planCancel_k | apply setPair_k | apply postPair_k | apply closeAll_k) | intro _ _ _ | intro _ _ | (with_reducible apply Keep.ofMk; with_reducible refine Keep.mk ?_))

theorem State.pairEval_k {zz s : State} (hs : Keep zz s)  : Keep zz (State.pairEval s) := by
  unfold State.pairEval
  try dsimp only
  repeat' (first | with_reducible (first | assumption | apply Keep.when | apply toActive_k | apply Keep.ite) | intro _ _ _ | intro _ _ | split | dsimp only)

theorem State.partnerSeen_k {zz s : State} (hs : Keep zz s) (e : Nat) (dev : Nat) (act : Bool) : Keep zz (State.partnerSeen s e dev act) := by
  unfold State.partnerSeen
  try dsimp only
  repeat' (first | with_reducible (first | assumption | apply Keep.when | apply Keep.setReg | apply wr_k | apply setPair_k | apply demote_k) | intro _ _ _ | intro _ _ | (with_reducible apply Keep.ofMk; with_reducible refine Keep.mk ?_))

theorem State.align_k {zz s : State} (hs : Keep zz s) (o : Int) : Keep zz (State.align s o) := by
  unfold State.align
  try dsimp only
  repeat' (first | with_reducible (first | assumption | apply Keep.when | apply set1_k | apply clr_k | apply setPair_k | apply postPair_k | apply Keep.ite) | intro _ _ _ | intro _ _ | split | (with_reducible apply Keep.ofMk; with_reducible refine Keep.mk ?_))

theorem State.offset_k {zz s : State} (hs : Keep zz s) (o : Int) (ring : Bool) : Keep zz (State.offset s o ring) := by
  unfold State.offset
  try dsimp only
  repeat' (first | with_reducible (first | assumption | apply wr_k | apply set1_k | apply setPair_k | apply align_k | apply Keep.ite) | intro _ _ _ | intro _ _ | split | (with_reducible apply Keep.ofMk; with_reducible refine Keep.mk ?_))

theorem State.takeRegions_k {zz s : State} (hs : Keep zz s) (n : Nat) (j : Nat) : Keep zz (State.takeRegions s n j) := by
  unfold State.takeRegions
  try dsimp only
  repeat' (first | with_reducible (first | assumption | apply Keep.when | apply Keep.forEach | apply setPair_k) | intro _ _ _ | intro _ _ | (with_reducible apply Keep.ofMk; with_reducible refine Keep.mk ?_))

theorem State.digCompare_k {zz s : State} (hs : Keep zz s) (cyc : Nat) (same : Bool) : Keep zz (State.digCompare s cyc same) := by
  unfold State.digCompare
  try dsimp only
  repeat' (first | with_reducible (first | assumption | apply Keep.when | apply set1_k | apply bump_k | apply setPair_k | apply postPair_k | apply Keep.ite) | intro _ _ _ | intro _ _ | split | (with_reducible apply Keep.ofMk; with_reducible refine Keep.mk ?_))

theorem State.digEval_k {zz s : State} (hs : Keep zz s)  : Keep zz (State.digEval s) := by
  unfold State.digEval
  try dsimp only
  repeat' (first | with_reducible (first | assumption | apply Keep.when | apply Keep.forEach | apply setPair_k | apply digCompare_k) | intro _ _ _ | intro _ _ | split | dsimp only | (with_reducible apply Keep.ofMk; with_reducible refine Keep.mk ?_))

theorem State.pairCycle_k {zz s : State} (hs : Keep zz s)  : Keep zz (State.pairCycle s) := by
  unfold State.pairCycle
  try dsimp only
  repeat' (first | with_reducible (first | assumption | apply Keep.when | apply setPair_k | apply digEval_k | apply Keep.ite) | intro _ _ _ | intro _ _ | split | (with_reducible apply Keep.ofMk; with_reducible refine Keep.mk ?_))

theorem State.mboxSend_k {zz s : State} (hs : Keep zz s) (c : Nat) (w : MbW) : Keep zz (State.mboxSend s c w) := by
  unfold State.mboxSend
  try dsimp only
  repeat' (first | with_reducible (first | assumption | apply Keep.when | apply bump_k | apply setPair_k | apply Keep.ite) | intro _ _ _ | intro _ _ | split | (with_reducible apply Keep.ofMk; with_reducible refine Keep.mk ?_))

theorem State.pairFrame_k {zz s : State} (hs : Keep zz s)  : Keep zz (State.pairFrame s) := by
  unfold State.pairFrame
  try dsimp only
  repeat' (first | with_reducible (first | assumption | apply Keep.when | apply Keep.forEach | apply wr_k | apply clrBit_k | apply setChain_k | apply setPair_k) | intro _ _ _ | intro _ _ | (with_reducible apply Keep.ofMk; with_reducible refine Keep.mk ?_))

end Sys2Proof.Machine
end

