-- ==== Sys2Proof/Laws/KeepEth.lean ====
section
/-! SUPPORT. Laws/KeepEth.lean: the operations and commands of Machine/Eth.lean keep the invariant and the command queue. -/
namespace Sys2Proof.Machine
open State

theorem State.txTail_k {zz s : State} (hs : Keep zz s) (p : Nat) (v : Nat) : Keep zz (State.txTail s p v) := by
  unfold State.txTail
  try dsimp only
  repeat' (first | with_reducible (first | assumption | apply wr_k | apply reserved_k | apply Keep.ite) | intro _ _ _ | intro _ _ | split)

theorem State.rxTail_k {zz s : State} (hs : Keep zz s) (p : Nat) (v : Nat) : Keep zz (State.rxTail s p v) := by
  unfold State.rxTail
  try dsimp only
  repeat' (first | with_reducible (first | assumption | apply wr_k | apply reserved_k | apply Keep.ite) | intro _ _ _ | intro _ _ | split)

theorem execEthTxTailWrite_k {zz s : State} (hs : Keep zz s) (p : Fin 2) (v : BitVec 8) : KeepO zz (execEthTxTailWrite p v s) := by
  unfold execEthTxTailWrite
  repeat' (first | with_reducible (first | assumption | apply KeepO.next | apply txTail_k) | intro _ _ _ | intro _ _)

theorem execEthRxTailWrite_k {zz s : State} (hs : Keep zz s) (p : Fin 2) (v : BitVec 8) : KeepO zz (execEthRxTailWrite p v s) := by
  unfold execEthRxTailWrite
  repeat' (first | with_reducible (first | assumption | apply KeepO.next | apply rxTail_k) | intro _ _ _ | intro _ _)

theorem State.ethIrq_k {zz s : State} (hs : Keep zz s) (p : Nat) : Keep zz (State.ethIrq s p) := by
  unfold State.ethIrq
  try dsimp only
  repeat' (first | with_reducible (first | assumption | apply Keep.when | apply irq_k) | intro _ _ _ | intro _ _)

theorem State.dmaPut_k {zz s : State} (hs : Keep zz s) (a : Nat) (bs : List Byte) : Keep zz (State.dmaPut s a bs) := by
  unfold State.dmaPut
  repeat' (first | with_reducible (first | assumption | apply putMem_k | apply unmapped_k | apply Keep.ite) | intro _ _ _ | intro _ _ | split)

theorem State.pdelayDone_k {zz s : State} (hs : Keep zz s) (p : Nat) (d2 : Int) : Keep zz (State.pdelayDone s p d2) := by
  unfold State.pdelayDone
  try dsimp only
  repeat' (first | with_reducible (first | assumption | apply wr_k | apply set1_k | apply bump_k | apply setEth_k) | intro _ _ _ | intro _ _ | (with_reducible apply Keep.ofMk; with_reducible refine Keep.mk ?_))

theorem State.pdelayIn_k {zz s : State} (hs : Keep zz s) (p : Nat) (f : List Byte) (t : Int) : Keep zz (State.pdelayIn s p f t) := by
  unfold State.pdelayIn
  try dsimp only
  repeat' (first | with_reducible (first | assumption | apply setEth_k | apply pdelayDone_k | apply Keep.ite) | intro _ _ _ | intro _ _ | split | dsimp only | (with_reducible apply Keep.ofMk; with_reducible refine Keep.mk ?_))

theorem execPdelayTimeout_k {zz s : State} (hs : Keep zz s) (p : Fin 2) : KeepO zz (execPdelayTimeout p s) := by
  unfold execPdelayTimeout
  try dsimp only
  repeat' (first | with_reducible (first | assumption | apply KeepO.next | apply Keep.when | apply bump_k | apply setEth_k) | intro _ _ _ | intro _ _ | (with_reducible apply Keep.ofMk; with_reducible refine Keep.mk ?_))

theorem State.secRx_k {zz s : State} (hs : Keep zz s) (p : Nat) (tag : Option SecTag) : Keep zz (State.secRx s p tag).2.2 := by
  unfold State.secRx
  try dsimp only
  repeat' (first | with_reducible (first | assumption | apply Keep.setReg | apply bump_k | apply Keep.ite) | intro _ _ _ | intro _ _ | split | dsimp only)

theorem State.secTx_k {zz s : State} (hs : Keep zz s) (p : Nat) : Keep zz (State.secTx s p).2.2 := by
  unfold State.secTx
  try dsimp only
  repeat' (first | with_reducible (first | assumption | apply Keep.when | apply Keep.setReg | apply bump_k | apply drawn_k | apply post_k | apply Keep.ite) | intro _ _ _ | intro _ _ | split | dsimp only)

theorem State.ethForward_k {zz s : State} (hs : Keep zz s) (p : Nat) (f : List Byte) (t : Int) : Keep zz (State.ethForward s p f t) := by
  unfold State.ethForward
  try dsimp only
  repeat' (first | with_reducible (first | assumption | apply Keep.when | apply bump_k | apply setEth_k | apply Keep.ite) | intro _ _ _ | intro _ _ | split | (with_reducible apply Keep.ofMk; with_reducible refine Keep.mk ?_))

theorem State.ethDeliver_k {zz s : State} (hs : Keep zz s) (p : Nat) (f : List Byte) (t : Int) (verified : Bool) (fwd : Bool) : Keep zz (State.ethDeliver s p f t verified fwd) := by
  unfold State.ethDeliver
  try dsimp only
  repeat' (first | with_reducible (first | assumption | apply wr_k | apply bump_k | apply drawn_k | apply ethIrq_k | apply dmaPut_k | apply Keep.ite) | intro _ _ _ | intro _ _ | split)

theorem State.ethReceive_k {zz s : State} (hs : Keep zz s) (p : Nat) (q : Nat) (fcsOk : Bool) (tag : Option SecTag) (f : List Byte) : Keep zz (State.ethReceive s p q fcsOk tag f) := by
  unfold State.ethReceive
  try dsimp only
  repeat' (first | with_reducible (first | assumption | apply Keep.when | apply bump_k | apply pdelayIn_k | apply secRx_k | apply ethForward_k | apply ethDeliver_k | apply Keep.ite) | intro _ _ _ | intro _ _ | split)

theorem execEthFrameReceived_k {zz s : State} (hs : Keep zz s) (p : Fin 2) (q : Nat) (fcsOk : Bool) (tag : Option SecTag) (f : List Byte) : KeepO zz (execEthFrameReceived p q fcsOk tag f s) := by
  unfold execEthFrameReceived
  repeat' (first | with_reducible (first | assumption | apply KeepO.next | apply ethReceive_k) | intro _ _ _ | intro _ _)

theorem State.ethSent_k {zz s : State} (hs : Keep zz s) (p : Nat) (f : List Byte) (pn : Option Nat) : Keep zz (State.ethSent s p f pn) := by
  unfold State.ethSent
  repeat' (first | with_reducible (first | assumption | apply setEth_k) | intro _ _ _ | intro _ _ | (with_reducible apply Keep.ofMk; with_reducible refine Keep.mk ?_))

theorem State.tcCorrect_k {zz s : State} (hs : Keep zz s) (p : Nat) (x : EthFwd) (t : Int) : Keep zz (State.tcCorrect s p x t).2 := by
  unfold State.tcCorrect
  try dsimp only
  repeat' (first | with_reducible (first | assumption | apply bump_k | apply Keep.ite) | intro _ _ _ | intro _ _ | split | dsimp only)

theorem State.sendFwd_k {zz s : State} (hs : Keep zz s) (p : Nat) (t : Int) : Keep zz (State.sendFwd s p t) := by
  unfold State.sendFwd
  try dsimp only
  repeat' (first | with_reducible (first | assumption | apply setEth_k | apply erase_k | apply secTx_k | apply ethSent_k | apply tcCorrect_k | apply Keep.ite) | intro _ _ _ | intro _ _ | split | dsimp only | (with_reducible apply Keep.ofMk; with_reducible refine Keep.mk ?_))

theorem State.oneStep_k {zz s : State} (hs : Keep zz s) (p : Nat) (d : Nat) (f : List Byte) (t : Int) : Keep zz (State.oneStep s p d f t).2.2 := by
  unfold State.oneStep
  try dsimp only
  repeat' (first | with_reducible (first | assumption | apply Keep.when | apply setEth_k | apply Keep.ite) | intro _ _ _ | intro _ _ | split | dsimp only | (with_reducible apply Keep.ofMk; with_reducible refine Keep.mk ?_))

theorem State.txReturn_k {zz s : State} (hs : Keep zz s) (p : Nat) (st : Nat) : Keep zz (State.txReturn s p st) := by
  unfold State.txReturn
  try dsimp only
  repeat' (first | with_reducible (first | assumption | apply wr_k | apply ethIrq_k | apply dmaPut_k) | intro _ _ _ | intro _ _)

theorem State.sendLocal_k {zz s : State} (hs : Keep zz s) (p : Nat) (t : Int) : Keep zz (State.sendLocal s p t) := by
  unfold State.sendLocal
  try dsimp only
  repeat' (first | with_reducible (first | assumption | apply Keep.when | apply secTx_k | apply ethSent_k | apply oneStep_k | apply txReturn_k | apply Keep.ite) | intro _ _ _ | intro _ _ | split)

theorem State.ethSend_k {zz s : State} (hs : Keep zz s) (p : Nat) (fwd : Bool) (q : Nat) : Keep zz (State.ethSend s p fwd q) := by
  unfold State.ethSend
  try dsimp only
  repeat' (first | with_reducible (first | assumption | apply Keep.when | apply sendFwd_k | apply sendLocal_k | apply Keep.ite) | intro _ _ _ | intro _ _ | split)

theorem execEthFrameSent_k {zz s : State} (hs : Keep zz s) (p : Fin 2) (fwd : Bool) (q : Nat) : KeepO zz (execEthFrameSent p fwd q s) := by
  unfold execEthFrameSent
  repeat' (first | with_reducible (first | assumption | apply KeepO.next | apply ethSend_k) | intro _ _ _ | intro _ _)

theorem State.ethUp_k {zz s : State} (hs : Keep zz s) (p : Nat) (ok : Bool) : Keep zz (State.ethUp s p ok) := by
  unfold State.ethUp
  try dsimp only
  repeat' (first | with_reducible (first | assumption | apply Keep.when | apply wr_k | apply set1_k | apply clr_k | apply Keep.ite) | intro _ _ _ | intro _ _ | split)

theorem execEthLinkUp_k {zz s : State} (hs : Keep zz s) (p : Fin 2) (ok : Bool) : KeepO zz (execEthLinkUp p ok s) := by
  unfold execEthLinkUp
  repeat' (first | with_reducible (first | assumption | apply KeepO.next | apply ethUp_k) | intro _ _ _ | intro _ _)

theorem State.ethDown_k {zz s : State} (hs : Keep zz s) (p : Nat) : Keep zz (State.ethDown s p) := by
  unfold State.ethDown
  repeat' (first | with_reducible (first | assumption | apply clr_k) | intro _ _ _ | intro _ _)

theorem execEthLinkDown_k {zz s : State} (hs : Keep zz s) (p : Fin 2) : KeepO zz (execEthLinkDown p s) := by
  unfold execEthLinkDown
  repeat' (first | with_reducible (first | assumption | apply KeepO.next | apply ethDown_k) | intro _ _ _ | intro _ _)

end Sys2Proof.Machine
end

