-- ==== Sys2Proof/Laws/KeepHost.lean ====
section
/-! SUPPORT. Laws/KeepHost.lean: the operations and commands of Machine/Host.lean keep the invariant and the command queue. -/
namespace Sys2Proof.Machine
open State

theorem State.postHost_k {zz s : State} (hs : Keep zz s) (kind : Nat) (sev : Nat) (datum : Nat) : Keep zz (State.postHost s kind sev datum) := by
  unfold State.postHost
  repeat' (first | with_reducible (first | assumption | apply post_k) | intro _ _ _ | intro _ _)

theorem State.msixFlush_k {zz s : State} (hs : Keep zz s)  : Keep zz (State.msixFlush s) := by
  unfold State.msixFlush
  try dsimp only
  repeat' (first | with_reducible (first | assumption | apply Keep.when | apply Keep.forEach | apply clrBit_k | apply msixPut_k) | intro _ _ _ | intro _ _)

theorem State.msixUnmask_k {zz s : State} (hs : Keep zz s) (v : Nat) : Keep zz (State.msixUnmask s v) := by
  unfold State.msixUnmask
  repeat' (first | with_reducible (first | assumption | apply clr_k | apply msixFlush_k) | intro _ _ _ | intro _ _)

theorem execMsixUnmask_k {zz s : State} (hs : Keep zz s) (v : Fin 32) : KeepO zz (execMsixUnmask v s) := by
  unfold execMsixUnmask
  repeat' (first | with_reducible (first | assumption | apply KeepO.next | apply msixUnmask_k) | intro _ _ _ | intro _ _)

theorem State.msixGo_k {zz s : State} (hs : Keep zz s) (v : Nat) : Keep zz (State.msixGo s v) := by
  unfold State.msixGo
  repeat' (first | with_reducible (first | assumption | apply reserved_k | apply msix_k | apply Keep.ite) | intro _ _ _ | intro _ _ | split)

theorem execMsixSend_k {zz s : State} (hs : Keep zz s) (v : Fin 32) : KeepO zz (execMsixSend v s) := by
  unfold execMsixSend
  repeat' (first | with_reducible (first | assumption | apply KeepO.next | apply msixGo_k) | intro _ _ _ | intro _ _)

theorem State.doorbell_k {zz s : State} (hs : Keep zz s) (i : Nat) (w : Nat) : Keep zz (State.doorbell s i w) := by
  unfold State.doorbell
  try dsimp only
  repeat' (first | with_reducible (first | assumption | apply Keep.when | apply Keep.setReg | apply setBit_k | apply irqTo_k | apply postHost_k) | intro _ _ _ | intro _ _)

theorem execDoorbellWrite_k {zz s : State} (hs : Keep zz s) (i : Fin 8) (w : BitVec 32) : KeepO zz (execDoorbellWrite i w s) := by
  unfold execDoorbellWrite
  try dsimp only
  repeat' (first | with_reducible (first | assumption | apply KeepO.next | apply Keep.when | apply doorbell_k) | intro _ _ _ | intro _ _)

theorem State.setH2d_k {z s : State} (hs : Keep z s) {l : List Word} (hl : s.Inv → l.length ≤ 32) : Keep z (s.setH2d l) := by
  unfold State.setH2d
  apply Keep.when
  · apply State.wr_k
    exact ⟨fun x => ⟨(hs.1 x).1, (hs.1 x).2.1, (hs.1 x).2.2.1, (hs.1 x).2.2.2.1, hl (hs.1 x), (hs.1 x).2.2.2.2.2⟩, hs.2⟩
  · intro _ h; exact State.irqTo_k h _ _

theorem State.setD2h_k {z s : State} (hs : Keep z s) {l : List Word} (hl : s.Inv → l.length ≤ 32) : Keep z (s.setD2h l) := by
  unfold State.setD2h
  apply Keep.when
  · apply State.wr_k
    exact ⟨fun x => ⟨(hs.1 x).1, (hs.1 x).2.1, (hs.1 x).2.2.1, (hs.1 x).2.2.2.1, (hs.1 x).2.2.2.2.1, hl (hs.1 x)⟩, hs.2⟩
  · intro _ h; exact State.msix_k h _

theorem State.h2dWrite_k {z s : State} (hs : Keep z s) (w : Word) : Keep z (s.h2dWrite w) := by
  unfold State.h2dWrite
  split
  · exact State.setH2d_k hs fun _ => by simp; omega
  · exact State.postHost_k (State.bump_k hs _) _ _ _

theorem State.h2dRead_k {z s : State} (hs : Keep z s) : Keep z s.h2dRead.2 := by
  unfold State.h2dRead
  split
  · exact hs
  · rename_i w r h
    refine State.setH2d_k hs fun hi => ?_
    have := hi.2.2.2.2.1
    rw [h, List.length_cons] at this
    omega

theorem State.d2hWrite_k {z s : State} (hs : Keep z s) (w : Word) : Keep z (s.d2hWrite w) := by
  unfold State.d2hWrite
  split
  · exact State.setD2h_k hs fun _ => by simp; omega
  · exact State.set1_k hs _

theorem State.d2hRead_k {z s : State} (hs : Keep z s) : Keep z s.d2hRead.2 := by
  unfold State.d2hRead
  split
  · exact hs
  · rename_i w r h
    refine State.setD2h_k hs fun hi => ?_
    have := hi.2.2.2.2.2
    rw [h, List.length_cons] at this
    omega

theorem execH2dWrite_k {zz s : State} (hs : Keep zz s) (w : BitVec 32) : KeepO zz (execH2dWrite w s) := by
  unfold execH2dWrite
  try dsimp only
  repeat' (first | with_reducible (first | assumption | apply KeepO.next | apply Keep.when | apply h2dWrite_k) | intro _ _ _ | intro _ _)

theorem execH2dRead_k {zz s : State} (hs : Keep zz s)  : KeepO zz (execH2dRead s) := by
  unfold execH2dRead
  repeat' (first | with_reducible (first | assumption | apply KeepO.next | apply h2dRead_k) | intro _ _ _ | intro _ _)

theorem execD2hWrite_k {zz s : State} (hs : Keep zz s) (w : BitVec 32) : KeepO zz (execD2hWrite w s) := by
  unfold execD2hWrite
  repeat' (first | with_reducible (first | assumption | apply KeepO.next | apply d2hWrite_k) | intro _ _ _ | intro _ _)

theorem execD2hRead_k {zz s : State} (hs : Keep zz s)  : KeepO zz (execD2hRead s) := by
  unfold execD2hRead
  try dsimp only
  repeat' (first | with_reducible (first | assumption | apply KeepO.next | apply Keep.when | apply d2hRead_k) | intro _ _ _ | intro _ _)

theorem State.dmaTail_k {zz s : State} (hs : Keep zz s) (d : Nat) (v : Nat) : Keep zz (State.dmaTail s d v) := by
  unfold State.dmaTail
  try dsimp only
  repeat' (first | with_reducible (first | assumption | apply wr_k | apply reserved_k | apply Keep.ite) | intro _ _ _ | intro _ _ | split)

theorem execDmaTailWrite_k {zz s : State} (hs : Keep zz s) (d : Fin 4) (v : BitVec 8) : KeepO zz (execDmaTailWrite d v s) := by
  unfold execDmaTailWrite
  repeat' (first | with_reducible (first | assumption | apply KeepO.next | apply dmaTail_k) | intro _ _ _ | intro _ _)

theorem State.dmaReturn_k {zz s : State} (hs : Keep zz s) (d : Nat) (st : Nat) : Keep zz (State.dmaReturn s d st) := by
  unfold State.dmaReturn
  try dsimp only
  repeat' (first | with_reducible (first | assumption | apply Keep.when | apply wr_k | apply bump_k | apply msix_k | apply dmaPut_k | apply postHost_k) | intro _ _ _ | intro _ _)

theorem State.dmaDone_k {zz s : State} (hs : Keep zz s) (d : Nat) (err : Bool) (data : List Byte) : Keep zz (State.dmaDone s d err data) := by
  unfold State.dmaDone
  try dsimp only
  repeat' (first | with_reducible (first | assumption | apply Keep.when | apply putMem_k | apply hostPut_k | apply dmaReturn_k | apply Keep.ite) | intro _ _ _ | intro _ _ | split)

theorem execDmaDescriptorDone_k {zz s : State} (hs : Keep zz s) (d : Fin 4) (err : Bool) (data : List Byte) : KeepO zz (execDmaDescriptorDone d err data s) := by
  unfold execDmaDescriptorDone
  repeat' (first | with_reducible (first | assumption | apply KeepO.next | apply dmaDone_k) | intro _ _ _ | intro _ _)

theorem State.pcieDown_k {zz s : State} (hs : Keep zz s)  : Keep zz (State.pcieDown s) := by
  unfold State.pcieDown
  try dsimp only
  repeat' (first | with_reducible (first | assumption | apply Keep.when | apply Keep.forEach | apply clr_k | apply postHost_k | apply dmaReturn_k) | intro _ _ _ | intro _ _)

theorem execPcieLinkDown_k {zz s : State} (hs : Keep zz s)  : KeepO zz (execPcieLinkDown s) := by
  unfold execPcieLinkDown
  repeat' (first | with_reducible (first | assumption | apply KeepO.next | apply pcieDown_k) | intro _ _ _ | intro _ _)

theorem execPcieLinkUp_k {zz s : State} (hs : Keep zz s) (w : Fin 3) (v : Fin 3) : KeepO zz (execPcieLinkUp w v s) := by
  unfold execPcieLinkUp
  repeat' (first | with_reducible (first | assumption | apply KeepO.next | apply wr_k | apply set1_k | apply msixFlush_k) | intro _ _ _ | intro _ _)

theorem execBmeSet_k {zz s : State} (hs : Keep zz s)  : KeepO zz (execBmeSet s) := by
  unfold execBmeSet
  repeat' (first | with_reducible (first | assumption | apply KeepO.next | apply set1_k | apply msixFlush_k) | intro _ _ _ | intro _ _)

theorem execBmeClear_k {zz s : State} (hs : Keep zz s)  : KeepO zz (execBmeClear s) := by
  unfold execBmeClear
  repeat' (first | with_reducible (first | assumption | apply KeepO.next | apply clr_k) | intro _ _ _ | intro _ _)

theorem State.perst_k {zz s : State} (hs : Keep zz s)  : Keep zz (State.perst s) := by
  unfold State.perst
  try dsimp only
  repeat' (first | with_reducible (first | assumption | apply Keep.forEach | apply Keep.setReg | apply pcieDown_k) | intro _ _ _ | intro _ _)

theorem execPerst_k {zz s : State} (hs : Keep zz s)  : KeepO zz (execPerst s) := by
  unfold execPerst
  repeat' (first | with_reducible (first | assumption | apply KeepO.next | apply perst_k) | intro _ _ _ | intro _ _)

end Sys2Proof.Machine
end

