-- ==== Sys2Proof/Laws/KeepCan.lean ====
section
/-! SUPPORT. Laws/KeepCan.lean: the operations and commands of Machine/Can.lean keep the invariant and the command queue. -/
namespace Sys2Proof.Machine
open State

theorem State.postCan_k {zz s : State} (hs : Keep zz s) (m : Nat) (kind : Nat) (cls : Nat) (sev : Nat) (datum : Nat) : Keep zz (State.postCan s m kind cls sev datum) := by
  unfold State.postCan
  repeat' (first | with_reducible (first | assumption | apply post_k) | intro _ _ _ | intro _ _)

theorem State.canNow_k {zz s : State} (hs : Keep zz s) (m : Nat) : Keep zz (State.canNow s m) := by
  unfold State.canNow
  try dsimp only
  repeat' (first | with_reducible (first | assumption | apply Keep.when | apply wr_k | apply drawn_k | apply wrFree_k) | intro _ _ _ | intro _ _)

theorem State.canCand_k {zz s : State} (hs : Keep zz s) (m : Nat) : Keep zz (State.canCand s m) := by
  unfold State.canCand
  try dsimp only
  repeat' (first | with_reducible (first | assumption | apply setCan_k | apply Keep.ite) | intro _ _ _ | intro _ _ | split | dsimp only | (with_reducible apply Keep.ofMk; with_reducible refine Keep.mk ?_))

theorem State.canStart_k {zz s : State} (hs : Keep zz s) (m : Nat) : Keep zz (State.canStart s m) := by
  unfold State.canStart
  repeat' (first | with_reducible (first | assumption | apply wr_k | apply setCan_k) | intro _ _ _ | intro _ _ | (with_reducible apply Keep.ofMk; with_reducible refine Keep.mk ?_))

theorem State.canPend_k {zz s : State} (hs : Keep zz s) (m : Nat) : Keep zz (State.canPend s m) := by
  unfold State.canPend
  repeat' (first | with_reducible (first | assumption | apply wr_k) | intro _ _ _ | intro _ _)

theorem State.txEnd_k {zz s : State} (hs : Keep zz s) (m : Nat) (o : Nat) (ok : Bool) : Keep zz (State.txEnd s m o ok) := by
  unfold State.txEnd
  try dsimp only
  repeat' (first | with_reducible (first | assumption | apply set1_k | apply clr_k | apply bump_k | apply canIr_k | apply canPend_k | apply Keep.ite) | intro _ _ _ | intro _ _ | split)

theorem State.setreq_k {zz s : State} (hs : Keep zz s) (m : Nat) (o : Nat) : Keep zz (State.setreq s m o) := by
  unfold State.setreq
  repeat' (first | with_reducible (first | assumption | apply set1_k | apply canCand_k | apply canPend_k | apply Keep.ite) | intro _ _ _ | intro _ _ | split)

theorem execCanSetreq_k {zz s : State} (hs : Keep zz s) (m : Fin 4) (o : Fin 64) : KeepO zz (execCanSetreq m o s) := by
  unfold execCanSetreq
  repeat' (first | with_reducible (first | assumption | apply KeepO.next | apply setreq_k) | intro _ _ _ | intro _ _)

theorem State.cancel_k {zz s : State} (hs : Keep zz s) (m : Nat) (o : Nat) (started : Bool) : Keep zz (State.cancel s m o started) := by
  unfold State.cancel
  try dsimp only
  repeat' (first | with_reducible (first | assumption | apply Keep.when | apply set1_k | apply setCan_k | apply canCand_k | apply txEnd_k | apply Keep.ite) | intro _ _ _ | intro _ _ | split | (with_reducible apply Keep.ofMk; with_reducible refine Keep.mk ?_))

theorem execCanCancel_k {zz s : State} (hs : Keep zz s) (m : Fin 4) (o : Fin 64) (started : Bool) : KeepO zz (execCanCancel m o started s) := by
  unfold execCanCancel
  repeat' (first | with_reducible (first | assumption | apply KeepO.next | apply cancel_k) | intro _ _ _ | intro _ _)

theorem State.canStore_k {zz s : State} (hs : Keep zz s) (m : Nat) (o : Nat) (f : CanFrame) : Keep zz (State.canStore s m o f) := by
  unfold State.canStore
  try dsimp only
  repeat' (first | with_reducible (first | assumption | apply Keep.when | apply Keep.forEach | apply Keep.same | apply Keep.setReg | apply wr_k | apply set1_k | apply bump_k | apply canIr_k | apply postCan_k | apply Keep.ite) | intro _ _ _ | intro _ _ | split)

theorem State.canTake_k {zz s : State} (hs : Keep zz s) (m : Nat) (f : CanFrame) : Keep zz (State.canTake s m f) := by
  unfold State.canTake
  try dsimp only
  repeat' (first | with_reducible (first | assumption | apply bump_k | apply canStore_k) | intro _ _ _ | intro _ _ | split | dsimp only)

theorem State.rxsRead_k {zz s : State} (hs : Keep zz s) (m : Nat) (o : Nat) : Keep zz (State.rxsRead s m o) := by
  unfold State.rxsRead
  repeat' (first | with_reducible (first | assumption | apply clr_k) | intro _ _ _ | intro _ _)

theorem execCanRxsRead_k {zz s : State} (hs : Keep zz s) (m : Fin 4) (o : Fin 64) : KeepO zz (execCanRxsRead m o s) := by
  unfold execCanRxsRead
  repeat' (first | with_reducible (first | assumption | apply KeepO.next | apply rxsRead_k) | intro _ _ _ | intro _ _)

theorem State.canState_k {zz s : State} (hs : Keep zz s) (m : Nat) : Keep zz (State.canState s m) := by
  unfold State.canState
  try dsimp only
  repeat' (first | with_reducible (first | assumption | apply Keep.when | apply wr_k | apply canIr_k | apply postCan_k | apply Keep.ite) | intro _ _ _ | intro _ _ | split)

theorem State.canCount128_k {zz s : State} (hs : Keep zz s) (m : Nat) : Keep zz (State.canCount128 s m) := by
  unfold State.canCount128
  repeat' (first | with_reducible (first | assumption | apply set1_k | apply clr_k) | intro _ _ _ | intro _ _)

theorem State.busOff_k {zz s : State} (hs : Keep zz s) (m : Nat) : Keep zz (State.busOff s m) := by
  unfold State.busOff
  try dsimp only
  repeat' (first | with_reducible (first | assumption | apply Keep.when | apply wr_k | apply setCan_k | apply canIr_k | apply postCan_k | apply canCount128_k) | intro _ _ _ | intro _ _ | (with_reducible apply Keep.ofMk; with_reducible refine Keep.mk ?_))

theorem State.tecUp_k {zz s : State} (hs : Keep zz s) (m : Nat) : Keep zz (State.tecUp s m) := by
  unfold State.tecUp
  try dsimp only
  repeat' (first | with_reducible (first | assumption | apply wr_k | apply canState_k | apply busOff_k | apply Keep.ite) | intro _ _ _ | intro _ _ | split)

theorem State.recUp_k {zz s : State} (hs : Keep zz s) (m : Nat) (k : Nat) : Keep zz (State.recUp s m k) := by
  unfold State.recUp
  try dsimp only
  repeat' (first | with_reducible (first | assumption | apply Keep.when | apply wr_k | apply set1_k | apply canState_k) | intro _ _ _ | intro _ _)

theorem State.recDown_k {zz s : State} (hs : Keep zz s) (m : Nat) : Keep zz (State.recDown s m) := by
  unfold State.recDown
  try dsimp only
  repeat' (first | with_reducible (first | assumption | apply wr_k | apply clr_k | apply drawn_k | apply canState_k | apply Keep.ite) | intro _ _ _ | intro _ _ | split)

theorem State.canReceive_k {zz s : State} (hs : Keep zz s) (m : Nat) (f : CanFrame) (sof : Nat) (len : Nat) : Keep zz (State.canReceive s m f sof len) := by
  unfold State.canReceive
  try dsimp only
  repeat' (first | with_reducible (first | assumption | apply Keep.when | apply canCount_k | apply canStart_k | apply canTake_k | apply recDown_k) | intro _ _ _ | intro _ _)

theorem execCanFrameReceived_k {zz s : State} (hs : Keep zz s) (m : Fin 4) (f : CanFrame) (sof : Nat) (len : Nat) : KeepO zz (execCanFrameReceived m f sof len s) := by
  unfold execCanFrameReceived
  repeat' (first | with_reducible (first | assumption | apply KeepO.next | apply canReceive_k) | intro _ _ _ | intro _ _)

theorem State.canRxErr_k {zz s : State} (hs : Keep zz s) (m : Nat) (pxe : Bool) (big : Bool) : Keep zz (State.canRxErr s m pxe big) := by
  unfold State.canRxErr
  try dsimp only
  repeat' (first | with_reducible (first | assumption | apply Keep.when | apply set1_k | apply bump_k | apply canIr_k | apply postCan_k | apply canStart_k | apply recUp_k | apply Keep.ite) | intro _ _ _ | intro _ _ | split)

theorem execCanRxError_k {zz s : State} (hs : Keep zz s) (m : Fin 4) (pxe : Bool) (big : Bool) : KeepO zz (execCanRxError m pxe big s) := by
  unfold execCanRxError
  repeat' (first | with_reducible (first | assumption | apply KeepO.next | apply canRxErr_k) | intro _ _ _ | intro _ _)

theorem State.tdcMeasure_k {zz s : State} (hs : Keep zz s) (m : Nat) (o : Nat) (d : Nat) : Keep zz (State.tdcMeasure s m o d) := by
  unfold State.tdcMeasure
  try dsimp only
  repeat' (first | with_reducible (first | assumption | apply Keep.when | apply wr_k | apply postCan_k) | intro _ _ _ | intro _ _)

theorem State.canTxDone_k {zz s : State} (hs : Keep zz s) (m : Nat) (o : Nat) (d : Nat) (sof : Nat) (len : Nat) : Keep zz (State.canTxDone s m o d sof len) := by
  unfold State.canTxDone
  try dsimp only
  repeat' (first | with_reducible (first | assumption | apply Keep.when | apply Keep.setReg | apply wr_k | apply canCount_k | apply canStart_k | apply txEnd_k | apply canTake_k | apply canState_k | apply tdcMeasure_k) | intro _ _ _ | intro _ _)

theorem execCanTxDone_k {zz s : State} (hs : Keep zz s) (m : Fin 4) (o : Fin 64) (d : Nat) (sof : Nat) (len : Nat) : KeepO zz (execCanTxDone m o d sof len s) := by
  unfold execCanTxDone
  repeat' (first | with_reducible (first | assumption | apply KeepO.next | apply canTxDone_k) | intro _ _ _ | intro _ _)

theorem State.canTxFail_k {zz s : State} (hs : Keep zz s) (m : Nat) (o : Nat) (arb : Bool) (quiet : Bool) : Keep zz (State.canTxFail s m o arb quiet) := by
  unfold State.canTxFail
  try dsimp only
  repeat' (first | with_reducible (first | assumption | apply Keep.when | apply bump_k | apply canStart_k | apply txEnd_k | apply tecUp_k | apply Keep.ite) | intro _ _ _ | intro _ _ | split)

theorem execCanTxFail_k {zz s : State} (hs : Keep zz s) (m : Fin 4) (o : Fin 64) (arb : Bool) (quiet : Bool) : KeepO zz (execCanTxFail m o arb quiet s) := by
  unfold execCanTxFail
  repeat' (first | with_reducible (first | assumption | apply KeepO.next | apply canTxFail_k) | intro _ _ _ | intro _ _)

theorem State.canRecover_k {zz s : State} (hs : Keep zz s) (m : Nat) : Keep zz (State.canRecover s m) := by
  unfold State.canRecover
  try dsimp only
  repeat' (first | with_reducible (first | assumption | apply Keep.when | apply canCount128_k) | intro _ _ _ | intro _ _)

theorem execCanRecover_k {zz s : State} (hs : Keep zz s) (m : Fin 4) : KeepO zz (execCanRecover m s) := by
  unfold execCanRecover
  repeat' (first | with_reducible (first | assumption | apply KeepO.next | apply canRecover_k) | intro _ _ _ | intro _ _)

theorem State.canRecovered_k {zz s : State} (hs : Keep zz s) (m : Nat) : Keep zz (State.canRecovered s m) := by
  unfold State.canRecovered
  try dsimp only
  repeat' (first | with_reducible (first | assumption | apply Keep.when | apply wr_k | apply clr_k | apply setCan_k | apply canIr_k | apply postCan_k | apply canStart_k) | intro _ _ _ | intro _ _ | (with_reducible apply Keep.ofMk; with_reducible refine Keep.mk ?_))

theorem execCanBusoffRecovered_k {zz s : State} (hs : Keep zz s) (m : Fin 4) : KeepO zz (execCanBusoffRecovered m s) := by
  unfold execCanBusoffRecovered
  repeat' (first | with_reducible (first | assumption | apply KeepO.next | apply canRecovered_k) | intro _ _ _ | intro _ _)

theorem State.initClear_k {zz s : State} (hs : Keep zz s) (m : Nat) : Keep zz (State.initClear s m) := by
  unfold State.initClear
  try dsimp only
  repeat' (first | with_reducible (first | assumption | apply Keep.when | apply wr_k | apply clr_k | apply postCan_k | apply canStart_k | apply canState_k | apply Keep.ite) | intro _ _ _ | intro _ _ | split)

theorem execCanInitClear_k {zz s : State} (hs : Keep zz s) (m : Fin 4) : KeepO zz (execCanInitClear m s) := by
  unfold execCanInitClear
  repeat' (first | with_reducible (first | assumption | apply KeepO.next | apply initClear_k) | intro _ _ _ | intro _ _)

theorem State.initSet_k {zz s : State} (hs : Keep zz s) (m : Nat) : Keep zz (State.initSet s m) := by
  unfold State.initSet
  try dsimp only
  repeat' (first | with_reducible (first | assumption | apply wr_k | apply set1_k | apply setCan_k) | intro _ _ _ | intro _ _ | (with_reducible apply Keep.ofMk; with_reducible refine Keep.mk ?_))

theorem execCanTscap_k {zz s : State} (hs : Keep zz s) (m : Fin 4) (p : Nat) : KeepO zz (execCanTscap m p s) := by
  unfold execCanTscap
  repeat' (first | with_reducible (first | assumption | apply KeepO.next | apply tscap_k) | intro _ _ _ | intro _ _)

theorem State.canStop_k {zz s : State} (hs : Keep zz s) (m : Nat) : Keep zz (State.canStop s m) := by
  unfold State.canStop
  try dsimp only
  repeat' (first | with_reducible (first | assumption | apply Keep.when | apply set1_k | apply setCan_k | apply postCan_k) | intro _ _ _ | intro _ _ | (with_reducible apply Keep.ofMk; with_reducible refine Keep.mk ?_))

theorem execCanClockStop_k {zz s : State} (hs : Keep zz s) (m : Fin 4) : KeepO zz (execCanClockStop m s) := by
  unfold execCanClockStop
  repeat' (first | with_reducible (first | assumption | apply KeepO.next | apply canStop_k) | intro _ _ _ | intro _ _)

end Sys2Proof.Machine
end

