-- ==== Sys2Proof/Laws/KeepReset.lean ====
section
/-! SUPPORT. Laws/KeepReset.lean: the operations and commands of Machine/Reset.lean keep the invariant and the command queue. -/
namespace Sys2Proof.Machine
open State

theorem State.suspend_k {zz s : State} (hs : Keep zz s)  : Keep zz (State.suspend s) := by
  unfold State.suspend
  repeat' (first | with_reducible (first | assumption | apply wr_k | apply nvShow_k) | intro _ _ _ | intro _ _)

theorem State.railWarn_k {zz s : State} (hs : Keep zz s) (r : Nat) : Keep zz (State.railWarn s r) := by
  unfold State.railWarn
  try dsimp only
  repeat' (first | with_reducible (first | assumption | apply Keep.when | apply setBit_k | apply post_k | apply burnAbort_k | apply suspend_k) | intro _ _ _ | intro _ _)

theorem execRailWarn_k {zz s : State} (hs : Keep zz s) (r : Fin 10) : KeepO zz (execRailWarn r s) := by
  unfold execRailWarn
  repeat' (first | with_reducible (first | assumption | apply KeepO.next | apply railWarn_k) | intro _ _ _ | intro _ _)

theorem State.epochResume_k {zz s : State} (hs : Keep zz s)  : Keep zz (State.epochResume s) := by
  unfold State.epochResume
  try dsimp only
  repeat' (first | with_reducible (first | assumption | apply Keep.when | apply setPair_k | apply postPair_k) | intro _ _ _ | intro _ _ | (with_reducible apply Keep.ofMk; with_reducible refine Keep.mk ?_))

theorem State.railRecover_k {zz s : State} (hs : Keep zz s) (r : Nat) : Keep zz (State.railRecover s r) := by
  unfold State.railRecover
  try dsimp only
  repeat' (first | with_reducible (first | assumption | apply Keep.when | apply bump_k | apply clrBit_k | apply post_k | apply nvStart_k | apply recResume_k | apply suspend_k | apply epochResume_k) | intro _ _ _ | intro _ _)

theorem execRailRecover_k {zz s : State} (hs : Keep zz s) (r : Fin 10) : KeepO zz (execRailRecover r s) := by
  unfold execRailRecover
  repeat' (first | with_reducible (first | assumption | apply KeepO.next | apply railRecover_k) | intro _ _ _ | intro _ _)

theorem State.coldRegs_k {z s : State} (hs : Keep z s) (p : Nat → Bool) : Keep z (s.coldRegs p) :=
  ⟨fun x => ⟨⟨Tbl.wf_filter (hs.1 x).1.1 _, (hs.1 x).1.2⟩, (hs.1 x).2⟩, hs.2⟩

theorem State.coldMem_k {z s : State} (hs : Keep z s) (p : Nat → Bool) : Keep z (s.coldMem p) :=
  ⟨fun x => ⟨⟨(hs.1 x).1.1, Tbl.wf_filter (hs.1 x).1.2 _⟩, (hs.1 x).2⟩, hs.2⟩

theorem wf_resetWith (m : Nat → Nat) (l : List (Nat × Word)) : Registers.wf (resetWith m l) := by
  have : ∀ (l t : List (Nat × Word)), Registers.wf t →
      Registers.wf (l.foldl (fun t e => Tbl.set coldOf t e.1 (maskReset m e.1 e.2)) t) := by
    intro l
    induction l with
    | nil => exact fun t h => h
    | cons e l ih => exact fun t h => ih _ (Tbl.wf_set h _ _)
  exact this l [] rfl

theorem State.resetRegs_k {z s : State} (hs : Keep z s) (m : Nat → Nat) : Keep z (s.resetRegs m) :=
  ⟨fun x => ⟨⟨wf_resetWith _ _, (hs.1 x).1.2⟩, (hs.1 x).2⟩, hs.2⟩

theorem State.trcCold_k {z s : State} (hs : Keep z s) : Keep z s.trcCold :=
  ⟨fun x => ⟨(hs.1 x).1, (hs.1 x).2.1, (hs.1 x).2.2.1, Nat.zero_le _, (hs.1 x).2.2.2.2⟩, hs.2⟩

theorem State.logicReset_k {z s : State} (hs : Keep z s) (m : Nat → Nat) : Keep z (s.logicReset m) :=
  have hf := State.recFlush_k hs
  ⟨fun x => ⟨⟨wf_resetWith _ _, Tbl.wf_filter (hf.1 x).1.2 _⟩, by simp [State.logicReset, State.tracked]⟩, hf.2⟩

theorem State.afterReset_k {zz s : State} (hs : Keep zz s)  : Keep zz (State.afterReset s) := by
  unfold State.afterReset
  try dsimp only
  repeat' (first | with_reducible (first | assumption | apply Keep.forEach | apply wr_k | apply pins_k | apply burn_k) | intro _ _ _ | intro _ _)

theorem State.coldReset_k {zz s : State} (hs : Keep zz s)  : Keep zz (State.coldReset s) := by
  unfold State.coldReset
  try dsimp only
  repeat' (first | with_reducible (first | assumption | apply Keep.forEach | apply wr_k | apply setSys_k | apply logicReset_k | apply afterReset_k) | intro _ _ _ | intro _ _ | (with_reducible apply Keep.ofMk; with_reducible refine Keep.mk ?_))

theorem State.warmReset_k {zz s : State} (hs : Keep zz s)  : Keep zz (State.warmReset s) := by
  unfold State.warmReset
  try dsimp only
  repeat' (first | with_reducible (first | assumption | apply setSec_k | apply setSys_k | apply logicReset_k | apply afterReset_k) | intro _ _ _ | intro _ _ | (with_reducible apply Keep.ofMk; with_reducible refine Keep.mk ?_))

theorem State.anaReset_k {zz s : State} (hs : Keep zz s)  : Keep zz (State.anaReset s) := by
  unfold State.anaReset
  try dsimp only
  repeat' (first | with_reducible (first | assumption | apply Keep.when | apply Keep.forEach | apply set1_k | apply setSys_k | apply tripLine_k | apply linkDown_k | apply coldRegs_k) | intro _ _ _ | intro _ _ | (with_reducible apply Keep.ofMk; with_reducible refine Keep.mk ?_))

theorem State.islReset_k {zz s : State} (hs : Keep zz s)  : Keep zz (State.islReset s) := by
  unfold State.islReset
  try dsimp only
  repeat' (first | with_reducible (first | assumption | apply setIsl_k | apply tokensOff_k | apply resetRegs_k | apply Keep.ite) | intro _ _ _ | intro _ _ | split)

theorem State.outputsOff_k {zz s : State} (hs : Keep zz s)  : Keep zz (State.outputsOff s) := by
  unfold State.outputsOff
  try dsimp only
  repeat' (first | with_reducible (first | assumption | apply Keep.forEach | apply wr_k | apply clr_k | apply setSys_k | apply lpwmOff_k | apply laneShow_k | apply pcieDown_k) | intro _ _ _ | intro _ _ | (with_reducible apply Keep.ofMk; with_reducible refine Keep.mk ?_))

theorem State.doReset_k {zz s : State} (hs : Keep zz s)  : Keep zz (State.doReset s) := by
  unfold State.doReset
  repeat' (first | with_reducible (first | assumption | apply coldReset_k | apply warmReset_k | apply Keep.ite) | intro _ _ _ | intro _ _ | split)

theorem State.assertSrc_k {zz s : State} (hs : Keep zz s) (k : Nat) : Keep zz (State.assertSrc s k) := by
  unfold State.assertSrc
  try dsimp only
  repeat' (first | with_reducible (first | assumption | apply Keep.when | apply setSys_k | apply anaReset_k | apply islReset_k | apply outputsOff_k | apply doReset_k | apply Keep.ite) | intro _ _ _ | intro _ _ | split | (with_reducible apply Keep.ofMk; with_reducible refine Keep.mk ?_))

theorem State.releaseSrc_k {zz s : State} (hs : Keep zz s) (k : Nat) : Keep zz (State.releaseSrc s k) := by
  unfold State.releaseSrc
  repeat' (first | with_reducible (first | assumption | apply setSys_k) | intro _ _ _ | intro _ _ | (with_reducible apply Keep.ofMk; with_reducible refine Keep.mk ?_))

theorem State.railLow_k {zz s : State} (hs : Keep zz s) (r : Nat) : Keep zz (State.railLow s r) := by
  unfold State.railLow
  try dsimp only
  repeat' (first | with_reducible (first | assumption | apply Keep.when | apply setSys_k | apply assertSrc_k) | intro _ _ _ | intro _ _ | (with_reducible apply Keep.ofMk; with_reducible refine Keep.mk ?_))

theorem execRailBelowReset_k {zz s : State} (hs : Keep zz s) (r : Fin 10) : KeepO zz (execRailBelowReset r s) := by
  unfold execRailBelowReset
  repeat' (first | with_reducible (first | assumption | apply KeepO.next | apply railLow_k) | intro _ _ _ | intro _ _)

theorem State.porRelease_k {zz s : State} (hs : Keep zz s) (r : Nat) : Keep zz (State.porRelease s r) := by
  unfold State.porRelease
  try dsimp only
  repeat' (first | with_reducible (first | assumption | apply Keep.when | apply setSys_k | apply releaseSrc_k) | intro _ _ _ | intro _ _ | (with_reducible apply Keep.ofMk; with_reducible refine Keep.mk ?_))

theorem execPorRelease_k {zz s : State} (hs : Keep zz s) (r : Fin 10) : KeepO zz (execPorRelease r s) := by
  unfold execPorRelease
  repeat' (first | with_reducible (first | assumption | apply KeepO.next | apply porRelease_k) | intro _ _ _ | intro _ _)

theorem execNresetAssert_k {zz s : State} (hs : Keep zz s)  : KeepO zz (execNresetAssert s) := by
  unfold execNresetAssert
  repeat' (first | with_reducible (first | assumption | apply KeepO.next | apply assertSrc_k) | intro _ _ _ | intro _ _)

theorem execNresetRelease_k {zz s : State} (hs : Keep zz s)  : KeepO zz (execNresetRelease s) := by
  unfold execNresetRelease
  repeat' (first | with_reducible (first | assumption | apply KeepO.next | apply releaseSrc_k) | intro _ _ _ | intro _ _)

theorem execMramPulseDone_k {zz s : State} (hs : Keep zz s)  : KeepO zz (execMramPulseDone s) := by
  unfold execMramPulseDone
  try dsimp only
  repeat' (first | with_reducible (first | assumption | apply KeepO.next | apply Keep.when | apply setSys_k | apply nvStart_k | apply nvPulseEnd_k | apply doReset_k | apply Keep.ite | apply KeepO.ite) | intro _ _ _ | intro _ _ | split | (with_reducible apply Keep.ofMk; with_reducible refine Keep.mk ?_))

theorem State.episodeBooks_k {zz s : State} (hs : Keep zz s)  : Keep zz (State.episodeBooks s) := by
  unfold State.episodeBooks
  try dsimp only
  repeat' (first | with_reducible (first | assumption | apply Keep.when | apply wr_k | apply bump_k | apply drawn_k | apply Keep.ite) | intro _ _ _ | intro _ _ | split)

theorem State.loadRequest_k {zz s : State} (hs : Keep zz s)  : Keep zz (State.loadRequest s) := by
  unfold State.loadRequest
  try dsimp only
  repeat' (first | with_reducible (first | assumption | apply wr_k | apply drawn_k | apply irq_k | apply post_k | apply setIsl_k) | intro _ _ _ | intro _ _ | (with_reducible apply Keep.ofMk; with_reducible refine Keep.mk ?_))

theorem State.blkDrop_k {zz s : State} (hs : Keep zz s) (c : Nat) : Keep zz (State.blkDrop s c) := by
  unfold State.blkDrop
  try dsimp only
  repeat' (first | with_reducible (first | assumption | apply Keep.when | apply Keep.forEach | apply setLane_k | apply setCore_k | apply setEng_k | apply setAdc_k | apply setEth_k | apply setCan_k | apply chainWait_k | apply laneDown_k | apply groupSafe_k | apply trcCold_k | apply Keep.ite) | intro _ _ _ | intro _ _ | split | (with_reducible apply Keep.ofMk; with_reducible refine Keep.mk ?_))

theorem State.blkCount_k {zz s : State} (hs : Keep zz s) (c : Nat) (k : Nat) : Keep zz (State.blkCount s c k) := by
  unfold State.blkCount
  try dsimp only
  repeat' (first | with_reducible (first | assumption | apply Keep.when | apply addSat_k) | intro _ _ _ | intro _ _)

theorem State.blkReset_k {zz s : State} (hs : Keep zz s) (c : Nat) (test : Bool) : Keep zz (State.blkReset s c test) := by
  unfold State.blkReset
  try dsimp only
  repeat' (first | with_reducible (first | assumption | apply Keep.when | apply wr_k | apply set1_k | apply setSys_k | apply post_k | apply reserved_k | apply powerCheck_k | apply idle_k | apply coldRegs_k | apply blkDrop_k | apply blkCount_k | apply Keep.ite) | intro _ _ _ | intro _ _ | split | dsimp only | (with_reducible apply Keep.ofMk; with_reducible refine Keep.mk ?_))

theorem execBlockReset_k {zz s : State} (hs : Keep zz s) (code : BitVec 7) (test : Bool) : KeepO zz (execBlockReset code test s) := by
  unfold execBlockReset
  repeat' (first | with_reducible (first | assumption | apply KeepO.next | apply blkReset_k) | intro _ _ _ | intro _ _)

theorem State.blkDone_k {zz s : State} (hs : Keep zz s)  : Keep zz (State.blkDone s) := by
  unfold State.blkDone
  try dsimp only
  repeat' (first | with_reducible (first | assumption | apply Keep.when | apply clr_k | apply setSys_k) | intro _ _ _ | intro _ _ | split | dsimp only | (with_reducible apply Keep.ofMk; with_reducible refine Keep.mk ?_))

theorem execBlockResetDone_k {zz s : State} (hs : Keep zz s)  : KeepO zz (execBlockResetDone s) := by
  unfold execBlockResetDone
  repeat' (first | with_reducible (first | assumption | apply KeepO.next | apply blkDone_k) | intro _ _ _ | intro _ _)

theorem State.blkTested_k {zz s : State} (hs : Keep zz s) (pass : Bool) : Keep zz (State.blkTested s pass) := by
  unfold State.blkTested
  try dsimp only
  repeat' (first | with_reducible (first | assumption | apply Keep.when | apply set1_k | apply setSys_k | apply post_k | apply coldMem_k | apply Keep.ite) | intro _ _ _ | intro _ _ | split | dsimp only | (with_reducible apply Keep.ofMk; with_reducible refine Keep.mk ?_))

theorem execBlockSelfTestDone_k {zz s : State} (hs : Keep zz s) (pass : Bool) : KeepO zz (execBlockSelfTestDone pass s) := by
  unfold execBlockSelfTestDone
  repeat' (first | with_reducible (first | assumption | apply KeepO.next | apply blkTested_k) | intro _ _ _ | intro _ _)

end Sys2Proof.Machine
end

