-- ==== Sys2Proof/Laws/KeepBoot.lean ====
section
/-! SUPPORT. Laws/KeepBoot.lean: the operations and commands of Machine/Boot.lean keep the invariant and the command queue. -/
namespace Sys2Proof.Machine
open State

theorem State.loadSecs_k {zz s : State} (hs : Keep zz s) (b : List Byte) : Keep zz (State.loadSecs s b) := by
  unfold State.loadSecs
  try dsimp only
  repeat' (first | with_reducible (first | assumption | apply Keep.forEach | apply Keep.setBytes) | intro _ _ _ | intro _ _)

theorem State.clearSecs_k {zz s : State} (hs : Keep zz s) (b : List Byte) : Keep zz (State.clearSecs s b) := by
  unfold State.clearSecs
  try dsimp only
  repeat' (first | with_reducible (first | assumption | apply Keep.forEach | apply coldMem_k) | intro _ _ _ | intro _ _)

theorem State.loadTasks_k {zz s : State} (hs : Keep zz s) (t : List Byte) : Keep zz (State.loadTasks s t) := by
  unfold State.loadTasks
  try dsimp only
  repeat' (first | with_reducible (first | assumption | apply Keep.forEach | apply Keep.setReg) | intro _ _ _ | intro _ _)

theorem State.setStep_k {zz s : State} (hs : Keep zz s) (k : Nat) : Keep zz (State.setStep s k) := by
  unfold State.setStep
  repeat' (first | with_reducible (first | assumption | apply wr_k) | intro _ _ _ | intro _ _)

theorem State.bootStep6_k {zz s : State} (hs : Keep zz s) (b : List Byte) : Keep zz (State.bootStep6 s b) := by
  unfold State.bootStep6
  try dsimp only
  repeat' (first | with_reducible (first | assumption | apply Keep.setBytes | apply setSys_k | apply post_k | apply loadTasks_k | apply setStep_k) | intro _ _ _ | intro _ _ | split | dsimp only | (with_reducible apply Keep.ofMk; with_reducible refine Keep.mk ?_))

theorem State.bootTry_k {zz s : State} (hs : Keep zz s) (src : Nat) (x : BootImg) : Keep zz (State.bootTry s src x).2 := by
  unfold State.bootTry
  try dsimp only
  repeat' (first | with_reducible (first | assumption | apply Keep.when | apply wr_k | apply post_k | apply lanesTry_k | apply violate_k | apply loadSecs_k | apply clearSecs_k | apply setStep_k | apply bootStep6_k | apply Keep.ite) | intro _ _ _ | intro _ _ | split | dsimp only)

theorem State.bootSources_k {z s : State} (hs : Keep z s) (l : List (Nat × Option BootImg)) : Keep z (State.bootSources s l) := by
  induction l generalizing s with
  | nil => exact State.wr_k (State.setStep_k hs _) _ _
  | cons e l ih =>
    obtain ⟨k, x⟩ := e
    cases x with
    | none => exact ih hs
    | some x =>
      unfold State.bootSources
      dsimp only
      split
      · exact State.bootTry_k hs _ _
      · exact ih (State.bootTry_k hs _ _)

theorem State.vaultUnwrap_k {zz s : State} (hs : Keep zz s) (ok : Bool) : Keep zz (State.vaultUnwrap s ok) := by
  unfold State.vaultUnwrap
  try dsimp only
  repeat' (first | with_reducible (first | assumption | apply wr_k | apply postSec_k | apply vaultShow_k | apply Keep.ite) | intro _ _ _ | intro _ _ | split)

theorem State.bootStart_k {zz s : State} (hs : Keep zz s) (b : BootIn) : Keep zz (State.bootStart s b) := by
  unfold State.bootStart
  try dsimp only
  repeat' (first | with_reducible (first | assumption | apply setCore_k | apply setSys_k | apply setEngSt_k | apply adpllOn_k | apply setStep_k | apply vaultUnwrap_k) | intro _ _ _ | intro _ _ | (with_reducible apply Keep.ofMk; with_reducible refine Keep.mk ?_))

theorem State.bootTest_k {zz s : State} (hs : Keep zz s) (b : BootIn) : Keep zz (State.bootTest s b).2 := by
  unfold State.bootTest
  try dsimp only
  repeat' (first | with_reducible (first | assumption | apply Keep.forEach | apply setSys_k | apply post_k | apply setStep_k | apply Keep.ite) | intro _ _ _ | intro _ _ | split | dsimp only | (with_reducible apply Keep.ofMk; with_reducible refine Keep.mk ?_))

theorem State.bootLocked_k {zz s : State} (hs : Keep zz s)  : Keep zz (State.bootLocked s) := by
  unfold State.bootLocked
  try dsimp only
  repeat' (first | with_reducible (first | assumption | apply Keep.when | apply setSys_k | apply bootSources_k | apply bootTest_k | apply Keep.ite) | intro _ _ _ | intro _ _ | split | dsimp only | (with_reducible apply Keep.ofMk; with_reducible refine Keep.mk ?_))

theorem execLockWindowEnd_k {zz s : State} (hs : Keep zz s) (p : Fin 2) (count : Nat) : KeepO zz (execLockWindowEnd p count s) := by
  unfold execLockWindowEnd
  repeat' (first | with_reducible (first | assumption | apply KeepO.next | apply doWindow_k | apply bootLocked_k) | intro _ _ _ | intro _ _)

theorem State.hoursCold_k {zz s : State} (hs : Keep zz s)  : Keep zz (State.hoursCold s) := by
  unfold State.hoursCold
  try dsimp only
  repeat' (first | with_reducible (first | assumption | apply Keep.setReg | apply Keep.ite) | intro _ _ _ | intro _ _ | split)

theorem State.doRelease_k {zz s : State} (hs : Keep zz s) (b : BootIn) : Keep zz (State.doRelease s b) := by
  unfold State.doRelease
  try dsimp only
  repeat' (first | with_reducible (first | assumption | apply Keep.when | apply setSys_k | apply islRecords_k | apply recHead_k | apply vaultLoad_k | apply epochLoad_k | apply anaReset_k | apply islReset_k | apply doReset_k | apply episodeBooks_k | apply loadRequest_k | apply bootStart_k | apply hoursCold_k | apply Keep.ite) | intro _ _ _ | intro _ _ | split | (with_reducible apply Keep.ofMk; with_reducible refine Keep.mk ?_))

theorem execResetRelease_k {zz s : State} (hs : Keep zz s) (b : BootIn) : KeepO zz (execResetRelease b s) := by
  unfold execResetRelease
  repeat' (first | with_reducible (first | assumption | apply KeepO.next | apply doRelease_k) | intro _ _ _ | intro _ _)

theorem State.hostGo_k {zz s : State} (hs : Keep zz s) (keyOk : Bool) (sigOk : Bool) : Keep zz (State.hostGo s keyOk sigOk) := by
  unfold State.hostGo
  try dsimp only
  repeat' (first | with_reducible (first | assumption | apply Keep.when | apply bootTry_k) | intro _ _ _ | intro _ _)

theorem execHostImageGo_k {zz s : State} (hs : Keep zz s) (keyOk : Bool) (sigOk : Bool) : KeepO zz (execHostImageGo keyOk sigOk s) := by
  unfold execHostImageGo
  repeat' (first | with_reducible (first | assumption | apply KeepO.next | apply hostGo_k) | intro _ _ _ | intro _ _)

theorem State.bootStep8_k {zz s : State} (hs : Keep zz s)  : Keep zz (State.bootStep8 s) := by
  unfold State.bootStep8
  try dsimp only
  repeat' (first | with_reducible (first | assumption | apply setCore_k | apply setSys_k | apply setStep_k) | intro _ _ _ | intro _ _ | (with_reducible apply Keep.ofMk; with_reducible refine Keep.mk ?_))

theorem execIslandLoadEnd_k {zz s : State} (hs : Keep zz s) (pcrc : BitVec 32) (bcrc : BitVec 32) (prog : List Byte) (block : List Byte) : KeepO zz (execIslandLoadEnd pcrc bcrc prog block s) := by
  unfold execIslandLoadEnd
  try dsimp only
  repeat' (first | with_reducible (first | assumption | apply KeepO.next | apply KeepO.fault | apply Keep.when | apply doLoadEnd_k | apply bootStep8_k | apply Keep.ite | apply KeepO.ite) | intro _ _ _ | intro _ _ | split)

theorem State.configDone_k {zz s : State} (hs : Keep zz s)  : Keep zz (State.configDone s) := by
  unfold State.configDone
  try dsimp only
  repeat' (first | with_reducible (first | assumption | apply Keep.when | apply wr_k | apply setDev_k | apply islEval_k | apply setStep_k) | intro _ _ _ | intro _ _)

theorem execConfigDone_k {zz s : State} (hs : Keep zz s)  : KeepO zz (execConfigDone s) := by
  unfold execConfigDone
  repeat' (first | with_reducible (first | assumption | apply KeepO.next | apply configDone_k) | intro _ _ _ | intro _ _)

theorem execConfigTimeout_k {zz s : State} (hs : Keep zz s)  : KeepO zz (execConfigTimeout s) := by
  unfold execConfigTimeout
  try dsimp only
  repeat' (first | with_reducible (first | assumption | apply KeepO.next | apply Keep.when | apply setSys_k | apply post_k) | intro _ _ _ | intro _ _ | (with_reducible apply Keep.ofMk; with_reducible refine Keep.mk ?_))

end Sys2Proof.Machine
end

