-- ==== Sys2Proof/Laws/KeepFrames.lean ====
section
/-! SUPPORT. Laws/KeepFrames.lean: the operations and commands of Machine/Frames.lean keep the invariant and the command queue. -/
namespace Sys2Proof.Machine
open State

theorem State.tcorrStep_k {zz s : State} (hs : Keep zz s) (n : Nat) (path : Nat) (p : Nat) (c : Nat) : Keep zz (State.tcorrStep s n path p c) := by
  unfold State.tcorrStep
  try dsimp only
  repeat' (first | with_reducible (first | assumption | apply Keep.when | apply wr_k | apply Keep.ite) | intro _ _ _ | intro _ _ | split | dsimp only)

theorem State.setMode_k {zz s : State} (hs : Keep zz s) (c : Nat) (m : Nat) : Keep zz (State.setMode s c m) := by
  unfold State.setMode
  try dsimp only
  repeat' (first | with_reducible (first | assumption | apply Keep.when | apply wr_k | apply cutWaves_k | apply discardCell_k | apply Keep.ite) | intro _ _ _ | intro _ _ | split | (with_reducible apply Keep.ofMk; with_reducible refine Keep.mk ?_))

theorem State.takeEdges_k {zz s : State} (hs : Keep zz s) (c : Nat) (k : Nat) : Keep zz (State.takeEdges s c k).2 := by
  unfold State.takeEdges
  try dsimp only
  repeat' (first | with_reducible (first | assumption | apply wr_k | apply setCell_k | apply Keep.ite) | intro _ _ _ | intro _ _ | split | dsimp only | (with_reducible apply Keep.ofMk; with_reducible refine Keep.mk ?_))

theorem State.dueEdges_k {zz s : State} (hs : Keep zz s) (c : Nat) (k : Nat) : Keep zz (State.dueEdges s c k) := by
  unfold State.dueEdges
  try dsimp only
  repeat' (first | with_reducible (first | assumption | apply Keep.when | apply setCell_k | apply setPlan_k | apply auxDone_k | apply starve_k | apply Keep.ite) | intro _ _ _ | intro _ _ | split | (with_reducible apply Keep.ofMk; with_reducible refine Keep.mk ?_))

theorem State.pickW_k {zz s : State} (hs : Keep zz s) (c : Nat) (k : Nat) : Keep zz (State.pickW s c k).2 := by
  unfold State.pickW
  try dsimp only
  repeat' (first | with_reducible (first | assumption | apply Keep.when | apply clr_k | apply setCell_k | apply rearmSent_k | apply Keep.ite) | intro _ _ _ | intro _ _ | split | dsimp only | (with_reducible apply Keep.ofMk; with_reducible refine Keep.mk ?_))

theorem State.takeMb_k {zz s : State} (hs : Keep zz s) (c : Nat) (k : Nat) : Keep zz (State.takeMb s c k).2 := by
  unfold State.takeMb
  try dsimp only
  repeat' (first | with_reducible (first | assumption | apply wr_k | apply setCell_k | apply mboxSend_k | apply pickW_k | apply Keep.ite) | intro _ _ _ | intro _ _ | split | dsimp only | (with_reducible apply Keep.ofMk; with_reducible refine Keep.mk ?_))

theorem State.secNew_k {zz s : State} (hs : Keep zz s) (c : Nat) (k : Nat) : Keep zz (State.secNew s c k).2 := by
  unfold State.secNew
  try dsimp only
  repeat' (first | with_reducible (first | assumption | apply setCell_k | apply setMode_k | apply takeEdges_k | apply dueEdges_k | apply takeMb_k) | intro _ _ _ | intro _ _ | dsimp only | (with_reducible apply Keep.ofMk; with_reducible refine Keep.mk ?_))

theorem State.pulseBlocked_k {zz s : State} (hs : Keep zz s) (c : Nat) (x : SecCmd) : Keep zz (State.pulseBlocked s c x).2 := by
  unfold State.pulseBlocked
  try dsimp only
  repeat' (first | with_reducible (first | assumption | apply setMode_k | apply Keep.ite) | intro _ _ _ | intro _ _ | split | dsimp only | (with_reducible apply Keep.ofMk; with_reducible refine Keep.mk ?_))

theorem State.secCmd_k {zz s : State} (hs : Keep zz s) (c : Nat) (k : Nat) : Keep zz (State.secCmd s c k).2 := by
  unfold State.secCmd
  try dsimp only
  repeat' (first | with_reducible (first | assumption | apply secNew_k | apply pulseBlocked_k | apply Keep.ite) | intro _ _ _ | intro _ _ | split | dsimp only)

theorem State.sendSec_k {zz s : State} (hs : Keep zz s) (n : Nat) (path : Nat) (p : Nat) (k : Nat) (bad : Bool) : Keep zz (State.sendSec s n path p k bad).2 := by
  unfold State.sendSec
  try dsimp only
  repeat' (first | with_reducible (first | assumption | apply tcorrStep_k | apply secCmd_k | apply Keep.ite) | intro _ _ _ | intro _ _ | split | dsimp only)

theorem State.sendSecs_k {z s : State} (hs : Keep z s) (n path k : Nat) (under : Option Nat) (l : List Nat) :
    Keep z (State.sendSecs s n path k under l).2 := by
  induction l generalizing s with
  | nil => exact hs
  | cons i l ih =>
    unfold State.sendSecs
    dsimp only
    split
    · exact ih hs
    · exact ih (State.sendSec_k hs _ _ _ _ _)

theorem State.sendFrame_k {zz s : State} (hs : Keep zz s) (l : Nat) (k : Nat) (hdr : List Byte) (secs : List (List Byte)) : Keep zz (State.sendFrame s l k hdr secs) := by
  unfold State.sendFrame
  try dsimp only
  repeat' (first | with_reducible (first | assumption | apply drawn_k | apply setLane_k | apply Keep.ite) | intro _ _ _ | intro _ _ | split | dsimp only | (with_reducible apply Keep.ofMk; with_reducible refine Keep.mk ?_))

theorem State.doDepart_k {zz s : State} (hs : Keep zz s) (l : Nat) (under : Option Nat) : Keep zz (State.doDepart s l under) := by
  unfold State.doDepart
  try dsimp only
  repeat' (first | with_reducible (first | assumption | apply Keep.when | apply bump_k | apply timeTo_k | apply postLane_k | apply sendSecs_k | apply sendFrame_k) | intro _ _ _ | intro _ _)

theorem execFrameDepart_k {zz s : State} (hs : Keep zz s) (l : Fin 24) (under : Option (Fin 8)) : KeepO zz (execFrameDepart l under s) := by
  unfold execFrameDepart
  repeat' (first | with_reducible (first | assumption | apply KeepO.next | apply doDepart_k) | intro _ _ _ | intro _ _)

theorem State.doFrameStart_k {zz s : State} (hs : Keep zz s)  : Keep zz (State.doFrameStart s) := by
  unfold State.doFrameStart
  try dsimp only
  repeat' (first | with_reducible (first | assumption | apply Keep.when | apply timeTo_k | apply protRelease_k | apply islHold_k | apply pairEval_k | apply pairFrame_k) | intro _ _ _ | intro _ _ | (with_reducible apply Keep.ofMk; with_reducible refine Keep.mk ?_))

theorem execFrameStart_k {zz s : State} (hs : Keep zz s)  : KeepO zz (execFrameStart s) := by
  unfold execFrameStart
  repeat' (first | with_reducible (first | assumption | apply KeepO.next | apply Keep.when | apply doFrameStart_k) | intro _ _ _ | intro _ _)

theorem State.takeRx_k {zz s : State} (hs : Keep zz s) (l : Nat) (a : Nat) (n : Nat) : Keep zz (State.takeRx s l a n).2 := by
  unfold State.takeRx
  try dsimp only
  repeat' (first | with_reducible (first | assumption | apply setLane_k) | intro _ _ _ | intro _ _ | dsimp only | (with_reducible apply Keep.ofMk; with_reducible refine Keep.mk ?_))

theorem State.goodHeader_k {zz s : State} (hs : Keep zz s) (n : Nat) (l : Nat) (path : Nat) (rp : Nat) (t : Nat) (hops : Nat) : Keep zz (State.goodHeader s n l path rp t hops) := by
  unfold State.goodHeader
  try dsimp only
  repeat' (first | with_reducible (first | assumption | apply Keep.when | apply wr_k | apply setLane_k | apply setChain_k | apply setRing_k | apply chainProgress_k | apply chainEval_k) | intro _ _ _ | intro _ _ | (with_reducible apply Keep.ofMk; with_reducible refine Keep.mk ?_))

theorem State.loopedNow_k {zz s : State} (hs : Keep zz s) (n : Nat) : Keep zz (State.loopedNow s n) := by
  unfold State.loopedNow
  try dsimp only
  repeat' (first | with_reducible (first | assumption | apply Keep.when | apply set1_k | apply setChain_k | apply postPair_k) | intro _ _ _ | intro _ _ | (with_reducible apply Keep.ofMk; with_reducible refine Keep.mk ?_))

theorem State.badHeader_k {zz s : State} (hs : Keep zz s) (n : Nat) (l : Nat) (other : Bool) : Keep zz (State.badHeader s n l other) := by
  unfold State.badHeader
  repeat' (first | with_reducible (first | assumption | apply bump_k | apply setLane_k) | intro _ _ _ | intro _ _ | (with_reducible apply Keep.ofMk; with_reducible refine Keep.mk ?_))

theorem State.headerIn_k {zz s : State} (hs : Keep zz s) (l : Nat) (h : List Byte) (arr : Nat) : Keep zz (State.headerIn s l h arr) := by
  unfold State.headerIn
  try dsimp only
  repeat' (first | with_reducible (first | assumption | apply Keep.when | apply setChain_k | apply timeTo_k | apply pairEval_k | apply partnerSeen_k | apply offset_k | apply goodHeader_k | apply loopedNow_k | apply badHeader_k | apply Keep.ite) | intro _ _ _ | intro _ _ | split | (with_reducible apply Keep.ofMk; with_reducible refine Keep.mk ?_))

theorem State.doHeader_k {zz s : State} (hs : Keep zz s) (l : Nat) (arr : Nat) : Keep zz (State.doHeader s l arr) := by
  unfold State.doHeader
  try dsimp only
  repeat' (first | with_reducible (first | assumption | apply takeRx_k | apply headerIn_k) | intro _ _ _ | intro _ _ | split | dsimp only)

theorem execHeaderReceived_k {zz s : State} (hs : Keep zz s) (l : Fin 24) (arr : Nat) : KeepO zz (execHeaderReceived l arr s) := by
  unfold execHeaderReceived
  repeat' (first | with_reducible (first | assumption | apply KeepO.next | apply doHeader_k) | intro _ _ _ | intro _ _)

theorem State.doMissed_k {zz s : State} (hs : Keep zz s) (n : Nat) (p : Nat) : Keep zz (State.doMissed s n p) := by
  unfold State.doMissed
  try dsimp only
  repeat' (first | with_reducible (first | assumption | apply Keep.when | apply bump_k | apply setChain_k | apply chainEval_k | apply pairEval_k) | intro _ _ _ | intro _ _ | (with_reducible apply Keep.ofMk; with_reducible refine Keep.mk ?_))

theorem execHeaderMissed_k {zz s : State} (hs : Keep zz s) (n : Fin 24) (p : Fin 2) : KeepO zz (execHeaderMissed n p s) := by
  unfold execHeaderMissed
  repeat' (first | with_reducible (first | assumption | apply KeepO.next | apply doMissed_k) | intro _ _ _ | intro _ _)

theorem State.reportStat_k {zz s : State} (hs : Keep zz s) (c : Nat) (path : Nat) (bs : List Byte) : Keep zz (State.reportStat s c path bs) := by
  unfold State.reportStat
  try dsimp only
  repeat' (first | with_reducible (first | assumption | apply Keep.when | apply wr_k | apply setCell_k) | intro _ _ _ | intro _ _ | (with_reducible apply Keep.ofMk; with_reducible refine Keep.mk ?_))

theorem State.ackTwin_k {zz s : State} (hs : Keep zz s) (c : Nat) (path : Nat) (tag : Nat) (st : Nat) : Keep zz (State.ackTwin s c path tag st).2 := by
  unfold State.ackTwin
  try dsimp only
  repeat' (first | with_reducible (first | assumption | apply setCell_k | apply erase_k | apply Keep.ite) | intro _ _ _ | intro _ _ | split | dsimp only | (with_reducible apply Keep.ofMk; with_reducible refine Keep.mk ?_))

theorem State.reportAck_k {zz s : State} (hs : Keep zz s) (c : Nat) (path : Nat) (tag : Nat) (st : Nat) (rdata : Nat) : Keep zz (State.reportAck s c path tag st rdata) := by
  unfold State.reportAck
  try dsimp only
  repeat' (first | with_reducible (first | assumption | apply Keep.setReg | apply wr_k | apply setCell_k | apply irq_k | apply protAck_k | apply erase_k | apply setPair_k | apply ackTwin_k | apply Keep.ite) | intro _ _ _ | intro _ _ | split | dsimp only | (with_reducible apply Keep.ofMk; with_reducible refine Keep.mk ?_))

theorem State.booksOpened_k {zz s : State} (hs : Keep zz s) (c : Nat) (again : Bool) : Keep zz (State.booksOpened s c again) := by
  unfold State.booksOpened
  try dsimp only
  repeat' (first | with_reducible (first | assumption | apply Keep.when | apply setCell_k | apply discardCell_k | apply pushStart_k | apply pushAll_k | apply setPair_k | apply Keep.ite) | intro _ _ _ | intro _ _ | split | (with_reducible apply Keep.ofMk; with_reducible refine Keep.mk ?_))

theorem State.reportIn_k {zz s : State} (hs : Keep zz s) (c : Nat) (path : Nat) (bs : List Byte) : Keep zz (State.reportIn s c path bs) := by
  unfold State.reportIn
  try dsimp only
  repeat' (first | with_reducible (first | assumption | apply Keep.when | apply chainProgress_k | apply reportBooks_k | apply cstFill_k | apply protReport_k | apply cellsSync_k | apply reportStat_k | apply reportAck_k | apply booksOpened_k) | intro _ _ _ | intro _ _)

theorem State.sectionIn_k {zz s : State} (hs : Keep zz s) (l : Nat) (i : Nat) (bs : List Byte) : Keep zz (State.sectionIn s l i bs) := by
  unfold State.sectionIn
  try dsimp only
  repeat' (first | with_reducible (first | assumption | apply bump_k | apply reportIn_k | apply Keep.ite) | intro _ _ _ | intro _ _ | split | dsimp only)

theorem State.doReport_k {zz s : State} (hs : Keep zz s) (l : Nat) (i : Nat) : Keep zz (State.doReport s l i) := by
  unfold State.doReport
  try dsimp only
  repeat' (first | with_reducible (first | assumption | apply takeRx_k | apply sectionIn_k) | intro _ _ _ | intro _ _ | split | dsimp only)

theorem execReportSectionReceived_k {zz s : State} (hs : Keep zz s) (l : Fin 24) (i : Fin 8) : KeepO zz (execReportSectionReceived l i s) := by
  unfold execReportSectionReceived
  repeat' (first | with_reducible (first | assumption | apply KeepO.next | apply doReport_k) | intro _ _ _ | intro _ _)

theorem State.chainEn_k {zz s : State} (hs : Keep zz s) (n : Nat) (v : Nat) : Keep zz (State.chainEn s n v) := by
  unfold State.chainEn
  try dsimp only
  repeat' (first | with_reducible (first | assumption | apply wr_k | apply reserved_k | apply rws_k | apply chainOff_k | apply chainWait_k | apply chainEval_k | apply Keep.ite) | intro _ _ _ | intro _ _ | split)

theorem execChainEnable_k {zz s : State} (hs : Keep zz s) (n : Fin 24) : KeepO zz (execChainEnable n s) := by
  unfold execChainEnable
  repeat' (first | with_reducible (first | assumption | apply KeepO.next | apply chainEn_k) | intro _ _ _ | intro _ _)

theorem execChainDisable_k {zz s : State} (hs : Keep zz s) (n : Fin 24) : KeepO zz (execChainDisable n s) := by
  unfold execChainDisable
  repeat' (first | with_reducible (first | assumption | apply KeepO.next | apply chainEn_k) | intro _ _ _ | intro _ _)

theorem State.relink_k {zz s : State} (hs : Keep zz s) (n : Nat) : Keep zz (State.relink s n) := by
  unfold State.relink
  try dsimp only
  repeat' (first | with_reducible (first | assumption | apply Keep.when | apply chainWait_k | apply chainEval_k) | intro _ _ _ | intro _ _)

theorem execChainRelink_k {zz s : State} (hs : Keep zz s) (n : Fin 24) : KeepO zz (execChainRelink n s) := by
  unfold execChainRelink
  repeat' (first | with_reducible (first | assumption | apply KeepO.next | apply relink_k) | intro _ _ _ | intro _ _)

theorem State.doSyncTimeout_k {zz s : State} (hs : Keep zz s) (n : Nat) : Keep zz (State.doSyncTimeout s n) := by
  unfold State.doSyncTimeout
  try dsimp only
  repeat' (first | with_reducible (first | assumption | apply Keep.when | apply Keep.forEach | apply set1_k | apply postChain_k | apply setChainSt_k) | intro _ _ _ | intro _ _)

theorem execSyncTimeout_k {zz s : State} (hs : Keep zz s) (n : Fin 24) : KeepO zz (execSyncTimeout n s) := by
  unfold execSyncTimeout
  repeat' (first | with_reducible (first | assumption | apply KeepO.next | apply doSyncTimeout_k) | intro _ _ _ | intro _ _)

theorem State.mbGo_k {zz s : State} (hs : Keep zz s) (c : Nat) : Keep zz (State.mbGo s c) := by
  unfold State.mbGo
  try dsimp only
  repeat' (first | with_reducible (first | assumption | apply Keep.when | apply set1_k | apply setCell_k | apply Keep.ite) | intro _ _ _ | intro _ _ | split | (with_reducible apply Keep.ofMk; with_reducible refine Keep.mk ?_))

theorem execMbGo_k {zz s : State} (hs : Keep zz s) (c : Fin 192) : KeepO zz (execMbGo c s) := by
  unfold execMbGo
  repeat' (first | with_reducible (first | assumption | apply KeepO.next | apply mbGo_k) | intro _ _ _ | intro _ _)

theorem execCycleGridEnable_k {zz s : State} (hs : Keep zz s)  : KeepO zz (execCycleGridEnable s) := by
  unfold execCycleGridEnable
  try dsimp only
  repeat' (first | with_reducible (first | assumption | apply KeepO.next | apply set1_k | apply rws_k | apply setGrid_k) | intro _ _ _ | intro _ _)

theorem State.cycleNext_k {zz s : State} (hs : Keep zz s)  : Keep zz (State.cycleNext s) := by
  unfold State.cycleNext
  try dsimp only
  repeat' (first | with_reducible (first | assumption | apply Keep.setReg | apply timeTo_k | apply cycleChains_k | apply migrateCycle_k | apply ttCycle_k | apply planCycle_k | apply pairCycle_k) | intro _ _ _ | intro _ _ | (with_reducible apply Keep.ofMk; with_reducible refine Keep.mk ?_))

theorem State.doCycleStart_k {zz s : State} (hs : Keep zz s)  : Keep zz (State.doCycleStart s) := by
  unfold State.doCycleStart
  try dsimp only
  repeat' (first | with_reducible (first | assumption | apply Keep.when | apply timeTo_k | apply setGrid_k | apply dropCycleDues_k | apply cycleNext_k | apply Keep.ite) | intro _ _ _ | intro _ _ | split)

theorem execCycleStart_k {zz s : State} (hs : Keep zz s)  : KeepO zz (execCycleStart s) := by
  unfold execCycleStart
  repeat' (first | with_reducible (first | assumption | apply KeepO.next | apply doCycleStart_k) | intro _ _ _ | intro _ _)

theorem State.doSwap_k {zz s : State} (hs : Keep zz s) (c : Nat) : Keep zz (State.doSwap s c) := by
  unfold State.doSwap
  try dsimp only
  repeat' (first | with_reducible (first | assumption | apply Keep.when | apply cstSwap_k | apply ttSwap_k) | intro _ _ _ | intro _ _)

theorem execCstSwap_k {zz s : State} (hs : Keep zz s) (c : Fin 192) : KeepO zz (execCstSwap c s) := by
  unfold execCstSwap
  repeat' (first | with_reducible (first | assumption | apply KeepO.next | apply doSwap_k) | intro _ _ _ | intro _ _)

end Sys2Proof.Machine
end

