-- ==== Sys2Proof/Laws/KeepSaddle.lean ====
section
/-! SUPPORT. Laws/KeepSaddle.lean: the operations and commands of Machine/Saddle.lean keep the invariant and the command queue. -/
namespace Sys2Proof.Machine
open State

theorem State.queueSlot_k {zz s : State} (hs : Keep zz s) (k : Nat) : Keep zz (State.queueSlot s k).2 := by
  unfold State.queueSlot
  try dsimp only
  repeat' (first | with_reducible (first | assumption | apply setPair_k | apply Keep.ite) | intro _ _ _ | intro _ _ | split | dsimp only | (with_reducible apply Keep.ofMk; with_reducible refine Keep.mk ?_))

theorem State.saddleSlot_k {zz s : State} (hs : Keep zz s) (lane : Nat) (i : Nat) (k : Nat) : Keep zz (State.saddleSlot s lane i k).2 := by
  unfold State.saddleSlot
  try dsimp only
  repeat' (first | with_reducible (first | assumption | apply queueSlot_k | apply Keep.ite) | intro _ _ _ | intro _ _ | split | dsimp only)

theorem State.saddleSlots_k {z s : State} (hs : Keep z s) (lane k : Nat) (under : Option Nat) (l : List Nat) :
    Keep z (State.saddleSlots s lane k under l).2 := by
  induction l generalizing s with
  | nil => exact hs
  | cons i l ih =>
    unfold State.saddleSlots
    exact ih (State.saddleSlot_k hs _ _ _)

theorem State.doSaddleDepart_k {zz s : State} (hs : Keep zz s) (i : Nat) (under : Option Nat) : Keep zz (State.doSaddleDepart s i under) := by
  unfold State.doSaddleDepart
  try dsimp only
  repeat' (first | with_reducible (first | assumption | apply Keep.when | apply bump_k | apply timeTo_k | apply postLane_k | apply sendFrame_k | apply saddleSlots_k) | intro _ _ _ | intro _ _)

theorem execSaddleFrameDepart_k {zz s : State} (hs : Keep zz s) (i : Fin 4) (under : Option (Fin 8)) : KeepO zz (execSaddleFrameDepart i under s) := by
  unfold execSaddleFrameDepart
  repeat' (first | with_reducible (first | assumption | apply KeepO.next | apply doSaddleDepart_k) | intro _ _ _ | intro _ _)

theorem State.heartbeat_k {zz s : State} (hs : Keep zz s) (i : Nat) (f : Nat) (arr : Nat) : Keep zz (State.heartbeat s i f arr) := by
  unfold State.heartbeat
  try dsimp only
  repeat' (first | with_reducible (first | assumption | apply set1_k | apply setBit_k | apply setPair_k) | intro _ _ _ | intro _ _ | (with_reducible apply Keep.ofMk; with_reducible refine Keep.mk ?_))

theorem State.partnerId_k {zz s : State} (hs : Keep zz s) (h : List Byte) : Keep zz (State.partnerId s h) := by
  unfold State.partnerId
  try dsimp only
  repeat' (first | with_reducible (first | assumption | apply wr_k | apply set1_k) | intro _ _ _ | intro _ _)

theorem State.saddleSample_k {zz s : State} (hs : Keep zz s) (h : List Byte) (arr : Nat) : Keep zz (State.saddleSample s h arr) := by
  unfold State.saddleSample
  try dsimp only
  repeat' (first | with_reducible (first | assumption | apply Keep.when | apply offset_k) | intro _ _ _ | intro _ _)

theorem State.saddleHeaderIn_k {zz s : State} (hs : Keep zz s) (i : Nat) (h : List Byte) (arr : Nat) : Keep zz (State.saddleHeaderIn s i h arr) := by
  unfold State.saddleHeaderIn
  try dsimp only
  repeat' (first | with_reducible (first | assumption | apply Keep.when | apply timeTo_k | apply setPair_k | apply postPair_k | apply pairEval_k | apply partnerSeen_k | apply heartbeat_k | apply partnerId_k | apply saddleSample_k | apply Keep.ite) | intro _ _ _ | intro _ _ | split | (with_reducible apply Keep.ofMk; with_reducible refine Keep.mk ?_))

theorem State.doSaddleHeader_k {zz s : State} (hs : Keep zz s) (i : Nat) (arr : Nat) : Keep zz (State.doSaddleHeader s i arr) := by
  unfold State.doSaddleHeader
  try dsimp only
  repeat' (first | with_reducible (first | assumption | apply takeRx_k | apply saddleHeaderIn_k) | intro _ _ _ | intro _ _ | split | dsimp only)

theorem execSaddleHeaderReceived_k {zz s : State} (hs : Keep zz s) (i : Fin 4) (arr : Nat) : KeepO zz (execSaddleHeaderReceived i arr s) := by
  unfold execSaddleHeaderReceived
  repeat' (first | with_reducible (first | assumption | apply KeepO.next | apply doSaddleHeader_k) | intro _ _ _ | intro _ _)

theorem State.healthIn_k {zz s : State} (hs : Keep zz s) (b : List Byte) : Keep zz (State.healthIn s b) := by
  unfold State.healthIn
  try dsimp only
  repeat' (first | with_reducible (first | assumption | apply Keep.when | apply Keep.forEach | apply wr_k | apply set1_k | apply setRing_k | apply chainProgress_k | apply setPair_k) | intro _ _ _ | intro _ _ | (with_reducible apply Keep.ofMk; with_reducible refine Keep.mk ?_))

theorem State.digestIn_k {zz s : State} (hs : Keep zz s) (b : List Byte) : Keep zz (State.digestIn s b) := by
  unfold State.digestIn
  try dsimp only
  repeat' (first | with_reducible (first | assumption | apply Keep.when | apply setPair_k | apply digEval_k) | intro _ _ _ | intro _ _ | (with_reducible apply Keep.ofMk; with_reducible refine Keep.mk ?_))

theorem State.mirrorIn_k {zz s : State} (hs : Keep zz s) (b : List Byte) : Keep zz (State.mirrorIn s b) := by
  unfold State.mirrorIn
  try dsimp only
  repeat' (first | with_reducible (first | assumption | apply Keep.when | apply bump_k | apply setEng_k | apply setPair_k | apply Keep.ite) | intro _ _ _ | intro _ _ | split | dsimp only | (with_reducible apply Keep.ofMk; with_reducible refine Keep.mk ?_))

theorem State.pgenIn_k {zz s : State} (hs : Keep zz s) (b : List Byte) : Keep zz (State.pgenIn s b) := by
  unfold State.pgenIn
  try dsimp only
  repeat' (first | with_reducible (first | assumption | apply Keep.forEach | apply setEng_k) | intro _ _ _ | intro _ _ | (with_reducible apply Keep.ofMk; with_reducible refine Keep.mk ?_))

theorem State.mboxIn_k {zz s : State} (hs : Keep zz s) (b : List Byte) : Keep zz (State.mboxIn s b) := by
  unfold State.mboxIn
  try dsimp only
  repeat' (first | with_reducible (first | assumption | apply Keep.forEach | apply setPair_k) | intro _ _ _ | intro _ _ | (with_reducible apply Keep.ofMk; with_reducible refine Keep.mk ?_))

theorem State.planIn_k {zz s : State} (hs : Keep zz s) (b : List Byte) : Keep zz (State.planIn s b) := by
  unfold State.planIn
  try dsimp only
  repeat' (first | with_reducible (first | assumption | apply setPair_k) | intro _ _ _ | intro _ _ | (with_reducible apply Keep.ofMk; with_reducible refine Keep.mk ?_))

theorem State.saddleSlotIn_k {zz s : State} (hs : Keep zz s) (b : List Byte) : Keep zz (State.saddleSlotIn s b) := by
  unfold State.saddleSlotIn
  try dsimp only
  repeat' (first | with_reducible (first | assumption | apply Keep.when | apply bump_k | apply healthIn_k | apply digestIn_k | apply mirrorIn_k | apply pgenIn_k | apply mboxIn_k | apply planIn_k | apply Keep.ite) | intro _ _ _ | intro _ _ | split)

theorem State.doSaddleSlot_k {zz s : State} (hs : Keep zz s) (i : Nat) (j : Nat) : Keep zz (State.doSaddleSlot s i j) := by
  unfold State.doSaddleSlot
  try dsimp only
  repeat' (first | with_reducible (first | assumption | apply takeRx_k | apply saddleSlotIn_k) | intro _ _ _ | intro _ _ | split | dsimp only)

theorem execSaddleSlotReceived_k {zz s : State} (hs : Keep zz s) (i : Fin 4) (j : Fin 8) : KeepO zz (execSaddleSlotReceived i j s) := by
  unfold execSaddleSlotReceived
  repeat' (first | with_reducible (first | assumption | apply KeepO.next | apply doSaddleSlot_k) | intro _ _ _ | intro _ _)

theorem State.doHbLost_k {zz s : State} (hs : Keep zz s)  : Keep zz (State.doHbLost s) := by
  unfold State.doHbLost
  try dsimp only
  repeat' (first | with_reducible (first | assumption | apply Keep.when | apply clr_k | apply bump_k | apply postPair_k | apply pairEval_k) | intro _ _ _ | intro _ _)

theorem execHbLost_k {zz s : State} (hs : Keep zz s)  : KeepO zz (execHbLost s) := by
  unfold execHbLost
  repeat' (first | with_reducible (first | assumption | apply KeepO.next | apply doHbLost_k) | intro _ _ _ | intro _ _)

theorem State.pairEn_k {zz s : State} (hs : Keep zz s) (v : Nat) : Keep zz (State.pairEn s v) := by
  unfold State.pairEn
  try dsimp only
  repeat' (first | with_reducible (first | assumption | apply Keep.when | apply Keep.setReg | apply wr_k | apply land_k | apply rws_k | apply setPair_k | apply closeAll_k) | intro _ _ _ | intro _ _)

theorem execPairEnable_k {zz s : State} (hs : Keep zz s)  : KeepO zz (execPairEnable s) := by
  unfold execPairEnable
  repeat' (first | with_reducible (first | assumption | apply KeepO.next | apply pairEn_k) | intro _ _ _ | intro _ _)

theorem execPairDisable_k {zz s : State} (hs : Keep zz s)  : KeepO zz (execPairDisable s) := by
  unfold execPairDisable
  repeat' (first | with_reducible (first | assumption | apply KeepO.next | apply pairEn_k) | intro _ _ _ | intro _ _)

theorem State.pairTake_k {zz s : State} (hs : Keep zz s)  : Keep zz (State.pairTake s) := by
  unfold State.pairTake
  try dsimp only
  repeat' (first | with_reducible (first | assumption | apply set1_k | apply postPair_k | apply toActive_k | apply Keep.ite) | intro _ _ _ | intro _ _ | split)

theorem execPairTake_k {zz s : State} (hs : Keep zz s)  : KeepO zz (execPairTake s) := by
  unfold execPairTake
  repeat' (first | with_reducible (first | assumption | apply KeepO.next | apply pairTake_k) | intro _ _ _ | intro _ _)

theorem State.pairYield_k {zz s : State} (hs : Keep zz s)  : Keep zz (State.pairYield s) := by
  unfold State.pairYield
  try dsimp only
  repeat' (first | with_reducible (first | assumption | apply Keep.when | apply set1_k) | intro _ _ _ | intro _ _)

theorem execPairYield_k {zz s : State} (hs : Keep zz s)  : KeepO zz (execPairYield s) := by
  unfold execPairYield
  repeat' (first | with_reducible (first | assumption | apply KeepO.next | apply pairYield_k) | intro _ _ _ | intro _ _)

theorem execYieldEnd_k {zz s : State} (hs : Keep zz s)  : KeepO zz (execYieldEnd s) := by
  unfold execYieldEnd
  repeat' (first | with_reducible (first | assumption | apply KeepO.next | apply clr_k) | intro _ _ _ | intro _ _)

theorem execDemotionHoldEnd_k {zz s : State} (hs : Keep zz s)  : KeepO zz (execDemotionHoldEnd s) := by
  unfold execDemotionHoldEnd
  try dsimp only
  repeat' (first | with_reducible (first | assumption | apply KeepO.next | apply Keep.when | apply clr_k | apply pairEval_k) | intro _ _ _ | intro _ _)

end Sys2Proof.Machine
end

