-- ==== Sys2Proof/Laws/KeepCollector.lean ====
section
/-! SUPPORT. Laws/KeepCollector.lean: the operations and commands of Machine/Collector.lean keep the invariant and the command queue. -/
namespace Sys2Proof.Machine
open State

theorem State.bookEntry_k {zz s : State} (hs : Keep zz s) (k : Nat) (q : Nat) (v : Nat) (esc : Bool) : Keep zz (State.bookEntry s k q v esc) := by
  unfold State.bookEntry
  try dsimp only
  repeat' (first | with_reducible (first | assumption | apply Keep.when | apply Keep.setReg | apply bump_k) | intro _ _ _ | intro _ _)

theorem State.histEntry_k {zz s : State} (hs : Keep zz s) (m : Msg) (q : Nat) (posted : Nat) (v : Nat) : Keep zz (State.histEntry s m q posted v) := by
  unfold State.histEntry
  try dsimp only
  repeat' (first | with_reducible (first | assumption | apply Keep.when | apply Keep.setReg | apply wr_k | apply set1_k | apply bump_k | apply Keep.ite) | intro _ _ _ | intro _ _ | split)

theorem State.react_k {zz s : State} (hs : Keep zz s) (m : Msg) (posted : Nat) (v : Nat) : Keep zz (State.react s m posted v) := by
  unfold State.react
  try dsimp only
  repeat' (first | with_reducible (first | assumption | apply Keep.when | apply irq_k | apply cstopStart_k | apply pulseBlock_k | apply resetRequest_k | apply msix_k | apply lockOut_k) | intro _ _ _ | intro _ _ | split | dsimp only)

theorem State.enterMsg_k {zz s : State} (hs : Keep zz s) (m : Msg) : Keep zz (State.enterMsg s m) := by
  unfold State.enterMsg
  try dsimp only
  repeat' (first | with_reducible (first | assumption | apply Keep.setReg | apply books_k | apply trcFault_k | apply bookEntry_k | apply histEntry_k | apply react_k | apply Keep.ite) | intro _ _ _ | intro _ _ | split)

theorem State.enterQueued_k {zz s : State} (hs : Keep zz s) (m : Msg) : Keep zz (State.enterQueued s m) := by
  unfold State.enterQueued
  repeat' (first | with_reducible (first | assumption | apply enterMsg_k) | intro _ _ _ | intro _ _ | (with_reducible apply Keep.ofMk; with_reducible refine Keep.mk ?_))

theorem State.enterOverflow_k {zz s : State} (hs : Keep zz s) (d : Nat) (q : FaultQ) : Keep zz (State.enterOverflow s d q) := by
  unfold State.enterOverflow
  try dsimp only
  repeat' (first | with_reducible (first | assumption | apply bump_k | apply enterMsg_k) | intro _ _ _ | intro _ _ | (with_reducible apply Keep.ofMk; with_reducible refine Keep.mk ?_))

theorem State.doFaultEntry_k {z s : State} (hs : Keep z s) (d : Nat) : Keep z (s.doFaultEntry d) := by
  unfold State.doFaultEntry
  dsimp only
  split
  · rename_i m r _ h
    apply State.enterQueued_k
    refine State.setFq_k hs d fun hi => ?_
    have := State.fqOf_le hi d
    rw [h] at this
    simp only [List.length_cons] at this
    simp only
    omega
  · apply Keep.when
    · exact State.enterQueued_k (State.setFq_k hs d fun _ => by simp) _
    · intro _ h; exact State.enterOverflow_k h _ _
  · exact hs

theorem execFaultEntry_k {zz s : State} (hs : Keep zz s) (d : Fin 36) : KeepO zz (execFaultEntry d s) := by
  unfold execFaultEntry
  repeat' (first | with_reducible (first | assumption | apply KeepO.next | apply doFaultEntry_k) | intro _ _ _ | intro _ _)

theorem State.ackClass_k {zz s : State} (hs : Keep zz s) (n : Nat) (k : Nat) : Keep zz (State.ackClass s n k) := by
  unfold State.ackClass
  try dsimp only
  repeat' (first | with_reducible (first | assumption | apply Keep.when | apply Keep.setReg) | intro _ _ _ | intro _ _)

theorem State.faultAck_k {zz s : State} (hs : Keep zz s) (mask : Nat) : Keep zz (State.faultAck s mask) := by
  unfold State.faultAck
  try dsimp only
  repeat' (first | with_reducible (first | assumption | apply Keep.forEach | apply books_k | apply reserved_k | apply ackClass_k | apply Keep.ite) | intro _ _ _ | intro _ _ | split)

theorem execFaultAck_k {zz s : State} (hs : Keep zz s) (mask : BitVec 32) : KeepO zz (execFaultAck mask s) := by
  unfold execFaultAck
  repeat' (first | with_reducible (first | assumption | apply KeepO.next | apply KeepO.fault | apply faultAck_k) | intro _ _ _ | intro _ _)

theorem State.histRead_k {zz s : State} (hs : Keep zz s) (i : Nat) : Keep zz (State.histRead s i) := by
  unfold State.histRead
  try dsimp only
  repeat' (first | with_reducible (first | assumption | apply Keep.when | apply clr_k) | intro _ _ _ | intro _ _)

theorem execHistMsgHiRead_k {zz s : State} (hs : Keep zz s) (i : Fin 32) : KeepO zz (execHistMsgHiRead i s) := by
  unfold execHistMsgHiRead
  repeat' (first | with_reducible (first | assumption | apply KeepO.next | apply histRead_k) | intro _ _ _ | intro _ _)

end Sys2Proof.Machine
end

