-- ==== Sys2Proof/Laws/KeepRegWrite.lean ====
section
/-! SUPPORT. Laws/KeepRegWrite.lean: the operations and commands of Machine/RegWrite.lean keep the invariant and the command queue. -/
namespace Sys2Proof.Machine
open State

theorem State.edge_k {zz s t : State} (hs : Keep zz s) (ht : Keep zz t) (f : Fld) (up : State → State) (down : State → State) (hup : ∀ u, Keep zz u → Keep zz (up u)) (hdown : ∀ u, Keep zz u → Keep zz (down u)) : Keep zz (State.edge s t f up down) := by
  unfold State.edge
  try dsimp only
  repeat' (first | with_reducible (first | assumption | apply wr_k | apply Keep.ite | apply hup | apply hdown) | intro _ _ _ | intro _ _ | split)

theorem State.act_k {zz s : State} (hs : Keep zz s) (v : Nat) (i : Nat) (f : State → State) (hf : ∀ u, Keep zz u → Keep zz (f u)) : Keep zz (State.act s v i f) := by
  unfold State.act
  repeat' (first | with_reducible (first | assumption | apply Keep.when | apply hf) | intro _ _ _ | intro _ _)

theorem State.reqState_k {zz s : State} (hs : Keep zz s) (k : Nat) : Keep zz (State.reqState s k) := by
  unfold State.reqState
  try dsimp only
  repeat' (first | with_reducible (first | assumption | apply stateRefuse_k | apply reqReady_k | apply reqArmed_k | apply reqRun_k | apply reqStopped_k | apply reqDormant_k) | intro _ _ _ | intro _ _ | split | dsimp only)

theorem State.writeSys_k {zz s t : State} (hs : Keep zz s) (ht : Keep zz t) (a : Nat) (v : Nat) : Keep zz (State.writeSys s t a v) := by
  unfold State.writeSys
  try dsimp only
  repeat' (first | with_reducible (first | assumption | apply Keep.when | apply clr_k | apply drawn_k | apply blkReset_k | apply hostGo_k | apply configDone_k | apply act_k | apply reqState_k | apply Keep.ite) | intro _ _ _ | intro _ _ | split)

theorem State.writeClk_k {zz s t : State} (hs : Keep zz s) (ht : Keep zz t) (a : Nat) (v : Nat) : Keep zz (State.writeClk s t a v) := by
  unfold State.writeClk
  try dsimp only
  repeat' (first | with_reducible (first | assumption | apply wr_k | apply adpllOn_k | apply adpllOff_k | apply tbSrc_k | apply sysRampGo_k | apply spreadWrite_k | apply tbRampGo_k | apply slewGo_k | apply slewStop_k | apply ppsEval_k | apply ttWrite_k | apply tbSet_k | apply edge_k | apply act_k | apply Keep.ite) | intro _ _ _ | intro _ _ | split | dsimp only)

theorem State.writeCore_k {zz s t : State} (hs : Keep zz s) (ht : Keep zz t) (m : Master) (a : Nat) (v : Nat) : Keep zz (State.writeCore s t m a v) := by
  unfold State.writeCore
  try dsimp only
  repeat' (first | with_reducible (first | assumption | apply Keep.forEach | apply set1_k | apply thmStart_k | apply srmStart_k | apply recCommit_k | apply doSubmit_k | apply planCancel_k | apply vaultCtl_k | apply keyIn_k | apply burn_k | apply revoke_k | apply faultAck_k | apply act_k | apply Keep.ite) | intro _ _ _ | intro _ _ | split)

theorem State.writeLane_k {zz s t : State} (hs : Keep zz s) (ht : Keep zz t) (n : Nat) (o : Nat) (v : Nat) : Keep zz (State.writeLane s t n o v) := by
  unfold State.writeLane
  try dsimp only
  repeat' (first | with_reducible (first | assumption | apply Keep.when | apply set1_k | apply laneMoved_k | apply laneFollow_k | apply doLaneEnable_k | apply doLaneDisable_k | apply doLaneRearm_k | apply doLaneTxcomma_k | apply doLaneSlip_k | apply rearmCheck_k | apply doEsStart_k | apply edge_k | apply act_k | apply Keep.ite) | intro _ _ _ | intro _ _ | split)

theorem State.writeLink_k {zz s t : State} (hs : Keep zz s) (ht : Keep zz t) (a : Nat) (v : Nat) : Keep zz (State.writeLink s t a v) := by
  unfold State.writeLink
  try dsimp only
  repeat' (first | with_reducible (first | assumption | apply wr_k | apply chainEval_k | apply chainEn_k | apply relink_k | apply mbGo_k | apply act_k | apply Keep.ite) | intro _ _ _ | intro _ _ | split | dsimp only)

theorem State.writeMod_k {zz s t : State} (hs : Keep zz s) (ht : Keep zz t) (a : Nat) (v : Nat) : Keep zz (State.writeMod s t a v) := by
  unfold State.writeMod
  try dsimp only
  repeat' (first | with_reducible (first | assumption | apply Keep.when | apply wr_k | apply clr_k | apply pins_k | apply lpOff_k | apply pairOff_k | apply putShadow_k | apply capture_k | apply setAnchor_k | apply lpRearm_k | apply routeOn_k | apply routeOff_k | apply modStart_k | apply doAuxGo_k | apply edge_k | apply act_k | apply Keep.ite) | intro _ _ _ | intro _ _ | split | dsimp only)

theorem State.gridWrite_k {zz s t : State} (hs : Keep zz s) (ht : Keep zz t)  : Keep zz (State.gridWrite s t) := by
  unfold State.gridWrite
  try dsimp only
  repeat' (first | with_reducible (first | assumption | apply setGrid_k | apply dropCycleDues_k | apply Keep.ite) | intro _ _ _ | intro _ _ | split | (with_reducible apply Keep.ofMk; with_reducible refine Keep.mk ?_))

theorem State.irqLevels_k {zz s : State} (hs : Keep zz s) (k : Nat) : Keep zz (State.irqLevels s k) := by
  unfold State.irqLevels
  try dsimp only
  repeat' (first | with_reducible (first | assumption | apply Keep.when | apply irqTo_k) | intro _ _ _ | intro _ _)

theorem State.writeEng_k {zz s t : State} (hs : Keep zz s) (ht : Keep zz t) (a : Nat) (v : Nat) : Keep zz (State.writeEng s t a v) := by
  unfold State.writeEng
  try dsimp only
  repeat' (first | with_reducible (first | assumption | apply Keep.when | apply set1_k | apply setEng_k | apply powerCheck_k | apply pgenInit_k | apply engIdle_k | apply withdraw_k | apply glutSwap_k | apply engEnable_k | apply engDisable_k | apply lstStart_k | apply doMigrate_k | apply edge_k | apply act_k | apply gridWrite_k | apply irqLevels_k | apply Keep.ite) | intro _ _ _ | intro _ _ | split | dsimp only | (with_reducible apply Keep.ofMk; with_reducible refine Keep.mk ?_))

theorem State.writeProt_k {zz s t : State} (hs : Keep zz s) (ht : Keep zz t) (a : Nat) (v : Nat) : Keep zz (State.writeProt s t a v) := by
  unfold State.writeProt
  try dsimp only
  repeat' (first | with_reducible (first | assumption | apply Keep.when | apply imageDirty_k | apply pushStart_k | apply protRelease_k | apply dumpEval_k | apply doUnlock_k | apply routeOn_k | apply routeOff_k | apply act_k | apply Keep.ite) | intro _ _ _ | intro _ _ | split | dsimp only)

theorem State.writeAna_k {zz s t : State} (hs : Keep zz s) (ht : Keep zz t) (a : Nat) (v : Nat) : Keep zz (State.writeAna s t a v) := by
  unfold State.writeAna
  try dsimp only
  repeat' (first | with_reducible (first | assumption | apply Keep.when | apply Keep.forEach | apply clr_k | apply setAdc_k | apply cmpEval_k | apply cmpApply_k | apply adcUrgent_k | apply adcSampled_k | apply adcCalReq_k | apply act_k | apply Keep.ite) | intro _ _ _ | intro _ _ | split | dsimp only)

theorem State.writeNet_k {zz s t : State} (hs : Keep zz s) (ht : Keep zz t) (a : Nat) (v : Nat) : Keep zz (State.writeNet s t a v) := by
  unfold State.writeNet
  try dsimp only
  repeat' (first | with_reducible (first | assumption | apply Keep.when | apply Keep.setReg | apply set1_k | apply drawn_k | apply setCan_k | apply irq_k | apply canCount_k | apply tscap_k | apply txTail_k | apply rxTail_k | apply ethDown_k | apply setreq_k | apply cancel_k | apply canRecover_k | apply initClear_k | apply initSet_k | apply edge_k | apply act_k | apply Keep.ite) | intro _ _ _ | intro _ _ | split | dsimp only | (with_reducible apply Keep.ofMk; with_reducible refine Keep.mk ?_))

theorem State.writePair_k {zz s t : State} (hs : Keep zz s) (ht : Keep zz t) (a : Nat) (v : Nat) : Keep zz (State.writePair s t a v) := by
  unfold State.writePair
  try dsimp only
  repeat' (first | with_reducible (first | assumption | apply wr_k | apply trcTrigger_k | apply doTraceArm_k | apply doTraceStop_k | apply doStreamCredit_k | apply pairEn_k | apply pairTake_k | apply pairYield_k | apply act_k | apply Keep.ite) | intro _ _ _ | intro _ _ | split)

theorem State.writeHost_k {zz s t : State} (hs : Keep zz s) (ht : Keep zz t) (m : Master) (a : Nat) (v : Nat) : Keep zz (State.writeHost s t m a v) := by
  unfold State.writeHost
  try dsimp only
  repeat' (first | with_reducible (first | assumption | apply confirmWrite_k | apply mbinWrite_k | apply msixUnmask_k | apply msixGo_k | apply doorbell_k | apply h2dWrite_k | apply d2hWrite_k | apply dmaTail_k | apply act_k | apply irqLevels_k | apply Keep.ite) | intro _ _ _ | intro _ _ | split | dsimp only)

theorem State.writeReg_k {zz s t : State} (hs : Keep zz s) (ht : Keep zz t) (m : Master) (a : Nat) (v : Nat) : Keep zz (State.writeReg s t m a v) := by
  unfold State.writeReg
  repeat' (first | with_reducible (first | assumption | apply writeSys_k | apply writeClk_k | apply writeCore_k | apply writeLane_k | apply writeLink_k | apply writeMod_k | apply writeEng_k | apply writeProt_k | apply writeAna_k | apply writeNet_k | apply writePair_k | apply writeHost_k | apply Keep.ite) | intro _ _ _ | intro _ _ | split)

theorem State.regWrite_k {zz s : State} (hs : Keep zz s) (m : Master) (a : Nat) (v : Nat) : Keep zz (State.regWrite s m a v) := by
  unfold State.regWrite
  try dsimp only
  repeat' (first | with_reducible (first | assumption | apply Keep.setReg | apply locked_k | apply reserved_k | apply unmapped_k | apply writeReg_k | apply Keep.ite) | intro _ _ _ | intro _ _ | split | dsimp only)

theorem execRegisterWrite_k {zz s : State} (hs : Keep zz s) (m : Master) (a : BitVec 32) (v : BitVec 32) : KeepO zz (execRegisterWrite m a v s) := by
  unfold execRegisterWrite
  try dsimp only
  repeat' (first | with_reducible (first | assumption | apply KeepO.next | apply Keep.when | apply unmapped_k | apply regWrite_k | apply Keep.ite | apply KeepO.ite) | intro _ _ _ | intro _ _ | split)

end Sys2Proof.Machine
end

