-- ==== Sys2Proof/Laws/KeepRegRead.lean ====
section
/-! SUPPORT. Laws/KeepRegRead.lean: the operations and commands of Machine/RegRead.lean keep the invariant and the command queue. -/
namespace Sys2Proof.Machine
open State

theorem State.plainRead_k {zz s : State} (hs : Keep zz s) (r : RegD) (a : Nat) : Keep zz (State.plainRead s r a).2 := by
  unfold State.plainRead
  try dsimp only
  repeat' (first | with_reducible (first | assumption | apply Keep.when | apply Keep.setReg) | intro _ _ _ | intro _ _ | dsimp only)

theorem State.hiRead_k {zz s : State} (hs : Keep zz s) (m : Nat) (k : Nat) (a : Nat) : Keep zz (State.hiRead s m k a).2 := by
  unfold State.hiRead
  try dsimp only
  repeat' (first | with_reducible (first | assumption | apply setAdc_k) | intro _ _ _ | intro _ _ | split | dsimp only | (with_reducible apply Keep.ofMk; with_reducible refine Keep.mk ?_))

theorem State.loRead_k {zz s : State} (hs : Keep zz s) (m : Nat) (k : Nat) (a : Nat) : Keep zz (State.loRead s m k a).2 := by
  unfold State.loRead
  try dsimp only
  repeat' (first | with_reducible (first | assumption | apply setAdc_k) | intro _ _ _ | intro _ _ | dsimp only | (with_reducible apply Keep.ofMk; with_reducible refine Keep.mk ?_))

theorem State.adcRead_k {zz s : State} (hs : Keep zz s) (r : RegD) (m : Nat) (o : Nat) (a : Nat) : Keep zz (State.adcRead s r m o a).2 := by
  unfold State.adcRead
  repeat' (first | with_reducible (first | assumption | apply plainRead_k | apply hiRead_k | apply loRead_k | apply Keep.ite) | intro _ _ _ | intro _ _ | split | dsimp only)

theorem State.readReg_k {zz s : State} (hs : Keep zz s) (r : RegD) (a : Nat) : Keep zz (State.readReg s r a).2 := by
  unfold State.readReg
  try dsimp only
  repeat' (first | with_reducible (first | assumption | apply drawn_k | apply budgetNow_k | apply evqRead_k | apply mboutRead_k | apply nowRead_k | apply canCount_k | apply lkqRead_k | apply h2dRead_k | apply d2hRead_k | apply canNow_k | apply rxsRead_k | apply histRead_k | apply plainRead_k | apply adcRead_k | apply Keep.ite) | intro _ _ _ | intro _ _ | split | dsimp only)

theorem State.regRead_k {zz s : State} (hs : Keep zz s) (a : Nat) : Keep zz (State.regRead s a).2 := by
  unfold State.regRead
  try dsimp only
  repeat' (first | with_reducible (first | assumption | apply unmapped_k | apply readReg_k | apply Keep.ite) | intro _ _ _ | intro _ _ | split | dsimp only)

theorem State.memRead_k {zz s : State} (hs : Keep zz s) (a : Nat) (k : Nat) : Keep zz (State.memRead s a k).2 := by
  unfold State.memRead
  try dsimp only
  repeat' (first | with_reducible (first | assumption | apply unmapped_k | apply nvBadRead_k | apply Keep.ite) | intro _ _ _ | intro _ _ | split | dsimp only)

theorem State.memWrite_k {zz s : State} (hs : Keep zz s) (a : Nat) (bs : List Byte) : Keep zz (State.memWrite s a bs) := by
  unfold State.memWrite
  repeat' (first | with_reducible (first | assumption | apply putMem_k | apply reserved_k | apply unmapped_k | apply postF_k | apply nvWrite_k | apply Keep.ite) | intro _ _ _ | intro _ _ | split)

theorem execUnmappedAccess_k {zz s : State} (hs : Keep zz s) (m : Master) (a : BitVec 32) (size : Fin 5) : KeepO zz (execUnmappedAccess m a size s) := by
  unfold execUnmappedAccess
  try dsimp only
  repeat' (first | with_reducible (first | assumption | apply KeepO.next | apply Keep.when | apply unmapped_k) | intro _ _ _ | intro _ _)

end Sys2Proof.Machine
end

