-- ==== Sys2Proof/Laws/KeepCores.lean ====
section
/-! SUPPORT. Laws/KeepCores.lean: the operations and commands of Machine/Cores.lean keep the invariant and the command queue. -/
namespace Sys2Proof.Machine
open State

theorem State.deliverTo_k {zz s : State} (hs : Keep zz s) (i : Iss) (lat : Nat) (d : Dst) : Keep zz (State.deliverTo s i lat d) := by
  unfold State.deliverTo
  try dsimp only
  repeat' (first | with_reducible (first | assumption | apply setCore_k | apply land_k | apply Keep.ite) | intro _ _ _ | intro _ _ | split | (with_reducible apply Keep.ofMk; with_reducible refine Keep.mk ?_))

theorem State.result_k {zz s : State} (hs : Keep zz s) (i : Iss) (lat : Nat) (r : Nat) (v : Nat) (fl : Nat) : Keep zz (State.result s i lat r v fl) := by
  unfold State.result
  try dsimp only
  repeat' (first | with_reducible (first | assumption | apply Keep.when | apply deliverTo_k) | intro _ _ _ | intro _ _)

theorem State.enter_k {zz s : State} (hs : Keep zz s) (n : Nat) (epc : Word) (ecause : Nat) (vec : Nat) : Keep zz (State.enter s n epc ecause vec) := by
  unfold State.enter
  try dsimp only
  repeat' (first | with_reducible (first | assumption | apply setCore_k | apply idle_k) | intro _ _ _ | intro _ _ | (with_reducible apply Keep.ofMk; with_reducible refine Keep.mk ?_))

theorem State.asterExc_k {zz s : State} (hs : Keep zz s) (n : Nat) (cause : Nat) (addr : Nat) (prot : Bool) : Keep zz (State.asterExc s n cause addr prot) := by
  unfold State.asterExc
  try dsimp only
  repeat' (first | with_reducible (first | assumption | apply Keep.when | apply setCore_k | apply post_k | apply engFaulted_k | apply enter_k | apply Keep.ite) | intro _ _ _ | intro _ _ | split | (with_reducible apply Keep.ofMk; with_reducible refine Keep.mk ?_))

theorem State.voidBundle_k {zz s : State} (hs : Keep zz s) (n : Nat) : Keep zz (State.voidBundle s n) := by
  unfold State.voidBundle
  try dsimp only
  repeat' (first | with_reducible (first | assumption | apply setCore_k | apply pgenRestore_k) | intro _ _ _ | intro _ _ | split | dsimp only | (with_reducible apply Keep.ofMk; with_reducible refine Keep.mk ?_))

theorem State.raise_k {zz s : State} (hs : Keep zz s) (n : Nat) (cause : Nat) (addr : Nat) (prot : Bool) : Keep zz (State.raise s n cause addr prot) := by
  unfold State.raise
  try dsimp only
  repeat' (first | with_reducible (first | assumption | apply safetyFail_k | apply engException_k | apply asterExc_k | apply voidBundle_k | apply Keep.ite) | intro _ _ _ | intro _ _ | split)

theorem State.beginIssue_k {zz s : State} (hs : Keep zz s) (i : Iss) (cost : Nat) : Keep zz (State.beginIssue s i cost) := by
  unfold State.beginIssue
  try dsimp only
  repeat' (first | with_reducible (first | assumption | apply setCore_k | apply landTo_k | apply bundleEnd_k | apply idle_k | apply Keep.ite) | intro _ _ _ | intro _ _ | split | (with_reducible apply Keep.ofMk; with_reducible refine Keep.mk ?_))

theorem State.issue_k {zz s : State} (hs : Keep zz s) (i : Iss) (k : Kind) (ok : Bool) (f : Nat → State → State) (hf : ∀ x u, Keep zz u → Keep zz (f x u)) : KeepO zz (State.issue s i k ok f) := by
  unfold State.issue
  try dsimp only
  repeat' (first | with_reducible (first | assumption | apply KeepO.next | apply Keep.when | apply reserved_k | apply bundleEnd_k | apply raise_k | apply beginIssue_k | apply Keep.ite | apply KeepO.ite | apply hf) | intro _ _ _ | intro _ _ | split)

theorem State.postUe_k {zz s : State} (hs : Keep zz s) (a : Nat) : Keep zz (State.postUe s a) := by
  unfold State.postUe
  repeat' (first | with_reducible (first | assumption | apply post_k) | intro _ _ _ | intro _ _)

theorem State.asterLoad_k {zz s : State} (hs : Keep zz s) (n : Nat) (a : Nat) (k : Nat) (ue : Bool) (f : Nat → State → State) (hf : ∀ x u, Keep zz u → Keep zz (f x u)) : Keep zz (State.asterLoad s n a k ue f) := by
  unfold State.asterLoad
  repeat' (first | with_reducible (first | assumption | apply unmapped_k | apply regRead_k | apply memRead_k | apply raise_k | apply postUe_k | apply Keep.ite | apply hf) | intro _ _ _ | intro _ _ | split)

theorem State.islandLoad_k {zz s : State} (hs : Keep zz s) (n : Nat) (a : Nat) (k : Nat) (f : Nat → State → State) (hf : ∀ x u, Keep zz u → Keep zz (f x u)) : Keep zz (State.islandLoad s n a k f) := by
  unfold State.islandLoad
  repeat' (first | with_reducible (first | assumption | apply drawn_k | apply raise_k | apply Keep.ite | apply hf) | intro _ _ _ | intro _ _ | split)

theorem State.loadAt_k {zz s : State} (hs : Keep zz s) (n : Nat) (a : Nat) (k : Nat) (ue : Bool) (f : Nat → State → State) (hf : ∀ x u, Keep zz u → Keep zz (f x u)) : Keep zz (State.loadAt s n a k ue f) := by
  unfold State.loadAt
  repeat' (first | with_reducible (first | assumption | apply raise_k | apply postUe_k | apply asterLoad_k | apply islandLoad_k | apply Keep.ite | apply hf) | intro _ _ _ | intro _ _ | split)

theorem State.asterStore_k {zz s : State} (hs : Keep zz s) (n : Nat) (a : Nat) (k : Nat) (v : Nat) : Keep zz (State.asterStore s n a k v) := by
  unfold State.asterStore
  repeat' (first | with_reducible (first | assumption | apply unmapped_k | apply regWrite_k | apply memWrite_k | apply raise_k | apply Keep.ite) | intro _ _ _ | intro _ _ | split)

theorem State.islandStore_k {zz s : State} (hs : Keep zz s) (n : Nat) (a : Nat) (k : Nat) (v : Nat) : Keep zz (State.islandStore s n a k v) := by
  unfold State.islandStore
  try dsimp only
  repeat' (first | with_reducible (first | assumption | apply Keep.when | apply wr_k | apply store_k | apply raise_k | apply Keep.ite) | intro _ _ _ | intro _ _ | split)

theorem State.storeAt_k {zz s : State} (hs : Keep zz s) (i : Iss) (a : Nat) (k : Nat) (v : Nat) : Keep zz (State.storeAt s i a k v) := by
  unfold State.storeAt
  try dsimp only
  repeat' (first | with_reducible (first | assumption | apply deliverTo_k | apply raise_k | apply asterStore_k | apply islandStore_k | apply Keep.ite) | intro _ _ _ | intro _ _ | split)

theorem State.takeIrq_k {zz s : State} (hs : Keep zz s) (n : Nat) : Keep zz (State.takeIrq s n) := by
  unfold State.takeIrq
  try dsimp only
  repeat' (first | with_reducible (first | assumption | apply enter_k | apply Keep.ite) | intro _ _ _ | intro _ _ | split | dsimp only)

theorem execInterruptTaken_k {zz s : State} (hs : Keep zz s) (k : Fin 4) : KeepO zz (execInterruptTaken k s) := by
  unfold execInterruptTaken
  try dsimp only
  repeat' (first | with_reducible (first | assumption | apply KeepO.next | apply Keep.when | apply takeIrq_k) | intro _ _ _ | intro _ _)

theorem execUnmappedMemoryAccess_k {zz s : State} (hs : Keep zz s) (m : Master) (a : BitVec 32) (wr : Bool) : KeepO zz (execUnmappedMemoryAccess m a wr s) := by
  unfold execUnmappedMemoryAccess
  try dsimp only
  repeat' (first | with_reducible (first | assumption | apply KeepO.next | apply Keep.when | apply wr_k | apply unmapped_k | apply raise_k | apply Keep.ite | apply KeepO.ite) | intro _ _ _ | intro _ _ | split | dsimp only)

end Sys2Proof.Machine
end

