-- ==== Sys2Proof/Laws/KeepArith.lean ====
section
/-! SUPPORT. Laws/KeepArith.lean: the operations and commands of Machine/Arith.lean keep the invariant and the command queue. -/
namespace Sys2Proof.Machine
open State

theorem State.op2_k {zz s : State} (hs : Keep zz s) (i : Iss) (k : Kind) (ok : Bool) (rd : Fin 32) (ra : Fin 32) (rb : Fin 32) (lat : Nat) (f : Nat → Nat → Nat × Nat) : KeepO zz (State.op2 s i k ok rd ra rb lat f) := by
  unfold State.op2
  try dsimp only
  repeat' (first | with_reducible (first | assumption | apply KeepO.next | apply result_k | apply issue_k) | intro _ _ _ | intro _ _)

theorem execAdd_k {zz s : State} (hs : Keep zz s) (i : Iss) (rd : Fin 32) (ra : Fin 32) (rb : Fin 32) : KeepO zz (execAdd i rd ra rb s) := by
  unfold execAdd
  try dsimp only
  repeat' (first | with_reducible (first | assumption | apply KeepO.next | apply op2_k) | intro _ _ _ | intro _ _)

theorem execSub_k {zz s : State} (hs : Keep zz s) (i : Iss) (rd : Fin 32) (ra : Fin 32) (rb : Fin 32) : KeepO zz (execSub i rd ra rb s) := by
  unfold execSub
  try dsimp only
  repeat' (first | with_reducible (first | assumption | apply KeepO.next | apply op2_k) | intro _ _ _ | intro _ _)

theorem execAnd_k {zz s : State} (hs : Keep zz s) (i : Iss) (rd : Fin 32) (ra : Fin 32) (rb : Fin 32) : KeepO zz (execAnd i rd ra rb s) := by
  unfold execAnd
  try dsimp only
  repeat' (first | with_reducible (first | assumption | apply KeepO.next | apply land_k | apply op2_k) | intro _ _ _ | intro _ _)

theorem execOr_k {zz s : State} (hs : Keep zz s) (i : Iss) (rd : Fin 32) (ra : Fin 32) (rb : Fin 32) : KeepO zz (execOr i rd ra rb s) := by
  unfold execOr
  try dsimp only
  repeat' (first | with_reducible (first | assumption | apply KeepO.next | apply op2_k) | intro _ _ _ | intro _ _)

theorem execXor_k {zz s : State} (hs : Keep zz s) (i : Iss) (rd : Fin 32) (ra : Fin 32) (rb : Fin 32) : KeepO zz (execXor i rd ra rb s) := by
  unfold execXor
  try dsimp only
  repeat' (first | with_reducible (first | assumption | apply KeepO.next | apply op2_k) | intro _ _ _ | intro _ _)

theorem execShl_k {zz s : State} (hs : Keep zz s) (i : Iss) (rd : Fin 32) (ra : Fin 32) (rb : Fin 32) : KeepO zz (execShl i rd ra rb s) := by
  unfold execShl
  try dsimp only
  repeat' (first | with_reducible (first | assumption | apply KeepO.next | apply op2_k) | intro _ _ _ | intro _ _)

theorem execShr_k {zz s : State} (hs : Keep zz s) (i : Iss) (rd : Fin 32) (ra : Fin 32) (rb : Fin 32) : KeepO zz (execShr i rd ra rb s) := by
  unfold execShr
  try dsimp only
  repeat' (first | with_reducible (first | assumption | apply KeepO.next | apply op2_k) | intro _ _ _ | intro _ _)

theorem execSar_k {zz s : State} (hs : Keep zz s) (i : Iss) (rd : Fin 32) (ra : Fin 32) (rb : Fin 32) : KeepO zz (execSar i rd ra rb s) := by
  unfold execSar
  try dsimp only
  repeat' (first | with_reducible (first | assumption | apply KeepO.next | apply op2_k) | intro _ _ _ | intro _ _)

theorem execMin_k {zz s : State} (hs : Keep zz s) (i : Iss) (rd : Fin 32) (ra : Fin 32) (rb : Fin 32) : KeepO zz (execMin i rd ra rb s) := by
  unfold execMin
  try dsimp only
  repeat' (first | with_reducible (first | assumption | apply KeepO.next | apply op2_k) | intro _ _ _ | intro _ _)

theorem execMax_k {zz s : State} (hs : Keep zz s) (i : Iss) (rd : Fin 32) (ra : Fin 32) (rb : Fin 32) : KeepO zz (execMax i rd ra rb s) := by
  unfold execMax
  try dsimp only
  repeat' (first | with_reducible (first | assumption | apply KeepO.next | apply op2_k) | intro _ _ _ | intro _ _)

theorem execSel_k {zz s : State} (hs : Keep zz s) (i : Iss) (q : Fin 8) (rd : Fin 32) (ra : Fin 32) (rb : Fin 32) : KeepO zz (execSel i q rd ra rb s) := by
  unfold execSel
  try dsimp only
  repeat' (first | with_reducible (first | assumption | apply KeepO.next | apply result_k | apply issue_k | apply Keep.ite | apply KeepO.ite) | intro _ _ _ | intro _ _ | split)

theorem execMul_k {zz s : State} (hs : Keep zz s) (i : Iss) (rd : Fin 32) (ra : Fin 32) (rb : Fin 32) : KeepO zz (execMul i rd ra rb s) := by
  unfold execMul
  try dsimp only
  repeat' (first | with_reducible (first | assumption | apply KeepO.next | apply op2_k) | intro _ _ _ | intro _ _)

theorem execMulh_k {zz s : State} (hs : Keep zz s) (i : Iss) (rd : Fin 32) (ra : Fin 32) (rb : Fin 32) : KeepO zz (execMulh i rd ra rb s) := by
  unfold execMulh
  try dsimp only
  repeat' (first | with_reducible (first | assumption | apply KeepO.next | apply op2_k) | intro _ _ _ | intro _ _)

theorem execDiv_k {zz s : State} (hs : Keep zz s) (i : Iss) (rd : Fin 32) (ra : Fin 32) (rb : Fin 32) : KeepO zz (execDiv i rd ra rb s) := by
  unfold execDiv
  try dsimp only
  repeat' (first | with_reducible (first | assumption | apply KeepO.next | apply op2_k) | intro _ _ _ | intro _ _)

theorem execDivu_k {zz s : State} (hs : Keep zz s) (i : Iss) (rd : Fin 32) (ra : Fin 32) (rb : Fin 32) : KeepO zz (execDivu i rd ra rb s) := by
  unfold execDivu
  try dsimp only
  repeat' (first | with_reducible (first | assumption | apply KeepO.next | apply op2_k) | intro _ _ _ | intro _ _)

theorem execRem_k {zz s : State} (hs : Keep zz s) (i : Iss) (rd : Fin 32) (ra : Fin 32) (rb : Fin 32) : KeepO zz (execRem i rd ra rb s) := by
  unfold execRem
  try dsimp only
  repeat' (first | with_reducible (first | assumption | apply KeepO.next | apply op2_k) | intro _ _ _ | intro _ _)

theorem execAdds_k {zz s : State} (hs : Keep zz s) (i : Iss) (rd : Fin 32) (ra : Fin 32) (rb : Fin 32) : KeepO zz (execAdds i rd ra rb s) := by
  unfold execAdds
  try dsimp only
  repeat' (first | with_reducible (first | assumption | apply KeepO.next | apply op2_k) | intro _ _ _ | intro _ _)

theorem execSubs_k {zz s : State} (hs : Keep zz s) (i : Iss) (rd : Fin 32) (ra : Fin 32) (rb : Fin 32) : KeepO zz (execSubs i rd ra rb s) := by
  unfold execSubs
  try dsimp only
  repeat' (first | with_reducible (first | assumption | apply KeepO.next | apply op2_k) | intro _ _ _ | intro _ _)

theorem execAbss_k {zz s : State} (hs : Keep zz s) (i : Iss) (rd : Fin 32) (ra : Fin 32) (rb : Fin 32) : KeepO zz (execAbss i rd ra rb s) := by
  unfold execAbss
  try dsimp only
  repeat' (first | with_reducible (first | assumption | apply KeepO.next | apply op2_k) | intro _ _ _ | intro _ _)

theorem execQmul_k {zz s : State} (hs : Keep zz s) (i : Iss) (rd : Fin 32) (ra : Fin 32) (rb : Fin 32) : KeepO zz (execQmul i rd ra rb s) := by
  unfold execQmul
  try dsimp only
  repeat' (first | with_reducible (first | assumption | apply KeepO.next | apply op2_k) | intro _ _ _ | intro _ _)

theorem execAdd2_k {zz s : State} (hs : Keep zz s) (i : Iss) (rd : Fin 32) (ra : Fin 32) (rb : Fin 32) : KeepO zz (execAdd2 i rd ra rb s) := by
  unfold execAdd2
  try dsimp only
  repeat' (first | with_reducible (first | assumption | apply KeepO.next | apply op2_k) | intro _ _ _ | intro _ _)

theorem execSub2_k {zz s : State} (hs : Keep zz s) (i : Iss) (rd : Fin 32) (ra : Fin 32) (rb : Fin 32) : KeepO zz (execSub2 i rd ra rb s) := by
  unfold execSub2
  try dsimp only
  repeat' (first | with_reducible (first | assumption | apply KeepO.next | apply op2_k) | intro _ _ _ | intro _ _)

theorem execMul2_k {zz s : State} (hs : Keep zz s) (i : Iss) (rd : Fin 32) (ra : Fin 32) (rb : Fin 32) : KeepO zz (execMul2 i rd ra rb s) := by
  unfold execMul2
  try dsimp only
  repeat' (first | with_reducible (first | assumption | apply KeepO.next | apply op2_k) | intro _ _ _ | intro _ _)

theorem execPack_k {zz s : State} (hs : Keep zz s) (i : Iss) (rd : Fin 32) (ra : Fin 32) (rb : Fin 32) : KeepO zz (execPack i rd ra rb s) := by
  unfold execPack
  try dsimp only
  repeat' (first | with_reducible (first | assumption | apply KeepO.next | apply op2_k) | intro _ _ _ | intro _ _)

theorem State.setAcc_k {zz s : State} (hs : Keep zz s) (i : Iss) (n : Nat) (k : Nat) (lat : Nat) (v : Int) : Keep zz (State.setAcc s i n k lat v) := by
  unfold State.setAcc
  try dsimp only
  repeat' (first | with_reducible (first | assumption | apply Keep.when | apply setCore_k | apply deliverTo_k) | intro _ _ _ | intro _ _ | (with_reducible apply Keep.ofMk; with_reducible refine Keep.mk ?_))

theorem State.macOp_k {zz s : State} (hs : Keep zz s) (i : Iss) (rd : Fin 32) (ra : Fin 32) (rb : Fin 32) (f : Int → Nat → Nat → Int) : KeepO zz (State.macOp s i rd ra rb f) := by
  unfold State.macOp
  try dsimp only
  repeat' (first | with_reducible (first | assumption | apply KeepO.next | apply issue_k | apply setAcc_k) | intro _ _ _ | intro _ _)

theorem execMac_k {zz s : State} (hs : Keep zz s) (i : Iss) (rd : Fin 32) (ra : Fin 32) (rb : Fin 32) : KeepO zz (execMac i rd ra rb s) := by
  unfold execMac
  try dsimp only
  repeat' (first | with_reducible (first | assumption | apply KeepO.next | apply macOp_k) | intro _ _ _ | intro _ _)

theorem execMacu_k {zz s : State} (hs : Keep zz s) (i : Iss) (rd : Fin 32) (ra : Fin 32) (rb : Fin 32) : KeepO zz (execMacu i rd ra rb s) := by
  unfold execMacu
  try dsimp only
  repeat' (first | with_reducible (first | assumption | apply KeepO.next | apply macOp_k) | intro _ _ _ | intro _ _)

theorem execMpy_k {zz s : State} (hs : Keep zz s) (i : Iss) (rd : Fin 32) (ra : Fin 32) (rb : Fin 32) : KeepO zz (execMpy i rd ra rb s) := by
  unfold execMpy
  try dsimp only
  repeat' (first | with_reducible (first | assumption | apply KeepO.next | apply macOp_k) | intro _ _ _ | intro _ _)

theorem execQmac_k {zz s : State} (hs : Keep zz s) (i : Iss) (rd : Fin 32) (ra : Fin 32) (rb : Fin 32) : KeepO zz (execQmac i rd ra rb s) := by
  unfold execQmac
  try dsimp only
  repeat' (first | with_reducible (first | assumption | apply KeepO.next | apply macOp_k) | intro _ _ _ | intro _ _)

theorem execMac2_k {zz s : State} (hs : Keep zz s) (i : Iss) (rd : Fin 32) (ra : Fin 32) (rb : Fin 32) : KeepO zz (execMac2 i rd ra rb s) := by
  unfold execMac2
  try dsimp only
  repeat' (first | with_reducible (first | assumption | apply KeepO.next | apply macOp_k) | intro _ _ _ | intro _ _)

theorem execAccr_k {zz s : State} (hs : Keep zz s) (i : Iss) (rd : Fin 32) (ra : Fin 32) (k : BitVec 12) : KeepO zz (execAccr i rd ra k s) := by
  unfold execAccr
  try dsimp only
  repeat' (first | with_reducible (first | assumption | apply KeepO.next | apply result_k | apply issue_k) | intro _ _ _ | intro _ _)

theorem execAccw_k {zz s : State} (hs : Keep zz s) (i : Iss) (rd : Fin 32) (ra : Fin 32) (k : BitVec 12) : KeepO zz (execAccw i rd ra k s) := by
  unfold execAccw
  try dsimp only
  repeat' (first | with_reducible (first | assumption | apply KeepO.next | apply issue_k | apply setAcc_k) | intro _ _ _ | intro _ _)

theorem execFadd_k {zz s : State} (hs : Keep zz s) (i : Iss) (rd : Fin 32) (ra : Fin 32) (rb : Fin 32) : KeepO zz (execFadd i rd ra rb s) := by
  unfold execFadd
  try dsimp only
  repeat' (first | with_reducible (first | assumption | apply KeepO.next | apply op2_k) | intro _ _ _ | intro _ _)

theorem execFsub_k {zz s : State} (hs : Keep zz s) (i : Iss) (rd : Fin 32) (ra : Fin 32) (rb : Fin 32) : KeepO zz (execFsub i rd ra rb s) := by
  unfold execFsub
  try dsimp only
  repeat' (first | with_reducible (first | assumption | apply KeepO.next | apply op2_k) | intro _ _ _ | intro _ _)

theorem execFmul_k {zz s : State} (hs : Keep zz s) (i : Iss) (rd : Fin 32) (ra : Fin 32) (rb : Fin 32) : KeepO zz (execFmul i rd ra rb s) := by
  unfold execFmul
  try dsimp only
  repeat' (first | with_reducible (first | assumption | apply KeepO.next | apply op2_k) | intro _ _ _ | intro _ _)

theorem execFdiv_k {zz s : State} (hs : Keep zz s) (i : Iss) (rd : Fin 32) (ra : Fin 32) (rb : Fin 32) : KeepO zz (execFdiv i rd ra rb s) := by
  unfold execFdiv
  try dsimp only
  repeat' (first | with_reducible (first | assumption | apply KeepO.next | apply op2_k) | intro _ _ _ | intro _ _)

theorem execFmadd_k {zz s : State} (hs : Keep zz s) (i : Iss) (rd : Fin 32) (ra : Fin 32) (rb : Fin 32) : KeepO zz (execFmadd i rd ra rb s) := by
  unfold execFmadd
  try dsimp only
  repeat' (first | with_reducible (first | assumption | apply KeepO.next | apply drawn_k | apply result_k | apply issue_k) | intro _ _ _ | intro _ _)

theorem execFmin_k {zz s : State} (hs : Keep zz s) (i : Iss) (rd : Fin 32) (ra : Fin 32) (rb : Fin 32) : KeepO zz (execFmin i rd ra rb s) := by
  unfold execFmin
  try dsimp only
  repeat' (first | with_reducible (first | assumption | apply KeepO.next | apply op2_k) | intro _ _ _ | intro _ _)

theorem execFmax_k {zz s : State} (hs : Keep zz s) (i : Iss) (rd : Fin 32) (ra : Fin 32) (rb : Fin 32) : KeepO zz (execFmax i rd ra rb s) := by
  unfold execFmax
  try dsimp only
  repeat' (first | with_reducible (first | assumption | apply KeepO.next | apply op2_k) | intro _ _ _ | intro _ _)

theorem State.op1_k {zz s : State} (hs : Keep zz s) (i : Iss) (rd : Fin 32) (ra : Fin 32) (rb : Fin 32) (lat : Nat) (f : Nat → Nat × Nat) : KeepO zz (State.op1 s i rd ra rb lat f) := by
  unfold State.op1
  try dsimp only
  repeat' (first | with_reducible (first | assumption | apply KeepO.next | apply op2_k) | intro _ _ _ | intro _ _)

theorem execFabs_k {zz s : State} (hs : Keep zz s) (i : Iss) (rd : Fin 32) (ra : Fin 32) (rb : Fin 32) : KeepO zz (execFabs i rd ra rb s) := by
  unfold execFabs
  try dsimp only
  repeat' (first | with_reducible (first | assumption | apply KeepO.next | apply op1_k) | intro _ _ _ | intro _ _)

theorem execFcvtFi_k {zz s : State} (hs : Keep zz s) (i : Iss) (rd : Fin 32) (ra : Fin 32) (rb : Fin 32) : KeepO zz (execFcvtFi i rd ra rb s) := by
  unfold execFcvtFi
  try dsimp only
  repeat' (first | with_reducible (first | assumption | apply KeepO.next | apply op1_k) | intro _ _ _ | intro _ _)

theorem execFcvtIf_k {zz s : State} (hs : Keep zz s) (i : Iss) (rd : Fin 32) (ra : Fin 32) (rb : Fin 32) : KeepO zz (execFcvtIf i rd ra rb s) := by
  unfold execFcvtIf
  repeat' (first | with_reducible (first | assumption | apply KeepO.next | apply op1_k) | intro _ _ _ | intro _ _)

theorem State.setPred_k {zz s : State} (hs : Keep zz s) (i : Iss) (n : Nat) (rd : Fin 32) (v : Bool) : Keep zz (State.setPred s i n rd v) := by
  unfold State.setPred
  try dsimp only
  repeat' (first | with_reducible (first | assumption | apply deliverTo_k) | intro _ _ _ | intro _ _ | split | dsimp only)

theorem State.cmpOp_k {zz s : State} (hs : Keep zz s) (i : Iss) (k : Kind) (ok : Bool) (rd : Fin 32) (f : Nat → State → Bool × Nat) : KeepO zz (State.cmpOp s i k ok rd f) := by
  unfold State.cmpOp
  try dsimp only
  repeat' (first | with_reducible (first | assumption | apply KeepO.next | apply Keep.when | apply deliverTo_k | apply issue_k | apply setPred_k) | intro _ _ _ | intro _ _)

theorem execCeq_k {zz s : State} (hs : Keep zz s) (i : Iss) (rd : Fin 32) (ra : Fin 32) (rb : Fin 32) : KeepO zz (execCeq i rd ra rb s) := by
  unfold execCeq
  try dsimp only
  repeat' (first | with_reducible (first | assumption | apply KeepO.next | apply cmpOp_k) | intro _ _ _ | intro _ _)

theorem execCne_k {zz s : State} (hs : Keep zz s) (i : Iss) (rd : Fin 32) (ra : Fin 32) (rb : Fin 32) : KeepO zz (execCne i rd ra rb s) := by
  unfold execCne
  try dsimp only
  repeat' (first | with_reducible (first | assumption | apply KeepO.next | apply cmpOp_k) | intro _ _ _ | intro _ _)

theorem execClt_k {zz s : State} (hs : Keep zz s) (i : Iss) (rd : Fin 32) (ra : Fin 32) (rb : Fin 32) : KeepO zz (execClt i rd ra rb s) := by
  unfold execClt
  try dsimp only
  repeat' (first | with_reducible (first | assumption | apply KeepO.next | apply cmpOp_k) | intro _ _ _ | intro _ _)

theorem execCltu_k {zz s : State} (hs : Keep zz s) (i : Iss) (rd : Fin 32) (ra : Fin 32) (rb : Fin 32) : KeepO zz (execCltu i rd ra rb s) := by
  unfold execCltu
  try dsimp only
  repeat' (first | with_reducible (first | assumption | apply KeepO.next | apply cmpOp_k) | intro _ _ _ | intro _ _)

theorem execFceq_k {zz s : State} (hs : Keep zz s) (i : Iss) (rd : Fin 32) (ra : Fin 32) (rb : Fin 32) : KeepO zz (execFceq i rd ra rb s) := by
  unfold execFceq
  try dsimp only
  repeat' (first | with_reducible (first | assumption | apply KeepO.next | apply cmpOp_k) | intro _ _ _ | intro _ _)

theorem execFclt_k {zz s : State} (hs : Keep zz s) (i : Iss) (rd : Fin 32) (ra : Fin 32) (rb : Fin 32) : KeepO zz (execFclt i rd ra rb s) := by
  unfold execFclt
  try dsimp only
  repeat' (first | with_reducible (first | assumption | apply KeepO.next | apply cmpOp_k) | intro _ _ _ | intro _ _)

theorem execFcle_k {zz s : State} (hs : Keep zz s) (i : Iss) (rd : Fin 32) (ra : Fin 32) (rb : Fin 32) : KeepO zz (execFcle i rd ra rb s) := by
  unfold execFcle
  try dsimp only
  repeat' (first | with_reducible (first | assumption | apply KeepO.next | apply cmpOp_k) | intro _ _ _ | intro _ _)

theorem State.predOp_k {zz s : State} (hs : Keep zz s) (i : Iss) (rd : Fin 32) (ra : Fin 32) (rb : Fin 32) (f : Bool → Bool → Bool) : KeepO zz (State.predOp s i rd ra rb f) := by
  unfold State.predOp
  try dsimp only
  repeat' (first | with_reducible (first | assumption | apply KeepO.next | apply cmpOp_k) | intro _ _ _ | intro _ _)

theorem execPand_k {zz s : State} (hs : Keep zz s) (i : Iss) (rd : Fin 32) (ra : Fin 32) (rb : Fin 32) : KeepO zz (execPand i rd ra rb s) := by
  unfold execPand
  repeat' (first | with_reducible (first | assumption | apply KeepO.next | apply predOp_k) | intro _ _ _ | intro _ _)

theorem execPor_k {zz s : State} (hs : Keep zz s) (i : Iss) (rd : Fin 32) (ra : Fin 32) (rb : Fin 32) : KeepO zz (execPor i rd ra rb s) := by
  unfold execPor
  repeat' (first | with_reducible (first | assumption | apply KeepO.next | apply predOp_k) | intro _ _ _ | intro _ _)

theorem execPxor_k {zz s : State} (hs : Keep zz s) (i : Iss) (rd : Fin 32) (ra : Fin 32) (rb : Fin 32) : KeepO zz (execPxor i rd ra rb s) := by
  unfold execPxor
  repeat' (first | with_reducible (first | assumption | apply KeepO.next | apply predOp_k) | intro _ _ _ | intro _ _)

theorem execCeqi_k {zz s : State} (hs : Keep zz s) (i : Iss) (rd : Fin 32) (ra : Fin 32) (imm : BitVec 12) : KeepO zz (execCeqi i rd ra imm s) := by
  unfold execCeqi
  try dsimp only
  repeat' (first | with_reducible (first | assumption | apply KeepO.next | apply cmpOp_k) | intro _ _ _ | intro _ _)

theorem execClti_k {zz s : State} (hs : Keep zz s) (i : Iss) (rd : Fin 32) (ra : Fin 32) (imm : BitVec 12) : KeepO zz (execClti i rd ra imm s) := by
  unfold execClti
  try dsimp only
  repeat' (first | with_reducible (first | assumption | apply KeepO.next | apply cmpOp_k) | intro _ _ _ | intro _ _)

theorem State.opI_k {zz s : State} (hs : Keep zz s) (i : Iss) (ok : Bool) (rd : Fin 32) (ra : Fin 32) (f : Nat → Nat) : KeepO zz (State.opI s i ok rd ra f) := by
  unfold State.opI
  try dsimp only
  repeat' (first | with_reducible (first | assumption | apply KeepO.next | apply result_k | apply issue_k) | intro _ _ _ | intro _ _)

theorem execAddi_k {zz s : State} (hs : Keep zz s) (i : Iss) (rd : Fin 32) (ra : Fin 32) (imm : BitVec 12) : KeepO zz (execAddi i rd ra imm s) := by
  unfold execAddi
  try dsimp only
  repeat' (first | with_reducible (first | assumption | apply KeepO.next | apply opI_k) | intro _ _ _ | intro _ _)

theorem execAndi_k {zz s : State} (hs : Keep zz s) (i : Iss) (rd : Fin 32) (ra : Fin 32) (imm : BitVec 12) : KeepO zz (execAndi i rd ra imm s) := by
  unfold execAndi
  try dsimp only
  repeat' (first | with_reducible (first | assumption | apply KeepO.next | apply land_k | apply opI_k) | intro _ _ _ | intro _ _)

theorem execOri_k {zz s : State} (hs : Keep zz s) (i : Iss) (rd : Fin 32) (ra : Fin 32) (imm : BitVec 12) : KeepO zz (execOri i rd ra imm s) := by
  unfold execOri
  try dsimp only
  repeat' (first | with_reducible (first | assumption | apply KeepO.next | apply opI_k) | intro _ _ _ | intro _ _)

theorem execShli_k {zz s : State} (hs : Keep zz s) (i : Iss) (rd : Fin 32) (ra : Fin 32) (imm : BitVec 12) : KeepO zz (execShli i rd ra imm s) := by
  unfold execShli
  try dsimp only
  repeat' (first | with_reducible (first | assumption | apply KeepO.next | apply opI_k) | intro _ _ _ | intro _ _)

theorem execShri_k {zz s : State} (hs : Keep zz s) (i : Iss) (rd : Fin 32) (ra : Fin 32) (imm : BitVec 12) : KeepO zz (execShri i rd ra imm s) := by
  unfold execShri
  try dsimp only
  repeat' (first | with_reducible (first | assumption | apply KeepO.next | apply opI_k) | intro _ _ _ | intro _ _)

theorem execLil_k {zz s : State} (hs : Keep zz s) (i : Iss) (rd : Fin 32) (imm : BitVec 17) : KeepO zz (execLil i rd imm s) := by
  unfold execLil
  try dsimp only
  repeat' (first | with_reducible (first | assumption | apply KeepO.next | apply result_k | apply issue_k) | intro _ _ _ | intro _ _)

theorem execLih_k {zz s : State} (hs : Keep zz s) (i : Iss) (rd : Fin 32) (imm : BitVec 17) : KeepO zz (execLih i rd imm s) := by
  unfold execLih
  try dsimp only
  repeat' (first | with_reducible (first | assumption | apply KeepO.next | apply result_k | apply issue_k) | intro _ _ _ | intro _ _)

end Sys2Proof.Machine
end

