-- ==== Sys2Proof/Laws/KeepControl.lean ====
section
/-! SUPPORT. Laws/KeepControl.lean: the operations and commands of Machine/Control.lean keep the invariant and the command queue. -/
namespace Sys2Proof.Machine
open State

theorem State.loadOp_k {zz s : State} (hs : Keep zz s) (i : Iss) (rt : Fin 32) (ra : Fin 32) (ofs : BitVec 12) (k : Nat) (ue : Bool) (f : Nat → Nat) : KeepO zz (State.loadOp s i rt ra ofs k ue f) := by
  unfold State.loadOp
  try dsimp only
  repeat' (first | with_reducible (first | assumption | apply KeepO.next | apply result_k | apply issue_k | apply loadAt_k) | intro _ _ _ | intro _ _)

theorem execLdw_k {zz s : State} (hs : Keep zz s) (i : Iss) (rt : Fin 32) (ra : Fin 32) (ofs : BitVec 12) (ue : Bool) : KeepO zz (execLdw i rt ra ofs ue s) := by
  unfold execLdw
  try dsimp only
  repeat' (first | with_reducible (first | assumption | apply KeepO.next | apply loadOp_k) | intro _ _ _ | intro _ _)

theorem execLdh_k {zz s : State} (hs : Keep zz s) (i : Iss) (rt : Fin 32) (ra : Fin 32) (ofs : BitVec 12) (ue : Bool) : KeepO zz (execLdh i rt ra ofs ue s) := by
  unfold execLdh
  try dsimp only
  repeat' (first | with_reducible (first | assumption | apply KeepO.next | apply loadOp_k) | intro _ _ _ | intro _ _)

theorem execLdhu_k {zz s : State} (hs : Keep zz s) (i : Iss) (rt : Fin 32) (ra : Fin 32) (ofs : BitVec 12) (ue : Bool) : KeepO zz (execLdhu i rt ra ofs ue s) := by
  unfold execLdhu
  try dsimp only
  repeat' (first | with_reducible (first | assumption | apply KeepO.next | apply loadOp_k) | intro _ _ _ | intro _ _)

theorem execLdbu_k {zz s : State} (hs : Keep zz s) (i : Iss) (rt : Fin 32) (ra : Fin 32) (ofs : BitVec 12) (ue : Bool) : KeepO zz (execLdbu i rt ra ofs ue s) := by
  unfold execLdbu
  try dsimp only
  repeat' (first | with_reducible (first | assumption | apply KeepO.next | apply loadOp_k) | intro _ _ _ | intro _ _)

theorem State.storeOp_k {zz s : State} (hs : Keep zz s) (i : Iss) (rt : Fin 32) (ra : Fin 32) (ofs : BitVec 12) (k : Nat) : KeepO zz (State.storeOp s i rt ra ofs k) := by
  unfold State.storeOp
  try dsimp only
  repeat' (first | with_reducible (first | assumption | apply KeepO.next | apply issue_k | apply storeAt_k) | intro _ _ _ | intro _ _)

theorem execStw_k {zz s : State} (hs : Keep zz s) (i : Iss) (rt : Fin 32) (ra : Fin 32) (ofs : BitVec 12) : KeepO zz (execStw i rt ra ofs s) := by
  unfold execStw
  repeat' (first | with_reducible (first | assumption | apply KeepO.next | apply storeOp_k) | intro _ _ _ | intro _ _)

theorem execSth_k {zz s : State} (hs : Keep zz s) (i : Iss) (rt : Fin 32) (ra : Fin 32) (ofs : BitVec 12) : KeepO zz (execSth i rt ra ofs s) := by
  unfold execSth
  repeat' (first | with_reducible (first | assumption | apply KeepO.next | apply storeOp_k) | intro _ _ _ | intro _ _)

theorem execStb_k {zz s : State} (hs : Keep zz s) (i : Iss) (rt : Fin 32) (ra : Fin 32) (ofs : BitVec 12) : KeepO zz (execStb i rt ra ofs s) := by
  unfold execStb
  repeat' (first | with_reducible (first | assumption | apply KeepO.next | apply storeOp_k) | intro _ _ _ | intro _ _)

theorem execPrf_k {zz s : State} (hs : Keep zz s) (i : Iss) (rt : Fin 32) (ra : Fin 32) (ofs : BitVec 12) : KeepO zz (execPrf i rt ra ofs s) := by
  unfold execPrf
  try dsimp only
  repeat' (first | with_reducible (first | assumption | apply KeepO.next | apply Keep.when | apply setCore_k | apply issue_k) | intro _ _ _ | intro _ _ | (with_reducible apply Keep.ofMk; with_reducible refine Keep.mk ?_))

theorem State.branch_k {zz s : State} (hs : Keep zz s) (i : Iss) (t : Nat) (lr : Option Nat) : Keep zz (State.branch s i t lr) := by
  unfold State.branch
  try dsimp only
  repeat' (first | with_reducible (first | assumption | apply setCore_k | apply result_k | apply raise_k | apply Keep.ite) | intro _ _ _ | intro _ _ | split | dsimp only | (with_reducible apply Keep.ofMk; with_reducible refine Keep.mk ?_))

theorem execBr_k {zz s : State} (hs : Keep zz s) (i : Iss) (disp : BitVec 22) : KeepO zz (execBr i disp s) := by
  unfold execBr
  try dsimp only
  repeat' (first | with_reducible (first | assumption | apply KeepO.next | apply issue_k | apply branch_k) | intro _ _ _ | intro _ _)

theorem execBrl_k {zz s : State} (hs : Keep zz s) (i : Iss) (disp : BitVec 22) : KeepO zz (execBrl i disp s) := by
  unfold execBrl
  try dsimp only
  repeat' (first | with_reducible (first | assumption | apply KeepO.next | apply issue_k | apply branch_k) | intro _ _ _ | intro _ _)

theorem execJr_k {zz s : State} (hs : Keep zz s) (i : Iss) (rd : Fin 32) (ra : Fin 32) (k : BitVec 12) : KeepO zz (execJr i rd ra k s) := by
  unfold execJr
  try dsimp only
  repeat' (first | with_reducible (first | assumption | apply KeepO.next | apply issue_k | apply branch_k) | intro _ _ _ | intro _ _)

theorem execJrl_k {zz s : State} (hs : Keep zz s) (i : Iss) (rd : Fin 32) (ra : Fin 32) (k : BitVec 12) : KeepO zz (execJrl i rd ra k s) := by
  unfold execJrl
  try dsimp only
  repeat' (first | with_reducible (first | assumption | apply KeepO.next | apply issue_k | apply branch_k) | intro _ _ _ | intro _ _)

theorem State.snapshot_k {zz s : State} (hs : Keep zz s) (i : Iss) (c : Nat) (d : Nat) (ue : Bool) : Keep zz (State.snapshot s i c d ue) := by
  unfold State.snapshot
  try dsimp only
  repeat' (first | with_reducible (first | assumption | apply Keep.when | apply bump_k | apply setEng_k | apply post_k | apply deliverTo_k | apply postUe_k | apply Keep.ite) | intro _ _ _ | intro _ _ | split | (with_reducible apply Keep.ofMk; with_reducible refine Keep.mk ?_))

theorem execCsnap_k {zz s : State} (hs : Keep zz s) (i : Iss) (rd : Fin 32) (ra : Fin 32) (k : BitVec 12) (ue : Bool) : KeepO zz (execCsnap i rd ra k ue s) := by
  unfold execCsnap
  try dsimp only
  repeat' (first | with_reducible (first | assumption | apply KeepO.next | apply raise_k | apply issue_k | apply snapshot_k | apply Keep.ite | apply KeepO.ite) | intro _ _ _ | intro _ _ | split)

theorem execMsh_k {zz s : State} (hs : Keep zz s) (i : Iss) (rd : Fin 32) (ra : Fin 32) (k : BitVec 12) : KeepO zz (execMsh i rd ra k s) := by
  unfold execMsh
  try dsimp only
  repeat' (first | with_reducible (first | assumption | apply KeepO.next | apply reserved_k | apply putShadow_k | apply raise_k | apply issue_k | apply Keep.ite | apply KeepO.ite) | intro _ _ _ | intro _ _ | split)

theorem execLdall_k {zz s : State} (hs : Keep zz s) (i : Iss) (rd : Fin 32) (ra : Fin 32) (k : BitVec 12) : KeepO zz (execLdall i rd ra k s) := by
  unfold execLdall
  try dsimp only
  repeat' (first | with_reducible (first | assumption | apply KeepO.next | apply capture_k | apply issue_k) | intro _ _ _ | intro _ _)

theorem execGlut_k {zz s : State} (hs : Keep zz s) (i : Iss) (rd : Fin 32) (ra : Fin 32) (k : BitVec 12) : KeepO zz (execGlut i rd ra k s) := by
  unfold execGlut
  try dsimp only
  repeat' (first | with_reducible (first | assumption | apply KeepO.next | apply result_k | apply issue_k) | intro _ _ _ | intro _ _)

theorem State.pstepOp_k {zz s : State} (hs : Keep zz s) (i : Iss) (rd : Fin 32) (t : Option Nat) : Keep zz (State.pstepOp s i rd t) := by
  unfold State.pstepOp
  try dsimp only
  repeat' (first | with_reducible (first | assumption | apply setCore_k | apply pstep_k | apply result_k | apply Keep.ite) | intro _ _ _ | intro _ _ | split | (with_reducible apply Keep.ofMk; with_reducible refine Keep.mk ?_))

theorem execPstepKeep_k {zz s : State} (hs : Keep zz s) (i : Iss) (rd : Fin 32) (ra : Fin 32) (k : BitVec 11) : KeepO zz (execPstepKeep i rd ra k s) := by
  unfold execPstepKeep
  try dsimp only
  repeat' (first | with_reducible (first | assumption | apply KeepO.next | apply issue_k | apply pstepOp_k) | intro _ _ _ | intro _ _)

theorem execPstepTarget_k {zz s : State} (hs : Keep zz s) (i : Iss) (rd : Fin 32) (ra : Fin 32) (k : BitVec 11) : KeepO zz (execPstepTarget i rd ra k s) := by
  unfold execPstepTarget
  try dsimp only
  repeat' (first | with_reducible (first | assumption | apply KeepO.next | apply issue_k | apply pstepOp_k) | intro _ _ _ | intro _ _)

theorem State.tbrd_k {zz s : State} (hs : Keep zz s) (i : Iss) (rd : Fin 32) (sel : Nat) (k : Nat) : KeepO zz (State.tbrd s i rd sel k) := by
  unfold State.tbrd
  try dsimp only
  repeat' (first | with_reducible (first | assumption | apply KeepO.next | apply Keep.when | apply drawn_k | apply setCore_k | apply result_k | apply issue_k) | intro _ _ _ | intro _ _ | (with_reducible apply Keep.ofMk; with_reducible refine Keep.mk ?_))

theorem execTbrdSnapshot_k {zz s : State} (hs : Keep zz s) (i : Iss) (rd : Fin 32) (k : BitVec 9) : KeepO zz (execTbrdSnapshot i rd k s) := by
  unfold execTbrdSnapshot
  repeat' (first | with_reducible (first | assumption | apply KeepO.next | apply tbrd_k) | intro _ _ _ | intro _ _)

theorem execTbrdPart_k {zz s : State} (hs : Keep zz s) (i : Iss) (rd : Fin 32) (sel : BitVec 3) (k : BitVec 9) : KeepO zz (execTbrdPart i rd sel k s) := by
  unfold execTbrdPart
  repeat' (first | with_reducible (first | assumption | apply KeepO.next | apply tbrd_k) | intro _ _ _ | intro _ _)

theorem execWait_k {zz s : State} (hs : Keep zz s) (i : Iss) (rd : Fin 32) (ra : Fin 32) (rb : Fin 32) : KeepO zz (execWait i rd ra rb s) := by
  unfold execWait
  try dsimp only
  repeat' (first | with_reducible (first | assumption | apply KeepO.next | apply drawn_k | apply setCore_k | apply result_k | apply issue_k | apply Keep.ite | apply KeepO.ite) | intro _ _ _ | intro _ _ | split | (with_reducible apply Keep.ofMk; with_reducible refine Keep.mk ?_))

theorem execWaitEnd_k {zz s : State} (hs : Keep zz s) (k : Fin 4) : KeepO zz (execWaitEnd k s) := by
  unfold execWaitEnd
  try dsimp only
  repeat' (first | with_reducible (first | assumption | apply KeepO.next | apply Keep.when | apply drawn_k | apply setCore_k | apply land_k) | intro _ _ _ | intro _ _ | split | dsimp only | (with_reducible apply Keep.ofMk; with_reducible refine Keep.mk ?_))

theorem execFpost_k {zz s : State} (hs : Keep zz s) (i : Iss) (rd : Fin 32) (ra : Fin 32) (k : BitVec 12) : KeepO zz (execFpost i rd ra k s) := by
  unfold execFpost
  try dsimp only
  repeat' (first | with_reducible (first | assumption | apply KeepO.next | apply post_k | apply issue_k) | intro _ _ _ | intro _ _)

theorem execTprb_k {zz s : State} (hs : Keep zz s) (i : Iss) (rd : Fin 32) (ra : Fin 32) (k : BitVec 12) : KeepO zz (execTprb i rd ra k s) := by
  unfold execTprb
  try dsimp only
  repeat' (first | with_reducible (first | assumption | apply KeepO.next | apply Keep.when | apply makeRec_k | apply issue_k) | intro _ _ _ | intro _ _)

theorem execTmeas_k {zz s : State} (hs : Keep zz s) (i : Iss) (rd : Fin 32) (ra : Fin 32) (k : BitVec 12) : KeepO zz (execTmeas i rd ra k s) := by
  unfold execTmeas
  try dsimp only
  repeat' (first | with_reducible (first | assumption | apply KeepO.next | apply thmStart_k | apply result_k | apply issue_k) | intro _ _ _ | intro _ _)

theorem State.countCycles_k {zz s : State} (hs : Keep zz s) (n : Nat) (j : Nat) (c : Nat) : Keep zz (State.countCycles s n j c) := by
  unfold State.countCycles
  try dsimp only
  repeat' (first | with_reducible (first | assumption | apply Keep.when | apply wr_k | apply bump_k | apply post_k) | intro _ _ _ | intro _ _)

theorem State.taskEnd_k {zz s : State} (hs : Keep zz s) (n : Nat) : Keep zz (State.taskEnd s n) := by
  unfold State.taskEnd
  try dsimp only
  repeat' (first | with_reducible (first | assumption | apply setEng_k | apply landData_k | apply powerCheck_k | apply engIdle_k | apply takeRegions_k | apply countCycles_k) | intro _ _ _ | intro _ _ | (with_reducible apply Keep.ofMk; with_reducible refine Keep.mk ?_))

theorem execTend_k {zz s : State} (hs : Keep zz s) (i : Iss) (rd : Fin 32) (ra : Fin 32) (k : BitVec 12) : KeepO zz (execTend i rd ra k s) := by
  unfold execTend
  try dsimp only
  repeat' (first | with_reducible (first | assumption | apply KeepO.next | apply issue_k | apply taskEnd_k) | intro _ _ _ | intro _ _)

theorem State.cycWaits_k {zz s : State} (hs : Keep zz s) (n : Nat) : Keep zz (State.cycWaits s n) := by
  unfold State.cycWaits
  repeat' (first | with_reducible (first | assumption | apply drawn_k | apply setCore_k) | intro _ _ _ | intro _ _ | (with_reducible apply Keep.ofMk; with_reducible refine Keep.mk ?_))

theorem State.mfs_k {zz s : State} (hs : Keep zz s) (i : Iss) (rd : Fin 32) (k : Nat) : KeepO zz (State.mfs s i rd k) := by
  unfold State.mfs
  try dsimp only
  repeat' (first | with_reducible (first | assumption | apply KeepO.next | apply Keep.when | apply setCore_k | apply result_k | apply issue_k | apply cycWaits_k) | intro _ _ _ | intro _ _ | (with_reducible apply Keep.ofMk; with_reducible refine Keep.mk ?_))

theorem execMfs_k {zz s : State} (hs : Keep zz s) (i : Iss) (rd : Fin 32) (ra : Fin 32) (k : BitVec 12) : KeepO zz (execMfs i rd ra k s) := by
  unfold execMfs
  repeat' (first | with_reducible (first | assumption | apply KeepO.next | apply mfs_k) | intro _ _ _ | intro _ _)

theorem execMfsClear_k {zz s : State} (hs : Keep zz s) (i : Iss) (rd : Fin 32) (ra : Fin 32) (k : BitVec 12) : KeepO zz (execMfsClear i rd ra k s) := by
  unfold execMfsClear
  repeat' (first | with_reducible (first | assumption | apply KeepO.next | apply mfs_k) | intro _ _ _ | intro _ _)

theorem State.priv_k {zz s : State} (hs : Keep zz s) (n : Nat) (f : State → State) (hf : ∀ u, Keep zz u → Keep zz (f u)) : Keep zz (State.priv s n f) := by
  unfold State.priv
  repeat' (first | with_reducible (first | assumption | apply raise_k | apply Keep.ite | apply hf) | intro _ _ _ | intro _ _ | split)

theorem execRfe_k {zz s : State} (hs : Keep zz s) (i : Iss) (rd : Fin 32) (ra : Fin 32) (k : BitVec 9) : KeepO zz (execRfe i rd ra k s) := by
  unfold execRfe
  try dsimp only
  repeat' (first | with_reducible (first | assumption | apply KeepO.next | apply setCore_k | apply issue_k | apply priv_k) | intro _ _ _ | intro _ _ | (with_reducible apply Keep.ofMk; with_reducible refine Keep.mk ?_))

theorem execIdle_k {zz s : State} (hs : Keep zz s) (i : Iss) (rd : Fin 32) (ra : Fin 32) (k : BitVec 9) : KeepO zz (execIdle i rd ra k s) := by
  unfold execIdle
  try dsimp only
  repeat' (first | with_reducible (first | assumption | apply KeepO.next | apply setCore_k | apply idle_k | apply issue_k | apply priv_k) | intro _ _ _ | intro _ _ | (with_reducible apply Keep.ofMk; with_reducible refine Keep.mk ?_))

theorem execMfc_k {zz s : State} (hs : Keep zz s) (i : Iss) (rd : Fin 32) (ra : Fin 32) (k : BitVec 9) : KeepO zz (execMfc i rd ra k s) := by
  unfold execMfc
  try dsimp only
  repeat' (first | with_reducible (first | assumption | apply KeepO.next | apply result_k | apply issue_k | apply priv_k) | intro _ _ _ | intro _ _)

theorem execMtc_k {zz s : State} (hs : Keep zz s) (i : Iss) (rd : Fin 32) (ra : Fin 32) (k : BitVec 9) : KeepO zz (execMtc i rd ra k s) := by
  unfold execMtc
  try dsimp only
  repeat' (first | with_reducible (first | assumption | apply KeepO.next | apply Keep.when | apply setCore_k | apply issue_k | apply takeIrq_k | apply priv_k) | intro _ _ _ | intro _ _)

theorem State.setRegion_k {zz s : State} (hs : Keep zz s) (n : Nat) (r : Nat) (b : Nat) (l : Nat) (t : Nat) : Keep zz (State.setRegion s n r b l t) := by
  unfold State.setRegion
  repeat' (first | with_reducible (first | assumption | apply Keep.setReg) | intro _ _ _ | intro _ _)

theorem execRgld_k {zz s : State} (hs : Keep zz s) (i : Iss) (rd : Fin 32) (ra : Fin 32) (k : BitVec 9) : KeepO zz (execRgld i rd ra k s) := by
  unfold execRgld
  try dsimp only
  repeat' (first | with_reducible (first | assumption | apply KeepO.next | apply Keep.when | apply issue_k | apply loadAt_k | apply priv_k | apply setRegion_k) | intro _ _ _ | intro _ _)

end Sys2Proof.Machine
end

