-- ==== Sys2Proof/Laws/State.lean ====
section
/-! SUPPORT. Laws/State.lean: what each update of a field, a register or a table's entry leaves of the other fields, and what it makes its
own entry read as. -/
namespace Sys2Proof.Machine

/-! ### The short forms of a register update -/

@[simp] theorem State.set1_eq (s : State) (f : Fld) : s.set1 f = s.wr f 1 := rfl
@[simp] theorem State.clr_eq (s : State) (f : Fld) : s.clr f = s.wr f 0 := rfl
@[simp] theorem State.addSat_eq (s : State) (f : Fld) (n : Nat) : s.addSat f n = s.wr f (satN f.w (s.rd f + n)) := rfl
@[simp] theorem State.bump_eq (s : State) (f : Fld) : s.bump f = s.wr f (satN f.w (s.rd f + 1)) := rfl
@[simp] theorem State.setBit_eq (s : State) (f : Fld) (i : Nat) : s.setBit f i = s.wr ⟨f.addr, f.lo + i, 1⟩ 1 := rfl
@[simp] theorem State.clrBit_eq (s : State) (f : Fld) (i : Nat) : s.clrBit f i = s.wr ⟨f.addr, f.lo + i, 1⟩ 0 := rfl
@[simp] theorem State.wrFree_eq (s : State) (f : Fld) : s.wrFree f = (s.wr f (s.freeNat f.w)).drawn := rfl

/-! ### setReg -/

@[simp] theorem State.setReg_pending (s : State) (a v : Nat) : (s.setReg a v).pending = s.pending := rfl
@[simp] theorem State.setReg_free (s : State) (a v : Nat) : (s.setReg a v).free = s.free := rfl
@[simp] theorem State.setReg_mem (s : State) (a v : Nat) : (s.setReg a v).mem = s.mem := rfl
@[simp] theorem State.setReg_tb (s : State) (a v : Nat) : (s.setReg a v).tb = s.tb := rfl
@[simp] theorem State.setReg_frames (s : State) (a v : Nat) : (s.setReg a v).frames = s.frames := rfl
@[simp] theorem State.setReg_fq (s : State) (a v : Nat) : (s.setReg a v).fq = s.fq := rfl
@[simp] theorem State.setReg_wired (s : State) (a v : Nat) : (s.setReg a v).wired = s.wired := rfl
@[simp] theorem State.setReg_grid (s : State) (a v : Nat) : (s.setReg a v).grid = s.grid := rfl
@[simp] theorem State.setReg_lanes (s : State) (a v : Nat) : (s.setReg a v).lanes = s.lanes := rfl
@[simp] theorem State.setReg_chains (s : State) (a v : Nat) : (s.setReg a v).chains = s.chains := rfl
@[simp] theorem State.setReg_cells (s : State) (a v : Nat) : (s.setReg a v).cells = s.cells := rfl
@[simp] theorem State.setReg_cst (s : State) (a v : Nat) : (s.setReg a v).cst = s.cst := rfl
@[simp] theorem State.setReg_nodes (s : State) (a v : Nat) : (s.setReg a v).nodes = s.nodes := rfl
@[simp] theorem State.setReg_chans (s : State) (a v : Nat) : (s.setReg a v).chans = s.chans := rfl
@[simp] theorem State.setReg_plans (s : State) (a v : Nat) : (s.setReg a v).plans = s.plans := rfl
@[simp] theorem State.setReg_starved (s : State) (a v : Nat) : (s.setReg a v).starved = s.starved := rfl
@[simp] theorem State.setReg_aux (s : State) (a v : Nat) : (s.setReg a v).aux = s.aux := rfl
@[simp] theorem State.setReg_modA (s : State) (a v : Nat) : (s.setReg a v).modA = s.modA := rfl
@[simp] theorem State.setReg_lpwm (s : State) (a v : Nat) : (s.setReg a v).lpwm = s.lpwm := rfl
@[simp] theorem State.setReg_cores (s : State) (a v : Nat) : (s.setReg a v).cores = s.cores := rfl
@[simp] theorem State.setReg_engs (s : State) (a v : Nat) : (s.setReg a v).engs = s.engs := rfl
@[simp] theorem State.setReg_protc (s : State) (a v : Nat) : (s.setReg a v).protc = s.protc := rfl
@[simp] theorem State.setReg_prot (s : State) (a v : Nat) : (s.setReg a v).prot = s.prot := rfl
@[simp] theorem State.setReg_pair (s : State) (a v : Nat) : (s.setReg a v).pair = s.pair := rfl
@[simp] theorem State.setReg_adcs (s : State) (a v : Nat) : (s.setReg a v).adcs = s.adcs := rfl
@[simp] theorem State.setReg_cmps (s : State) (a v : Nat) : (s.setReg a v).cmps = s.cmps := rfl
@[simp] theorem State.setReg_sys (s : State) (a v : Nat) : (s.setReg a v).sys = s.sys := rfl
@[simp] theorem State.setReg_tts (s : State) (a v : Nat) : (s.setReg a v).tts = s.tts := rfl
@[simp] theorem State.setReg_trigq (s : State) (a v : Nat) : (s.setReg a v).trigq = s.trigq := rfl
@[simp] theorem State.setReg_age (s : State) (a v : Nat) : (s.setReg a v).age = s.age := rfl
@[simp] theorem State.setReg_isl (s : State) (a v : Nat) : (s.setReg a v).isl = s.isl := rfl
@[simp] theorem State.setReg_eths (s : State) (a v : Nat) : (s.setReg a v).eths = s.eths := rfl
@[simp] theorem State.setReg_cans (s : State) (a v : Nat) : (s.setReg a v).cans = s.cans := rfl
@[simp] theorem State.setReg_sec (s : State) (a v : Nat) : (s.setReg a v).sec = s.sec := rfl
@[simp] theorem State.setReg_trc (s : State) (a v : Nat) : (s.setReg a v).trc = s.trc := rfl
@[simp] theorem State.setReg_host (s : State) (a v : Nat) : (s.setReg a v).host = s.host := rfl
@[simp] theorem State.setReg_byte (s : State) (a v : Nat) (i : Nat) : (s.setReg a v).byte i = s.byte i := rfl
@[simp] theorem State.setReg_lane (s : State) (a v : Nat) (i : Nat) : (s.setReg a v).lane i = s.lane i := rfl
@[simp] theorem State.setReg_chain (s : State) (a v : Nat) (i : Nat) : (s.setReg a v).chain i = s.chain i := rfl
@[simp] theorem State.setReg_cell (s : State) (a v : Nat) (i : Nat) : (s.setReg a v).cell i = s.cell i := rfl
@[simp] theorem State.setReg_cstE (s : State) (a v : Nat) (i : Nat) : (s.setReg a v).cstE i = s.cstE i := rfl
@[simp] theorem State.setReg_node (s : State) (a v : Nat) (i : Nat) : (s.setReg a v).node i = s.node i := rfl
@[simp] theorem State.setReg_chan (s : State) (a v : Nat) (i : Nat) : (s.setReg a v).chan i = s.chan i := rfl
@[simp] theorem State.setReg_plan (s : State) (a v : Nat) (i : Nat) : (s.setReg a v).plan i = s.plan i := rfl
@[simp] theorem State.setReg_lp (s : State) (a v : Nat) (i : Nat) : (s.setReg a v).lp i = s.lp i := rfl
@[simp] theorem State.setReg_core (s : State) (a v : Nat) (i : Nat) : (s.setReg a v).core i = s.core i := rfl
@[simp] theorem State.setReg_eng (s : State) (a v : Nat) (i : Nat) : (s.setReg a v).eng i = s.eng i := rfl
@[simp] theorem State.setReg_pc (s : State) (a v : Nat) (i : Nat) : (s.setReg a v).pc i = s.pc i := rfl
@[simp] theorem State.setReg_adc (s : State) (a v : Nat) (i : Nat) : (s.setReg a v).adc i = s.adc i := rfl
@[simp] theorem State.setReg_cmp (s : State) (a v : Nat) (i : Nat) : (s.setReg a v).cmp i = s.cmp i := rfl
@[simp] theorem State.setReg_tt (s : State) (a v : Nat) (i : Nat) : (s.setReg a v).tt i = s.tt i := rfl
@[simp] theorem State.setReg_eth (s : State) (a v : Nat) (i : Nat) : (s.setReg a v).eth i = s.eth i := rfl
@[simp] theorem State.setReg_can (s : State) (a v : Nat) (i : Nat) : (s.setReg a v).can i = s.can i := rfl
@[simp] theorem State.setReg_fqOf (s : State) (a v : Nat) (i : Nat) : (s.setReg a v).fqOf i = s.fqOf i := rfl

/-! ### drawn -/

@[simp] theorem State.drawn_pending (s : State) : s.drawn.pending = s.pending := rfl
@[simp] theorem State.drawn_regs (s : State) : s.drawn.regs = s.regs := rfl
@[simp] theorem State.drawn_mem (s : State) : s.drawn.mem = s.mem := rfl
@[simp] theorem State.drawn_tb (s : State) : s.drawn.tb = s.tb := rfl
@[simp] theorem State.drawn_frames (s : State) : s.drawn.frames = s.frames := rfl
@[simp] theorem State.drawn_fq (s : State) : s.drawn.fq = s.fq := rfl
@[simp] theorem State.drawn_wired (s : State) : s.drawn.wired = s.wired := rfl
@[simp] theorem State.drawn_grid (s : State) : s.drawn.grid = s.grid := rfl
@[simp] theorem State.drawn_lanes (s : State) : s.drawn.lanes = s.lanes := rfl
@[simp] theorem State.drawn_chains (s : State) : s.drawn.chains = s.chains := rfl
@[simp] theorem State.drawn_cells (s : State) : s.drawn.cells = s.cells := rfl
@[simp] theorem State.drawn_cst (s : State) : s.drawn.cst = s.cst := rfl
@[simp] theorem State.drawn_nodes (s : State) : s.drawn.nodes = s.nodes := rfl
@[simp] theorem State.drawn_chans (s : State) : s.drawn.chans = s.chans := rfl
@[simp] theorem State.drawn_plans (s : State) : s.drawn.plans = s.plans := rfl
@[simp] theorem State.drawn_starved (s : State) : s.drawn.starved = s.starved := rfl
@[simp] theorem State.drawn_aux (s : State) : s.drawn.aux = s.aux := rfl
@[simp] theorem State.drawn_modA (s : State) : s.drawn.modA = s.modA := rfl
@[simp] theorem State.drawn_lpwm (s : State) : s.drawn.lpwm = s.lpwm := rfl
@[simp] theorem State.drawn_cores (s : State) : s.drawn.cores = s.cores := rfl
@[simp] theorem State.drawn_engs (s : State) : s.drawn.engs = s.engs := rfl
@[simp] theorem State.drawn_protc (s : State) : s.drawn.protc = s.protc := rfl
@[simp] theorem State.drawn_prot (s : State) : s.drawn.prot = s.prot := rfl
@[simp] theorem State.drawn_pair (s : State) : s.drawn.pair = s.pair := rfl
@[simp] theorem State.drawn_adcs (s : State) : s.drawn.adcs = s.adcs := rfl
@[simp] theorem State.drawn_cmps (s : State) : s.drawn.cmps = s.cmps := rfl
@[simp] theorem State.drawn_sys (s : State) : s.drawn.sys = s.sys := rfl
@[simp] theorem State.drawn_tts (s : State) : s.drawn.tts = s.tts := rfl
@[simp] theorem State.drawn_trigq (s : State) : s.drawn.trigq = s.trigq := rfl
@[simp] theorem State.drawn_age (s : State) : s.drawn.age = s.age := rfl
@[simp] theorem State.drawn_isl (s : State) : s.drawn.isl = s.isl := rfl
@[simp] theorem State.drawn_eths (s : State) : s.drawn.eths = s.eths := rfl
@[simp] theorem State.drawn_cans (s : State) : s.drawn.cans = s.cans := rfl
@[simp] theorem State.drawn_sec (s : State) : s.drawn.sec = s.sec := rfl
@[simp] theorem State.drawn_trc (s : State) : s.drawn.trc = s.trc := rfl
@[simp] theorem State.drawn_host (s : State) : s.drawn.host = s.host := rfl
@[simp] theorem State.drawn_reg (s : State) (i : Nat) : s.drawn.reg i = s.reg i := rfl
@[simp] theorem State.drawn_rd (s : State) (g : Fld) : s.drawn.rd g = s.rd g := rfl
@[simp] theorem State.drawn_on (s : State) (g : Fld) : s.drawn.on g = s.on g := rfl
@[simp] theorem State.drawn_byte (s : State) (i : Nat) : s.drawn.byte i = s.byte i := rfl
@[simp] theorem State.drawn_lane (s : State) (i : Nat) : s.drawn.lane i = s.lane i := rfl
@[simp] theorem State.drawn_chain (s : State) (i : Nat) : s.drawn.chain i = s.chain i := rfl
@[simp] theorem State.drawn_cell (s : State) (i : Nat) : s.drawn.cell i = s.cell i := rfl
@[simp] theorem State.drawn_cstE (s : State) (i : Nat) : s.drawn.cstE i = s.cstE i := rfl
@[simp] theorem State.drawn_node (s : State) (i : Nat) : s.drawn.node i = s.node i := rfl
@[simp] theorem State.drawn_chan (s : State) (i : Nat) : s.drawn.chan i = s.chan i := rfl
@[simp] theorem State.drawn_plan (s : State) (i : Nat) : s.drawn.plan i = s.plan i := rfl
@[simp] theorem State.drawn_lp (s : State) (i : Nat) : s.drawn.lp i = s.lp i := rfl
@[simp] theorem State.drawn_core (s : State) (i : Nat) : s.drawn.core i = s.core i := rfl
@[simp] theorem State.drawn_eng (s : State) (i : Nat) : s.drawn.eng i = s.eng i := rfl
@[simp] theorem State.drawn_pc (s : State) (i : Nat) : s.drawn.pc i = s.pc i := rfl
@[simp] theorem State.drawn_adc (s : State) (i : Nat) : s.drawn.adc i = s.adc i := rfl
@[simp] theorem State.drawn_cmp (s : State) (i : Nat) : s.drawn.cmp i = s.cmp i := rfl
@[simp] theorem State.drawn_tt (s : State) (i : Nat) : s.drawn.tt i = s.tt i := rfl
@[simp] theorem State.drawn_eth (s : State) (i : Nat) : s.drawn.eth i = s.eth i := rfl
@[simp] theorem State.drawn_can (s : State) (i : Nat) : s.drawn.can i = s.can i := rfl
@[simp] theorem State.drawn_fqOf (s : State) (i : Nat) : s.drawn.fqOf i = s.fqOf i := rfl

/-! ### setByte -/

@[simp] theorem State.setByte_pending (s : State) (a : Nat) (b : Byte) : (s.setByte a b).pending = s.pending := rfl
@[simp] theorem State.setByte_free (s : State) (a : Nat) (b : Byte) : (s.setByte a b).free = s.free := rfl
@[simp] theorem State.setByte_regs (s : State) (a : Nat) (b : Byte) : (s.setByte a b).regs = s.regs := rfl
@[simp] theorem State.setByte_tb (s : State) (a : Nat) (b : Byte) : (s.setByte a b).tb = s.tb := rfl
@[simp] theorem State.setByte_frames (s : State) (a : Nat) (b : Byte) : (s.setByte a b).frames = s.frames := rfl
@[simp] theorem State.setByte_fq (s : State) (a : Nat) (b : Byte) : (s.setByte a b).fq = s.fq := rfl
@[simp] theorem State.setByte_wired (s : State) (a : Nat) (b : Byte) : (s.setByte a b).wired = s.wired := rfl
@[simp] theorem State.setByte_grid (s : State) (a : Nat) (b : Byte) : (s.setByte a b).grid = s.grid := rfl
@[simp] theorem State.setByte_lanes (s : State) (a : Nat) (b : Byte) : (s.setByte a b).lanes = s.lanes := rfl
@[simp] theorem State.setByte_chains (s : State) (a : Nat) (b : Byte) : (s.setByte a b).chains = s.chains := rfl
@[simp] theorem State.setByte_cells (s : State) (a : Nat) (b : Byte) : (s.setByte a b).cells = s.cells := rfl
@[simp] theorem State.setByte_cst (s : State) (a : Nat) (b : Byte) : (s.setByte a b).cst = s.cst := rfl
@[simp] theorem State.setByte_nodes (s : State) (a : Nat) (b : Byte) : (s.setByte a b).nodes = s.nodes := rfl
@[simp] theorem State.setByte_chans (s : State) (a : Nat) (b : Byte) : (s.setByte a b).chans = s.chans := rfl
@[simp] theorem State.setByte_plans (s : State) (a : Nat) (b : Byte) : (s.setByte a b).plans = s.plans := rfl
@[simp] theorem State.setByte_starved (s : State) (a : Nat) (b : Byte) : (s.setByte a b).starved = s.starved := rfl
@[simp] theorem State.setByte_aux (s : State) (a : Nat) (b : Byte) : (s.setByte a b).aux = s.aux := rfl
@[simp] theorem State.setByte_modA (s : State) (a : Nat) (b : Byte) : (s.setByte a b).modA = s.modA := rfl
@[simp] theorem State.setByte_lpwm (s : State) (a : Nat) (b : Byte) : (s.setByte a b).lpwm = s.lpwm := rfl
@[simp] theorem State.setByte_cores (s : State) (a : Nat) (b : Byte) : (s.setByte a b).cores = s.cores := rfl
@[simp] theorem State.setByte_engs (s : State) (a : Nat) (b : Byte) : (s.setByte a b).engs = s.engs := rfl
@[simp] theorem State.setByte_protc (s : State) (a : Nat) (b : Byte) : (s.setByte a b).protc = s.protc := rfl
@[simp] theorem State.setByte_prot (s : State) (a : Nat) (b : Byte) : (s.setByte a b).prot = s.prot := rfl
@[simp] theorem State.setByte_pair (s : State) (a : Nat) (b : Byte) : (s.setByte a b).pair = s.pair := rfl
@[simp] theorem State.setByte_adcs (s : State) (a : Nat) (b : Byte) : (s.setByte a b).adcs = s.adcs := rfl
@[simp] theorem State.setByte_cmps (s : State) (a : Nat) (b : Byte) : (s.setByte a b).cmps = s.cmps := rfl
@[simp] theorem State.setByte_sys (s : State) (a : Nat) (b : Byte) : (s.setByte a b).sys = s.sys := rfl
@[simp] theorem State.setByte_tts (s : State) (a : Nat) (b : Byte) : (s.setByte a b).tts = s.tts := rfl
@[simp] theorem State.setByte_trigq (s : State) (a : Nat) (b : Byte) : (s.setByte a b).trigq = s.trigq := rfl
@[simp] theorem State.setByte_age (s : State) (a : Nat) (b : Byte) : (s.setByte a b).age = s.age := rfl
@[simp] theorem State.setByte_isl (s : State) (a : Nat) (b : Byte) : (s.setByte a b).isl = s.isl := rfl
@[simp] theorem State.setByte_eths (s : State) (a : Nat) (b : Byte) : (s.setByte a b).eths = s.eths := rfl
@[simp] theorem State.setByte_cans (s : State) (a : Nat) (b : Byte) : (s.setByte a b).cans = s.cans := rfl
@[simp] theorem State.setByte_sec (s : State) (a : Nat) (b : Byte) : (s.setByte a b).sec = s.sec := rfl
@[simp] theorem State.setByte_trc (s : State) (a : Nat) (b : Byte) : (s.setByte a b).trc = s.trc := rfl
@[simp] theorem State.setByte_host (s : State) (a : Nat) (b : Byte) : (s.setByte a b).host = s.host := rfl
@[simp] theorem State.setByte_reg (s : State) (a : Nat) (b : Byte) (i : Nat) : (s.setByte a b).reg i = s.reg i := rfl
@[simp] theorem State.setByte_rd (s : State) (a : Nat) (b : Byte) (g : Fld) : (s.setByte a b).rd g = s.rd g := rfl
@[simp] theorem State.setByte_on (s : State) (a : Nat) (b : Byte) (g : Fld) : (s.setByte a b).on g = s.on g := rfl
@[simp] theorem State.setByte_lane (s : State) (a : Nat) (b : Byte) (i : Nat) : (s.setByte a b).lane i = s.lane i := rfl
@[simp] theorem State.setByte_chain (s : State) (a : Nat) (b : Byte) (i : Nat) : (s.setByte a b).chain i = s.chain i := rfl
@[simp] theorem State.setByte_cell (s : State) (a : Nat) (b : Byte) (i : Nat) : (s.setByte a b).cell i = s.cell i := rfl
@[simp] theorem State.setByte_cstE (s : State) (a : Nat) (b : Byte) (i : Nat) : (s.setByte a b).cstE i = s.cstE i := rfl
@[simp] theorem State.setByte_node (s : State) (a : Nat) (b : Byte) (i : Nat) : (s.setByte a b).node i = s.node i := rfl
@[simp] theorem State.setByte_chan (s : State) (a : Nat) (b : Byte) (i : Nat) : (s.setByte a b).chan i = s.chan i := rfl
@[simp] theorem State.setByte_plan (s : State) (a : Nat) (b : Byte) (i : Nat) : (s.setByte a b).plan i = s.plan i := rfl
@[simp] theorem State.setByte_lp (s : State) (a : Nat) (b : Byte) (i : Nat) : (s.setByte a b).lp i = s.lp i := rfl
@[simp] theorem State.setByte_core (s : State) (a : Nat) (b : Byte) (i : Nat) : (s.setByte a b).core i = s.core i := rfl
@[simp] theorem State.setByte_eng (s : State) (a : Nat) (b : Byte) (i : Nat) : (s.setByte a b).eng i = s.eng i := rfl
@[simp] theorem State.setByte_pc (s : State) (a : Nat) (b : Byte) (i : Nat) : (s.setByte a b).pc i = s.pc i := rfl
@[simp] theorem State.setByte_adc (s : State) (a : Nat) (b : Byte) (i : Nat) : (s.setByte a b).adc i = s.adc i := rfl
@[simp] theorem State.setByte_cmp (s : State) (a : Nat) (b : Byte) (i : Nat) : (s.setByte a b).cmp i = s.cmp i := rfl
@[simp] theorem State.setByte_tt (s : State) (a : Nat) (b : Byte) (i : Nat) : (s.setByte a b).tt i = s.tt i := rfl
@[simp] theorem State.setByte_eth (s : State) (a : Nat) (b : Byte) (i : Nat) : (s.setByte a b).eth i = s.eth i := rfl
@[simp] theorem State.setByte_can (s : State) (a : Nat) (b : Byte) (i : Nat) : (s.setByte a b).can i = s.can i := rfl
@[simp] theorem State.setByte_fqOf (s : State) (a : Nat) (b : Byte) (i : Nat) : (s.setByte a b).fqOf i = s.fqOf i := rfl

/-! ### setLane -/

@[simp] theorem State.setLane_pending (s : State) (n : Nat) (x : LaneH) : (s.setLane n x).pending = s.pending := rfl
@[simp] theorem State.setLane_free (s : State) (n : Nat) (x : LaneH) : (s.setLane n x).free = s.free := rfl
@[simp] theorem State.setLane_regs (s : State) (n : Nat) (x : LaneH) : (s.setLane n x).regs = s.regs := rfl
@[simp] theorem State.setLane_mem (s : State) (n : Nat) (x : LaneH) : (s.setLane n x).mem = s.mem := rfl
@[simp] theorem State.setLane_tb (s : State) (n : Nat) (x : LaneH) : (s.setLane n x).tb = s.tb := rfl
@[simp] theorem State.setLane_frames (s : State) (n : Nat) (x : LaneH) : (s.setLane n x).frames = s.frames := rfl
@[simp] theorem State.setLane_fq (s : State) (n : Nat) (x : LaneH) : (s.setLane n x).fq = s.fq := rfl
@[simp] theorem State.setLane_wired (s : State) (n : Nat) (x : LaneH) : (s.setLane n x).wired = s.wired := rfl
@[simp] theorem State.setLane_grid (s : State) (n : Nat) (x : LaneH) : (s.setLane n x).grid = s.grid := rfl
@[simp] theorem State.setLane_chains (s : State) (n : Nat) (x : LaneH) : (s.setLane n x).chains = s.chains := rfl
@[simp] theorem State.setLane_cells (s : State) (n : Nat) (x : LaneH) : (s.setLane n x).cells = s.cells := rfl
@[simp] theorem State.setLane_cst (s : State) (n : Nat) (x : LaneH) : (s.setLane n x).cst = s.cst := rfl
@[simp] theorem State.setLane_nodes (s : State) (n : Nat) (x : LaneH) : (s.setLane n x).nodes = s.nodes := rfl
@[simp] theorem State.setLane_chans (s : State) (n : Nat) (x : LaneH) : (s.setLane n x).chans = s.chans := rfl
@[simp] theorem State.setLane_plans (s : State) (n : Nat) (x : LaneH) : (s.setLane n x).plans = s.plans := rfl
@[simp] theorem State.setLane_starved (s : State) (n : Nat) (x : LaneH) : (s.setLane n x).starved = s.starved := rfl
@[simp] theorem State.setLane_aux (s : State) (n : Nat) (x : LaneH) : (s.setLane n x).aux = s.aux := rfl
@[simp] theorem State.setLane_modA (s : State) (n : Nat) (x : LaneH) : (s.setLane n x).modA = s.modA := rfl
@[simp] theorem State.setLane_lpwm (s : State) (n : Nat) (x : LaneH) : (s.setLane n x).lpwm = s.lpwm := rfl
@[simp] theorem State.setLane_cores (s : State) (n : Nat) (x : LaneH) : (s.setLane n x).cores = s.cores := rfl
@[simp] theorem State.setLane_engs (s : State) (n : Nat) (x : LaneH) : (s.setLane n x).engs = s.engs := rfl
@[simp] theorem State.setLane_protc (s : State) (n : Nat) (x : LaneH) : (s.setLane n x).protc = s.protc := rfl
@[simp] theorem State.setLane_prot (s : State) (n : Nat) (x : LaneH) : (s.setLane n x).prot = s.prot := rfl
@[simp] theorem State.setLane_pair (s : State) (n : Nat) (x : LaneH) : (s.setLane n x).pair = s.pair := rfl
@[simp] theorem State.setLane_adcs (s : State) (n : Nat) (x : LaneH) : (s.setLane n x).adcs = s.adcs := rfl
@[simp] theorem State.setLane_cmps (s : State) (n : Nat) (x : LaneH) : (s.setLane n x).cmps = s.cmps := rfl
@[simp] theorem State.setLane_sys (s : State) (n : Nat) (x : LaneH) : (s.setLane n x).sys = s.sys := rfl
@[simp] theorem State.setLane_tts (s : State) (n : Nat) (x : LaneH) : (s.setLane n x).tts = s.tts := rfl
@[simp] theorem State.setLane_trigq (s : State) (n : Nat) (x : LaneH) : (s.setLane n x).trigq = s.trigq := rfl
@[simp] theorem State.setLane_age (s : State) (n : Nat) (x : LaneH) : (s.setLane n x).age = s.age := rfl
@[simp] theorem State.setLane_isl (s : State) (n : Nat) (x : LaneH) : (s.setLane n x).isl = s.isl := rfl
@[simp] theorem State.setLane_eths (s : State) (n : Nat) (x : LaneH) : (s.setLane n x).eths = s.eths := rfl
@[simp] theorem State.setLane_cans (s : State) (n : Nat) (x : LaneH) : (s.setLane n x).cans = s.cans := rfl
@[simp] theorem State.setLane_sec (s : State) (n : Nat) (x : LaneH) : (s.setLane n x).sec = s.sec := rfl
@[simp] theorem State.setLane_trc (s : State) (n : Nat) (x : LaneH) : (s.setLane n x).trc = s.trc := rfl
@[simp] theorem State.setLane_host (s : State) (n : Nat) (x : LaneH) : (s.setLane n x).host = s.host := rfl
@[simp] theorem State.setLane_reg (s : State) (n : Nat) (x : LaneH) (i : Nat) : (s.setLane n x).reg i = s.reg i := rfl
@[simp] theorem State.setLane_rd (s : State) (n : Nat) (x : LaneH) (g : Fld) : (s.setLane n x).rd g = s.rd g := rfl
@[simp] theorem State.setLane_on (s : State) (n : Nat) (x : LaneH) (g : Fld) : (s.setLane n x).on g = s.on g := rfl
@[simp] theorem State.setLane_byte (s : State) (n : Nat) (x : LaneH) (i : Nat) : (s.setLane n x).byte i = s.byte i := rfl
@[simp] theorem State.setLane_lane (s : State) (n : Nat) (x : LaneH) (i : Nat) : (s.setLane n x).lane i = if i = n then x else s.lane i := by
  split
  · next h => subst h; exact Tbl.get_set_self _ _ _ _
  · next h => exact Tbl.get_set_ne _ _ h _
@[simp] theorem State.setLane_chain (s : State) (n : Nat) (x : LaneH) (i : Nat) : (s.setLane n x).chain i = s.chain i := rfl
@[simp] theorem State.setLane_cell (s : State) (n : Nat) (x : LaneH) (i : Nat) : (s.setLane n x).cell i = s.cell i := rfl
@[simp] theorem State.setLane_cstE (s : State) (n : Nat) (x : LaneH) (i : Nat) : (s.setLane n x).cstE i = s.cstE i := rfl
@[simp] theorem State.setLane_node (s : State) (n : Nat) (x : LaneH) (i : Nat) : (s.setLane n x).node i = s.node i := rfl
@[simp] theorem State.setLane_chan (s : State) (n : Nat) (x : LaneH) (i : Nat) : (s.setLane n x).chan i = s.chan i := rfl
@[simp] theorem State.setLane_plan (s : State) (n : Nat) (x : LaneH) (i : Nat) : (s.setLane n x).plan i = s.plan i := rfl
@[simp] theorem State.setLane_lp (s : State) (n : Nat) (x : LaneH) (i : Nat) : (s.setLane n x).lp i = s.lp i := rfl
@[simp] theorem State.setLane_core (s : State) (n : Nat) (x : LaneH) (i : Nat) : (s.setLane n x).core i = s.core i := rfl
@[simp] theorem State.setLane_eng (s : State) (n : Nat) (x : LaneH) (i : Nat) : (s.setLane n x).eng i = s.eng i := rfl
@[simp] theorem State.setLane_pc (s : State) (n : Nat) (x : LaneH) (i : Nat) : (s.setLane n x).pc i = s.pc i := rfl
@[simp] theorem State.setLane_adc (s : State) (n : Nat) (x : LaneH) (i : Nat) : (s.setLane n x).adc i = s.adc i := rfl
@[simp] theorem State.setLane_cmp (s : State) (n : Nat) (x : LaneH) (i : Nat) : (s.setLane n x).cmp i = s.cmp i := rfl
@[simp] theorem State.setLane_tt (s : State) (n : Nat) (x : LaneH) (i : Nat) : (s.setLane n x).tt i = s.tt i := rfl
@[simp] theorem State.setLane_eth (s : State) (n : Nat) (x : LaneH) (i : Nat) : (s.setLane n x).eth i = s.eth i := rfl
@[simp] theorem State.setLane_can (s : State) (n : Nat) (x : LaneH) (i : Nat) : (s.setLane n x).can i = s.can i := rfl
@[simp] theorem State.setLane_fqOf (s : State) (n : Nat) (x : LaneH) (i : Nat) : (s.setLane n x).fqOf i = s.fqOf i := rfl

/-! ### setChain -/

@[simp] theorem State.setChain_pending (s : State) (n : Nat) (x : ChainH) : (s.setChain n x).pending = s.pending := rfl
@[simp] theorem State.setChain_free (s : State) (n : Nat) (x : ChainH) : (s.setChain n x).free = s.free := rfl
@[simp] theorem State.setChain_regs (s : State) (n : Nat) (x : ChainH) : (s.setChain n x).regs = s.regs := rfl
@[simp] theorem State.setChain_mem (s : State) (n : Nat) (x : ChainH) : (s.setChain n x).mem = s.mem := rfl
@[simp] theorem State.setChain_tb (s : State) (n : Nat) (x : ChainH) : (s.setChain n x).tb = s.tb := rfl
@[simp] theorem State.setChain_frames (s : State) (n : Nat) (x : ChainH) : (s.setChain n x).frames = s.frames := rfl
@[simp] theorem State.setChain_fq (s : State) (n : Nat) (x : ChainH) : (s.setChain n x).fq = s.fq := rfl
@[simp] theorem State.setChain_wired (s : State) (n : Nat) (x : ChainH) : (s.setChain n x).wired = s.wired := rfl
@[simp] theorem State.setChain_grid (s : State) (n : Nat) (x : ChainH) : (s.setChain n x).grid = s.grid := rfl
@[simp] theorem State.setChain_lanes (s : State) (n : Nat) (x : ChainH) : (s.setChain n x).lanes = s.lanes := rfl
@[simp] theorem State.setChain_cells (s : State) (n : Nat) (x : ChainH) : (s.setChain n x).cells = s.cells := rfl
@[simp] theorem State.setChain_cst (s : State) (n : Nat) (x : ChainH) : (s.setChain n x).cst = s.cst := rfl
@[simp] theorem State.setChain_nodes (s : State) (n : Nat) (x : ChainH) : (s.setChain n x).nodes = s.nodes := rfl
@[simp] theorem State.setChain_chans (s : State) (n : Nat) (x : ChainH) : (s.setChain n x).chans = s.chans := rfl
@[simp] theorem State.setChain_plans (s : State) (n : Nat) (x : ChainH) : (s.setChain n x).plans = s.plans := rfl
@[simp] theorem State.setChain_starved (s : State) (n : Nat) (x : ChainH) : (s.setChain n x).starved = s.starved := rfl
@[simp] theorem State.setChain_aux (s : State) (n : Nat) (x : ChainH) : (s.setChain n x).aux = s.aux := rfl
@[simp] theorem State.setChain_modA (s : State) (n : Nat) (x : ChainH) : (s.setChain n x).modA = s.modA := rfl
@[simp] theorem State.setChain_lpwm (s : State) (n : Nat) (x : ChainH) : (s.setChain n x).lpwm = s.lpwm := rfl
@[simp] theorem State.setChain_cores (s : State) (n : Nat) (x : ChainH) : (s.setChain n x).cores = s.cores := rfl
@[simp] theorem State.setChain_engs (s : State) (n : Nat) (x : ChainH) : (s.setChain n x).engs = s.engs := rfl
@[simp] theorem State.setChain_protc (s : State) (n : Nat) (x : ChainH) : (s.setChain n x).protc = s.protc := rfl
@[simp] theorem State.setChain_prot (s : State) (n : Nat) (x : ChainH) : (s.setChain n x).prot = s.prot := rfl
@[simp] theorem State.setChain_pair (s : State) (n : Nat) (x : ChainH) : (s.setChain n x).pair = s.pair := rfl
@[simp] theorem State.setChain_adcs (s : State) (n : Nat) (x : ChainH) : (s.setChain n x).adcs = s.adcs := rfl
@[simp] theorem State.setChain_cmps (s : State) (n : Nat) (x : ChainH) : (s.setChain n x).cmps = s.cmps := rfl
@[simp] theorem State.setChain_sys (s : State) (n : Nat) (x : ChainH) : (s.setChain n x).sys = s.sys := rfl
@[simp] theorem State.setChain_tts (s : State) (n : Nat) (x : ChainH) : (s.setChain n x).tts = s.tts := rfl
@[simp] theorem State.setChain_trigq (s : State) (n : Nat) (x : ChainH) : (s.setChain n x).trigq = s.trigq := rfl
@[simp] theorem State.setChain_age (s : State) (n : Nat) (x : ChainH) : (s.setChain n x).age = s.age := rfl
@[simp] theorem State.setChain_isl (s : State) (n : Nat) (x : ChainH) : (s.setChain n x).isl = s.isl := rfl
@[simp] theorem State.setChain_eths (s : State) (n : Nat) (x : ChainH) : (s.setChain n x).eths = s.eths := rfl
@[simp] theorem State.setChain_cans (s : State) (n : Nat) (x : ChainH) : (s.setChain n x).cans = s.cans := rfl
@[simp] theorem State.setChain_sec (s : State) (n : Nat) (x : ChainH) : (s.setChain n x).sec = s.sec := rfl
@[simp] theorem State.setChain_trc (s : State) (n : Nat) (x : ChainH) : (s.setChain n x).trc = s.trc := rfl
@[simp] theorem State.setChain_host (s : State) (n : Nat) (x : ChainH) : (s.setChain n x).host = s.host := rfl
@[simp] theorem State.setChain_reg (s : State) (n : Nat) (x : ChainH) (i : Nat) : (s.setChain n x).reg i = s.reg i := rfl
@[simp] theorem State.setChain_rd (s : State) (n : Nat) (x : ChainH) (g : Fld) : (s.setChain n x).rd g = s.rd g := rfl
@[simp] theorem State.setChain_on (s : State) (n : Nat) (x : ChainH) (g : Fld) : (s.setChain n x).on g = s.on g := rfl
@[simp] theorem State.setChain_byte (s : State) (n : Nat) (x : ChainH) (i : Nat) : (s.setChain n x).byte i = s.byte i := rfl
@[simp] theorem State.setChain_lane (s : State) (n : Nat) (x : ChainH) (i : Nat) : (s.setChain n x).lane i = s.lane i := rfl
@[simp] theorem State.setChain_chain (s : State) (n : Nat) (x : ChainH) (i : Nat) : (s.setChain n x).chain i = if i = n then x else s.chain i := by
  split
  · next h => subst h; exact Tbl.get_set_self _ _ _ _
  · next h => exact Tbl.get_set_ne _ _ h _
@[simp] theorem State.setChain_cell (s : State) (n : Nat) (x : ChainH) (i : Nat) : (s.setChain n x).cell i = s.cell i := rfl
@[simp] theorem State.setChain_cstE (s : State) (n : Nat) (x : ChainH) (i : Nat) : (s.setChain n x).cstE i = s.cstE i := rfl
@[simp] theorem State.setChain_node (s : State) (n : Nat) (x : ChainH) (i : Nat) : (s.setChain n x).node i = s.node i := rfl
@[simp] theorem State.setChain_chan (s : State) (n : Nat) (x : ChainH) (i : Nat) : (s.setChain n x).chan i = s.chan i := rfl
@[simp] theorem State.setChain_plan (s : State) (n : Nat) (x : ChainH) (i : Nat) : (s.setChain n x).plan i = s.plan i := rfl
@[simp] theorem State.setChain_lp (s : State) (n : Nat) (x : ChainH) (i : Nat) : (s.setChain n x).lp i = s.lp i := rfl
@[simp] theorem State.setChain_core (s : State) (n : Nat) (x : ChainH) (i : Nat) : (s.setChain n x).core i = s.core i := rfl
@[simp] theorem State.setChain_eng (s : State) (n : Nat) (x : ChainH) (i : Nat) : (s.setChain n x).eng i = s.eng i := rfl
@[simp] theorem State.setChain_pc (s : State) (n : Nat) (x : ChainH) (i : Nat) : (s.setChain n x).pc i = s.pc i := rfl
@[simp] theorem State.setChain_adc (s : State) (n : Nat) (x : ChainH) (i : Nat) : (s.setChain n x).adc i = s.adc i := rfl
@[simp] theorem State.setChain_cmp (s : State) (n : Nat) (x : ChainH) (i : Nat) : (s.setChain n x).cmp i = s.cmp i := rfl
@[simp] theorem State.setChain_tt (s : State) (n : Nat) (x : ChainH) (i : Nat) : (s.setChain n x).tt i = s.tt i := rfl
@[simp] theorem State.setChain_eth (s : State) (n : Nat) (x : ChainH) (i : Nat) : (s.setChain n x).eth i = s.eth i := rfl
@[simp] theorem State.setChain_can (s : State) (n : Nat) (x : ChainH) (i : Nat) : (s.setChain n x).can i = s.can i := rfl
@[simp] theorem State.setChain_fqOf (s : State) (n : Nat) (x : ChainH) (i : Nat) : (s.setChain n x).fqOf i = s.fqOf i := rfl

/-! ### setCell -/

@[simp] theorem State.setCell_pending (s : State) (n : Nat) (x : CellH) : (s.setCell n x).pending = s.pending := rfl
@[simp] theorem State.setCell_free (s : State) (n : Nat) (x : CellH) : (s.setCell n x).free = s.free := rfl
@[simp] theorem State.setCell_regs (s : State) (n : Nat) (x : CellH) : (s.setCell n x).regs = s.regs := rfl
@[simp] theorem State.setCell_mem (s : State) (n : Nat) (x : CellH) : (s.setCell n x).mem = s.mem := rfl
@[simp] theorem State.setCell_tb (s : State) (n : Nat) (x : CellH) : (s.setCell n x).tb = s.tb := rfl
@[simp] theorem State.setCell_frames (s : State) (n : Nat) (x : CellH) : (s.setCell n x).frames = s.frames := rfl
@[simp] theorem State.setCell_fq (s : State) (n : Nat) (x : CellH) : (s.setCell n x).fq = s.fq := rfl
@[simp] theorem State.setCell_wired (s : State) (n : Nat) (x : CellH) : (s.setCell n x).wired = s.wired := rfl
@[simp] theorem State.setCell_grid (s : State) (n : Nat) (x : CellH) : (s.setCell n x).grid = s.grid := rfl
@[simp] theorem State.setCell_lanes (s : State) (n : Nat) (x : CellH) : (s.setCell n x).lanes = s.lanes := rfl
@[simp] theorem State.setCell_chains (s : State) (n : Nat) (x : CellH) : (s.setCell n x).chains = s.chains := rfl
@[simp] theorem State.setCell_cst (s : State) (n : Nat) (x : CellH) : (s.setCell n x).cst = s.cst := rfl
@[simp] theorem State.setCell_nodes (s : State) (n : Nat) (x : CellH) : (s.setCell n x).nodes = s.nodes := rfl
@[simp] theorem State.setCell_chans (s : State) (n : Nat) (x : CellH) : (s.setCell n x).chans = s.chans := rfl
@[simp] theorem State.setCell_plans (s : State) (n : Nat) (x : CellH) : (s.setCell n x).plans = s.plans := rfl
@[simp] theorem State.setCell_starved (s : State) (n : Nat) (x : CellH) : (s.setCell n x).starved = s.starved := rfl
@[simp] theorem State.setCell_aux (s : State) (n : Nat) (x : CellH) : (s.setCell n x).aux = s.aux := rfl
@[simp] theorem State.setCell_modA (s : State) (n : Nat) (x : CellH) : (s.setCell n x).modA = s.modA := rfl
@[simp] theorem State.setCell_lpwm (s : State) (n : Nat) (x : CellH) : (s.setCell n x).lpwm = s.lpwm := rfl
@[simp] theorem State.setCell_cores (s : State) (n : Nat) (x : CellH) : (s.setCell n x).cores = s.cores := rfl
@[simp] theorem State.setCell_engs (s : State) (n : Nat) (x : CellH) : (s.setCell n x).engs = s.engs := rfl
@[simp] theorem State.setCell_protc (s : State) (n : Nat) (x : CellH) : (s.setCell n x).protc = s.protc := rfl
@[simp] theorem State.setCell_prot (s : State) (n : Nat) (x : CellH) : (s.setCell n x).prot = s.prot := rfl
@[simp] theorem State.setCell_pair (s : State) (n : Nat) (x : CellH) : (s.setCell n x).pair = s.pair := rfl
@[simp] theorem State.setCell_adcs (s : State) (n : Nat) (x : CellH) : (s.setCell n x).adcs = s.adcs := rfl
@[simp] theorem State.setCell_cmps (s : State) (n : Nat) (x : CellH) : (s.setCell n x).cmps = s.cmps := rfl
@[simp] theorem State.setCell_sys (s : State) (n : Nat) (x : CellH) : (s.setCell n x).sys = s.sys := rfl
@[simp] theorem State.setCell_tts (s : State) (n : Nat) (x : CellH) : (s.setCell n x).tts = s.tts := rfl
@[simp] theorem State.setCell_trigq (s : State) (n : Nat) (x : CellH) : (s.setCell n x).trigq = s.trigq := rfl
@[simp] theorem State.setCell_age (s : State) (n : Nat) (x : CellH) : (s.setCell n x).age = s.age := rfl
@[simp] theorem State.setCell_isl (s : State) (n : Nat) (x : CellH) : (s.setCell n x).isl = s.isl := rfl
@[simp] theorem State.setCell_eths (s : State) (n : Nat) (x : CellH) : (s.setCell n x).eths = s.eths := rfl
@[simp] theorem State.setCell_cans (s : State) (n : Nat) (x : CellH) : (s.setCell n x).cans = s.cans := rfl
@[simp] theorem State.setCell_sec (s : State) (n : Nat) (x : CellH) : (s.setCell n x).sec = s.sec := rfl
@[simp] theorem State.setCell_trc (s : State) (n : Nat) (x : CellH) : (s.setCell n x).trc = s.trc := rfl
@[simp] theorem State.setCell_host (s : State) (n : Nat) (x : CellH) : (s.setCell n x).host = s.host := rfl
@[simp] theorem State.setCell_reg (s : State) (n : Nat) (x : CellH) (i : Nat) : (s.setCell n x).reg i = s.reg i := rfl
@[simp] theorem State.setCell_rd (s : State) (n : Nat) (x : CellH) (g : Fld) : (s.setCell n x).rd g = s.rd g := rfl
@[simp] theorem State.setCell_on (s : State) (n : Nat) (x : CellH) (g : Fld) : (s.setCell n x).on g = s.on g := rfl
@[simp] theorem State.setCell_byte (s : State) (n : Nat) (x : CellH) (i : Nat) : (s.setCell n x).byte i = s.byte i := rfl
@[simp] theorem State.setCell_lane (s : State) (n : Nat) (x : CellH) (i : Nat) : (s.setCell n x).lane i = s.lane i := rfl
@[simp] theorem State.setCell_chain (s : State) (n : Nat) (x : CellH) (i : Nat) : (s.setCell n x).chain i = s.chain i := rfl
@[simp] theorem State.setCell_cell (s : State) (n : Nat) (x : CellH) (i : Nat) : (s.setCell n x).cell i = if i = n then x else s.cell i := by
  split
  · next h => subst h; exact Tbl.get_set_self _ _ _ _
  · next h => exact Tbl.get_set_ne _ _ h _
@[simp] theorem State.setCell_cstE (s : State) (n : Nat) (x : CellH) (i : Nat) : (s.setCell n x).cstE i = s.cstE i := rfl
@[simp] theorem State.setCell_node (s : State) (n : Nat) (x : CellH) (i : Nat) : (s.setCell n x).node i = s.node i := rfl
@[simp] theorem State.setCell_chan (s : State) (n : Nat) (x : CellH) (i : Nat) : (s.setCell n x).chan i = s.chan i := rfl
@[simp] theorem State.setCell_plan (s : State) (n : Nat) (x : CellH) (i : Nat) : (s.setCell n x).plan i = s.plan i := rfl
@[simp] theorem State.setCell_lp (s : State) (n : Nat) (x : CellH) (i : Nat) : (s.setCell n x).lp i = s.lp i := rfl
@[simp] theorem State.setCell_core (s : State) (n : Nat) (x : CellH) (i : Nat) : (s.setCell n x).core i = s.core i := rfl
@[simp] theorem State.setCell_eng (s : State) (n : Nat) (x : CellH) (i : Nat) : (s.setCell n x).eng i = s.eng i := rfl
@[simp] theorem State.setCell_pc (s : State) (n : Nat) (x : CellH) (i : Nat) : (s.setCell n x).pc i = s.pc i := rfl
@[simp] theorem State.setCell_adc (s : State) (n : Nat) (x : CellH) (i : Nat) : (s.setCell n x).adc i = s.adc i := rfl
@[simp] theorem State.setCell_cmp (s : State) (n : Nat) (x : CellH) (i : Nat) : (s.setCell n x).cmp i = s.cmp i := rfl
@[simp] theorem State.setCell_tt (s : State) (n : Nat) (x : CellH) (i : Nat) : (s.setCell n x).tt i = s.tt i := rfl
@[simp] theorem State.setCell_eth (s : State) (n : Nat) (x : CellH) (i : Nat) : (s.setCell n x).eth i = s.eth i := rfl
@[simp] theorem State.setCell_can (s : State) (n : Nat) (x : CellH) (i : Nat) : (s.setCell n x).can i = s.can i := rfl
@[simp] theorem State.setCell_fqOf (s : State) (n : Nat) (x : CellH) (i : Nat) : (s.setCell n x).fqOf i = s.fqOf i := rfl

/-! ### setCst -/

@[simp] theorem State.setCst_pending (s : State) (n : Nat) (x : CstE) : (s.setCst n x).pending = s.pending := rfl
@[simp] theorem State.setCst_free (s : State) (n : Nat) (x : CstE) : (s.setCst n x).free = s.free := rfl
@[simp] theorem State.setCst_regs (s : State) (n : Nat) (x : CstE) : (s.setCst n x).regs = s.regs := rfl
@[simp] theorem State.setCst_mem (s : State) (n : Nat) (x : CstE) : (s.setCst n x).mem = s.mem := rfl
@[simp] theorem State.setCst_tb (s : State) (n : Nat) (x : CstE) : (s.setCst n x).tb = s.tb := rfl
@[simp] theorem State.setCst_frames (s : State) (n : Nat) (x : CstE) : (s.setCst n x).frames = s.frames := rfl
@[simp] theorem State.setCst_fq (s : State) (n : Nat) (x : CstE) : (s.setCst n x).fq = s.fq := rfl
@[simp] theorem State.setCst_wired (s : State) (n : Nat) (x : CstE) : (s.setCst n x).wired = s.wired := rfl
@[simp] theorem State.setCst_grid (s : State) (n : Nat) (x : CstE) : (s.setCst n x).grid = s.grid := rfl
@[simp] theorem State.setCst_lanes (s : State) (n : Nat) (x : CstE) : (s.setCst n x).lanes = s.lanes := rfl
@[simp] theorem State.setCst_chains (s : State) (n : Nat) (x : CstE) : (s.setCst n x).chains = s.chains := rfl
@[simp] theorem State.setCst_cells (s : State) (n : Nat) (x : CstE) : (s.setCst n x).cells = s.cells := rfl
@[simp] theorem State.setCst_nodes (s : State) (n : Nat) (x : CstE) : (s.setCst n x).nodes = s.nodes := rfl
@[simp] theorem State.setCst_chans (s : State) (n : Nat) (x : CstE) : (s.setCst n x).chans = s.chans := rfl
@[simp] theorem State.setCst_plans (s : State) (n : Nat) (x : CstE) : (s.setCst n x).plans = s.plans := rfl
@[simp] theorem State.setCst_starved (s : State) (n : Nat) (x : CstE) : (s.setCst n x).starved = s.starved := rfl
@[simp] theorem State.setCst_aux (s : State) (n : Nat) (x : CstE) : (s.setCst n x).aux = s.aux := rfl
@[simp] theorem State.setCst_modA (s : State) (n : Nat) (x : CstE) : (s.setCst n x).modA = s.modA := rfl
@[simp] theorem State.setCst_lpwm (s : State) (n : Nat) (x : CstE) : (s.setCst n x).lpwm = s.lpwm := rfl
@[simp] theorem State.setCst_cores (s : State) (n : Nat) (x : CstE) : (s.setCst n x).cores = s.cores := rfl
@[simp] theorem State.setCst_engs (s : State) (n : Nat) (x : CstE) : (s.setCst n x).engs = s.engs := rfl
@[simp] theorem State.setCst_protc (s : State) (n : Nat) (x : CstE) : (s.setCst n x).protc = s.protc := rfl
@[simp] theorem State.setCst_prot (s : State) (n : Nat) (x : CstE) : (s.setCst n x).prot = s.prot := rfl
@[simp] theorem State.setCst_pair (s : State) (n : Nat) (x : CstE) : (s.setCst n x).pair = s.pair := rfl
@[simp] theorem State.setCst_adcs (s : State) (n : Nat) (x : CstE) : (s.setCst n x).adcs = s.adcs := rfl
@[simp] theorem State.setCst_cmps (s : State) (n : Nat) (x : CstE) : (s.setCst n x).cmps = s.cmps := rfl
@[simp] theorem State.setCst_sys (s : State) (n : Nat) (x : CstE) : (s.setCst n x).sys = s.sys := rfl
@[simp] theorem State.setCst_tts (s : State) (n : Nat) (x : CstE) : (s.setCst n x).tts = s.tts := rfl
@[simp] theorem State.setCst_trigq (s : State) (n : Nat) (x : CstE) : (s.setCst n x).trigq = s.trigq := rfl
@[simp] theorem State.setCst_age (s : State) (n : Nat) (x : CstE) : (s.setCst n x).age = s.age := rfl
@[simp] theorem State.setCst_isl (s : State) (n : Nat) (x : CstE) : (s.setCst n x).isl = s.isl := rfl
@[simp] theorem State.setCst_eths (s : State) (n : Nat) (x : CstE) : (s.setCst n x).eths = s.eths := rfl
@[simp] theorem State.setCst_cans (s : State) (n : Nat) (x : CstE) : (s.setCst n x).cans = s.cans := rfl
@[simp] theorem State.setCst_sec (s : State) (n : Nat) (x : CstE) : (s.setCst n x).sec = s.sec := rfl
@[simp] theorem State.setCst_trc (s : State) (n : Nat) (x : CstE) : (s.setCst n x).trc = s.trc := rfl
@[simp] theorem State.setCst_host (s : State) (n : Nat) (x : CstE) : (s.setCst n x).host = s.host := rfl
@[simp] theorem State.setCst_reg (s : State) (n : Nat) (x : CstE) (i : Nat) : (s.setCst n x).reg i = s.reg i := rfl
@[simp] theorem State.setCst_rd (s : State) (n : Nat) (x : CstE) (g : Fld) : (s.setCst n x).rd g = s.rd g := rfl
@[simp] theorem State.setCst_on (s : State) (n : Nat) (x : CstE) (g : Fld) : (s.setCst n x).on g = s.on g := rfl
@[simp] theorem State.setCst_byte (s : State) (n : Nat) (x : CstE) (i : Nat) : (s.setCst n x).byte i = s.byte i := rfl
@[simp] theorem State.setCst_lane (s : State) (n : Nat) (x : CstE) (i : Nat) : (s.setCst n x).lane i = s.lane i := rfl
@[simp] theorem State.setCst_chain (s : State) (n : Nat) (x : CstE) (i : Nat) : (s.setCst n x).chain i = s.chain i := rfl
@[simp] theorem State.setCst_cell (s : State) (n : Nat) (x : CstE) (i : Nat) : (s.setCst n x).cell i = s.cell i := rfl
@[simp] theorem State.setCst_cstE (s : State) (n : Nat) (x : CstE) (i : Nat) : (s.setCst n x).cstE i = if i = n then x else s.cstE i := by
  split
  · next h => subst h; exact Tbl.get_set_self _ _ _ _
  · next h => exact Tbl.get_set_ne _ _ h _
@[simp] theorem State.setCst_node (s : State) (n : Nat) (x : CstE) (i : Nat) : (s.setCst n x).node i = s.node i := rfl
@[simp] theorem State.setCst_chan (s : State) (n : Nat) (x : CstE) (i : Nat) : (s.setCst n x).chan i = s.chan i := rfl
@[simp] theorem State.setCst_plan (s : State) (n : Nat) (x : CstE) (i : Nat) : (s.setCst n x).plan i = s.plan i := rfl
@[simp] theorem State.setCst_lp (s : State) (n : Nat) (x : CstE) (i : Nat) : (s.setCst n x).lp i = s.lp i := rfl
@[simp] theorem State.setCst_core (s : State) (n : Nat) (x : CstE) (i : Nat) : (s.setCst n x).core i = s.core i := rfl
@[simp] theorem State.setCst_eng (s : State) (n : Nat) (x : CstE) (i : Nat) : (s.setCst n x).eng i = s.eng i := rfl
@[simp] theorem State.setCst_pc (s : State) (n : Nat) (x : CstE) (i : Nat) : (s.setCst n x).pc i = s.pc i := rfl
@[simp] theorem State.setCst_adc (s : State) (n : Nat) (x : CstE) (i : Nat) : (s.setCst n x).adc i = s.adc i := rfl
@[simp] theorem State.setCst_cmp (s : State) (n : Nat) (x : CstE) (i : Nat) : (s.setCst n x).cmp i = s.cmp i := rfl
@[simp] theorem State.setCst_tt (s : State) (n : Nat) (x : CstE) (i : Nat) : (s.setCst n x).tt i = s.tt i := rfl
@[simp] theorem State.setCst_eth (s : State) (n : Nat) (x : CstE) (i : Nat) : (s.setCst n x).eth i = s.eth i := rfl
@[simp] theorem State.setCst_can (s : State) (n : Nat) (x : CstE) (i : Nat) : (s.setCst n x).can i = s.can i := rfl
@[simp] theorem State.setCst_fqOf (s : State) (n : Nat) (x : CstE) (i : Nat) : (s.setCst n x).fqOf i = s.fqOf i := rfl

/-! ### setNode -/

@[simp] theorem State.setNode_pending (s : State) (n : Nat) (x : NodeS) : (s.setNode n x).pending = s.pending := rfl
@[simp] theorem State.setNode_free (s : State) (n : Nat) (x : NodeS) : (s.setNode n x).free = s.free := rfl
@[simp] theorem State.setNode_regs (s : State) (n : Nat) (x : NodeS) : (s.setNode n x).regs = s.regs := rfl
@[simp] theorem State.setNode_mem (s : State) (n : Nat) (x : NodeS) : (s.setNode n x).mem = s.mem := rfl
@[simp] theorem State.setNode_tb (s : State) (n : Nat) (x : NodeS) : (s.setNode n x).tb = s.tb := rfl
@[simp] theorem State.setNode_frames (s : State) (n : Nat) (x : NodeS) : (s.setNode n x).frames = s.frames := rfl
@[simp] theorem State.setNode_fq (s : State) (n : Nat) (x : NodeS) : (s.setNode n x).fq = s.fq := rfl
@[simp] theorem State.setNode_wired (s : State) (n : Nat) (x : NodeS) : (s.setNode n x).wired = s.wired := rfl
@[simp] theorem State.setNode_grid (s : State) (n : Nat) (x : NodeS) : (s.setNode n x).grid = s.grid := rfl
@[simp] theorem State.setNode_lanes (s : State) (n : Nat) (x : NodeS) : (s.setNode n x).lanes = s.lanes := rfl
@[simp] theorem State.setNode_chains (s : State) (n : Nat) (x : NodeS) : (s.setNode n x).chains = s.chains := rfl
@[simp] theorem State.setNode_cells (s : State) (n : Nat) (x : NodeS) : (s.setNode n x).cells = s.cells := rfl
@[simp] theorem State.setNode_cst (s : State) (n : Nat) (x : NodeS) : (s.setNode n x).cst = s.cst := rfl
@[simp] theorem State.setNode_chans (s : State) (n : Nat) (x : NodeS) : (s.setNode n x).chans = s.chans := rfl
@[simp] theorem State.setNode_plans (s : State) (n : Nat) (x : NodeS) : (s.setNode n x).plans = s.plans := rfl
@[simp] theorem State.setNode_starved (s : State) (n : Nat) (x : NodeS) : (s.setNode n x).starved = s.starved := rfl
@[simp] theorem State.setNode_aux (s : State) (n : Nat) (x : NodeS) : (s.setNode n x).aux = s.aux := rfl
@[simp] theorem State.setNode_modA (s : State) (n : Nat) (x : NodeS) : (s.setNode n x).modA = s.modA := rfl
@[simp] theorem State.setNode_lpwm (s : State) (n : Nat) (x : NodeS) : (s.setNode n x).lpwm = s.lpwm := rfl
@[simp] theorem State.setNode_cores (s : State) (n : Nat) (x : NodeS) : (s.setNode n x).cores = s.cores := rfl
@[simp] theorem State.setNode_engs (s : State) (n : Nat) (x : NodeS) : (s.setNode n x).engs = s.engs := rfl
@[simp] theorem State.setNode_protc (s : State) (n : Nat) (x : NodeS) : (s.setNode n x).protc = s.protc := rfl
@[simp] theorem State.setNode_prot (s : State) (n : Nat) (x : NodeS) : (s.setNode n x).prot = s.prot := rfl
@[simp] theorem State.setNode_pair (s : State) (n : Nat) (x : NodeS) : (s.setNode n x).pair = s.pair := rfl
@[simp] theorem State.setNode_adcs (s : State) (n : Nat) (x : NodeS) : (s.setNode n x).adcs = s.adcs := rfl
@[simp] theorem State.setNode_cmps (s : State) (n : Nat) (x : NodeS) : (s.setNode n x).cmps = s.cmps := rfl
@[simp] theorem State.setNode_sys (s : State) (n : Nat) (x : NodeS) : (s.setNode n x).sys = s.sys := rfl
@[simp] theorem State.setNode_tts (s : State) (n : Nat) (x : NodeS) : (s.setNode n x).tts = s.tts := rfl
@[simp] theorem State.setNode_trigq (s : State) (n : Nat) (x : NodeS) : (s.setNode n x).trigq = s.trigq := rfl
@[simp] theorem State.setNode_age (s : State) (n : Nat) (x : NodeS) : (s.setNode n x).age = s.age := rfl
@[simp] theorem State.setNode_isl (s : State) (n : Nat) (x : NodeS) : (s.setNode n x).isl = s.isl := rfl
@[simp] theorem State.setNode_eths (s : State) (n : Nat) (x : NodeS) : (s.setNode n x).eths = s.eths := rfl
@[simp] theorem State.setNode_cans (s : State) (n : Nat) (x : NodeS) : (s.setNode n x).cans = s.cans := rfl
@[simp] theorem State.setNode_sec (s : State) (n : Nat) (x : NodeS) : (s.setNode n x).sec = s.sec := rfl
@[simp] theorem State.setNode_trc (s : State) (n : Nat) (x : NodeS) : (s.setNode n x).trc = s.trc := rfl
@[simp] theorem State.setNode_host (s : State) (n : Nat) (x : NodeS) : (s.setNode n x).host = s.host := rfl
@[simp] theorem State.setNode_reg (s : State) (n : Nat) (x : NodeS) (i : Nat) : (s.setNode n x).reg i = s.reg i := rfl
@[simp] theorem State.setNode_rd (s : State) (n : Nat) (x : NodeS) (g : Fld) : (s.setNode n x).rd g = s.rd g := rfl
@[simp] theorem State.setNode_on (s : State) (n : Nat) (x : NodeS) (g : Fld) : (s.setNode n x).on g = s.on g := rfl
@[simp] theorem State.setNode_byte (s : State) (n : Nat) (x : NodeS) (i : Nat) : (s.setNode n x).byte i = s.byte i := rfl
@[simp] theorem State.setNode_lane (s : State) (n : Nat) (x : NodeS) (i : Nat) : (s.setNode n x).lane i = s.lane i := rfl
@[simp] theorem State.setNode_chain (s : State) (n : Nat) (x : NodeS) (i : Nat) : (s.setNode n x).chain i = s.chain i := rfl
@[simp] theorem State.setNode_cell (s : State) (n : Nat) (x : NodeS) (i : Nat) : (s.setNode n x).cell i = s.cell i := rfl
@[simp] theorem State.setNode_cstE (s : State) (n : Nat) (x : NodeS) (i : Nat) : (s.setNode n x).cstE i = s.cstE i := rfl
@[simp] theorem State.setNode_node (s : State) (n : Nat) (x : NodeS) (i : Nat) : (s.setNode n x).node i = if i = n then x else s.node i := by
  split
  · next h => subst h; exact Tbl.get_set_self _ _ _ _
  · next h => exact Tbl.get_set_ne _ _ h _
@[simp] theorem State.setNode_chan (s : State) (n : Nat) (x : NodeS) (i : Nat) : (s.setNode n x).chan i = s.chan i := rfl
@[simp] theorem State.setNode_plan (s : State) (n : Nat) (x : NodeS) (i : Nat) : (s.setNode n x).plan i = s.plan i := rfl
@[simp] theorem State.setNode_lp (s : State) (n : Nat) (x : NodeS) (i : Nat) : (s.setNode n x).lp i = s.lp i := rfl
@[simp] theorem State.setNode_core (s : State) (n : Nat) (x : NodeS) (i : Nat) : (s.setNode n x).core i = s.core i := rfl
@[simp] theorem State.setNode_eng (s : State) (n : Nat) (x : NodeS) (i : Nat) : (s.setNode n x).eng i = s.eng i := rfl
@[simp] theorem State.setNode_pc (s : State) (n : Nat) (x : NodeS) (i : Nat) : (s.setNode n x).pc i = s.pc i := rfl
@[simp] theorem State.setNode_adc (s : State) (n : Nat) (x : NodeS) (i : Nat) : (s.setNode n x).adc i = s.adc i := rfl
@[simp] theorem State.setNode_cmp (s : State) (n : Nat) (x : NodeS) (i : Nat) : (s.setNode n x).cmp i = s.cmp i := rfl
@[simp] theorem State.setNode_tt (s : State) (n : Nat) (x : NodeS) (i : Nat) : (s.setNode n x).tt i = s.tt i := rfl
@[simp] theorem State.setNode_eth (s : State) (n : Nat) (x : NodeS) (i : Nat) : (s.setNode n x).eth i = s.eth i := rfl
@[simp] theorem State.setNode_can (s : State) (n : Nat) (x : NodeS) (i : Nat) : (s.setNode n x).can i = s.can i := rfl
@[simp] theorem State.setNode_fqOf (s : State) (n : Nat) (x : NodeS) (i : Nat) : (s.setNode n x).fqOf i = s.fqOf i := rfl

/-! ### setChan -/

@[simp] theorem State.setChan_pending (s : State) (n : Nat) (x : ChanH) : (s.setChan n x).pending = s.pending := rfl
@[simp] theorem State.setChan_free (s : State) (n : Nat) (x : ChanH) : (s.setChan n x).free = s.free := rfl
@[simp] theorem State.setChan_regs (s : State) (n : Nat) (x : ChanH) : (s.setChan n x).regs = s.regs := rfl
@[simp] theorem State.setChan_mem (s : State) (n : Nat) (x : ChanH) : (s.setChan n x).mem = s.mem := rfl
@[simp] theorem State.setChan_tb (s : State) (n : Nat) (x : ChanH) : (s.setChan n x).tb = s.tb := rfl
@[simp] theorem State.setChan_frames (s : State) (n : Nat) (x : ChanH) : (s.setChan n x).frames = s.frames := rfl
@[simp] theorem State.setChan_fq (s : State) (n : Nat) (x : ChanH) : (s.setChan n x).fq = s.fq := rfl
@[simp] theorem State.setChan_wired (s : State) (n : Nat) (x : ChanH) : (s.setChan n x).wired = s.wired := rfl
@[simp] theorem State.setChan_grid (s : State) (n : Nat) (x : ChanH) : (s.setChan n x).grid = s.grid := rfl
@[simp] theorem State.setChan_lanes (s : State) (n : Nat) (x : ChanH) : (s.setChan n x).lanes = s.lanes := rfl
@[simp] theorem State.setChan_chains (s : State) (n : Nat) (x : ChanH) : (s.setChan n x).chains = s.chains := rfl
@[simp] theorem State.setChan_cells (s : State) (n : Nat) (x : ChanH) : (s.setChan n x).cells = s.cells := rfl
@[simp] theorem State.setChan_cst (s : State) (n : Nat) (x : ChanH) : (s.setChan n x).cst = s.cst := rfl
@[simp] theorem State.setChan_nodes (s : State) (n : Nat) (x : ChanH) : (s.setChan n x).nodes = s.nodes := rfl
@[simp] theorem State.setChan_plans (s : State) (n : Nat) (x : ChanH) : (s.setChan n x).plans = s.plans := rfl
@[simp] theorem State.setChan_starved (s : State) (n : Nat) (x : ChanH) : (s.setChan n x).starved = s.starved := rfl
@[simp] theorem State.setChan_aux (s : State) (n : Nat) (x : ChanH) : (s.setChan n x).aux = s.aux := rfl
@[simp] theorem State.setChan_modA (s : State) (n : Nat) (x : ChanH) : (s.setChan n x).modA = s.modA := rfl
@[simp] theorem State.setChan_lpwm (s : State) (n : Nat) (x : ChanH) : (s.setChan n x).lpwm = s.lpwm := rfl
@[simp] theorem State.setChan_cores (s : State) (n : Nat) (x : ChanH) : (s.setChan n x).cores = s.cores := rfl
@[simp] theorem State.setChan_engs (s : State) (n : Nat) (x : ChanH) : (s.setChan n x).engs = s.engs := rfl
@[simp] theorem State.setChan_protc (s : State) (n : Nat) (x : ChanH) : (s.setChan n x).protc = s.protc := rfl
@[simp] theorem State.setChan_prot (s : State) (n : Nat) (x : ChanH) : (s.setChan n x).prot = s.prot := rfl
@[simp] theorem State.setChan_pair (s : State) (n : Nat) (x : ChanH) : (s.setChan n x).pair = s.pair := rfl
@[simp] theorem State.setChan_adcs (s : State) (n : Nat) (x : ChanH) : (s.setChan n x).adcs = s.adcs := rfl
@[simp] theorem State.setChan_cmps (s : State) (n : Nat) (x : ChanH) : (s.setChan n x).cmps = s.cmps := rfl
@[simp] theorem State.setChan_sys (s : State) (n : Nat) (x : ChanH) : (s.setChan n x).sys = s.sys := rfl
@[simp] theorem State.setChan_tts (s : State) (n : Nat) (x : ChanH) : (s.setChan n x).tts = s.tts := rfl
@[simp] theorem State.setChan_trigq (s : State) (n : Nat) (x : ChanH) : (s.setChan n x).trigq = s.trigq := rfl
@[simp] theorem State.setChan_age (s : State) (n : Nat) (x : ChanH) : (s.setChan n x).age = s.age := rfl
@[simp] theorem State.setChan_isl (s : State) (n : Nat) (x : ChanH) : (s.setChan n x).isl = s.isl := rfl
@[simp] theorem State.setChan_eths (s : State) (n : Nat) (x : ChanH) : (s.setChan n x).eths = s.eths := rfl
@[simp] theorem State.setChan_cans (s : State) (n : Nat) (x : ChanH) : (s.setChan n x).cans = s.cans := rfl
@[simp] theorem State.setChan_sec (s : State) (n : Nat) (x : ChanH) : (s.setChan n x).sec = s.sec := rfl
@[simp] theorem State.setChan_trc (s : State) (n : Nat) (x : ChanH) : (s.setChan n x).trc = s.trc := rfl
@[simp] theorem State.setChan_host (s : State) (n : Nat) (x : ChanH) : (s.setChan n x).host = s.host := rfl
@[simp] theorem State.setChan_reg (s : State) (n : Nat) (x : ChanH) (i : Nat) : (s.setChan n x).reg i = s.reg i := rfl
@[simp] theorem State.setChan_rd (s : State) (n : Nat) (x : ChanH) (g : Fld) : (s.setChan n x).rd g = s.rd g := rfl
@[simp] theorem State.setChan_on (s : State) (n : Nat) (x : ChanH) (g : Fld) : (s.setChan n x).on g = s.on g := rfl
@[simp] theorem State.setChan_byte (s : State) (n : Nat) (x : ChanH) (i : Nat) : (s.setChan n x).byte i = s.byte i := rfl
@[simp] theorem State.setChan_lane (s : State) (n : Nat) (x : ChanH) (i : Nat) : (s.setChan n x).lane i = s.lane i := rfl
@[simp] theorem State.setChan_chain (s : State) (n : Nat) (x : ChanH) (i : Nat) : (s.setChan n x).chain i = s.chain i := rfl
@[simp] theorem State.setChan_cell (s : State) (n : Nat) (x : ChanH) (i : Nat) : (s.setChan n x).cell i = s.cell i := rfl
@[simp] theorem State.setChan_cstE (s : State) (n : Nat) (x : ChanH) (i : Nat) : (s.setChan n x).cstE i = s.cstE i := rfl
@[simp] theorem State.setChan_node (s : State) (n : Nat) (x : ChanH) (i : Nat) : (s.setChan n x).node i = s.node i := rfl
@[simp] theorem State.setChan_chan (s : State) (n : Nat) (x : ChanH) (i : Nat) : (s.setChan n x).chan i = if i = n then x else s.chan i := by
  split
  · next h => subst h; exact Tbl.get_set_self _ _ _ _
  · next h => exact Tbl.get_set_ne _ _ h _
@[simp] theorem State.setChan_plan (s : State) (n : Nat) (x : ChanH) (i : Nat) : (s.setChan n x).plan i = s.plan i := rfl
@[simp] theorem State.setChan_lp (s : State) (n : Nat) (x : ChanH) (i : Nat) : (s.setChan n x).lp i = s.lp i := rfl
@[simp] theorem State.setChan_core (s : State) (n : Nat) (x : ChanH) (i : Nat) : (s.setChan n x).core i = s.core i := rfl
@[simp] theorem State.setChan_eng (s : State) (n : Nat) (x : ChanH) (i : Nat) : (s.setChan n x).eng i = s.eng i := rfl
@[simp] theorem State.setChan_pc (s : State) (n : Nat) (x : ChanH) (i : Nat) : (s.setChan n x).pc i = s.pc i := rfl
@[simp] theorem State.setChan_adc (s : State) (n : Nat) (x : ChanH) (i : Nat) : (s.setChan n x).adc i = s.adc i := rfl
@[simp] theorem State.setChan_cmp (s : State) (n : Nat) (x : ChanH) (i : Nat) : (s.setChan n x).cmp i = s.cmp i := rfl
@[simp] theorem State.setChan_tt (s : State) (n : Nat) (x : ChanH) (i : Nat) : (s.setChan n x).tt i = s.tt i := rfl
@[simp] theorem State.setChan_eth (s : State) (n : Nat) (x : ChanH) (i : Nat) : (s.setChan n x).eth i = s.eth i := rfl
@[simp] theorem State.setChan_can (s : State) (n : Nat) (x : ChanH) (i : Nat) : (s.setChan n x).can i = s.can i := rfl
@[simp] theorem State.setChan_fqOf (s : State) (n : Nat) (x : ChanH) (i : Nat) : (s.setChan n x).fqOf i = s.fqOf i := rfl

/-! ### setPlan -/

@[simp] theorem State.setPlan_pending (s : State) (n : Nat) (x : CellPlan) : (s.setPlan n x).pending = s.pending := rfl
@[simp] theorem State.setPlan_free (s : State) (n : Nat) (x : CellPlan) : (s.setPlan n x).free = s.free := rfl
@[simp] theorem State.setPlan_regs (s : State) (n : Nat) (x : CellPlan) : (s.setPlan n x).regs = s.regs := rfl
@[simp] theorem State.setPlan_mem (s : State) (n : Nat) (x : CellPlan) : (s.setPlan n x).mem = s.mem := rfl
@[simp] theorem State.setPlan_tb (s : State) (n : Nat) (x : CellPlan) : (s.setPlan n x).tb = s.tb := rfl
@[simp] theorem State.setPlan_frames (s : State) (n : Nat) (x : CellPlan) : (s.setPlan n x).frames = s.frames := rfl
@[simp] theorem State.setPlan_fq (s : State) (n : Nat) (x : CellPlan) : (s.setPlan n x).fq = s.fq := rfl
@[simp] theorem State.setPlan_wired (s : State) (n : Nat) (x : CellPlan) : (s.setPlan n x).wired = s.wired := rfl
@[simp] theorem State.setPlan_grid (s : State) (n : Nat) (x : CellPlan) : (s.setPlan n x).grid = s.grid := rfl
@[simp] theorem State.setPlan_lanes (s : State) (n : Nat) (x : CellPlan) : (s.setPlan n x).lanes = s.lanes := rfl
@[simp] theorem State.setPlan_chains (s : State) (n : Nat) (x : CellPlan) : (s.setPlan n x).chains = s.chains := rfl
@[simp] theorem State.setPlan_cells (s : State) (n : Nat) (x : CellPlan) : (s.setPlan n x).cells = s.cells := rfl
@[simp] theorem State.setPlan_cst (s : State) (n : Nat) (x : CellPlan) : (s.setPlan n x).cst = s.cst := rfl
@[simp] theorem State.setPlan_nodes (s : State) (n : Nat) (x : CellPlan) : (s.setPlan n x).nodes = s.nodes := rfl
@[simp] theorem State.setPlan_chans (s : State) (n : Nat) (x : CellPlan) : (s.setPlan n x).chans = s.chans := rfl
@[simp] theorem State.setPlan_starved (s : State) (n : Nat) (x : CellPlan) : (s.setPlan n x).starved = s.starved := rfl
@[simp] theorem State.setPlan_aux (s : State) (n : Nat) (x : CellPlan) : (s.setPlan n x).aux = s.aux := rfl
@[simp] theorem State.setPlan_modA (s : State) (n : Nat) (x : CellPlan) : (s.setPlan n x).modA = s.modA := rfl
@[simp] theorem State.setPlan_lpwm (s : State) (n : Nat) (x : CellPlan) : (s.setPlan n x).lpwm = s.lpwm := rfl
@[simp] theorem State.setPlan_cores (s : State) (n : Nat) (x : CellPlan) : (s.setPlan n x).cores = s.cores := rfl
@[simp] theorem State.setPlan_engs (s : State) (n : Nat) (x : CellPlan) : (s.setPlan n x).engs = s.engs := rfl
@[simp] theorem State.setPlan_protc (s : State) (n : Nat) (x : CellPlan) : (s.setPlan n x).protc = s.protc := rfl
@[simp] theorem State.setPlan_prot (s : State) (n : Nat) (x : CellPlan) : (s.setPlan n x).prot = s.prot := rfl
@[simp] theorem State.setPlan_pair (s : State) (n : Nat) (x : CellPlan) : (s.setPlan n x).pair = s.pair := rfl
@[simp] theorem State.setPlan_adcs (s : State) (n : Nat) (x : CellPlan) : (s.setPlan n x).adcs = s.adcs := rfl
@[simp] theorem State.setPlan_cmps (s : State) (n : Nat) (x : CellPlan) : (s.setPlan n x).cmps = s.cmps := rfl
@[simp] theorem State.setPlan_sys (s : State) (n : Nat) (x : CellPlan) : (s.setPlan n x).sys = s.sys := rfl
@[simp] theorem State.setPlan_tts (s : State) (n : Nat) (x : CellPlan) : (s.setPlan n x).tts = s.tts := rfl
@[simp] theorem State.setPlan_trigq (s : State) (n : Nat) (x : CellPlan) : (s.setPlan n x).trigq = s.trigq := rfl
@[simp] theorem State.setPlan_age (s : State) (n : Nat) (x : CellPlan) : (s.setPlan n x).age = s.age := rfl
@[simp] theorem State.setPlan_isl (s : State) (n : Nat) (x : CellPlan) : (s.setPlan n x).isl = s.isl := rfl
@[simp] theorem State.setPlan_eths (s : State) (n : Nat) (x : CellPlan) : (s.setPlan n x).eths = s.eths := rfl
@[simp] theorem State.setPlan_cans (s : State) (n : Nat) (x : CellPlan) : (s.setPlan n x).cans = s.cans := rfl
@[simp] theorem State.setPlan_sec (s : State) (n : Nat) (x : CellPlan) : (s.setPlan n x).sec = s.sec := rfl
@[simp] theorem State.setPlan_trc (s : State) (n : Nat) (x : CellPlan) : (s.setPlan n x).trc = s.trc := rfl
@[simp] theorem State.setPlan_host (s : State) (n : Nat) (x : CellPlan) : (s.setPlan n x).host = s.host := rfl
@[simp] theorem State.setPlan_reg (s : State) (n : Nat) (x : CellPlan) (i : Nat) : (s.setPlan n x).reg i = s.reg i := rfl
@[simp] theorem State.setPlan_rd (s : State) (n : Nat) (x : CellPlan) (g : Fld) : (s.setPlan n x).rd g = s.rd g := rfl
@[simp] theorem State.setPlan_on (s : State) (n : Nat) (x : CellPlan) (g : Fld) : (s.setPlan n x).on g = s.on g := rfl
@[simp] theorem State.setPlan_byte (s : State) (n : Nat) (x : CellPlan) (i : Nat) : (s.setPlan n x).byte i = s.byte i := rfl
@[simp] theorem State.setPlan_lane (s : State) (n : Nat) (x : CellPlan) (i : Nat) : (s.setPlan n x).lane i = s.lane i := rfl
@[simp] theorem State.setPlan_chain (s : State) (n : Nat) (x : CellPlan) (i : Nat) : (s.setPlan n x).chain i = s.chain i := rfl
@[simp] theorem State.setPlan_cell (s : State) (n : Nat) (x : CellPlan) (i : Nat) : (s.setPlan n x).cell i = s.cell i := rfl
@[simp] theorem State.setPlan_cstE (s : State) (n : Nat) (x : CellPlan) (i : Nat) : (s.setPlan n x).cstE i = s.cstE i := rfl
@[simp] theorem State.setPlan_node (s : State) (n : Nat) (x : CellPlan) (i : Nat) : (s.setPlan n x).node i = s.node i := rfl
@[simp] theorem State.setPlan_chan (s : State) (n : Nat) (x : CellPlan) (i : Nat) : (s.setPlan n x).chan i = s.chan i := rfl
@[simp] theorem State.setPlan_plan (s : State) (n : Nat) (x : CellPlan) (i : Nat) : (s.setPlan n x).plan i = if i = n then x else s.plan i := by
  split
  · next h => subst h; exact Tbl.get_set_self _ _ _ _
  · next h => exact Tbl.get_set_ne _ _ h _
@[simp] theorem State.setPlan_lp (s : State) (n : Nat) (x : CellPlan) (i : Nat) : (s.setPlan n x).lp i = s.lp i := rfl
@[simp] theorem State.setPlan_core (s : State) (n : Nat) (x : CellPlan) (i : Nat) : (s.setPlan n x).core i = s.core i := rfl
@[simp] theorem State.setPlan_eng (s : State) (n : Nat) (x : CellPlan) (i : Nat) : (s.setPlan n x).eng i = s.eng i := rfl
@[simp] theorem State.setPlan_pc (s : State) (n : Nat) (x : CellPlan) (i : Nat) : (s.setPlan n x).pc i = s.pc i := rfl
@[simp] theorem State.setPlan_adc (s : State) (n : Nat) (x : CellPlan) (i : Nat) : (s.setPlan n x).adc i = s.adc i := rfl
@[simp] theorem State.setPlan_cmp (s : State) (n : Nat) (x : CellPlan) (i : Nat) : (s.setPlan n x).cmp i = s.cmp i := rfl
@[simp] theorem State.setPlan_tt (s : State) (n : Nat) (x : CellPlan) (i : Nat) : (s.setPlan n x).tt i = s.tt i := rfl
@[simp] theorem State.setPlan_eth (s : State) (n : Nat) (x : CellPlan) (i : Nat) : (s.setPlan n x).eth i = s.eth i := rfl
@[simp] theorem State.setPlan_can (s : State) (n : Nat) (x : CellPlan) (i : Nat) : (s.setPlan n x).can i = s.can i := rfl
@[simp] theorem State.setPlan_fqOf (s : State) (n : Nat) (x : CellPlan) (i : Nat) : (s.setPlan n x).fqOf i = s.fqOf i := rfl

/-! ### setLp -/

@[simp] theorem State.setLp_pending (s : State) (n : Nat) (x : LpwmH) : (s.setLp n x).pending = s.pending := rfl
@[simp] theorem State.setLp_free (s : State) (n : Nat) (x : LpwmH) : (s.setLp n x).free = s.free := rfl
@[simp] theorem State.setLp_regs (s : State) (n : Nat) (x : LpwmH) : (s.setLp n x).regs = s.regs := rfl
@[simp] theorem State.setLp_mem (s : State) (n : Nat) (x : LpwmH) : (s.setLp n x).mem = s.mem := rfl
@[simp] theorem State.setLp_tb (s : State) (n : Nat) (x : LpwmH) : (s.setLp n x).tb = s.tb := rfl
@[simp] theorem State.setLp_frames (s : State) (n : Nat) (x : LpwmH) : (s.setLp n x).frames = s.frames := rfl
@[simp] theorem State.setLp_fq (s : State) (n : Nat) (x : LpwmH) : (s.setLp n x).fq = s.fq := rfl
@[simp] theorem State.setLp_wired (s : State) (n : Nat) (x : LpwmH) : (s.setLp n x).wired = s.wired := rfl
@[simp] theorem State.setLp_grid (s : State) (n : Nat) (x : LpwmH) : (s.setLp n x).grid = s.grid := rfl
@[simp] theorem State.setLp_lanes (s : State) (n : Nat) (x : LpwmH) : (s.setLp n x).lanes = s.lanes := rfl
@[simp] theorem State.setLp_chains (s : State) (n : Nat) (x : LpwmH) : (s.setLp n x).chains = s.chains := rfl
@[simp] theorem State.setLp_cells (s : State) (n : Nat) (x : LpwmH) : (s.setLp n x).cells = s.cells := rfl
@[simp] theorem State.setLp_cst (s : State) (n : Nat) (x : LpwmH) : (s.setLp n x).cst = s.cst := rfl
@[simp] theorem State.setLp_nodes (s : State) (n : Nat) (x : LpwmH) : (s.setLp n x).nodes = s.nodes := rfl
@[simp] theorem State.setLp_chans (s : State) (n : Nat) (x : LpwmH) : (s.setLp n x).chans = s.chans := rfl
@[simp] theorem State.setLp_plans (s : State) (n : Nat) (x : LpwmH) : (s.setLp n x).plans = s.plans := rfl
@[simp] theorem State.setLp_starved (s : State) (n : Nat) (x : LpwmH) : (s.setLp n x).starved = s.starved := rfl
@[simp] theorem State.setLp_aux (s : State) (n : Nat) (x : LpwmH) : (s.setLp n x).aux = s.aux := rfl
@[simp] theorem State.setLp_modA (s : State) (n : Nat) (x : LpwmH) : (s.setLp n x).modA = s.modA := rfl
@[simp] theorem State.setLp_cores (s : State) (n : Nat) (x : LpwmH) : (s.setLp n x).cores = s.cores := rfl
@[simp] theorem State.setLp_engs (s : State) (n : Nat) (x : LpwmH) : (s.setLp n x).engs = s.engs := rfl
@[simp] theorem State.setLp_protc (s : State) (n : Nat) (x : LpwmH) : (s.setLp n x).protc = s.protc := rfl
@[simp] theorem State.setLp_prot (s : State) (n : Nat) (x : LpwmH) : (s.setLp n x).prot = s.prot := rfl
@[simp] theorem State.setLp_pair (s : State) (n : Nat) (x : LpwmH) : (s.setLp n x).pair = s.pair := rfl
@[simp] theorem State.setLp_adcs (s : State) (n : Nat) (x : LpwmH) : (s.setLp n x).adcs = s.adcs := rfl
@[simp] theorem State.setLp_cmps (s : State) (n : Nat) (x : LpwmH) : (s.setLp n x).cmps = s.cmps := rfl
@[simp] theorem State.setLp_sys (s : State) (n : Nat) (x : LpwmH) : (s.setLp n x).sys = s.sys := rfl
@[simp] theorem State.setLp_tts (s : State) (n : Nat) (x : LpwmH) : (s.setLp n x).tts = s.tts := rfl
@[simp] theorem State.setLp_trigq (s : State) (n : Nat) (x : LpwmH) : (s.setLp n x).trigq = s.trigq := rfl
@[simp] theorem State.setLp_age (s : State) (n : Nat) (x : LpwmH) : (s.setLp n x).age = s.age := rfl
@[simp] theorem State.setLp_isl (s : State) (n : Nat) (x : LpwmH) : (s.setLp n x).isl = s.isl := rfl
@[simp] theorem State.setLp_eths (s : State) (n : Nat) (x : LpwmH) : (s.setLp n x).eths = s.eths := rfl
@[simp] theorem State.setLp_cans (s : State) (n : Nat) (x : LpwmH) : (s.setLp n x).cans = s.cans := rfl
@[simp] theorem State.setLp_sec (s : State) (n : Nat) (x : LpwmH) : (s.setLp n x).sec = s.sec := rfl
@[simp] theorem State.setLp_trc (s : State) (n : Nat) (x : LpwmH) : (s.setLp n x).trc = s.trc := rfl
@[simp] theorem State.setLp_host (s : State) (n : Nat) (x : LpwmH) : (s.setLp n x).host = s.host := rfl
@[simp] theorem State.setLp_reg (s : State) (n : Nat) (x : LpwmH) (i : Nat) : (s.setLp n x).reg i = s.reg i := rfl
@[simp] theorem State.setLp_rd (s : State) (n : Nat) (x : LpwmH) (g : Fld) : (s.setLp n x).rd g = s.rd g := rfl
@[simp] theorem State.setLp_on (s : State) (n : Nat) (x : LpwmH) (g : Fld) : (s.setLp n x).on g = s.on g := rfl
@[simp] theorem State.setLp_byte (s : State) (n : Nat) (x : LpwmH) (i : Nat) : (s.setLp n x).byte i = s.byte i := rfl
@[simp] theorem State.setLp_lane (s : State) (n : Nat) (x : LpwmH) (i : Nat) : (s.setLp n x).lane i = s.lane i := rfl
@[simp] theorem State.setLp_chain (s : State) (n : Nat) (x : LpwmH) (i : Nat) : (s.setLp n x).chain i = s.chain i := rfl
@[simp] theorem State.setLp_cell (s : State) (n : Nat) (x : LpwmH) (i : Nat) : (s.setLp n x).cell i = s.cell i := rfl
@[simp] theorem State.setLp_cstE (s : State) (n : Nat) (x : LpwmH) (i : Nat) : (s.setLp n x).cstE i = s.cstE i := rfl
@[simp] theorem State.setLp_node (s : State) (n : Nat) (x : LpwmH) (i : Nat) : (s.setLp n x).node i = s.node i := rfl
@[simp] theorem State.setLp_chan (s : State) (n : Nat) (x : LpwmH) (i : Nat) : (s.setLp n x).chan i = s.chan i := rfl
@[simp] theorem State.setLp_plan (s : State) (n : Nat) (x : LpwmH) (i : Nat) : (s.setLp n x).plan i = s.plan i := rfl
@[simp] theorem State.setLp_lp (s : State) (n : Nat) (x : LpwmH) (i : Nat) : (s.setLp n x).lp i = if i = n then x else s.lp i := by
  split
  · next h => subst h; exact Tbl.get_set_self _ _ _ _
  · next h => exact Tbl.get_set_ne _ _ h _
@[simp] theorem State.setLp_core (s : State) (n : Nat) (x : LpwmH) (i : Nat) : (s.setLp n x).core i = s.core i := rfl
@[simp] theorem State.setLp_eng (s : State) (n : Nat) (x : LpwmH) (i : Nat) : (s.setLp n x).eng i = s.eng i := rfl
@[simp] theorem State.setLp_pc (s : State) (n : Nat) (x : LpwmH) (i : Nat) : (s.setLp n x).pc i = s.pc i := rfl
@[simp] theorem State.setLp_adc (s : State) (n : Nat) (x : LpwmH) (i : Nat) : (s.setLp n x).adc i = s.adc i := rfl
@[simp] theorem State.setLp_cmp (s : State) (n : Nat) (x : LpwmH) (i : Nat) : (s.setLp n x).cmp i = s.cmp i := rfl
@[simp] theorem State.setLp_tt (s : State) (n : Nat) (x : LpwmH) (i : Nat) : (s.setLp n x).tt i = s.tt i := rfl
@[simp] theorem State.setLp_eth (s : State) (n : Nat) (x : LpwmH) (i : Nat) : (s.setLp n x).eth i = s.eth i := rfl
@[simp] theorem State.setLp_can (s : State) (n : Nat) (x : LpwmH) (i : Nat) : (s.setLp n x).can i = s.can i := rfl
@[simp] theorem State.setLp_fqOf (s : State) (n : Nat) (x : LpwmH) (i : Nat) : (s.setLp n x).fqOf i = s.fqOf i := rfl

/-! ### setCore -/

@[simp] theorem State.setCore_pending (s : State) (n : Nat) (x : CoreS) : (s.setCore n x).pending = s.pending := rfl
@[simp] theorem State.setCore_free (s : State) (n : Nat) (x : CoreS) : (s.setCore n x).free = s.free := rfl
@[simp] theorem State.setCore_regs (s : State) (n : Nat) (x : CoreS) : (s.setCore n x).regs = s.regs := rfl
@[simp] theorem State.setCore_mem (s : State) (n : Nat) (x : CoreS) : (s.setCore n x).mem = s.mem := rfl
@[simp] theorem State.setCore_tb (s : State) (n : Nat) (x : CoreS) : (s.setCore n x).tb = s.tb := rfl
@[simp] theorem State.setCore_frames (s : State) (n : Nat) (x : CoreS) : (s.setCore n x).frames = s.frames := rfl
@[simp] theorem State.setCore_fq (s : State) (n : Nat) (x : CoreS) : (s.setCore n x).fq = s.fq := rfl
@[simp] theorem State.setCore_wired (s : State) (n : Nat) (x : CoreS) : (s.setCore n x).wired = s.wired := rfl
@[simp] theorem State.setCore_grid (s : State) (n : Nat) (x : CoreS) : (s.setCore n x).grid = s.grid := rfl
@[simp] theorem State.setCore_lanes (s : State) (n : Nat) (x : CoreS) : (s.setCore n x).lanes = s.lanes := rfl
@[simp] theorem State.setCore_chains (s : State) (n : Nat) (x : CoreS) : (s.setCore n x).chains = s.chains := rfl
@[simp] theorem State.setCore_cells (s : State) (n : Nat) (x : CoreS) : (s.setCore n x).cells = s.cells := rfl
@[simp] theorem State.setCore_cst (s : State) (n : Nat) (x : CoreS) : (s.setCore n x).cst = s.cst := rfl
@[simp] theorem State.setCore_nodes (s : State) (n : Nat) (x : CoreS) : (s.setCore n x).nodes = s.nodes := rfl
@[simp] theorem State.setCore_chans (s : State) (n : Nat) (x : CoreS) : (s.setCore n x).chans = s.chans := rfl
@[simp] theorem State.setCore_plans (s : State) (n : Nat) (x : CoreS) : (s.setCore n x).plans = s.plans := rfl
@[simp] theorem State.setCore_starved (s : State) (n : Nat) (x : CoreS) : (s.setCore n x).starved = s.starved := rfl
@[simp] theorem State.setCore_aux (s : State) (n : Nat) (x : CoreS) : (s.setCore n x).aux = s.aux := rfl
@[simp] theorem State.setCore_modA (s : State) (n : Nat) (x : CoreS) : (s.setCore n x).modA = s.modA := rfl
@[simp] theorem State.setCore_lpwm (s : State) (n : Nat) (x : CoreS) : (s.setCore n x).lpwm = s.lpwm := rfl
@[simp] theorem State.setCore_engs (s : State) (n : Nat) (x : CoreS) : (s.setCore n x).engs = s.engs := rfl
@[simp] theorem State.setCore_protc (s : State) (n : Nat) (x : CoreS) : (s.setCore n x).protc = s.protc := rfl
@[simp] theorem State.setCore_prot (s : State) (n : Nat) (x : CoreS) : (s.setCore n x).prot = s.prot := rfl
@[simp] theorem State.setCore_pair (s : State) (n : Nat) (x : CoreS) : (s.setCore n x).pair = s.pair := rfl
@[simp] theorem State.setCore_adcs (s : State) (n : Nat) (x : CoreS) : (s.setCore n x).adcs = s.adcs := rfl
@[simp] theorem State.setCore_cmps (s : State) (n : Nat) (x : CoreS) : (s.setCore n x).cmps = s.cmps := rfl
@[simp] theorem State.setCore_sys (s : State) (n : Nat) (x : CoreS) : (s.setCore n x).sys = s.sys := rfl
@[simp] theorem State.setCore_tts (s : State) (n : Nat) (x : CoreS) : (s.setCore n x).tts = s.tts := rfl
@[simp] theorem State.setCore_trigq (s : State) (n : Nat) (x : CoreS) : (s.setCore n x).trigq = s.trigq := rfl
@[simp] theorem State.setCore_age (s : State) (n : Nat) (x : CoreS) : (s.setCore n x).age = s.age := rfl
@[simp] theorem State.setCore_isl (s : State) (n : Nat) (x : CoreS) : (s.setCore n x).isl = s.isl := rfl
@[simp] theorem State.setCore_eths (s : State) (n : Nat) (x : CoreS) : (s.setCore n x).eths = s.eths := rfl
@[simp] theorem State.setCore_cans (s : State) (n : Nat) (x : CoreS) : (s.setCore n x).cans = s.cans := rfl
@[simp] theorem State.setCore_sec (s : State) (n : Nat) (x : CoreS) : (s.setCore n x).sec = s.sec := rfl
@[simp] theorem State.setCore_trc (s : State) (n : Nat) (x : CoreS) : (s.setCore n x).trc = s.trc := rfl
@[simp] theorem State.setCore_host (s : State) (n : Nat) (x : CoreS) : (s.setCore n x).host = s.host := rfl
@[simp] theorem State.setCore_reg (s : State) (n : Nat) (x : CoreS) (i : Nat) : (s.setCore n x).reg i = s.reg i := rfl
@[simp] theorem State.setCore_rd (s : State) (n : Nat) (x : CoreS) (g : Fld) : (s.setCore n x).rd g = s.rd g := rfl
@[simp] theorem State.setCore_on (s : State) (n : Nat) (x : CoreS) (g : Fld) : (s.setCore n x).on g = s.on g := rfl
@[simp] theorem State.setCore_byte (s : State) (n : Nat) (x : CoreS) (i : Nat) : (s.setCore n x).byte i = s.byte i := rfl
@[simp] theorem State.setCore_lane (s : State) (n : Nat) (x : CoreS) (i : Nat) : (s.setCore n x).lane i = s.lane i := rfl
@[simp] theorem State.setCore_chain (s : State) (n : Nat) (x : CoreS) (i : Nat) : (s.setCore n x).chain i = s.chain i := rfl
@[simp] theorem State.setCore_cell (s : State) (n : Nat) (x : CoreS) (i : Nat) : (s.setCore n x).cell i = s.cell i := rfl
@[simp] theorem State.setCore_cstE (s : State) (n : Nat) (x : CoreS) (i : Nat) : (s.setCore n x).cstE i = s.cstE i := rfl
@[simp] theorem State.setCore_node (s : State) (n : Nat) (x : CoreS) (i : Nat) : (s.setCore n x).node i = s.node i := rfl
@[simp] theorem State.setCore_chan (s : State) (n : Nat) (x : CoreS) (i : Nat) : (s.setCore n x).chan i = s.chan i := rfl
@[simp] theorem State.setCore_plan (s : State) (n : Nat) (x : CoreS) (i : Nat) : (s.setCore n x).plan i = s.plan i := rfl
@[simp] theorem State.setCore_lp (s : State) (n : Nat) (x : CoreS) (i : Nat) : (s.setCore n x).lp i = s.lp i := rfl
@[simp] theorem State.setCore_core (s : State) (n : Nat) (x : CoreS) (i : Nat) : (s.setCore n x).core i = if i = n then x else s.core i := by
  split
  · next h => subst h; exact Tbl.get_set_self _ _ _ _
  · next h => exact Tbl.get_set_ne _ _ h _
@[simp] theorem State.setCore_eng (s : State) (n : Nat) (x : CoreS) (i : Nat) : (s.setCore n x).eng i = s.eng i := rfl
@[simp] theorem State.setCore_pc (s : State) (n : Nat) (x : CoreS) (i : Nat) : (s.setCore n x).pc i = s.pc i := rfl
@[simp] theorem State.setCore_adc (s : State) (n : Nat) (x : CoreS) (i : Nat) : (s.setCore n x).adc i = s.adc i := rfl
@[simp] theorem State.setCore_cmp (s : State) (n : Nat) (x : CoreS) (i : Nat) : (s.setCore n x).cmp i = s.cmp i := rfl
@[simp] theorem State.setCore_tt (s : State) (n : Nat) (x : CoreS) (i : Nat) : (s.setCore n x).tt i = s.tt i := rfl
@[simp] theorem State.setCore_eth (s : State) (n : Nat) (x : CoreS) (i : Nat) : (s.setCore n x).eth i = s.eth i := rfl
@[simp] theorem State.setCore_can (s : State) (n : Nat) (x : CoreS) (i : Nat) : (s.setCore n x).can i = s.can i := rfl
@[simp] theorem State.setCore_fqOf (s : State) (n : Nat) (x : CoreS) (i : Nat) : (s.setCore n x).fqOf i = s.fqOf i := rfl

/-! ### setEng -/

@[simp] theorem State.setEng_pending (s : State) (n : Nat) (x : EngH) : (s.setEng n x).pending = s.pending := rfl
@[simp] theorem State.setEng_free (s : State) (n : Nat) (x : EngH) : (s.setEng n x).free = s.free := rfl
@[simp] theorem State.setEng_regs (s : State) (n : Nat) (x : EngH) : (s.setEng n x).regs = s.regs := rfl
@[simp] theorem State.setEng_mem (s : State) (n : Nat) (x : EngH) : (s.setEng n x).mem = s.mem := rfl
@[simp] theorem State.setEng_tb (s : State) (n : Nat) (x : EngH) : (s.setEng n x).tb = s.tb := rfl
@[simp] theorem State.setEng_frames (s : State) (n : Nat) (x : EngH) : (s.setEng n x).frames = s.frames := rfl
@[simp] theorem State.setEng_fq (s : State) (n : Nat) (x : EngH) : (s.setEng n x).fq = s.fq := rfl
@[simp] theorem State.setEng_wired (s : State) (n : Nat) (x : EngH) : (s.setEng n x).wired = s.wired := rfl
@[simp] theorem State.setEng_grid (s : State) (n : Nat) (x : EngH) : (s.setEng n x).grid = s.grid := rfl
@[simp] theorem State.setEng_lanes (s : State) (n : Nat) (x : EngH) : (s.setEng n x).lanes = s.lanes := rfl
@[simp] theorem State.setEng_chains (s : State) (n : Nat) (x : EngH) : (s.setEng n x).chains = s.chains := rfl
@[simp] theorem State.setEng_cells (s : State) (n : Nat) (x : EngH) : (s.setEng n x).cells = s.cells := rfl
@[simp] theorem State.setEng_cst (s : State) (n : Nat) (x : EngH) : (s.setEng n x).cst = s.cst := rfl
@[simp] theorem State.setEng_nodes (s : State) (n : Nat) (x : EngH) : (s.setEng n x).nodes = s.nodes := rfl
@[simp] theorem State.setEng_chans (s : State) (n : Nat) (x : EngH) : (s.setEng n x).chans = s.chans := rfl
@[simp] theorem State.setEng_plans (s : State) (n : Nat) (x : EngH) : (s.setEng n x).plans = s.plans := rfl
@[simp] theorem State.setEng_starved (s : State) (n : Nat) (x : EngH) : (s.setEng n x).starved = s.starved := rfl
@[simp] theorem State.setEng_aux (s : State) (n : Nat) (x : EngH) : (s.setEng n x).aux = s.aux := rfl
@[simp] theorem State.setEng_modA (s : State) (n : Nat) (x : EngH) : (s.setEng n x).modA = s.modA := rfl
@[simp] theorem State.setEng_lpwm (s : State) (n : Nat) (x : EngH) : (s.setEng n x).lpwm = s.lpwm := rfl
@[simp] theorem State.setEng_cores (s : State) (n : Nat) (x : EngH) : (s.setEng n x).cores = s.cores := rfl
@[simp] theorem State.setEng_protc (s : State) (n : Nat) (x : EngH) : (s.setEng n x).protc = s.protc := rfl
@[simp] theorem State.setEng_prot (s : State) (n : Nat) (x : EngH) : (s.setEng n x).prot = s.prot := rfl
@[simp] theorem State.setEng_pair (s : State) (n : Nat) (x : EngH) : (s.setEng n x).pair = s.pair := rfl
@[simp] theorem State.setEng_adcs (s : State) (n : Nat) (x : EngH) : (s.setEng n x).adcs = s.adcs := rfl
@[simp] theorem State.setEng_cmps (s : State) (n : Nat) (x : EngH) : (s.setEng n x).cmps = s.cmps := rfl
@[simp] theorem State.setEng_sys (s : State) (n : Nat) (x : EngH) : (s.setEng n x).sys = s.sys := rfl
@[simp] theorem State.setEng_tts (s : State) (n : Nat) (x : EngH) : (s.setEng n x).tts = s.tts := rfl
@[simp] theorem State.setEng_trigq (s : State) (n : Nat) (x : EngH) : (s.setEng n x).trigq = s.trigq := rfl
@[simp] theorem State.setEng_age (s : State) (n : Nat) (x : EngH) : (s.setEng n x).age = s.age := rfl
@[simp] theorem State.setEng_isl (s : State) (n : Nat) (x : EngH) : (s.setEng n x).isl = s.isl := rfl
@[simp] theorem State.setEng_eths (s : State) (n : Nat) (x : EngH) : (s.setEng n x).eths = s.eths := rfl
@[simp] theorem State.setEng_cans (s : State) (n : Nat) (x : EngH) : (s.setEng n x).cans = s.cans := rfl
@[simp] theorem State.setEng_sec (s : State) (n : Nat) (x : EngH) : (s.setEng n x).sec = s.sec := rfl
@[simp] theorem State.setEng_trc (s : State) (n : Nat) (x : EngH) : (s.setEng n x).trc = s.trc := rfl
@[simp] theorem State.setEng_host (s : State) (n : Nat) (x : EngH) : (s.setEng n x).host = s.host := rfl
@[simp] theorem State.setEng_reg (s : State) (n : Nat) (x : EngH) (i : Nat) : (s.setEng n x).reg i = s.reg i := rfl
@[simp] theorem State.setEng_rd (s : State) (n : Nat) (x : EngH) (g : Fld) : (s.setEng n x).rd g = s.rd g := rfl
@[simp] theorem State.setEng_on (s : State) (n : Nat) (x : EngH) (g : Fld) : (s.setEng n x).on g = s.on g := rfl
@[simp] theorem State.setEng_byte (s : State) (n : Nat) (x : EngH) (i : Nat) : (s.setEng n x).byte i = s.byte i := rfl
@[simp] theorem State.setEng_lane (s : State) (n : Nat) (x : EngH) (i : Nat) : (s.setEng n x).lane i = s.lane i := rfl
@[simp] theorem State.setEng_chain (s : State) (n : Nat) (x : EngH) (i : Nat) : (s.setEng n x).chain i = s.chain i := rfl
@[simp] theorem State.setEng_cell (s : State) (n : Nat) (x : EngH) (i : Nat) : (s.setEng n x).cell i = s.cell i := rfl
@[simp] theorem State.setEng_cstE (s : State) (n : Nat) (x : EngH) (i : Nat) : (s.setEng n x).cstE i = s.cstE i := rfl
@[simp] theorem State.setEng_node (s : State) (n : Nat) (x : EngH) (i : Nat) : (s.setEng n x).node i = s.node i := rfl
@[simp] theorem State.setEng_chan (s : State) (n : Nat) (x : EngH) (i : Nat) : (s.setEng n x).chan i = s.chan i := rfl
@[simp] theorem State.setEng_plan (s : State) (n : Nat) (x : EngH) (i : Nat) : (s.setEng n x).plan i = s.plan i := rfl
@[simp] theorem State.setEng_lp (s : State) (n : Nat) (x : EngH) (i : Nat) : (s.setEng n x).lp i = s.lp i := rfl
@[simp] theorem State.setEng_core (s : State) (n : Nat) (x : EngH) (i : Nat) : (s.setEng n x).core i = s.core i := rfl
@[simp] theorem State.setEng_eng (s : State) (n : Nat) (x : EngH) (i : Nat) : (s.setEng n x).eng i = if i = n then x else s.eng i := by
  split
  · next h => subst h; exact Tbl.get_set_self _ _ _ _
  · next h => exact Tbl.get_set_ne _ _ h _
@[simp] theorem State.setEng_pc (s : State) (n : Nat) (x : EngH) (i : Nat) : (s.setEng n x).pc i = s.pc i := rfl
@[simp] theorem State.setEng_adc (s : State) (n : Nat) (x : EngH) (i : Nat) : (s.setEng n x).adc i = s.adc i := rfl
@[simp] theorem State.setEng_cmp (s : State) (n : Nat) (x : EngH) (i : Nat) : (s.setEng n x).cmp i = s.cmp i := rfl
@[simp] theorem State.setEng_tt (s : State) (n : Nat) (x : EngH) (i : Nat) : (s.setEng n x).tt i = s.tt i := rfl
@[simp] theorem State.setEng_eth (s : State) (n : Nat) (x : EngH) (i : Nat) : (s.setEng n x).eth i = s.eth i := rfl
@[simp] theorem State.setEng_can (s : State) (n : Nat) (x : EngH) (i : Nat) : (s.setEng n x).can i = s.can i := rfl
@[simp] theorem State.setEng_fqOf (s : State) (n : Nat) (x : EngH) (i : Nat) : (s.setEng n x).fqOf i = s.fqOf i := rfl

/-! ### setPc -/

@[simp] theorem State.setPc_pending (s : State) (n : Nat) (x : ProtC) : (s.setPc n x).pending = s.pending := rfl
@[simp] theorem State.setPc_free (s : State) (n : Nat) (x : ProtC) : (s.setPc n x).free = s.free := rfl
@[simp] theorem State.setPc_regs (s : State) (n : Nat) (x : ProtC) : (s.setPc n x).regs = s.regs := rfl
@[simp] theorem State.setPc_mem (s : State) (n : Nat) (x : ProtC) : (s.setPc n x).mem = s.mem := rfl
@[simp] theorem State.setPc_tb (s : State) (n : Nat) (x : ProtC) : (s.setPc n x).tb = s.tb := rfl
@[simp] theorem State.setPc_frames (s : State) (n : Nat) (x : ProtC) : (s.setPc n x).frames = s.frames := rfl
@[simp] theorem State.setPc_fq (s : State) (n : Nat) (x : ProtC) : (s.setPc n x).fq = s.fq := rfl
@[simp] theorem State.setPc_wired (s : State) (n : Nat) (x : ProtC) : (s.setPc n x).wired = s.wired := rfl
@[simp] theorem State.setPc_grid (s : State) (n : Nat) (x : ProtC) : (s.setPc n x).grid = s.grid := rfl
@[simp] theorem State.setPc_lanes (s : State) (n : Nat) (x : ProtC) : (s.setPc n x).lanes = s.lanes := rfl
@[simp] theorem State.setPc_chains (s : State) (n : Nat) (x : ProtC) : (s.setPc n x).chains = s.chains := rfl
@[simp] theorem State.setPc_cells (s : State) (n : Nat) (x : ProtC) : (s.setPc n x).cells = s.cells := rfl
@[simp] theorem State.setPc_cst (s : State) (n : Nat) (x : ProtC) : (s.setPc n x).cst = s.cst := rfl
@[simp] theorem State.setPc_nodes (s : State) (n : Nat) (x : ProtC) : (s.setPc n x).nodes = s.nodes := rfl
@[simp] theorem State.setPc_chans (s : State) (n : Nat) (x : ProtC) : (s.setPc n x).chans = s.chans := rfl
@[simp] theorem State.setPc_plans (s : State) (n : Nat) (x : ProtC) : (s.setPc n x).plans = s.plans := rfl
@[simp] theorem State.setPc_starved (s : State) (n : Nat) (x : ProtC) : (s.setPc n x).starved = s.starved := rfl
@[simp] theorem State.setPc_aux (s : State) (n : Nat) (x : ProtC) : (s.setPc n x).aux = s.aux := rfl
@[simp] theorem State.setPc_modA (s : State) (n : Nat) (x : ProtC) : (s.setPc n x).modA = s.modA := rfl
@[simp] theorem State.setPc_lpwm (s : State) (n : Nat) (x : ProtC) : (s.setPc n x).lpwm = s.lpwm := rfl
@[simp] theorem State.setPc_cores (s : State) (n : Nat) (x : ProtC) : (s.setPc n x).cores = s.cores := rfl
@[simp] theorem State.setPc_engs (s : State) (n : Nat) (x : ProtC) : (s.setPc n x).engs = s.engs := rfl
@[simp] theorem State.setPc_prot (s : State) (n : Nat) (x : ProtC) : (s.setPc n x).prot = s.prot := rfl
@[simp] theorem State.setPc_pair (s : State) (n : Nat) (x : ProtC) : (s.setPc n x).pair = s.pair := rfl
@[simp] theorem State.setPc_adcs (s : State) (n : Nat) (x : ProtC) : (s.setPc n x).adcs = s.adcs := rfl
@[simp] theorem State.setPc_cmps (s : State) (n : Nat) (x : ProtC) : (s.setPc n x).cmps = s.cmps := rfl
@[simp] theorem State.setPc_sys (s : State) (n : Nat) (x : ProtC) : (s.setPc n x).sys = s.sys := rfl
@[simp] theorem State.setPc_tts (s : State) (n : Nat) (x : ProtC) : (s.setPc n x).tts = s.tts := rfl
@[simp] theorem State.setPc_trigq (s : State) (n : Nat) (x : ProtC) : (s.setPc n x).trigq = s.trigq := rfl
@[simp] theorem State.setPc_age (s : State) (n : Nat) (x : ProtC) : (s.setPc n x).age = s.age := rfl
@[simp] theorem State.setPc_isl (s : State) (n : Nat) (x : ProtC) : (s.setPc n x).isl = s.isl := rfl
@[simp] theorem State.setPc_eths (s : State) (n : Nat) (x : ProtC) : (s.setPc n x).eths = s.eths := rfl
@[simp] theorem State.setPc_cans (s : State) (n : Nat) (x : ProtC) : (s.setPc n x).cans = s.cans := rfl
@[simp] theorem State.setPc_sec (s : State) (n : Nat) (x : ProtC) : (s.setPc n x).sec = s.sec := rfl
@[simp] theorem State.setPc_trc (s : State) (n : Nat) (x : ProtC) : (s.setPc n x).trc = s.trc := rfl
@[simp] theorem State.setPc_host (s : State) (n : Nat) (x : ProtC) : (s.setPc n x).host = s.host := rfl
@[simp] theorem State.setPc_reg (s : State) (n : Nat) (x : ProtC) (i : Nat) : (s.setPc n x).reg i = s.reg i := rfl
@[simp] theorem State.setPc_rd (s : State) (n : Nat) (x : ProtC) (g : Fld) : (s.setPc n x).rd g = s.rd g := rfl
@[simp] theorem State.setPc_on (s : State) (n : Nat) (x : ProtC) (g : Fld) : (s.setPc n x).on g = s.on g := rfl
@[simp] theorem State.setPc_byte (s : State) (n : Nat) (x : ProtC) (i : Nat) : (s.setPc n x).byte i = s.byte i := rfl
@[simp] theorem State.setPc_lane (s : State) (n : Nat) (x : ProtC) (i : Nat) : (s.setPc n x).lane i = s.lane i := rfl
@[simp] theorem State.setPc_chain (s : State) (n : Nat) (x : ProtC) (i : Nat) : (s.setPc n x).chain i = s.chain i := rfl
@[simp] theorem State.setPc_cell (s : State) (n : Nat) (x : ProtC) (i : Nat) : (s.setPc n x).cell i = s.cell i := rfl
@[simp] theorem State.setPc_cstE (s : State) (n : Nat) (x : ProtC) (i : Nat) : (s.setPc n x).cstE i = s.cstE i := rfl
@[simp] theorem State.setPc_node (s : State) (n : Nat) (x : ProtC) (i : Nat) : (s.setPc n x).node i = s.node i := rfl
@[simp] theorem State.setPc_chan (s : State) (n : Nat) (x : ProtC) (i : Nat) : (s.setPc n x).chan i = s.chan i := rfl
@[simp] theorem State.setPc_plan (s : State) (n : Nat) (x : ProtC) (i : Nat) : (s.setPc n x).plan i = s.plan i := rfl
@[simp] theorem State.setPc_lp (s : State) (n : Nat) (x : ProtC) (i : Nat) : (s.setPc n x).lp i = s.lp i := rfl
@[simp] theorem State.setPc_core (s : State) (n : Nat) (x : ProtC) (i : Nat) : (s.setPc n x).core i = s.core i := rfl
@[simp] theorem State.setPc_eng (s : State) (n : Nat) (x : ProtC) (i : Nat) : (s.setPc n x).eng i = s.eng i := rfl
@[simp] theorem State.setPc_pc (s : State) (n : Nat) (x : ProtC) (i : Nat) : (s.setPc n x).pc i = if i = n then x else s.pc i := by
  split
  · next h => subst h; exact Tbl.get_set_self _ _ _ _
  · next h => exact Tbl.get_set_ne _ _ h _
@[simp] theorem State.setPc_adc (s : State) (n : Nat) (x : ProtC) (i : Nat) : (s.setPc n x).adc i = s.adc i := rfl
@[simp] theorem State.setPc_cmp (s : State) (n : Nat) (x : ProtC) (i : Nat) : (s.setPc n x).cmp i = s.cmp i := rfl
@[simp] theorem State.setPc_tt (s : State) (n : Nat) (x : ProtC) (i : Nat) : (s.setPc n x).tt i = s.tt i := rfl
@[simp] theorem State.setPc_eth (s : State) (n : Nat) (x : ProtC) (i : Nat) : (s.setPc n x).eth i = s.eth i := rfl
@[simp] theorem State.setPc_can (s : State) (n : Nat) (x : ProtC) (i : Nat) : (s.setPc n x).can i = s.can i := rfl
@[simp] theorem State.setPc_fqOf (s : State) (n : Nat) (x : ProtC) (i : Nat) : (s.setPc n x).fqOf i = s.fqOf i := rfl

/-! ### setAdc -/

@[simp] theorem State.setAdc_pending (s : State) (n : Nat) (x : AdcH) : (s.setAdc n x).pending = s.pending := rfl
@[simp] theorem State.setAdc_free (s : State) (n : Nat) (x : AdcH) : (s.setAdc n x).free = s.free := rfl
@[simp] theorem State.setAdc_regs (s : State) (n : Nat) (x : AdcH) : (s.setAdc n x).regs = s.regs := rfl
@[simp] theorem State.setAdc_mem (s : State) (n : Nat) (x : AdcH) : (s.setAdc n x).mem = s.mem := rfl
@[simp] theorem State.setAdc_tb (s : State) (n : Nat) (x : AdcH) : (s.setAdc n x).tb = s.tb := rfl
@[simp] theorem State.setAdc_frames (s : State) (n : Nat) (x : AdcH) : (s.setAdc n x).frames = s.frames := rfl
@[simp] theorem State.setAdc_fq (s : State) (n : Nat) (x : AdcH) : (s.setAdc n x).fq = s.fq := rfl
@[simp] theorem State.setAdc_wired (s : State) (n : Nat) (x : AdcH) : (s.setAdc n x).wired = s.wired := rfl
@[simp] theorem State.setAdc_grid (s : State) (n : Nat) (x : AdcH) : (s.setAdc n x).grid = s.grid := rfl
@[simp] theorem State.setAdc_lanes (s : State) (n : Nat) (x : AdcH) : (s.setAdc n x).lanes = s.lanes := rfl
@[simp] theorem State.setAdc_chains (s : State) (n : Nat) (x : AdcH) : (s.setAdc n x).chains = s.chains := rfl
@[simp] theorem State.setAdc_cells (s : State) (n : Nat) (x : AdcH) : (s.setAdc n x).cells = s.cells := rfl
@[simp] theorem State.setAdc_cst (s : State) (n : Nat) (x : AdcH) : (s.setAdc n x).cst = s.cst := rfl
@[simp] theorem State.setAdc_nodes (s : State) (n : Nat) (x : AdcH) : (s.setAdc n x).nodes = s.nodes := rfl
@[simp] theorem State.setAdc_chans (s : State) (n : Nat) (x : AdcH) : (s.setAdc n x).chans = s.chans := rfl
@[simp] theorem State.setAdc_plans (s : State) (n : Nat) (x : AdcH) : (s.setAdc n x).plans = s.plans := rfl
@[simp] theorem State.setAdc_starved (s : State) (n : Nat) (x : AdcH) : (s.setAdc n x).starved = s.starved := rfl
@[simp] theorem State.setAdc_aux (s : State) (n : Nat) (x : AdcH) : (s.setAdc n x).aux = s.aux := rfl
@[simp] theorem State.setAdc_modA (s : State) (n : Nat) (x : AdcH) : (s.setAdc n x).modA = s.modA := rfl
@[simp] theorem State.setAdc_lpwm (s : State) (n : Nat) (x : AdcH) : (s.setAdc n x).lpwm = s.lpwm := rfl
@[simp] theorem State.setAdc_cores (s : State) (n : Nat) (x : AdcH) : (s.setAdc n x).cores = s.cores := rfl
@[simp] theorem State.setAdc_engs (s : State) (n : Nat) (x : AdcH) : (s.setAdc n x).engs = s.engs := rfl
@[simp] theorem State.setAdc_protc (s : State) (n : Nat) (x : AdcH) : (s.setAdc n x).protc = s.protc := rfl
@[simp] theorem State.setAdc_prot (s : State) (n : Nat) (x : AdcH) : (s.setAdc n x).prot = s.prot := rfl
@[simp] theorem State.setAdc_pair (s : State) (n : Nat) (x : AdcH) : (s.setAdc n x).pair = s.pair := rfl
@[simp] theorem State.setAdc_cmps (s : State) (n : Nat) (x : AdcH) : (s.setAdc n x).cmps = s.cmps := rfl
@[simp] theorem State.setAdc_sys (s : State) (n : Nat) (x : AdcH) : (s.setAdc n x).sys = s.sys := rfl
@[simp] theorem State.setAdc_tts (s : State) (n : Nat) (x : AdcH) : (s.setAdc n x).tts = s.tts := rfl
@[simp] theorem State.setAdc_trigq (s : State) (n : Nat) (x : AdcH) : (s.setAdc n x).trigq = s.trigq := rfl
@[simp] theorem State.setAdc_age (s : State) (n : Nat) (x : AdcH) : (s.setAdc n x).age = s.age := rfl
@[simp] theorem State.setAdc_isl (s : State) (n : Nat) (x : AdcH) : (s.setAdc n x).isl = s.isl := rfl
@[simp] theorem State.setAdc_eths (s : State) (n : Nat) (x : AdcH) : (s.setAdc n x).eths = s.eths := rfl
@[simp] theorem State.setAdc_cans (s : State) (n : Nat) (x : AdcH) : (s.setAdc n x).cans = s.cans := rfl
@[simp] theorem State.setAdc_sec (s : State) (n : Nat) (x : AdcH) : (s.setAdc n x).sec = s.sec := rfl
@[simp] theorem State.setAdc_trc (s : State) (n : Nat) (x : AdcH) : (s.setAdc n x).trc = s.trc := rfl
@[simp] theorem State.setAdc_host (s : State) (n : Nat) (x : AdcH) : (s.setAdc n x).host = s.host := rfl
@[simp] theorem State.setAdc_reg (s : State) (n : Nat) (x : AdcH) (i : Nat) : (s.setAdc n x).reg i = s.reg i := rfl
@[simp] theorem State.setAdc_rd (s : State) (n : Nat) (x : AdcH) (g : Fld) : (s.setAdc n x).rd g = s.rd g := rfl
@[simp] theorem State.setAdc_on (s : State) (n : Nat) (x : AdcH) (g : Fld) : (s.setAdc n x).on g = s.on g := rfl
@[simp] theorem State.setAdc_byte (s : State) (n : Nat) (x : AdcH) (i : Nat) : (s.setAdc n x).byte i = s.byte i := rfl
@[simp] theorem State.setAdc_lane (s : State) (n : Nat) (x : AdcH) (i : Nat) : (s.setAdc n x).lane i = s.lane i := rfl
@[simp] theorem State.setAdc_chain (s : State) (n : Nat) (x : AdcH) (i : Nat) : (s.setAdc n x).chain i = s.chain i := rfl
@[simp] theorem State.setAdc_cell (s : State) (n : Nat) (x : AdcH) (i : Nat) : (s.setAdc n x).cell i = s.cell i := rfl
@[simp] theorem State.setAdc_cstE (s : State) (n : Nat) (x : AdcH) (i : Nat) : (s.setAdc n x).cstE i = s.cstE i := rfl
@[simp] theorem State.setAdc_node (s : State) (n : Nat) (x : AdcH) (i : Nat) : (s.setAdc n x).node i = s.node i := rfl
@[simp] theorem State.setAdc_chan (s : State) (n : Nat) (x : AdcH) (i : Nat) : (s.setAdc n x).chan i = s.chan i := rfl
@[simp] theorem State.setAdc_plan (s : State) (n : Nat) (x : AdcH) (i : Nat) : (s.setAdc n x).plan i = s.plan i := rfl
@[simp] theorem State.setAdc_lp (s : State) (n : Nat) (x : AdcH) (i : Nat) : (s.setAdc n x).lp i = s.lp i := rfl
@[simp] theorem State.setAdc_core (s : State) (n : Nat) (x : AdcH) (i : Nat) : (s.setAdc n x).core i = s.core i := rfl
@[simp] theorem State.setAdc_eng (s : State) (n : Nat) (x : AdcH) (i : Nat) : (s.setAdc n x).eng i = s.eng i := rfl
@[simp] theorem State.setAdc_pc (s : State) (n : Nat) (x : AdcH) (i : Nat) : (s.setAdc n x).pc i = s.pc i := rfl
@[simp] theorem State.setAdc_adc (s : State) (n : Nat) (x : AdcH) (i : Nat) : (s.setAdc n x).adc i = if i = n then x else s.adc i := by
  split
  · next h => subst h; exact Tbl.get_set_self _ _ _ _
  · next h => exact Tbl.get_set_ne _ _ h _
@[simp] theorem State.setAdc_cmp (s : State) (n : Nat) (x : AdcH) (i : Nat) : (s.setAdc n x).cmp i = s.cmp i := rfl
@[simp] theorem State.setAdc_tt (s : State) (n : Nat) (x : AdcH) (i : Nat) : (s.setAdc n x).tt i = s.tt i := rfl
@[simp] theorem State.setAdc_eth (s : State) (n : Nat) (x : AdcH) (i : Nat) : (s.setAdc n x).eth i = s.eth i := rfl
@[simp] theorem State.setAdc_can (s : State) (n : Nat) (x : AdcH) (i : Nat) : (s.setAdc n x).can i = s.can i := rfl
@[simp] theorem State.setAdc_fqOf (s : State) (n : Nat) (x : AdcH) (i : Nat) : (s.setAdc n x).fqOf i = s.fqOf i := rfl

/-! ### setCmp -/

@[simp] theorem State.setCmp_pending (s : State) (n : Nat) (x : CmpH) : (s.setCmp n x).pending = s.pending := rfl
@[simp] theorem State.setCmp_free (s : State) (n : Nat) (x : CmpH) : (s.setCmp n x).free = s.free := rfl
@[simp] theorem State.setCmp_regs (s : State) (n : Nat) (x : CmpH) : (s.setCmp n x).regs = s.regs := rfl
@[simp] theorem State.setCmp_mem (s : State) (n : Nat) (x : CmpH) : (s.setCmp n x).mem = s.mem := rfl
@[simp] theorem State.setCmp_tb (s : State) (n : Nat) (x : CmpH) : (s.setCmp n x).tb = s.tb := rfl
@[simp] theorem State.setCmp_frames (s : State) (n : Nat) (x : CmpH) : (s.setCmp n x).frames = s.frames := rfl
@[simp] theorem State.setCmp_fq (s : State) (n : Nat) (x : CmpH) : (s.setCmp n x).fq = s.fq := rfl
@[simp] theorem State.setCmp_wired (s : State) (n : Nat) (x : CmpH) : (s.setCmp n x).wired = s.wired := rfl
@[simp] theorem State.setCmp_grid (s : State) (n : Nat) (x : CmpH) : (s.setCmp n x).grid = s.grid := rfl
@[simp] theorem State.setCmp_lanes (s : State) (n : Nat) (x : CmpH) : (s.setCmp n x).lanes = s.lanes := rfl
@[simp] theorem State.setCmp_chains (s : State) (n : Nat) (x : CmpH) : (s.setCmp n x).chains = s.chains := rfl
@[simp] theorem State.setCmp_cells (s : State) (n : Nat) (x : CmpH) : (s.setCmp n x).cells = s.cells := rfl
@[simp] theorem State.setCmp_cst (s : State) (n : Nat) (x : CmpH) : (s.setCmp n x).cst = s.cst := rfl
@[simp] theorem State.setCmp_nodes (s : State) (n : Nat) (x : CmpH) : (s.setCmp n x).nodes = s.nodes := rfl
@[simp] theorem State.setCmp_chans (s : State) (n : Nat) (x : CmpH) : (s.setCmp n x).chans = s.chans := rfl
@[simp] theorem State.setCmp_plans (s : State) (n : Nat) (x : CmpH) : (s.setCmp n x).plans = s.plans := rfl
@[simp] theorem State.setCmp_starved (s : State) (n : Nat) (x : CmpH) : (s.setCmp n x).starved = s.starved := rfl
@[simp] theorem State.setCmp_aux (s : State) (n : Nat) (x : CmpH) : (s.setCmp n x).aux = s.aux := rfl
@[simp] theorem State.setCmp_modA (s : State) (n : Nat) (x : CmpH) : (s.setCmp n x).modA = s.modA := rfl
@[simp] theorem State.setCmp_lpwm (s : State) (n : Nat) (x : CmpH) : (s.setCmp n x).lpwm = s.lpwm := rfl
@[simp] theorem State.setCmp_cores (s : State) (n : Nat) (x : CmpH) : (s.setCmp n x).cores = s.cores := rfl
@[simp] theorem State.setCmp_engs (s : State) (n : Nat) (x : CmpH) : (s.setCmp n x).engs = s.engs := rfl
@[simp] theorem State.setCmp_protc (s : State) (n : Nat) (x : CmpH) : (s.setCmp n x).protc = s.protc := rfl
@[simp] theorem State.setCmp_prot (s : State) (n : Nat) (x : CmpH) : (s.setCmp n x).prot = s.prot := rfl
@[simp] theorem State.setCmp_pair (s : State) (n : Nat) (x : CmpH) : (s.setCmp n x).pair = s.pair := rfl
@[simp] theorem State.setCmp_adcs (s : State) (n : Nat) (x : CmpH) : (s.setCmp n x).adcs = s.adcs := rfl
@[simp] theorem State.setCmp_sys (s : State) (n : Nat) (x : CmpH) : (s.setCmp n x).sys = s.sys := rfl
@[simp] theorem State.setCmp_tts (s : State) (n : Nat) (x : CmpH) : (s.setCmp n x).tts = s.tts := rfl
@[simp] theorem State.setCmp_trigq (s : State) (n : Nat) (x : CmpH) : (s.setCmp n x).trigq = s.trigq := rfl
@[simp] theorem State.setCmp_age (s : State) (n : Nat) (x : CmpH) : (s.setCmp n x).age = s.age := rfl
@[simp] theorem State.setCmp_isl (s : State) (n : Nat) (x : CmpH) : (s.setCmp n x).isl = s.isl := rfl
@[simp] theorem State.setCmp_eths (s : State) (n : Nat) (x : CmpH) : (s.setCmp n x).eths = s.eths := rfl
@[simp] theorem State.setCmp_cans (s : State) (n : Nat) (x : CmpH) : (s.setCmp n x).cans = s.cans := rfl
@[simp] theorem State.setCmp_sec (s : State) (n : Nat) (x : CmpH) : (s.setCmp n x).sec = s.sec := rfl
@[simp] theorem State.setCmp_trc (s : State) (n : Nat) (x : CmpH) : (s.setCmp n x).trc = s.trc := rfl
@[simp] theorem State.setCmp_host (s : State) (n : Nat) (x : CmpH) : (s.setCmp n x).host = s.host := rfl
@[simp] theorem State.setCmp_reg (s : State) (n : Nat) (x : CmpH) (i : Nat) : (s.setCmp n x).reg i = s.reg i := rfl
@[simp] theorem State.setCmp_rd (s : State) (n : Nat) (x : CmpH) (g : Fld) : (s.setCmp n x).rd g = s.rd g := rfl
@[simp] theorem State.setCmp_on (s : State) (n : Nat) (x : CmpH) (g : Fld) : (s.setCmp n x).on g = s.on g := rfl
@[simp] theorem State.setCmp_byte (s : State) (n : Nat) (x : CmpH) (i : Nat) : (s.setCmp n x).byte i = s.byte i := rfl
@[simp] theorem State.setCmp_lane (s : State) (n : Nat) (x : CmpH) (i : Nat) : (s.setCmp n x).lane i = s.lane i := rfl
@[simp] theorem State.setCmp_chain (s : State) (n : Nat) (x : CmpH) (i : Nat) : (s.setCmp n x).chain i = s.chain i := rfl
@[simp] theorem State.setCmp_cell (s : State) (n : Nat) (x : CmpH) (i : Nat) : (s.setCmp n x).cell i = s.cell i := rfl
@[simp] theorem State.setCmp_cstE (s : State) (n : Nat) (x : CmpH) (i : Nat) : (s.setCmp n x).cstE i = s.cstE i := rfl
@[simp] theorem State.setCmp_node (s : State) (n : Nat) (x : CmpH) (i : Nat) : (s.setCmp n x).node i = s.node i := rfl
@[simp] theorem State.setCmp_chan (s : State) (n : Nat) (x : CmpH) (i : Nat) : (s.setCmp n x).chan i = s.chan i := rfl
@[simp] theorem State.setCmp_plan (s : State) (n : Nat) (x : CmpH) (i : Nat) : (s.setCmp n x).plan i = s.plan i := rfl
@[simp] theorem State.setCmp_lp (s : State) (n : Nat) (x : CmpH) (i : Nat) : (s.setCmp n x).lp i = s.lp i := rfl
@[simp] theorem State.setCmp_core (s : State) (n : Nat) (x : CmpH) (i : Nat) : (s.setCmp n x).core i = s.core i := rfl
@[simp] theorem State.setCmp_eng (s : State) (n : Nat) (x : CmpH) (i : Nat) : (s.setCmp n x).eng i = s.eng i := rfl
@[simp] theorem State.setCmp_pc (s : State) (n : Nat) (x : CmpH) (i : Nat) : (s.setCmp n x).pc i = s.pc i := rfl
@[simp] theorem State.setCmp_adc (s : State) (n : Nat) (x : CmpH) (i : Nat) : (s.setCmp n x).adc i = s.adc i := rfl
@[simp] theorem State.setCmp_cmp (s : State) (n : Nat) (x : CmpH) (i : Nat) : (s.setCmp n x).cmp i = if i = n then x else s.cmp i := by
  split
  · next h => subst h; exact Tbl.get_set_self _ _ _ _
  · next h => exact Tbl.get_set_ne _ _ h _
@[simp] theorem State.setCmp_tt (s : State) (n : Nat) (x : CmpH) (i : Nat) : (s.setCmp n x).tt i = s.tt i := rfl
@[simp] theorem State.setCmp_eth (s : State) (n : Nat) (x : CmpH) (i : Nat) : (s.setCmp n x).eth i = s.eth i := rfl
@[simp] theorem State.setCmp_can (s : State) (n : Nat) (x : CmpH) (i : Nat) : (s.setCmp n x).can i = s.can i := rfl
@[simp] theorem State.setCmp_fqOf (s : State) (n : Nat) (x : CmpH) (i : Nat) : (s.setCmp n x).fqOf i = s.fqOf i := rfl

/-! ### setTt -/

@[simp] theorem State.setTt_pending (s : State) (n : Nat) (x : TtH) : (s.setTt n x).pending = s.pending := rfl
@[simp] theorem State.setTt_free (s : State) (n : Nat) (x : TtH) : (s.setTt n x).free = s.free := rfl
@[simp] theorem State.setTt_regs (s : State) (n : Nat) (x : TtH) : (s.setTt n x).regs = s.regs := rfl
@[simp] theorem State.setTt_mem (s : State) (n : Nat) (x : TtH) : (s.setTt n x).mem = s.mem := rfl
@[simp] theorem State.setTt_tb (s : State) (n : Nat) (x : TtH) : (s.setTt n x).tb = s.tb := rfl
@[simp] theorem State.setTt_frames (s : State) (n : Nat) (x : TtH) : (s.setTt n x).frames = s.frames := rfl
@[simp] theorem State.setTt_fq (s : State) (n : Nat) (x : TtH) : (s.setTt n x).fq = s.fq := rfl
@[simp] theorem State.setTt_wired (s : State) (n : Nat) (x : TtH) : (s.setTt n x).wired = s.wired := rfl
@[simp] theorem State.setTt_grid (s : State) (n : Nat) (x : TtH) : (s.setTt n x).grid = s.grid := rfl
@[simp] theorem State.setTt_lanes (s : State) (n : Nat) (x : TtH) : (s.setTt n x).lanes = s.lanes := rfl
@[simp] theorem State.setTt_chains (s : State) (n : Nat) (x : TtH) : (s.setTt n x).chains = s.chains := rfl
@[simp] theorem State.setTt_cells (s : State) (n : Nat) (x : TtH) : (s.setTt n x).cells = s.cells := rfl
@[simp] theorem State.setTt_cst (s : State) (n : Nat) (x : TtH) : (s.setTt n x).cst = s.cst := rfl
@[simp] theorem State.setTt_nodes (s : State) (n : Nat) (x : TtH) : (s.setTt n x).nodes = s.nodes := rfl
@[simp] theorem State.setTt_chans (s : State) (n : Nat) (x : TtH) : (s.setTt n x).chans = s.chans := rfl
@[simp] theorem State.setTt_plans (s : State) (n : Nat) (x : TtH) : (s.setTt n x).plans = s.plans := rfl
@[simp] theorem State.setTt_starved (s : State) (n : Nat) (x : TtH) : (s.setTt n x).starved = s.starved := rfl
@[simp] theorem State.setTt_aux (s : State) (n : Nat) (x : TtH) : (s.setTt n x).aux = s.aux := rfl
@[simp] theorem State.setTt_modA (s : State) (n : Nat) (x : TtH) : (s.setTt n x).modA = s.modA := rfl
@[simp] theorem State.setTt_lpwm (s : State) (n : Nat) (x : TtH) : (s.setTt n x).lpwm = s.lpwm := rfl
@[simp] theorem State.setTt_cores (s : State) (n : Nat) (x : TtH) : (s.setTt n x).cores = s.cores := rfl
@[simp] theorem State.setTt_engs (s : State) (n : Nat) (x : TtH) : (s.setTt n x).engs = s.engs := rfl
@[simp] theorem State.setTt_protc (s : State) (n : Nat) (x : TtH) : (s.setTt n x).protc = s.protc := rfl
@[simp] theorem State.setTt_prot (s : State) (n : Nat) (x : TtH) : (s.setTt n x).prot = s.prot := rfl
@[simp] theorem State.setTt_pair (s : State) (n : Nat) (x : TtH) : (s.setTt n x).pair = s.pair := rfl
@[simp] theorem State.setTt_adcs (s : State) (n : Nat) (x : TtH) : (s.setTt n x).adcs = s.adcs := rfl
@[simp] theorem State.setTt_cmps (s : State) (n : Nat) (x : TtH) : (s.setTt n x).cmps = s.cmps := rfl
@[simp] theorem State.setTt_sys (s : State) (n : Nat) (x : TtH) : (s.setTt n x).sys = s.sys := rfl
@[simp] theorem State.setTt_trigq (s : State) (n : Nat) (x : TtH) : (s.setTt n x).trigq = s.trigq := rfl
@[simp] theorem State.setTt_age (s : State) (n : Nat) (x : TtH) : (s.setTt n x).age = s.age := rfl
@[simp] theorem State.setTt_isl (s : State) (n : Nat) (x : TtH) : (s.setTt n x).isl = s.isl := rfl
@[simp] theorem State.setTt_eths (s : State) (n : Nat) (x : TtH) : (s.setTt n x).eths = s.eths := rfl
@[simp] theorem State.setTt_cans (s : State) (n : Nat) (x : TtH) : (s.setTt n x).cans = s.cans := rfl
@[simp] theorem State.setTt_sec (s : State) (n : Nat) (x : TtH) : (s.setTt n x).sec = s.sec := rfl
@[simp] theorem State.setTt_trc (s : State) (n : Nat) (x : TtH) : (s.setTt n x).trc = s.trc := rfl
@[simp] theorem State.setTt_host (s : State) (n : Nat) (x : TtH) : (s.setTt n x).host = s.host := rfl
@[simp] theorem State.setTt_reg (s : State) (n : Nat) (x : TtH) (i : Nat) : (s.setTt n x).reg i = s.reg i := rfl
@[simp] theorem State.setTt_rd (s : State) (n : Nat) (x : TtH) (g : Fld) : (s.setTt n x).rd g = s.rd g := rfl
@[simp] theorem State.setTt_on (s : State) (n : Nat) (x : TtH) (g : Fld) : (s.setTt n x).on g = s.on g := rfl
@[simp] theorem State.setTt_byte (s : State) (n : Nat) (x : TtH) (i : Nat) : (s.setTt n x).byte i = s.byte i := rfl
@[simp] theorem State.setTt_lane (s : State) (n : Nat) (x : TtH) (i : Nat) : (s.setTt n x).lane i = s.lane i := rfl
@[simp] theorem State.setTt_chain (s : State) (n : Nat) (x : TtH) (i : Nat) : (s.setTt n x).chain i = s.chain i := rfl
@[simp] theorem State.setTt_cell (s : State) (n : Nat) (x : TtH) (i : Nat) : (s.setTt n x).cell i = s.cell i := rfl
@[simp] theorem State.setTt_cstE (s : State) (n : Nat) (x : TtH) (i : Nat) : (s.setTt n x).cstE i = s.cstE i := rfl
@[simp] theorem State.setTt_node (s : State) (n : Nat) (x : TtH) (i : Nat) : (s.setTt n x).node i = s.node i := rfl
@[simp] theorem State.setTt_chan (s : State) (n : Nat) (x : TtH) (i : Nat) : (s.setTt n x).chan i = s.chan i := rfl
@[simp] theorem State.setTt_plan (s : State) (n : Nat) (x : TtH) (i : Nat) : (s.setTt n x).plan i = s.plan i := rfl
@[simp] theorem State.setTt_lp (s : State) (n : Nat) (x : TtH) (i : Nat) : (s.setTt n x).lp i = s.lp i := rfl
@[simp] theorem State.setTt_core (s : State) (n : Nat) (x : TtH) (i : Nat) : (s.setTt n x).core i = s.core i := rfl
@[simp] theorem State.setTt_eng (s : State) (n : Nat) (x : TtH) (i : Nat) : (s.setTt n x).eng i = s.eng i := rfl
@[simp] theorem State.setTt_pc (s : State) (n : Nat) (x : TtH) (i : Nat) : (s.setTt n x).pc i = s.pc i := rfl
@[simp] theorem State.setTt_adc (s : State) (n : Nat) (x : TtH) (i : Nat) : (s.setTt n x).adc i = s.adc i := rfl
@[simp] theorem State.setTt_cmp (s : State) (n : Nat) (x : TtH) (i : Nat) : (s.setTt n x).cmp i = s.cmp i := rfl
@[simp] theorem State.setTt_tt (s : State) (n : Nat) (x : TtH) (i : Nat) : (s.setTt n x).tt i = if i = n then x else s.tt i := by
  split
  · next h => subst h; exact Tbl.get_set_self _ _ _ _
  · next h => exact Tbl.get_set_ne _ _ h _
@[simp] theorem State.setTt_eth (s : State) (n : Nat) (x : TtH) (i : Nat) : (s.setTt n x).eth i = s.eth i := rfl
@[simp] theorem State.setTt_can (s : State) (n : Nat) (x : TtH) (i : Nat) : (s.setTt n x).can i = s.can i := rfl
@[simp] theorem State.setTt_fqOf (s : State) (n : Nat) (x : TtH) (i : Nat) : (s.setTt n x).fqOf i = s.fqOf i := rfl

/-! ### setEth -/

@[simp] theorem State.setEth_pending (s : State) (n : Nat) (x : EthH) : (s.setEth n x).pending = s.pending := rfl
@[simp] theorem State.setEth_free (s : State) (n : Nat) (x : EthH) : (s.setEth n x).free = s.free := rfl
@[simp] theorem State.setEth_regs (s : State) (n : Nat) (x : EthH) : (s.setEth n x).regs = s.regs := rfl
@[simp] theorem State.setEth_mem (s : State) (n : Nat) (x : EthH) : (s.setEth n x).mem = s.mem := rfl
@[simp] theorem State.setEth_tb (s : State) (n : Nat) (x : EthH) : (s.setEth n x).tb = s.tb := rfl
@[simp] theorem State.setEth_frames (s : State) (n : Nat) (x : EthH) : (s.setEth n x).frames = s.frames := rfl
@[simp] theorem State.setEth_fq (s : State) (n : Nat) (x : EthH) : (s.setEth n x).fq = s.fq := rfl
@[simp] theorem State.setEth_wired (s : State) (n : Nat) (x : EthH) : (s.setEth n x).wired = s.wired := rfl
@[simp] theorem State.setEth_grid (s : State) (n : Nat) (x : EthH) : (s.setEth n x).grid = s.grid := rfl
@[simp] theorem State.setEth_lanes (s : State) (n : Nat) (x : EthH) : (s.setEth n x).lanes = s.lanes := rfl
@[simp] theorem State.setEth_chains (s : State) (n : Nat) (x : EthH) : (s.setEth n x).chains = s.chains := rfl
@[simp] theorem State.setEth_cells (s : State) (n : Nat) (x : EthH) : (s.setEth n x).cells = s.cells := rfl
@[simp] theorem State.setEth_cst (s : State) (n : Nat) (x : EthH) : (s.setEth n x).cst = s.cst := rfl
@[simp] theorem State.setEth_nodes (s : State) (n : Nat) (x : EthH) : (s.setEth n x).nodes = s.nodes := rfl
@[simp] theorem State.setEth_chans (s : State) (n : Nat) (x : EthH) : (s.setEth n x).chans = s.chans := rfl
@[simp] theorem State.setEth_plans (s : State) (n : Nat) (x : EthH) : (s.setEth n x).plans = s.plans := rfl
@[simp] theorem State.setEth_starved (s : State) (n : Nat) (x : EthH) : (s.setEth n x).starved = s.starved := rfl
@[simp] theorem State.setEth_aux (s : State) (n : Nat) (x : EthH) : (s.setEth n x).aux = s.aux := rfl
@[simp] theorem State.setEth_modA (s : State) (n : Nat) (x : EthH) : (s.setEth n x).modA = s.modA := rfl
@[simp] theorem State.setEth_lpwm (s : State) (n : Nat) (x : EthH) : (s.setEth n x).lpwm = s.lpwm := rfl
@[simp] theorem State.setEth_cores (s : State) (n : Nat) (x : EthH) : (s.setEth n x).cores = s.cores := rfl
@[simp] theorem State.setEth_engs (s : State) (n : Nat) (x : EthH) : (s.setEth n x).engs = s.engs := rfl
@[simp] theorem State.setEth_protc (s : State) (n : Nat) (x : EthH) : (s.setEth n x).protc = s.protc := rfl
@[simp] theorem State.setEth_prot (s : State) (n : Nat) (x : EthH) : (s.setEth n x).prot = s.prot := rfl
@[simp] theorem State.setEth_pair (s : State) (n : Nat) (x : EthH) : (s.setEth n x).pair = s.pair := rfl
@[simp] theorem State.setEth_adcs (s : State) (n : Nat) (x : EthH) : (s.setEth n x).adcs = s.adcs := rfl
@[simp] theorem State.setEth_cmps (s : State) (n : Nat) (x : EthH) : (s.setEth n x).cmps = s.cmps := rfl
@[simp] theorem State.setEth_sys (s : State) (n : Nat) (x : EthH) : (s.setEth n x).sys = s.sys := rfl
@[simp] theorem State.setEth_tts (s : State) (n : Nat) (x : EthH) : (s.setEth n x).tts = s.tts := rfl
@[simp] theorem State.setEth_trigq (s : State) (n : Nat) (x : EthH) : (s.setEth n x).trigq = s.trigq := rfl
@[simp] theorem State.setEth_age (s : State) (n : Nat) (x : EthH) : (s.setEth n x).age = s.age := rfl
@[simp] theorem State.setEth_isl (s : State) (n : Nat) (x : EthH) : (s.setEth n x).isl = s.isl := rfl
@[simp] theorem State.setEth_cans (s : State) (n : Nat) (x : EthH) : (s.setEth n x).cans = s.cans := rfl
@[simp] theorem State.setEth_sec (s : State) (n : Nat) (x : EthH) : (s.setEth n x).sec = s.sec := rfl
@[simp] theorem State.setEth_trc (s : State) (n : Nat) (x : EthH) : (s.setEth n x).trc = s.trc := rfl
@[simp] theorem State.setEth_host (s : State) (n : Nat) (x : EthH) : (s.setEth n x).host = s.host := rfl
@[simp] theorem State.setEth_reg (s : State) (n : Nat) (x : EthH) (i : Nat) : (s.setEth n x).reg i = s.reg i := rfl
@[simp] theorem State.setEth_rd (s : State) (n : Nat) (x : EthH) (g : Fld) : (s.setEth n x).rd g = s.rd g := rfl
@[simp] theorem State.setEth_on (s : State) (n : Nat) (x : EthH) (g : Fld) : (s.setEth n x).on g = s.on g := rfl
@[simp] theorem State.setEth_byte (s : State) (n : Nat) (x : EthH) (i : Nat) : (s.setEth n x).byte i = s.byte i := rfl
@[simp] theorem State.setEth_lane (s : State) (n : Nat) (x : EthH) (i : Nat) : (s.setEth n x).lane i = s.lane i := rfl
@[simp] theorem State.setEth_chain (s : State) (n : Nat) (x : EthH) (i : Nat) : (s.setEth n x).chain i = s.chain i := rfl
@[simp] theorem State.setEth_cell (s : State) (n : Nat) (x : EthH) (i : Nat) : (s.setEth n x).cell i = s.cell i := rfl
@[simp] theorem State.setEth_cstE (s : State) (n : Nat) (x : EthH) (i : Nat) : (s.setEth n x).cstE i = s.cstE i := rfl
@[simp] theorem State.setEth_node (s : State) (n : Nat) (x : EthH) (i : Nat) : (s.setEth n x).node i = s.node i := rfl
@[simp] theorem State.setEth_chan (s : State) (n : Nat) (x : EthH) (i : Nat) : (s.setEth n x).chan i = s.chan i := rfl
@[simp] theorem State.setEth_plan (s : State) (n : Nat) (x : EthH) (i : Nat) : (s.setEth n x).plan i = s.plan i := rfl
@[simp] theorem State.setEth_lp (s : State) (n : Nat) (x : EthH) (i : Nat) : (s.setEth n x).lp i = s.lp i := rfl
@[simp] theorem State.setEth_core (s : State) (n : Nat) (x : EthH) (i : Nat) : (s.setEth n x).core i = s.core i := rfl
@[simp] theorem State.setEth_eng (s : State) (n : Nat) (x : EthH) (i : Nat) : (s.setEth n x).eng i = s.eng i := rfl
@[simp] theorem State.setEth_pc (s : State) (n : Nat) (x : EthH) (i : Nat) : (s.setEth n x).pc i = s.pc i := rfl
@[simp] theorem State.setEth_adc (s : State) (n : Nat) (x : EthH) (i : Nat) : (s.setEth n x).adc i = s.adc i := rfl
@[simp] theorem State.setEth_cmp (s : State) (n : Nat) (x : EthH) (i : Nat) : (s.setEth n x).cmp i = s.cmp i := rfl
@[simp] theorem State.setEth_tt (s : State) (n : Nat) (x : EthH) (i : Nat) : (s.setEth n x).tt i = s.tt i := rfl
@[simp] theorem State.setEth_eth (s : State) (n : Nat) (x : EthH) (i : Nat) : (s.setEth n x).eth i = if i = n then x else s.eth i := by
  split
  · next h => subst h; exact Tbl.get_set_self _ _ _ _
  · next h => exact Tbl.get_set_ne _ _ h _
@[simp] theorem State.setEth_can (s : State) (n : Nat) (x : EthH) (i : Nat) : (s.setEth n x).can i = s.can i := rfl
@[simp] theorem State.setEth_fqOf (s : State) (n : Nat) (x : EthH) (i : Nat) : (s.setEth n x).fqOf i = s.fqOf i := rfl

/-! ### setCan -/

@[simp] theorem State.setCan_pending (s : State) (n : Nat) (x : CanH) : (s.setCan n x).pending = s.pending := rfl
@[simp] theorem State.setCan_free (s : State) (n : Nat) (x : CanH) : (s.setCan n x).free = s.free := rfl
@[simp] theorem State.setCan_regs (s : State) (n : Nat) (x : CanH) : (s.setCan n x).regs = s.regs := rfl
@[simp] theorem State.setCan_mem (s : State) (n : Nat) (x : CanH) : (s.setCan n x).mem = s.mem := rfl
@[simp] theorem State.setCan_tb (s : State) (n : Nat) (x : CanH) : (s.setCan n x).tb = s.tb := rfl
@[simp] theorem State.setCan_frames (s : State) (n : Nat) (x : CanH) : (s.setCan n x).frames = s.frames := rfl
@[simp] theorem State.setCan_fq (s : State) (n : Nat) (x : CanH) : (s.setCan n x).fq = s.fq := rfl
@[simp] theorem State.setCan_wired (s : State) (n : Nat) (x : CanH) : (s.setCan n x).wired = s.wired := rfl
@[simp] theorem State.setCan_grid (s : State) (n : Nat) (x : CanH) : (s.setCan n x).grid = s.grid := rfl
@[simp] theorem State.setCan_lanes (s : State) (n : Nat) (x : CanH) : (s.setCan n x).lanes = s.lanes := rfl
@[simp] theorem State.setCan_chains (s : State) (n : Nat) (x : CanH) : (s.setCan n x).chains = s.chains := rfl
@[simp] theorem State.setCan_cells (s : State) (n : Nat) (x : CanH) : (s.setCan n x).cells = s.cells := rfl
@[simp] theorem State.setCan_cst (s : State) (n : Nat) (x : CanH) : (s.setCan n x).cst = s.cst := rfl
@[simp] theorem State.setCan_nodes (s : State) (n : Nat) (x : CanH) : (s.setCan n x).nodes = s.nodes := rfl
@[simp] theorem State.setCan_chans (s : State) (n : Nat) (x : CanH) : (s.setCan n x).chans = s.chans := rfl
@[simp] theorem State.setCan_plans (s : State) (n : Nat) (x : CanH) : (s.setCan n x).plans = s.plans := rfl
@[simp] theorem State.setCan_starved (s : State) (n : Nat) (x : CanH) : (s.setCan n x).starved = s.starved := rfl
@[simp] theorem State.setCan_aux (s : State) (n : Nat) (x : CanH) : (s.setCan n x).aux = s.aux := rfl
@[simp] theorem State.setCan_modA (s : State) (n : Nat) (x : CanH) : (s.setCan n x).modA = s.modA := rfl
@[simp] theorem State.setCan_lpwm (s : State) (n : Nat) (x : CanH) : (s.setCan n x).lpwm = s.lpwm := rfl
@[simp] theorem State.setCan_cores (s : State) (n : Nat) (x : CanH) : (s.setCan n x).cores = s.cores := rfl
@[simp] theorem State.setCan_engs (s : State) (n : Nat) (x : CanH) : (s.setCan n x).engs = s.engs := rfl
@[simp] theorem State.setCan_protc (s : State) (n : Nat) (x : CanH) : (s.setCan n x).protc = s.protc := rfl
@[simp] theorem State.setCan_prot (s : State) (n : Nat) (x : CanH) : (s.setCan n x).prot = s.prot := rfl
@[simp] theorem State.setCan_pair (s : State) (n : Nat) (x : CanH) : (s.setCan n x).pair = s.pair := rfl
@[simp] theorem State.setCan_adcs (s : State) (n : Nat) (x : CanH) : (s.setCan n x).adcs = s.adcs := rfl
@[simp] theorem State.setCan_cmps (s : State) (n : Nat) (x : CanH) : (s.setCan n x).cmps = s.cmps := rfl
@[simp] theorem State.setCan_sys (s : State) (n : Nat) (x : CanH) : (s.setCan n x).sys = s.sys := rfl
@[simp] theorem State.setCan_tts (s : State) (n : Nat) (x : CanH) : (s.setCan n x).tts = s.tts := rfl
@[simp] theorem State.setCan_trigq (s : State) (n : Nat) (x : CanH) : (s.setCan n x).trigq = s.trigq := rfl
@[simp] theorem State.setCan_age (s : State) (n : Nat) (x : CanH) : (s.setCan n x).age = s.age := rfl
@[simp] theorem State.setCan_isl (s : State) (n : Nat) (x : CanH) : (s.setCan n x).isl = s.isl := rfl
@[simp] theorem State.setCan_eths (s : State) (n : Nat) (x : CanH) : (s.setCan n x).eths = s.eths := rfl
@[simp] theorem State.setCan_sec (s : State) (n : Nat) (x : CanH) : (s.setCan n x).sec = s.sec := rfl
@[simp] theorem State.setCan_trc (s : State) (n : Nat) (x : CanH) : (s.setCan n x).trc = s.trc := rfl
@[simp] theorem State.setCan_host (s : State) (n : Nat) (x : CanH) : (s.setCan n x).host = s.host := rfl
@[simp] theorem State.setCan_reg (s : State) (n : Nat) (x : CanH) (i : Nat) : (s.setCan n x).reg i = s.reg i := rfl
@[simp] theorem State.setCan_rd (s : State) (n : Nat) (x : CanH) (g : Fld) : (s.setCan n x).rd g = s.rd g := rfl
@[simp] theorem State.setCan_on (s : State) (n : Nat) (x : CanH) (g : Fld) : (s.setCan n x).on g = s.on g := rfl
@[simp] theorem State.setCan_byte (s : State) (n : Nat) (x : CanH) (i : Nat) : (s.setCan n x).byte i = s.byte i := rfl
@[simp] theorem State.setCan_lane (s : State) (n : Nat) (x : CanH) (i : Nat) : (s.setCan n x).lane i = s.lane i := rfl
@[simp] theorem State.setCan_chain (s : State) (n : Nat) (x : CanH) (i : Nat) : (s.setCan n x).chain i = s.chain i := rfl
@[simp] theorem State.setCan_cell (s : State) (n : Nat) (x : CanH) (i : Nat) : (s.setCan n x).cell i = s.cell i := rfl
@[simp] theorem State.setCan_cstE (s : State) (n : Nat) (x : CanH) (i : Nat) : (s.setCan n x).cstE i = s.cstE i := rfl
@[simp] theorem State.setCan_node (s : State) (n : Nat) (x : CanH) (i : Nat) : (s.setCan n x).node i = s.node i := rfl
@[simp] theorem State.setCan_chan (s : State) (n : Nat) (x : CanH) (i : Nat) : (s.setCan n x).chan i = s.chan i := rfl
@[simp] theorem State.setCan_plan (s : State) (n : Nat) (x : CanH) (i : Nat) : (s.setCan n x).plan i = s.plan i := rfl
@[simp] theorem State.setCan_lp (s : State) (n : Nat) (x : CanH) (i : Nat) : (s.setCan n x).lp i = s.lp i := rfl
@[simp] theorem State.setCan_core (s : State) (n : Nat) (x : CanH) (i : Nat) : (s.setCan n x).core i = s.core i := rfl
@[simp] theorem State.setCan_eng (s : State) (n : Nat) (x : CanH) (i : Nat) : (s.setCan n x).eng i = s.eng i := rfl
@[simp] theorem State.setCan_pc (s : State) (n : Nat) (x : CanH) (i : Nat) : (s.setCan n x).pc i = s.pc i := rfl
@[simp] theorem State.setCan_adc (s : State) (n : Nat) (x : CanH) (i : Nat) : (s.setCan n x).adc i = s.adc i := rfl
@[simp] theorem State.setCan_cmp (s : State) (n : Nat) (x : CanH) (i : Nat) : (s.setCan n x).cmp i = s.cmp i := rfl
@[simp] theorem State.setCan_tt (s : State) (n : Nat) (x : CanH) (i : Nat) : (s.setCan n x).tt i = s.tt i := rfl
@[simp] theorem State.setCan_eth (s : State) (n : Nat) (x : CanH) (i : Nat) : (s.setCan n x).eth i = s.eth i := rfl
@[simp] theorem State.setCan_can (s : State) (n : Nat) (x : CanH) (i : Nat) : (s.setCan n x).can i = if i = n then x else s.can i := by
  split
  · next h => subst h; exact Tbl.get_set_self _ _ _ _
  · next h => exact Tbl.get_set_ne _ _ h _
@[simp] theorem State.setCan_fqOf (s : State) (n : Nat) (x : CanH) (i : Nat) : (s.setCan n x).fqOf i = s.fqOf i := rfl

/-! ### setFq -/

@[simp] theorem State.setFq_pending (s : State) (n : Nat) (x : FaultQ) : (s.setFq n x).pending = s.pending := rfl
@[simp] theorem State.setFq_free (s : State) (n : Nat) (x : FaultQ) : (s.setFq n x).free = s.free := rfl
@[simp] theorem State.setFq_regs (s : State) (n : Nat) (x : FaultQ) : (s.setFq n x).regs = s.regs := rfl
@[simp] theorem State.setFq_mem (s : State) (n : Nat) (x : FaultQ) : (s.setFq n x).mem = s.mem := rfl
@[simp] theorem State.setFq_tb (s : State) (n : Nat) (x : FaultQ) : (s.setFq n x).tb = s.tb := rfl
@[simp] theorem State.setFq_frames (s : State) (n : Nat) (x : FaultQ) : (s.setFq n x).frames = s.frames := rfl
@[simp] theorem State.setFq_wired (s : State) (n : Nat) (x : FaultQ) : (s.setFq n x).wired = s.wired := rfl
@[simp] theorem State.setFq_grid (s : State) (n : Nat) (x : FaultQ) : (s.setFq n x).grid = s.grid := rfl
@[simp] theorem State.setFq_lanes (s : State) (n : Nat) (x : FaultQ) : (s.setFq n x).lanes = s.lanes := rfl
@[simp] theorem State.setFq_chains (s : State) (n : Nat) (x : FaultQ) : (s.setFq n x).chains = s.chains := rfl
@[simp] theorem State.setFq_cells (s : State) (n : Nat) (x : FaultQ) : (s.setFq n x).cells = s.cells := rfl
@[simp] theorem State.setFq_cst (s : State) (n : Nat) (x : FaultQ) : (s.setFq n x).cst = s.cst := rfl
@[simp] theorem State.setFq_nodes (s : State) (n : Nat) (x : FaultQ) : (s.setFq n x).nodes = s.nodes := rfl
@[simp] theorem State.setFq_chans (s : State) (n : Nat) (x : FaultQ) : (s.setFq n x).chans = s.chans := rfl
@[simp] theorem State.setFq_plans (s : State) (n : Nat) (x : FaultQ) : (s.setFq n x).plans = s.plans := rfl
@[simp] theorem State.setFq_starved (s : State) (n : Nat) (x : FaultQ) : (s.setFq n x).starved = s.starved := rfl
@[simp] theorem State.setFq_aux (s : State) (n : Nat) (x : FaultQ) : (s.setFq n x).aux = s.aux := rfl
@[simp] theorem State.setFq_modA (s : State) (n : Nat) (x : FaultQ) : (s.setFq n x).modA = s.modA := rfl
@[simp] theorem State.setFq_lpwm (s : State) (n : Nat) (x : FaultQ) : (s.setFq n x).lpwm = s.lpwm := rfl
@[simp] theorem State.setFq_cores (s : State) (n : Nat) (x : FaultQ) : (s.setFq n x).cores = s.cores := rfl
@[simp] theorem State.setFq_engs (s : State) (n : Nat) (x : FaultQ) : (s.setFq n x).engs = s.engs := rfl
@[simp] theorem State.setFq_protc (s : State) (n : Nat) (x : FaultQ) : (s.setFq n x).protc = s.protc := rfl
@[simp] theorem State.setFq_prot (s : State) (n : Nat) (x : FaultQ) : (s.setFq n x).prot = s.prot := rfl
@[simp] theorem State.setFq_pair (s : State) (n : Nat) (x : FaultQ) : (s.setFq n x).pair = s.pair := rfl
@[simp] theorem State.setFq_adcs (s : State) (n : Nat) (x : FaultQ) : (s.setFq n x).adcs = s.adcs := rfl
@[simp] theorem State.setFq_cmps (s : State) (n : Nat) (x : FaultQ) : (s.setFq n x).cmps = s.cmps := rfl
@[simp] theorem State.setFq_sys (s : State) (n : Nat) (x : FaultQ) : (s.setFq n x).sys = s.sys := rfl
@[simp] theorem State.setFq_tts (s : State) (n : Nat) (x : FaultQ) : (s.setFq n x).tts = s.tts := rfl
@[simp] theorem State.setFq_trigq (s : State) (n : Nat) (x : FaultQ) : (s.setFq n x).trigq = s.trigq := rfl
@[simp] theorem State.setFq_age (s : State) (n : Nat) (x : FaultQ) : (s.setFq n x).age = s.age := rfl
@[simp] theorem State.setFq_isl (s : State) (n : Nat) (x : FaultQ) : (s.setFq n x).isl = s.isl := rfl
@[simp] theorem State.setFq_eths (s : State) (n : Nat) (x : FaultQ) : (s.setFq n x).eths = s.eths := rfl
@[simp] theorem State.setFq_cans (s : State) (n : Nat) (x : FaultQ) : (s.setFq n x).cans = s.cans := rfl
@[simp] theorem State.setFq_sec (s : State) (n : Nat) (x : FaultQ) : (s.setFq n x).sec = s.sec := rfl
@[simp] theorem State.setFq_trc (s : State) (n : Nat) (x : FaultQ) : (s.setFq n x).trc = s.trc := rfl
@[simp] theorem State.setFq_host (s : State) (n : Nat) (x : FaultQ) : (s.setFq n x).host = s.host := rfl
@[simp] theorem State.setFq_reg (s : State) (n : Nat) (x : FaultQ) (i : Nat) : (s.setFq n x).reg i = s.reg i := rfl
@[simp] theorem State.setFq_rd (s : State) (n : Nat) (x : FaultQ) (g : Fld) : (s.setFq n x).rd g = s.rd g := rfl
@[simp] theorem State.setFq_on (s : State) (n : Nat) (x : FaultQ) (g : Fld) : (s.setFq n x).on g = s.on g := rfl
@[simp] theorem State.setFq_byte (s : State) (n : Nat) (x : FaultQ) (i : Nat) : (s.setFq n x).byte i = s.byte i := rfl
@[simp] theorem State.setFq_lane (s : State) (n : Nat) (x : FaultQ) (i : Nat) : (s.setFq n x).lane i = s.lane i := rfl
@[simp] theorem State.setFq_chain (s : State) (n : Nat) (x : FaultQ) (i : Nat) : (s.setFq n x).chain i = s.chain i := rfl
@[simp] theorem State.setFq_cell (s : State) (n : Nat) (x : FaultQ) (i : Nat) : (s.setFq n x).cell i = s.cell i := rfl
@[simp] theorem State.setFq_cstE (s : State) (n : Nat) (x : FaultQ) (i : Nat) : (s.setFq n x).cstE i = s.cstE i := rfl
@[simp] theorem State.setFq_node (s : State) (n : Nat) (x : FaultQ) (i : Nat) : (s.setFq n x).node i = s.node i := rfl
@[simp] theorem State.setFq_chan (s : State) (n : Nat) (x : FaultQ) (i : Nat) : (s.setFq n x).chan i = s.chan i := rfl
@[simp] theorem State.setFq_plan (s : State) (n : Nat) (x : FaultQ) (i : Nat) : (s.setFq n x).plan i = s.plan i := rfl
@[simp] theorem State.setFq_lp (s : State) (n : Nat) (x : FaultQ) (i : Nat) : (s.setFq n x).lp i = s.lp i := rfl
@[simp] theorem State.setFq_core (s : State) (n : Nat) (x : FaultQ) (i : Nat) : (s.setFq n x).core i = s.core i := rfl
@[simp] theorem State.setFq_eng (s : State) (n : Nat) (x : FaultQ) (i : Nat) : (s.setFq n x).eng i = s.eng i := rfl
@[simp] theorem State.setFq_pc (s : State) (n : Nat) (x : FaultQ) (i : Nat) : (s.setFq n x).pc i = s.pc i := rfl
@[simp] theorem State.setFq_adc (s : State) (n : Nat) (x : FaultQ) (i : Nat) : (s.setFq n x).adc i = s.adc i := rfl
@[simp] theorem State.setFq_cmp (s : State) (n : Nat) (x : FaultQ) (i : Nat) : (s.setFq n x).cmp i = s.cmp i := rfl
@[simp] theorem State.setFq_tt (s : State) (n : Nat) (x : FaultQ) (i : Nat) : (s.setFq n x).tt i = s.tt i := rfl
@[simp] theorem State.setFq_eth (s : State) (n : Nat) (x : FaultQ) (i : Nat) : (s.setFq n x).eth i = s.eth i := rfl
@[simp] theorem State.setFq_can (s : State) (n : Nat) (x : FaultQ) (i : Nat) : (s.setFq n x).can i = s.can i := rfl
@[simp] theorem State.setFq_fqOf (s : State) (n : Nat) (x : FaultQ) (i : Nat) : (s.setFq n x).fqOf i = if i = n then x else s.fqOf i := by
  split
  · next h => subst h; exact Tbl.get_set_self _ _ _ _
  · next h => exact Tbl.get_set_ne _ _ h _

/-! ### setSec -/

@[simp] theorem State.setSec_pending (s : State) (x : SecH) : (s.setSec x).pending = s.pending := rfl
@[simp] theorem State.setSec_free (s : State) (x : SecH) : (s.setSec x).free = s.free := rfl
@[simp] theorem State.setSec_regs (s : State) (x : SecH) : (s.setSec x).regs = s.regs := rfl
@[simp] theorem State.setSec_mem (s : State) (x : SecH) : (s.setSec x).mem = s.mem := rfl
@[simp] theorem State.setSec_tb (s : State) (x : SecH) : (s.setSec x).tb = s.tb := rfl
@[simp] theorem State.setSec_frames (s : State) (x : SecH) : (s.setSec x).frames = s.frames := rfl
@[simp] theorem State.setSec_fq (s : State) (x : SecH) : (s.setSec x).fq = s.fq := rfl
@[simp] theorem State.setSec_wired (s : State) (x : SecH) : (s.setSec x).wired = s.wired := rfl
@[simp] theorem State.setSec_grid (s : State) (x : SecH) : (s.setSec x).grid = s.grid := rfl
@[simp] theorem State.setSec_lanes (s : State) (x : SecH) : (s.setSec x).lanes = s.lanes := rfl
@[simp] theorem State.setSec_chains (s : State) (x : SecH) : (s.setSec x).chains = s.chains := rfl
@[simp] theorem State.setSec_cells (s : State) (x : SecH) : (s.setSec x).cells = s.cells := rfl
@[simp] theorem State.setSec_cst (s : State) (x : SecH) : (s.setSec x).cst = s.cst := rfl
@[simp] theorem State.setSec_nodes (s : State) (x : SecH) : (s.setSec x).nodes = s.nodes := rfl
@[simp] theorem State.setSec_chans (s : State) (x : SecH) : (s.setSec x).chans = s.chans := rfl
@[simp] theorem State.setSec_plans (s : State) (x : SecH) : (s.setSec x).plans = s.plans := rfl
@[simp] theorem State.setSec_starved (s : State) (x : SecH) : (s.setSec x).starved = s.starved := rfl
@[simp] theorem State.setSec_aux (s : State) (x : SecH) : (s.setSec x).aux = s.aux := rfl
@[simp] theorem State.setSec_modA (s : State) (x : SecH) : (s.setSec x).modA = s.modA := rfl
@[simp] theorem State.setSec_lpwm (s : State) (x : SecH) : (s.setSec x).lpwm = s.lpwm := rfl
@[simp] theorem State.setSec_cores (s : State) (x : SecH) : (s.setSec x).cores = s.cores := rfl
@[simp] theorem State.setSec_engs (s : State) (x : SecH) : (s.setSec x).engs = s.engs := rfl
@[simp] theorem State.setSec_protc (s : State) (x : SecH) : (s.setSec x).protc = s.protc := rfl
@[simp] theorem State.setSec_prot (s : State) (x : SecH) : (s.setSec x).prot = s.prot := rfl
@[simp] theorem State.setSec_pair (s : State) (x : SecH) : (s.setSec x).pair = s.pair := rfl
@[simp] theorem State.setSec_adcs (s : State) (x : SecH) : (s.setSec x).adcs = s.adcs := rfl
@[simp] theorem State.setSec_cmps (s : State) (x : SecH) : (s.setSec x).cmps = s.cmps := rfl
@[simp] theorem State.setSec_sys (s : State) (x : SecH) : (s.setSec x).sys = s.sys := rfl
@[simp] theorem State.setSec_tts (s : State) (x : SecH) : (s.setSec x).tts = s.tts := rfl
@[simp] theorem State.setSec_trigq (s : State) (x : SecH) : (s.setSec x).trigq = s.trigq := rfl
@[simp] theorem State.setSec_age (s : State) (x : SecH) : (s.setSec x).age = s.age := rfl
@[simp] theorem State.setSec_isl (s : State) (x : SecH) : (s.setSec x).isl = s.isl := rfl
@[simp] theorem State.setSec_eths (s : State) (x : SecH) : (s.setSec x).eths = s.eths := rfl
@[simp] theorem State.setSec_cans (s : State) (x : SecH) : (s.setSec x).cans = s.cans := rfl
@[simp] theorem State.setSec_trc (s : State) (x : SecH) : (s.setSec x).trc = s.trc := rfl
@[simp] theorem State.setSec_host (s : State) (x : SecH) : (s.setSec x).host = s.host := rfl
@[simp] theorem State.setSec_reg (s : State) (x : SecH) (i : Nat) : (s.setSec x).reg i = s.reg i := rfl
@[simp] theorem State.setSec_rd (s : State) (x : SecH) (g : Fld) : (s.setSec x).rd g = s.rd g := rfl
@[simp] theorem State.setSec_on (s : State) (x : SecH) (g : Fld) : (s.setSec x).on g = s.on g := rfl
@[simp] theorem State.setSec_byte (s : State) (x : SecH) (i : Nat) : (s.setSec x).byte i = s.byte i := rfl
@[simp] theorem State.setSec_lane (s : State) (x : SecH) (i : Nat) : (s.setSec x).lane i = s.lane i := rfl
@[simp] theorem State.setSec_chain (s : State) (x : SecH) (i : Nat) : (s.setSec x).chain i = s.chain i := rfl
@[simp] theorem State.setSec_cell (s : State) (x : SecH) (i : Nat) : (s.setSec x).cell i = s.cell i := rfl
@[simp] theorem State.setSec_cstE (s : State) (x : SecH) (i : Nat) : (s.setSec x).cstE i = s.cstE i := rfl
@[simp] theorem State.setSec_node (s : State) (x : SecH) (i : Nat) : (s.setSec x).node i = s.node i := rfl
@[simp] theorem State.setSec_chan (s : State) (x : SecH) (i : Nat) : (s.setSec x).chan i = s.chan i := rfl
@[simp] theorem State.setSec_plan (s : State) (x : SecH) (i : Nat) : (s.setSec x).plan i = s.plan i := rfl
@[simp] theorem State.setSec_lp (s : State) (x : SecH) (i : Nat) : (s.setSec x).lp i = s.lp i := rfl
@[simp] theorem State.setSec_core (s : State) (x : SecH) (i : Nat) : (s.setSec x).core i = s.core i := rfl
@[simp] theorem State.setSec_eng (s : State) (x : SecH) (i : Nat) : (s.setSec x).eng i = s.eng i := rfl
@[simp] theorem State.setSec_pc (s : State) (x : SecH) (i : Nat) : (s.setSec x).pc i = s.pc i := rfl
@[simp] theorem State.setSec_adc (s : State) (x : SecH) (i : Nat) : (s.setSec x).adc i = s.adc i := rfl
@[simp] theorem State.setSec_cmp (s : State) (x : SecH) (i : Nat) : (s.setSec x).cmp i = s.cmp i := rfl
@[simp] theorem State.setSec_tt (s : State) (x : SecH) (i : Nat) : (s.setSec x).tt i = s.tt i := rfl
@[simp] theorem State.setSec_eth (s : State) (x : SecH) (i : Nat) : (s.setSec x).eth i = s.eth i := rfl
@[simp] theorem State.setSec_can (s : State) (x : SecH) (i : Nat) : (s.setSec x).can i = s.can i := rfl
@[simp] theorem State.setSec_fqOf (s : State) (x : SecH) (i : Nat) : (s.setSec x).fqOf i = s.fqOf i := rfl

/-! ### setSys -/

@[simp] theorem State.setSys_pending (s : State) (x : SysH) : (s.setSys x).pending = s.pending := rfl
@[simp] theorem State.setSys_free (s : State) (x : SysH) : (s.setSys x).free = s.free := rfl
@[simp] theorem State.setSys_regs (s : State) (x : SysH) : (s.setSys x).regs = s.regs := rfl
@[simp] theorem State.setSys_mem (s : State) (x : SysH) : (s.setSys x).mem = s.mem := rfl
@[simp] theorem State.setSys_tb (s : State) (x : SysH) : (s.setSys x).tb = s.tb := rfl
@[simp] theorem State.setSys_frames (s : State) (x : SysH) : (s.setSys x).frames = s.frames := rfl
@[simp] theorem State.setSys_fq (s : State) (x : SysH) : (s.setSys x).fq = s.fq := rfl
@[simp] theorem State.setSys_wired (s : State) (x : SysH) : (s.setSys x).wired = s.wired := rfl
@[simp] theorem State.setSys_grid (s : State) (x : SysH) : (s.setSys x).grid = s.grid := rfl
@[simp] theorem State.setSys_lanes (s : State) (x : SysH) : (s.setSys x).lanes = s.lanes := rfl
@[simp] theorem State.setSys_chains (s : State) (x : SysH) : (s.setSys x).chains = s.chains := rfl
@[simp] theorem State.setSys_cells (s : State) (x : SysH) : (s.setSys x).cells = s.cells := rfl
@[simp] theorem State.setSys_cst (s : State) (x : SysH) : (s.setSys x).cst = s.cst := rfl
@[simp] theorem State.setSys_nodes (s : State) (x : SysH) : (s.setSys x).nodes = s.nodes := rfl
@[simp] theorem State.setSys_chans (s : State) (x : SysH) : (s.setSys x).chans = s.chans := rfl
@[simp] theorem State.setSys_plans (s : State) (x : SysH) : (s.setSys x).plans = s.plans := rfl
@[simp] theorem State.setSys_starved (s : State) (x : SysH) : (s.setSys x).starved = s.starved := rfl
@[simp] theorem State.setSys_aux (s : State) (x : SysH) : (s.setSys x).aux = s.aux := rfl
@[simp] theorem State.setSys_modA (s : State) (x : SysH) : (s.setSys x).modA = s.modA := rfl
@[simp] theorem State.setSys_lpwm (s : State) (x : SysH) : (s.setSys x).lpwm = s.lpwm := rfl
@[simp] theorem State.setSys_cores (s : State) (x : SysH) : (s.setSys x).cores = s.cores := rfl
@[simp] theorem State.setSys_engs (s : State) (x : SysH) : (s.setSys x).engs = s.engs := rfl
@[simp] theorem State.setSys_protc (s : State) (x : SysH) : (s.setSys x).protc = s.protc := rfl
@[simp] theorem State.setSys_prot (s : State) (x : SysH) : (s.setSys x).prot = s.prot := rfl
@[simp] theorem State.setSys_pair (s : State) (x : SysH) : (s.setSys x).pair = s.pair := rfl
@[simp] theorem State.setSys_adcs (s : State) (x : SysH) : (s.setSys x).adcs = s.adcs := rfl
@[simp] theorem State.setSys_cmps (s : State) (x : SysH) : (s.setSys x).cmps = s.cmps := rfl
@[simp] theorem State.setSys_tts (s : State) (x : SysH) : (s.setSys x).tts = s.tts := rfl
@[simp] theorem State.setSys_trigq (s : State) (x : SysH) : (s.setSys x).trigq = s.trigq := rfl
@[simp] theorem State.setSys_age (s : State) (x : SysH) : (s.setSys x).age = s.age := rfl
@[simp] theorem State.setSys_isl (s : State) (x : SysH) : (s.setSys x).isl = s.isl := rfl
@[simp] theorem State.setSys_eths (s : State) (x : SysH) : (s.setSys x).eths = s.eths := rfl
@[simp] theorem State.setSys_cans (s : State) (x : SysH) : (s.setSys x).cans = s.cans := rfl
@[simp] theorem State.setSys_sec (s : State) (x : SysH) : (s.setSys x).sec = s.sec := rfl
@[simp] theorem State.setSys_trc (s : State) (x : SysH) : (s.setSys x).trc = s.trc := rfl
@[simp] theorem State.setSys_host (s : State) (x : SysH) : (s.setSys x).host = s.host := rfl
@[simp] theorem State.setSys_reg (s : State) (x : SysH) (i : Nat) : (s.setSys x).reg i = s.reg i := rfl
@[simp] theorem State.setSys_rd (s : State) (x : SysH) (g : Fld) : (s.setSys x).rd g = s.rd g := rfl
@[simp] theorem State.setSys_on (s : State) (x : SysH) (g : Fld) : (s.setSys x).on g = s.on g := rfl
@[simp] theorem State.setSys_byte (s : State) (x : SysH) (i : Nat) : (s.setSys x).byte i = s.byte i := rfl
@[simp] theorem State.setSys_lane (s : State) (x : SysH) (i : Nat) : (s.setSys x).lane i = s.lane i := rfl
@[simp] theorem State.setSys_chain (s : State) (x : SysH) (i : Nat) : (s.setSys x).chain i = s.chain i := rfl
@[simp] theorem State.setSys_cell (s : State) (x : SysH) (i : Nat) : (s.setSys x).cell i = s.cell i := rfl
@[simp] theorem State.setSys_cstE (s : State) (x : SysH) (i : Nat) : (s.setSys x).cstE i = s.cstE i := rfl
@[simp] theorem State.setSys_node (s : State) (x : SysH) (i : Nat) : (s.setSys x).node i = s.node i := rfl
@[simp] theorem State.setSys_chan (s : State) (x : SysH) (i : Nat) : (s.setSys x).chan i = s.chan i := rfl
@[simp] theorem State.setSys_plan (s : State) (x : SysH) (i : Nat) : (s.setSys x).plan i = s.plan i := rfl
@[simp] theorem State.setSys_lp (s : State) (x : SysH) (i : Nat) : (s.setSys x).lp i = s.lp i := rfl
@[simp] theorem State.setSys_core (s : State) (x : SysH) (i : Nat) : (s.setSys x).core i = s.core i := rfl
@[simp] theorem State.setSys_eng (s : State) (x : SysH) (i : Nat) : (s.setSys x).eng i = s.eng i := rfl
@[simp] theorem State.setSys_pc (s : State) (x : SysH) (i : Nat) : (s.setSys x).pc i = s.pc i := rfl
@[simp] theorem State.setSys_adc (s : State) (x : SysH) (i : Nat) : (s.setSys x).adc i = s.adc i := rfl
@[simp] theorem State.setSys_cmp (s : State) (x : SysH) (i : Nat) : (s.setSys x).cmp i = s.cmp i := rfl
@[simp] theorem State.setSys_tt (s : State) (x : SysH) (i : Nat) : (s.setSys x).tt i = s.tt i := rfl
@[simp] theorem State.setSys_eth (s : State) (x : SysH) (i : Nat) : (s.setSys x).eth i = s.eth i := rfl
@[simp] theorem State.setSys_can (s : State) (x : SysH) (i : Nat) : (s.setSys x).can i = s.can i := rfl
@[simp] theorem State.setSys_fqOf (s : State) (x : SysH) (i : Nat) : (s.setSys x).fqOf i = s.fqOf i := rfl

/-! ### setIsl -/

@[simp] theorem State.setIsl_pending (s : State) (x : IslH) : (s.setIsl x).pending = s.pending := rfl
@[simp] theorem State.setIsl_free (s : State) (x : IslH) : (s.setIsl x).free = s.free := rfl
@[simp] theorem State.setIsl_regs (s : State) (x : IslH) : (s.setIsl x).regs = s.regs := rfl
@[simp] theorem State.setIsl_mem (s : State) (x : IslH) : (s.setIsl x).mem = s.mem := rfl
@[simp] theorem State.setIsl_tb (s : State) (x : IslH) : (s.setIsl x).tb = s.tb := rfl
@[simp] theorem State.setIsl_frames (s : State) (x : IslH) : (s.setIsl x).frames = s.frames := rfl
@[simp] theorem State.setIsl_fq (s : State) (x : IslH) : (s.setIsl x).fq = s.fq := rfl
@[simp] theorem State.setIsl_wired (s : State) (x : IslH) : (s.setIsl x).wired = s.wired := rfl
@[simp] theorem State.setIsl_grid (s : State) (x : IslH) : (s.setIsl x).grid = s.grid := rfl
@[simp] theorem State.setIsl_lanes (s : State) (x : IslH) : (s.setIsl x).lanes = s.lanes := rfl
@[simp] theorem State.setIsl_chains (s : State) (x : IslH) : (s.setIsl x).chains = s.chains := rfl
@[simp] theorem State.setIsl_cells (s : State) (x : IslH) : (s.setIsl x).cells = s.cells := rfl
@[simp] theorem State.setIsl_cst (s : State) (x : IslH) : (s.setIsl x).cst = s.cst := rfl
@[simp] theorem State.setIsl_nodes (s : State) (x : IslH) : (s.setIsl x).nodes = s.nodes := rfl
@[simp] theorem State.setIsl_chans (s : State) (x : IslH) : (s.setIsl x).chans = s.chans := rfl
@[simp] theorem State.setIsl_plans (s : State) (x : IslH) : (s.setIsl x).plans = s.plans := rfl
@[simp] theorem State.setIsl_starved (s : State) (x : IslH) : (s.setIsl x).starved = s.starved := rfl
@[simp] theorem State.setIsl_aux (s : State) (x : IslH) : (s.setIsl x).aux = s.aux := rfl
@[simp] theorem State.setIsl_modA (s : State) (x : IslH) : (s.setIsl x).modA = s.modA := rfl
@[simp] theorem State.setIsl_lpwm (s : State) (x : IslH) : (s.setIsl x).lpwm = s.lpwm := rfl
@[simp] theorem State.setIsl_cores (s : State) (x : IslH) : (s.setIsl x).cores = s.cores := rfl
@[simp] theorem State.setIsl_engs (s : State) (x : IslH) : (s.setIsl x).engs = s.engs := rfl
@[simp] theorem State.setIsl_protc (s : State) (x : IslH) : (s.setIsl x).protc = s.protc := rfl
@[simp] theorem State.setIsl_prot (s : State) (x : IslH) : (s.setIsl x).prot = s.prot := rfl
@[simp] theorem State.setIsl_pair (s : State) (x : IslH) : (s.setIsl x).pair = s.pair := rfl
@[simp] theorem State.setIsl_adcs (s : State) (x : IslH) : (s.setIsl x).adcs = s.adcs := rfl
@[simp] theorem State.setIsl_cmps (s : State) (x : IslH) : (s.setIsl x).cmps = s.cmps := rfl
@[simp] theorem State.setIsl_sys (s : State) (x : IslH) : (s.setIsl x).sys = s.sys := rfl
@[simp] theorem State.setIsl_tts (s : State) (x : IslH) : (s.setIsl x).tts = s.tts := rfl
@[simp] theorem State.setIsl_trigq (s : State) (x : IslH) : (s.setIsl x).trigq = s.trigq := rfl
@[simp] theorem State.setIsl_age (s : State) (x : IslH) : (s.setIsl x).age = s.age := rfl
@[simp] theorem State.setIsl_eths (s : State) (x : IslH) : (s.setIsl x).eths = s.eths := rfl
@[simp] theorem State.setIsl_cans (s : State) (x : IslH) : (s.setIsl x).cans = s.cans := rfl
@[simp] theorem State.setIsl_sec (s : State) (x : IslH) : (s.setIsl x).sec = s.sec := rfl
@[simp] theorem State.setIsl_trc (s : State) (x : IslH) : (s.setIsl x).trc = s.trc := rfl
@[simp] theorem State.setIsl_host (s : State) (x : IslH) : (s.setIsl x).host = s.host := rfl
@[simp] theorem State.setIsl_reg (s : State) (x : IslH) (i : Nat) : (s.setIsl x).reg i = s.reg i := rfl
@[simp] theorem State.setIsl_rd (s : State) (x : IslH) (g : Fld) : (s.setIsl x).rd g = s.rd g := rfl
@[simp] theorem State.setIsl_on (s : State) (x : IslH) (g : Fld) : (s.setIsl x).on g = s.on g := rfl
@[simp] theorem State.setIsl_byte (s : State) (x : IslH) (i : Nat) : (s.setIsl x).byte i = s.byte i := rfl
@[simp] theorem State.setIsl_lane (s : State) (x : IslH) (i : Nat) : (s.setIsl x).lane i = s.lane i := rfl
@[simp] theorem State.setIsl_chain (s : State) (x : IslH) (i : Nat) : (s.setIsl x).chain i = s.chain i := rfl
@[simp] theorem State.setIsl_cell (s : State) (x : IslH) (i : Nat) : (s.setIsl x).cell i = s.cell i := rfl
@[simp] theorem State.setIsl_cstE (s : State) (x : IslH) (i : Nat) : (s.setIsl x).cstE i = s.cstE i := rfl
@[simp] theorem State.setIsl_node (s : State) (x : IslH) (i : Nat) : (s.setIsl x).node i = s.node i := rfl
@[simp] theorem State.setIsl_chan (s : State) (x : IslH) (i : Nat) : (s.setIsl x).chan i = s.chan i := rfl
@[simp] theorem State.setIsl_plan (s : State) (x : IslH) (i : Nat) : (s.setIsl x).plan i = s.plan i := rfl
@[simp] theorem State.setIsl_lp (s : State) (x : IslH) (i : Nat) : (s.setIsl x).lp i = s.lp i := rfl
@[simp] theorem State.setIsl_core (s : State) (x : IslH) (i : Nat) : (s.setIsl x).core i = s.core i := rfl
@[simp] theorem State.setIsl_eng (s : State) (x : IslH) (i : Nat) : (s.setIsl x).eng i = s.eng i := rfl
@[simp] theorem State.setIsl_pc (s : State) (x : IslH) (i : Nat) : (s.setIsl x).pc i = s.pc i := rfl
@[simp] theorem State.setIsl_adc (s : State) (x : IslH) (i : Nat) : (s.setIsl x).adc i = s.adc i := rfl
@[simp] theorem State.setIsl_cmp (s : State) (x : IslH) (i : Nat) : (s.setIsl x).cmp i = s.cmp i := rfl
@[simp] theorem State.setIsl_tt (s : State) (x : IslH) (i : Nat) : (s.setIsl x).tt i = s.tt i := rfl
@[simp] theorem State.setIsl_eth (s : State) (x : IslH) (i : Nat) : (s.setIsl x).eth i = s.eth i := rfl
@[simp] theorem State.setIsl_can (s : State) (x : IslH) (i : Nat) : (s.setIsl x).can i = s.can i := rfl
@[simp] theorem State.setIsl_fqOf (s : State) (x : IslH) (i : Nat) : (s.setIsl x).fqOf i = s.fqOf i := rfl

/-! ### setPair -/

@[simp] theorem State.setPair_pending (s : State) (x : PairH) : (s.setPair x).pending = s.pending := rfl
@[simp] theorem State.setPair_free (s : State) (x : PairH) : (s.setPair x).free = s.free := rfl
@[simp] theorem State.setPair_regs (s : State) (x : PairH) : (s.setPair x).regs = s.regs := rfl
@[simp] theorem State.setPair_mem (s : State) (x : PairH) : (s.setPair x).mem = s.mem := rfl
@[simp] theorem State.setPair_tb (s : State) (x : PairH) : (s.setPair x).tb = s.tb := rfl
@[simp] theorem State.setPair_frames (s : State) (x : PairH) : (s.setPair x).frames = s.frames := rfl
@[simp] theorem State.setPair_fq (s : State) (x : PairH) : (s.setPair x).fq = s.fq := rfl
@[simp] theorem State.setPair_wired (s : State) (x : PairH) : (s.setPair x).wired = s.wired := rfl
@[simp] theorem State.setPair_grid (s : State) (x : PairH) : (s.setPair x).grid = s.grid := rfl
@[simp] theorem State.setPair_lanes (s : State) (x : PairH) : (s.setPair x).lanes = s.lanes := rfl
@[simp] theorem State.setPair_chains (s : State) (x : PairH) : (s.setPair x).chains = s.chains := rfl
@[simp] theorem State.setPair_cells (s : State) (x : PairH) : (s.setPair x).cells = s.cells := rfl
@[simp] theorem State.setPair_cst (s : State) (x : PairH) : (s.setPair x).cst = s.cst := rfl
@[simp] theorem State.setPair_nodes (s : State) (x : PairH) : (s.setPair x).nodes = s.nodes := rfl
@[simp] theorem State.setPair_chans (s : State) (x : PairH) : (s.setPair x).chans = s.chans := rfl
@[simp] theorem State.setPair_plans (s : State) (x : PairH) : (s.setPair x).plans = s.plans := rfl
@[simp] theorem State.setPair_starved (s : State) (x : PairH) : (s.setPair x).starved = s.starved := rfl
@[simp] theorem State.setPair_aux (s : State) (x : PairH) : (s.setPair x).aux = s.aux := rfl
@[simp] theorem State.setPair_modA (s : State) (x : PairH) : (s.setPair x).modA = s.modA := rfl
@[simp] theorem State.setPair_lpwm (s : State) (x : PairH) : (s.setPair x).lpwm = s.lpwm := rfl
@[simp] theorem State.setPair_cores (s : State) (x : PairH) : (s.setPair x).cores = s.cores := rfl
@[simp] theorem State.setPair_engs (s : State) (x : PairH) : (s.setPair x).engs = s.engs := rfl
@[simp] theorem State.setPair_protc (s : State) (x : PairH) : (s.setPair x).protc = s.protc := rfl
@[simp] theorem State.setPair_prot (s : State) (x : PairH) : (s.setPair x).prot = s.prot := rfl
@[simp] theorem State.setPair_adcs (s : State) (x : PairH) : (s.setPair x).adcs = s.adcs := rfl
@[simp] theorem State.setPair_cmps (s : State) (x : PairH) : (s.setPair x).cmps = s.cmps := rfl
@[simp] theorem State.setPair_sys (s : State) (x : PairH) : (s.setPair x).sys = s.sys := rfl
@[simp] theorem State.setPair_tts (s : State) (x : PairH) : (s.setPair x).tts = s.tts := rfl
@[simp] theorem State.setPair_trigq (s : State) (x : PairH) : (s.setPair x).trigq = s.trigq := rfl
@[simp] theorem State.setPair_age (s : State) (x : PairH) : (s.setPair x).age = s.age := rfl
@[simp] theorem State.setPair_isl (s : State) (x : PairH) : (s.setPair x).isl = s.isl := rfl
@[simp] theorem State.setPair_eths (s : State) (x : PairH) : (s.setPair x).eths = s.eths := rfl
@[simp] theorem State.setPair_cans (s : State) (x : PairH) : (s.setPair x).cans = s.cans := rfl
@[simp] theorem State.setPair_sec (s : State) (x : PairH) : (s.setPair x).sec = s.sec := rfl
@[simp] theorem State.setPair_trc (s : State) (x : PairH) : (s.setPair x).trc = s.trc := rfl
@[simp] theorem State.setPair_host (s : State) (x : PairH) : (s.setPair x).host = s.host := rfl
@[simp] theorem State.setPair_reg (s : State) (x : PairH) (i : Nat) : (s.setPair x).reg i = s.reg i := rfl
@[simp] theorem State.setPair_rd (s : State) (x : PairH) (g : Fld) : (s.setPair x).rd g = s.rd g := rfl
@[simp] theorem State.setPair_on (s : State) (x : PairH) (g : Fld) : (s.setPair x).on g = s.on g := rfl
@[simp] theorem State.setPair_byte (s : State) (x : PairH) (i : Nat) : (s.setPair x).byte i = s.byte i := rfl
@[simp] theorem State.setPair_lane (s : State) (x : PairH) (i : Nat) : (s.setPair x).lane i = s.lane i := rfl
@[simp] theorem State.setPair_chain (s : State) (x : PairH) (i : Nat) : (s.setPair x).chain i = s.chain i := rfl
@[simp] theorem State.setPair_cell (s : State) (x : PairH) (i : Nat) : (s.setPair x).cell i = s.cell i := rfl
@[simp] theorem State.setPair_cstE (s : State) (x : PairH) (i : Nat) : (s.setPair x).cstE i = s.cstE i := rfl
@[simp] theorem State.setPair_node (s : State) (x : PairH) (i : Nat) : (s.setPair x).node i = s.node i := rfl
@[simp] theorem State.setPair_chan (s : State) (x : PairH) (i : Nat) : (s.setPair x).chan i = s.chan i := rfl
@[simp] theorem State.setPair_plan (s : State) (x : PairH) (i : Nat) : (s.setPair x).plan i = s.plan i := rfl
@[simp] theorem State.setPair_lp (s : State) (x : PairH) (i : Nat) : (s.setPair x).lp i = s.lp i := rfl
@[simp] theorem State.setPair_core (s : State) (x : PairH) (i : Nat) : (s.setPair x).core i = s.core i := rfl
@[simp] theorem State.setPair_eng (s : State) (x : PairH) (i : Nat) : (s.setPair x).eng i = s.eng i := rfl
@[simp] theorem State.setPair_pc (s : State) (x : PairH) (i : Nat) : (s.setPair x).pc i = s.pc i := rfl
@[simp] theorem State.setPair_adc (s : State) (x : PairH) (i : Nat) : (s.setPair x).adc i = s.adc i := rfl
@[simp] theorem State.setPair_cmp (s : State) (x : PairH) (i : Nat) : (s.setPair x).cmp i = s.cmp i := rfl
@[simp] theorem State.setPair_tt (s : State) (x : PairH) (i : Nat) : (s.setPair x).tt i = s.tt i := rfl
@[simp] theorem State.setPair_eth (s : State) (x : PairH) (i : Nat) : (s.setPair x).eth i = s.eth i := rfl
@[simp] theorem State.setPair_can (s : State) (x : PairH) (i : Nat) : (s.setPair x).can i = s.can i := rfl
@[simp] theorem State.setPair_fqOf (s : State) (x : PairH) (i : Nat) : (s.setPair x).fqOf i = s.fqOf i := rfl

/-! ### wr -/

@[simp] theorem State.wr_pending (s : State) (f : Fld) (x : Nat) : (s.wr f x).pending = s.pending := rfl
@[simp] theorem State.wr_free (s : State) (f : Fld) (x : Nat) : (s.wr f x).free = s.free := rfl
@[simp] theorem State.wr_mem (s : State) (f : Fld) (x : Nat) : (s.wr f x).mem = s.mem := rfl
@[simp] theorem State.wr_tb (s : State) (f : Fld) (x : Nat) : (s.wr f x).tb = s.tb := rfl
@[simp] theorem State.wr_frames (s : State) (f : Fld) (x : Nat) : (s.wr f x).frames = s.frames := rfl
@[simp] theorem State.wr_fq (s : State) (f : Fld) (x : Nat) : (s.wr f x).fq = s.fq := rfl
@[simp] theorem State.wr_wired (s : State) (f : Fld) (x : Nat) : (s.wr f x).wired = s.wired := rfl
@[simp] theorem State.wr_grid (s : State) (f : Fld) (x : Nat) : (s.wr f x).grid = s.grid := rfl
@[simp] theorem State.wr_lanes (s : State) (f : Fld) (x : Nat) : (s.wr f x).lanes = s.lanes := rfl
@[simp] theorem State.wr_chains (s : State) (f : Fld) (x : Nat) : (s.wr f x).chains = s.chains := rfl
@[simp] theorem State.wr_cells (s : State) (f : Fld) (x : Nat) : (s.wr f x).cells = s.cells := rfl
@[simp] theorem State.wr_cst (s : State) (f : Fld) (x : Nat) : (s.wr f x).cst = s.cst := rfl
@[simp] theorem State.wr_nodes (s : State) (f : Fld) (x : Nat) : (s.wr f x).nodes = s.nodes := rfl
@[simp] theorem State.wr_chans (s : State) (f : Fld) (x : Nat) : (s.wr f x).chans = s.chans := rfl
@[simp] theorem State.wr_plans (s : State) (f : Fld) (x : Nat) : (s.wr f x).plans = s.plans := rfl
@[simp] theorem State.wr_starved (s : State) (f : Fld) (x : Nat) : (s.wr f x).starved = s.starved := rfl
@[simp] theorem State.wr_aux (s : State) (f : Fld) (x : Nat) : (s.wr f x).aux = s.aux := rfl
@[simp] theorem State.wr_modA (s : State) (f : Fld) (x : Nat) : (s.wr f x).modA = s.modA := rfl
@[simp] theorem State.wr_lpwm (s : State) (f : Fld) (x : Nat) : (s.wr f x).lpwm = s.lpwm := rfl
@[simp] theorem State.wr_cores (s : State) (f : Fld) (x : Nat) : (s.wr f x).cores = s.cores := rfl
@[simp] theorem State.wr_engs (s : State) (f : Fld) (x : Nat) : (s.wr f x).engs = s.engs := rfl
@[simp] theorem State.wr_protc (s : State) (f : Fld) (x : Nat) : (s.wr f x).protc = s.protc := rfl
@[simp] theorem State.wr_prot (s : State) (f : Fld) (x : Nat) : (s.wr f x).prot = s.prot := rfl
@[simp] theorem State.wr_pair (s : State) (f : Fld) (x : Nat) : (s.wr f x).pair = s.pair := rfl
@[simp] theorem State.wr_adcs (s : State) (f : Fld) (x : Nat) : (s.wr f x).adcs = s.adcs := rfl
@[simp] theorem State.wr_cmps (s : State) (f : Fld) (x : Nat) : (s.wr f x).cmps = s.cmps := rfl
@[simp] theorem State.wr_sys (s : State) (f : Fld) (x : Nat) : (s.wr f x).sys = s.sys := rfl
@[simp] theorem State.wr_tts (s : State) (f : Fld) (x : Nat) : (s.wr f x).tts = s.tts := rfl
@[simp] theorem State.wr_trigq (s : State) (f : Fld) (x : Nat) : (s.wr f x).trigq = s.trigq := rfl
@[simp] theorem State.wr_age (s : State) (f : Fld) (x : Nat) : (s.wr f x).age = s.age := rfl
@[simp] theorem State.wr_isl (s : State) (f : Fld) (x : Nat) : (s.wr f x).isl = s.isl := rfl
@[simp] theorem State.wr_eths (s : State) (f : Fld) (x : Nat) : (s.wr f x).eths = s.eths := rfl
@[simp] theorem State.wr_cans (s : State) (f : Fld) (x : Nat) : (s.wr f x).cans = s.cans := rfl
@[simp] theorem State.wr_sec (s : State) (f : Fld) (x : Nat) : (s.wr f x).sec = s.sec := rfl
@[simp] theorem State.wr_trc (s : State) (f : Fld) (x : Nat) : (s.wr f x).trc = s.trc := rfl
@[simp] theorem State.wr_host (s : State) (f : Fld) (x : Nat) : (s.wr f x).host = s.host := rfl
@[simp] theorem State.wr_byte (s : State) (f : Fld) (x : Nat) (i : Nat) : (s.wr f x).byte i = s.byte i := rfl
@[simp] theorem State.wr_lane (s : State) (f : Fld) (x : Nat) (i : Nat) : (s.wr f x).lane i = s.lane i := rfl
@[simp] theorem State.wr_chain (s : State) (f : Fld) (x : Nat) (i : Nat) : (s.wr f x).chain i = s.chain i := rfl
@[simp] theorem State.wr_cell (s : State) (f : Fld) (x : Nat) (i : Nat) : (s.wr f x).cell i = s.cell i := rfl
@[simp] theorem State.wr_cstE (s : State) (f : Fld) (x : Nat) (i : Nat) : (s.wr f x).cstE i = s.cstE i := rfl
@[simp] theorem State.wr_node (s : State) (f : Fld) (x : Nat) (i : Nat) : (s.wr f x).node i = s.node i := rfl
@[simp] theorem State.wr_chan (s : State) (f : Fld) (x : Nat) (i : Nat) : (s.wr f x).chan i = s.chan i := rfl
@[simp] theorem State.wr_plan (s : State) (f : Fld) (x : Nat) (i : Nat) : (s.wr f x).plan i = s.plan i := rfl
@[simp] theorem State.wr_lp (s : State) (f : Fld) (x : Nat) (i : Nat) : (s.wr f x).lp i = s.lp i := rfl
@[simp] theorem State.wr_core (s : State) (f : Fld) (x : Nat) (i : Nat) : (s.wr f x).core i = s.core i := rfl
@[simp] theorem State.wr_eng (s : State) (f : Fld) (x : Nat) (i : Nat) : (s.wr f x).eng i = s.eng i := rfl
@[simp] theorem State.wr_pc (s : State) (f : Fld) (x : Nat) (i : Nat) : (s.wr f x).pc i = s.pc i := rfl
@[simp] theorem State.wr_adc (s : State) (f : Fld) (x : Nat) (i : Nat) : (s.wr f x).adc i = s.adc i := rfl
@[simp] theorem State.wr_cmp (s : State) (f : Fld) (x : Nat) (i : Nat) : (s.wr f x).cmp i = s.cmp i := rfl
@[simp] theorem State.wr_tt (s : State) (f : Fld) (x : Nat) (i : Nat) : (s.wr f x).tt i = s.tt i := rfl
@[simp] theorem State.wr_eth (s : State) (f : Fld) (x : Nat) (i : Nat) : (s.wr f x).eth i = s.eth i := rfl
@[simp] theorem State.wr_can (s : State) (f : Fld) (x : Nat) (i : Nat) : (s.wr f x).can i = s.can i := rfl
@[simp] theorem State.wr_fqOf (s : State) (f : Fld) (x : Nat) (i : Nat) : (s.wr f x).fqOf i = s.fqOf i := rfl

end Sys2Proof.Machine
end

