-- ==== Sys2Proof/Laws/Regs.lean ====
section
/-! SUPPORT. Laws/Regs.lean: reads of registers, fields and bytes after writes, and what posting a fault leaves as it is. -/
namespace Sys2Proof.Machine

/-! ### Bit fields -/

theorem bitsOf_lt (v lo w : Nat) : bitsOf v lo w < 2 ^ w := Nat.mod_lt _ (Nat.two_pow_pos w)

theorem testBit_bitsOf (v lo w i : Nat) : (bitsOf v lo w).testBit i = (decide (i < w) && v.testBit (lo + i)) := by
  simp [bitsOf, Nat.testBit_mod_two_pow, Nat.testBit_shiftRight]

/-- A number split at a field: what lies below it, the field, and what lies above it. -/
theorem split_field (v lo w : Nat) : v = v % 2 ^ lo + (bitsOf v lo w <<< lo) + 2 ^ (lo + w) * (v / 2 ^ (lo + w)) := by
  have h1 : 2 ^ lo * (v / 2 ^ lo) + v % 2 ^ lo = v := Nat.div_add_mod v (2 ^ lo)
  have h2 : 2 ^ w * (v / 2 ^ lo / 2 ^ w) + v / 2 ^ lo % 2 ^ w = v / 2 ^ lo := Nat.div_add_mod (v / 2 ^ lo) (2 ^ w)
  have h3 : v / 2 ^ lo / 2 ^ w = v / 2 ^ (lo + w) := by rw [Nat.div_div_eq_div_mul, Nat.pow_add]
  have h4 : bitsOf v lo w <<< lo = 2 ^ lo * (v / 2 ^ lo % 2 ^ w) := by
    simp [bitsOf, Nat.shiftRight_eq_div_pow, Nat.shiftLeft_eq, Nat.mul_comm]
  rw [h3] at h2
  rw [h4, Nat.pow_add, Nat.mul_assoc]
  have h5 : 2 ^ lo * (v / 2 ^ lo % 2 ^ w) + 2 ^ lo * (2 ^ w * (v / 2 ^ (lo + w))) = 2 ^ lo * (v / 2 ^ lo) := by
    rw [← Nat.mul_add, Nat.add_comm, h2]
  rw [← Nat.pow_add] at *
  omega

/-- The number that `putBits` makes, in the same three parts. -/
theorem putBits_eq (v lo w x : Nat) :
    putBits v lo w x = v % 2 ^ lo + ((x % 2 ^ w) <<< lo) + 2 ^ (lo + w) * (v / 2 ^ (lo + w)) := by
  have h := split_field v lo w
  unfold putBits
  generalize 2 ^ (lo + w) * (v / 2 ^ (lo + w)) = c at *
  generalize bitsOf v lo w <<< lo = b at *
  omega

theorem testBit_putBits (v lo w x i : Nat) :
    (putBits v lo w x).testBit i = if lo ≤ i ∧ i < lo + w then x.testBit (i - lo) else v.testBit i := by
  have hx : x % 2 ^ w < 2 ^ w := Nat.mod_lt _ (Nat.two_pow_pos w)
  have hv : v % 2 ^ lo < 2 ^ lo := Nat.mod_lt _ (Nat.two_pow_pos lo)
  have e : putBits v lo w x = 2 ^ (lo + w) * (v / 2 ^ (lo + w)) + (2 ^ lo * (x % 2 ^ w) + v % 2 ^ lo) := by
    rw [putBits_eq, Nat.shiftLeft_eq, Nat.mul_comm (x % 2 ^ w)]
    omega
  have hlt : 2 ^ lo * (x % 2 ^ w) + v % 2 ^ lo < 2 ^ (lo + w) := by
    rw [Nat.pow_add]
    have := Nat.mul_le_mul_left (2 ^ lo) (Nat.succ_le_of_lt hx)
    rw [Nat.succ_eq_add_one, Nat.mul_add, Nat.mul_one] at this
    omega
  rw [e, Nat.testBit_two_pow_mul_add _ hlt, Nat.testBit_two_pow_mul_add _ hv]
  by_cases h1 : i < lo
  · have h2 : i < lo + w := by omega
    have h3 : ¬ (lo ≤ i ∧ i < lo + w) := by omega
    rw [if_pos h2, if_pos h1, if_neg h3, Nat.testBit_mod_two_pow, decide_eq_true h1, Bool.true_and]
  · by_cases h2 : i < lo + w
    · have h3 : lo ≤ i ∧ i < lo + w := by omega
      have h4 : i - lo < w := by omega
      simp [h1, h2, h3, h4, Nat.testBit_mod_two_pow]
    · have h3 : ¬ (lo ≤ i ∧ i < lo + w) := by omega
      have h4 : lo + w + (i - (lo + w)) = i := by omega
      rw [if_neg h2, if_neg h3, Nat.testBit_div_two_pow, Nat.add_comm, h4]

theorem putBits_lt {v lo w : Nat} (hv : v < 2 ^ 32) (h : lo + w ≤ 32) (x : Nat) : putBits v lo w x < 2 ^ 32 := by
  apply Nat.lt_pow_two_of_testBit
  intro i hi
  rw [testBit_putBits, if_neg (by omega)]
  exact Nat.testBit_lt_two_pow (Nat.lt_of_lt_of_le hv (Nat.pow_le_pow_right (by decide) hi))

theorem bitsOf_putBits_self (v lo w x : Nat) : bitsOf (putBits v lo w x) lo w = x % 2 ^ w := by
  apply Nat.eq_of_testBit_eq
  intro i
  rw [testBit_bitsOf, testBit_putBits, Nat.testBit_mod_two_pow]
  by_cases h : i < w
  · have : lo ≤ lo + i ∧ lo + i < lo + w := by omega
    simp [h, Nat.add_sub_cancel_left]
  · simp [h]

theorem bitsOf_putBits_ne {lo w lo' w' : Nat} (h : lo + w ≤ lo' ∨ lo' + w' ≤ lo) (v x : Nat) :
    bitsOf (putBits v lo w x) lo' w' = bitsOf v lo' w' := by
  apply Nat.eq_of_testBit_eq
  intro i
  rw [testBit_bitsOf, testBit_bitsOf, testBit_putBits]
  by_cases hi : i < w'
  · have : ¬ (lo ≤ lo' + i ∧ lo' + i < lo + w) := by omega
    simp [hi, this]
  · simp [hi]

/-! ### Registers -/

theorem State.reg_lt (s : State) (a : Nat) : s.reg a < 2 ^ 32 := (Tbl.get coldOf s.regs a).isLt

theorem State.setReg_reg (s : State) (a v b : Nat) : (s.setReg a v).reg b = if b = a then v % 2 ^ 32 else s.reg b := by
  unfold State.setReg State.reg
  split
  · next h => subst h; rw [Tbl.get_set_self]; simp
  · next h => rw [Tbl.get_set_ne _ _ h]

theorem State.wr_reg (s : State) {f : Fld} (h : f.lo + f.w ≤ 32) (x b : Nat) :
    (s.wr f x).reg b = if b = f.addr then putBits (s.reg f.addr) f.lo f.w x else s.reg b := by
  unfold State.wr
  rw [State.setReg_reg]
  split
  · rw [Nat.mod_eq_of_lt (putBits_lt (s.reg_lt _) h x)]
  · rfl

theorem State.wr_reg_ne (s : State) (f : Fld) (x : Nat) {b : Nat} (h : b ≠ f.addr) : (s.wr f x).reg b = s.reg b := by
  unfold State.wr
  rw [State.setReg_reg, if_neg h]

/-- A field just written. -/
theorem State.wr_rd_self (s : State) {f : Fld} (h : f.lo + f.w ≤ 32) (x : Nat) : (s.wr f x).rd f = x % 2 ^ f.w := by
  unfold State.rd
  rw [State.wr_reg s h, if_pos rfl, bitsOf_putBits_self]

/-- A field of another register. -/
theorem State.wr_rd_ne (s : State) (f : Fld) (x : Nat) {g : Fld} (h : g.addr ≠ f.addr) : (s.wr f x).rd g = s.rd g := by
  unfold State.rd
  rw [State.wr_reg_ne s f x h]

/-- Another field, wherever it lies. -/
theorem State.wr_rd_apart (s : State) {f g : Fld} (hf : f.lo + f.w ≤ 32)
    (h : g.addr ≠ f.addr ∨ f.lo + f.w ≤ g.lo ∨ g.lo + g.w ≤ f.lo) (x : Nat) : (s.wr f x).rd g = s.rd g := by
  by_cases ha : g.addr = f.addr
  · unfold State.rd
    rw [State.wr_reg s hf, if_pos ha, bitsOf_putBits_ne (h.resolve_left fun k => k ha), ha]
  · exact State.wr_rd_ne s f x ha

/-! ### Changes that depend on a condition or run over a list -/

theorem State.when_apply {α : Type} (g : State → α) (s : State) (b : Bool) (f : State → State) :
    g (s.when b f) = if b then g (f s) else g s := by
  unfold State.when
  cases b <;> rfl

/-- What each change of a list leaves as it is, the list leaves as it is. -/
theorem State.forEach_apply {α β : Type} (g : State → β) (l : List α) (f : State → α → State) (h : ∀ u a, a ∈ l → g (f u a) = g u)
    (s : State) : g (s.forEach l f) = g s := by
  unfold State.forEach
  induction l generalizing s with
  | nil => rfl
  | cons a l ih =>
    rw [List.foldl_cons, ih (fun u b hb => h u b (List.mem_cons_of_mem _ hb)), h s a List.mem_cons_self]

/-! ### Memory -/

theorem State.setByte_byte (s : State) (a b : Nat) (x : Byte) : (s.setByte a x).byte b = if b = a then x else s.byte b := by
  unfold State.setByte State.byte
  split
  · next h => subst h; exact Tbl.get_set_self _ _ _ _
  · next h => exact Tbl.get_set_ne _ _ h _

/-- A byte after a store: of the stored bytes inside them, as before outside. -/
theorem State.setBytes_byte (s : State) (a : Nat) (l : List Byte) (b : Nat) :
    (s.setBytes a l).byte b = if a ≤ b ∧ b < a + l.length then (l[b - a]?).getD 0 else s.byte b := by
  induction l generalizing s a with
  | nil => rw [if_neg (by simp only [List.length_nil]; omega)]; rfl
  | cons x l ih =>
    simp only [State.setBytes]
    rw [ih, State.setByte_byte]
    simp only [List.length_cons]
    by_cases h : b = a
    · subst h
      rw [if_neg (by omega), if_pos rfl, if_pos (by omega)]
      simp
    · by_cases h1 : a + 1 ≤ b ∧ b < a + 1 + l.length
      · rw [if_pos h1, if_pos (by omega), show b - a = b - (a + 1) + 1 by omega]
        simp
      · rw [if_neg h1, if_neg h, if_neg (by omega)]

theorem State.setBytes_regs (s : State) (a : Nat) (l : List Byte) : (s.setBytes a l).regs = s.regs := by
  induction l generalizing s a with
  | nil => rfl
  | cons x l ih => exact ih _ _

/-! ### Posting a fault -/

/-- A message below S4 only joins its queue (13_fault_collection.md R371). -/
theorem State.post_low (s : State) (src inst kind cls : Nat) {sev : Nat} (h : sev < 4) (datum : Nat) :
    s.post src inst kind cls sev datum =
      s.setFq (domainOf src inst) ((s.fqOf (domainOf src inst)).push (msgOf src inst kind cls sev datum) sev cls) := by
  have h4 : ¬ 4 ≤ sev := by omega
  have h5 : ¬ 5 ≤ sev := by omega
  simp [State.post, State.when, State.wiredReact, h4, h5]

end Sys2Proof.Machine
end

