-- ==== Sys2Proof/Tests/Slice0.lean ====
section
/-! SUPPORT. Tests/Slice0.lean: tests of single steps against values worked out from the spec, ill-formed commands, and for every
obligation with hypotheses a state and operands that meet them. -/
namespace Sys2Proof.Tests
set_option Elab.async false
open Sys2Proof.Machine Sys2Proof.Says

/-- A device whose set for power conversion is complete (01_architecture.md R35). -/
def powered : State :=
  (((((((State.reset.wr CLK_SYS_STAT_LOCK 1).wr CLK_TB_STAT_LOCK 1).wr SAFE_STATE_TOKENS 1).wr (ENG_STAT_STATE 3) 1).wr
    (ENG_TASK_CFG_EN 3 2) 1).wr (CHAIN_STAT_STATE 4) 4).wr (ENG_STAT_STATE 16) 1).clr SYS_DEV_STATE_LIMP

/-- A header of frame `k` from device `dev` in epoch `e`, with its HCRC (04_cell_link_protocol.md R91). -/
def aHeader (k e dev : Nat) : List Byte :=
  let b := toBytes 4 k ++ List.replicate 12 0 ++ toBytes 2 dev ++ toBytes 4 e ++ List.replicate 14 0
  b ++ toBytes 4 (crc32c b)

/-- A command section of mode `m`, with its token for position 0 and its SCRC (04_cell_link_protocol.md R92). -/
def aSection (m k e dev : Nat) : List Byte :=
  let tok := toBytes 2 0 ++ toBytes 1 0
  let crc := Nat.xor (crcL 8 0x2F 0xFF (toBytes 4 k ++ toBytes 2 dev ++ toBytes 4 e ++ tok)) 0xFF
  let b := toBytes 1 m ++ List.replicate 81 0 ++ tok ++ toBytes 1 crc
  b ++ toBytes 2 (crc16 b)

/-- A report section with EXEC_CNT `x` and its SCRC (04_cell_link_protocol.md R95). -/
def aReport (x : Nat) : List Byte :=
  let b := toBytes 1 4 ++ toBytes 1 x ++ List.replicate 84 0
  b ++ toBytes 2 (crc16 b)

/-- A report section that shows a desaturation trip of switch `k`, with its SCRC (04_cell_link_protocol.md R95). -/
def aTrip (k : Nat) : List Byte :=
  let b := List.replicate 52 0 ++ toBytes 2 (2 ^ k) ++ List.replicate 32 0
  b ++ toBytes 2 (crc16 b)

/-- The words of a receive queue that hold the bytes `bs` of a frame from block `a` on (04_cell_link_protocol.md R85). -/
def rxOf : Nat → List Nat → List (Nat × BitVec 64)
  | _, [] => []
  | a, w :: t => (a, BitVec.ofNat 64 w) :: rxOf (a + 1) t

/-- A Saddle header of frame `k` from device `dev` in epoch `e`, which names no arrival, with its HCRC (12_redundant_pair.md R348). -/
def sHeader (k e dev : Nat) : List Byte :=
  let b := toBytes 4 k ++ List.replicate 12 0 ++ toBytes 2 dev ++ toBytes 4 e ++ List.replicate 6 0 ++ toBytes 4 0xFFFFFFFF ++ List.replicate 4 0
  b ++ toBytes 4 (crc32c b)

/-- The same with RX_T `v`. -/
def sHeaderR (k e dev v : Nat) : List Byte :=
  let b := toBytes 4 k ++ List.replicate 12 0 ++ toBytes 2 dev ++ toBytes 4 e ++ List.replicate 6 0 ++ toBytes 4 v ++ List.replicate 4 0
  b ++ toBytes 4 (crc32c b)

/-- The same from an ACTIVE device (byte 23, bit 1). -/
def aHeader4 (k e dev : Nat) : List Byte :=
  let b := toBytes 4 k ++ List.replicate 12 0 ++ toBytes 2 dev ++ toBytes 4 e ++ [0, 2] ++ List.replicate 4 0 ++ toBytes 4 0xFFFFFFFF ++
    List.replicate 4 0
  b ++ toBytes 4 (crc32c b)

/-- A Saddle slot that begins with the bytes `l`, with its SCRC (12_redundant_pair.md R346). -/
def aSlot (l : List Byte) : List Byte :=
  let b := (l ++ List.replicate 86 0).take 86
  b ++ toBytes 2 (crc16 b)

/-- The task table of a bare image: a control cycle of 2 frames, no task. -/
def theTasks : List Byte := 2 :: List.replicate 3075 0

/-- A bare boot image (17_reset_power_boot.md R468): three sections of types 4, 5 and 6, the last one `theTasks`. -/
def theImage : List Byte :=
  [75, 84, 73, 77, 1, 0, 0, 4, 1, 0, 0, 0, 8, 16, 0, 0, 3] ++ List.replicate 239 0 ++ [4, 255] ++ List.replicate 7 0 ++ [4] ++
  List.replicate 14 0 ++ [5, 255] ++ List.replicate 6 0 ++ [8, 4, 0, 0, 0, 2, 0, 0, 192, 237, 252, 48] ++ List.replicate 4 0 ++ [6,
  255] ++ List.replicate 7 0 ++ [4, 0, 0, 4, 12, 0, 0, 21, 86, 117, 234] ++ List.replicate 700 0 ++ theTasks ++ List.replicate 100 0

/-- The bytes of `theImage` that are not 0, in trace memory. -/
def imageCells : List Host.Cell :=
  [⟨16777216, 75⟩, ⟨16777217, 84⟩, ⟨16777218, 73⟩, ⟨16777219, 77⟩, ⟨16777220, 1⟩, ⟨16777223, 4⟩, ⟨16777224, 1⟩, ⟨16777228, 8⟩,
  ⟨16777229, 16⟩, ⟨16777232, 3⟩, ⟨16777472, 4⟩, ⟨16777473, 255⟩, ⟨16777481, 4⟩, ⟨16777496, 5⟩, ⟨16777497, 255⟩, ⟨16777504, 8⟩,
  ⟨16777505, 4⟩, ⟨16777509, 2⟩, ⟨16777512, 192⟩, ⟨16777513, 237⟩, ⟨16777514, 252⟩, ⟨16777515, 48⟩, ⟨16777520, 6⟩, ⟨16777521, 255⟩,
  ⟨16777529, 4⟩, ⟨16777532, 4⟩, ⟨16777533, 12⟩, ⟨16777536, 21⟩, ⟨16777537, 86⟩, ⟨16777538, 117⟩, ⟨16777539, 234⟩, ⟨16778240, 2⟩]

/-- The boot waits for the host, whose image stands in trace memory. -/
def hosted : State :=
  { (((State.reset.wr SYS_BOOT_STAT_STEP 4).wr SYS_BOOT_STAT_SRC 2).wr SYS_HOST_IMG_LEN 4200).setBit SEC_FUSE_ROOT 0 with
    mem := imageCells }

/-- SE0, which runs at the boot ROM, with g1 and g2. -/
def oneOp (a b : Word) : State := (State.reset.setEngSt 16 2).setCore 16 { coreCold 16 with g := [(1, a), (2, b)] }
def aCore : Iss := { core := 16 }

/-! ### Ill-formed commands: a payload one byte too short is not well-formed, and its meaning is the fault -/

theorem test_illFormed_orderedSet : (Instr.orderedSetReceived 3 (List.replicate 15 0)).wellFormed = false ∧
    exec (.orderedSetReceived 3 (List.replicate 15 0)) .reset = .fault .illFormed := ⟨by decide +kernel, rfl⟩
set_option maxRecDepth 8000 in
theorem test_illFormed_cellSection : (Instr.cellSectionTaken 191 1 (List.replicate 743 0) 0).wellFormed = false ∧
    exec (.cellSectionTaken 191 1 (List.replicate 743 0) 0) .reset = .fault .illFormed := ⟨by decide +kernel +kernel, rfl⟩
set_option maxRecDepth 8000 in
theorem test_illFormed_tokenCheck : (Instr.cellTokenCheck 191 1 (List.replicate 743 0)).wellFormed = false ∧
    exec (.cellTokenCheck 191 1 (List.replicate 743 0)) .reset = .fault .illFormed := ⟨by decide +kernel +kernel, rfl⟩
theorem test_illFormed_cellSample : (Instr.cellSample 0 0 0 0 [0, 0, 0] (List.replicate 12 0)).wellFormed = false ∧
    exec (.cellSample 0 0 0 0 [0, 0, 0] (List.replicate 12 0)) .reset = .fault .illFormed := ⟨by decide +kernel, rfl⟩
set_option maxRecDepth 8000 in
theorem test_illFormed_cellReport : (Instr.cellReportWrite 0 1 (List.replicate 744 0) 0 (List.replicate 17 0)).wellFormed = false ∧
    exec (.cellReportWrite 0 1 (List.replicate 744 0) 0 (List.replicate 17 0)) .reset = .fault .illFormed := ⟨by decide +kernel +kernel, rfl⟩
theorem test_illFormed_cellOrderedSet : (Instr.cellOrderedSetForward 0 1 (List.replicate 17 0)).wellFormed = false ∧
    exec (.cellOrderedSetForward 0 1 (List.replicate 17 0)) .reset = .fault .illFormed := ⟨by decide +kernel, rfl⟩
set_option maxRecDepth 8000 in
theorem test_illFormed_parameterBlock : (Instr.islandLoadEnd 0 0 [] (List.replicate 511 0)).wellFormed = false ∧
    exec (.islandLoadEnd 0 0 [] (List.replicate 511 0)) .reset = .fault .illFormed := ⟨by decide +kernel +kernel, rfl⟩
theorem test_illFormed_roCounts : (Instr.roDone (List.replicate 47 0)).wellFormed = false ∧
    exec (.roDone (List.replicate 47 0)) .reset = .fault .illFormed := ⟨by decide +kernel, rfl⟩

/-! ### Values of the spec's own examples -/

/-- The ASCII bytes "123456789". -/
def digits : List Byte := [0x31, 0x32, 0x33, 0x34, 0x35, 0x36, 0x37, 0x38, 0x39]

/-- HCRC and SCRC over "123456789" (04_cell_link_protocol.md R98). -/
theorem test_crcs : crc32c digits = 0xE3069283 ∧ crc16 digits = 0x29B1 := by decide +kernel

/-- Channel 470 and CELLCTL of cell 117 start where the example of 00_scope.md says. -/
theorem test_cell_addresses : chShadow 470 0 / 64 * 64 = 0x40317580 ∧ CELLCTL_CFG 117 / 256 * 256 = 0x40287500 := by decide

/-- The leakage result of switch 2 of cell 37, and the committed entry of that cell in bank 1 (example of 20_register_index.md). -/
theorem test_record_addresses : PROT_SREC_LEAK 446 = 0x40509BEC ∧ cstAddr 1 37 = 0x08012500 := by decide

/-- The gain of the example of 07_lupin_engines.md: 1.0625 in Q13 half way between points 48 and 49. -/
theorem test_gain :
    ((((State.reset.setGlutAct 4 (512 + 48) 0x2000).setGlutAct 4 (512 + 49) 0x2400).setGlutAct 4 2049 4).gain 4 1 0xFE7C0000) = 0x2200 := by
  decide

/-- 2^31 − 1 + 1 wraps in `add` and is limited in `adds` (08_qorov_instruction_set.md R228, R230). -/
theorem test_add_and_adds :
    (match exec (.add aCore 3 1 2) (oneOp 0x7FFFFFFF 1) with | .next t => t.gr 16 3 | _ => 0) = 0x80000000 ∧
    (match exec (.adds aCore 3 1 2) (oneOp 0x7FFFFFFF 1) with | .next t => t.gr 16 3 | _ => 0) = 0x7FFFFFFF := by decide

/-- −2^31 / −1 gives 0x7FFF_FFFF, 5 / 0 gives 0x7FFF_FFFF, −7 rem 2 is −1 (R229). -/
theorem test_division :
    (match exec (.div aCore 3 1 2) (oneOp 0x80000000 0xFFFFFFFF) with | .next t => t.gr 16 3 | _ => 0) = 0x7FFFFFFF ∧
    (match exec (.div aCore 3 1 2) (oneOp 5 0) with | .next t => t.gr 16 3 | _ => 0) = 0x7FFFFFFF ∧
    (match exec (.rem aCore 3 1 2) (oneOp 0xFFFFFFF9 2) with | .next t => t.gr 16 3 | _ => 0) = 0xFFFFFFFF := by decide

/-- A shift by 32 or more gives 0, an arithmetic one the sign (R228). -/
theorem test_shifts :
    (match exec (.shl aCore 3 1 2) (oneOp 0xFFFFFFFF 32) with | .next t => t.gr 16 3 | _ => 1) = 0 ∧
    (match exec (.sar aCore 3 1 2) (oneOp 0x80000000 255) with | .next t => t.gr 16 3 | _ => 1) = 0xFFFFFFFF := by decide

/-- A source that is also the destination: g1 := g1 − g2. -/
theorem test_sub_in_place : (match exec (.sub aCore 1 1 2) (oneOp 5 7) with | .next t => t.gr 16 1 | _ => 0) = 0xFFFFFFFE := by decide

/-- 1.5 × 2.0 = 3.0, 1.0 / 0.0 is infinite with FDZ (R233). -/
theorem test_float : fMul 0x3FC00000 0x40000000 = (0x40400000, 0) ∧ fDiv 0x3F800000 0 = (0x7F800000, flFDZ) := by decide

/-- The identification of stepping B1 (00_scope.md R1). -/
theorem test_identification : State.reset.reg SYS_SYS_ID = 0x4192 ∧ State.reset.reg SYS_SYS_STEP = 0xB1 := by decide

/-- STAT.KIND is 1 on the Aster engines, and SE0 is enabled at reset (07_lupin_engines.md R212). -/
theorem test_engine_kinds : State.reset.on (ENG_STAT_KIND 15) = false ∧ State.reset.on (ENG_STAT_KIND 16) ∧
    State.reset.on (ENG_STAT_KIND 19) ∧ State.reset.on (ENG_CTL_EN 16) ∧ State.reset.on (ENG_CTL_EN 17) = false := by decide

/-- One tick of CK_TB at the nominal increment is 2 ns (11_clocks_timebase_network_time.md R319). -/
theorem test_tick : (State.reset.set1 CLK_TB_CTL_EN).idle.tb = 2 * 2 ^ 24 := by decide

/-- A command runs from the front of the queue, and the rest waits. -/
theorem test_step :
    (match step { State.reset with pending := [.hourTick, .frameStart] } with
      | .next t => (t.reg AGE_HOURS, t.pending)
      | _ => (0, [])) = (1, [.frameStart]) := by decide

/-- An AGE_SHADOW register takes the word written by the host once the link is up, the reference is present and SE0 runs (00_scope.md R10, 01_architecture.md R19). -/
theorem test_register_write :
    (match exec (.registerWrite .host (BitVec.ofNat 32 (AGE_SHADOW 63)) 0x12345678) (((oneOp 0 0).set1 HOST_LINK_UP).set1 CLK_SYS_STAT_REF_OK) with
      | .next t => t.reg (AGE_SHADOW 63)
      | _ => 0) = 0x12345678 := by decide

/-- A mailbox word of the host waits for its read, and shows in H2D_OCC (19_host_interface_and_trace.md R498). -/
theorem test_mailbox :
    (match exec (.h2dWrite 7) (State.reset.set1 HOST_LINK_UP) with
      | .next t => (t.host.h2d, t.rd HOST_MBX_STAT_H2D_OCC)
      | _ => ([], 0)) = ([7], 1) := by decide

/-- The words of `(p2) addi g5, g7, -3`, `stw g5, [g7 + 4 * 3]`, `(!p1) sub g3, g1, g2` and a reserved SUB by the formats of 08_qorov_instruction_set.md R218 and R226. -/
theorem test_words :
    decodeQorov aCore 0x208A7FFD = some (.addi { aCore with pred := 2 } 5 7 0xFFD) ∧
    decodeQorov aCore 0x700A7003 = some (.stw aCore 5 7 3) ∧
    decodeQorov aCore 0x02461101 = some (.sub { aCore with pn := true, pred := 1 } 3 1 2) ∧ decodeQorov aCore 0xFC000005 = none := by decide

/-! ### Witnesses -/

set_option maxRecDepth 200000 in
theorem hosted_bytes : hosted.bytes 0x1000000 (hosted.rd SYS_HOST_IMG_LEN) = theImage := by decide +kernel
set_option maxRecDepth 200000 in
theorem image_good : hosted.imgWhy ⟨theImage, true, true⟩ 0x800000 = 0 := by decide +kernel
set_option maxRecDepth 200000 in
theorem image_crcs : crcBad theImage = none := by decide +kernel
set_option maxRecDepth 200000 in
theorem image_tasks : imgPart theImage 6 = theTasks := by decide +kernel
set_option maxRecDepth 200000 in
theorem image_limits : imgLimit (fieldAt theImage 8 1) theTasks = none := by decide +kernel

theorem witness_StepRunsTheFrontCommand : ({ State.reset with pending := [.hourTick, .frameStart] } : State).pending = .hourTick :: [.frameStart] := rfl

theorem witness_EmptyQueueTick : State.reset.pending = [] ∧ State.reset.on CLK_TB_CTL_EN = false ∧
    (State.reset.set1 CLK_TB_CTL_EN).on CLK_TB_CTL_EN ∧
    ((State.reset.set1 CLK_TB_CTL_EN).set1 TB_SLEW_CTL_BUSY).on TB_SLEW_CTL_BUSY ∧
    ((State.reset.set1 CLK_TB_CTL_EN).set1 TB_SLEW_CTL_BUSY).on CLK_TB_CTL_EN := by decide

theorem witness_StepKeepsInvariant : State.reset.Inv ∧ step State.reset = .next State.reset := by
  refine ⟨?_, rfl⟩
  unfold State.Inv State.Canon State.Depths
  decide

theorem witness_EveryCommandCompletes : (Instr.orderedSetReceived 3 (List.replicate 16 0)).wellFormed = true ∧
    (Instr.orderedSetReceived 3 (List.replicate 15 0)).wellFormed = false := by decide

theorem witness_TimebaseIncrement : (State.reset.set1 CLK_TB_CTL_EN).masterOn (.aster 1) ∧
    (State.reset.set1 CLK_TB_CTL_EN).on RST_BLK_STAT_BUSY = false ∧ (State.reset.set1 CLK_TB_CTL_EN).on TB_SLEW_CTL_BUSY = false ∧
    (State.reset.set1 CLK_TB_CTL_EN).pending = [] ∧ (State.reset.set1 CLK_TB_CTL_EN).on CLK_TB_CTL_EN ∧
    0x01FFF300 ≤ (0x01FFF300 : BitVec 32).toNat ∧ (0x02000D00 : BitVec 32).toNat ≤ 0x02000D00 ∧
    ¬ (0x01FFF300 ≤ (0x01FFF2FF : BitVec 32).toNat) ∧ ¬ ((0x02000D01 : BitVec 32).toNat ≤ 0x02000D00) := by decide

/-- States and operands that meet the hypotheses of DeviceStateRequests. -/
theorem witness_DeviceStateRequests_a :
    (∃ (s : State), (s.dev = 2 ∨ s.dev = 4)) ∧
    (∃ (s : State), (s.dev = 1 ∨ (s.dev = 4 ∧ s.rd FLT_STAT_UNACK_HI = 0)) ∧ s.powerSet ∧ s.on THM_STAT_SD = false) ∧
    (∃ (s : State), s.dev = 2 ∧ s.powerSet ∧ s.rd SAFE_STATE_STATE = 3 ∧ s.on THM_STAT_SD = false) ∧
    (∃ (s : State), s.dev = 2) ∧
    (∃ (s : State), s.dev = 3 ∧ s.on LOOP_CSTOP_ACTIVE = false) ∧
    (∃ (s : State), (s.dev = 1 ∨ s.dev = 4) ∧ s.wakeNow = none) :=
  ⟨⟨State.reset.wr SYS_DEV_STATE_STATE 4, by decide⟩,
   ⟨powered.wr SYS_DEV_STATE_STATE 1, by decide⟩,
   ⟨(powered.wr SYS_DEV_STATE_STATE 2).wr SAFE_STATE_STATE 3, by decide⟩,
   ⟨State.reset.wr SYS_DEV_STATE_STATE 2, by decide⟩,
   ⟨(State.reset.wr SYS_DEV_STATE_STATE 3).wr (PGEN_CFG_CSTOP 1) 1, by decide⟩,
   ⟨State.reset.wr SYS_DEV_STATE_STATE 4, by decide⟩⟩

/-- States and operands that meet the hypotheses of DeviceStateRequests. -/
theorem witness_DeviceStateRequests_b :
    (∃ (s : State), s.dev = 0) ∧
    (∃ (s : State), s.linkUp = false ∧ s.on (SAFE_HLD 1) = false) ∧
    (∃ (s : State), s.linkUp ∧ s.on (SAFE_HLD 1) ∧ s.sys.d2dq < 32) ∧
    (∃ (s : State), s.linkUp ∧ s.on (SAFE_HLD 1) ∧ s.sys.d2dq = 32) ∧
    (∃ (s : State), s.linkUp) :=
  ⟨⟨State.reset, by decide +kernel⟩,
   ⟨State.reset.clr SYS_D2D_STAT_UP, by decide⟩,
   ⟨(State.reset.wr SYS_D2D_STAT_UP 1).wr (SAFE_HLD 1) 1, by decide⟩,
   ⟨((State.reset.wr SYS_D2D_STAT_UP 1).wr (SAFE_HLD 1) 1).setSys { d2dq := 32 }, by decide⟩,
   ⟨State.reset.wr SYS_D2D_STAT_UP 1, by decide⟩⟩

/-- States and operands that meet the hypotheses of ConverterCommands. -/
theorem witness_ConverterCommands_a :
    (∃ (s : State) (a : Fin 4) (e : Nat) (len : Nat) (r : List (Nat × Nat)), (s.adc a).evq = (e, len) :: r ∧ s.linkUp ∧ len < 16 ∧ s.on (ADC_STAT_SEQ a) = false ∧ s.on (ADC_STAT_CAL a) = false ∧ s.on (ADC_STAT_URG a) = false ∧ (s.adc a).waitE = none) ∧
    (∃ (s : State) (a : Fin 4) (e : Nat) (len : Nat) (r : List (Nat × Nat)), (s.adc a).evq = (e, len) :: r ∧ (s.linkUp = false ∨ s.on (ADC_STAT_SEQ a) ∨ s.on (ADC_STAT_CAL a))) ∧
    (∃ (s : State) (a : Fin 4), s.on (ADC_STAT_URG a) = false ∧ s.on (ADC_STAT_SEQ a) ∧ s.rd (ADC_STAT_STEP a) < (s.adc a).last ∧ (s.adc a).last < 16 ∧ s.linkUp ∧ s.dev ≠ 5 ∧ s.on (SAFE_HLD 1) = false ∧ D2dLoad.result a ∉ s.sys.lost) ∧
    (∃ (s : State) (a : Fin 4), s.on (ADC_STAT_URG a) ∧ (s.adc a).waitE = none ∧ s.linkUp ∧ s.dev ≠ 5 ∧ s.on (SAFE_HLD 1) = false ∧ D2dLoad.result a ∉ s.sys.lost) ∧
    (∃ (s : State) (a : Fin 4), s.dev ≠ 5 ∧ s.on (ADC_CTL_EN a) ∧ s.linkUp ∧ s.on (ADC_STAT_BUSY a) = false ∧ (s.adc a).evq = []) ∧
    (∃ (s : State) (a : Fin 4), (s.adc a).win.any fun w => decide (s.t16 + 640000 ≤ w + 16000 * s.rd (ADC_CAL_WIN_LEN a)) ∧ s.on (ADC_STAT_BUSY a) = false ∧ s.dev ≠ 5 ∧ s.linkUp ∧ D2dLoad.cal a ∉ s.sys.lost) :=
  ⟨⟨(((State.reset.wr SYS_D2D_STAT_UP 1).wr SYS_DEV_STATE_STATE 1).wr (ADC_CTL_EN 2) 1).setAdc 2 { evq := [(640, 3)] }, 2, 640, 3, [], by decide⟩,
   ⟨((((State.reset.wr SYS_D2D_STAT_UP 1).wr SYS_DEV_STATE_STATE 1).wr (ADC_CTL_EN 2) 1).wr (ADC_STAT_SEQ 2) 1).setAdc 2 { evq := [(640, 3)] }, 2, 640, 3, [], by decide⟩,
   ⟨((((State.reset.wr SYS_D2D_STAT_UP 1).wr SYS_DEV_STATE_STATE 1).wr (ADC_CTL_EN 2) 1).wr (ADC_STAT_SEQ 2) 1).setAdc 2 { last := 3 }, 2, by decide⟩,
   ⟨((((State.reset.wr SYS_D2D_STAT_UP 1).wr SYS_DEV_STATE_STATE 1).wr (ADC_CTL_EN 2) 1).wr (ADC_STAT_URG 2) 1), 2, by decide⟩,
   ⟨(((State.reset.wr SYS_D2D_STAT_UP 1).wr SYS_DEV_STATE_STATE 1).wr (ADC_CTL_EN 2) 1), 2, by decide⟩,
   ⟨((((State.reset.wr SYS_D2D_STAT_UP 1).wr SYS_DEV_STATE_STATE 1).wr (ADC_CTL_EN 2) 1).wr (ADC_CAL_WIN_LEN 2) 100).setAdc 2 { win := some 0 }, 2, by decide⟩⟩

/-- States and operands that meet the hypotheses of ConverterCommands. -/
theorem witness_ConverterCommands_b :
    (∃ (s : State) (a : Fin 4), s.on (ADC_STAT_CAL a)) ∧
    (∃ (s : State), s.on ANA_REF_CTL_EN) ∧
    (∃ (s : State) (i : Fin 24), s.linkUp ∧ cEN (s.cmp i) = false ∧ D2dLoad.setting i ∉ s.sys.lost) ∧
    (∃ (s : State) (i : Fin 24) (v : Int), s.on (CMP_STAT_HELD i) ∧ s.on (CMP_STAT_SETTLING i) = false ∧ s.on ANA_REF_CTL_READY ∧ cPOL (s.cmp i) = false ∧ ((s.cmp i).dac / 4 ^ bitsOf (s.cmp i).ctl 3 2 * 4 ^ bitsOf (s.cmp i).ctl 3 2 * 2500000000 : Nat) < v * 4096) ∧
    (∃ (s : State) (i : Fin 24) (v : Int), cEN (s.cmp i) ∧ s.on (CMP_STAT_HELD i) = false ∧ s.on (CMP_STAT_SETTLING i) = false ∧ s.on ANA_REF_CTL_READY ∧ s.on (CMP_STAT_OUT i) = false ∧ cPOL (s.cmp i) = false ∧ ((s.cmp i).dac / 4 ^ bitsOf (s.cmp i).ctl 3 2 * 4 ^ bitsOf (s.cmp i).ctl 3 2 * 2500000000 : Nat) < v * 4096) ∧
    (∃ (s : State) (i : Fin 24) (v : Int), cEN (s.cmp i) ∧ s.on (CMP_STAT_HELD i) = false ∧ s.on (CMP_STAT_SETTLING i) = false ∧ s.on ANA_REF_CTL_READY ∧ cLATCH (s.cmp i) = 0 ∧ cPOL (s.cmp i) = false ∧ v * 4096 < ((s.cmp i).dac / 4 ^ bitsOf (s.cmp i).ctl 3 2 * 4 ^ bitsOf (s.cmp i).ctl 3 2 * 2500000000 : Nat) - cHyst (s.cmp i) * 4096) :=
  ⟨⟨(((State.reset.wr SYS_D2D_STAT_UP 1).wr SYS_DEV_STATE_STATE 1).wr (ADC_CTL_EN 2) 1).wr (ADC_STAT_CAL 2) 1, 2, by decide⟩,
   ⟨State.reset.wr ANA_REF_CTL_EN 1, by decide⟩,
   ⟨State.reset.wr SYS_D2D_STAT_UP 1, 5, by decide⟩,
   ⟨(((State.reset.setCmp 5 { ctl := 1 }).wr SYS_D2D_STAT_UP 1).wr ANA_REF_CTL_READY 1).wr (CMP_STAT_HELD 5) 1, 5, 1, by decide⟩,
   ⟨(((State.reset.setCmp 5 { ctl := 1 }).wr SYS_D2D_STAT_UP 1).wr ANA_REF_CTL_READY 1), 5, 1, by decide⟩,
   ⟨(((State.reset.setCmp 5 { ctl := 1 }).wr SYS_D2D_STAT_UP 1).wr ANA_REF_CTL_READY 1).setCmp 5 { ctl := 1, dac := 2000 }, 5, 0, by decide⟩⟩

/-- States and operands that meet the hypotheses of ConverterCommands. -/
theorem witness_ConverterCommands_c :
    ∃ (s : State) (i : Fin 24), s.cmpHeldOut i = false :=
  ⟨(((State.reset.setCmp 5 { ctl := 1 }).wr SYS_D2D_STAT_UP 1).wr ANA_REF_CTL_READY 1), 5, by decide⟩

/-- States and operands that meet the hypotheses of TemperatureAndWake. -/
theorem witness_TemperatureAndWake_a :
    (∃ (m : BitVec 12) (i : Fin 12), m.toNat.testBit i) ∧
    (∃ (s : State) (i : Fin 12), i.val ∈ s.sys.thm ∧ s.bitAt THM_STAT_BROKEN i = false ∧ (i.val < 9 ∨ (s.linkUp ∧ D2dLoad.temp i ∉ s.sys.lost))) ∧
    (∃ (s : State) (i : Fin 12), s.bitAt THM_STAT_BROKEN i = false ∧ (∀ g : Fin 4, (s.setBit THM_STAT_BROKEN i).hotVotes g < 2) ∧ s.on THM_STAT_SD = false) ∧
    (∃ (s : State) (i : Fin 12), (∀ g : Fin 4, (s.clrBit THM_STAT_BROKEN i).hotVotes g < 2)) ∧
    (∃ (s : State) (i : Fin 12) (v : BitVec 16), 135 * 16 < v.toInt ∧ s.on THM_STAT_SD = false ∧ 2 ≤ (s.setBit THM_HOT_HOT i).hotVotes (i / 3)) ∧
    (∃ (s : State) (i : Fin 12) (v : BitVec 16), v.toInt < 125 * 16 ∧ (∀ g : Fin 4, (s.clrBit THM_HOT_HOT i).hotVotes g < 2)) :=
  ⟨⟨0x021, 5, by decide⟩,
   ⟨State.reset.setSys { thm := [5] }, 5, by decide⟩,
   ⟨State.reset, 5, by decide⟩,
   ⟨State.reset, 5, by decide⟩,
   ⟨State.reset.setBit THM_HOT_HOT 4, 5, 0x900, by decide⟩,
   ⟨State.reset.setBit THM_HOT_HOT 4, 5, 0x100, by decide⟩⟩

/-- States and operands that meet the hypotheses of TemperatureAndWake. -/
theorem witness_TemperatureAndWake_b :
    ∃ (s : State) (k : Fin 32), s.dev = 5 ∧ (k.val = 31 ∧ s.on ANA_WAKE_TT_EN ∨ k.val < 24 ∧ s.on (CMP_CTL_WAKE_EN k) ∧ s.on (CMP_STAT_OUT k)) :=
  ⟨((State.reset.wr SYS_DEV_STATE_STATE 5).wr (CMP_CTL_WAKE_EN 3) 1).wr (CMP_STAT_OUT 3) 1, 3, by decide⟩

/-- States and operands that meet the hypotheses of FaultCollector. -/
theorem witness_FaultCollector_a :
    (∃ (s : State) (d : Fin 36) (m : Msg) (r : List Msg), (s.fqOf d).msgs = m :: r ∧ mCls m < 13 ∧ s.on FLT_HIST_STAT_FROZEN = false) ∧
    (∃ (s : State) (d : Fin 36) (m : Msg) (r : List Msg), (s.fqOf d).msgs = m :: r ∧ mCls m < 13 ∧ s.on FLT_HIST_STAT_FROZEN) ∧
    (∃ (s : State) (d : Fin 36) (m : Msg) (r : List Msg), (s.fqOf d).msgs = m :: r ∧ mCls m < 13 ∧ s.protCellOf m = none ∧ s.enterSev m < 3 ∧ s.rd TRC_TRIG_SRC ≠ 1) ∧
    (∃ (m : BitVec 32), m.toNat / 2 ^ 13 % 8 = 0) ∧
    (∃ (m : BitVec 32), m.toNat / 2 ^ 13 % 8 ≠ 0) ∧
    (∃ (s : State) (i : Fin 32), s.rd FLT_HIST_STAT_FREEZE_IDX = i.val) :=
  ⟨⟨(State.reset.post srcENG 3 1 clsPROGRAM 2 7), 0, ((State.reset.post srcENG 3 1 clsPROGRAM 2 7).fqOf 0).msgs.head!, [], by decide⟩,
   ⟨(State.reset.post srcENG 3 1 clsPROGRAM 2 7).set1 FLT_HIST_STAT_FROZEN, 0, ((State.reset.post srcENG 3 1 clsPROGRAM 2 7).fqOf 0).msgs.head!, [], by decide⟩,
   ⟨(State.reset.post srcENG 3 1 clsPROGRAM 2 7), 0, ((State.reset.post srcENG 3 1 clsPROGRAM 2 7).fqOf 0).msgs.head!, [], by decide⟩,
   ⟨0x4, by decide⟩,
   ⟨0x4000, by decide⟩,
   ⟨(State.reset.wr FLT_HIST_STAT_FROZEN 1).wr FLT_HIST_STAT_FREEZE_IDX 4, 4, by decide⟩⟩

/-- States and operands that meet the hypotheses of FaultCollector. -/
theorem witness_FaultCollector_b :
    ∃ (s : State) (i : Fin 32), s.rd FLT_HIST_STAT_FREEZE_IDX ≠ i.val :=
  ⟨State.reset, 5, by decide⟩

/-- States and a severity for each clause of FaultReactions. -/
theorem witness_FaultReactions :
    (∃ (s : State) (src inst : Nat), (s.fqOf (domainOf src inst)).msgs.length < 16 ∧ (s.fqOf (domainOf src inst)).held = none) ∧
    (∃ (s : State) (src inst : Nat), 16 ≤ (s.fqOf (domainOf src inst)).msgs.length ∧ (s.fqOf (domainOf src inst)).held = none) ∧
    (∃ (s : State) (src inst : Nat), (s.fqOf (domainOf src inst)).held.isSome = true) ∧
    (∃ (s : State) (sev : Nat), 5 ≤ sev ∧ s.dev = 3 ∧ s.rd SADL_STAT_ROLE = 3) :=
  ⟨⟨State.reset, srcTB, 0, by decide⟩,
   ⟨State.reset.setFq 1 { msgs := List.replicate 16 0 }, srcTB, 0, by decide⟩,
   ⟨State.reset.setFq 1 { held := some 0 }, srcTB, 0, by decide⟩,
   ⟨(State.reset.wr SYS_DEV_STATE_STATE 3).wr SADL_STAT_ROLE 3, 5, by decide⟩⟩

/-- States and operands that meet the hypotheses of ClockCommands. -/
theorem witness_ClockCommands_a :
    (∃ (s : State), s.on CLK_SYS_CTL_EN = false) ∧
    (∃ (s : State), s.on CLK_SYS_CTL_EN) ∧
    (∃ (s : State), s.on CLK_TB_CTL_EN = false) ∧
    (∃ (s : State), s.on CLK_TB_CTL_EN) ∧
    (∃ (s : State) (r : Fin 2), s.on (refOK r) ∧ s.sys.swTo = none) ∧
    (∃ (s : State), s.on CLK_TB_STAT_REF0_OK ∧ s.on CLK_SYS_CTL_EN ∧ s.sys.swTo = none ∧ (s.on CLK_TB_CTL_EN = false ∨ s.rd CLK_TB_STAT_SRC_ACT ≠ 0)) :=
  ⟨⟨State.reset, by decide +kernel⟩,
   ⟨State.reset.set1 CLK_SYS_CTL_EN, by decide⟩,
   ⟨State.reset, by decide⟩,
   ⟨State.reset.set1 CLK_TB_CTL_EN, by decide⟩,
   ⟨((State.reset.wr CLK_TB_STAT_REF0_OK 1).wr CLK_SYS_CTL_EN 1).wr CLK_SYS_STAT_LOCK 1, 0, by decide⟩,
   ⟨((State.reset.wr CLK_TB_STAT_REF0_OK 1).wr CLK_SYS_CTL_EN 1).wr CLK_SYS_STAT_LOCK 1, by decide⟩⟩

/-- States and operands that meet the hypotheses of ClockCommands. -/
theorem witness_ClockCommands_b :
    (∃ (s : State) (r : Fin 2), s.on (refOK r) ∧ s.sys.swTo = none ∧ (r = 1 ∨ s.on CLK_SYS_CTL_EN = false)) ∧
    (∃ (s : State) (r : Fin 2), s.on (refOK r) = false) ∧
    (∃ (s : State) (r : Fin 2), s.on (refOK r) = false) ∧
    (∃ (s : State) (r : Fin 2), s.on (refOK r) = false ∧ s.on CLK_TB_STAT_COAST ∧ s.rd CLK_TB_STAT_SRC_ACT = r.val ∧ s.sys.swTo = none) ∧
    (∃ (s : State) (r : Fin 2), s.on (refOK r)) ∧
    (∃ (s : State), s.on CLK_TB_CTL_EN = false) :=
  ⟨⟨State.reset.wr CLK_TB_STAT_REF1_OK 1, 1, by decide⟩,
   ⟨State.reset, 1, by decide⟩,
   ⟨State.reset, 1, by decide⟩,
   ⟨(State.reset.set1 CLK_TB_STAT_COAST).wr CLK_TB_STAT_SRC_ACT 1, 1, by decide⟩,
   ⟨State.reset.set1 (refOK 1), 1, by decide⟩,
   ⟨State.reset, by decide +kernel⟩⟩

/-- States and operands that meet the hypotheses of ClockCommands. -/
theorem witness_ClockCommands_c :
    (∃ (s : State) (r : Fin 2), s.on CLK_TB_CTL_EN ∧ s.rd CLK_TB_STAT_SRC_ACT ≠ r.val ∧ s.sys.swTo ≠ some r.val) ∧
    (∃ (s : State) (r : Fin 2), s.on CLK_TB_CTL_EN ∧ s.rd CLK_TB_STAT_SRC_ACT = r.val ∧ s.on CLK_TB_STAT_COAST = false) ∧
    (∃ (s : State) (r : Fin 2), s.sys.swTo = some r.val ∧ s.sys.swRamp) ∧
    (∃ (s : State), s.on CLK_TB_STAT_LOCK) ∧
    (∃ (s : State), s.on CLK_TB_STAT_LOCK = false) ∧
    (∃ (s : State), s.on CLK_TB_STAT_DLL_LOCK) :=
  ⟨⟨State.reset.wr CLK_TB_CTL_EN 1, 1, by decide⟩,
   ⟨State.reset.wr CLK_TB_CTL_EN 1, 0, by decide⟩,
   ⟨State.reset.setSys { swTo := some 1, swRamp := true }, 1, by decide⟩,
   ⟨State.reset.wr CLK_TB_STAT_LOCK 1, by decide⟩,
   ⟨State.reset, by decide⟩,
   ⟨State.reset.wr CLK_TB_STAT_DLL_LOCK 1, by decide⟩⟩

/-- States and operands that meet the hypotheses of ClockCommands. -/
theorem witness_ClockCommands_d :
    (∃ (s : State), s.dev = 0 ∧ s.limp ∧ s.on CLK_SYS_STAT_LOCK = false) ∧
    (∃ (s : State) (p : Fin 2) (d : Nat), s.dev ≠ 0 ∧ ((p = 0 → s.rd CLK_SYS_FREQ_KHZ = 800000 ∧ s.on CLK_RAMP_STAT_S_BUSY = false ∧ s.on CLK_SYS_STAT_SPREAD = false) ∧ (p = 1 → s.sys.tbOfs = 0 ∧ s.on CLK_RAMP_STAT_T_BUSY = false ∧ s.sys.swTo = none)) ∧ s.on (pllEN p) ∧ s.on (pllLOCK p) ∧ s.on (pllCOAST p) = false ∧ (2 ^ (s.pll p).k ≤ d + (s.pll p).tol ∧ d ≤ 2 ^ (s.pll p).k + (s.pll p).tol)) ∧
    (∃ (s : State) (p : Fin 2) (d : Nat), s.dev ≠ 0 ∧ ((p = 0 → s.rd CLK_SYS_FREQ_KHZ = 800000 ∧ s.on CLK_RAMP_STAT_S_BUSY = false ∧ s.on CLK_SYS_STAT_SPREAD = false) ∧ (p = 1 → s.sys.tbOfs = 0 ∧ s.on CLK_RAMP_STAT_T_BUSY = false ∧ s.sys.swTo = none)) ∧ s.on (pllEN p) ∧ s.on (pllLOCK p) = false ∧ s.on (pllCOAST p) = false ∧ (2 ^ (s.pll p).k ≤ d + (s.pll p).tol ∧ d ≤ 2 ^ (s.pll p).k + (s.pll p).tol) ∧ (s.pll p).m ≤ (s.pll p).good + 1) ∧
    (∃ (s : State) (p : Fin 2) (d : Nat), s.dev ≠ 0 ∧ ((p = 0 → s.rd CLK_SYS_FREQ_KHZ = 800000 ∧ s.on CLK_RAMP_STAT_S_BUSY = false ∧ s.on CLK_SYS_STAT_SPREAD = false) ∧ (p = 1 → s.sys.tbOfs = 0 ∧ s.on CLK_RAMP_STAT_T_BUSY = false ∧ s.sys.swTo = none)) ∧ s.on (pllEN p) ∧ s.on (pllLOCK p) ∧ s.on (pllCOAST p) = false ∧ s.on (refOK (s.refOf p)) ∧ 1 ≤ (s.pll p).bad ∧ (¬ (2 ^ (s.pll p).k ≤ d + (s.pll p).tol ∧ d ≤ 2 ^ (s.pll p).k + (s.pll p).tol))) ∧
    (∃ (s : State), s.allFit (s.rd CLK_SYS_RAMP_END) s.spreadNow ∧ s.on CLK_RAMP_STAT_S_BUSY = false ∧ 400000 ≤ s.rd CLK_SYS_RAMP_END ∧ s.rd CLK_SYS_RAMP_END ≤ 800000 ∧ s.on CLK_SYS_CTL_EN ∧ s.on CLK_SYS_STAT_LOCK ∧ s.limp = false) ∧
    (∃ (s : State) (y : Nat), (y = if s.allFit (s.rd CLK_SYS_RAMP_END) s.spreadNow = false then 1 else if s.on CLK_RAMP_STAT_S_BUSY then 2 else if s.rd CLK_SYS_RAMP_END < 400000 ∨ 800000 < s.rd CLK_SYS_RAMP_END then 3 else if s.on CLK_SYS_CTL_EN = false ∨ s.on CLK_SYS_STAT_LOCK = false then 4 else if s.limp then 5 else 0) ∧ y ≠ 0) :=
  ⟨⟨State.reset, by decide +kernel⟩,
   ⟨((((State.reset.wr CLK_SYS_CTL_EN 1).wr CLK_SYS_STAT_LOCK 1).wr CLK_SYS_FREQ_KHZ 800000).wr SYS_DEV_STATE_STATE 1).wr CLK_TB_STAT_REF0_OK 1, 0, 4097, by decide⟩,
   ⟨(((((State.reset.wr CLK_SYS_CTL_EN 1).wr CLK_SYS_STAT_LOCK 1).wr CLK_SYS_FREQ_KHZ 800000).wr SYS_DEV_STATE_STATE 1).wr CLK_TB_STAT_REF0_OK 1).clr CLK_SYS_STAT_LOCK |>.setSys { pllS := { good := 3 } }, 0, 4096, by decide⟩,
   ⟨(((((State.reset.wr CLK_SYS_CTL_EN 1).wr CLK_SYS_STAT_LOCK 1).wr CLK_SYS_FREQ_KHZ 800000).wr SYS_DEV_STATE_STATE 1).wr CLK_TB_STAT_REF0_OK 1).setSys { pllS := { bad := 1 } }, 0, 4090, by decide⟩,
   ⟨(((State.reset.wr CLK_SYS_CTL_EN 1).wr CLK_SYS_STAT_LOCK 1).clr SYS_DEV_STATE_LIMP).wr CLK_SYS_RAMP_END 600000, by decide⟩,
   ⟨State.reset.wr CLK_RAMP_STAT_S_BUSY 1, 2, by decide⟩⟩

/-- States and operands that meet the hypotheses of ClockCommands. -/
theorem witness_ClockCommands_e :
    (∃ (s : State), s.on CLK_RAMP_STAT_S_BUSY) ∧
    (∃ (s : State) (d : BitVec 7), d.toNat ≤ 100 ∧ (s.allFit s.centre d.toNat ∨ (s.on CLK_SYS_STAT_SPREAD ∧ d.toNat ≤ s.rd CLK_SYS_SPREAD_DEPTH))) ∧
    (∃ (s : State) (d : BitVec 7), d.toNat ≤ 100 ∧ s.allFit s.centre d.toNat = false ∧ (s.on CLK_SYS_STAT_SPREAD = false ∨ s.rd CLK_SYS_SPREAD_DEPTH < d.toNat)) ∧
    (∃ (d : BitVec 7), d.toNat ≤ 100) ∧
    (∃ (d : BitVec 7), 100 < d.toNat) ∧
    (∃ (s : State), (toInt 16 (s.rd CLK_TB_RAMP_END)).natAbs ≤ 10000 ∧ s.on CLK_RAMP_STAT_T_BUSY = false ∧ s.on CLK_TB_CTL_EN ∧ s.on CLK_TB_STAT_LOCK ∧ s.limp = false) :=
  ⟨⟨(State.reset.wr CLK_RAMP_STAT_S_BUSY 1).setSys { rampTo := 700000 }, by decide⟩,
   ⟨State.reset, 50, by decide⟩,
   ⟨((State.reset.clr SYS_DEV_STATE_LIMP).wr (ENG_TASK_CFG_EN 0 0) 1).wr (ENG_TASK_BUDGET_CYCLES 0 0) 1000000, 50, by decide⟩,
   ⟨50, by decide⟩,
   ⟨101, by decide⟩,
   ⟨((State.reset.wr CLK_TB_CTL_EN 1).wr CLK_TB_STAT_LOCK 1).clr SYS_DEV_STATE_LIMP, by decide⟩⟩

/-- States and operands that meet the hypotheses of ClockCommands. -/
theorem witness_ClockCommands_f :
    (∃ (s : State) (y : Nat), (y = if s.on CLK_RAMP_STAT_T_BUSY then 2 else if 10000 < (toInt 16 (s.rd CLK_TB_RAMP_END)).natAbs then 3 else if s.on CLK_TB_CTL_EN = false ∨ s.on CLK_TB_STAT_LOCK = false then 4 else if s.limp then 5 else 0) ∧ y ≠ 0) ∧
    (∃ (s : State), s.on CLK_RAMP_STAT_T_BUSY ∧ s.sys.swTo = none) :=
  ⟨⟨State.reset, 4, by decide⟩,
   ⟨State.reset.wr CLK_RAMP_STAT_T_BUSY 1, by decide⟩⟩

/-- States and operands that meet the hypotheses of TimebaseCommands. -/
theorem witness_TimebaseCommands :
    (∃ (s : State), s.on TB_SLEW_CTL_BUSY = false ∧ ((s.reg TB_INC : Int) - 0x2000000).natAbs + s.rd TB_SLEW_CTL_RATE ≤ 0x0D00 ∧ s.rd TB_SLEW_AMT_AMT ≠ 0) ∧
    (∃ (s : State), s.on TB_SLEW_CTL_BUSY = false ∧ 0x0D00 < ((s.reg TB_INC : Int) - 0x2000000).natAbs + s.rd TB_SLEW_CTL_RATE) ∧
    (∃ (s : State), s.on TB_SLEW_CTL_BUSY) ∧
    (∃ (s : State), s.on CLK_TB_CTL_EN ∧ s.on TB_SLEW_CTL_BUSY ∧ 0 < s.rd TB_SLEW_CTL_RATE ∧ s.slewTo < (max s.frame s.frames + 1) * 1000 * 2 ^ 24) ∧
    (∃ (s : State), s.on LOOP_CYC_CFG_EN = false ∧ s.on MOD_CFG_EN = false ∧ (∀ n : Fin 24, s.on (CHAIN_CFG_EN n) = false)) ∧
    (∃ (s : State), (s.on LOOP_CYC_CFG_EN ∨ s.on MOD_CFG_EN ∨ ∃ n : Fin 24, s.on (CHAIN_CFG_EN n))) :=
  ⟨⟨(State.reset.wr TB_SLEW_AMT_AMT 160).wr TB_SLEW_CTL_RATE 16, by decide⟩,
   ⟨(State.reset.wr TB_SLEW_AMT_AMT 160).wr TB_SLEW_CTL_RATE 0xD01, by decide⟩,
   ⟨State.reset.wr TB_SLEW_CTL_BUSY 1, by decide⟩,
   ⟨(((State.reset.set1 CLK_TB_CTL_EN).wr TB_SLEW_CTL_BUSY 1).wr TB_SLEW_CTL_RATE 16).setSys { slew := 1000 }, by decide⟩,
   ⟨State.reset.wr TB_SET_NS_NS 500, by decide⟩,
   ⟨State.reset.set1 MOD_CFG_EN, by decide⟩⟩

/-- States and operands that meet the hypotheses of TriggersAndCaptures. -/
theorem witness_TriggersAndCaptures_a :
    (∃ (s : State) (k : Fin 32) (w : BitVec 32), w.toNat / 8 % 256 < 192 ∧ (s.on CLK_TB_CTL_EN = false ∨ s.ttDueNow k = false)) ∧
    (∃ (w : BitVec 32), 192 ≤ w.toNat / 8 % 256) ∧
    (∃ (s : State) (k : Fin 32) (i : Nat), s.on CLK_TB_CTL_EN ∧ s.rd (TB_TT_CFG_MODE k) = 1 ∧ (s.tt k).next = some i ∧ s.dev ≠ 5) ∧
    (∃ (s : State) (k : Fin 32) (i : Nat) (r : List Nat), s.on CLK_TB_CTL_EN ∧ s.rd (TB_TT_CFG_MODE k) ≠ 1 ∧ (s.tt k).dues = i :: r ∧ s.dev ≠ 5) ∧
    (∃ (s : State) (k : Fin 32) (i : Nat), s.on CLK_TB_CTL_EN ∧ s.rd (TB_TT_CFG_MODE k) = 1 ∧ (s.tt k).next = some i ∧ s.dev = 5 ∧ (s.on ANA_WAKE_TT_EN = false ∨ s.rd ANA_WAKE_TT_SEL ≠ k.val)) ∧
    (∃ (s : State) (k : Fin 32) (i : Nat), s.on CLK_TB_CTL_EN ∧ s.rd (TB_TT_CFG_MODE k) = 1 ∧ (s.tt k).next = some i ∧ s.dev = 5 ∧ (s.on ANA_WAKE_TT_EN ∧ s.rd ANA_WAKE_TT_SEL = k.val)) :=
  ⟨⟨(State.reset.wr (TB_TT_PERIOD_NS 7) 1000).setReg (TB_TT_START_SEC 7) 5, 7, 1, by decide⟩,
   ⟨0x600, by decide⟩,
   ⟨((((State.reset.set1 CLK_TB_CTL_EN).wr (TB_TT_CFG_MODE 7) 1).setTt 7 { next := some 2000, period := 50 }).wr (ENG_TASK_CFG_EN 2 3) 1).wr (ENG_TASK_CFG_TT 2 3) 7, 7, 2000, by decide⟩,
   ⟨((((State.reset.set1 CLK_TB_CTL_EN).wr (TB_TT_CFG_MODE 7) 2).setTt 7 { dues := [32000] }).wr (ENG_TASK_CFG_EN 2 3) 1).wr (ENG_TASK_CFG_TT 2 3) 7, 7, 32000, [], by decide⟩,
   ⟨(((State.reset.set1 CLK_TB_CTL_EN).wr SYS_DEV_STATE_STATE 5).wr (TB_TT_CFG_MODE 7) 1).setTt 7 { next := some 2000, period := 50 }, 7, 2000, by decide⟩,
   ⟨(((((State.reset.set1 CLK_TB_CTL_EN).wr SYS_DEV_STATE_STATE 5).wr (TB_TT_CFG_MODE 7) 1).set1 ANA_WAKE_TT_EN).wr ANA_WAKE_TT_SEL 7).setTt 7 { next := some 2000, period := 50 }, 7, 2000, by decide⟩⟩

/-- States and operands that meet the hypotheses of TriggersAndCaptures. -/
theorem witness_TriggersAndCaptures_b :
    (∃ (s : State) (k : Fin 8) (up : Bool), s.on CLK_TB_CTL_EN ∧ s.on (TB_CAP_CFG_EN k) ∧ s.rd (TB_CAP_CFG_SRC k) = 24 ∧ s.on (TB_CAP_CFG_EDGE k) = !up ∧ s.on (TB_CAP_STAT_NEW k) = false) ∧
    (∃ (s : State) (k : Fin 8) (up : Bool), s.on CLK_TB_CTL_EN ∧ s.on (TB_CAP_CFG_EN k) ∧ s.rd (TB_CAP_CFG_SRC k) = 24 ∧ s.on (TB_CAP_CFG_EDGE k) = !up ∧ s.on (TB_CAP_STAT_NEW k)) ∧
    (∃ (s : State) (k : Fin 8) (up : Bool), (s.on (TB_CAP_CFG_EN k) = false ∨ s.rd (TB_CAP_CFG_SRC k) ≠ 24 ∨ s.on (TB_CAP_CFG_EDGE k) = up)) ∧
    (∃ (s : State) (k : Fin 32) (n : Fin 16) (j : Fin 8) (r : List TrigE), s.trigq = { t := k, rel := true, pf := false } :: r ∧ s.slotEn n j ∧ s.rd (ENG_TASK_CFG_TT n j) = k.val ∧ s.limp = false ∧ s.engSt n = 1 ∧ (s.eng n).migr = false ∧ j.val ∉ (s.eng n).relq ∧ j.val ∉ (s.eng n).held) ∧
    (∃ (s : State) (k : Fin 32) (n : Fin 16) (j : Fin 8) (r : List TrigE), s.trigq = { t := k, rel := false, pf := true } :: r ∧ s.slotEn n j ∧ s.on (ENG_TASK_CFG_PF_EN n j) ∧ s.rd (ENG_TASK_CFG_PF_TT n j) = k.val ∧ s.limp = false ∧ s.engSt n = 1) :=
  ⟨⟨((State.reset.set1 CLK_TB_CTL_EN).wr (TB_CAP_CFG_EN 3) 1).wr (TB_CAP_CFG_SRC 3) 24, 3, true, by decide⟩,
   ⟨(((State.reset.set1 CLK_TB_CTL_EN).wr (TB_CAP_CFG_EN 3) 1).wr (TB_CAP_CFG_SRC 3) 24).wr (TB_CAP_STAT_NEW 3) 1, 3, true, by decide⟩,
   ⟨State.reset, 3, true, by decide⟩,
   ⟨{ ((((State.reset.wr (ENG_STAT_STATE 2) 1).wr (ENG_TASK_CFG_EN 2 3) 1).wr (ENG_TASK_CFG_TT 2 3) 7).clr SYS_DEV_STATE_LIMP) with trigq := [{ t := 7, rel := true, pf := false }] }, 7, 2, 3, [], by decide⟩,
   ⟨{ (((((((State.reset.wr (ENG_STAT_STATE 2) 1).wr (ENG_TASK_CFG_EN 2 3) 1).wr (ENG_TASK_CFG_TT 2 3) 7).clr SYS_DEV_STATE_LIMP)).wr (ENG_TASK_CFG_PF_EN 2 3) 1).wr (ENG_TASK_CFG_PF_TT 2 3) 7) with trigq := [{ t := 7, rel := false, pf := true }] }, 7, 2, 3, [], by decide⟩⟩

/-- States and operands that meet the hypotheses of IslandInputs. -/
theorem witness_IslandInputs_a :
    (∃ (s : State) (i : Fin 2), s.islSees ∧ s.on (SAFE_IN i) ∧ s.on (SAFE_DEM 0) = false) ∧
    (∃ (s : State) (i : Fin 2), (s.islSt = 0 ∨ s.islSt = 4) ∧ s.on (SAFE_IN i)) ∧
    (∃ (s : State) (i : Fin 2), s.on (SAFE_IN (2 + i)) ∧ s.islSt = 3) ∧
    (∃ (s : State) (i : Fin 2), s.on (SAFE_IN (2 + i)) ∧ s.islSt = 2 ∧ s.on (SAFE_OUT 2) = false) ∧
    (∃ (s : State) (i : Fin 2), s.on (SAFE_IN (2 + i)) ∧ s.islSt ≠ 3 ∧ (s.islSt ≠ 2 ∨ s.on (SAFE_OUT 2))) ∧
    (∃ (s : State), s.on (SAFE_IN 4)) :=
  ⟨⟨(State.reset.wr SAFE_STATE_STATE 3).wr (SAFE_IN 1) 1, 1, by decide⟩,
   ⟨State.reset.wr (SAFE_IN 1) 1, 1, by decide⟩,
   ⟨(State.reset.wr SAFE_STATE_STATE 3).wr (SAFE_IN 3) 1, 1, by decide⟩,
   ⟨(State.reset.wr SAFE_STATE_STATE 2).wr (SAFE_IN 3) 1, 1, by decide⟩,
   ⟨(State.reset.wr (SAFE_IN 3) 1).wr SAFE_STATE_STATE 1, 1, by decide⟩,
   ⟨State.reset.wr (SAFE_IN 4) 1, by decide⟩⟩

/-- States and operands that meet the hypotheses of IslandInputs. -/
theorem witness_IslandInputs_b :
    (∃ (s : State), s.on (SAFE_IN 5)) ∧
    (∃ (s : State) (i : Fin 6), s.on (SAFE_IN i) = false) ∧
    (∃ (s : State) (b : Nat), s.on (SAFE_IN 2) = false ∧ s.isl.closeB = some b ∧ max s.ns b - min s.ns b ≤ 100000000 ∧ s.isl.proofOpen ∧ s.on (SAFE_OUT 2)) ∧
    (∃ (s : State) (i : Fin 6), s.on (SAFE_IN i)) ∧
    (∃ (s : State) (k : Fin 3), s.islSees ∧ s.disagree k ∧ k.val ∉ s.isl.disc) ∧
    (∃ (s : State) (k : Fin 3), (s.islSees = false ∨ s.disagree k = false ∨ k.val ∈ s.isl.disc)) :=
  ⟨⟨State.reset.wr (SAFE_IN 5) 1, by decide⟩,
   ⟨State.reset, 1, by decide⟩,
   ⟨((State.reset.wr (SAFE_OUT 2) 1).setIsl { proofOpen := true, closeB := some 0 }).set1 SAFE_STATE_PROOF_DUE, 0, by decide⟩,
   ⟨State.reset.wr (SAFE_IN 1) 1, 1, by decide⟩,
   ⟨(State.reset.wr SAFE_STATE_STATE 3).wr (SAFE_IN 0) (1 - bit (State.reset.on (SAFE_IN 1))), 0, by decide⟩,
   ⟨State.reset, 0, by decide⟩⟩

/-- States and operands that meet the hypotheses of IslandInputs. -/
theorem witness_IslandInputs_c :
    (∃ (s : State) (i : Fin 4), s.islRuns ∧ s.sdmRole i = 1 ∧ i.val ∉ s.isl.slc ∧ (s.on (SAFE_SDM_STUCK i) ∨ s.param (0x2E + 16 * i) 2 < absW (s.rd (SAFE_SDM_VALUE i)))) ∧
    (∃ (s : State), s.islRuns ∧ s.on (SAFE_IN 5) = false ∧ s.iDir < -(s.param 0x6A 2 : Int) ∧ s.on (SAFE_DEM 2) = false) ∧
    (∃ (s : State) (i : Fin 4), s.on (SAFE_SDM_STUCK i) = false) ∧
    (∃ (s : State) (i : Fin 4), s.on (SAFE_SDM_STUCK i)) ∧
    (∃ (s : State), s.islSt = 2 ∧ s.rd SAFE_IO_POS = 2 ∧ s.isl.lowV.any fun v => decide (10000000000 ≤ s.ns - v) ∧ s.on SAFE_STATE_TOKENS = false ∧ s.param 0x72 2 * 1000000000 ≤ s.ns - s.isl.off) ∧
    (∃ (s : State), s.isl.mbin.length < 16 ∧ s.islSees) :=
  ⟨⟨(((State.reset.wr SAFE_STATE_STATE 2).setReg (SAFE_PARAM 10) 1).setReg (SAFE_PARAM 11) 0x00640032).wr (SAFE_SDM_VALUE 0) 0x7000, 0, by decide⟩,
   ⟨(State.reset.wr SAFE_STATE_STATE 2).wr (SAFE_SDM_VALUE 0) 0xFFF0, by decide⟩,
   ⟨((State.reset.wr SAFE_STATE_STATE 2).setReg (SAFE_PARAM 10) 1).setReg (SAFE_PARAM 11) 0x00640032, 0, by decide⟩,
   ⟨State.reset.set1 (SAFE_SDM_STUCK 0), 0, by decide⟩,
   ⟨((State.reset.wr SAFE_STATE_STATE 2).wr SAFE_IO_POS 2).setIsl { lowV := some 0 } |>.setTb (10000000000 * 2 ^ 24), by decide⟩,
   ⟨(State.reset.wr SAFE_STATE_STATE 2), by decide⟩⟩

/-- States and operands that meet the hypotheses of IslandInputs. -/
theorem witness_IslandInputs_d :
    (∃ (s : State), s.isl.mbin.length < 16 ∧ s.islSees = false) ∧
    (∃ (s : State), 16 ≤ s.isl.mbin.length) ∧
    (∃ (s : State) (v : BitVec 32), s.isl.mbin.length < 16 ∧ s.islSees ∧ s.on SAFE_CONF_STAT_ARMED ∧ s.on (SAFE_DEM 0) ∧ v.toNat = s.reg SAFE_CHECK ∧ s.isl.blockOk) ∧
    (∃ (s : State) (v : BitVec 32) (y : Nat), s.isl.mbin.length < 16 ∧ s.islSees ∧ (y = if s.on SAFE_CONF_STAT_ARMED = false then 1 else if s.on (SAFE_DEM 0) = false then 2 else if v.toNat ≠ s.reg SAFE_CHECK then 3 else if s.isl.blockOk = false then 4 else 0) ∧ y ≠ 0) ∧
    (∃ (s : State), s.isl.mbin.length < 16 ∧ s.islSees = false) ∧
    (∃ (s : State), 16 ≤ s.isl.mbin.length) :=
  ⟨⟨State.reset, by decide +kernel⟩,
   ⟨State.reset.setIsl { mbin := List.replicate 16 0 }, by decide⟩,
   ⟨((((State.reset.wr SAFE_STATE_STATE 1).wr SAFE_CONF_STAT_ARMED 1).wr (SAFE_DEM 0) 1).setReg SAFE_CHECK 77).setIsl { blockOk := true }, 77, by decide⟩,
   ⟨((((State.reset.wr SAFE_STATE_STATE 1).wr SAFE_CONF_STAT_ARMED 1).wr (SAFE_DEM 0) 1).setReg SAFE_CHECK 77).setIsl { blockOk := true }, 78, 3, by decide⟩,
   ⟨State.reset, by decide⟩,
   ⟨State.reset.setIsl { mbin := List.replicate 16 0 }, by decide⟩⟩

set_option maxRecDepth 200000 in
/-- States and operands that meet the hypotheses of IslandInputs. -/
theorem witness_IslandInputs_e :
    (∃ (s : State) (pc : BitVec 32) (p : List (BitVec 8)) (b : List (BitVec 8)), p.length ≤ 32768 ∧ b.length = 512 ∧ s.islSt = 0 ∧ crc32c p ≠ pc.toNat) ∧
    (∃ (s : State) (pc : BitVec 32) (bc : BitVec 32) (p : List (BitVec 8)) (b : List (BitVec 8)), p.length ≤ 32768 ∧ b.length = 512 ∧ s.islSt = 0 ∧ crc32c p = pc.toNat ∧ crc32c b ≠ bc.toNat) ∧
    (∃ (s : State) (pc : BitVec 32) (bc : BitVec 32) (p : List (BitVec 8)) (b : List (BitVec 8)), p.length ≤ 32768 ∧ b.length = 512 ∧ s.islSt = 0 ∧ crc32c p = pc.toNat ∧ crc32c b = bc.toNat) ∧
    (∃ (s : State) (p : List (BitVec 8)) (b : List (BitVec 8)), p.length ≤ 32768 ∧ b.length = 512 ∧ s.islSt ≠ 0) ∧
    (∃ (s : State), s.isl.mbin.length < 16) ∧
    (∃ (s : State), 16 ≤ s.isl.mbin.length) :=
  ⟨⟨State.reset, 9, [], (List.replicate 512 0), by decide +kernel⟩,
   ⟨State.reset, 0, 0, [], (List.replicate 512 0), by decide +kernel⟩,
   ⟨State.reset, 0, (BitVec.ofNat 32 (crc32c (List.replicate 512 0))), [], (List.replicate 512 0), by decide +kernel⟩,
   ⟨(State.reset.wr SAFE_STATE_STATE 2), [], (List.replicate 512 0), by decide +kernel⟩,
   ⟨State.reset, by decide⟩,
   ⟨State.reset.setIsl { mbin := List.replicate 16 0 }, by decide⟩⟩

/-- States and operands that meet the hypotheses of IslandInputs. -/
theorem witness_IslandInputs_f :
    (∃ (s : State) (w : BitVec 32) (r : List (BitVec 32)), s.isl.mbout = w :: r ∧ r.length < 16) ∧
    (∃ (s : State), s.isl.mbout = []) :=
  ⟨⟨State.reset.setIsl { mbout := [9] }, 9, [], by decide⟩,
   ⟨State.reset, by decide +kernel⟩⟩

/-- States and operands that meet the hypotheses of IslandPermission. -/
theorem witness_IslandPermission_a :
    (∃ (s : State), s.islSt ≠ 4) ∧
    (∃ (s : State), s.islSt = 4) ∧
    (∃ (s : State) (n : Nat), s.islSt ≠ 0 ∧ s.islSt ≠ 4 ∧ s.isl.resync = false ∧ (n < 900 ∨ 1100 < n ∨ (s.isl.fc + 1) % 2 ^ 32 ≠ s.reg LOOP_FRAME_NUM)) ∧
    (∃ (s : State), s.islSt ≠ 0 ∧ s.islSt ≠ 4 ∧ s.isl.resync) ∧
    (∃ (s : State) (n : Nat), s.islSt = 3 ∧ s.isl.resync = false ∧ 900 ≤ n ∧ n ≤ 1100 ∧ (s.isl.fc + 1) % 2 ^ 32 = s.reg LOOP_FRAME_NUM ∧ s.on SAFE_STATE_TOKENS ∧ s.on (SAFE_HLD 3) = false) ∧
    (∃ (s : State) (n : Nat), s.islSt ≠ 0 ∧ s.islSt ≠ 4 ∧ s.isl.resync = false ∧ 900 ≤ n ∧ n ≤ 1100 ∧ (s.isl.fc + 1) % 2 ^ 32 = s.reg LOOP_FRAME_NUM ∧ s.on (SAFE_HLD 3)) :=
  ⟨⟨State.reset, by decide +kernel⟩,
   ⟨State.reset.wr SAFE_STATE_STATE 4, by decide⟩,
   ⟨(State.reset.wr SAFE_STATE_STATE 3), 800, by decide⟩,
   ⟨(State.reset.wr SAFE_STATE_STATE 3).setIsl { resync := true }, by decide⟩,
   ⟨((State.reset.wr SAFE_STATE_STATE 3).wr SAFE_STATE_TOKENS 1).setReg LOOP_FRAME_NUM 1, 1000, by decide⟩,
   ⟨((State.reset.wr SAFE_STATE_STATE 2).wr (SAFE_HLD 3) 1).setReg LOOP_FRAME_NUM 1, 1000, by decide⟩⟩

/-- States and operands that meet the hypotheses of IslandPermission. -/
theorem witness_IslandPermission_b :
    (∃ (s : State), (s.islSt = 0 ∨ s.islSt = 4)) ∧
    (∃ (s : State), s.islSt ≠ 0 ∧ s.islSt ≠ 4) ∧
    (∃ (s : State), s.reg SADL_EPOCH ≠ s.isl.epoch) ∧
    (∃ (s : State) (k : Nat) (e : Nat) (f : Nat) (v : Bool) (r : List (Nat × Nat × Nat × Bool)), s.reg SADL_EPOCH ≠ s.isl.epoch ∧ s.isl.banks = (k, e, f, v) :: r ∧ later32 k (s.reg LOOP_FRAME_NUM)) ∧
    (∃ (s : State), s.reg SADL_EPOCH = s.isl.epoch) ∧
    (∃ (s : State), s.on (SAFE_HLD 4) = false ∧ s.on (SAFE_HLD 0) = false) :=
  ⟨⟨State.reset, by decide +kernel⟩,
   ⟨(State.reset.wr SAFE_STATE_STATE 3), by decide⟩,
   ⟨State.reset.setReg SADL_EPOCH 5, by decide⟩,
   ⟨(State.reset.setReg SADL_EPOCH 5).setIsl { banks := [(2, 0, 1, true)] }, 2, 0, 1, true, [], by decide⟩,
   ⟨State.reset, by decide⟩,
   ⟨State.reset, by decide +kernel⟩⟩

/-- States and operands that meet the hypotheses of IslandPermission. -/
theorem witness_IslandPermission_c :
    (∃ (s : State), (s.on (SAFE_HLD 4) ∨ s.on (SAFE_HLD 0))) ∧
    (∃ (s : State), s.on (SAFE_HLD 4) = false ∧ s.on (SAFE_HLD 1) = false) ∧
    (∃ (s : State), (s.on (SAFE_HLD 4) ∨ s.on (SAFE_HLD 1))) ∧
    (∃ (s : State), s.on (SAFE_HLD 1)) ∧
    (∃ (s : State), s.on (SAFE_HLD 1) = false) ∧
    (∃ (s : State), s.islSt ≠ 3) :=
  ⟨⟨State.reset.set1 (SAFE_HLD 4), by decide⟩,
   ⟨State.reset, by decide⟩,
   ⟨State.reset.set1 (SAFE_HLD 4), by decide⟩,
   ⟨State.reset.wr (SAFE_HLD 1) 1, by decide⟩,
   ⟨State.reset, by decide⟩,
   ⟨State.reset, by decide +kernel⟩⟩

/-- States and operands that meet the hypotheses of IslandPermission. -/
theorem witness_IslandPermission_d :
    (∃ (s : State), s.islSt = 3) ∧
    (∃ (s : State), s.islSt = 3 ∧ s.dev ≠ 0) ∧
    (∃ (s : State), (s.islSt ≠ 3 ∨ s.dev = 0)) ∧
    (∃ (s : State) (b : Nat), s.islRuns ∧ s.on (SAFE_IN 4) = false ∧ s.isl.sackLow = some b ∧ b + 100000000 ≤ s.ns ∧ s.rd SAFE_STATE_DEMAND = 0) ∧
    (∃ (s : State) (b : Nat), s.islRuns ∧ s.on (SAFE_IN 4) = false ∧ s.isl.sackLow = some b ∧ b + 100000000 ≤ s.ns ∧ s.rd SAFE_STATE_DEMAND ≠ 0) ∧
    (∃ (s : State), s.on (SAFE_IN 4) = false ∧ (s.islRuns = false ∨ s.isl.sackLow.all fun b => decide (s.ns < b + 100000000))) :=
  ⟨⟨(State.reset.wr SAFE_STATE_STATE 3), by decide⟩,
   ⟨(State.reset.wr SAFE_STATE_STATE 3).wr SYS_DEV_STATE_STATE 1, by decide⟩,
   ⟨State.reset, by decide⟩,
   ⟨((State.reset.wr SAFE_STATE_STATE 2).setTb (200000000 * 2 ^ 24)).setIsl { sackLow := some 0 }, 0, by decide⟩,
   ⟨(((State.reset.wr SAFE_STATE_STATE 2).setTb (200000000 * 2 ^ 24)).setIsl { sackLow := some 0 }).wr SAFE_STATE_DEMAND 1, 0, by decide⟩,
   ⟨State.reset, by decide +kernel⟩⟩

/-- States and operands that meet the hypotheses of IslandPermission. -/
theorem witness_IslandPermission_e :
    (∃ (s : State), s.on (SAFE_IN 4)) ∧
    (∃ (s : State), s.islRuns ∧ s.isl.sack ∧ s.rd SAFE_STATE_DEMAND = 0) ∧
    (∃ (s : State), s.islRuns ∧ s.isl.sack ∧ s.rd SAFE_STATE_DEMAND ≠ 0) ∧
    (∃ (s : State), (s.islRuns = false ∨ s.isl.sack = false)) ∧
    (∃ (s : State), s.islRuns ∧ s.on (SAFE_IN 4) ∧ s.on SAFE_STATE_JAMMED = false) ∧
    (∃ (s : State), (s.islRuns = false ∨ s.on (SAFE_IN 4) = false ∨ s.on SAFE_STATE_JAMMED)) :=
  ⟨⟨State.reset.wr (SAFE_IN 4) 1, by decide⟩,
   ⟨(State.reset.wr SAFE_STATE_STATE 2).setIsl { sack := true }, by decide⟩,
   ⟨((State.reset.wr SAFE_STATE_STATE 2).wr SAFE_STATE_DEMAND 1).setIsl { sack := true }, by decide⟩,
   ⟨State.reset, by decide⟩,
   ⟨(State.reset.wr SAFE_STATE_STATE 2).wr (SAFE_IN 4) 1, by decide⟩,
   ⟨State.reset, by decide +kernel⟩⟩

/-- States and operands that meet the hypotheses of IslandPermission. -/
theorem witness_IslandPermission_f :
    (∃ (s : State), s.islSees ∧ 24 * s.param 0x78 2 ≤ s.reg SAFE_PROOF) ∧
    (∃ (s : State), (s.islSees = false ∨ s.reg SAFE_PROOF < 24 * s.param 0x78 2)) :=
  ⟨⟨((State.reset.wr SAFE_STATE_STATE 3).setReg SAFE_PROOF 24).setReg (SAFE_PARAM 30) 1, by decide⟩,
   ⟨State.reset, by decide +kernel⟩⟩

/-- States and operands that meet the hypotheses of LaneControl. -/
theorem witness_LaneControl_a :
    (∃ (s : State) (n : Fin 28), s.laneSt n = 0 ∧ s.limp = false ∧ s.profile ≠ 0 ∧ s.dev ≠ 5) ∧
    (∃ (s : State) (n : Fin 28), (s.laneSt n ≠ 0 ∨ s.limp ∨ s.profile = 0 ∨ s.dev = 5)) ∧
    (∃ (s : State) (n : Fin 28), s.laneSt n = 7) ∧
    (∃ (s : State) (n : Fin 28), s.laneSt n ≠ 7) ∧
    (∃ (s : State) (n : Fin 28), s.rd (LANE_STAT_TX_MODE n) = 2 ∧ (s.rd (LANE_PARTNER_TOPO n) = 1 ∨ s.rd (LANE_PARTNER_TOPO n) = 2)) ∧
    (∃ (s : State) (n : Fin 28), (s.rd (LANE_STAT_TX_MODE n) ≠ 2 ∨ (s.rd (LANE_PARTNER_TOPO n) ≠ 1 ∧ s.rd (LANE_PARTNER_TOPO n) ≠ 2))) :=
  ⟨⟨(State.reset.clr SYS_DEV_STATE_LIMP).wr SYS_DEV_STATE_PROFILE 2, 3, by decide⟩,
   ⟨State.reset, 3, by decide⟩,
   ⟨State.reset.wr (LANE_STAT_STATE 3) 7, 3, by decide⟩,
   ⟨State.reset, 3, by decide⟩,
   ⟨(State.reset.wr (LANE_STAT_TX_MODE 3) 2).wr (LANE_PARTNER_TOPO 3) 1, 3, by decide⟩,
   ⟨State.reset, 3, by decide⟩⟩

/-- States and operands that meet the hypotheses of LaneControl. -/
theorem witness_LaneControl_b :
    (∃ (s : State) (n : Fin 28), s.on (LANE_STAT_LOS n) = false ∧ s.laneSt n ≠ 0) ∧
    (∃ (s : State) (n : Fin 28), (s.on (LANE_STAT_LOS n) ∨ s.laneSt n = 0)) ∧
    (∃ (s : State) (n : Fin 28), s.on (LANE_STAT_CDR_LOCK n) ∧ (s.laneSt n = 4 ∨ s.laneSt n = 5)) ∧
    (∃ (s : State) (n : Fin 28), s.on (LANE_STAT_CDR_LOCK n) ∧ s.laneSt n = 2) ∧
    (∃ (s : State) (n : Fin 28), s.on (LANE_STAT_CDR_LOCK n) ∧ s.laneSt n = 3 ∧ s.rd (LANE_STAT_ATTEMPT n) ≠ 7) ∧
    (∃ (s : State) (n : Fin 28), s.on (LANE_STAT_CDR_LOCK n) ∧ s.laneSt n = 3 ∧ s.rd (LANE_STAT_ATTEMPT n) = 7) :=
  ⟨⟨(State.reset.wr (LANE_STAT_STATE 3) 2).clr (LANE_STAT_LOS 3), 3, by decide⟩,
   ⟨State.reset, 3, by decide⟩,
   ⟨(State.reset.wr (LANE_STAT_STATE 3) 4).wr (LANE_STAT_CDR_LOCK 3) 1, 3, by decide⟩,
   ⟨(State.reset.wr (LANE_STAT_STATE 3) 2).wr (LANE_STAT_CDR_LOCK 3) 1, 3, by decide⟩,
   ⟨(State.reset.wr (LANE_STAT_STATE 3) 3).wr (LANE_STAT_CDR_LOCK 3) 1, 3, by decide⟩,
   ⟨((State.reset.wr (LANE_STAT_STATE 3) 3).wr (LANE_STAT_CDR_LOCK 3) 1).wr (LANE_STAT_ATTEMPT 3) 7, 3, by decide⟩⟩

/-- States and operands that meet the hypotheses of LaneControl. -/
theorem witness_LaneControl_c :
    (∃ (s : State) (n : Fin 28), s.on (LANE_STAT_CDR_LOCK n) ∧ (s.laneSt n = 0 ∨ s.laneSt n = 1 ∨ s.laneSt n = 6 ∨ s.laneSt n = 7)) ∧
    (∃ (s : State) (n : Fin 28), s.on (LANE_STAT_CDR_LOCK n) = false) ∧
    (∃ (s : State) (n : Fin 28), s.laneSt n = 6) ∧
    (∃ (s : State) (n : Fin 28), s.laneSt n ≠ 6) ∧
    (∃ (s : State) (n : Fin 28), (s.laneSt n = 1 ∨ s.laneSt n = 2 ∨ s.laneSt n = 3) ∧ (s.lane n).idle = false ∧ s.rd (LANE_STAT_ATTEMPT n) = 7) ∧
    (∃ (s : State) (n : Fin 28), (s.laneSt n = 1 ∨ s.laneSt n = 2 ∨ s.laneSt n = 3) ∧ (s.lane n).idle = false ∧ s.rd (LANE_STAT_ATTEMPT n) ≠ 7) :=
  ⟨⟨(State.reset.wr (LANE_STAT_STATE 3) 1).wr (LANE_STAT_CDR_LOCK 3) 1, 3, by decide⟩,
   ⟨State.reset, 3, by decide⟩,
   ⟨State.reset.wr (LANE_STAT_STATE 3) 6, 3, by decide⟩,
   ⟨State.reset, 3, by decide⟩,
   ⟨(State.reset.wr (LANE_STAT_STATE 3) 3).wr (LANE_STAT_ATTEMPT 3) 7, 3, by decide⟩,
   ⟨(State.reset.wr (LANE_STAT_STATE 3) 3), 3, by decide⟩⟩

/-- States and operands that meet the hypotheses of LaneControl. -/
theorem witness_LaneControl_d :
    (∃ (s : State) (n : Fin 28), s.laneSt n = 1 ∧ (s.lane n).idle) ∧
    (∃ (s : State) (n : Fin 28), s.laneSt n = 7 ∧ (s.lane n).rearmFired = false ∧ s.rd (LANE_TMO_REARM_INT n) ≠ 0) ∧
    (∃ (s : State) (n : Fin 28), (s.laneSt n ≠ 7 ∨ (s.lane n).rearmFired ∨ s.rd (LANE_TMO_REARM_INT n) = 0)) ∧
    (∃ (s : State) (n : Fin 28), s.laneSt n = 1 ∧ s.on (LANE_CTL_JOIN n) ∧ s.on (LANE_STAT_CDR_LOCK n) ∧ (s.rd (LANE_PARTNER_TOPO n) = 1 ∨ s.rd (LANE_PARTNER_TOPO n) = 2) ∧ (s.lane n).idle = false) ∧
    (∃ (s : State) (n : Fin 28), s.on (LANE_ES_STAT_BUSY n) = false ∧ s.on (LANE_STAT_CDR_LOCK n)) ∧
    (∃ (s : State) (n : Fin 28), s.on (LANE_ES_STAT_BUSY n)) :=
  ⟨⟨(State.reset.wr (LANE_STAT_STATE 3) 1).setLane 3 { idle := true }, 3, by decide⟩,
   ⟨(State.reset.wr (LANE_STAT_STATE 3) 7).wr (LANE_TMO_REARM_INT 3) 4, 3, by decide⟩,
   ⟨State.reset, 3, by decide⟩,
   ⟨(((State.reset.wr (LANE_STAT_STATE 3) 1).wr (LANE_STAT_CDR_LOCK 3) 1).wr (LANE_CTL_JOIN 3) 1).wr (LANE_PARTNER_TOPO 3) 2, 3, by decide⟩,
   ⟨State.reset.wr (LANE_STAT_CDR_LOCK 3) 1, 3, by decide⟩,
   ⟨State.reset.wr (LANE_ES_STAT_BUSY 3) 1, 3, by decide⟩⟩

/-- States and operands that meet the hypotheses of LaneControl. -/
theorem witness_LaneControl_e :
    (∃ (s : State) (n : Fin 28), s.on (LANE_ES_STAT_BUSY n) = false ∧ s.on (LANE_STAT_CDR_LOCK n) = false) ∧
    (∃ (s : State) (n : Fin 28), s.on (LANE_ES_STAT_BUSY n)) ∧
    (∃ (s : State) (n : Fin 28), s.on (LANE_ES_STAT_BUSY n) = false) :=
  ⟨⟨State.reset, 3, by decide⟩,
   ⟨State.reset.wr (LANE_ES_STAT_BUSY 3) 1, 3, by decide⟩,
   ⟨State.reset, 3, by decide⟩⟩

/-- States and operands that meet the hypotheses of LaneTraining. -/
theorem witness_LaneTraining_a :
    (∃ (s : State) (n : Fin 28) (g : List (BitVec 10)) (b : List (BitVec 8)), g.length = 16 ∧ decodeSet (setRd (s.lane n).rxRd g) g = some b ∧ setGood b ∧ s.laneSt n = 1 ∧ (s.lane n).idle = false ∧ (s.lane n).runOk < 7) ∧
    (∃ (s : State) (n : Fin 28) (g : List (BitVec 10)) (b : List (BitVec 8)), g.length = 16 ∧ decodeSet (setRd (s.lane n).rxRd g) g = some b ∧ setGood b ∧ s.laneSt n = 1 ∧ (s.lane n).idle = false ∧ (s.lane n).runOk = 7) ∧
    (∃ (s : State) (n : Fin 28) (g : List (BitVec 10)), g.length = 16 ∧ (decodeSet (setRd (s.lane n).rxRd g) g).all fun b => !setGood b ∧ (s.laneSt n = 1 ∨ s.laneSt n = 2 ∨ s.laneSt n = 3) ∧ (s.lane n).idle = false) ∧
    (∃ (s : State) (n : Fin 28) (g : List (BitVec 10)) (b : List (BitVec 8)), g.length = 16 ∧ decodeSet (setRd (s.lane n).rxRd g) g = some b ∧ setGood b ∧ (s.laneSt n = 2 ∨ s.laneSt n = 3) ∧ (s.lane n).idle = false ∧ s.setMatches n b = false) ∧
    (∃ (s : State) (n : Fin 28) (g : List (BitVec 10)) (b : List (BitVec 8)), g.length = 16 ∧ decodeSet (setRd (s.lane n).rxRd g) g = some b ∧ setGood b ∧ (s.laneSt n = 2 ∨ s.laneSt n = 3) ∧ (s.lane n).idle = false ∧ s.setMatches n b ∧ s.hopOk n (symOf b 5)) ∧
    (∃ (s : State) (n : Fin 28) (g : List (BitVec 10)) (b : List (BitVec 8)), g.length = 16 ∧ decodeSet (setRd (s.lane n).rxRd g) g = some b ∧ setGood b ∧ (s.laneSt n = 2 ∨ s.laneSt n = 3) ∧ (s.lane n).idle = false ∧ s.setMatches n b ∧ s.hopOk n (symOf b 5) ∧ symOf b 1 = 0x4B ∧ 7 ≤ (s.lane n).runMatch ∧ (s.lane n).runMatch ≤ 8 ∧ 7 ≤ (s.lane n).runTsb ∧ s.rd (LANE_STAT_TX_MODE n) = 1) :=
  ⟨⟨((State.reset.wr (LANE_STAT_STATE 3) 1).setLane 3 {  }), 3, (encodeSet false [0x4A, 0, 0, 0, 2, 0, 0, 0, 0, 0, 0, 0, 0, 0, 207]).1, [0x4A, 0, 0, 0, 2, 0, 0, 0, 0, 0, 0, 0, 0, 0, 207], by decide +kernel⟩,
   ⟨((State.reset.wr (LANE_STAT_STATE 3) 1).setLane 3 { runOk := 7 }), 3, (encodeSet false [0x4A, 0, 0, 0, 2, 0, 0, 0, 0, 0, 0, 0, 0, 0, 207]).1, [0x4A, 0, 0, 0, 2, 0, 0, 0, 0, 0, 0, 0, 0, 0, 207], by decide +kernel⟩,
   ⟨((State.reset.wr (LANE_STAT_STATE 3) 1).setLane 3 { runOk := 5 }), 3, (List.replicate 16 0), by decide⟩,
   ⟨((((State.reset.wr (LANE_STAT_STATE 3) 2).setLane 3 {  })).wr (LANE_PARTNER_CHECK 3) 1).wr (LANE_PARTNER_DEVID 3) 77, 3, (encodeSet false [0x4A, 0, 0, 0, 2, 0, 0, 0, 0, 0, 0, 0, 0, 0, 207]).1, [0x4A, 0, 0, 0, 2, 0, 0, 0, 0, 0, 0, 0, 0, 0, 207], by decide +kernel⟩,
   ⟨(((State.reset.wr (LANE_STAT_STATE 3) 2).setLane 3 {  })).clr (LANE_PARTNER_CHECK 3), 3, (encodeSet false [0x4A, 0, 0, 0, 2, 0, 0, 0, 0, 0, 0, 0, 0, 0, 207]).1, [0x4A, 0, 0, 0, 2, 0, 0, 0, 0, 0, 0, 0, 0, 0, 207], by decide +kernel⟩,
   ⟨((((State.reset.wr (LANE_STAT_STATE 3) 2).setLane 3 { runMatch := 7, runTsb := 7 })).clr (LANE_PARTNER_CHECK 3)).wr (LANE_STAT_TX_MODE 3) 1, 3, (encodeSet false [0x4B, 0, 0, 0, 2, 0, 0, 0, 0, 0, 0, 0, 0, 0, 42]).1, [0x4B, 0, 0, 0, 2, 0, 0, 0, 0, 0, 0, 0, 0, 0, 42], by decide +kernel⟩⟩

/-- States and operands that meet the hypotheses of LaneTraining. -/
theorem witness_LaneTraining_b :
    (∃ (s : State) (n : Fin 28) (g : List (BitVec 10)) (b : List (BitVec 8)), g.length = 16 ∧ decodeSet (setRd (s.lane n).rxRd g) g = some b ∧ setGood b ∧ (s.laneSt n = 2 ∨ s.laneSt n = 3) ∧ (s.lane n).idle = false ∧ s.setMatches n b ∧ s.hopOk n (symOf b 5) ∧ symOf b 1 = 0x4C ∧ symOf b 7 = 0) ∧
    (∃ (s : State) (n : Fin 28) (g : List (BitVec 10)) (b : List (BitVec 8)), g.length = 16 ∧ decodeSet (setRd (s.lane n).rxRd g) g = some b ∧ setGood b ∧ (s.laneSt n = 2 ∨ s.laneSt n = 3) ∧ (s.lane n).idle = false ∧ s.setMatches n b ∧ s.hopOk n (symOf b 5) = false) ∧
    (∃ (s : State) (n : Fin 28) (g : List (BitVec 10)), g.length = 16 ∧ (¬ (s.laneSt n = 1 ∨ s.laneSt n = 2 ∨ s.laneSt n = 3) ∨ (s.lane n).idle)) ∧
    (∃ (s : State) (n : Fin 28), s.on (LANE_CTL_SOLO n) ∧ s.rd (LANE_STAT_TX_MODE n) = 1) ∧
    (∃ (s : State) (n : Fin 28), (s.on (LANE_CTL_SOLO n) = false ∨ s.rd (LANE_STAT_TX_MODE n) ≠ 1)) ∧
    (∃ (s : State) (n : Fin 28) (h : BitVec 2), s.laneSt n = 4 ∧ h = 1 ∧ ((false :: (s.lane n).hist).take 64).countP id < 16 ∧ ((s.lane n).rxCtl ∨ ((s.lane n).rxIn ∧ (s.lane n).rxPos < 93)) ∧ (s.lane n).rxq.length < 32) :=
  ⟨⟨(((State.reset.wr (LANE_STAT_STATE 3) 2).setLane 3 {  })).clr (LANE_PARTNER_CHECK 3), 3, (encodeSet false [0x4C, 0, 0, 0, 2, 0, 0, 0, 0, 0, 0, 0, 0, 0, 159]).1, [0x4C, 0, 0, 0, 2, 0, 0, 0, 0, 0, 0, 0, 0, 0, 159], by decide +kernel⟩,
   ⟨(((State.reset.wr (LANE_STAT_STATE 3) 2).setLane 3 {  })).clr (LANE_PARTNER_CHECK 3), 3, (encodeSet false [0x4A, 0, 0, 0, 15, 0, 0, 0, 0, 0, 0, 0, 0, 0, 73]).1, [0x4A, 0, 0, 0, 15, 0, 0, 0, 0, 0, 0, 0, 0, 0, 73], by decide +kernel⟩,
   ⟨State.reset, 3, (List.replicate 16 0), by decide⟩,
   ⟨((((State.reset.wr (LANE_STAT_STATE 3) 1).setLane 3 {  })).wr (LANE_CTL_SOLO 3) 1).wr (LANE_STAT_TX_MODE 3) 1, 3, by decide⟩,
   ⟨State.reset, 3, by decide⟩,
   ⟨((State.reset.wr (LANE_STAT_STATE 3) 4).setLane 3 { rxCtl := true }), 3, 1, by decide⟩⟩

/-- States and operands that meet the hypotheses of LaneTraining. -/
theorem witness_LaneTraining_c :
    (∃ (s : State) (n : Fin 28) (h : BitVec 2), s.laneSt n = 4 ∧ h = 1 ∧ ((false :: (s.lane n).hist).take 64).countP id < 16 ∧ ((s.lane n).rxCtl ∨ ((s.lane n).rxIn ∧ (s.lane n).rxPos < 93)) ∧ 32 ≤ (s.lane n).rxq.length) ∧
    (∃ (s : State) (n : Fin 28) (h : BitVec 2) (p : BitVec 64), s.laneSt n = 4 ∧ h = 2 ∧ ((false :: (s.lane n).hist).take 64).countP id < 16 ∧ BitVec.ofNat 64 (descramble 64 p.toNat 1 (s.lane n).scr 0).2 = 0x1E) ∧
    (∃ (s : State) (n : Fin 28) (h : BitVec 2), s.laneSt n = 4 ∧ (h = 0 ∨ h = 3) ∧ 16 ≤ ((true :: (s.lane n).hist).take 64).countP id) ∧
    (∃ (s : State) (n : Fin 28) (h : BitVec 2), s.laneSt n = 4 ∧ (h = 0 ∨ h = 3) ∧ ((true :: (s.lane n).hist).take 64).countP id < 16 ∧ (s.lane n).rxq.length < 32) ∧
    (∃ (s : State) (n : Fin 28) (h : BitVec 2), s.laneSt n = 3 ∧ (s.lane n).rxHos ∧ (h = 1 ∨ h = 2)) ∧
    (∃ (s : State) (n : Fin 28) (h : BitVec 2), s.laneSt n = 3 ∧ (s.lane n).rxHos ∧ (s.lane n).rxGood < 64 ∧ (h = 0 ∨ h = 3) ∧ s.rd (LANE_STAT_ATTEMPT n) ≠ 7) :=
  ⟨⟨((State.reset.wr (LANE_STAT_STATE 3) 4).setLane 3 { rxCtl := true, rxq := List.replicate 32 (1, 0) }), 3, 1, by decide⟩,
   ⟨((State.reset.wr (LANE_STAT_STATE 3) 4).setLane 3 {  }), 3, 2, (BitVec.ofNat 64 (scramble 64 0x1E 1 0 0).2), by decide⟩,
   ⟨((State.reset.wr (LANE_STAT_STATE 3) 4).setLane 3 { hist := List.replicate 15 true }), 3, 0, by decide⟩,
   ⟨((State.reset.wr (LANE_STAT_STATE 3) 4).setLane 3 {  }), 3, 0, by decide⟩,
   ⟨((State.reset.wr (LANE_STAT_STATE 3) 3).setLane 3 { rxHos := true, rxGood := 63 }), 3, 1, by decide⟩,
   ⟨((State.reset.wr (LANE_STAT_STATE 3) 3).setLane 3 { rxHos := true, rxGood := 3 }), 3, 0, by decide⟩⟩

/-- States and operands that meet the hypotheses of LaneTraining. -/
theorem witness_LaneTraining_d :
    (∃ (s : State) (n : Fin 28), s.laneSt n = 5) ∧
    (∃ (s : State) (n : Fin 28), s.laneSt n = 5 ∧ s.on (LANE_SLIP_STAT_WIN_DONE n) = false ∧ (s.lane n).winBlk = 64) ∧
    (∃ (s : State) (n : Fin 28), s.laneSt n = 5 ∧ s.on (LANE_SLIP_STAT_WIN_DONE n)) ∧
    (∃ (s : State) (n : Fin 28), s.laneSt n = 5 ∧ s.on (LANE_SLIP_STAT_WIN_DONE n) = false) ∧
    (∃ (s : State) (n : Fin 28), s.laneSt n ≠ 5) ∧
    (∃ (s : State) (n : Fin 28), (s.laneSt n ≠ 5 ∨ s.on (LANE_SLIP_STAT_WIN_DONE n) = false)) :=
  ⟨⟨((State.reset.wr (LANE_STAT_STATE 3) 5).setLane 3 {  }), 3, by decide⟩,
   ⟨((State.reset.wr (LANE_STAT_STATE 3) 5).setLane 3 { winBlk := 64 }), 3, by decide⟩,
   ⟨(((State.reset.wr (LANE_STAT_STATE 3) 5).setLane 3 { winBlk := 64 })).wr (LANE_SLIP_STAT_WIN_DONE 3) 1, 3, by decide⟩,
   ⟨((State.reset.wr (LANE_STAT_STATE 3) 5).setLane 3 {  }), 3, by decide⟩,
   ⟨State.reset, 3, by decide⟩,
   ⟨State.reset, 3, by decide⟩⟩

/-- States and operands that meet the hypotheses of NodeSections. -/
theorem witness_NodeSections_a :
    (∃ (s : State) (c : Fin 192) (p : Fin 2) (f : List (BitVec 8)) (b : List (BitVec 8)), f.length ≤ 744 ∧ f.length % 8 = 0 ∧ (if p = 0 then (s.node c).idle0 else (s.node c).idle1) = false ∧ (if fieldAt f 23 1 % 2 = 1 then (if p = 0 then (s.node c).pos0 else (s.node c).pos1) else 2 * (if p = 0 then (s.node c).pos0 else (s.node c).pos1)) < 8 ∧ (f.drop (40 + 88 * (if fieldAt f 23 1 % 2 = 1 then (if p = 0 then (s.node c).pos0 else (s.node c).pos1) else 2 * (if p = 0 then (s.node c).pos0 else (s.node c).pos1)))).take 88 = b ∧ b.length = 88 ∧ (s.node c).takes (f.take 40) b) ∧
    (∃ (s : State) (c : Fin 192) (p : Fin 2) (f : List (BitVec 8)) (b : List (BitVec 8)), f.length ≤ 744 ∧ f.length % 8 = 0 ∧ (if p = 0 then (s.node c).idle0 else (s.node c).idle1) = false ∧ (if fieldAt f 23 1 % 2 = 1 then (if p = 0 then (s.node c).pos0 else (s.node c).pos1) else 2 * (if p = 0 then (s.node c).pos0 else (s.node c).pos1)) < 8 ∧ (f.drop (40 + 88 * (if fieldAt f 23 1 % 2 = 1 then (if p = 0 then (s.node c).pos0 else (s.node c).pos1) else 2 * (if p = 0 then (s.node c).pos0 else (s.node c).pos1)))).take 88 = b ∧ b.length = 88 ∧ (s.node c).takes (f.take 40) b = false) ∧
    (∃ (s : State) (c : Fin 192) (p : Fin 2) (f : List (BitVec 8)), f.length ≤ 744 ∧ f.length % 8 = 0 ∧ ((if p = 0 then (s.node c).idle0 else (s.node c).idle1) ∨ f.length < 40 + 88 * (if fieldAt f 23 1 % 2 = 1 then (if p = 0 then (s.node c).pos0 else (s.node c).pos1) else 2 * (if p = 0 then (s.node c).pos0 else (s.node c).pos1)) + 88)) ∧
    (∃ (s : State) (c : Fin 192) (p : Fin 2) (f : List (BitVec 8)) (b : List (BitVec 8)) (g : Nat), f.length ≤ 744 ∧ f.length % 8 = 0 ∧ (if p = 0 then (s.node c).idle0 else (s.node c).idle1) = false ∧ (if fieldAt f 23 1 % 2 = 1 then (if p = 0 then (s.node c).pos0 else (s.node c).pos1) else 2 * (if p = 0 then (s.node c).pos0 else (s.node c).pos1)) < 8 ∧ (f.drop (40 + 88 * (if fieldAt f 23 1 % 2 = 1 then (if p = 0 then (s.node c).pos0 else (s.node c).pos1) else 2 * (if p = 0 then (s.node c).pos0 else (s.node c).pos1)))).take 88 = b ∧ b.length = 88 ∧ (s.node c).tokenOk (f.take 40) b ∧ (s.node c).obey = some (fieldAt f 18 4, fieldAt f 16 2) ∧ (s.node c).tokFr = some g ∧ (g + 1) % 2 ^ 32 = fieldAt f 0 4 ∧ (s.node c).tokRun = 2) ∧
    (∃ (s : State) (c : Fin 192) (p : Fin 2) (f : List (BitVec 8)) (b : List (BitVec 8)) (g : Nat), f.length ≤ 744 ∧ f.length % 8 = 0 ∧ (if p = 0 then (s.node c).idle0 else (s.node c).idle1) = false ∧ (if fieldAt f 23 1 % 2 = 1 then (if p = 0 then (s.node c).pos0 else (s.node c).pos1) else 2 * (if p = 0 then (s.node c).pos0 else (s.node c).pos1)) < 8 ∧ (f.drop (40 + 88 * (if fieldAt f 23 1 % 2 = 1 then (if p = 0 then (s.node c).pos0 else (s.node c).pos1) else 2 * (if p = 0 then (s.node c).pos0 else (s.node c).pos1)))).take 88 = b ∧ b.length = 88 ∧ (s.node c).tokenOk (f.take 40) b ∧ (s.node c).obey = some (fieldAt f 18 4, fieldAt f 16 2) ∧ (s.node c).tokFr = some g ∧ (g + 1) % 2 ^ 32 ≠ fieldAt f 0 4 ∧ g ≠ fieldAt f 0 4) ∧
    (∃ (s : State) (c : Fin 192) (p : Fin 2) (f : List (BitVec 8)) (b : List (BitVec 8)), f.length ≤ 744 ∧ f.length % 8 = 0 ∧ (if p = 0 then (s.node c).idle0 else (s.node c).idle1) = false ∧ (if fieldAt f 23 1 % 2 = 1 then (if p = 0 then (s.node c).pos0 else (s.node c).pos1) else 2 * (if p = 0 then (s.node c).pos0 else (s.node c).pos1)) < 8 ∧ (f.drop (40 + 88 * (if fieldAt f 23 1 % 2 = 1 then (if p = 0 then (s.node c).pos0 else (s.node c).pos1) else 2 * (if p = 0 then (s.node c).pos0 else (s.node c).pos1)))).take 88 = b ∧ b.length = 88 ∧ (s.node c).tokenOk (f.take 40) b = false) :=
  ⟨⟨State.reset.setNode 9 { obey := some (1, 2) }, 9, 0, (aHeader 7 1 2 ++ aSection 1 7 1 2), (aSection 1 7 1 2), by decide +kernel⟩,
   ⟨State.reset, 9, 0, (aHeader 7 1 2 ++ aSection 1 7 1 2), (aSection 1 7 1 2), by decide +kernel⟩,
   ⟨State.reset, 9, 1, (aHeader 7 1 2), by decide⟩,
   ⟨State.reset.setNode 9 { obey := some (1, 2), tokFr := some 6, tokRun := 2 }, 9, 0, (aHeader 7 1 2 ++ aSection 1 7 1 2), (aSection 1 7 1 2), 6, by decide +kernel⟩,
   ⟨State.reset.setNode 9 { obey := some (1, 2), tokFr := some 5, tokRun := 2 }, 9, 0, (aHeader 7 1 2 ++ aSection 1 7 1 2), (aSection 1 7 1 2), 5, by decide +kernel⟩,
   ⟨State.reset, 9, 0, (aHeader 7 1 2 ++ aSection 1 7 1 3), (aSection 1 7 1 3), by decide +kernel⟩⟩

/-- States and operands that meet the hypotheses of NodeSections. -/
theorem witness_NodeSections_b :
    (∃ (s : State) (c : Fin 192), (s.node c).tokTmr) ∧
    (∃ (s : State) (c : Fin 192), (s.node c).tokTmr = false) ∧
    (∃ (s : State) (c : Fin 192) (m : Nat), (s.node c).took ∧ (s.node c).req = some m) ∧
    (∃ (s : State) (c : Fin 192), (s.node c).mode ≠ 0 ∧ (s.node c).took = false ∧ (s.node c).fCmd = false ∧ bitsOf ((s.node c).epGet 0x10) 0 4 ≤ (s.node c).loss + 1) ∧
    (∃ (s : State) (c : Fin 192), (s.node c).mode = 5 ∧ (s.node c).took ∧ (s.node c).req = none ∧ (s.node c).q = []) ∧
    (∃ (s : State) (c : Fin 192), (s.node c).mode = 5 ∧ (s.node c).q = [] ∧ bitsOf ((s.node c).epGet 0x14) 0 8 ≠ 0 ∧ bitsOf ((s.node c).epGet 0x14) 0 8 ≤ (s.node c).hold) :=
  ⟨⟨State.reset.setNode 9 { gate := true, sw := 5, tokTmr := true }, 9, by decide⟩,
   ⟨State.reset, 9, by decide⟩,
   ⟨State.reset.setNode 9 { took := true, req := some 3, mode := 1 }, 9, 3, by decide⟩,
   ⟨State.reset.setNode 9 { mode := 4, loss := 2 }, 9, by decide⟩,
   ⟨State.reset.setNode 9 { mode := 5, took := true, holdQ := true }, 9, by decide⟩,
   ⟨State.reset.setNode 9 { mode := 5, hold := 16 }, 9, by decide⟩⟩

/-- States and operands that meet the hypotheses of NodeSections. -/
theorem witness_NodeSections_c :
    ∃ (s : State) (c : Fin 192), ((s.node c).mode ≠ 5 ∨ (s.node c).q ≠ [] ∨ bitsOf ((s.node c).epGet 0x14) 0 8 = 0 ∨ (s.node c).hold < bitsOf ((s.node c).epGet 0x14) 0 8) :=
  ⟨State.reset, 9, by decide⟩

/-- States and operands that meet the hypotheses of NodeActions. -/
theorem witness_NodeActions_a :
    (∃ (s : State) (c : Fin 192) (e : Edge) (r : List Edge), (s.node c).q = e :: r ∧ ((s.node c).mode = 4 ∨ (s.node c).mode = 5) ∧ (s.node c).tsync ∧ (s.node c).desatLatched = false ∧ (s.node c).legs.length = 6 ∧ e.leg < 4 ∧ (e.leg ≤ 1 → e.st ≠ 0 → (s.node c).leg 4 = 0) ∧ Nat.land (legOn e.leg e.st) (bitsOf (s.node c).trip 16 12) = 0) ∧
    (∃ (s : State) (c : Fin 192) (e : Edge) (r : List Edge), (s.node c).q = e :: r ∧ ((s.node c).mode = 4 ∨ (s.node c).mode = 5) ∧ (s.node c).tsync ∧ (s.node c).desatLatched = false ∧ (s.node c).legs.length = 6 ∧ (e.leg = 5 ∨ (e.leg = 4 ∧ (e.st = 0 ∨ ((s.node c).leg 0 = 0 ∧ (s.node c).leg 1 = 0))))) ∧
    (∃ (s : State) (c : Fin 192) (e : Edge) (r : List Edge), (s.node c).q = e :: r ∧ ((s.node c).mode = 4 ∨ (s.node c).mode = 5) ∧ ((s.node c).tsync = false ∨ (s.node c).desatLatched)) ∧
    (∃ (s : State) (c : Fin 192), ((s.node c).q = [] ∨ ((s.node c).mode ≠ 4 ∧ (s.node c).mode ≠ 5))) ∧
    (∃ (s : State) (c : Fin 192) (i : Fin 13) (d : Nat), i.val < 12 ∧ (s.node c).wait.find? (fun w => w.1 == i.val) = some (i.val, d) ∧ (s.node c).want.testBit i ∧ (s.node c).sw.testBit i = false ∧ (s.node c).sw.testBit (compSw i) = false) ∧
    (∃ (s : State) (c : Fin 192) (d : Nat), (s.node c).bypAt = some d ∧ (s.node c).leg 0 = 0 ∧ (s.node c).leg 1 = 0 ∧ (s.node c).legs.length = 6) :=
  ⟨⟨State.reset.setNode 9 { q := [{ t := 160, leg := 1, st := 2 }], mode := 4, tsync := true, gate := true }, 9, { t := 160, leg := 1, st := 2 }, [], by decide⟩,
   ⟨State.reset.setNode 9 { q := [{ t := 160, leg := 5, st := 2 }], mode := 4, tsync := true }, 9, { t := 160, leg := 5, st := 2 }, [], by decide⟩,
   ⟨State.reset.setNode 9 { q := [{ t := 160, leg := 1, st := 2 }], mode := 4 }, 9, { t := 160, leg := 1, st := 2 }, [], by decide⟩,
   ⟨State.reset, 9, by decide⟩,
   ⟨State.reset.setNode 9 { gate := true, legs := [2, 0, 0, 0, 0, 0], wait := [(0, 3200)] }, 9, 0, 3200, by decide⟩,
   ⟨State.reset.setNode 9 { bypAt := some 50, mode := 2 }, 9, 50, by decide⟩⟩

/-- States and operands that meet the hypotheses of NodeActions. -/
theorem witness_NodeActions_b :
    (∃ (s : State) (c : Fin 192) (i : Fin 13), (i.val = 12 → (s.node c).bypAt = none) ∧ (i.val ≠ 12 → (s.node c).wait.find? (fun w => w.1 == i.val) = none)) ∧
    (∃ (s : State) (c : Fin 192) (m : List (BitVec 16)) (q : List (BitVec 16)) (k : Nat) (r : List Nat), m.length = 4 ∧ q.length = 12 ∧ (s.node c).smpAt = k :: r) ∧
    (∃ (s : State) (c : Fin 192) (m : List (BitVec 16)) (q : List (BitVec 16)), m.length = 4 ∧ q.length = 12 ∧ (s.node c).smpAt = []) ∧
    (∃ (s : State) (c : Fin 192) (x : Sample), (s.node c).conv = some x) ∧
    (∃ (s : State) (c : Fin 192), (s.node c).conv = none) ∧
    (∃ (s : State) (c : Fin 192) (p : Fin 2) (f : List (BitVec 8)) (u : List (BitVec 8)), f.length ≤ 744 ∧ f.length % 8 = 0 ∧ 40 ≤ f.length ∧ crc32c (f.take 36) = fieldAt f 36 4 ∧ u.length = 18 ∧ (if p = 0 then (s.node c).idle0 else (s.node c).idle1) = false ∧ (if fieldAt f 23 1 % 2 = 1 then (if p = 0 then (s.node c).pos0 else (s.node c).pos1) else 2 * (if p = 0 then (s.node c).pos0 else (s.node c).pos1) + 1) < 8 ∧ 40 + 88 * (if fieldAt f 23 1 % 2 = 1 then (if p = 0 then (s.node c).pos0 else (s.node c).pos1) else 2 * (if p = 0 then (s.node c).pos0 else (s.node c).pos1) + 1) + 88 ≤ f.length) :=
  ⟨⟨State.reset, 9, 3, by decide⟩,
   ⟨State.reset.setNode 9 { smpAt := [40000] }, 9, [1, 2, 3, 4], (List.replicate 12 7), 40000, [], by decide⟩,
   ⟨State.reset, 9, [1, 2, 3, 4], (List.replicate 12 7), by decide⟩,
   ⟨State.reset.setNode 9 { conv := some {} }, 9, {}, by decide⟩,
   ⟨State.reset, 9, by decide⟩,
   ⟨State.reset, 9, 0, (aHeader 7 1 2 ++ List.replicate 176 5), (List.replicate 18 0), by decide +kernel⟩⟩

/-- States and operands that meet the hypotheses of NodeActions. -/
theorem witness_NodeActions_c :
    (∃ (s : State) (c : Fin 192) (p : Fin 2) (f : List (BitVec 8)) (u : List (BitVec 8)), f.length ≤ 744 ∧ f.length % 8 = 0 ∧ 40 ≤ f.length ∧ crc32c (f.take 36) = fieldAt f 36 4 ∧ u.length = 18 ∧ (if p = 0 then (s.node c).idle0 else (s.node c).idle1) = false ∧ f.length ≤ 40 + 88 * (if fieldAt f 23 1 % 2 = 1 then (if p = 0 then (s.node c).pos0 else (s.node c).pos1) else 2 * (if p = 0 then (s.node c).pos0 else (s.node c).pos1) + 1)) ∧
    (∃ (s : State) (c : Fin 192) (p : Fin 2) (f : List (BitVec 8)) (u : List (BitVec 8)), f.length ≤ 744 ∧ f.length % 8 = 0 ∧ u.length = 18 ∧ (if p = 0 then (s.node c).idle0 else (s.node c).idle1)) ∧
    (∃ (s : State) (c : Fin 192) (p : Fin 2) (g : List (BitVec 10)) (b : List (BitVec 8)), g.length = 16 ∧ (if p = 0 then (s.node c).idle0 else (s.node c).idle1) = false ∧ decodeSet (setRd (if p = 0 then (s.node c).path0 else (s.node c).path1).rdIn g) g = some b ∧ setGood b) ∧
    (∃ (s : State) (c : Fin 192) (p : Fin 2) (g : List (BitVec 10)), g.length = 16 ∧ (if p = 0 then (s.node c).idle0 else (s.node c).idle1) = false ∧ (decodeSet (setRd (if p = 0 then (s.node c).path0 else (s.node c).path1).rdIn g) g).all fun b => !setGood b) ∧
    (∃ (s : State) (c : Fin 192) (p : Fin 2) (g : List (BitVec 10)), g.length = 16 ∧ (if p = 0 then (s.node c).idle0 else (s.node c).idle1)) ∧
    (∃ (s : State) (c : Fin 192) (i : Fin 12) (k : Nat) (v : Nat), (s.node c).sw.testBit i ∧ bitsOf ((s.node c).epGet (0x40 + 4 * i)) 15 1 = 1 ∧ ((s.node c).blankTo[i.val]?).getD 0 ≤ max (s.node c).nt k ∧ bitsOf ((s.node c).epGet (0x40 + 4 * i)) 8 7 * 100 < v) :=
  ⟨⟨State.reset, 9, 0, (aHeader 7 1 2), (List.replicate 18 0), by decide +kernel⟩,
   ⟨State.reset.setNode 9 { idle1 := true }, 9, 1, [], (List.replicate 18 0), by decide⟩,
   ⟨State.reset, 9, 1, (encodeSet false [0x4A, 0, 0, 0, 2, 0, 0, 0, 0, 0, 0, 0, 0, 0, 207]).1, [0x4A, 0, 0, 0, 2, 0, 0, 0, 0, 0, 0, 0, 0, 0, 207], by decide +kernel⟩,
   ⟨State.reset, 9, 1, (List.replicate 16 0), by decide⟩,
   ⟨State.reset.setNode 9 { idle1 := true }, 9, 1, (List.replicate 16 0), by decide⟩,
   ⟨State.reset.setNode 9 { sw := 4 }, 9, 2, 0, 10000, by decide⟩⟩

/-- States and operands that meet the hypotheses of NodeActions. -/
theorem witness_NodeActions_d :
    (∃ (s : State) (c : Fin 192) (i : Fin 12) (k : Nat) (v : Nat), ((s.node c).sw.testBit i = false ∨ bitsOf ((s.node c).epGet (0x40 + 4 * i)) 15 1 = 0 ∨ max (s.node c).nt k < ((s.node c).blankTo[i.val]?).getD 0 ∨ v ≤ bitsOf ((s.node c).epGet (0x40 + 4 * i)) 8 7 * 100)) ∧
    (∃ (i : Fin 12), i.val % 2 = 0) ∧
    (∃ (i : Fin 12), i.val % 2 = 1) ∧
    (∃ (s : State) (c : Fin 192), (s.node c).d.dump) ∧
    (∃ (s : State) (c : Fin 192), (s.node c).d.dump = false) ∧
    (∃ (s : State) (c : Fin 192) (k : Nat), (s.node c).leak = some k ∧ k < 12) :=
  ⟨⟨State.reset, 9, 2, 0, 100, by decide⟩,
   ⟨2, by decide⟩,
   ⟨3, by decide⟩,
   ⟨State.reset.setNode 9 { d := { dump := true } }, 9, by decide⟩,
   ⟨State.reset.setNode 9 { d := { dump := false } }, 9, by decide⟩,
   ⟨State.reset.setNode 9 { leak := some 3 }, 9, 3, by decide⟩⟩

/-- States and operands that meet the hypotheses of NodeActions. -/
theorem witness_NodeActions_e :
    ∃ (s : State) (c : Fin 192), (s.node c).leak = none :=
  ⟨State.reset, 9, by decide⟩

/-- States and operands that meet the hypotheses of ChainStates. -/
theorem witness_ChainStates_a :
    (∃ (s : State) (n : Fin 24), s.inRun = false ∧ s.on (CHAIN_CFG_EN n) = false ∧ s.chainEnReserved n = false) ∧
    (∃ (s : State) (n : Fin 24), s.inRun = false ∧ s.on (CHAIN_CFG_EN n) = false ∧ s.chainEnReserved n = false ∧ s.topoOk n ∧ s.topo n = 0 ∧ (s.laneSt n = 4 ∨ s.laneSt n = 5) ∧ s.rd (CHAIN_MISS_P n 0) < s.rd (CHAIN_CFG_LOSS_FR n)) ∧
    (∃ (s : State) (n : Fin 24), s.inRun = false ∧ s.on (CHAIN_CFG_EN n) = false ∧ s.chainEnReserved n = false ∧ s.topoOk n ∧ s.topo n = 0 ∧ s.laneSt n ≠ 4 ∧ s.laneSt n ≠ 5) ∧
    (∃ (s : State) (n : Fin 24), s.inRun ∧ s.on (CHAIN_CFG_EN n) = false ∧ s.chainEnReserved n = false) ∧
    (∃ (s : State) (n : Fin 24), s.chainEnReserved n) ∧
    (∃ (s : State) (n : Fin 24), s.on (CHAIN_CFG_EN n) ∧ s.chainEnReserved n = false) :=
  ⟨⟨State.reset, 4, by decide⟩,
   ⟨(State.reset.wr (LANE_STAT_STATE 4) 4).wr (CHAIN_CFG_LOSS_FR 4) 8, 4, by decide⟩,
   ⟨State.reset, 4, by decide⟩,
   ⟨State.reset.wr SYS_DEV_STATE_STATE 3, 4, by decide⟩,
   ⟨State.reset.wr (CHAIN_CFG_TOPO 3) 1, 15, by decide⟩,
   ⟨State.reset.wr (CHAIN_CFG_EN 4) 1, 4, by decide⟩⟩

/-- States and operands that meet the hypotheses of ChainStates. -/
theorem witness_ChainStates_b :
    (∃ (s : State) (n : Fin 24), s.inRun = false ∧ s.on (CHAIN_CFG_EN n)) ∧
    (∃ (s : State) (n : Fin 24), s.inRun ∧ s.on (CHAIN_CFG_EN n)) ∧
    (∃ (s : State) (n : Fin 24), s.on (CHAIN_CFG_EN n) = false) ∧
    (∃ (s : State) (n : Fin 24), s.chainSt n ≠ 0) ∧
    (∃ (s : State) (n : Fin 24), s.chainSt n = 0) ∧
    (∃ (s : State) (n : Fin 24), s.chainSt n = 3) :=
  ⟨⟨State.reset.wr (CHAIN_CFG_EN 4) 1, 4, by decide⟩,
   ⟨(State.reset.wr (CHAIN_CFG_EN 4) 1).wr SYS_DEV_STATE_STATE 3, 4, by decide⟩,
   ⟨State.reset, 4, by decide⟩,
   ⟨((((State.reset.wr (CHAIN_STAT_STATE 4) 5).wr (LANE_STAT_STATE 4) 4).wr SYS_DEV_STATE_PROFILE 2).wr (CHAIN_STAT_HOPS 4) 3), 4, by decide⟩,
   ⟨State.reset, 4, by decide⟩,
   ⟨((((State.reset.wr (CHAIN_STAT_STATE 4) 3).wr (LANE_STAT_STATE 4) 4).wr SYS_DEV_STATE_PROFILE 2).wr (CHAIN_STAT_HOPS 4) 3), 4, by decide⟩⟩

/-- States and operands that meet the hypotheses of ChainStates. -/
theorem witness_ChainStates_c :
    (∃ (s : State) (n : Fin 24), s.chainSt n ≠ 3) ∧
    (∃ (s : State) (c : Fin 192), s.hasCell c ∧ s.on (CELLCTL_MB_CTL_PEND c) = false) ∧
    (∃ (s : State) (c : Fin 192), s.hasCell c ∧ s.on (CELLCTL_MB_CTL_PEND c)) ∧
    (∃ (s : State) (c : Fin 192), s.hasCell c = false) ∧
    (∃ (s : State) (n : Fin 24) (p : Fin 2), s.chainSt n ≠ 0 ∧ (s.rxPaths n).any (fun q => q.1 == p.val)) ∧
    (∃ (s : State) (n : Fin 24) (p : Fin 2), (s.chainSt n = 0 ∨ (s.rxPaths n).any (fun q => q.1 == p.val) = false)) :=
  ⟨⟨((((State.reset.wr (CHAIN_STAT_STATE 4) 4).wr (LANE_STAT_STATE 4) 4).wr SYS_DEV_STATE_PROFILE 2).wr (CHAIN_STAT_HOPS 4) 3), 4, by decide⟩,
   ⟨((((State.reset.wr (CHAIN_STAT_STATE 4) 3).wr (LANE_STAT_STATE 4) 4).wr SYS_DEV_STATE_PROFILE 2).wr (CHAIN_STAT_HOPS 4) 3), 33, by decide⟩,
   ⟨(((((State.reset.wr (CHAIN_STAT_STATE 4) 3).wr (LANE_STAT_STATE 4) 4).wr SYS_DEV_STATE_PROFILE 2).wr (CHAIN_STAT_HOPS 4) 3)).wr (CELLCTL_MB_CTL_PEND 33) 1, 33, by decide⟩,
   ⟨State.reset.wr SYS_DEV_STATE_PROFILE 1, 36, by decide⟩,
   ⟨((((State.reset.wr (CHAIN_STAT_STATE 4) 4).wr (LANE_STAT_STATE 4) 4).wr SYS_DEV_STATE_PROFILE 2).wr (CHAIN_STAT_HOPS 4) 3), 4, 0, by decide⟩,
   ⟨State.reset, 4, 1, by decide⟩⟩

/-- States and operands that meet the hypotheses of ChainStates. -/
theorem witness_ChainStates_d :
    (∃ (s : State) (n : Fin 24), s.topo n = 0 ∧ (s.chainSt n = 4 ∨ s.chainSt n = 5) ∧ s.rd (CHAIN_CFG_LOSS_FR n) ≤ s.rd (CHAIN_MISS_P n 0) + 1 ∧ s.rd (CHAIN_CFG_LOSS_FR n) ≤ 255 ∧ s.role = 0) ∧
    (∃ (s : State), s.inRun = false ∧ s.on LOOP_CYC_CFG_EN = false) ∧
    (∃ (s : State), s.inRun ∧ s.on LOOP_CYC_CFG_EN = false) ∧
    (∃ (s : State), s.on LOOP_CYC_CFG_EN) ∧
    (∃ (s : State), s.on LOOP_CYC_CFG_EN ∧ s.grid.regrid = false) ∧
    (∃ (s : State), s.on LOOP_CYC_CFG_EN ∧ s.grid.regrid) :=
  ⟨⟨(((((State.reset.wr (CHAIN_STAT_STATE 4) 4).wr (LANE_STAT_STATE 4) 4).wr SYS_DEV_STATE_PROFILE 2).wr (CHAIN_STAT_HOPS 4) 3)).wr (CHAIN_MISS_MISS0 4) 200, 4, by decide⟩,
   ⟨State.reset, by decide⟩,
   ⟨State.reset.wr SYS_DEV_STATE_STATE 3, by decide⟩,
   ⟨State.reset.wr LOOP_CYC_CFG_EN 1, by decide⟩,
   ⟨(State.reset.wr LOOP_CYC_CFG_EN 1), by decide⟩,
   ⟨{(State.reset.wr LOOP_CYC_CFG_EN 1) with grid := { regrid := true }}, by decide⟩⟩

/-- States and operands that meet the hypotheses of ChainStates. -/
theorem witness_ChainStates_e :
    (∃ (s : State), s.on LOOP_CYC_CFG_EN = false) ∧
    (∃ (s : State) (c : Fin 192) (m : Int) (u : Nat), s.on LOOP_CYC_CFG_EN ∧ s.grid.inCycle ∧ s.on (LOOP_CHCYC_EN (c / 8)) ∧ s.on (CHAIN_TRING_VALID (c / 8)) ∧ s.hasCell c ∧ c.val % 8 < s.rd (CHAIN_STAT_HOPS (c / 8)) ∧ m = s.swapCyc c ∧ (s.cstE c).done < m ∧ (s.cstE c).fillT = some u) ∧
    (∃ (s : State) (c : Fin 192) (m : Int), s.on LOOP_CYC_CFG_EN ∧ s.grid.inCycle ∧ s.on (LOOP_CHCYC_EN (c / 8)) ∧ s.on (CHAIN_TRING_VALID (c / 8)) ∧ s.hasCell c ∧ c.val % 8 < s.rd (CHAIN_STAT_HOPS (c / 8)) ∧ m = s.swapCyc c ∧ (s.cstE c).done < m ∧ (s.cstE c).fillT = none) ∧
    (∃ (s : State) (c : Fin 192), (s.swaps c = false ∨ s.swapCyc c ≤ (s.cstE c).done)) :=
  ⟨⟨State.reset, by decide +kernel⟩,
   ⟨{ (((((((((State.reset.wr (CHAIN_STAT_STATE 4) 4).wr (LANE_STAT_STATE 4) 4).wr SYS_DEV_STATE_PROFILE 2).wr (CHAIN_STAT_HOPS 4) 3)).wr LOOP_CYC_CFG_EN 1).wr (LOOP_CHCYC_EN 4) 1).wr (CHAIN_TRING_VALID 4) 1).setCst 33 { fillT := some 5000 }) with grid := { inCycle := true, next := 1 } }, 33, 0, 5000, by decide⟩,
   ⟨{ (((((((((State.reset.wr (CHAIN_STAT_STATE 4) 4).wr (LANE_STAT_STATE 4) 4).wr SYS_DEV_STATE_PROFILE 2).wr (CHAIN_STAT_HOPS 4) 3)).wr LOOP_CYC_CFG_EN 1).wr (LOOP_CHCYC_EN 4) 1).wr (CHAIN_TRING_VALID 4) 1).setCst 33 {  }) with grid := { inCycle := true, next := 1 } }, 33, 0, by decide⟩,
   ⟨State.reset, 33, by decide⟩⟩

/-- States and operands that meet the hypotheses of FramesSentAndReceived. -/
theorem witness_FramesSentAndReceived_a :
    (∃ (s : State) (l : Fin 24), s.txBlock l ∧ s.chainSt (s.txPathOf l).1 ≠ 0) ∧
    (∃ (s : State) (l : Fin 24), s.txBlock l ∧ s.chainSt (s.txPathOf l).1 ≠ 0) ∧
    (∃ (s : State) (l : Fin 24), (s.txBlock l = false ∨ s.chainSt (s.txPathOf l).1 = 0)) ∧
    (∃ (s : State) (l : Fin 24) (i : Fin 8), s.txBlock l ∧ s.chainSt (s.txPathOf l).1 ≠ 0 ∧ s.profile = 2 ∧ s.cellAt (s.txPathOf l).1 (s.txPathOf l).2 i = none) ∧
    (∃ (s : State), s.tbRuns) ∧
    (∃ (s : State), s.tbRuns = false) :=
  ⟨⟨(((((State.reset.wr (CHAIN_STAT_STATE 4) 4).wr (LANE_STAT_STATE 4) 4).wr SYS_DEV_STATE_PROFILE 2).wr (CHAIN_STAT_HOPS 4) 3)).wr (LANE_STAT_TX_MODE 4) 2, 4, by decide⟩,
   ⟨(((((State.reset.wr (CHAIN_STAT_STATE 4) 4).wr (LANE_STAT_STATE 4) 4).wr SYS_DEV_STATE_PROFILE 2).wr (CHAIN_STAT_HOPS 4) 3)).wr (LANE_STAT_TX_MODE 4) 2, 4, by decide⟩,
   ⟨State.reset, 4, by decide⟩,
   ⟨(((((State.reset.wr (CHAIN_STAT_STATE 4) 4).wr (LANE_STAT_STATE 4) 4).wr SYS_DEV_STATE_PROFILE 2).wr (CHAIN_STAT_HOPS 4) 3)).wr (LANE_STAT_TX_MODE 4) 2, 4, 5, by decide⟩,
   ⟨State.reset.wr CLK_TB_CTL_EN 1, by decide⟩,
   ⟨State.reset.clr CLK_TB_CTL_EN, by decide⟩⟩

/-- States and operands that meet the hypotheses of FramesSentAndReceived. -/
theorem witness_FramesSentAndReceived_b :
    (∃ (s : State) (l : Fin 24) (h : List (BitVec 8)) (r : List (Nat × BitVec 64)), takePart 0 5 (s.lane l).rxq = (some h, r) ∧ s.chainSt (s.chainOfLane l).1 ≠ 0 ∧ hcrcOk h ∧ s.topo (s.chainOfLane l).1 ≠ 2 ∧ fieldAt h 16 2 = s.rd SYS_DEV_ID_DEVID) ∧
    (∃ (s : State) (l : Fin 24) (h : List (BitVec 8)) (r : List (Nat × BitVec 64)), takePart 0 5 (s.lane l).rxq = (some h, r) ∧ s.chainSt (s.chainOfLane l).1 = 4 ∧ s.topo (s.chainOfLane l).1 = 0 ∧ s.laneSt l = 4 ∧ 0 < s.rd (CHAIN_CFG_LOSS_FR (s.chainOfLane l).1) ∧ hcrcOk h ∧ fieldAt h 16 2 = s.rd SYS_DEV_ID_DEVID) ∧
    (∃ (s : State) (l : Fin 24) (h : List (BitVec 8)) (r : List (Nat × BitVec 64)), takePart 0 5 (s.lane l).rxq = (some h, r) ∧ s.chainSt (s.chainOfLane l).1 ≠ 0 ∧ hcrcOk h ∧ s.topo (s.chainOfLane l).1 = 2 ∧ fieldAt h 16 2 = s.rd SYS_DEV_ID_DEVID) ∧
    (∃ (s : State) (l : Fin 24) (h : List (BitVec 8)) (r : List (Nat × BitVec 64)), takePart 0 5 (s.lane l).rxq = (some h, r) ∧ s.chainSt (s.chainOfLane l).1 ≠ 0 ∧ hcrcOk h ∧ s.topo (s.chainOfLane l).1 = 2 ∧ fieldAt h 16 2 ≠ s.rd SYS_DEV_ID_DEVID ∧ fieldAt h 16 2 = s.rd (LANE_PARTNER_DEVID l)) ∧
    (∃ (s : State) (l : Fin 24) (h : List (BitVec 8)) (r : List (Nat × BitVec 64)), takePart 0 5 (s.lane l).rxq = (some h, r) ∧ s.chainSt (s.chainOfLane l).1 ≠ 0 ∧ (hcrcOk h = false ∨ (fieldAt h 16 2 ≠ s.rd SYS_DEV_ID_DEVID ∧ (s.topo (s.chainOfLane l).1 ≠ 2 ∨ fieldAt h 16 2 ≠ s.rd (LANE_PARTNER_DEVID l))))) ∧
    (∃ (s : State) (l : Fin 24), (s.chainSt (s.chainOfLane l).1 = 0 ∨ (takePart 0 5 (s.lane l).rxq).1 = none)) :=
  ⟨⟨((((((State.reset.wr (CHAIN_STAT_STATE 4) 4).wr (LANE_STAT_STATE 4) 4).wr SYS_DEV_STATE_PROFILE 2).wr (CHAIN_STAT_HOPS 4) 3)).wr SYS_DEV_ID_DEVID 2).setLane 4 { (((((((State.reset.wr (CHAIN_STAT_STATE 4) 4).wr (LANE_STAT_STATE 4) 4).wr SYS_DEV_STATE_PROFILE 2).wr (CHAIN_STAT_HOPS 4) 3)).wr SYS_DEV_ID_DEVID 2).lane 4) with rxq := rxOf 0 (payloads 5 (aHeader 7 1 2)) }, 4, (aHeader 7 1 2), [], by decide +kernel⟩,
   ⟨((((((State.reset.wr (CHAIN_STAT_STATE 4) 4).wr (LANE_STAT_STATE 4) 4).wr SYS_DEV_STATE_PROFILE 2).wr (CHAIN_STAT_HOPS 4) 3)).wr SYS_DEV_ID_DEVID 2).setLane 4 { (((((((State.reset.wr (CHAIN_STAT_STATE 4) 4).wr (LANE_STAT_STATE 4) 4).wr SYS_DEV_STATE_PROFILE 2).wr (CHAIN_STAT_HOPS 4) 3)).wr SYS_DEV_ID_DEVID 2).lane 4) with rxq := rxOf 0 (payloads 5 (aHeader 7 1 2)) }, 4, (aHeader 7 1 2), [], by decide +kernel⟩,
   ⟨(((((((State.reset.wr (CHAIN_STAT_STATE 4) 4).wr (LANE_STAT_STATE 4) 4).wr SYS_DEV_STATE_PROFILE 2).wr (CHAIN_STAT_HOPS 4) 3)).wr SYS_DEV_ID_DEVID 2).wr (CHAIN_CFG_TOPO 4) 2).setLane 4 { ((((((((State.reset.wr (CHAIN_STAT_STATE 4) 4).wr (LANE_STAT_STATE 4) 4).wr SYS_DEV_STATE_PROFILE 2).wr (CHAIN_STAT_HOPS 4) 3)).wr SYS_DEV_ID_DEVID 2).wr (CHAIN_CFG_TOPO 4) 2).lane 4) with rxq := rxOf 0 (payloads 5 (aHeader 7 1 2)) }, 4, (aHeader 7 1 2), [], by decide +kernel⟩,
   ⟨((((((State.reset.wr (CHAIN_STAT_STATE 4) 4).wr (LANE_STAT_STATE 4) 4).wr SYS_DEV_STATE_PROFILE 2).wr (CHAIN_STAT_HOPS 4) 3)).wr (CHAIN_CFG_TOPO 4) 2 |>.wr (LANE_PARTNER_DEVID 4) 2).setLane 4 { (((((((State.reset.wr (CHAIN_STAT_STATE 4) 4).wr (LANE_STAT_STATE 4) 4).wr SYS_DEV_STATE_PROFILE 2).wr (CHAIN_STAT_HOPS 4) 3)).wr (CHAIN_CFG_TOPO 4) 2 |>.wr (LANE_PARTNER_DEVID 4) 2).lane 4) with rxq := rxOf 0 (payloads 5 (aHeader 7 1 2)) }, 4, (aHeader 7 1 2), [], by decide +kernel⟩,
   ⟨(((((State.reset.wr (CHAIN_STAT_STATE 4) 4).wr (LANE_STAT_STATE 4) 4).wr SYS_DEV_STATE_PROFILE 2).wr (CHAIN_STAT_HOPS 4) 3)).setLane 4 { ((((((State.reset.wr (CHAIN_STAT_STATE 4) 4).wr (LANE_STAT_STATE 4) 4).wr SYS_DEV_STATE_PROFILE 2).wr (CHAIN_STAT_HOPS 4) 3)).lane 4) with rxq := rxOf 0 (payloads 5 (List.replicate 40 1)) }, 4, (List.replicate 40 1), [], by decide +kernel⟩,
   ⟨(((((State.reset.wr (CHAIN_STAT_STATE 4) 4).wr (LANE_STAT_STATE 4) 4).wr SYS_DEV_STATE_PROFILE 2).wr (CHAIN_STAT_HOPS 4) 3)).wr SYS_DEV_ID_DEVID 2, 4, by decide⟩⟩

/-- States and operands that meet the hypotheses of FramesSentAndReceived. -/
theorem witness_FramesSentAndReceived_c :
    (∃ (s : State) (l : Fin 24) (i : Fin 8) (b : List (BitVec 8)) (r : List (Nat × BitVec 64)) (n : Fin 24) (p : Nat) (c : Fin 192), takePart (5 + 11 * i) 11 (s.lane l).rxq = (some b, r) ∧ s.chainSt n ≠ 0 ∧ s.chainOfLane l = (n.val, p) ∧ (s.lane l).rxOther = false ∧ (s.profile = 2 ∨ (s.profile = 1 ∧ i.val % 2 = 1)) ∧ s.cellAt n ((s.lane l).rxPath.getD p) (if s.profile = 1 then i.val / 2 else i.val) = some c.val ∧ b.length = 88 ∧ scrcOk b) ∧
    (∃ (s : State) (l : Fin 24) (i : Fin 8) (b : List (BitVec 8)) (r : List (Nat × BitVec 64)) (n : Fin 24) (p : Nat) (c : Fin 192), takePart (5 + 11 * i) 11 (s.lane l).rxq = (some b, r) ∧ s.chainSt n ≠ 0 ∧ s.chainOfLane l = (n.val, p) ∧ (s.lane l).rxOther = false ∧ (s.profile = 2 ∨ (s.profile = 1 ∧ i.val % 2 = 1)) ∧ s.cellAt n ((s.lane l).rxPath.getD p) (if s.profile = 1 then i.val / 2 else i.val) = some c.val ∧ b.length = 88 ∧ scrcOk b ∧ s.standby = false ∧ (s.cell c).reopen = none ∧ s.booksOn c ∧ 0 < toInt 8 (subMod 8 (fieldAt b 1 1) (s.rd (CELLCTL_CREDIT_EXEC c))) ∧ toInt 8 (subMod 8 (fieldAt b 1 1) (s.rd (CELLCTL_CREDIT_EXEC c))) ≤ (subMod 8 (s.rd (CELLCTL_CREDIT_SENT c)) (s.rd (CELLCTL_CREDIT_EXEC c)) : Nat)) ∧
    (∃ (s : State) (l : Fin 24) (i : Fin 8) (b : List (BitVec 8)) (r : List (Nat × BitVec 64)) (n : Fin 24) (p : Nat) (c : Fin 192), takePart (5 + 11 * i) 11 (s.lane l).rxq = (some b, r) ∧ s.chainSt n ≠ 0 ∧ s.chainOfLane l = (n.val, p) ∧ (s.lane l).rxOther = false ∧ (s.profile = 2 ∨ (s.profile = 1 ∧ i.val % 2 = 1)) ∧ s.cellAt n ((s.lane l).rxPath.getD p) (if s.profile = 1 then i.val / 2 else i.val) = some c.val ∧ (b.length ≠ 88 ∨ scrcOk b = false)) ∧
    (∃ (s : State) (l : Fin 24) (i : Fin 8), (s.chainSt (s.chainOfLane l).1 = 0 ∨ (s.lane l).rxOther ∨ (s.profile = 1 ∧ i.val % 2 = 0) ∨ (takePart (5 + 11 * i) 11 (s.lane l).rxq).1 = none ∨ s.cellAt (s.chainOfLane l).1 ((s.lane l).rxPath.getD (s.chainOfLane l).2) (if s.profile = 1 then i.val / 2 else i.val) = none)) :=
  ⟨⟨((((((((State.reset.wr (CHAIN_STAT_STATE 4) 4).wr (LANE_STAT_STATE 4) 4).wr SYS_DEV_STATE_PROFILE 2).wr (CHAIN_STAT_HOPS 4) 3)).wr (CELLCTL_CFG_EN 33) 1).wr (CELLCTL_CREDIT_SENT 33) 9).wr (CELLCTL_CREDIT_EXEC 33) 2).setLane 4 { (((((((((State.reset.wr (CHAIN_STAT_STATE 4) 4).wr (LANE_STAT_STATE 4) 4).wr SYS_DEV_STATE_PROFILE 2).wr (CHAIN_STAT_HOPS 4) 3)).wr (CELLCTL_CFG_EN 33) 1).wr (CELLCTL_CREDIT_SENT 33) 9).wr (CELLCTL_CREDIT_EXEC 33) 2).lane 4) with rxq := rxOf 16 (payloads 11 (aSection 4 7 1 2)) }, 4, 1, (aSection 4 7 1 2), [], 4, 0, 33, by decide +kernel⟩,
   ⟨(((((((((State.reset.wr (CHAIN_STAT_STATE 4) 4).wr (LANE_STAT_STATE 4) 4).wr SYS_DEV_STATE_PROFILE 2).wr (CHAIN_STAT_HOPS 4) 3)).wr (CELLCTL_CFG_EN 33) 1).wr (CELLCTL_CREDIT_SENT 33) 9).wr (CELLCTL_CREDIT_EXEC 33) 2).setCell 33 { opened := true }).setLane 4 { ((((((((((State.reset.wr (CHAIN_STAT_STATE 4) 4).wr (LANE_STAT_STATE 4) 4).wr SYS_DEV_STATE_PROFILE 2).wr (CHAIN_STAT_HOPS 4) 3)).wr (CELLCTL_CFG_EN 33) 1).wr (CELLCTL_CREDIT_SENT 33) 9).wr (CELLCTL_CREDIT_EXEC 33) 2).setCell 33 { opened := true }).lane 4) with rxq := rxOf 16 (payloads 11 (aReport 5)) }, 4, 1, (aReport 5), [], 4, 0, 33, by decide +kernel⟩,
   ⟨((((((((State.reset.wr (CHAIN_STAT_STATE 4) 4).wr (LANE_STAT_STATE 4) 4).wr SYS_DEV_STATE_PROFILE 2).wr (CHAIN_STAT_HOPS 4) 3)).wr (CELLCTL_CFG_EN 33) 1).wr (CELLCTL_CREDIT_SENT 33) 9).wr (CELLCTL_CREDIT_EXEC 33) 2).setLane 4 { (((((((((State.reset.wr (CHAIN_STAT_STATE 4) 4).wr (LANE_STAT_STATE 4) 4).wr SYS_DEV_STATE_PROFILE 2).wr (CHAIN_STAT_HOPS 4) 3)).wr (CELLCTL_CFG_EN 33) 1).wr (CELLCTL_CREDIT_SENT 33) 9).wr (CELLCTL_CREDIT_EXEC 33) 2).lane 4) with rxq := rxOf 16 (payloads 11 (List.replicate 88 1)) }, 4, 1, (List.replicate 88 1), [], 4, 0, 33, by decide +kernel⟩,
   ⟨State.reset, 4, 1, by decide⟩⟩

/-- States and operands that meet the hypotheses of ModulatorCapture. -/
theorem witness_ModulatorCapture_a :
    (∃ (s : State), s.inRun = false ∧ s.on MOD_CFG_EN = false) ∧
    (∃ (s : State), s.inRun ∧ s.on MOD_CFG_EN = false) ∧
    (∃ (s : State), s.on MOD_CFG_EN) ∧
    (∃ (s : State) (f : BitVec 32), s.inRun = false ∧ s.reg MOD_ANCHOR ≠ f.toNat) ∧
    (∃ (s : State) (f : BitVec 32), s.inRun ∧ s.reg MOD_ANCHOR ≠ f.toNat) ∧
    (∃ (s : State) (f : BitVec 32), s.reg MOD_ANCHOR = f.toNat) :=
  ⟨⟨State.reset, by decide +kernel⟩,
   ⟨State.reset.wr SYS_DEV_STATE_STATE 3, by decide⟩,
   ⟨State.reset.wr MOD_CFG_EN 1, by decide⟩,
   ⟨State.reset, 77, by decide⟩,
   ⟨State.reset.wr SYS_DEV_STATE_STATE 3, 77, by decide⟩,
   ⟨State.reset, 0, by decide⟩⟩

/-- States and operands that meet the hypotheses of ModulatorCapture. -/
theorem witness_ModulatorCapture_b :
    (∃ (s : State) (m : BitVec 32) (n : Fin 784), s.modRuns ∧ s.hasChan n ∧ (n.val < 768 ∨ s.oddOfPair (n - 768) = false) ∧ m.toNat.testBit (s.rd (chGroup n)) ∧ (∀ j : Fin 8, s.on (MOD_STR_CFG_AUTO j) = false) ∧ s.pairRefused n = false) ∧
    (∃ (s : State) (m : BitVec 32) (n : Fin 784), s.modRuns ∧ s.hasChan n ∧ (n.val < 768 ∨ s.oddOfPair (n - 768) = false) ∧ m.toNat.testBit (s.rd (chGroup n)) ∧ (∀ j : Fin 8, s.on (MOD_STR_CFG_AUTO j) = false) ∧ s.pairRefused n) ∧
    (∃ (s : State) (m : BitVec 32) (n : Fin 784), (m.toNat.testBit (s.rd (chGroup n)) = false ∨ (768 ≤ n.val ∧ s.oddOfPair (n - 768))) ∧ (∀ j : Fin 8, s.on (MOD_STR_CFG_AUTO j) = false)) ∧
    (∃ (s : State), s.modRuns = false) ∧
    (∃ (s : State) (n : Fin 784) (z : Nat), s.modRuns ∧ s.on MOD_CFG_EN ∧ n < 768 ∧ s.hasChan n ∧ s.rd (CELLCTL_STAT_MODE_SENT (n / 4)) = 4 ∧ (s.chan n).z = some z ∧ (s.chan n).pend = none ∧ (s.chan n).ext = [] ∧ (s.chan n).anchor = s.modA ∧ (s.plan (n / 4)).upto.length = 4) ∧
    (∃ (s : State) (n : Fin 784) (z : Nat), s.modRuns ∧ s.on MOD_CFG_EN ∧ n < 768 ∧ s.hasChan n ∧ s.rd (CELLCTL_STAT_MODE_SENT (n / 4)) = 4 ∧ (s.chan n).z = some z ∧ (s.chan n).pend = none ∧ (s.chan n).ext = [] ∧ (s.chan n).anchor = s.modA ∧ (s.chan n).sync = false ∧ (s.chan n).pst = 1 ∧ (s.plan (n / 4)).planned = [] ∧ (s.plan (n / 4)).upto = [0, 0, 0, 0] ∧ (s.chan n).cur.mode = 1 ∧ 0 < (s.chan n).cur.onc ∧ (s.chan n).cur.onc < (s.chan n).cur.offc ∧ (s.chan n).cur.offc < (s.chan n).cur.period * 16 ∧ s.rd MOD_BOOT0_THRESH = 0) :=
  ⟨⟨((State.reset.wr CLK_TB_STAT_LOCK 1).wr CLK_TB_STAT_DLL_LOCK 1), 1, 770, by decide⟩,
   ⟨(((State.reset.wr CLK_TB_STAT_LOCK 1).wr CLK_TB_STAT_DLL_LOCK 1).wr (chPairChk 770) 1).wr (chDirty 770) 1, 1, 770, by decide⟩,
   ⟨((State.reset.wr CLK_TB_STAT_LOCK 1).wr CLK_TB_STAT_DLL_LOCK 1), 2, 770, by decide⟩,
   ⟨State.reset.clr CLK_TB_STAT_LOCK, by decide⟩,
   ⟨(((((State.reset.wr CLK_TB_STAT_LOCK 1).wr CLK_TB_STAT_DLL_LOCK 1).wr MOD_CFG_EN 1).wr (CELLCTL_STAT_MODE_SENT 3) 4).wr SYS_DEV_STATE_PROFILE 2).setChan 13 { z := some 5000, anchor := 0, pst := 0, sync := false, cur := { mode := 1, period := 10000, onc := 100, offc := 200 } }, 13, 5000, by decide⟩,
   ⟨((((((State.reset.wr CLK_TB_STAT_LOCK 1).wr CLK_TB_STAT_DLL_LOCK 1).wr MOD_CFG_EN 1).wr (CELLCTL_STAT_MODE_SENT 3) 4).wr SYS_DEV_STATE_PROFILE 2).wr MOD_BOOT0_THRESH 0).setChan 13 { z := some 5000, anchor := 0, pst := 1, sync := false, cur := { mode := 1, period := 10000, onc := 100, offc := 200 } }, 13, 5000, by decide⟩⟩

/-- States and operands that meet the hypotheses of ModulatorCapture. -/
theorem witness_ModulatorCapture_c :
    (∃ (s : State) (n : Fin 784) (z : Nat) (p : Machine.PSet), s.modRuns ∧ s.on MOD_CFG_EN ∧ n < 768 ∧ s.hasChan n ∧ s.rd (CELLCTL_STAT_MODE_SENT (n / 4)) ≠ 4 ∧ (s.chan n).z = some z ∧ (s.chan n).pend = some p ∧ (s.chan n).ext = [] ∧ (s.chan n).anchor = s.modA ∧ p.period = (s.chan n).cur.period ∧ p.phase = (s.chan n).cur.phase) ∧
    (∃ (s : State) (n : Fin 784) (z : Nat), s.modRuns ∧ s.on MOD_CFG_EN ∧ 768 ≤ n ∧ s.oddOfPair (n - 768) = false ∧ (s.chan n).cur.mode ≠ 0 ∧ (s.chan n).z = some z ∧ (s.chan n).pend = none ∧ (s.chan n).anchor = s.modA) ∧
    (∃ (s : State) (n : Fin 784), (s.modRuns = false ∨ s.on MOD_CFG_EN = false ∨ s.hasChan n = false ∨ (768 ≤ n.val ∧ s.oddOfPair (n - 768)))) ∧
    (∃ (s : State) (n : Fin 768) (z : Nat) (p : Machine.PSet) (f : Bool) (r : List (Nat × Machine.PSet × Bool)), s.modRuns ∧ (s.chan n).taken = (z, p, f) :: r) ∧
    (∃ (s : State) (n : Fin 784) (z : Nat) (p : Machine.PSet) (f : Bool) (r : List (Nat × Machine.PSet × Bool)), s.modRuns ∧ 768 ≤ n ∧ (s.chan n).taken = (z, p, f) :: r) ∧
    (∃ (s : State) (n : Fin 768), s.modRuns ∧ (s.chan n).taken = [] ∧ s.hasChan n ∧ (s.on MOD_CFG_EN = false ∨ (s.chan n).z = none)) :=
  ⟨⟨(((((State.reset.wr CLK_TB_STAT_LOCK 1).wr CLK_TB_STAT_DLL_LOCK 1).wr MOD_CFG_EN 1).wr (CELLCTL_STAT_MODE_SENT 3) 3).wr SYS_DEV_STATE_PROFILE 2).setChan 13 { z := some 5000, anchor := 0, pst := 0, sync := false, cur := { mode := 1, period := 10000, onc := 100, offc := 200 }, pend := some { mode := 1, period := 10000, onc := 300, offc := 400 } }, 13, 5000, { mode := 1, period := 10000, onc := 300, offc := 400 }, by decide⟩,
   ⟨(((State.reset.wr CLK_TB_STAT_LOCK 1).wr CLK_TB_STAT_DLL_LOCK 1).wr MOD_CFG_EN 1).setChan 770 { z := some 5000, cur := { mode := 1 } }, 770, 5000, by decide⟩,
   ⟨State.reset, 13, by decide⟩,
   ⟨((State.reset.wr CLK_TB_STAT_LOCK 1).wr CLK_TB_STAT_DLL_LOCK 1).setChan 13 { taken := [(5000, { mode := 1 }, false)] }, 13, 5000, { mode := 1 }, false, [], by decide⟩,
   ⟨((State.reset.wr CLK_TB_STAT_LOCK 1).wr CLK_TB_STAT_DLL_LOCK 1).setChan 770 { taken := [(5000, { mode := 1 }, false)] }, 770, 5000, { mode := 1 }, false, [], by decide⟩,
   ⟨((State.reset.wr CLK_TB_STAT_LOCK 1).wr CLK_TB_STAT_DLL_LOCK 1), 13, by decide⟩⟩

/-- States and operands that meet the hypotheses of ModulatorCapture. -/
theorem witness_ModulatorCapture_d :
    (∃ (s : State) (n : Fin 784), (s.modRuns = false ∨ ((s.chan n).taken = [] ∧ (s.hasChan n = false ∨ (s.on MOD_CFG_EN ∧ (s.chan n).z ≠ none))))) ∧
    (∃ (s : State) (c : Fin 192) (k : Nat), s.modRuns ∧ s.on MOD_AUX_PEND = false ∧ s.rd MOD_AUX_CELL = c.val ∧ 4 ≤ s.rd MOD_AUX_LEG ∧ (k : Int) = ((s.frame : Int) + toInt 32 (subMod 32 (s.reg MOD_AUX_F) (s.reg LOOP_FRAME_NUM))) ∧ s.t16 * 100 < departure (s.deadline c (k * 16000 + s.reg MOD_AUX_T)) ∧ (s.plan c).planned = [] ∧ (s.plan c).upto.all (fun u => decide (k * 16000 + s.reg MOD_AUX_T < u)) = false) ∧
    (∃ (s : State), s.modRuns ∧ s.on MOD_AUX_PEND = false ∧ ((s.frame : Int) + toInt 32 (subMod 32 (s.reg MOD_AUX_F) (s.reg LOOP_FRAME_NUM))) < 0) ∧
    (∃ (s : State) (k : Nat), s.modRuns ∧ s.on MOD_AUX_PEND = false ∧ (k : Int) = ((s.frame : Int) + toInt 32 (subMod 32 (s.reg MOD_AUX_F) (s.reg LOOP_FRAME_NUM))) ∧ departure (s.deadline (s.rd MOD_AUX_CELL) (k * 16000 + s.reg MOD_AUX_T)) ≤ s.t16 * 100) ∧
    (∃ (s : State), (s.modRuns = false ∨ s.on MOD_AUX_PEND)) ∧
    (∃ (s : State) (n : Fin 768), ((s.chan n).advance s.t16 s.tref16 (s.rd MOD_BOOT0_BUDGET * 16000) (decide (2 ≤ n.val % 4))).budA = 0 ∧ ((s.chan n).advance s.t16 s.tref16 (s.rd MOD_BOOT0_BUDGET * 16000) (decide (2 ≤ n.val % 4))).empA = false) :=
  ⟨⟨State.reset, 770, by decide⟩,
   ⟨((((State.reset.wr CLK_TB_STAT_LOCK 1).wr CLK_TB_STAT_DLL_LOCK 1).setReg MOD_AUX_F 1000).wr MOD_AUX_CELL 3).wr MOD_AUX_LEG 4, 3, 1000, by decide⟩,
   ⟨((State.reset.wr CLK_TB_STAT_LOCK 1).wr CLK_TB_STAT_DLL_LOCK 1).setReg MOD_AUX_F (2 ^ 32 - 5), by decide⟩,
   ⟨((State.reset.wr CLK_TB_STAT_LOCK 1).wr CLK_TB_STAT_DLL_LOCK 1), 0, by decide⟩,
   ⟨((State.reset.wr CLK_TB_STAT_LOCK 1).wr CLK_TB_STAT_DLL_LOCK 1).wr MOD_AUX_PEND 1, by decide⟩,
   ⟨State.reset.setChan 13 { empA := false }, 13, by decide⟩⟩

/-- States and operands that meet the hypotheses of ModulatorCapture. -/
theorem witness_ModulatorCapture_e :
    (∃ (s : State) (n : Fin 768), ((s.chan n).advance s.t16 s.tref16 (s.rd MOD_BOOT0_BUDGET * 16000) (decide (2 ≤ n.val % 4))).budB = 0 ∧ ((s.chan n).advance s.t16 s.tref16 (s.rd MOD_BOOT0_BUDGET * 16000) (decide (2 ≤ n.val % 4))).empB = false ∧ 2 ≤ n.val % 4) ∧
    (∃ (s : State) (n : Fin 768) (b : Bool), ((if b then ((s.chan n).advance s.t16 s.tref16 (s.rd MOD_BOOT0_BUDGET * 16000) (decide (2 ≤ n.val % 4))).budB ≠ 0 ∨ ((s.chan n).advance s.t16 s.tref16 (s.rd MOD_BOOT0_BUDGET * 16000) (decide (2 ≤ n.val % 4))).empB else ((s.chan n).advance s.t16 s.tref16 (s.rd MOD_BOOT0_BUDGET * 16000) (decide (2 ≤ n.val % 4))).budA ≠ 0 ∨ ((s.chan n).advance s.t16 s.tref16 (s.rd MOD_BOOT0_BUDGET * 16000) (decide (2 ≤ n.val % 4))).empA))) :=
  ⟨⟨State.reset.setChan 14 { empB := false }, 14, by decide⟩,
   ⟨State.reset.setChan 13 { empA := true }, 13, false, by decide⟩⟩

/-- States and operands that meet the hypotheses of LocalOutputs. -/
theorem witness_LocalOutputs_a :
    (∃ (s : State) (m : Fin 16) (k : Nat) (v : Nat) (l : Bool) (r : List (Nat × Nat × Bool)), s.modRuns ∧ (s.lp m).q = (k, v, l) :: r ∧ (s.lp m).waiting = [] ∧ (v ≠ 2 ∨ (s.lp m).wst = 2)) ∧
    (∃ (s : State) (m : Fin 16) (k : Nat) (v : Nat) (l : Bool) (r : List (Nat × Nat × Bool)), s.modRuns ∧ (s.lp m).q = (k, v, l) :: r ∧ (s.lp m).waiting = [] ∧ v = 2 ∧ (s.lp m).wst ≠ 2) ∧
    (∃ (s : State) (m : Fin 16), (s.modRuns = false ∨ (s.lp m).q = [])) ∧
    (∃ (s : State) (m : Fin 16), s.on (LPWM_CTL_TRIP_EN m) ∧ s.on (LPWM_STAT_TRIP_IN m) ∧ s.on (LPWM_STAT_TRIPPED m) = false ∧ s.oddOfPair m = false ∧ s.on (PROT_LREC_CFG_AUTO m) = false) ∧
    (∃ (s : State) (m : Fin 16), s.on (LPWM_CTL_TRIP_EN m) ∧ s.on (LPWM_STAT_TRIP_IN m) ∧ s.on (LPWM_STAT_TRIPPED m) = false ∧ s.oddOfPair m = false ∧ s.on (PROT_LREC_CFG_AUTO m) ∧ s.prot.lwin.any (fun w => w.1 == m.val && decide (s.ns - w.2 < s.rd PROT_RETRY_WIN_WIN * 1000000000)) = false ∧ 0 < s.rd PROT_CFG_TRIES) ∧
    (∃ (s : State) (m : Fin 16), s.on (LPWM_CTL_TRIP_EN m) ∧ s.on (LPWM_STAT_TRIP_IN m) ∧ s.on (LPWM_STAT_TRIPPED m) = false ∧ s.oddOfPair m = false ∧ s.on (PROT_LREC_CFG_AUTO m) ∧ s.prot.lwin.any (fun w => w.1 == m.val && decide (s.ns - w.2 < s.rd PROT_RETRY_WIN_WIN * 1000000000)) ∧ s.rd PROT_CFG_TRIES ≤ s.rd (PROT_LREC_ST_TRIES m)) :=
  ⟨⟨((State.reset.wr CLK_TB_STAT_LOCK 1).wr CLK_TB_STAT_DLL_LOCK 1).setLp 2 { q := [(100, 1, true)] }, 2, 100, 1, true, [], by decide⟩,
   ⟨((State.reset.wr CLK_TB_STAT_LOCK 1).wr CLK_TB_STAT_DLL_LOCK 1).setLp 2 { q := [(100, 2, true)] }, 2, 100, 2, true, [], by decide⟩,
   ⟨State.reset, 2, by decide⟩,
   ⟨(State.reset.wr (LPWM_CTL_TRIP_EN 2) 1).wr (LPWM_STAT_TRIP_IN 2) 1, 2, by decide⟩,
   ⟨(((State.reset.wr (LPWM_CTL_TRIP_EN 2) 1).wr (LPWM_STAT_TRIP_IN 2) 1).wr (PROT_LREC_CFG_AUTO 2) 1).wr PROT_CFG_TRIES 2, 2, by decide⟩,
   ⟨{ ((((State.reset.wr (LPWM_CTL_TRIP_EN 2) 1).wr (LPWM_STAT_TRIP_IN 2) 1).wr (PROT_LREC_CFG_AUTO 2) 1).wr PROT_RETRY_WIN_WIN 10).wr (PROT_LREC_ST_TRIES 2) 3 |>.wr PROT_CFG_TRIES 3 with prot := { lwin := [(2, 0)] } }, 2, by decide⟩⟩

/-- States and operands that meet the hypotheses of LocalOutputs. -/
theorem witness_LocalOutputs_b :
    (∃ (s : State) (m : Fin 16), (s.on (LPWM_CTL_TRIP_EN m) = false ∨ s.on (LPWM_STAT_TRIP_IN m) = false ∨ s.on (LPWM_STAT_TRIPPED m) ∨ s.oddOfPair m)) ∧
    (∃ (s : State) (m : Fin 16), s.oddOfPair m = false ∧ (s.on (LPWM_STAT_TRIPPED m) ∨ s.on (LPWM_STAT_HALTED m) ∨ (s.lp m).pbOff) ∧ s.on (LPWM_STAT_TRIP_IN m) = false ∧ (s.on (LPWM_CTL_OWN_EN m) = false ∨ s.engRuns (s.rd (LPWM_CTL_OWNER m)))) ∧
    (∃ (s : State) (m : Fin 16), s.oddOfPair m = false ∧ (s.on (LPWM_STAT_TRIPPED m) ∨ s.on (LPWM_STAT_HALTED m) ∨ (s.lp m).pbOff) ∧ (s.on (LPWM_STAT_TRIP_IN m) ∨ (s.on (LPWM_CTL_OWN_EN m) ∧ s.engRuns (s.rd (LPWM_CTL_OWNER m)) = false))) ∧
    (∃ (s : State) (m : Fin 16), (s.oddOfPair m ∨ (s.on (LPWM_STAT_TRIPPED m) = false ∧ s.on (LPWM_STAT_HALTED m) = false ∧ (s.lp m).pbOff = false))) ∧
    (∃ (s : State) (m : Fin 16), s.modRuns ∧ s.lpBlocked m = false ∧ (s.lp m).want = 1) ∧
    (∃ (s : State) (m : Fin 16), s.modRuns ∧ s.lpBlocked m = false ∧ (s.lp m).want = 2) :=
  ⟨⟨State.reset, 2, by decide⟩,
   ⟨State.reset.wr (LPWM_STAT_TRIPPED 2) 1, 2, by decide⟩,
   ⟨(State.reset.wr (LPWM_STAT_TRIPPED 2) 1).wr (LPWM_STAT_TRIP_IN 2) 1, 2, by decide⟩,
   ⟨State.reset, 2, by decide⟩,
   ⟨((((State.reset.wr CLK_TB_STAT_LOCK 1).wr CLK_TB_STAT_DLL_LOCK 1).wr SYS_DEV_STATE_STATE 3).setLp 2 { want := 1 }).setTb (100000 * 2 ^ 24), 2, by decide⟩,
   ⟨((((State.reset.wr CLK_TB_STAT_LOCK 1).wr CLK_TB_STAT_DLL_LOCK 1).wr SYS_DEV_STATE_STATE 3).setLp 2 { want := 2 }).setTb (100000 * 2 ^ 24), 2, by decide⟩⟩

/-- States and operands that meet the hypotheses of LocalOutputs. -/
theorem witness_LocalOutputs_c :
    (∃ (s : State) (m : Fin 16), (s.modRuns = false ∨ s.lpBlocked m ∨ ((s.lp m).want ≠ 1 ∧ (s.lp m).want ≠ 2))) ∧
    (∃ (s : State) (m : Fin 16), s.on (PROT_LREC_ST_WAIT m) ∧ s.on (PROT_LREC_CFG_AUTO m) ∧ s.on (PROT_LREC_ST_EXHAUST m) = false ∧ s.protOk ∧ s.on (LPWM_STAT_TRIPPED m)) ∧
    (∃ (s : State) (m : Fin 16), s.on (PROT_LREC_ST_WAIT m) ∧ s.on (PROT_LREC_CFG_AUTO m) ∧ s.on (PROT_LREC_ST_EXHAUST m) = false ∧ s.protOk ∧ s.on (LPWM_STAT_TRIPPED m) = false) ∧
    (∃ (s : State) (m : Fin 16), s.on (PROT_LREC_ST_WAIT m) ∧ s.on (PROT_LREC_CFG_AUTO m) ∧ s.on (PROT_LREC_ST_EXHAUST m) = false ∧ s.protOk = false ∧ m.val ∉ s.prot.lheld) ∧
    (∃ (s : State) (m : Fin 16), (s.on (PROT_LREC_ST_WAIT m) = false ∨ s.on (PROT_LREC_CFG_AUTO m) = false ∨ s.on (PROT_LREC_ST_EXHAUST m))) ∧
    (∃ (s : State) (e : Fin 16), (s.rd (ENG_STAT_STATE e) = 1 ∨ s.rd (ENG_STAT_STATE e) = 2 ∨ s.rd (ENG_STAT_STATE e) = 5)) :=
  ⟨⟨State.reset, 2, by decide⟩,
   ⟨((((State.reset.wr (PROT_LREC_ST_WAIT 2) 1).wr (PROT_LREC_CFG_AUTO 2) 1).wr PROT_CFG_EN 1).wr (ENG_STAT_STATE 16) 1).wr (LPWM_STAT_TRIPPED 2) 1, 2, by decide⟩,
   ⟨(((State.reset.wr (PROT_LREC_ST_WAIT 2) 1).wr (PROT_LREC_CFG_AUTO 2) 1).wr PROT_CFG_EN 1).wr (ENG_STAT_STATE 16) 1, 2, by decide⟩,
   ⟨((State.reset.wr (PROT_LREC_ST_WAIT 2) 1).wr (PROT_LREC_CFG_AUTO 2) 1), 2, by decide⟩,
   ⟨State.reset, 2, by decide⟩,
   ⟨State.reset.wr (ENG_STAT_STATE 5) 2, 5, by decide⟩⟩

/-- States and operands that meet the hypotheses of LocalOutputs. -/
theorem witness_LocalOutputs_d :
    (∃ (s : State) (e : Fin 16), s.rd (ENG_STAT_STATE e) ≠ 1 ∧ s.rd (ENG_STAT_STATE e) ≠ 2 ∧ s.rd (ENG_STAT_STATE e) ≠ 5) ∧
    (∃ (s : State) (e : Fin 16), s.rd (ENG_STAT_STATE e) = 3 ∧ (s.eng e).was < 8) ∧
    (∃ (s : State) (e : Fin 16), s.rd (ENG_STAT_STATE e) ≠ 3) :=
  ⟨⟨State.reset, 5, by decide⟩,
   ⟨(State.reset.wr (ENG_STAT_STATE 5) 3).setEng 5 { was := 2 }, 5, by decide⟩,
   ⟨State.reset, 5, by decide⟩⟩

/-- States and operands that meet the hypotheses of ProtectionRecords. -/
theorem witness_ProtectionRecords_a :
    (∃ (s : State) (l : Fin 24) (i : Fin 8) (b : List (BitVec 8)) (r : List (Nat × BitVec 64)) (n : Fin 24) (p : Nat) (c : Fin 192) (k : Fin 12), takePart (5 + 11 * i) 11 (s.lane l).rxq = (some b, r) ∧ s.chainSt n ≠ 0 ∧ s.chainOfLane l = (n.val, p) ∧ (s.lane l).rxOther = false ∧ (s.profile = 2 ∨ (s.profile = 1 ∧ i.val % 2 = 1)) ∧ s.cellAt n ((s.lane l).rxPath.getD p) (if s.profile = 1 then i.val / 2 else i.val) = some c.val ∧ b.length = 88 ∧ scrcOk b ∧ s.rstate c ≠ 2 ∧ (fieldAt b 52 2 % 4096).testBit k ∧ s.on (PROT_SREC_ST_LATCHED (12 * c + k)) = false) ∧
    (∃ (s : State) (l : Fin 24) (i : Fin 8) (b : List (BitVec 8)) (r : List (Nat × BitVec 64)) (n : Fin 24) (p : Nat) (c : Fin 192) (k : Fin 12), takePart (5 + 11 * i) 11 (s.lane l).rxq = (some b, r) ∧ s.chainSt n ≠ 0 ∧ s.chainOfLane l = (n.val, p) ∧ (s.lane l).rxOther = false ∧ (s.profile = 2 ∨ (s.profile = 1 ∧ i.val % 2 = 1)) ∧ s.cellAt n ((s.lane l).rxPath.getD p) (if s.profile = 1 then i.val / 2 else i.val) = some c.val ∧ b.length = 88 ∧ scrcOk b ∧ s.rstate c ≠ 2 ∧ (fieldAt b 50 2 % 4096).testBit k ∧ (fieldAt b 52 2 % 4096).testBit k = false ∧ s.on (PROT_SREC_ST_LATCHED (12 * c + k)) = false) ∧
    (∃ (s : State) (l : Fin 24) (i : Fin 8) (b : List (BitVec 8)) (r : List (Nat × BitVec 64)) (n : Fin 24) (p : Nat) (c : Fin 192) (k : Fin 12), takePart (5 + 11 * i) 11 (s.lane l).rxq = (some b, r) ∧ s.chainSt n ≠ 0 ∧ s.chainOfLane l = (n.val, p) ∧ (s.lane l).rxOther = false ∧ (s.profile = 2 ∨ (s.profile = 1 ∧ i.val % 2 = 1)) ∧ s.cellAt n ((s.lane l).rxPath.getD p) (if s.profile = 1 then i.val / 2 else i.val) = some c.val ∧ b.length = 88 ∧ scrcOk b ∧ s.rstate c ≠ 2 ∧ (s.on (PROT_SREC_ST_LATCHED (12 * c + k)) ∨ ((fieldAt b 52 2 % 4096).testBit k = false ∧ (fieldAt b 50 2 % 4096).testBit k = false)) ∧ (s.pc c).newGen = false ∧ fieldAt b 6 1 % 8 = 0) ∧
    (∃ (s : State) (c : Fin 192), s.rstate c = 1 ∧ (s.pc c).due = false ∧ (s.policyRuns ∨ s.prot.heldPosted)) ∧
    (∃ (s : State) (c : Fin 192), s.rstate c = 1 ∧ (s.pc c).due = false ∧ s.policyRuns = false ∧ s.prot.heldPosted = false ∧ s.prot.evq.length < 16) ∧
    (∃ (s : State) (c : Fin 192), (s.rstate c ≠ 1 ∨ (s.pc c).due)) :=
  ⟨⟨((((((((State.reset.wr (CHAIN_STAT_STATE 4) 4).wr (LANE_STAT_STATE 4) 4).wr SYS_DEV_STATE_PROFILE 2).wr (CHAIN_STAT_HOPS 4) 3).wr (CELLCTL_CFG_EN 33) 1).wr PROT_CFG_EN 1).wr (ENG_STAT_STATE 16) 1)).setLane 4 { (((((((((State.reset.wr (CHAIN_STAT_STATE 4) 4).wr (LANE_STAT_STATE 4) 4).wr SYS_DEV_STATE_PROFILE 2).wr (CHAIN_STAT_HOPS 4) 3).wr (CELLCTL_CFG_EN 33) 1).wr PROT_CFG_EN 1).wr (ENG_STAT_STATE 16) 1)).lane 4) with rxq := rxOf 16 (payloads 11 (aTrip 5)) }, 4, 1, (aTrip 5), [], 4, 0, 33, 5, by decide +kernel⟩,
   ⟨((((((((State.reset.wr (CHAIN_STAT_STATE 4) 4).wr (LANE_STAT_STATE 4) 4).wr SYS_DEV_STATE_PROFILE 2).wr (CHAIN_STAT_HOPS 4) 3).wr (CELLCTL_CFG_EN 33) 1).wr PROT_CFG_EN 1).wr (ENG_STAT_STATE 16) 1)).setLane 4 { (((((((((State.reset.wr (CHAIN_STAT_STATE 4) 4).wr (LANE_STAT_STATE 4) 4).wr SYS_DEV_STATE_PROFILE 2).wr (CHAIN_STAT_HOPS 4) 3).wr (CELLCTL_CFG_EN 33) 1).wr PROT_CFG_EN 1).wr (ENG_STAT_STATE 16) 1)).lane 4) with rxq := rxOf 16 (payloads 11 (List.replicate 50 0 ++ toBytes 2 32 ++ List.replicate 34 0 ++ toBytes 2 (crc16 (List.replicate 50 0 ++ toBytes 2 32 ++ List.replicate 34 0)))) }, 4, 1, (List.replicate 50 0 ++ toBytes 2 32 ++ List.replicate 34 0 ++ toBytes 2 (crc16 (List.replicate 50 0 ++ toBytes 2 32 ++ List.replicate 34 0))), [], 4, 0, 33, 5, by decide +kernel⟩,
   ⟨((((((((State.reset.wr (CHAIN_STAT_STATE 4) 4).wr (LANE_STAT_STATE 4) 4).wr SYS_DEV_STATE_PROFILE 2).wr (CHAIN_STAT_HOPS 4) 3).wr (CELLCTL_CFG_EN 33) 1).wr PROT_CFG_EN 1).wr (ENG_STAT_STATE 16) 1)).setLane 4 { (((((((((State.reset.wr (CHAIN_STAT_STATE 4) 4).wr (LANE_STAT_STATE 4) 4).wr SYS_DEV_STATE_PROFILE 2).wr (CHAIN_STAT_HOPS 4) 3).wr (CELLCTL_CFG_EN 33) 1).wr PROT_CFG_EN 1).wr (ENG_STAT_STATE 16) 1)).lane 4) with rxq := rxOf 16 (payloads 11 (aTrip 5)) }, 4, 1, (aTrip 5), [], 4, 0, 33, 6, by decide +kernel⟩,
   ⟨((((((((State.reset.wr (CHAIN_STAT_STATE 4) 4).wr (LANE_STAT_STATE 4) 4).wr SYS_DEV_STATE_PROFILE 2).wr (CHAIN_STAT_HOPS 4) 3).wr (CELLCTL_CFG_EN 33) 1).wr PROT_CFG_EN 1).wr (ENG_STAT_STATE 16) 1)).wr (PROT_PARC_RSTAT_STATE 33) 1, 33, by decide⟩,
   ⟨State.reset.wr (PROT_PARC_RSTAT_STATE 33) 1, 33, by decide⟩,
   ⟨State.reset, 33, by decide⟩⟩

/-- States and operands that meet the hypotheses of ProtectionRecords. -/
theorem witness_ProtectionRecords_b :
    (∃ (s : State) (c : Fin 192), (s.rd (CELLCTL_STAT_MODE_RPT c) = 1 ∨ s.rd (CELLCTL_STAT_MODE_RPT c) = 2) ∧ s.reg (PROT_PARC_RPEND c) = 0) ∧
    (∃ (s : State) (c : Fin 192), (s.rd (CELLCTL_STAT_MODE_RPT c) = 1 ∨ s.rd (CELLCTL_STAT_MODE_RPT c) = 2) ∧ s.reg (PROT_PARC_RPEND c) ≠ 0) ∧
    (∃ (s : State) (c : Fin 192), s.rd (CELLCTL_STAT_MODE_RPT c) ≠ 1 ∧ s.rd (CELLCTL_STAT_MODE_RPT c) ≠ 2) ∧
    (∃ (s : State), (s.policyRuns ∨ s.prot.heldPosted)) ∧
    (∃ (s : State), s.policyRuns = false ∧ s.prot.heldPosted = false) ∧
    (∃ (s : State) (e : BitVec 32) (r : List (BitVec 32)), s.prot.evq = e :: r ∧ r.length < 32) :=
  ⟨⟨((((((((State.reset.wr (CHAIN_STAT_STATE 4) 4).wr (LANE_STAT_STATE 4) 4).wr SYS_DEV_STATE_PROFILE 2).wr (CHAIN_STAT_HOPS 4) 3).wr (CELLCTL_CFG_EN 33) 1).wr PROT_CFG_EN 1).wr (ENG_STAT_STATE 16) 1)).wr (CELLCTL_STAT_MODE_RPT 33) 1, 33, by decide⟩,
   ⟨(((((((((State.reset.wr (CHAIN_STAT_STATE 4) 4).wr (LANE_STAT_STATE 4) 4).wr SYS_DEV_STATE_PROFILE 2).wr (CHAIN_STAT_HOPS 4) 3).wr (CELLCTL_CFG_EN 33) 1).wr PROT_CFG_EN 1).wr (ENG_STAT_STATE 16) 1)).wr (CELLCTL_STAT_MODE_RPT 33) 1).setReg (PROT_PARC_RPEND 33) 5, 33, by decide⟩,
   ⟨State.reset, 33, by decide⟩,
   ⟨((((((((State.reset.wr (CHAIN_STAT_STATE 4) 4).wr (LANE_STAT_STATE 4) 4).wr SYS_DEV_STATE_PROFILE 2).wr (CHAIN_STAT_HOPS 4) 3).wr (CELLCTL_CFG_EN 33) 1).wr PROT_CFG_EN 1).wr (ENG_STAT_STATE 16) 1)).wr (PROT_PARC_PSTAT_DIRTY 33) 5, by decide⟩,
   ⟨State.reset, by decide⟩,
   ⟨{ State.reset with prot := { evq := [9] } }, 9, [], by decide⟩⟩

/-- States and operands that meet the hypotheses of ProtectionRecords. -/
theorem witness_ProtectionRecords_c :
    (∃ (s : State), s.prot.evq = []) ∧
    (∃ (s : State) (c : Fin 192) (k : Fin 12), s.on PROT_LEAK_CFG_EN ∧ s.on PROT_LEAK_STAT_BUSY = false ∧ s.leakIdx = 12 * c + k ∧ s.leakElig (12 * c + k) ∧ (s.policyRuns ∨ s.prot.heldPosted)) ∧
    (∃ (s : State), s.on PROT_LEAK_CFG_EN ∧ s.on PROT_LEAK_STAT_BUSY = false ∧ s.policyRuns = false ∧ s.prot.heldPosted = false) ∧
    (∃ (s : State), (s.on PROT_LEAK_CFG_EN = false ∨ s.on PROT_LEAK_STAT_BUSY)) ∧
    (∃ (s : State), s.on PROT_LEAK_STAT_BUSY) ∧
    (∃ (s : State), s.on PROT_LEAK_STAT_BUSY = false) :=
  ⟨⟨State.reset, by decide +kernel⟩,
   ⟨(((((((((((((State.reset.wr (CHAIN_STAT_STATE 4) 4).wr (LANE_STAT_STATE 4) 4).wr SYS_DEV_STATE_PROFILE 2).wr (CHAIN_STAT_HOPS 4) 3).wr (CELLCTL_CFG_EN 33) 1).wr PROT_CFG_EN 1).wr (ENG_STAT_STATE 16) 1)).wr PROT_LEAK_CFG_EN 1).wr PROT_LEAK_STAT_CELL 33).wr PROT_LEAK_STAT_SWITCH 1).wr (CELLCTL_STAT_MODE_SENT 33) 1).wr (CELLCTL_STAT_MODE_RPT 33) 1).setCell 33 { opened := true }, 33, 1, by decide +kernel⟩,
   ⟨State.reset.wr PROT_LEAK_CFG_EN 1, by decide⟩,
   ⟨State.reset, by decide⟩,
   ⟨State.reset.wr PROT_LEAK_STAT_BUSY 1, by decide⟩,
   ⟨State.reset, by decide +kernel⟩⟩

/-- States and operands that meet the hypotheses of ProtectionRecords. -/
theorem witness_ProtectionRecords_d :
    (∃ (s : State), s.on PROT_DUMP_STAT_IN = false) ∧
    (∃ (s : State), s.on PROT_DUMP_STAT_IN) :=
  ⟨⟨State.reset.clr PROT_DUMP_STAT_IN, by decide⟩,
   ⟨State.reset.wr PROT_DUMP_STAT_IN 1, by decide⟩⟩

/-- States and operands that meet the hypotheses of EngineControl. -/
theorem witness_EngineControl_a :
    (∃ (s : State) (n : Fin 20), s.on (ENG_CTL_EN n) = false) ∧
    (∃ (s : State) (n : Fin 20), s.on (ENG_CTL_EN n)) ∧
    (∃ (s : State) (n : Fin 20), (s.eng n).crc) ∧
    (∃ (s : State) (n : Fin 20), (s.eng n).crc = false) ∧
    (∃ (s : State) (n : Fin 16), s.engSt n = 0 ∧ (s.eng n).crc = false) ∧
    (∃ (s : State) (n : Fin 16), (s.engSt n ≠ 0 ∨ (s.eng n).crc)) :=
  ⟨⟨State.reset, 3, by decide⟩,
   ⟨State.reset.wr (ENG_CTL_EN 3) 1, 3, by decide⟩,
   ⟨State.reset.setEng 3 { crc := true }, 3, by decide⟩,
   ⟨State.reset, 3, by decide⟩,
   ⟨State.reset, 3, by decide⟩,
   ⟨State.reset.setEngSt 3 1, 3, by decide⟩⟩

/-- States and operands that meet the hypotheses of EngineControl. -/
theorem witness_EngineControl_b :
    (∃ (s : State) (n : Fin 20), (s.inTask n = false ∨ 16 ≤ n.val)) ∧
    (∃ (s : State) (n : Fin 20), n.val < 16 ∧ s.inTask n) ∧
    (∃ (s : State) (n : Fin 20), s.engSt n = 4) ∧
    (∃ (s : State) (n : Fin 20), s.engSt n ≠ 4) ∧
    (∃ (s : State) (n : Fin 20), s.engSt n = 1 ∧ (16 ≤ n.val ∨ s.anySlot n = false)) ∧
    (∃ (s : State) (n : Fin 20), (s.engSt n ≠ 1 ∨ (n.val < 16 ∧ s.anySlot n))) :=
  ⟨⟨State.reset.wr (ENG_CTL_EN 3) 1, 3, by decide⟩,
   ⟨State.reset.setEngSt 3 2, 3, by decide⟩,
   ⟨State.reset.setEngSt 3 4, 3, by decide⟩,
   ⟨State.reset, 3, by decide⟩,
   ⟨State.reset.setEngSt 3 1, 3, by decide⟩,
   ⟨State.reset, 3, by decide⟩⟩

/-- States and operands that meet the hypotheses of EngineControl. -/
theorem witness_EngineControl_c :
    (∃ (s : State) (n : Fin 20), s.on (ENG_LST_BUSY n)) ∧
    (∃ (s : State) (n : Fin 20), s.on (ENG_LST_BUSY n) = false) :=
  ⟨⟨State.reset.wr (ENG_LST_BUSY 3) 1, 3, by decide⟩,
   ⟨State.reset, 3, by decide⟩⟩

/-- States and operands that meet the hypotheses of EngineTasks. -/
theorem witness_EngineTasks_a :
    (∃ (s : State) (n : Fin 16) (j : Nat) (q : List Nat), (s.eng n).relq = j :: q ∧ j < 8 ∧ s.engFree n ∧ s.pfBusy n j = false) ∧
    (∃ (s : State) (n : Fin 16) (j : Nat) (q : List Nat), (s.eng n).relq = j :: q ∧ (s.engFree n = false ∨ s.pfBusy n j)) ∧
    (∃ (s : State) (n : Fin 16), (s.eng n).relq = []) ∧
    (∃ (s : State) (n : Fin 16) (d : Fin 16), d.val ∈ (s.eng n).pfIn) ∧
    (∃ (s : State) (n : Fin 16) (d : Fin 16), d.val ∉ (s.eng n).pfIn) ∧
    (∃ (s : State) (n : Fin 16) (d : Nat) (r : List Nat), (s.eng n).stage = d :: r ∧ ((s.eng n).out.map fun x => x.2.2.length).sum + s.pfdLen n d ≤ 1024) :=
  ⟨⟨((State.reset.setEngSt 3 1).clr SYS_DEV_STATE_LIMP).setEng 3 { relq := [2] }, 3, 2, [], by decide⟩,
   ⟨State.reset.setEng 3 { relq := [2] }, 3, 2, [], by decide⟩,
   ⟨State.reset, 3, by decide⟩,
   ⟨((State.reset.wr (ENG_PFD_DCTL_LEN 3 4) 2).setBytes 0x100 [1, 2, 3]).wr (ENG_PFD_SADDR_ADDR 3 4) 0x100 |>.setEng 3 { pfIn := [4] }, 3, 4, by decide⟩,
   ⟨State.reset, 3, 4, by decide⟩,
   ⟨(State.reset.wr (ENG_PFD_DCTL_LEN 3 4) 2).setEng 3 { stage := [4] }, 3, 4, [], by decide⟩⟩

/-- States and operands that meet the hypotheses of EngineTasks. -/
theorem witness_EngineTasks_b :
    (∃ (s : State) (n : Fin 16), (∀ d : Fin 16, (s.eng n).stage.head? = some d.val → 1024 < ((s.eng n).out.map fun x => x.2.2.length).sum + s.pfdLen n d) ∧ (s.eng n).stage.all (· < 16)) ∧
    (∃ (s : State) (n : Fin 16) (d : Nat) (a : Nat) (b : List (BitVec 8)) (r : List (Nat × Nat × List (BitVec 8))), (s.eng n).out = (d, a, b) :: r) ∧
    (∃ (s : State) (n : Fin 16), (s.eng n).out = []) ∧
    (∃ (s : State) (n : Fin 16), s.inTask n) ∧
    (∃ (s : State) (n : Fin 16), s.inTask n = false) ∧
    (∃ (s : State) (n : Fin 16), s.on (PGEN_CFG_EN n) = false ∧ s.on (PGEN_STAT_LOCKED n) = false) :=
  ⟨⟨State.reset, 3, by decide⟩,
   ⟨State.reset.setEng 3 { out := [(4, 0x100, [1, 2])] }, 3, 4, 0x100, [1, 2], [], by decide⟩,
   ⟨State.reset, 3, by decide⟩,
   ⟨State.reset.setEngSt 3 2, 3, by decide⟩,
   ⟨State.reset.wr (glutPoint 3 1 5) 77, 3, by decide⟩,
   ⟨State.reset.setReg (PGEN_TARGET 3) 0xFFFF0000, 3, by decide⟩⟩

/-- States and operands that meet the hypotheses of EngineTasks. -/
theorem witness_EngineTasks_c :
    (∃ (s : State) (n : Fin 16), s.on (PGEN_CFG_EN n) = false ∧ s.on (PGEN_STAT_LOCKED n)) ∧
    (∃ (s : State) (n : Fin 16), s.on (PGEN_CFG_EN n)) ∧
    (∃ (s : State), s.on LOOP_CSTOP_ACTIVE) ∧
    (∃ (s : State), s.on LOOP_CSTOP_ACTIVE = false) ∧
    (∃ (s : State) (a : Fin 16) (b : Fin 16), s.on LOOP_MIGRATE_PEND = false ∧ s.migrateOk a b ∧ subMod 32 (s.reg LOOP_MIG_CYCLE) (s.reg LOOP_CYC_NUM) ≠ 0 ∧ subMod 32 (s.reg LOOP_MIG_CYCLE) (s.reg LOOP_CYC_NUM) < 2 ^ 31) ∧
    (∃ (s : State) (a : Fin 16) (b : Fin 16), (s.on LOOP_MIGRATE_PEND ∨ s.migrateOk a b = false ∨ subMod 32 (s.reg LOOP_MIG_CYCLE) (s.reg LOOP_CYC_NUM) = 0 ∨ 2 ^ 31 ≤ subMod 32 (s.reg LOOP_MIG_CYCLE) (s.reg LOOP_CYC_NUM))) :=
  ⟨⟨(State.reset.setReg (PGEN_TARGET 3) 0xFFFF0000).wr (PGEN_STAT_LOCKED 3) 1, 3, by decide⟩,
   ⟨State.reset.wr (PGEN_CFG_EN 3) 1, 3, by decide⟩,
   ⟨(State.reset.wr LOOP_CSTOP_ACTIVE 1).wr SYS_DEV_STATE_STATE 3, by decide⟩,
   ⟨State.reset, by decide⟩,
   ⟨(State.reset.setEngSt 4 1).setReg LOOP_MIG_CYCLE 9, 3, 4, by decide⟩,
   ⟨State.reset, 3, 4, by decide⟩⟩

/-- States and operands that meet the hypotheses of EngineTasks. -/
theorem witness_EngineTasks_d :
    (∃ (s : State) (a : Fin 16) (b : Fin 16), s.migrating = some (a.val, b.val) ∧ a ≠ b ∧ (s.eng a).migr ∧ s.inTask a = false ∧ (s.eng a).stage = [] ∧ (s.eng a).held = []) ∧
    (∃ (s : State), s.migrating = none) ∧
    (∃ (s : State) (a : Fin 16) (b : Fin 16), s.migrating = some (a.val, b.val) ∧ ((s.eng a).migr = false ∨ s.inTask a ∨ (s.eng a).stage ≠ [])) :=
  ⟨⟨(State.reset.wr LOOP_MIGRATE_PEND 1).setEng 3 { migr := true, migTo := some 4 }, 3, 4, by decide⟩,
   ⟨State.reset, by decide⟩,
   ⟨State.reset.setEng 3 { migTo := some 4 }, 3, 4, by decide⟩⟩

/-- States and operands that meet the hypotheses of SuppliesAndResets. -/
theorem witness_SuppliesAndResets_a :
    (∃ (s : State) (r : Fin 10), s.bitAt PWR_STAT_WARN r = false) ∧
    (∃ (s : State) (r : Fin 10), s.bitAt PWR_STAT_WARN r) ∧
    (∃ (s : State) (r : Fin 10), s.bitAt PWR_STAT_WARN r ∧ (∀ k : Fin 10, k ≠ r → s.bitAt PWR_STAT_WARN k = false) ∧ s.rd PWR_STAT_WARN < 1024) ∧
    (∃ (s : State) (r : Fin 10) (k : Fin 10), s.bitAt PWR_STAT_WARN r ∧ k ≠ r ∧ s.bitAt PWR_STAT_WARN k ∧ s.rd PWR_STAT_WARN < 1024) ∧
    (∃ (s : State) (r : Fin 10), r.val ∉ s.sys.low ∧ porOf r ∈ s.sys.asserted) ∧
    (∃ (s : State) (r : Fin 10), r.val ∈ s.sys.low) :=
  ⟨⟨State.reset, 3, by decide⟩,
   ⟨(State.reset.setBit PWR_STAT_WARN 3), 3, by decide⟩,
   ⟨((State.reset.setBit PWR_STAT_WARN 3).set1 PWR_STAT_SUSP), 3, by decide⟩,
   ⟨(((State.reset.setBit PWR_STAT_WARN 3).setBit PWR_STAT_WARN 4).set1 PWR_STAT_SUSP), 3, 4, by decide⟩,
   ⟨State.reset.setSys { asserted := [2] }, 3, by decide⟩,
   ⟨State.reset.setSys { low := [3] }, 3, by decide⟩⟩

/-- States and operands that meet the hypotheses of SuppliesAndResets. -/
theorem witness_SuppliesAndResets_b :
    (∃ (s : State) (r : Fin 10), r.val ∉ s.sys.low ∧ porOf r ∉ s.sys.asserted ∧ s.reachOf (porOf r) ≤ 1 ∧ s.sys.nvRun = none ∧ s.sys.heldOff = false) ∧
    (∃ (s : State), 5 ∉ s.sys.asserted ∧ s.reachOf 5 ≤ 1 ∧ s.sys.nvRun = none ∧ s.sys.heldOff = false) ∧
    (∃ (s : State), 5 ∉ s.sys.asserted ∧ s.reachOf 5 ≤ 1 ∧ s.sys.nvRun ≠ none) ∧
    (∃ (s : State), 5 ∉ s.sys.asserted ∧ s.reachOf 5 = 2) ∧
    (∃ (s : State), 5 ∉ s.sys.asserted ∧ s.reachOf 5 = 3) ∧
    (∃ (s : State), 5 ∈ s.sys.asserted) :=
  ⟨⟨State.reset, 3, by decide⟩,
   ⟨State.reset, by decide⟩,
   ⟨State.reset.setSys { nvRun := some (0x02000000, [1]) }, by decide⟩,
   ⟨State.reset.setReg RST_MAP 0x800, by decide⟩,
   ⟨State.reset.setReg RST_MAP 0xC00, by decide⟩,
   ⟨State.reset.setSys { asserted := [5] }, by decide⟩⟩

/-- States and operands that meet the hypotheses of SuppliesAndResets. -/
theorem witness_SuppliesAndResets_c :
    (∃ (s : State) (r : Fin 10), r.val ∈ s.sys.low) ∧
    (∃ (s : State) (r : Fin 10), r.val ∉ s.sys.low) ∧
    (∃ (s : State) (a : Nat) (b : List (BitVec 8)), s.sys.nvRun = some (a, b) ∧ s.sys.heldOff = false) ∧
    (∃ (s : State) (a : Nat) (b : List (BitVec 8)), s.sys.nvRun = some (a, b) ∧ s.sys.heldOff ∧ s.sys.nvq = [] ∧ inMram a ∧ inMram (a + b.length)) ∧
    (∃ (s : State), s.sys.nvRun = none) ∧
    (∃ (s : State), s.hasReach 0 ∧ s.sys.asserted = [] ∧ s.sys.heldOff = false) :=
  ⟨⟨State.reset.setSys { low := [3], asserted := [2] }, 3, by decide⟩,
   ⟨State.reset, 3, by decide⟩,
   ⟨State.reset.setSys { nvRun := some (0x02004000, [1, 2]) }, 0x02004000, [1, 2], by decide⟩,
   ⟨State.reset.setSys { nvRun := some (0x02004000, [1, 2]), heldOff := true }, 0x02004000, [1, 2], by decide⟩,
   ⟨State.reset, by decide⟩,
   ⟨State.reset, by decide +kernel⟩⟩

/-- States and operands that meet the hypotheses of SuppliesAndResets. -/
theorem witness_SuppliesAndResets_d :
    (∃ (s : State), s.hasReach 0 = false ∧ s.hasReach 1 ∧ s.sys.asserted = [] ∧ s.sys.heldOff = false) ∧
    (∃ (s : State), s.hasReach 0 = false ∧ s.hasReach 1 = false ∧ s.hasReach 2 ∧ s.hasReach 3 = false ∧ s.sys.asserted = [] ∧ s.sys.heldOff = false) ∧
    (∃ (s : State), s.hasReach 0 = false ∧ s.hasReach 1 = false ∧ s.hasReach 2 = false ∧ s.hasReach 3 ∧ s.sys.asserted = [] ∧ s.sys.heldOff = false) ∧
    (∃ (s : State), (s.sys.epi = [] ∨ s.sys.asserted ≠ [] ∨ s.sys.heldOff)) ∧
    (∃ (w : Fin 524288), nvOwned (0x02000000 + 8 * w) = false) ∧
    (∃ (w : Fin 524288), nvOwned (0x02000000 + 8 * w)) :=
  ⟨⟨(State.reset.setReg RST_MAP 0x400).setSys { epi := [5] }, by decide⟩,
   ⟨(State.reset.setReg RST_MAP 0x800).setSys { epi := [5] }, by decide⟩,
   ⟨(State.reset.setReg RST_MAP 0xC00).setSys { epi := [5] }, by decide⟩,
   ⟨State.reset.setSys { asserted := [5] }, by decide⟩,
   ⟨2048, by decide⟩,
   ⟨5, by decide⟩⟩

/-- States and operands that meet the hypotheses of SuppliesAndResets. -/
theorem witness_SuppliesAndResets_e :
    (∃ (s : State), s.on NVC_CFG_SCRUB_EN) ∧
    (∃ (s : State), s.on NVC_CFG_SCRUB_EN = false) :=
  ⟨⟨State.reset.set1 NVC_CFG_SCRUB_EN, by decide⟩,
   ⟨State.reset.clr NVC_CFG_SCRUB_EN, by decide⟩⟩

/-- States and operands that meet the hypotheses of BootSteps. -/
theorem witness_BootSteps_a :
    (∃ (s : State) (k : Bool) (g : Bool) (y : Nat), s.dev = 0 ∧ s.rd SYS_BOOT_STAT_STEP = 4 ∧ s.rd SYS_BOOT_STAT_SRC = 2 ∧ s.imgWhy ⟨s.bytes 0x1000000 (s.rd SYS_HOST_IMG_LEN), k, g⟩ 0x800000 = y ∧ y ≠ 0) ∧
    (∃ (s : State) (b : List (BitVec 8)) (u : List (BitVec 8)), s.dev = 0 ∧ s.rd SYS_BOOT_STAT_STEP = 4 ∧ s.rd SYS_BOOT_STAT_SRC = 2 ∧ s.bytes 0x1000000 (s.rd SYS_HOST_IMG_LEN) = b ∧ s.imgWhy ⟨b, true, true⟩ 0x800000 = 0 ∧ crcBad b = none ∧ imgPart b 6 = u ∧ imgLimit (fieldAt b 8 1) u = none) ∧
    (∃ (s : State), (s.dev ≠ 0 ∨ s.rd SYS_BOOT_STAT_STEP ≠ 4 ∨ s.rd SYS_BOOT_STAT_SRC ≠ 2)) ∧
    (∃ (s : State), s.dev = 0 ∧ s.rd SYS_BOOT_STAT_STEP = 8 ∧ s.sys.cfgTmo = false) ∧
    (∃ (s : State), (s.dev ≠ 0 ∨ s.rd SYS_BOOT_STAT_STEP ≠ 8 ∨ s.sys.cfgTmo)) ∧
    (∃ (s : State) (c : BitVec 7) (b : Nat) (n : Nat), blkRange c.toNat = some (b, n) ∧ s.on RST_BLK_STAT_BUSY = false ∧ s.blkIdle c.toNat) :=
  ⟨⟨(State.reset.wr SYS_BOOT_STAT_STEP 4).wr SYS_BOOT_STAT_SRC 2, true, true, 5, by decide⟩,
   ⟨hosted, theImage, theTasks, by decide, by decide, by decide, hosted_bytes, image_good, image_crcs, image_tasks, image_limits⟩,
   ⟨State.reset, by decide⟩,
   ⟨State.reset.wr SYS_BOOT_STAT_STEP 8, by decide⟩,
   ⟨State.reset, by decide⟩,
   ⟨State.reset, 2, 0x40102000, 0x1000, by decide⟩⟩

/-- States and operands that meet the hypotheses of BootSteps. -/
theorem witness_BootSteps_b :
    (∃ (s : State) (c : BitVec 7) (b : Nat) (n : Nat), blkRange c.toNat = some (b, n) ∧ s.on RST_BLK_STAT_BUSY = false ∧ s.blkIdle c.toNat = false) ∧
    (∃ (s : State) (c : BitVec 7), (blkRange c.toNat).isSome ∧ (c.toNat = 0x30 ∨ 0x40 ≤ c.toNat) ∧ s.on RST_BLK_STAT_BUSY = false ∧ s.blkIdle c.toNat = false) ∧
    (∃ (s : State) (c : BitVec 7), (blkRange c.toNat).isSome ∧ s.on RST_BLK_STAT_BUSY) ∧
    (∃ (c : BitVec 7), blkRange c.toNat = none) ∧
    (∃ (s : State), s.on RST_BLK_STAT_BUSY) ∧
    (∃ (s : State), s.on RST_BLK_STAT_BUSY = false) :=
  ⟨⟨State.reset.wr (LANE_STAT_STATE 2) 4, 2, 0x40102000, 0x1000, by decide⟩,
   ⟨State.reset.setEngSt 3 2, 0x43, by decide⟩,
   ⟨State.reset.wr RST_BLK_STAT_BUSY 1, 2, by decide⟩,
   ⟨127, by decide⟩,
   ⟨State.reset.wr RST_BLK_STAT_BUSY 1, by decide⟩,
   ⟨State.reset, by decide +kernel⟩⟩

/-- States and operands that meet the hypotheses of BootSteps. -/
theorem witness_BootSteps_c :
    (∃ (s : State) (c : Nat) (x : Bool), s.sys.blk = some (c, true, x) ∧ s.on RST_BLK_STAT_BUSY = false) ∧
    (∃ (s : State), (s.on RST_BLK_STAT_BUSY ∨ s.sys.blk = none)) :=
  ⟨⟨State.reset.setSys { blk := some (0x43, true, false) }, 0x43, false, by decide⟩,
   ⟨State.reset, by decide +kernel⟩⟩

/-- States and operands that meet the hypotheses of HeathMonitor. -/
theorem witness_HeathMonitor_a :
    (∃ (s : State) (l : List (BitVec 24)), l.length = 48 ∧ s.asterRuns ∧ s.on AGE_RO_CTL_BUSY) ∧
    (∃ (s : State) (l : List (BitVec 24)), l.length = 48 ∧ (s.asterRuns = false ∨ s.on AGE_RO_CTL_BUSY = false)) ∧
    (∃ (s : State), s.on AGE_SRM_CTL_BUSY = false) ∧
    (∃ (s : State), s.on AGE_SRM_CTL_BUSY) ∧
    (∃ (s : State), s.asterRuns ∧ s.on AGE_SRM_CTL_BUSY ∧ s.age.srm < 16) ∧
    (∃ (s : State), (s.asterRuns = false ∨ s.on AGE_SRM_CTL_BUSY = false)) :=
  ⟨⟨(State.reset.wr (ENG_STAT_STATE 16) 1).set1 AGE_RO_CTL_BUSY, (List.replicate 48 77), by decide⟩,
   ⟨State.reset, (List.replicate 48 77), by decide⟩,
   ⟨State.reset, by decide⟩,
   ⟨State.reset.set1 AGE_SRM_CTL_BUSY, by decide⟩,
   ⟨(State.reset.wr (ENG_STAT_STATE 16) 1).set1 AGE_SRM_CTL_BUSY, by decide⟩,
   ⟨State.reset, by decide +kernel⟩⟩

/-- States and operands that meet the hypotheses of HeathMonitor. -/
theorem witness_HeathMonitor_b :
    (∃ (s : State), s.asterRuns ∧ s.age.bg0 = none) ∧
    (∃ (s : State) (b : Int), s.asterRuns ∧ s.age.bg0 = some b) ∧
    (∃ (s : State), s.asterRuns = false) ∧
    (∃ (s : State) (e : BitVec 32) (r : List (BitVec 32)), s.prot.lkq = e :: r ∧ r.length < 32) ∧
    (∃ (s : State), s.prot.lkq = []) ∧
    (∃ (s : State), s.on AGE_REC_STAT_PEND = false ∧ ((s.recOk (s.rd AGE_REC_HEAD_HEAD) = false ∨ s.on AGE_REC_CTL_WRAP)) ∧ s.on PWR_STAT_SUSP = false ∧ s.rd AGE_REC_HEAD_HEAD < 225280) :=
  ⟨⟨(State.reset.wr (ENG_STAT_STATE 16) 1), by decide⟩,
   ⟨{ (State.reset.wr (ENG_STAT_STATE 16) 1) with age := { bg0 := some 3 } }, 3, by decide⟩,
   ⟨State.reset, by decide⟩,
   ⟨{ State.reset with prot := { lkq := [9] } }, 9, [], by decide⟩,
   ⟨State.reset, by decide⟩,
   ⟨State.reset, by decide +kernel⟩⟩

/-- States and operands that meet the hypotheses of HeathMonitor. -/
theorem witness_HeathMonitor_c :
    (∃ (s : State), s.on AGE_REC_STAT_PEND = false ∧ ((s.recOk (s.rd AGE_REC_HEAD_HEAD) = false ∨ s.on AGE_REC_CTL_WRAP)) ∧ s.on PWR_STAT_SUSP) ∧
    (∃ (s : State), s.on AGE_REC_STAT_PEND = false ∧ s.recOk (s.rd AGE_REC_HEAD_HEAD) = true ∧ s.on AGE_REC_CTL_WRAP = false) ∧
    (∃ (s : State), s.on AGE_REC_STAT_PEND) ∧
    (∃ (s : State), s.on AGE_CFG_EN ∧ s.standby = false ∧ s.rd AGE_PLAN_STAT_STATE = 0) ∧
    (∃ (s : State), s.on AGE_CFG_EN ∧ s.standby = false ∧ s.rd AGE_PLAN_STAT_STATE ≠ 0) ∧
    (∃ (s : State), (s.on AGE_CFG_EN = false ∨ s.standby)) :=
  ⟨⟨State.reset.set1 PWR_STAT_SUSP, by decide +kernel⟩,
   ⟨(State.reset.clr AGE_REC_CTL_WRAP).setSys { nvq := [(0x02090000, [0, 0, 0, 0, 0, 0, 0, 0]), (0x02090008, [0, 0, 0, 0, 0, 0] ++ toBytes 2 (crc16 (List.replicate 14 0)))] }, by decide +kernel⟩,
   ⟨State.reset.set1 AGE_REC_STAT_PEND, by decide⟩,
   ⟨State.reset.set1 AGE_CFG_EN, by decide⟩,
   ⟨(State.reset.set1 AGE_CFG_EN).wr AGE_PLAN_STAT_STATE 2, by decide⟩,
   ⟨State.reset, by decide +kernel⟩⟩

/-- States and operands that meet the hypotheses of HeathMonitor. -/
theorem witness_HeathMonitor_d :
    (∃ (s : State) (y : Nat) (p : Nat), s.rd AGE_PLAN_STAT_STATE = 1 ∧ s.asterRuns ∧ s.planWhy s.age.plan = some (y, some p) ∧ y < 16 ∧ p < 32) ∧
    (∃ (s : State) (y : Nat), s.rd AGE_PLAN_STAT_STATE = 1 ∧ s.asterRuns ∧ s.planWhy s.age.plan = some (y, none) ∧ y < 16) ∧
    (∃ (s : State), s.rd AGE_PLAN_STAT_STATE = 1 ∧ s.asterRuns ∧ s.planWhy s.age.plan = none ∧ (s.on AGE_PLAN_STAT_INFORCE ∨ s.on LOOP_CYC_CFG_EN)) ∧
    (∃ (s : State), (s.rd AGE_PLAN_STAT_STATE ≠ 1 ∨ s.asterRuns = false)) ∧
    (∃ (s : State), s.rd AGE_PLAN_STAT_STATE = 2) ∧
    (∃ (s : State), s.rd AGE_PLAN_STAT_STATE ≠ 2) :=
  ⟨⟨{ (((State.reset.wr (ENG_STAT_STATE 16) 1).set1 AGE_CFG_EN).wr AGE_PLAN_STAT_STATE 1) with age := { plan := planSeal ([1, 5, 0, 1, 600] ++ List.replicate 58 0) } }, 8, 0, by decide +kernel⟩,
   ⟨((State.reset.wr (ENG_STAT_STATE 16) 1).wr AGE_PLAN_STAT_STATE 1), 9, by decide⟩,
   ⟨{ ((((State.reset.wr (ENG_STAT_STATE 16) 1).set1 AGE_CFG_EN).wr AGE_PLAN_STAT_STATE 1).set1 AGE_PLAN_STAT_INFORCE).wr LOOP_CYC_CFG_EN 1 with age := { plan := planSeal ([1, 5] ++ List.replicate 61 0) } }, by decide +kernel⟩,
   ⟨State.reset, by decide⟩,
   ⟨State.reset.wr AGE_PLAN_STAT_STATE 2, by decide⟩,
   ⟨State.reset, by decide +kernel⟩⟩

/-- States and operands that meet the hypotheses of SecurityViolations. -/
theorem witness_SecurityViolations_a :
    (∃ (s : State), s.sec.failAt = none) ∧
    (∃ (s : State) (f : Nat), s.sec.failAt = some f ∧ 1000000000 ≤ s.ns - f) ∧
    (∃ (s : State) (f : Nat), s.sec.failAt = some f ∧ s.ns < f + 1000000000) ∧
    (∃ (s : State), s.sec.chal.isSome ∧ s.on SEC_FUSE_DBG_KEY ∧ s.on SEC_STAT_LOCKED = false) ∧
    (∃ (s : State) (k : Bool) (g : Bool), s.sec.chal.isSome ∧ (k = false ∨ g = false ∨ s.on SEC_FUSE_DBG_KEY = false ∨ s.on SEC_STAT_LOCKED) ∧ s.rd SEC_DBG_FAILS < 2) ∧
    (∃ (s : State) (k : Bool) (g : Bool), s.sec.chal.isSome ∧ (k = false ∨ g = false ∨ s.on SEC_FUSE_DBG_KEY = false ∨ s.on SEC_STAT_LOCKED) ∧ 2 ≤ s.rd SEC_DBG_FAILS) :=
  ⟨⟨State.reset, by decide +kernel⟩,
   ⟨{ State.reset.setSec { failAt := some 0 } with tb := 1000000000 * 2 ^ 24 }, 0, by decide⟩,
   ⟨State.reset.setSec { failAt := some 0 }, 0, by decide⟩,
   ⟨(State.reset.set1 SEC_FUSE_DBG_KEY).setSec { chal := some 5 }, by decide⟩,
   ⟨State.reset.setSec { chal := some 5 }, true, false, by decide⟩,
   ⟨(State.reset.setSec { chal := some 5 }).wr SEC_DBG_FAILS 2, true, false, by decide⟩⟩

/-- States and operands that meet the hypotheses of SecurityViolations. -/
theorem witness_SecurityViolations_b :
    ∃ (s : State), s.sec.chal = none :=
  ⟨State.reset, by decide⟩

/-- States and operands that meet the hypotheses of VaultAndFuses. -/
theorem witness_VaultAndFuses_a :
    (∃ (s : State) (m : Master), s.asterPriv m ∧ s.vaultAccepts 1) ∧
    (∃ (s : State) (m : Master), s.asterPriv m ∧ s.vaultAccepts 1 = false) ∧
    (∃ (s : State) (m : Master), s.asterPriv m = false) ∧
    (∃ (s : State) (m : Master), s.asterPriv m ∧ s.vaultAccepts 2) ∧
    (∃ (s : State) (m : Master), s.asterPriv m ∧ s.vaultAccepts 2 = false) ∧
    (∃ (s : State) (m : Master), s.asterPriv m = false) :=
  ⟨⟨(State.reset.setCore 17 { coreCold 17 with status := 2 }), (.aster 1), by decide⟩,
   ⟨((State.reset.setCore 17 { coreCold 17 with status := 2 }).set1 SEC_STAT_LOCKED), (.aster 1), by decide⟩,
   ⟨State.reset, .host, by decide⟩,
   ⟨((State.reset.setCore 17 { coreCold 17 with status := 2 }).wr SEC_VAULT_STAT_PUF 2), (.aster 1), by decide⟩,
   ⟨((State.reset.setCore 17 { coreCold 17 with status := 2 }).set1 SEC_STAT_LOCKED), (.aster 1), by decide⟩,
   ⟨State.reset, .host, by decide⟩⟩

/-- States and operands that meet the hypotheses of VaultAndFuses. -/
theorem witness_VaultAndFuses_b :
    (∃ (s : State) (m : Master), s.asterPriv m ∧ s.vaultAccepts 3) ∧
    (∃ (s : State) (m : Master), s.asterPriv m ∧ s.vaultAccepts 3 = false) ∧
    (∃ (s : State) (m : Master), s.asterPriv m ∧ s.vaultAccepts 4) ∧
    (∃ (s : State) (m : Master), s.asterPriv m ∧ s.vaultAccepts 4 = false) ∧
    (∃ (s : State) (m : Master), s.asterPriv m ∧ s.vaultAccepts 5) ∧
    (∃ (s : State) (m : Master), s.asterPriv m ∧ s.vaultAccepts 5 = false) :=
  ⟨⟨((State.reset.setCore 17 { coreCold 17 with status := 2 }).wr SEC_VAULT_STAT_PUF 2), (.aster 1), by decide⟩,
   ⟨((State.reset.setCore 17 { coreCold 17 with status := 2 }).set1 SEC_STAT_LOCKED), (.aster 1), by decide⟩,
   ⟨((State.reset.setCore 17 { coreCold 17 with status := 2 }).wr SEC_VAULT_STAT_PUF 2), (.aster 1), by decide⟩,
   ⟨((State.reset.setCore 17 { coreCold 17 with status := 2 }).set1 SEC_STAT_LOCKED), (.aster 1), by decide⟩,
   ⟨((State.reset.setCore 17 { coreCold 17 with status := 2 }).wr SEC_VAULT_STAT_PUF 2).setSec { idKey := some 5 }, (.aster 1), by decide⟩,
   ⟨((State.reset.setCore 17 { coreCold 17 with status := 2 }).set1 SEC_STAT_LOCKED), (.aster 1), by decide⟩⟩

/-- States and operands that meet the hypotheses of VaultAndFuses. -/
theorem witness_VaultAndFuses_c :
    (∃ (s : State) (k : Nat), s.sec.cmd = some (1, k)) ∧
    (∃ (s : State) (k : Nat), s.sec.cmd = some (2, k)) ∧
    (∃ (s : State) (k : Nat), s.sec.cmd = some (3, k)) ∧
    (∃ (s : State) (k : Nat), s.sec.cmd = some (4, k)) ∧
    (∃ (s : State) (k : Nat), s.sec.cmd = some (5, k)) ∧
    (∃ (s : State), s.sec.cmd = none) :=
  ⟨⟨State.reset.setSec { cmd := some (1, 0) }, 0, by decide⟩,
   ⟨State.reset.setSec { cmd := some (2, 3) }, 3, by decide⟩,
   ⟨State.reset.setSec { cmd := some (3, 3) }, 3, by decide⟩,
   ⟨State.reset.setSec { cmd := some (4, 0) }, 0, by decide⟩,
   ⟨State.reset.setSec { cmd := some (5, 0) }, 0, by decide⟩,
   ⟨State.reset, by decide +kernel⟩⟩

/-- States and operands that meet the hypotheses of VaultAndFuses. -/
theorem witness_VaultAndFuses_d :
    (∃ (s : State) (m : Master), s.burnOk m none) ∧
    (∃ (s : State) (m : Master), s.burnOk m none = false) ∧
    (∃ (s : State) (m : Master) (k : Fin 4), s.burnOk m (some k)) ∧
    (∃ (s : State) (m : Master) (k : Fin 4), s.burnOk m (some k) = false) ∧
    (∃ (s : State), s.sec.burn = some none ∧ s.rd SEC_FUSE_FLOOR < 32) ∧
    (∃ (s : State) (k : Fin 4), s.sec.burn = some (some k.val)) :=
  ⟨⟨((State.reset.setCore 17 { coreCold 17 with status := 2 }).wr SYS_DEV_STATE_STATE 1).wr SEC_BOOT_VERSION 5, (.aster 1), by decide⟩,
   ⟨State.reset, .host, by decide⟩,
   ⟨((State.reset.setCore 17 { coreCold 17 with status := 2 }).wr SYS_DEV_STATE_STATE 1).wr SEC_BOOT_VERSION 5, (.aster 1), 2, by decide⟩,
   ⟨State.reset, .host, 2, by decide⟩,
   ⟨State.reset.setSec { burn := some none }, by decide⟩,
   ⟨State.reset.setSec { burn := some (some 2) }, 2, by decide⟩⟩

/-- States and operands that meet the hypotheses of VaultAndFuses. -/
theorem witness_VaultAndFuses_e :
    ∃ (s : State), s.sec.burn = none :=
  ⟨State.reset, by decide⟩

/-- States and operands that meet the hypotheses of RegisterWrites. -/
theorem witness_RegisterWrites_a :
    (∃ (s : State) (m : Master), s.masterOn m ∧ s.on RST_BLK_STAT_BUSY = false) ∧
    (∃ (s : State) (m : Master), s.masterOn m ∧ s.on RST_BLK_STAT_BUSY = false) ∧
    (∃ (s : State) (m : Master), s.masterOn m ∧ s.on RST_BLK_STAT_BUSY = false) ∧
    (∃ (s : State) (m : Master) (v : BitVec 32), s.masterOn m ∧ s.on RST_BLK_STAT_BUSY = false ∧ s.inRun ∧ s.rd SADL_CFG_EN ≠ v.toNat % 2) ∧
    (∃ (s : State) (m : Master) (v : BitVec 32), s.masterOn m ∧ s.on RST_BLK_STAT_BUSY = false ∧ 6 ≤ v.toNat / 8192 % 8) ∧
    (∃ (s : State) (m : Master) (a : BitVec 32), s.masterOn m ∧ s.on RST_BLK_STAT_BUSY = false ∧ a.toNat % 4 = 0 ∧ inRegs a.toNat ∧ regOf a.toNat = none) :=
  ⟨⟨State.reset, (.aster 1), by decide⟩,
   ⟨State.reset.wr HOST_DB_STAT_PEND 7, (.aster 1), by decide⟩,
   ⟨State.reset, (.aster 1), by decide⟩,
   ⟨State.reset.wr SYS_DEV_STATE_STATE 3, (.aster 1), 1, by decide⟩,
   ⟨State.reset, (.aster 1), 0xC000, by decide⟩,
   ⟨State.reset, (.aster 1), 0x40000FFC, by decide⟩⟩

/-- States and operands that meet the hypotheses of RegisterWrites. -/
theorem witness_RegisterWrites_b :
    (∃ (s : State) (m : Master) (a : BitVec 32), s.masterOn m ∧ s.on RST_BLK_STAT_BUSY = false ∧ a.toNat % 4 ≠ 0 ∧ inRegs a.toNat) ∧
    (∃ (s : State) (a : BitVec 32), a.toNat % 4 = 0 ∧ (regOf a.toNat).isSome ∧ s.regAbsent a.toNat) ∧
    (∃ (s : State) (m : Master) (a : BitVec 32), (s.masterOn m = false ∨ inRegs a.toNat = false ∨ s.blkError a.toNat)) :=
  ⟨⟨State.reset, (.aster 1), 0x40000002, by decide⟩,
   ⟨State.reset.wr SYS_DEV_STATE_PROFILE 1, 0x40282400, by decide⟩,
   ⟨State.reset, .host, 0x40000000, by decide⟩⟩

/-- States and operands that meet the hypotheses of EthernetPorts. -/
theorem witness_EthernetPorts_a :
    (∃ (s : State) (p : Fin 2) (k : Bool), s.ethRuns ∧ s.on (ETH_CTL_EN p) ∧ (k ∨ s.on (ETH_CTL_AN_EN p) = false)) ∧
    (∃ (s : State) (p : Fin 2), s.ethRuns ∧ s.on (ETH_CTL_EN p) ∧ s.on (ETH_CTL_AN_EN p)) ∧
    (∃ (s : State) (p : Fin 2), (s.ethRuns = false ∨ s.on (ETH_CTL_EN p) = false)) ∧
    (∃ (s : State) (p : Fin 2) (v : BitVec 8), v.toNat < s.rd (ETH_TXR_LEN_LEN p) ∧ (s.rd (ETH_TX_TAIL_TAIL p) + s.rd (ETH_TXR_LEN_LEN p) - s.rd (ETH_TX_HEAD_HEAD p)) % s.rd (ETH_TXR_LEN_LEN p) ≤ (v.toNat + s.rd (ETH_TXR_LEN_LEN p) - s.rd (ETH_TX_HEAD_HEAD p)) % s.rd (ETH_TXR_LEN_LEN p)) ∧
    (∃ (s : State) (p : Fin 2) (v : BitVec 8), (s.rd (ETH_TXR_LEN_LEN p) ≤ v.toNat ∨ ¬ (s.rd (ETH_TX_TAIL_TAIL p) + s.rd (ETH_TXR_LEN_LEN p) - s.rd (ETH_TX_HEAD_HEAD p)) % s.rd (ETH_TXR_LEN_LEN p) ≤ (v.toNat + s.rd (ETH_TXR_LEN_LEN p) - s.rd (ETH_TX_HEAD_HEAD p)) % s.rd (ETH_TXR_LEN_LEN p))) ∧
    (∃ (s : State) (p : Fin 2) (v : BitVec 8), v.toNat < s.rd (ETH_RXR_LEN_LEN p) ∧ (s.rd (ETH_RX_TAIL_TAIL p) + s.rd (ETH_RXR_LEN_LEN p) - s.rd (ETH_RX_HEAD_HEAD p)) % s.rd (ETH_RXR_LEN_LEN p) ≤ (v.toNat + s.rd (ETH_RXR_LEN_LEN p) - s.rd (ETH_RX_HEAD_HEAD p)) % s.rd (ETH_RXR_LEN_LEN p)) :=
  ⟨⟨((State.reset.set1 CLK_TB_STAT_LOCK).wr (ENG_STAT_STATE 16) 1).set1 (ETH_CTL_EN 1), 1, true, by decide⟩,
   ⟨(((State.reset.set1 CLK_TB_STAT_LOCK).wr (ENG_STAT_STATE 16) 1).set1 (ETH_CTL_EN 1)).set1 (ETH_CTL_AN_EN 1), 1, by decide⟩,
   ⟨State.reset.clr (ETH_CTL_EN 1), 1, by decide⟩,
   ⟨(State.reset.wr (ETH_TXR_LEN_LEN 1) 16).wr (ETH_TX_TAIL_TAIL 1) 3, 1, 7, by decide⟩,
   ⟨(State.reset.wr (ETH_TXR_LEN_LEN 1) 16).wr (ETH_TX_TAIL_TAIL 1) 3, 1, 17, by decide⟩,
   ⟨(State.reset.wr (ETH_RXR_LEN_LEN 1) 16).wr (ETH_RX_TAIL_TAIL 1) 3, 1, 7, by decide⟩⟩

/-- States and operands that meet the hypotheses of EthernetPorts. -/
theorem witness_EthernetPorts_b :
    (∃ (s : State) (p : Fin 2) (v : BitVec 8), (s.rd (ETH_RXR_LEN_LEN p) ≤ v.toNat ∨ ¬ (s.rd (ETH_RX_TAIL_TAIL p) + s.rd (ETH_RXR_LEN_LEN p) - s.rd (ETH_RX_HEAD_HEAD p)) % s.rd (ETH_RXR_LEN_LEN p) ≤ (v.toNat + s.rd (ETH_RXR_LEN_LEN p) - s.rd (ETH_RX_HEAD_HEAD p)) % s.rd (ETH_RXR_LEN_LEN p))) ∧
    (∃ (s : State) (p : Fin 2), (s.ethRuns = false ∨ s.on (ETH_CTL_EN p) = false ∨ s.on (ETH_STAT_LINK p) = false)) ∧
    (∃ (s : State) (p : Fin 2), s.ethRuns ∧ s.on (ETH_CTL_EN p) ∧ s.on (ETH_STAT_LINK p)) ∧
    (∃ (s : State) (p : Fin 2) (f : List (BitVec 8)), s.ethRuns ∧ s.on (ETH_CTL_EN p) ∧ s.on (ETH_STAT_LINK p) ∧ (s.on (ETH_MS_CTL_EN p) = false ∨ s.rd (ETH_MS_CTL_VALIDATE p) = 0) ∧ s.on (ETH_CTL_FWD p) = false ∧ ptpAt f = none ∧ (s.rxOwned p = 0 ∨ 1536 < f.length)) ∧
    (∃ (s : State) (p : Fin 2) (f : List (BitVec 8)) (b : Nat), s.ethRuns ∧ s.on (ETH_CTL_EN p) ∧ s.on (ETH_STAT_LINK p) ∧ (s.on (ETH_MS_CTL_EN p) = false ∨ s.rd (ETH_MS_CTL_VALIDATE p) = 0) ∧ s.on (ETH_CTL_FWD p) = false ∧ ptpAt f = none ∧ s.rxOwned p ≠ 0 ∧ 14 ≤ f.length ∧ f.length ≤ 1536 ∧ inSram (s.rxDesc p + 15) ∧ s.load (s.rxDesc p) 4 = b ∧ inSram (b + f.length) ∧ (b + f.length ≤ s.rxDesc p ∨ s.rxDesc p + 16 ≤ b)) ∧
    (∃ (s : State) (p : Fin 2) (g : Option SecTag) (f : List (BitVec 8)) (b : Nat) (h : SecTag) (r : Nat), s.ethRuns ∧ s.on (ETH_CTL_EN p) ∧ s.on (ETH_STAT_LINK p) ∧ s.on (ETH_MS_CTL_EN p) ∧ s.rd (ETH_MS_CTL_VALIDATE p) ≠ 0 ∧ s.on (ETH_CTL_FWD p) = false ∧ ptpAt f = none ∧ g = some h ∧ s.rxSc p h = some r ∧ (s.reg (ETH_SA p r h.an)).testBit 4 ∧ s.reg (ETH_LPN p r h.an) ≤ h.pn.toNat ∧ h.good ∧ s.keyed (s.reg (ETH_SA p r h.an) % 16) ∧ s.rxOwned p ≠ 0 ∧ 14 ≤ f.length ∧ f.length ≤ 1536 ∧ inSram (s.rxDesc p + 15) ∧ s.load (s.rxDesc p) 4 = b ∧ inSram (b + f.length) ∧ (b + f.length ≤ s.rxDesc p ∨ s.rxDesc p + 16 ≤ b)) :=
  ⟨⟨(State.reset.wr (ETH_RXR_LEN_LEN 1) 16).wr (ETH_RX_TAIL_TAIL 1) 3, 1, 17, by decide⟩,
   ⟨State.reset, 1, by decide⟩,
   ⟨((((((State.reset.set1 CLK_TB_STAT_LOCK).wr (ENG_STAT_STATE 16) 1).set1 (ETH_CTL_EN 1)).set1 (ETH_STAT_LINK 1)).wr (ETH_RXR_LEN_LEN 1) 16).wr (ETH_TXR_LEN_LEN 1) 16), 1, by decide⟩,
   ⟨((((((State.reset.set1 CLK_TB_STAT_LOCK).wr (ENG_STAT_STATE 16) 1).set1 (ETH_CTL_EN 1)).set1 (ETH_STAT_LINK 1)).wr (ETH_RXR_LEN_LEN 1) 16).wr (ETH_TXR_LEN_LEN 1) 16), 1, (List.replicate 64 3), by decide⟩,
   ⟨((((((((State.reset.set1 CLK_TB_STAT_LOCK).wr (ENG_STAT_STATE 16) 1).set1 (ETH_CTL_EN 1)).set1 (ETH_STAT_LINK 1)).wr (ETH_RXR_LEN_LEN 1) 16).wr (ETH_TXR_LEN_LEN 1) 16)).wr (ETH_RX_TAIL_TAIL 1) 3).store 0 4 0x1000, 1, (List.replicate 64 3), 0x1000, by decide⟩,
   ⟨(((((((((((((((State.reset.set1 CLK_TB_STAT_LOCK).wr (ENG_STAT_STATE 16) 1).set1 (ETH_CTL_EN 1)).set1 (ETH_STAT_LINK 1)).wr (ETH_RXR_LEN_LEN 1) 16).wr (ETH_TXR_LEN_LEN 1) 16)).wr (ETH_RX_TAIL_TAIL 1) 3).store 0 4 0x1000).set1 (ETH_MS_CTL_EN 1)).wr (ETH_MS_CTL_VALIDATE 1) 2).set1 (ETH_RXEN_EN 1 1)).setReg (ETH_RX_SCI_LO 1 1) 7).setReg (ETH_SA 1 1 2) 0x13).wr SEC_VAULT_STAT_PUF 2).setSec { keys := [(3, [])] }, 1, (some { sci := 7, an := 2, pn := 9, good := true }), (List.replicate 64 3), 0x1000, { sci := 7, an := 2, pn := 9, good := true }, 1, by decide⟩⟩

/-- States and operands that meet the hypotheses of EthernetPorts. -/
theorem witness_EthernetPorts_c :
    (∃ (s : State) (p : Fin 2), s.ethRuns ∧ s.on (ETH_CTL_EN p) ∧ s.on (ETH_STAT_LINK p) ∧ s.on (ETH_MS_CTL_EN p) ∧ s.rd (ETH_MS_CTL_VALIDATE p) = 2) ∧
    (∃ (s : State) (p : Fin 2) (h : SecTag), s.ethRuns ∧ s.on (ETH_CTL_EN p) ∧ s.on (ETH_STAT_LINK p) ∧ s.on (ETH_MS_CTL_EN p) ∧ s.rd (ETH_MS_CTL_VALIDATE p) = 2 ∧ s.rxSc p h = none) ∧
    (∃ (s : State) (p : Fin 2) (h : SecTag) (r : Nat), s.ethRuns ∧ s.on (ETH_CTL_EN p) ∧ s.on (ETH_STAT_LINK p) ∧ s.on (ETH_MS_CTL_EN p) ∧ s.rd (ETH_MS_CTL_VALIDATE p) ≠ 0 ∧ s.rxSc p h = some r ∧ (s.reg (ETH_SA p r h.an)).testBit 4 ∧ s.on (ETH_MS_CTL_REPLAY p) ∧ h.pn.toNat < s.reg (ETH_LPN p r h.an)) ∧
    (∃ (s : State) (p : Fin 2) (f : List (BitVec 8)), s.ethRuns ∧ s.on (ETH_CTL_EN p) ∧ s.on (ETH_STAT_LINK p) ∧ s.on (ETH_MS_CTL_EN p) = false ∧ s.on (ETH_CTL_FWD p) ∧ ptpAt f = none ∧ ptpUdp f = false ∧ fieldAt f 0 6 ≠ s.ethAddr p ∧ fieldAt f 0 1 % 2 = 0 ∧ ((s.eth (1 - p)).fwd.map fun y => y.frame.length).sum + f.length ≤ 16384) ∧
    (∃ (s : State) (p : Fin 2) (f : List (BitVec 8)), s.ethRuns ∧ s.on (ETH_CTL_EN p) ∧ s.on (ETH_STAT_LINK p) ∧ s.on (ETH_MS_CTL_EN p) = false ∧ s.on (ETH_CTL_FWD p) ∧ ptpAt f = none ∧ ptpUdp f = false ∧ fieldAt f 0 6 ≠ s.ethAddr p ∧ fieldAt f 0 1 % 2 = 0 ∧ 16384 < ((s.eth (1 - p)).fwd.map fun y => y.frame.length).sum + f.length) ∧
    (∃ (s : State) (p : Fin 2) (f : List (BitVec 8)) (x : PdReq) (n : Nat), s.ethRuns ∧ s.on (ETH_CTL_EN p) ∧ s.on (ETH_STAT_LINK p) ∧ s.on (ETH_MS_CTL_EN p) = false ∧ s.on (ETH_CTL_FWD p) = false ∧ s.on PTP_CFG_EN ∧ s.rxOwned p = 0 ∧ ptpAt f = some n ∧ ptpType f = some 3 ∧ ptpTwoStep f n = false ∧ (s.eth p).pd = some x ∧ x.seq = ptpSeq f n) :=
  ⟨⟨(((((((((State.reset.set1 CLK_TB_STAT_LOCK).wr (ENG_STAT_STATE 16) 1).set1 (ETH_CTL_EN 1)).set1 (ETH_STAT_LINK 1)).wr (ETH_RXR_LEN_LEN 1) 16).wr (ETH_TXR_LEN_LEN 1) 16)).set1 (ETH_MS_CTL_EN 1)).wr (ETH_MS_CTL_VALIDATE 1) 2), 1, by decide⟩,
   ⟨(((((((((State.reset.set1 CLK_TB_STAT_LOCK).wr (ENG_STAT_STATE 16) 1).set1 (ETH_CTL_EN 1)).set1 (ETH_STAT_LINK 1)).wr (ETH_RXR_LEN_LEN 1) 16).wr (ETH_TXR_LEN_LEN 1) 16)).set1 (ETH_MS_CTL_EN 1)).wr (ETH_MS_CTL_VALIDATE 1) 2), 1, { sci := 7, an := 2, pn := 9, good := true }, by decide⟩,
   ⟨((((((((((((((State.reset.set1 CLK_TB_STAT_LOCK).wr (ENG_STAT_STATE 16) 1).set1 (ETH_CTL_EN 1)).set1 (ETH_STAT_LINK 1)).wr (ETH_RXR_LEN_LEN 1) 16).wr (ETH_TXR_LEN_LEN 1) 16)).set1 (ETH_MS_CTL_EN 1)).wr (ETH_MS_CTL_VALIDATE 1) 2)).set1 (ETH_RXEN_EN 1 1)).setReg (ETH_RX_SCI_LO 1 1) 7).setReg (ETH_SA 1 1 2) 0x13).set1 (ETH_MS_CTL_REPLAY 1)).setReg (ETH_LPN 1 1 2) 20, 1, { sci := 7, an := 2, pn := 9, good := true }, 1, by decide⟩,
   ⟨((((((((State.reset.set1 CLK_TB_STAT_LOCK).wr (ENG_STAT_STATE 16) 1).set1 (ETH_CTL_EN 1)).set1 (ETH_STAT_LINK 1)).wr (ETH_RXR_LEN_LEN 1) 16).wr (ETH_TXR_LEN_LEN 1) 16)).set1 (ETH_CTL_FWD 1)).setReg (ETH_MAC_LO 1) 5, 1, (List.replicate 64 2), by decide⟩,
   ⟨(((((((((State.reset.set1 CLK_TB_STAT_LOCK).wr (ENG_STAT_STATE 16) 1).set1 (ETH_CTL_EN 1)).set1 (ETH_STAT_LINK 1)).wr (ETH_RXR_LEN_LEN 1) 16).wr (ETH_TXR_LEN_LEN 1) 16)).set1 (ETH_CTL_FWD 1)).setReg (ETH_MAC_LO 1) 5).setEth 0 { fwd := [⟨List.replicate 16330 1, 5, 0, false⟩] }, 1, (List.replicate 64 2), by decide +kernel⟩,
   ⟨(((((((State.reset.set1 CLK_TB_STAT_LOCK).wr (ENG_STAT_STATE 16) 1).set1 (ETH_CTL_EN 1)).set1 (ETH_STAT_LINK 1)).wr (ETH_RXR_LEN_LEN 1) 16).wr (ETH_TXR_LEN_LEN 1) 16).set1 PTP_CFG_EN).setEth 1 { pd := some { seq := 3, t1 := 9 } }, 1, ((List.replicate 12 0) ++ [0x88, 0xF7, 3] ++ List.replicate 29 0 ++ [0, 3] ++ List.replicate 24 0), { seq := 3, t1 := 9 }, 14, by decide⟩⟩

/-- States and operands that meet the hypotheses of EthernetPorts. -/
theorem witness_EthernetPorts_d :
    (∃ (s : State) (p : Fin 2), (s.ethRuns = false ∨ s.on (ETH_CTL_EN p) = false ∨ s.on (ETH_STAT_LINK p) = false)) ∧
    (∃ (s : State) (p : Fin 2), s.ethRuns ∧ s.on (ETH_CTL_EN p) ∧ s.on (ETH_STAT_LINK p) ∧ (s.eth p).fwd = [] ∧ s.txOwned p ≠ 0 ∧ inSram (s.txDesc p + 15) ∧ s.on (ETH_MS_CTL_EN p) = false ∧ s.load (s.txDesc p + 4) 4 / 2 ^ 17 % 8 = 0) ∧
    (∃ (s : State) (p : Fin 2), s.ethRuns ∧ s.on (ETH_CTL_EN p) ∧ s.on (ETH_STAT_LINK p) ∧ (s.eth p).fwd = [] ∧ s.txOwned p ≠ 0 ∧ inSram (s.txDesc p + 15) ∧ s.on (ETH_MS_CTL_EN p) = false ∧ s.load (s.txDesc p + 4) 4 / 2 ^ 17 % 8 ≠ 0 ∧ (ptpAt (s.bytes (s.load (s.txDesc p) 4) (s.load (s.txDesc p + 4) 4 % 2048)) = none ∨ s.on PTP_CFG_EN = false)) ∧
    (∃ (s : State) (p : Fin 2), s.ethRuns ∧ s.on (ETH_CTL_EN p) ∧ s.on (ETH_STAT_LINK p) ∧ (s.eth p).fwd = [] ∧ s.txOwned p ≠ 0 ∧ inSram (s.txDesc p + 15) ∧ s.on (ETH_MS_CTL_EN p) ∧ (s.on (ETH_MS_TXSA_EN p (s.rd (ETH_MS_CTL_TX_AN p))) && s.keyed (s.rd (ETH_MS_TXSA_KEY p (s.rd (ETH_MS_CTL_TX_AN p))))) = false) ∧
    (∃ (s : State) (p : Fin 2) (n : Nat), s.ethRuns ∧ s.on (ETH_CTL_EN p) ∧ s.on (ETH_STAT_LINK p) ∧ (s.eth p).fwd = [] ∧ s.txOwned p ≠ 0 ∧ inSram (s.txDesc p + 15) ∧ s.on (ETH_MS_CTL_EN p) ∧ (s.on (ETH_MS_TXSA_EN p (s.rd (ETH_MS_CTL_TX_AN p))) && s.keyed (s.rd (ETH_MS_TXSA_KEY p (s.rd (ETH_MS_CTL_TX_AN p))))) ∧ s.reg (ETH_MS_TXPN p (s.rd (ETH_MS_CTL_TX_AN p))) = n ∧ n + 1 < 0xF0000000 ∧ s.load (s.txDesc p + 4) 4 / 2 ^ 17 % 8 = 0) ∧
    (∃ (s : State) (p : Fin 2) (x : EthFwd), s.ethRuns ∧ s.on (ETH_CTL_EN p) ∧ s.on (ETH_STAT_LINK p) ∧ (s.eth p).fwd = [x] ∧ s.on (ETH_MS_CTL_EN p) = false ∧ ptpAt x.frame = none) :=
  ⟨⟨State.reset, 1, by decide⟩,
   ⟨(((((((State.reset.set1 CLK_TB_STAT_LOCK).wr (ENG_STAT_STATE 16) 1).set1 (ETH_CTL_EN 1)).set1 (ETH_STAT_LINK 1)).wr (ETH_RXR_LEN_LEN 1) 16).wr (ETH_TXR_LEN_LEN 1) 16)).wr (ETH_TX_TAIL_TAIL 1) 3, 1, by decide⟩,
   ⟨((((((((State.reset.set1 CLK_TB_STAT_LOCK).wr (ENG_STAT_STATE 16) 1).set1 (ETH_CTL_EN 1)).set1 (ETH_STAT_LINK 1)).wr (ETH_RXR_LEN_LEN 1) 16).wr (ETH_TXR_LEN_LEN 1) 16)).wr (ETH_TX_TAIL_TAIL 1) 3).store 4 4 0x20040, 1, by decide⟩,
   ⟨((((((((State.reset.set1 CLK_TB_STAT_LOCK).wr (ENG_STAT_STATE 16) 1).set1 (ETH_CTL_EN 1)).set1 (ETH_STAT_LINK 1)).wr (ETH_RXR_LEN_LEN 1) 16).wr (ETH_TXR_LEN_LEN 1) 16)).wr (ETH_TX_TAIL_TAIL 1) 3).set1 (ETH_MS_CTL_EN 1), 1, by decide⟩,
   ⟨((((((((((((State.reset.set1 CLK_TB_STAT_LOCK).wr (ENG_STAT_STATE 16) 1).set1 (ETH_CTL_EN 1)).set1 (ETH_STAT_LINK 1)).wr (ETH_RXR_LEN_LEN 1) 16).wr (ETH_TXR_LEN_LEN 1) 16)).wr (ETH_TX_TAIL_TAIL 1) 3).set1 (ETH_MS_CTL_EN 1)).set1 (ETH_MS_TXSA_EN 1 0)).setReg (ETH_MS_TXPN 1 0) 5).wr SEC_VAULT_STAT_PUF 2).setSec { keys := [(0, [])] }, 1, 5, by decide⟩,
   ⟨(((((((State.reset.set1 CLK_TB_STAT_LOCK).wr (ENG_STAT_STATE 16) 1).set1 (ETH_CTL_EN 1)).set1 (ETH_STAT_LINK 1)).wr (ETH_RXR_LEN_LEN 1) 16).wr (ETH_TXR_LEN_LEN 1) 16)).setEth 1 { fwd := [⟨[1, 2], 5, 0, false⟩] }, 1, ⟨[1, 2], 5, 0, false⟩, by decide⟩⟩

/-- States and operands that meet the hypotheses of EthernetPorts. -/
theorem witness_EthernetPorts_e :
    (∃ (s : State) (p : Fin 2) (n : Nat) (x : EthFwd), s.ethRuns ∧ s.on (ETH_CTL_EN p) ∧ s.on (ETH_STAT_LINK p) ∧ (s.eth p).fwd = [x] ∧ s.on (ETH_MS_CTL_EN p) = false ∧ ptpAt x.frame = some n ∧ beAt x.frame n 1 % 16 = 0 ∧ s.on PTP_CFG_EN ∧ s.on PTP_CFG_TC_EN ∧ s.on (ETH_CTL_FWD (1 - p)) ∧ s.rd PTP_CFG_TC_MODE = 0) ∧
    (∃ (s : State) (p : Fin 2) (k : Bool), (s.eth p).fwd = [] ∧ (k ∨ s.txOwned p = 0)) ∧
    (∃ (s : State) (p : Fin 2), s.ethRuns ∧ (s.eth p).pd.isSome) ∧
    (∃ (s : State) (p : Fin 2), (s.ethRuns = false ∨ (s.eth p).pd = none)) :=
  ⟨⟨((((((((((State.reset.set1 CLK_TB_STAT_LOCK).wr (ENG_STAT_STATE 16) 1).set1 (ETH_CTL_EN 1)).set1 (ETH_STAT_LINK 1)).wr (ETH_RXR_LEN_LEN 1) 16).wr (ETH_TXR_LEN_LEN 1) 16)).set1 PTP_CFG_EN).set1 PTP_CFG_TC_EN).set1 (ETH_CTL_FWD 0)).setEth 1 { fwd := [⟨(List.replicate 12 0) ++ [0x88, 0xF7] ++ List.replicate 64 0, 5, 0, true⟩] }, 1, 14, ⟨(List.replicate 12 0) ++ [0x88, 0xF7] ++ List.replicate 64 0, 5, 0, true⟩, by decide⟩,
   ⟨((((((State.reset.set1 CLK_TB_STAT_LOCK).wr (ENG_STAT_STATE 16) 1).set1 (ETH_CTL_EN 1)).set1 (ETH_STAT_LINK 1)).wr (ETH_RXR_LEN_LEN 1) 16).wr (ETH_TXR_LEN_LEN 1) 16), 1, true, by decide⟩,
   ⟨((State.reset.set1 CLK_TB_STAT_LOCK).wr (ENG_STAT_STATE 16) 1).setEth 1 { pd := some { seq := 3, t1 := 9 } }, 1, by decide⟩,
   ⟨State.reset, 1, by decide⟩⟩

/-- States and operands that meet the hypotheses of SaddleLink. -/
theorem witness_SaddleLink_a :
    (∃ (s : State) (i : Fin 4), s.role ≠ 0 ∧ s.laneSt (24 + i) = 4 ∧ s.txBlock (24 + i)) ∧
    (∃ (s : State) (i : Fin 4), s.role ≠ 0 ∧ s.laneSt (24 + i) = 4 ∧ s.txBlock (24 + i)) ∧
    (∃ (s : State) (i : Fin 4), (s.role = 0 ∨ s.laneSt (24 + i) ≠ 4 ∨ s.txBlock (24 + i) = false)) ∧
    (∃ (s : State) (i : Fin 4) (h : List (BitVec 8)) (r : List (Nat × BitVec 64)), takePart 0 5 (s.lane (24 + i)).rxq = (some h, r) ∧ s.role ≠ 0 ∧ hcrcOk h ∧ fieldAt h 16 2 ≠ s.rd SYS_DEV_ID_DEVID) ∧
    (∃ (s : State) (i : Fin 4) (h : List (BitVec 8)) (r : List (Nat × BitVec 64)), takePart 0 5 (s.lane (24 + i)).rxq = (some h, r) ∧ s.role ≠ 0 ∧ hcrcOk h ∧ fieldAt h 16 2 ≠ s.rd SYS_DEV_ID_DEVID ∧ s.role = 1 ∧ s.on SADL_CFG_TKO_EN = false ∧ s.pair.sameId = false ∧ (fieldAt h 23 1).testBit 1) ∧
    (∃ (s : State) (i : Fin 4) (h : List (BitVec 8)) (r : List (Nat × BitVec 64)), takePart 0 5 (s.lane (24 + i)).rxq = (some h, r) ∧ s.role ≠ 0 ∧ hcrcOk h ∧ fieldAt h 16 2 ≠ s.rd SYS_DEV_ID_DEVID ∧ fieldAt h 28 4 = 0xFFFFFFFF ∧ s.role = 3 ∧ s.on SADL_CFG_TKO_EN = false ∧ outranks (fieldAt h 18 4, fieldAt h 16 2) (s.reg SADL_EPOCH, s.rd SYS_DEV_ID_DEVID)) :=
  ⟨⟨((((State.reset.wr SADL_STAT_ROLE 2).set1 SADL_CFG_EN).wr (LANE_STAT_STATE 25) 4).wr SYS_DEV_ID_DEVID 2).wr (LANE_STAT_TX_MODE 25) 2, 1, by decide⟩,
   ⟨((((State.reset.wr SADL_STAT_ROLE 2).set1 SADL_CFG_EN).wr (LANE_STAT_STATE 25) 4).wr SYS_DEV_ID_DEVID 2).wr (LANE_STAT_TX_MODE 25) 2, 1, by decide⟩,
   ⟨State.reset, 1, by decide⟩,
   ⟨((((State.reset.wr SADL_STAT_ROLE 2).set1 SADL_CFG_EN).wr (LANE_STAT_STATE 25) 4).wr SYS_DEV_ID_DEVID 2).setLane 25 { (((((State.reset.wr SADL_STAT_ROLE 2).set1 SADL_CFG_EN).wr (LANE_STAT_STATE 25) 4).wr SYS_DEV_ID_DEVID 2).lane 25) with rxq := rxOf 0 (payloads 5 (sHeader 7 1 3)) }, 1, (sHeader 7 1 3), [], by decide +kernel⟩,
   ⟨(((((State.reset.wr SADL_STAT_ROLE 1).set1 SADL_CFG_EN).wr (LANE_STAT_STATE 25) 4).wr SYS_DEV_ID_DEVID 2).clr SADL_CFG_TKO_EN).setLane 25 { ((((((State.reset.wr SADL_STAT_ROLE 1).set1 SADL_CFG_EN).wr (LANE_STAT_STATE 25) 4).wr SYS_DEV_ID_DEVID 2).clr SADL_CFG_TKO_EN).lane 25) with rxq := rxOf 0 (payloads 5 (aHeader4 7 1 3)) }, 1, (aHeader4 7 1 3), [], by decide +kernel⟩,
   ⟨(((((State.reset.wr SADL_STAT_ROLE 3).set1 SADL_CFG_EN).wr (LANE_STAT_STATE 25) 4).wr SYS_DEV_ID_DEVID 2).clr SADL_CFG_TKO_EN).setLane 25 { ((((((State.reset.wr SADL_STAT_ROLE 3).set1 SADL_CFG_EN).wr (LANE_STAT_STATE 25) 4).wr SYS_DEV_ID_DEVID 2).clr SADL_CFG_TKO_EN).lane 25) with rxq := rxOf 0 (payloads 5 (sHeader 7 9 3)) }, 1, (sHeader 7 9 3), [], by decide +kernel⟩⟩

/-- States and operands that meet the hypotheses of SaddleLink. -/
theorem witness_SaddleLink_b :
    (∃ (s : State) (i : Fin 4) (h : List (BitVec 8)) (r : List (Nat × BitVec 64)), takePart 0 5 (s.lane (24 + i)).rxq = (some h, r) ∧ s.role ≠ 0 ∧ hcrcOk h ∧ fieldAt h 28 4 = 0xFFFFFFFF ∧ fieldAt h 16 2 = s.rd SYS_DEV_ID_DEVID ∧ s.pair.sameId = false) ∧
    (∃ (s : State) (i : Fin 4) (h : List (BitVec 8)) (r : List (Nat × BitVec 64)), takePart 0 5 (s.lane (24 + i)).rxq = (some h, r) ∧ s.role ≠ 0 ∧ hcrcOk h ∧ fieldAt h 28 4 = 0xFFFFFFFF ∧ fieldAt h 16 2 = s.rd SYS_DEV_ID_DEVID ∧ s.pair.sameId) ∧
    (∃ (s : State) (i : Fin 4) (h : List (BitVec 8)) (r : List (Nat × BitVec 64)), takePart 0 5 (s.lane (24 + i)).rxq = (some h, r) ∧ s.role ≠ 0 ∧ hcrcOk h ∧ fieldAt h 28 4 ≠ 0xFFFFFFFF ∧ s.pair.ofs = []) ∧
    (∃ (s : State) (i : Fin 4) (h : List (BitVec 8)) (r : List (Nat × BitVec 64)), takePart 0 5 (s.lane (24 + i)).rxq = (some h, r) ∧ s.role ≠ 0 ∧ hcrcOk h = false) ∧
    (∃ (s : State) (i : Fin 4), (s.role = 0 ∨ (takePart 0 5 (s.lane (24 + i)).rxq).1 = none)) ∧
    (∃ (s : State) (i : Fin 4) (j : Fin 8) (b : List (BitVec 8)) (r : List (Nat × BitVec 64)), takePart (5 + 11 * j) 11 (s.lane (24 + i)).rxq = (some b, r) ∧ s.role ≠ 0 ∧ (b.length ≠ 88 ∨ scrcOk b = false ∨ 6 < fieldAt b 0 1)) :=
  ⟨⟨((((State.reset.wr SADL_STAT_ROLE 2).set1 SADL_CFG_EN).wr (LANE_STAT_STATE 25) 4).wr SYS_DEV_ID_DEVID 2).setLane 25 { (((((State.reset.wr SADL_STAT_ROLE 2).set1 SADL_CFG_EN).wr (LANE_STAT_STATE 25) 4).wr SYS_DEV_ID_DEVID 2).lane 25) with rxq := rxOf 0 (payloads 5 (sHeader 7 1 2)) }, 1, (sHeader 7 1 2), [], by decide +kernel⟩,
   ⟨({ (((State.reset.wr SADL_STAT_ROLE 2).set1 SADL_CFG_EN).wr (LANE_STAT_STATE 25) 4).wr SYS_DEV_ID_DEVID 2 with pair := { sameId := true } }).setLane 25 { (({ (((State.reset.wr SADL_STAT_ROLE 2).set1 SADL_CFG_EN).wr (LANE_STAT_STATE 25) 4).wr SYS_DEV_ID_DEVID 2 with pair := { sameId := true } }).lane 25) with rxq := rxOf 0 (payloads 5 (sHeader 7 1 2)) }, 1, (sHeader 7 1 2), [], by decide +kernel⟩,
   ⟨((((State.reset.wr SADL_STAT_ROLE 2).set1 SADL_CFG_EN).wr (LANE_STAT_STATE 25) 4).wr SYS_DEV_ID_DEVID 2).setLane 25 { (((((State.reset.wr SADL_STAT_ROLE 2).set1 SADL_CFG_EN).wr (LANE_STAT_STATE 25) 4).wr SYS_DEV_ID_DEVID 2).lane 25) with rxq := rxOf 0 (payloads 5 (sHeaderR 7 1 3 5)) }, 1, (sHeaderR 7 1 3 5), [], by decide +kernel⟩,
   ⟨((((State.reset.wr SADL_STAT_ROLE 2).set1 SADL_CFG_EN).wr (LANE_STAT_STATE 25) 4).wr SYS_DEV_ID_DEVID 2).setLane 25 { (((((State.reset.wr SADL_STAT_ROLE 2).set1 SADL_CFG_EN).wr (LANE_STAT_STATE 25) 4).wr SYS_DEV_ID_DEVID 2).lane 25) with rxq := rxOf 0 (payloads 5 (List.replicate 40 1)) }, 1, (List.replicate 40 1), [], by decide +kernel⟩,
   ⟨State.reset, 1, by decide⟩,
   ⟨((((State.reset.wr SADL_STAT_ROLE 2).set1 SADL_CFG_EN).wr (LANE_STAT_STATE 25) 4).wr SYS_DEV_ID_DEVID 2).setLane 25 { (((((State.reset.wr SADL_STAT_ROLE 2).set1 SADL_CFG_EN).wr (LANE_STAT_STATE 25) 4).wr SYS_DEV_ID_DEVID 2).lane 25) with rxq := rxOf 16 (payloads 11 (List.replicate 88 1)) }, 1, 1, (List.replicate 88 1), [], by decide +kernel⟩⟩

/-- States and operands that meet the hypotheses of SaddleLink. -/
theorem witness_SaddleLink_c :
    (∃ (s : State) (i : Fin 4) (j : Fin 8), (s.role = 0 ∨ (takePart (5 + 11 * j) 11 (s.lane (24 + i)).rxq).1 = none)) ∧
    (∃ (s : State) (i : Fin 4) (j : Fin 8) (b : List (BitVec 8)) (r : List (Nat × BitVec 64)), takePart (5 + 11 * j) 11 (s.lane (24 + i)).rxq = (some b, r) ∧ s.role ≠ 0 ∧ b.length = 88 ∧ scrcOk b ∧ fieldAt b 0 1 = 0) ∧
    (∃ (s : State) (i : Fin 4) (j : Fin 8) (b : List (BitVec 8)) (r : List (Nat × BitVec 64)), takePart (5 + 11 * j) 11 (s.lane (24 + i)).rxq = (some b, r) ∧ s.role ≠ 0 ∧ b.length = 88 ∧ scrcOk b ∧ fieldAt b 0 1 = 1) ∧
    (∃ (s : State) (i : Fin 4) (j : Fin 8) (b : List (BitVec 8)) (r : List (Nat × BitVec 64)), takePart (5 + 11 * j) 11 (s.lane (24 + i)).rxq = (some b, r) ∧ s.role ≠ 0 ∧ b.length = 88 ∧ scrcOk b ∧ fieldAt b 0 1 = 2 ∧ s.role = 2 ∧ s.pair.pdigs = [] ∧ (∀ q ∈ s.pair.digs, q.1 ≠ fieldAt b 2 4)) ∧
    (∃ (s : State) (i : Fin 4) (j : Fin 8) (b : List (BitVec 8)) (r : List (Nat × BitVec 64)) (c : Nat) (d : Nat), takePart (5 + 11 * j) 11 (s.lane (24 + i)).rxq = (some b, r) ∧ s.role ≠ 0 ∧ b.length = 88 ∧ scrcOk b ∧ fieldAt b 0 1 = 2 ∧ s.role = 2 ∧ s.pair.pdigs = [] ∧ s.pair.digs = [(fieldAt b 2 4, c, d)] ∧ (c = fieldAt b 6 4 ∧ d = fieldAt b 10 4)) ∧
    (∃ (s : State) (i : Fin 4) (j : Fin 8) (b : List (BitVec 8)) (r : List (Nat × BitVec 64)) (c : Nat) (d : Nat), takePart (5 + 11 * j) 11 (s.lane (24 + i)).rxq = (some b, r) ∧ s.role ≠ 0 ∧ b.length = 88 ∧ scrcOk b ∧ fieldAt b 0 1 = 2 ∧ s.role = 2 ∧ s.pair.pdigs = [] ∧ s.pair.digs = [(fieldAt b 2 4, c, d)] ∧ (c ≠ fieldAt b 6 4 ∨ d ≠ fieldAt b 10 4) ∧ s.pair.differ + 1 ≠ s.rd SADL_DIG_LIM) :=
  ⟨⟨State.reset, 1, 1, by decide⟩,
   ⟨((((State.reset.wr SADL_STAT_ROLE 2).set1 SADL_CFG_EN).wr (LANE_STAT_STATE 25) 4).wr SYS_DEV_ID_DEVID 2).setLane 25 { (((((State.reset.wr SADL_STAT_ROLE 2).set1 SADL_CFG_EN).wr (LANE_STAT_STATE 25) 4).wr SYS_DEV_ID_DEVID 2).lane 25) with rxq := rxOf 16 (payloads 11 (aSlot [0, 0, 7])) }, 1, 1, (aSlot [0, 0, 7]), [], by decide +kernel⟩,
   ⟨((((State.reset.wr SADL_STAT_ROLE 2).set1 SADL_CFG_EN).wr (LANE_STAT_STATE 25) 4).wr SYS_DEV_ID_DEVID 2).setLane 25 { (((((State.reset.wr SADL_STAT_ROLE 2).set1 SADL_CFG_EN).wr (LANE_STAT_STATE 25) 4).wr SYS_DEV_ID_DEVID 2).lane 25) with rxq := rxOf 16 (payloads 11 (aSlot ([1, 0, 7, 0, 0] ++ List.replicate 72 0xFF))) }, 1, 1, (aSlot ([1, 0, 7, 0, 0] ++ List.replicate 72 0xFF)), [], by decide +kernel⟩,
   ⟨((((State.reset.wr SADL_STAT_ROLE 2).set1 SADL_CFG_EN).wr (LANE_STAT_STATE 25) 4).wr SYS_DEV_ID_DEVID 2).setLane 25 { (((((State.reset.wr SADL_STAT_ROLE 2).set1 SADL_CFG_EN).wr (LANE_STAT_STATE 25) 4).wr SYS_DEV_ID_DEVID 2).lane 25) with rxq := rxOf 16 (payloads 11 (aSlot [2, 0, 7, 0, 0, 0, 1])) }, 1, 1, (aSlot [2, 0, 7, 0, 0, 0, 1]), [], by decide +kernel⟩,
   ⟨({ (((State.reset.wr SADL_STAT_ROLE 2).set1 SADL_CFG_EN).wr (LANE_STAT_STATE 25) 4).wr SYS_DEV_ID_DEVID 2 with pair := { digs := [(7, 1, 3)], differ := 2 } }).setLane 25 { (({ (((State.reset.wr SADL_STAT_ROLE 2).set1 SADL_CFG_EN).wr (LANE_STAT_STATE 25) 4).wr SYS_DEV_ID_DEVID 2 with pair := { digs := [(7, 1, 3)], differ := 2 } }).lane 25) with rxq := rxOf 16 (payloads 11 (aSlot [2, 0, 7, 0, 0, 0, 1, 0, 0, 0, 3])) }, 1, 1, (aSlot [2, 0, 7, 0, 0, 0, 1, 0, 0, 0, 3]), [], 1, 3, by decide +kernel⟩,
   ⟨(({ (((State.reset.wr SADL_STAT_ROLE 2).set1 SADL_CFG_EN).wr (LANE_STAT_STATE 25) 4).wr SYS_DEV_ID_DEVID 2 with pair := { digs := [(7, 1, 4)] } }).wr SADL_DIG_LIM 9).setLane 25 { ((({ (((State.reset.wr SADL_STAT_ROLE 2).set1 SADL_CFG_EN).wr (LANE_STAT_STATE 25) 4).wr SYS_DEV_ID_DEVID 2 with pair := { digs := [(7, 1, 4)] } }).wr SADL_DIG_LIM 9).lane 25) with rxq := rxOf 16 (payloads 11 (aSlot [2, 0, 7, 0, 0, 0, 1, 0, 0, 0, 3])) }, 1, 1, (aSlot [2, 0, 7, 0, 0, 0, 1, 0, 0, 0, 3]), [], 1, 4, by decide +kernel⟩⟩

/-- States and operands that meet the hypotheses of SaddleLink. -/
theorem witness_SaddleLink_d :
    (∃ (s : State) (i : Fin 4) (j : Fin 8) (b : List (BitVec 8)) (r : List (Nat × BitVec 64)) (c : Nat) (d : Nat), takePart (5 + 11 * j) 11 (s.lane (24 + i)).rxq = (some b, r) ∧ s.role ≠ 0 ∧ b.length = 88 ∧ scrcOk b ∧ fieldAt b 0 1 = 2 ∧ s.role = 2 ∧ s.pair.pdigs = [] ∧ s.pair.digs = [(fieldAt b 2 4, c, d)] ∧ (c ≠ fieldAt b 6 4 ∨ d ≠ fieldAt b 10 4) ∧ s.pair.differ + 1 = s.rd SADL_DIG_LIM) ∧
    (∃ (s : State) (i : Fin 4) (j : Fin 8) (b : List (BitVec 8)) (r : List (Nat × BitVec 64)), takePart (5 + 11 * j) 11 (s.lane (24 + i)).rxq = (some b, r) ∧ s.role ≠ 0 ∧ b.length = 88 ∧ scrcOk b ∧ fieldAt b 0 1 = 2 ∧ s.role ≠ 2) ∧
    (∃ (s : State) (i : Fin 4) (j : Fin 8) (b : List (BitVec 8)) (r : List (Nat × BitVec 64)), takePart (5 + 11 * j) 11 (s.lane (24 + i)).rxq = (some b, r) ∧ s.role ≠ 0 ∧ b.length = 88 ∧ scrcOk b ∧ fieldAt b 0 1 = 3 ∧ s.role ≠ 3 ∧ s.pair.asm = [] ∧ 8 < s.rd (SADL_MIR_LEN (fieldAt b 3 1))) ∧
    (∃ (s : State) (i : Fin 4) (j : Fin 8) (b : List (BitVec 8)) (r : List (Nat × BitVec 64)), takePart (5 + 11 * j) 11 (s.lane (24 + i)).rxq = (some b, r) ∧ s.role ≠ 0 ∧ b.length = 88 ∧ scrcOk b ∧ fieldAt b 0 1 = 3 ∧ s.role ≠ 3 ∧ s.pair.asm = [] ∧ s.rd (SADL_MIR_LEN (fieldAt b 3 1)) ≤ 8 ∧ (s.eng (fieldAt b 2 1 % 16)).mirror = []) ∧
    (∃ (s : State) (i : Fin 4) (j : Fin 8) (b : List (BitVec 8)) (r : List (Nat × BitVec 64)), takePart (5 + 11 * j) 11 (s.lane (24 + i)).rxq = (some b, r) ∧ s.role ≠ 0 ∧ b.length = 88 ∧ scrcOk b ∧ fieldAt b 0 1 = 4 ∧ s.role ≠ 3 ∧ fieldAt b 2 1 = 1) ∧
    (∃ (s : State) (i : Fin 4) (j : Fin 8) (b : List (BitVec 8)) (r : List (Nat × BitVec 64)), takePart (5 + 11 * j) 11 (s.lane (24 + i)).rxq = (some b, r) ∧ s.role ≠ 0 ∧ b.length = 88 ∧ scrcOk b ∧ fieldAt b 0 1 = 5 ∧ s.role ≠ 3 ∧ fieldAt b 2 1 = 1) :=
  ⟨⟨(({ (((State.reset.wr SADL_STAT_ROLE 2).set1 SADL_CFG_EN).wr (LANE_STAT_STATE 25) 4).wr SYS_DEV_ID_DEVID 2 with pair := { digs := [(7, 1, 4)] } }).wr SADL_DIG_LIM 1).setLane 25 { ((({ (((State.reset.wr SADL_STAT_ROLE 2).set1 SADL_CFG_EN).wr (LANE_STAT_STATE 25) 4).wr SYS_DEV_ID_DEVID 2 with pair := { digs := [(7, 1, 4)] } }).wr SADL_DIG_LIM 1).lane 25) with rxq := rxOf 16 (payloads 11 (aSlot [2, 0, 7, 0, 0, 0, 1, 0, 0, 0, 3])) }, 1, 1, (aSlot [2, 0, 7, 0, 0, 0, 1, 0, 0, 0, 3]), [], 1, 4, by decide +kernel⟩,
   ⟨((((State.reset.wr SADL_STAT_ROLE 3).set1 SADL_CFG_EN).wr (LANE_STAT_STATE 25) 4).wr SYS_DEV_ID_DEVID 2).setLane 25 { (((((State.reset.wr SADL_STAT_ROLE 3).set1 SADL_CFG_EN).wr (LANE_STAT_STATE 25) 4).wr SYS_DEV_ID_DEVID 2).lane 25) with rxq := rxOf 16 (payloads 11 (aSlot [2, 0, 7, 0, 0, 0, 1])) }, 1, 1, (aSlot [2, 0, 7, 0, 0, 0, 1]), [], by decide +kernel⟩,
   ⟨(((((State.reset.wr SADL_STAT_ROLE 2).set1 SADL_CFG_EN).wr (LANE_STAT_STATE 25) 4).wr SYS_DEV_ID_DEVID 2).wr (SADL_MIR_LEN 3) 20).setLane 25 { ((((((State.reset.wr SADL_STAT_ROLE 2).set1 SADL_CFG_EN).wr (LANE_STAT_STATE 25) 4).wr SYS_DEV_ID_DEVID 2).wr (SADL_MIR_LEN 3) 20).lane 25) with rxq := rxOf 16 (payloads 11 (aSlot [3, 0, 0x25, 3, 16, 0, 8, 0, 9])) }, 1, 1, (aSlot [3, 0, 0x25, 3, 16, 0, 8, 0, 9]), [], by decide +kernel⟩,
   ⟨(((((State.reset.wr SADL_STAT_ROLE 2).set1 SADL_CFG_EN).wr (LANE_STAT_STATE 25) 4).wr SYS_DEV_ID_DEVID 2).wr (SADL_MIR_LEN 3) 8).setLane 25 { ((((((State.reset.wr SADL_STAT_ROLE 2).set1 SADL_CFG_EN).wr (LANE_STAT_STATE 25) 4).wr SYS_DEV_ID_DEVID 2).wr (SADL_MIR_LEN 3) 8).lane 25) with rxq := rxOf 16 (payloads 11 (aSlot [3, 0, 0x25, 3, 16, 0, 8, 0, 9])) }, 1, 1, (aSlot [3, 0, 0x25, 3, 16, 0, 8, 0, 9]), [], by decide +kernel⟩,
   ⟨((((State.reset.wr SADL_STAT_ROLE 2).set1 SADL_CFG_EN).wr (LANE_STAT_STATE 25) 4).wr SYS_DEV_ID_DEVID 2).setLane 25 { (((((State.reset.wr SADL_STAT_ROLE 2).set1 SADL_CFG_EN).wr (LANE_STAT_STATE 25) 4).wr SYS_DEV_ID_DEVID 2).lane 25) with rxq := rxOf 16 (payloads 11 (aSlot [4, 0, 1, 0, 5, 1, 0, 0, 9])) }, 1, 1, (aSlot [4, 0, 1, 0, 5, 1, 0, 0, 9]), [], by decide +kernel⟩,
   ⟨((((State.reset.wr SADL_STAT_ROLE 2).set1 SADL_CFG_EN).wr (LANE_STAT_STATE 25) 4).wr SYS_DEV_ID_DEVID 2).setLane 25 { (((((State.reset.wr SADL_STAT_ROLE 2).set1 SADL_CFG_EN).wr (LANE_STAT_STATE 25) 4).wr SYS_DEV_ID_DEVID 2).lane 25) with rxq := rxOf 16 (payloads 11 (aSlot [5, 0, 1, 0, 33, 7])) }, 1, 1, (aSlot [5, 0, 1, 0, 33, 7]), [], by decide +kernel⟩⟩

/-- States and operands that meet the hypotheses of SaddleLink. -/
theorem witness_SaddleLink_e :
    (∃ (s : State) (i : Fin 4) (j : Fin 8) (b : List (BitVec 8)) (r : List (Nat × BitVec 64)), takePart (5 + 11 * j) 11 (s.lane (24 + i)).rxq = (some b, r) ∧ s.role ≠ 0 ∧ b.length = 88 ∧ scrcOk b ∧ fieldAt b 0 1 = 5 ∧ s.role ≠ 3 ∧ fieldAt b 2 1 = 2) ∧
    (∃ (s : State) (i : Fin 4) (j : Fin 8) (b : List (BitVec 8)) (r : List (Nat × BitVec 64)), takePart (5 + 11 * j) 11 (s.lane (24 + i)).rxq = (some b, r) ∧ s.role ≠ 0 ∧ b.length = 88 ∧ scrcOk b ∧ fieldAt b 0 1 = 6 ∧ s.role ≠ 3) ∧
    (∃ (s : State) (i : Fin 4) (j : Fin 8) (b : List (BitVec 8)) (r : List (Nat × BitVec 64)), takePart (5 + 11 * j) 11 (s.lane (24 + i)).rxq = (some b, r) ∧ s.role ≠ 0 ∧ b.length = 88 ∧ scrcOk b ∧ 3 ≤ fieldAt b 0 1 ∧ fieldAt b 0 1 ≤ 6 ∧ s.role = 3) ∧
    (∃ (s : State), s.on SADL_STAT_HB_OK ∧ s.rd SADL_CFG_HB_MISS < s.pair.hbAge ∧ s.pairReady = false) ∧
    (∃ (s : State) (n : Fin 24), s.on SADL_STAT_HB_OK ∧ s.rd SADL_CFG_HB_MISS < s.pair.hbAge ∧ s.pairReady ∧ (∀ n ∈ s.serving, s.pStopped n = false) ∧ n.val ∈ s.serving ∧ (s.chain n).pmiss = 0 ∧ (s.chain n).pact) ∧
    (∃ (s : State), s.on SADL_STAT_HB_OK ∧ s.rd SADL_CFG_HB_MISS < s.pair.hbAge ∧ s.pairReady ∧ (∀ n ∈ s.serving, s.pStopped n = false) ∧ (∀ n ∈ s.serving, 1 ≤ (s.chain n).pmiss ∨ (s.chain n).pact = false)) :=
  ⟨⟨((((State.reset.wr SADL_STAT_ROLE 2).set1 SADL_CFG_EN).wr (LANE_STAT_STATE 25) 4).wr SYS_DEV_ID_DEVID 2).setLane 25 { (((((State.reset.wr SADL_STAT_ROLE 2).set1 SADL_CFG_EN).wr (LANE_STAT_STATE 25) 4).wr SYS_DEV_ID_DEVID 2).lane 25) with rxq := rxOf 16 (payloads 11 (aSlot [5, 0, 2, 0, 33, 7])) }, 1, 1, (aSlot [5, 0, 2, 0, 33, 7]), [], by decide +kernel⟩,
   ⟨((((State.reset.wr SADL_STAT_ROLE 2).set1 SADL_CFG_EN).wr (LANE_STAT_STATE 25) 4).wr SYS_DEV_ID_DEVID 2).setLane 25 { (((((State.reset.wr SADL_STAT_ROLE 2).set1 SADL_CFG_EN).wr (LANE_STAT_STATE 25) 4).wr SYS_DEV_ID_DEVID 2).lane 25) with rxq := rxOf 16 (payloads 11 (aSlot [6, 1, 1, 0, 33, 7])) }, 1, 1, (aSlot [6, 1, 1, 0, 33, 7]), [], by decide +kernel⟩,
   ⟨((((State.reset.wr SADL_STAT_ROLE 3).set1 SADL_CFG_EN).wr (LANE_STAT_STATE 25) 4).wr SYS_DEV_ID_DEVID 2).setLane 25 { (((((State.reset.wr SADL_STAT_ROLE 3).set1 SADL_CFG_EN).wr (LANE_STAT_STATE 25) 4).wr SYS_DEV_ID_DEVID 2).lane 25) with rxq := rxOf 16 (payloads 11 (aSlot [5, 0, 1, 0, 33, 7])) }, 1, 1, (aSlot [5, 0, 1, 0, 33, 7]), [], by decide +kernel⟩,
   ⟨({ (((State.reset.wr SADL_STAT_ROLE 2).set1 SADL_CFG_EN).wr (LANE_STAT_STATE 25) 4).wr SYS_DEV_ID_DEVID 2 with pair := { hbAge := 9 } }).set1 SADL_STAT_HB_OK, by decide⟩,
   ⟨((((({ powered with pair := { hbAge := 9 } }).wr SADL_STAT_ROLE 2).set1 SADL_STAT_HB_OK).set1 SADL_CFG_TKO_EN).wr SYS_DEV_STATE_STATE 2).wr SADL_CFG_MISS 3 |>.wr (CHAIN_CFG_TOPO 4) 2 |>.setChain 4 { pmiss := 0, pact := true }, 4, by decide +kernel⟩,
   ⟨((((({ powered with pair := { hbAge := 9 } }).wr SADL_STAT_ROLE 2).set1 SADL_STAT_HB_OK).set1 SADL_CFG_TKO_EN).wr SYS_DEV_STATE_STATE 2).wr SADL_CFG_MISS 3 |>.wr (CHAIN_CFG_TOPO 4) 2 |>.setChain 4 { pmiss := 1, pact := false }, by decide +kernel⟩⟩

/-- States and operands that meet the hypotheses of SaddleLink. -/
theorem witness_SaddleLink_f :
    (∃ (s : State) (n : Fin 24), s.on SADL_STAT_HB_OK ∧ s.rd SADL_CFG_HB_MISS < s.pair.hbAge ∧ s.pairReady ∧ s.on SADL_STAT_HOLD_ACT = false ∧ n.val ∈ s.serving ∧ s.pStopped n ∧ (∀ m ∈ s.serving, m < n → s.pStopped m = false)) ∧
    (∃ (s : State), (s.on SADL_STAT_HB_OK = false ∨ s.pair.hbAge ≤ s.rd SADL_CFG_HB_MISS)) ∧
    (∃ (s : State), s.inRun = false ∧ s.on SADL_CFG_EN = false) ∧
    (∃ (s : State), s.inRun ∧ s.on SADL_CFG_EN = false) ∧
    (∃ (s : State), s.on SADL_CFG_EN) ∧
    (∃ (s : State), s.inRun = false ∧ s.on SADL_CFG_EN) :=
  ⟨⟨((((({ powered with pair := { hbAge := 9 } }).wr SADL_STAT_ROLE 2).set1 SADL_STAT_HB_OK).set1 SADL_CFG_TKO_EN).wr SYS_DEV_STATE_STATE 2).wr SADL_CFG_MISS 3 |>.wr (CHAIN_CFG_TOPO 4) 2 |>.setChain 4 { pmiss := 5, pact := false }, 4, by decide +kernel⟩,
   ⟨State.reset, by decide⟩,
   ⟨State.reset, by decide⟩,
   ⟨State.reset.wr SYS_DEV_STATE_STATE 3, by decide⟩,
   ⟨State.reset.set1 SADL_CFG_EN, by decide⟩,
   ⟨State.reset.set1 SADL_CFG_EN, by decide⟩⟩

/-- States and operands that meet the hypotheses of SaddleLink. -/
theorem witness_SaddleLink_g :
    (∃ (s : State), s.inRun ∧ s.on SADL_CFG_EN) ∧
    (∃ (s : State), s.on SADL_CFG_EN = false) ∧
    (∃ (s : State), (((s.role = 1 ∨ s.role = 2) ∧ (s.dev = 2 ∨ s.dev = 3) ∧ s.powerSet ∧ (s.role = 2 ∨ s.pair.sameId = false) ∧ (3 < s.pair.actAge ∨ s.on SADL_STAT_YIELD_RX))) ∧ s.pair.planIn = []) ∧
    (∃ (s : State), (((s.role = 1 ∨ s.role = 2) ∧ (s.dev = 2 ∨ s.dev = 3) ∧ s.powerSet ∧ (s.role = 2 ∨ s.pair.sameId = false) ∧ (3 < s.pair.actAge ∨ s.on SADL_STAT_YIELD_RX)))) ∧
    (∃ (s : State), (¬ ((s.role = 1 ∨ s.role = 2) ∧ (s.dev = 2 ∨ s.dev = 3) ∧ s.powerSet ∧ (s.role = 2 ∨ s.pair.sameId = false) ∧ (3 < s.pair.actAge ∨ s.on SADL_STAT_YIELD_RX)))) ∧
    (∃ (s : State), s.role = 3) :=
  ⟨⟨(State.reset.wr SYS_DEV_STATE_STATE 3).set1 SADL_CFG_EN, by decide⟩,
   ⟨State.reset, by decide⟩,
   ⟨((powered.wr SYS_DEV_STATE_STATE 2).wr SADL_STAT_ROLE 2), by decide⟩,
   ⟨((powered.wr SYS_DEV_STATE_STATE 2).wr SADL_STAT_ROLE 2), by decide⟩,
   ⟨State.reset, by decide⟩,
   ⟨State.reset.wr SADL_STAT_ROLE 3, by decide⟩⟩

/-- States and operands that meet the hypotheses of SaddleLink. -/
theorem witness_SaddleLink_h :
    (∃ (s : State), s.role ≠ 3) ∧
    (∃ (s : State), s.on SADL_STAT_HOLD_ACT ∧ s.pairReady = false) ∧
    (∃ (s : State), s.on SADL_STAT_HOLD_ACT ∧ s.pairReady) ∧
    (∃ (s : State), s.on SADL_STAT_HOLD_ACT = false) :=
  ⟨⟨State.reset, by decide +kernel⟩,
   ⟨State.reset.set1 SADL_STAT_HOLD_ACT, by decide⟩,
   ⟨((((powered.wr SYS_DEV_STATE_STATE 2).wr SADL_STAT_ROLE 2).set1 SADL_STAT_HOLD_ACT).wr SADL_CFG_TKO_EN 1), by decide +kernel⟩,
   ⟨State.reset, by decide +kernel⟩⟩

/-- States and operands that meet the hypotheses of CanObjects. -/
theorem witness_CanObjects_a :
    (∃ (s : State) (m : Fin 4) (o : Fin 64), s.on (CAN_OBJ_OCFG_EN m o) ∧ s.on (CAN_OBJ_OCFG_DIR m o) ∧ s.on (CAN_OBJ_TXS_TXREQ m o) = false) ∧
    (∃ (s : State) (m : Fin 4) (o : Fin 64), (s.on (CAN_OBJ_OCFG_EN m o) = false ∨ s.on (CAN_OBJ_OCFG_DIR m o) = false ∨ s.on (CAN_OBJ_TXS_TXREQ m o))) ∧
    (∃ (s : State) (m : Fin 4) (o : Fin 64), s.on (CAN_OBJ_TXS_TXREQ m o) ∧ s.canOn m) ∧
    (∃ (s : State) (m : Fin 4) (o : Fin 64) (k : Bool), s.on (CAN_OBJ_TXS_TXREQ m o) ∧ (k = false ∨ s.canOn m = false)) ∧
    (∃ (s : State) (m : Fin 4) (o : Fin 64), s.on (CAN_OBJ_TXS_TXREQ m o) = false) ∧
    (∃ (s : State) (m : Fin 4) (o : Fin 64) (f : CanFrame), s.canOn m ∧ (f.fdf = false ∨ s.on (CAN_CTL_FDOE m)) ∧ s.canMatch m f = some o.val) :=
  ⟨⟨(((((State.reset.wr (ENG_STAT_STATE 16) 1).wr (CAN_STAT_STATE 2) 1).wr (CAN_OBJ_OCFG_EN 2 5) 1).wr (CAN_OBJ_OCFG_DIR 2 5) 1).setCan 2 { cands := [5] }), 2, 5, by decide⟩,
   ⟨(((((State.reset.wr (ENG_STAT_STATE 16) 1).wr (CAN_STAT_STATE 2) 1).wr (CAN_OBJ_OCFG_EN 2 5) 1).wr (CAN_OBJ_OCFG_DIR 2 5) 0).setCan 2 { cands := [5] }), 2, 5, by decide⟩,
   ⟨((((((State.reset.wr (ENG_STAT_STATE 16) 1).wr (CAN_STAT_STATE 2) 1).wr (CAN_OBJ_OCFG_EN 2 5) 1).wr (CAN_OBJ_OCFG_DIR 2 5) 1).setCan 2 { cands := [5] })).set1 (CAN_OBJ_TXS_TXREQ 2 5), 2, 5, by decide⟩,
   ⟨((((((State.reset.wr (ENG_STAT_STATE 16) 1).wr (CAN_STAT_STATE 2) 1).wr (CAN_OBJ_OCFG_EN 2 5) 1).wr (CAN_OBJ_OCFG_DIR 2 5) 1).setCan 2 { cands := [5] })).set1 (CAN_OBJ_TXS_TXREQ 2 5), 2, 5, false, by decide⟩,
   ⟨State.reset, 2, 5, by decide⟩,
   ⟨((((((State.reset.wr (ENG_STAT_STATE 16) 1).wr (CAN_STAT_STATE 2) 1).wr (CAN_OBJ_OCFG_EN 2 5) 1).wr (CAN_OBJ_OCFG_DIR 2 5) 0).setCan 2 { cands := [5] })).wr (CAN_OBJ_OID_ID 2 5) (0x123 <<< 18), 2, 5, { id := 0x123 <<< 18, xtd := false, fdf := false, brs := false, esi := false, rtr := false, dlc := 2, data := [1, 2] }, by decide⟩⟩

/-- States and operands that meet the hypotheses of CanObjects. -/
theorem witness_CanObjects_b :
    (∃ (s : State) (m : Fin 4) (o : Fin 64) (f : CanFrame), s.canOn m ∧ (f.fdf = false ∨ s.on (CAN_CTL_FDOE m)) ∧ s.canMatch m f = some o.val ∧ s.on (CAN_OBJ_RXS_NEWDAT m o) ∧ s.rd (CAN_STAT_STATE m) = 1 ∧ s.rd (CAN_ECNT_TEC m) < 128 ∧ s.on (CAN_ECNT_RP m) = false) ∧
    (∃ (s : State) (m : Fin 4) (f : CanFrame), s.canOn m ∧ (f.fdf = false ∨ s.on (CAN_CTL_FDOE m)) ∧ s.canMatch m f = none) ∧
    (∃ (s : State) (m : Fin 4) (f : CanFrame), s.canOn m ∧ (f.fdf = false ∨ s.on (CAN_CTL_FDOE m)) ∧ s.on (CAN_ECNT_RP m) = false ∧ s.rd (CAN_ECNT_TEC m) < 128) ∧
    (∃ (s : State) (m : Fin 4) (f : CanFrame), s.canOn m ∧ (f.fdf = false ∨ s.on (CAN_CTL_FDOE m)) ∧ s.on (CAN_ECNT_RP m)) ∧
    (∃ (s : State) (m : Fin 4) (f : CanFrame), (s.canOn m = false ∨ (f.fdf ∧ s.on (CAN_CTL_FDOE m) = false))) ∧
    (∃ (s : State) (m : Fin 4) (o : Fin 64), s.canOn m ∧ s.rd (CAN_CTL_MODE m) ≠ 1 ∧ s.on (CAN_OBJ_TXS_TXREQ m o) ∧ o.val ∈ (s.can m).cands ∧ s.rd (CAN_CTL_MODE m) ≠ 2) :=
  ⟨⟨(((((((State.reset.wr (ENG_STAT_STATE 16) 1).wr (CAN_STAT_STATE 2) 1).wr (CAN_OBJ_OCFG_EN 2 5) 1).wr (CAN_OBJ_OCFG_DIR 2 5) 0).setCan 2 { cands := [5] })).wr (CAN_OBJ_OID_ID 2 5) (0x123 <<< 18)).set1 (CAN_OBJ_RXS_NEWDAT 2 5), 2, 5, { id := 0x123 <<< 18, xtd := false, fdf := false, brs := false, esi := false, rtr := false, dlc := 2, data := [1, 2] }, by decide⟩,
   ⟨(State.reset.wr (ENG_STAT_STATE 16) 1).wr (CAN_STAT_STATE 2) 1, 2, { id := 0x123 <<< 18, xtd := false, fdf := false, brs := false, esi := false, rtr := false, dlc := 2, data := [1, 2] }, by decide⟩,
   ⟨((State.reset.wr (ENG_STAT_STATE 16) 1).wr (CAN_STAT_STATE 2) 1).wr (CAN_ECNT_REC 2) 5, 2, { id := 0x123 <<< 18, xtd := false, fdf := false, brs := false, esi := false, rtr := false, dlc := 2, data := [1, 2] }, by decide⟩,
   ⟨((State.reset.wr (ENG_STAT_STATE 16) 1).wr (CAN_STAT_STATE 2) 2).set1 (CAN_ECNT_RP 2), 2, { id := 0x123 <<< 18, xtd := false, fdf := false, brs := false, esi := false, rtr := false, dlc := 2, data := [1, 2] }, by decide⟩,
   ⟨State.reset, 2, { id := 0x123 <<< 18, xtd := false, fdf := false, brs := false, esi := false, rtr := false, dlc := 2, data := [1, 2] }, by decide⟩,
   ⟨((((((State.reset.wr (ENG_STAT_STATE 16) 1).wr (CAN_STAT_STATE 2) 1).wr (CAN_OBJ_OCFG_EN 2 5) 1).wr (CAN_OBJ_OCFG_DIR 2 5) 1).setCan 2 { cands := [5] })).set1 (CAN_OBJ_TXS_TXREQ 2 5), 2, 5, by decide⟩⟩

/-- States and operands that meet the hypotheses of CanObjects. -/
theorem witness_CanObjects_c :
    (∃ (s : State) (m : Fin 4) (o : Fin 64), s.canOn m ∧ s.rd (CAN_CTL_MODE m) ≠ 1 ∧ s.on (CAN_OBJ_TXS_TXREQ m o) ∧ o.val ∈ (s.can m).cands ∧ s.rd (CAN_CTL_MODE m) = 2 ∧ s.canMatch m (s.canOwn m o) = none) ∧
    (∃ (s : State) (m : Fin 4) (o : Fin 64) (q : Fin 64), s.canOn m ∧ s.rd (CAN_CTL_MODE m) ≠ 1 ∧ s.on (CAN_OBJ_TXS_TXREQ m o) ∧ o.val ∈ (s.can m).cands ∧ s.rd (CAN_CTL_MODE m) = 2 ∧ s.canMatch m (s.canOwn m o) = some q.val) ∧
    (∃ (s : State) (m : Fin 4) (o : Fin 64) (d : Nat), s.canOn m ∧ s.rd (CAN_CTL_MODE m) ≠ 1 ∧ s.on (CAN_OBJ_TXS_TXREQ m o) ∧ o.val ∈ (s.can m).cands ∧ s.rd (CAN_CTL_MODE m) ≠ 2 ∧ s.on (CAN_TDC_EN m) ∧ (s.canOwn m o).brs ∧ s.rd (CAN_TDC_TDCF m) ≤ d) ∧
    (∃ (s : State) (m : Fin 4) (o : Fin 64), (s.canOn m = false ∨ s.rd (CAN_CTL_MODE m) = 1 ∨ s.on (CAN_OBJ_TXS_TXREQ m o) = false ∨ o.val ∉ (s.can m).cands)) ∧
    (∃ (s : State) (m : Fin 4), (s.on (CAN_TSC_EN m) = false ∨ (s.can m).frozen)) ∧
    (∃ (s : State) (m : Fin 4), s.on (CAN_TSC_EN m) ∧ (s.can m).frozen = false) :=
  ⟨⟨(((((((State.reset.wr (ENG_STAT_STATE 16) 1).wr (CAN_STAT_STATE 2) 1).wr (CAN_OBJ_OCFG_EN 2 5) 1).wr (CAN_OBJ_OCFG_DIR 2 5) 1).setCan 2 { cands := [5] })).set1 (CAN_OBJ_TXS_TXREQ 2 5)).wr (CAN_CTL_MODE 2) 2, 2, 5, by decide⟩,
   ⟨((((((((State.reset.wr (ENG_STAT_STATE 16) 1).wr (CAN_STAT_STATE 2) 1).wr (CAN_OBJ_OCFG_EN 2 5) 1).wr (CAN_OBJ_OCFG_DIR 2 5) 1).setCan 2 { cands := [5] })).set1 (CAN_OBJ_TXS_TXREQ 2 5)).wr (CAN_CTL_MODE 2) 2).wr (CAN_OBJ_OCFG_EN 2 6) 1, 2, 5, 6, by decide⟩,
   ⟨(((((((((((State.reset.wr (ENG_STAT_STATE 16) 1).wr (CAN_STAT_STATE 2) 1).wr (CAN_OBJ_OCFG_EN 2 5) 1).wr (CAN_OBJ_OCFG_DIR 2 5) 1).setCan 2 { cands := [5] })).set1 (CAN_OBJ_TXS_TXREQ 2 5)).set1 (CAN_TDC_EN 2)).set1 (CAN_CTL_FDOE 2)).set1 (CAN_CTL_BRSE 2)).set1 (CAN_OBJ_OCFG_FDF 2 5)).set1 (CAN_OBJ_OCFG_BRS 2 5), 2, 5, 9, by decide⟩,
   ⟨State.reset, 2, 5, by decide⟩,
   ⟨State.reset, 2, by decide⟩,
   ⟨State.reset.set1 (CAN_TSC_EN 2), 2, by decide⟩⟩

/-- States and operands that meet the hypotheses of CanObjects. -/
theorem witness_CanObjects_d :
    (∃ (s : State) (m : Fin 4), s.canOn m ∧ s.rd (CAN_ECNT_REC m) ≤ 126) ∧
    (∃ (s : State) (m : Fin 4), s.canOn m ∧ s.rd (CAN_ECNT_REC m) ≤ 119) ∧
    (∃ (s : State) (m : Fin 4) (b : Bool), s.canOn m ∧ 128 ≤ s.rd (CAN_ECNT_REC m) + (if b then 8 else 1) ∧ s.rd (CAN_STAT_STATE m) = 1) ∧
    (∃ (s : State) (m : Fin 4), s.canOn m ∧ s.on (CAN_CTL_PXHD m) = false) ∧
    (∃ (s : State) (m : Fin 4), s.canOn m ∧ s.on (CAN_CTL_PXHD m) ∧ s.rd (CAN_ECNT_REC m) ≤ 126) ∧
    (∃ (s : State) (m : Fin 4), s.canOn m = false) :=
  ⟨⟨(((((State.reset.wr (ENG_STAT_STATE 16) 1).wr (CAN_STAT_STATE 2) 1).wr (CAN_OBJ_OCFG_EN 2 5) 1).wr (CAN_OBJ_OCFG_DIR 2 5) 1).setCan 2 { cands := [5] }), 2, by decide⟩,
   ⟨(((((State.reset.wr (ENG_STAT_STATE 16) 1).wr (CAN_STAT_STATE 2) 1).wr (CAN_OBJ_OCFG_EN 2 5) 1).wr (CAN_OBJ_OCFG_DIR 2 5) 1).setCan 2 { cands := [5] }), 2, by decide⟩,
   ⟨((((((State.reset.wr (ENG_STAT_STATE 16) 1).wr (CAN_STAT_STATE 2) 1).wr (CAN_OBJ_OCFG_EN 2 5) 1).wr (CAN_OBJ_OCFG_DIR 2 5) 1).setCan 2 { cands := [5] })).wr (CAN_ECNT_REC 2) 123, 2, true, by decide⟩,
   ⟨(((((State.reset.wr (ENG_STAT_STATE 16) 1).wr (CAN_STAT_STATE 2) 1).wr (CAN_OBJ_OCFG_EN 2 5) 1).wr (CAN_OBJ_OCFG_DIR 2 5) 1).setCan 2 { cands := [5] }), 2, by decide⟩,
   ⟨((((((State.reset.wr (ENG_STAT_STATE 16) 1).wr (CAN_STAT_STATE 2) 1).wr (CAN_OBJ_OCFG_EN 2 5) 1).wr (CAN_OBJ_OCFG_DIR 2 5) 1).setCan 2 { cands := [5] })).set1 (CAN_CTL_PXHD 2), 2, by decide⟩,
   ⟨State.reset, 2, by decide⟩⟩

/-- States and operands that meet the hypotheses of CanObjects. -/
theorem witness_CanObjects_e :
    (∃ (s : State) (m : Fin 4) (o : Fin 64), s.canOn m ∧ s.rd (CAN_CTL_MODE m) ≠ 1 ∧ s.on (CAN_OBJ_TXS_TXREQ m o) ∧ o.val ∈ (s.can m).cands ∧ s.on (CAN_OBJ_TXS_CANC_PEND m o) = false) ∧
    (∃ (s : State) (m : Fin 4) (o : Fin 64), s.canOn m ∧ s.rd (CAN_CTL_MODE m) ≠ 1 ∧ s.on (CAN_OBJ_TXS_TXREQ m o) ∧ o.val ∈ (s.can m).cands ∧ s.on (CAN_OBJ_TXS_CANC_PEND m o) = false) ∧
    (∃ (s : State) (m : Fin 4) (o : Fin 64) (x : Bool) (q : Bool), s.canOn m ∧ s.rd (CAN_CTL_MODE m) ≠ 1 ∧ s.on (CAN_OBJ_TXS_TXREQ m o) ∧ o.val ∈ (s.can m).cands ∧ s.on (CAN_OBJ_TXS_CANC_PEND m o) ∧ (x ∨ q)) ∧
    (∃ (s : State) (m : Fin 4) (o : Fin 64), s.canOn m ∧ s.rd (CAN_CTL_MODE m) ≠ 1 ∧ s.on (CAN_OBJ_TXS_TXREQ m o) ∧ o.val ∈ (s.can m).cands ∧ s.on (CAN_OBJ_TXS_CANC_PEND m o) = false ∧ s.rd (CAN_ECNT_TEC m) < 248) ∧
    (∃ (s : State) (m : Fin 4) (o : Fin 64), s.canOn m ∧ s.rd (CAN_CTL_MODE m) ≠ 1 ∧ s.on (CAN_OBJ_TXS_TXREQ m o) ∧ o.val ∈ (s.can m).cands ∧ s.on (CAN_OBJ_TXS_CANC_PEND m o) = false ∧ 248 ≤ s.rd (CAN_ECNT_TEC m)) ∧
    (∃ (s : State) (m : Fin 4) (o : Fin 64), (s.canOn m = false ∨ s.rd (CAN_CTL_MODE m) = 1 ∨ s.on (CAN_OBJ_TXS_TXREQ m o) = false ∨ o.val ∉ (s.can m).cands)) :=
  ⟨⟨((((((State.reset.wr (ENG_STAT_STATE 16) 1).wr (CAN_STAT_STATE 2) 1).wr (CAN_OBJ_OCFG_EN 2 5) 1).wr (CAN_OBJ_OCFG_DIR 2 5) 1).setCan 2 { cands := [5] })).set1 (CAN_OBJ_TXS_TXREQ 2 5), 2, 5, by decide⟩,
   ⟨((((((State.reset.wr (ENG_STAT_STATE 16) 1).wr (CAN_STAT_STATE 2) 1).wr (CAN_OBJ_OCFG_EN 2 5) 1).wr (CAN_OBJ_OCFG_DIR 2 5) 1).setCan 2 { cands := [5] })).set1 (CAN_OBJ_TXS_TXREQ 2 5), 2, 5, by decide⟩,
   ⟨(((((((State.reset.wr (ENG_STAT_STATE 16) 1).wr (CAN_STAT_STATE 2) 1).wr (CAN_OBJ_OCFG_EN 2 5) 1).wr (CAN_OBJ_OCFG_DIR 2 5) 1).setCan 2 { cands := [5] })).set1 (CAN_OBJ_TXS_TXREQ 2 5)).set1 (CAN_OBJ_TXS_CANC_PEND 2 5), 2, 5, true, false, by decide⟩,
   ⟨((((((State.reset.wr (ENG_STAT_STATE 16) 1).wr (CAN_STAT_STATE 2) 1).wr (CAN_OBJ_OCFG_EN 2 5) 1).wr (CAN_OBJ_OCFG_DIR 2 5) 1).setCan 2 { cands := [5] })).set1 (CAN_OBJ_TXS_TXREQ 2 5), 2, 5, by decide⟩,
   ⟨(((((((State.reset.wr (ENG_STAT_STATE 16) 1).wr (CAN_STAT_STATE 2) 1).wr (CAN_OBJ_OCFG_EN 2 5) 1).wr (CAN_OBJ_OCFG_DIR 2 5) 1).setCan 2 { cands := [5] })).set1 (CAN_OBJ_TXS_TXREQ 2 5)).wr (CAN_ECNT_TEC 2) 250, 2, 5, by decide⟩,
   ⟨State.reset, 2, 5, by decide⟩⟩

/-- States and operands that meet the hypotheses of CanObjects. -/
theorem witness_CanObjects_f :
    (∃ (s : State) (m : Fin 4), s.rd (CAN_STAT_STATE m) = 3 ∧ s.on (CAN_STAT_RECOV m) = false ∧ (s.can m).frozen = false) ∧
    (∃ (s : State) (m : Fin 4), (s.rd (CAN_STAT_STATE m) ≠ 3 ∨ s.on (CAN_STAT_RECOV m) ∨ (s.can m).frozen)) ∧
    (∃ (s : State) (m : Fin 4), s.asterRuns ∧ s.rd (CAN_STAT_STATE m) = 3 ∧ s.on (CAN_STAT_RECOV m) ∧ (s.can m).frozen = false) ∧
    (∃ (s : State) (m : Fin 4), (s.asterRuns = false ∨ s.rd (CAN_STAT_STATE m) ≠ 3 ∨ s.on (CAN_STAT_RECOV m) = false ∨ (s.can m).frozen)) ∧
    (∃ (s : State) (m : Fin 4), s.on (CAN_CTL_INIT m) ∧ (s.can m).frozen = false ∧ s.rd (CAN_ECNT_TEC m) < 128 ∧ s.on (CAN_ECNT_RP m) = false ∧ (s.can m).off = false ∧ s.samIgnored m = false) ∧
    (∃ (s : State) (m : Fin 4), s.on (CAN_CTL_INIT m) ∧ (s.can m).frozen = false ∧ s.rd (CAN_ECNT_TEC m) < 128 ∧ s.on (CAN_ECNT_RP m) = false ∧ (s.can m).off = false ∧ s.samIgnored m) :=
  ⟨⟨State.reset.wr (CAN_STAT_STATE 2) 3, 2, by decide⟩,
   ⟨State.reset, 2, by decide⟩,
   ⟨((State.reset.wr (ENG_STAT_STATE 16) 1).wr (CAN_STAT_STATE 2) 3).set1 (CAN_STAT_RECOV 2), 2, by decide⟩,
   ⟨State.reset, 2, by decide⟩,
   ⟨State.reset, 2, by decide⟩,
   ⟨State.reset.set1 (CAN_CTL_SAM 2), 2, by decide⟩⟩

/-- States and operands that meet the hypotheses of CanObjects. -/
theorem witness_CanObjects_g :
    (∃ (s : State) (m : Fin 4), s.on (CAN_CTL_INIT m) ∧ (s.can m).frozen = false ∧ (s.can m).off ∧ s.samIgnored m = false) ∧
    (∃ (s : State) (m : Fin 4), s.on (CAN_CTL_INIT m) ∧ (s.can m).frozen = false ∧ (s.can m).off = false ∧ (128 ≤ s.rd (CAN_ECNT_TEC m) ∨ s.on (CAN_ECNT_RP m))) ∧
    (∃ (s : State) (m : Fin 4), (s.on (CAN_CTL_INIT m) = false ∨ (s.can m).frozen)) ∧
    (∃ (s : State) (m : Fin 4), (s.can m).frozen = false) ∧
    (∃ (s : State) (m : Fin 4), (s.can m).frozen) :=
  ⟨⟨State.reset.setCan 2 { off := true }, 2, by decide⟩,
   ⟨State.reset.wr (CAN_ECNT_TEC 2) 200, 2, by decide⟩,
   ⟨State.reset.clr (CAN_CTL_INIT 2), 2, by decide⟩,
   ⟨State.reset, 2, by decide⟩,
   ⟨State.reset.setCan 2 { frozen := true }, 2, by decide⟩⟩

/-- States and operands that meet the hypotheses of HostInterface. -/
theorem witness_HostInterface_a :
    (∃ (s : State), s.on HOST_LINK_UP ∧ (∀ d : Fin 4, s.dmaBusy d = false)) ∧
    (∃ (s : State) (d : Fin 4), s.on HOST_LINK_UP ∧ s.dmaBusy d ∧ (∀ e : Fin 4, e ≠ d → s.dmaBusy e = false) ∧ inSram (s.dmaDesc d + 31)) ∧
    (∃ (s : State), s.on HOST_LINK_UP = false) ∧
    (∃ (s : State), s.on HOST_LINK_UP ∧ s.host.h2d.length < 32) ∧
    (∃ (s : State), s.on HOST_LINK_UP ∧ 32 ≤ s.host.h2d.length) ∧
    (∃ (s : State), s.on HOST_LINK_UP = false) :=
  ⟨⟨(State.reset.set1 HOST_LINK_UP).set1 HOST_LINK_BME, by decide⟩,
   ⟨((((State.reset.set1 HOST_LINK_UP).set1 HOST_LINK_BME).wr (HOST_DMA_RING_LEN_LEN 1) 16).wr (HOST_DMA_TAIL_TAIL 1) 3).set1 (HOST_DMA_CTL_EN 1), 1, by decide⟩,
   ⟨State.reset, by decide⟩,
   ⟨(State.reset.set1 HOST_LINK_UP).set1 HOST_LINK_BME, by decide⟩,
   ⟨{ (State.reset.set1 HOST_LINK_UP).set1 HOST_LINK_BME with host := { h2d := List.replicate 32 1 } }, by decide⟩,
   ⟨State.reset, by decide +kernel⟩⟩

/-- States and operands that meet the hypotheses of HostInterface. -/
theorem witness_HostInterface_b :
    (∃ (s : State) (w : BitVec 32) (r : List (BitVec 32)), s.host.h2d = w :: r ∧ r.length < 32) ∧
    (∃ (s : State), s.host.h2d = []) ∧
    (∃ (s : State), s.host.d2h.length < 32) ∧
    (∃ (s : State), 32 ≤ s.host.d2h.length) ∧
    (∃ (s : State) (w : BitVec 32) (r : List (BitVec 32)), s.on HOST_LINK_UP ∧ s.host.d2h = w :: r ∧ r.length < 32) ∧
    (∃ (s : State), (s.on HOST_LINK_UP = false ∨ s.host.d2h = [])) :=
  ⟨⟨{ State.reset with host := { h2d := [9] } }, 9, [], by decide⟩,
   ⟨State.reset, by decide⟩,
   ⟨State.reset, by decide⟩,
   ⟨{ State.reset with host := { d2h := List.replicate 32 1 } }, by decide⟩,
   ⟨{ (State.reset.set1 HOST_LINK_UP).set1 HOST_LINK_BME with host := { d2h := [9] } }, 9, [], by decide⟩,
   ⟨State.reset, by decide +kernel⟩⟩

/-- States and operands that meet the hypotheses of HostInterface. -/
theorem witness_HostInterface_c :
    (∃ (s : State) (v : Fin 32), 8 ≤ v.val ∧ (s.on (HOST_MSIX_VCTL_MASK v) ∨ s.on HOST_LINK_BME = false ∨ s.on HOST_LINK_UP = false)) ∧
    (∃ (s : State) (v : Fin 32), 8 ≤ v.val ∧ s.on (HOST_MSIX_VCTL_MASK v) = false ∧ s.on HOST_LINK_BME ∧ s.on HOST_LINK_UP) ∧
    (∃ (v : Fin 32), v.val < 8) ∧
    (∃ (s : State) (d : Fin 4) (v : BitVec 8), v.toNat < s.rd (HOST_DMA_RING_LEN_LEN d) ∧ (s.rd (HOST_DMA_TAIL_TAIL d) + s.rd (HOST_DMA_RING_LEN_LEN d) - s.rd (HOST_DMA_HEAD_HEAD d)) % s.rd (HOST_DMA_RING_LEN_LEN d) ≤ (v.toNat + s.rd (HOST_DMA_RING_LEN_LEN d) - s.rd (HOST_DMA_HEAD_HEAD d)) % s.rd (HOST_DMA_RING_LEN_LEN d)) ∧
    (∃ (s : State) (d : Fin 4) (v : BitVec 8), (s.rd (HOST_DMA_RING_LEN_LEN d) ≤ v.toNat ∨ ¬ (s.rd (HOST_DMA_TAIL_TAIL d) + s.rd (HOST_DMA_RING_LEN_LEN d) - s.rd (HOST_DMA_HEAD_HEAD d)) % s.rd (HOST_DMA_RING_LEN_LEN d) ≤ (v.toNat + s.rd (HOST_DMA_RING_LEN_LEN d) - s.rd (HOST_DMA_HEAD_HEAD d)) % s.rd (HOST_DMA_RING_LEN_LEN d))) ∧
    (∃ (s : State) (d : Fin 4) (l : List (BitVec 8)) (a : Nat) (n : Nat), s.dmaBusy d ∧ s.load (s.dmaDesc d + 8) 4 = a ∧ s.load (s.dmaDesc d + 12) 4 % 2 ^ 21 = n ∧ inSram (s.dmaDesc d + 31) ∧ a + n ≤ 0x400000 ∧ n ≤ l.length ∧ (s.load (s.dmaDesc d + 12) 4).testBit 24 = false ∧ (a + n ≤ s.dmaDesc d ∨ s.dmaDesc d + 32 ≤ a)) :=
  ⟨⟨State.reset, 9, by decide⟩,
   ⟨((State.reset.set1 HOST_LINK_UP).set1 HOST_LINK_BME).clr (HOST_MSIX_VCTL_MASK 9), 9, by decide⟩,
   ⟨3, by decide⟩,
   ⟨(((State.reset.set1 HOST_LINK_UP).set1 HOST_LINK_BME).wr (HOST_DMA_RING_LEN_LEN 1) 16).wr (HOST_DMA_TAIL_TAIL 1) 3, 1, 7, by decide⟩,
   ⟨(((State.reset.set1 HOST_LINK_UP).set1 HOST_LINK_BME).wr (HOST_DMA_RING_LEN_LEN 1) 16).wr (HOST_DMA_TAIL_TAIL 1) 3, 1, 17, by decide⟩,
   ⟨((((((State.reset.set1 HOST_LINK_UP).set1 HOST_LINK_BME).wr (HOST_DMA_RING_LEN_LEN 1) 16).wr (HOST_DMA_TAIL_TAIL 1) 3).set1 (HOST_DMA_CTL_EN 1)).store 8 4 0x2000).store 12 4 2, 1, [7, 8], 0x2000, 2, by decide⟩⟩

/-- States and operands that meet the hypotheses of HostInterface. -/
theorem witness_HostInterface_d :
    (∃ (s : State) (d : Fin 4) (a : Nat) (n : Nat), s.dmaBusy d ∧ s.load (s.dmaDesc d + 8) 4 = a ∧ s.load (s.dmaDesc d + 12) 4 % 2 ^ 21 = n ∧ inSram (s.dmaDesc d + 31) ∧ a + n ≤ 0x400000 ∧ (s.load (s.dmaDesc d + 12) 4).testBit 24 ∧ (s.load (s.dmaDesc d + 12) 4).testBit 26 = false) ∧
    (∃ (s : State) (d : Fin 4) (l : List (BitVec 8)) (a : Nat) (n : Nat) (e : Bool), s.dmaBusy d ∧ s.load (s.dmaDesc d + 8) 4 = a ∧ s.load (s.dmaDesc d + 12) 4 % 2 ^ 21 = n ∧ inSram (s.dmaDesc d + 31) ∧ s.dmaOk a n (!(s.load (s.dmaDesc d + 12) 4).testBit 24) ∧ (e ∨ ((s.load (s.dmaDesc d + 12) 4).testBit 24 = false ∧ l.length < n))) ∧
    (∃ (s : State) (d : Fin 4) (a : Nat) (n : Nat), s.dmaBusy d ∧ s.load (s.dmaDesc d + 8) 4 = a ∧ s.load (s.dmaDesc d + 12) 4 % 2 ^ 21 = n ∧ inSram (s.dmaDesc d + 31) ∧ s.dmaOk a n (!(s.load (s.dmaDesc d + 12) 4).testBit 24) = false) ∧
    (∃ (s : State) (d : Fin 4), s.dmaBusy d = false) :=
  ⟨⟨((((((State.reset.set1 HOST_LINK_UP).set1 HOST_LINK_BME).wr (HOST_DMA_RING_LEN_LEN 1) 16).wr (HOST_DMA_TAIL_TAIL 1) 3).set1 (HOST_DMA_CTL_EN 1)).store 8 4 0x2000).store 12 4 0x1000002, 1, 0x2000, 2, by decide⟩,
   ⟨((((((State.reset.set1 HOST_LINK_UP).set1 HOST_LINK_BME).wr (HOST_DMA_RING_LEN_LEN 1) 16).wr (HOST_DMA_TAIL_TAIL 1) 3).set1 (HOST_DMA_CTL_EN 1)).store 8 4 0x2000).store 12 4 2, 1, [7], 0x2000, 2, true, by decide⟩,
   ⟨((((((State.reset.set1 HOST_LINK_UP).set1 HOST_LINK_BME).wr (HOST_DMA_RING_LEN_LEN 1) 16).wr (HOST_DMA_TAIL_TAIL 1) 3).set1 (HOST_DMA_CTL_EN 1)).store 8 4 0x2000000).store 12 4 2, 1, 0x2000000, 2, by decide⟩,
   ⟨State.reset, 1, by decide⟩⟩

/-- States and operands that meet the hypotheses of DoorbellsAndBusMaster. -/
theorem witness_DoorbellsAndBusMaster_a :
    (∃ (s : State) (i : Fin 8), s.on HOST_LINK_UP ∧ s.bitAt HOST_DB_STAT_PEND i = false) ∧
    (∃ (s : State) (i : Fin 8), s.on HOST_LINK_UP ∧ s.bitAt HOST_DB_STAT_PEND i) ∧
    (∃ (s : State), s.on HOST_LINK_UP = false) ∧
    (∃ (s : State), s.on RST_BLK_STAT_BUSY = false) ∧
    (∃ (s : State), s.on HOST_LINK_BME = false) ∧
    (∃ (s : State) (x : BitVec 32) (y : BitVec 32) (z : BitVec 32) (u : BitVec 32) (r : List (Word × Word × Word × Word)), s.on HOST_LINK_BME = false ∧ s.trc.q = (x, y, z, u) :: r ∧ s.rd TRC_CTL_MODE = 3 ∧ s.rd TRC_STAT_STATE ≠ 3 ∧ s.on (TRC_PROBE_STREAM (y.toNat % 64))) :=
  ⟨⟨(State.reset.set1 HOST_LINK_UP).set1 HOST_LINK_BME, 3, by decide⟩,
   ⟨((State.reset.set1 HOST_LINK_UP).set1 HOST_LINK_BME).setBit HOST_DB_STAT_PEND 3, 3, by decide⟩,
   ⟨State.reset, by decide⟩,
   ⟨State.reset.wr HOST_DB_STAT_PEND 7, by decide⟩,
   ⟨State.reset, by decide⟩,
   ⟨(({ State.reset with trc := { q := [(1, 2, 3, 4)] } }.wr TRC_CTL_MODE 3).wr (TRC_PROBE_STREAM 2) 1), 1, 2, 3, 4, [], by decide⟩⟩

/-- States and operands that meet the hypotheses of DoorbellsAndBusMaster. -/
theorem witness_DoorbellsAndBusMaster_b :
    ∃ (s : State) (v : Fin 32), 8 ≤ v.val ∧ s.on HOST_LINK_BME = false :=
  ⟨State.reset, 9, by decide⟩

/-- States and operands that meet the hypotheses of TraceCapture. -/
theorem witness_TraceCapture_a :
    (∃ (s : State), s.trc.q = []) ∧
    (∃ (s : State) (x : BitVec 32) (y : BitVec 32) (z : BitVec 32) (u : BitVec 32) (r : List (Word × Word × Word × Word)), s.trc.q = (x, y, z, u) :: r ∧ (s.rd TRC_CTL_MODE = 0 ∨ (s.rd TRC_CTL_MODE ≠ 3 ∧ s.rd TRC_STAT_STATE ≠ 1 ∧ s.rd TRC_STAT_STATE ≠ 2))) ∧
    (∃ (s : State) (x : BitVec 32) (y : BitVec 32) (z : BitVec 32) (u : BitVec 32) (r : List (Word × Word × Word × Word)), s.trc.q = (x, y, z, u) :: r ∧ s.rd TRC_CTL_MODE = 2 ∧ s.rd TRC_STAT_STATE = 1 ∧ s.rd TRC_WPTR_IDX + 1 < s.trcCap) ∧
    (∃ (s : State) (x : BitVec 32) (y : BitVec 32) (z : BitVec 32) (u : BitVec 32) (r : List (Word × Word × Word × Word)), s.trc.q = (x, y, z, u) :: r ∧ s.rd TRC_CTL_MODE = 2 ∧ s.rd TRC_STAT_STATE = 1 ∧ s.rd TRC_WPTR_IDX + 1 = s.trcCap) ∧
    (∃ (s : State) (x : BitVec 32) (y : BitVec 32) (z : BitVec 32) (u : BitVec 32) (r : List (Word × Word × Word × Word)), s.trc.q = (x, y, z, u) :: r ∧ (s.rd TRC_CTL_MODE = 1 ∨ s.rd TRC_CTL_MODE = 2) ∧ s.rd TRC_STAT_STATE = 2 ∧ 1 < s.trc.left ∧ s.rd TRC_WPTR_IDX + 1 < s.trcCap ∧ s.trc.written + 1 ≠ s.trcCap) ∧
    (∃ (s : State) (x : BitVec 32) (y : BitVec 32) (z : BitVec 32) (u : BitVec 32) (r : List (Word × Word × Word × Word)), s.trc.q = (x, y, z, u) :: r ∧ (s.rd TRC_CTL_MODE = 1 ∨ s.rd TRC_CTL_MODE = 2) ∧ s.rd TRC_STAT_STATE = 2 ∧ s.trc.left = 1) :=
  ⟨⟨State.reset, by decide +kernel⟩,
   ⟨{ State.reset with trc := { q := [(1, 2, 3, 4)] } }, 1, 2, 3, 4, [], by decide⟩,
   ⟨(({ State.reset with trc := { q := [(1, 2, 3, 4)] } }.wr TRC_CTL_MODE 2).wr TRC_STAT_STATE 1), 1, 2, 3, 4, [], by decide⟩,
   ⟨(({ State.reset with trc := { q := [(1, 2, 3, 4)] } }.wr TRC_CTL_MODE 2).wr TRC_STAT_STATE 1).wr TRC_WPTR_IDX 131071, 1, 2, 3, 4, [], by decide⟩,
   ⟨(({ State.reset with trc := { q := [(1, 2, 3, 4)], left := 9 } }.wr TRC_CTL_MODE 2).wr TRC_STAT_STATE 2), 1, 2, 3, 4, [], by decide⟩,
   ⟨(({ State.reset with trc := { q := [(1, 2, 3, 4)], left := 1 } }.wr TRC_CTL_MODE 2).wr TRC_STAT_STATE 2), 1, 2, 3, 4, [], by decide⟩⟩

/-- States and operands that meet the hypotheses of TraceCapture. -/
theorem witness_TraceCapture_b :
    (∃ (s : State) (x : BitVec 32) (y : BitVec 32) (z : BitVec 32) (u : BitVec 32) (r : List (Word × Word × Word × Word)), s.trc.q = (x, y, z, u) :: r ∧ s.rd TRC_CTL_MODE = 1 ∧ s.rd TRC_STAT_STATE = 1 ∧ s.trc.written + 1 = s.trcCap) ∧
    (∃ (s : State) (x : BitVec 32) (y : BitVec 32) (z : BitVec 32) (u : BitVec 32) (r : List (Word × Word × Word × Word)), s.trc.q = (x, y, z, u) :: r ∧ s.rd TRC_CTL_MODE = 3 ∧ (s.on (TRC_PROBE_STREAM (y.toNat % 64)) = false ∨ s.rd TRC_STAT_STATE = 3)) ∧
    (∃ (s : State) (x : BitVec 32) (y : BitVec 32) (z : BitVec 32) (u : BitVec 32) (r : List (Word × Word × Word × Word)), s.trc.q = (x, y, z, u) :: r ∧ s.rd TRC_CTL_MODE = 3 ∧ s.rd TRC_STAT_STATE ≠ 3 ∧ s.on (TRC_PROBE_STREAM (y.toNat % 64)) ∧ min 4096000 (s.trc.bucket + s.rd TRC_STR_RATE_MBPS * (s.ns - s.trc.fillNs)) < 16000) ∧
    (∃ (s : State) (b : Bool) (x : BitVec 32) (y : BitVec 32) (z : BitVec 32) (u : BitVec 32) (r : List (Word × Word × Word × Word)), s.trc.q = (x, y, z, u) :: r ∧ s.rd TRC_CTL_MODE = 3 ∧ s.rd TRC_STAT_STATE ≠ 3 ∧ s.on (TRC_PROBE_STREAM (y.toNat % 64)) ∧ 16000 ≤ min 4096000 (s.trc.bucket + s.rd TRC_STR_RATE_MBPS * (s.ns - s.trc.fillNs)) ∧ (b ∨ s.on HOST_LINK_BME = false ∨ s.on HOST_LINK_UP = false)) ∧
    (∃ (s : State) (x : BitVec 32) (y : BitVec 32) (z : BitVec 32) (u : BitVec 32) (r : List (Word × Word × Word × Word)) (k : Nat), s.trc.q = (x, y, z, u) :: r ∧ s.rd TRC_CTL_MODE = 3 ∧ s.rd TRC_STAT_STATE ≠ 3 ∧ s.on (TRC_PROBE_STREAM (y.toNat % 64)) ∧ 16000 ≤ min 4096000 (s.trc.bucket + s.rd TRC_STR_RATE_MBPS * (s.ns - s.trc.fillNs)) ∧ s.on HOST_LINK_BME ∧ s.on HOST_LINK_UP ∧ s.trc.page = some k ∧ k < 255) ∧
    (∃ (s : State) (x : BitVec 32) (y : BitVec 32) (z : BitVec 32) (u : BitVec 32) (r : List (Word × Word × Word × Word)), s.trc.q = (x, y, z, u) :: r ∧ s.rd TRC_CTL_MODE = 3 ∧ s.rd TRC_STAT_STATE ≠ 3 ∧ s.on (TRC_PROBE_STREAM (y.toNat % 64)) ∧ 16000 ≤ min 4096000 (s.trc.bucket + s.rd TRC_STR_RATE_MBPS * (s.ns - s.trc.fillNs)) ∧ s.on HOST_LINK_BME ∧ s.on HOST_LINK_UP ∧ s.trc.page = some 255) :=
  ⟨⟨(({ State.reset with trc := { q := [(1, 2, 3, 4)], written := 131071 } }.wr TRC_CTL_MODE 1).wr TRC_STAT_STATE 1), 1, 2, 3, 4, [], by decide⟩,
   ⟨({ State.reset with trc := { q := [(1, 2, 3, 4)] } }.wr TRC_CTL_MODE 3), 1, 2, 3, 4, [], by decide⟩,
   ⟨(({ State.reset with trc := { q := [(1, 2, 3, 4)], bucket := 5 } }.wr TRC_CTL_MODE 3).wr (TRC_PROBE_STREAM 2) 1), 1, 2, 3, 4, [], by decide⟩,
   ⟨(({ State.reset with trc := { q := [(1, 2, 3, 4)] } }.wr TRC_CTL_MODE 3).wr (TRC_PROBE_STREAM 2) 1), false, 1, 2, 3, 4, [], by decide⟩,
   ⟨{ ((({ State.reset with trc := { q := [(1, 2, 3, 4)] } }.wr TRC_CTL_MODE 3).wr (TRC_PROBE_STREAM 2) 1).set1 HOST_LINK_UP).set1 HOST_LINK_BME with trc := { q := [(1, 2, 3, 4)], page := some 7 } }, 1, 2, 3, 4, [], 7, by decide⟩,
   ⟨{ ((({ State.reset with trc := { q := [(1, 2, 3, 4)] } }.wr TRC_CTL_MODE 3).wr (TRC_PROBE_STREAM 2) 1).set1 HOST_LINK_UP).set1 HOST_LINK_BME with trc := { q := [(1, 2, 3, 4)], page := some 255 } }, 1, 2, 3, 4, [], by decide⟩⟩

/-- States and operands that meet the hypotheses of TraceCapture. -/
theorem witness_TraceCapture_c :
    (∃ (s : State) (x : BitVec 32) (y : BitVec 32) (z : BitVec 32) (u : BitVec 32) (r : List (Word × Word × Word × Word)), s.trc.q = (x, y, z, u) :: r ∧ s.rd TRC_CTL_MODE = 3 ∧ s.rd TRC_STAT_STATE ≠ 3 ∧ s.on (TRC_PROBE_STREAM (y.toNat % 64)) ∧ 16000 ≤ min 4096000 (s.trc.bucket + s.rd TRC_STR_RATE_MBPS * (s.ns - s.trc.fillNs)) ∧ s.on HOST_LINK_BME ∧ s.on HOST_LINK_UP ∧ s.trc.page = none ∧ s.rd TRC_STR_HELD_N ≠ 0) ∧
    (∃ (s : State) (x : BitVec 32) (y : BitVec 32) (z : BitVec 32) (u : BitVec 32) (r : List (Word × Word × Word × Word)), s.trc.q = (x, y, z, u) :: r ∧ s.rd TRC_CTL_MODE = 3 ∧ s.rd TRC_STAT_STATE ≠ 3 ∧ s.on (TRC_PROBE_STREAM (y.toNat % 64)) ∧ 16000 ≤ min 4096000 (s.trc.bucket + s.rd TRC_STR_RATE_MBPS * (s.ns - s.trc.fillNs)) ∧ s.on HOST_LINK_BME ∧ s.on HOST_LINK_UP ∧ s.trc.page = none ∧ s.rd TRC_STR_HELD_N = 0) ∧
    (∃ (s : State), s.rd TRC_CTL_MODE ≠ 3 ∧ (s.rd TRC_STAT_STATE = 1 ∨ s.rd TRC_STAT_STATE = 2) ∧ s.trc.page = none) ∧
    (∃ (s : State), s.rd TRC_CTL_MODE = 3 ∧ s.trc.page = none) ∧
    (∃ (s : State) (k : Nat), s.rd TRC_CTL_MODE = 3 ∧ s.trc.page = some k ∧ k ≤ 256) ∧
    (∃ (s : State), s.rd TRC_CTL_MODE ≠ 3 ∧ s.rd TRC_STAT_STATE ≠ 1 ∧ s.rd TRC_STAT_STATE ≠ 2 ∧ s.trc.page = none) :=
  ⟨⟨(((({ State.reset with trc := { q := [(1, 2, 3, 4)] } }.wr TRC_CTL_MODE 3).wr (TRC_PROBE_STREAM 2) 1).set1 HOST_LINK_UP).set1 HOST_LINK_BME).wr TRC_STR_HELD_N 3, 1, 2, 3, 4, [], by decide⟩,
   ⟨((({ State.reset with trc := { q := [(1, 2, 3, 4)] } }.wr TRC_CTL_MODE 3).wr (TRC_PROBE_STREAM 2) 1).set1 HOST_LINK_UP).set1 HOST_LINK_BME, 1, 2, 3, 4, [], by decide⟩,
   ⟨State.reset.wr TRC_STAT_STATE 2, by decide⟩,
   ⟨State.reset.wr TRC_CTL_MODE 3, by decide⟩,
   ⟨{ ((({ State.reset with trc := { q := [(1, 2, 3, 4)] } }.wr TRC_CTL_MODE 3).wr (TRC_PROBE_STREAM 2) 1).set1 HOST_LINK_UP).set1 HOST_LINK_BME with trc := { page := some 7 } }, 7, by decide⟩,
   ⟨State.reset, by decide +kernel⟩⟩

/-- States and operands that meet the hypotheses of TraceCapture. -/
theorem witness_TraceCapture_d :
    (∃ (s : State), s.rd TRC_CTL_MODE ≠ 3 ∧ s.rd TRC_STAT_STATE = 1 ∧ s.rd TRC_PRE_N ≤ s.trc.written ∧ s.rd TRC_POST_N ≠ 0) ∧
    (∃ (s : State), s.rd TRC_CTL_MODE ≠ 3 ∧ s.rd TRC_STAT_STATE = 1 ∧ s.rd TRC_PRE_N ≤ s.trc.written ∧ s.rd TRC_POST_N = 0) ∧
    (∃ (s : State), s.rd TRC_CTL_MODE ≠ 3 ∧ (s.rd TRC_STAT_STATE ≠ 1 ∨ s.trc.written < s.rd TRC_PRE_N)) ∧
    (∃ (s : State), s.rd TRC_CTL_MODE = 3) ∧
    (∃ (s : State) (n : BitVec 19), s.rd TRC_STR_HELD_N + n.toNat + bit s.trc.page.isSome ≤ s.rd TRC_STR_PAGES_N ∧ s.rd TRC_STR_PAGES_N < 2 ^ 19) ∧
    (∃ (s : State) (n : BitVec 19), s.rd TRC_STR_PAGES_N < s.rd TRC_STR_HELD_N + n.toNat + bit s.trc.page.isSome) :=
  ⟨⟨(State.reset.wr TRC_STAT_STATE 1).wr TRC_POST_N 4, by decide⟩,
   ⟨(State.reset.wr TRC_STAT_STATE 1), by decide⟩,
   ⟨State.reset, by decide⟩,
   ⟨State.reset.wr TRC_CTL_MODE 3, by decide⟩,
   ⟨State.reset.wr TRC_STR_PAGES_N 9, 3, by decide⟩,
   ⟨State.reset, 3, by decide⟩⟩


/-! ### Cores -/

/-- The state in which the instruction reads its operands. -/
abbrev begun (s : State) (i : Iss) (k : Kind) : State := s.beginIssue i k.cost

/-- What `Fetched` asks, as a test. -/
def fetchable (s : State) (i : Iss) (k : Kind) : Bool :=
  let u := begun s i k
  s.canIssue i.core && inProgram i.core (u.core i.core).pc.toNat && k.accepts i && !i.reserved &&
    (decide (i.core.val < 16 ∨ 20 ≤ i.core.val) || u.allowed i.core (u.core i.core).pc.toNat .x)

/-- What `Issues` asks, as a test. -/
def ready (s : State) (i : Iss) (k : Kind) : Bool :=
  fetchable s i k && !i.dead && ((begun s i k).pr i.core i.pred == !i.pn)

theorem fetched_of_fetchable {s : State} {i : Iss} {k : Kind} (h : fetchable s i k = true) : Fetched s i k (begun s i k) := by
  simp only [fetchable, Bool.and_eq_true, Bool.or_eq_true, decide_eq_true_eq, Bool.not_eq_true'] at h
  exact ⟨rfl, h.1.1.1.1, h.1.1.1.2, fun h1 h2 => h.2.resolve_left (by omega), h.1.1.2, h.1.2⟩

theorem issues_of_ready {s : State} {i : Iss} {k : Kind} (h : ready s i k = true) : Issues s i k (begun s i k) := by
  simp only [ready, Bool.and_eq_true, Bool.not_eq_true', beq_iff_eq] at h
  exact ⟨fetched_of_fetchable h.1.1, h.1.2, h.2⟩

/-- SE0 runs in privileged mode at 0x100 of its program memory; g1 holds `a`. -/
def onAster (c : CoreS) : State := (State.reset.setEngSt 16 2).setCore 16 { c with next := 0x4200100 }
def anAster : State := onAster (coreCold 16)
def asterWith (a : Word) : State := onAster { coreCold 16 with g := [(1, a)] }
def aIss : Iss := { core := 16 }
/-- The same in user mode, in an enabled region that covers all memory. -/
def inUser : State :=
  ((onAster { coreCold 16 with status := 0 }).setReg (ENG_REGION_LIMIT 16 0) 0xFFFFFFFF).setReg (ENG_REGION_ATTR 16 0) 0x1F
/-- User mode with g1 = `a`, in a region of the program memory alone. -/
def userWith (a : Word) : State :=
  (((onAster { coreCold 16 with status := 0, g := [(1, a)] }).setReg (ENG_REGION_BASE 16 0) 0x4200000).setReg (ENG_REGION_LIMIT 16 0)
    0x420FF00).setReg (ENG_REGION_ATTR 16 0) 0x1F
/-- Engine 3 runs a task. -/
def onLupin (c : CoreS) : State :=
  ((State.reset.clr SYS_DEV_STATE_LIMP).setEngSt 3 2).setCore 3 { c with next := 0x100 }
def aLupin : State := onLupin {}
def lupinWith (a : Word) : State := onLupin { g := [(1, a)] }
def lIss (m : Bool) : Iss := { core := 3, m := m }
/-- The first safety core at the start of its program RAM; g1 holds `a`. -/
def onSafety (a : Word) (c : CoreS) : State := State.reset.setCore 20 { c with next := 0x10000, g := [(1, a)] }
def safetyWith (a : Word) : State := onSafety a {}
def sIss : Iss := { core := 20 }

theorem witness_IntegerResults :
    Issues anAster aIss kX (begun anAster aIss kX) ∧
    Issues aLupin (lIss false) kX (begun aLupin (lIss false) kX) ∧
    Issues aLupin (lIss true) { slot := .m } (begun aLupin (lIss true) { slot := .m }) ∧
    Fetched anAster { aIss with dead := true } kX (begun anAster { aIss with dead := true } kX) ∧
    Fetched anAster { aIss with pn := true } kX (begun anAster { aIss with pn := true } kX) ∧
    ((begun anAster { aIss with pn := true } kX).pr 16 0 = true) ∧
    (State.reset.canIssue 3 = false) :=
  ⟨issues_of_ready (by decide), issues_of_ready (by decide), issues_of_ready (by decide), fetched_of_fetchable (by decide), fetched_of_fetchable (by decide), by decide, by decide⟩

theorem witness_MultiplyDivideResults :
    Issues aLupin (lIss false) kX (begun aLupin (lIss false) kX) :=
  issues_of_ready (by decide)

theorem witness_FixedPointResults :
    Issues aLupin (lIss false) kX (begun aLupin (lIss false) kX) :=
  issues_of_ready (by decide)

/-- The last accumulator, and the ends of the ranges of K. -/
theorem witness_AccumulatorResults :
    Issues anAster aIss kX (begun anAster aIss kX) ∧
    ((3 : Fin 32).val < 4) ∧
    ((0x1A7 : BitVec 12).toNat % 128 ≤ 39 ∧ (0x1A7 : BitVec 12).toNat < 512) ∧
    ((0x3C7 : BitVec 12).toNat % 128 ≤ 71 ∧ (0x3C7 : BitVec 12).toNat < 1024) :=
  ⟨issues_of_ready (by decide), by decide, by decide, by decide⟩

theorem witness_FloatResults :
    Issues anAster aIss kF (begun anAster aIss kF) :=
  issues_of_ready (by decide)

theorem witness_FloatFormat :
    ((2 ^ 32 - 1 : Nat) < 2 ^ 32) ∧
    ((0x7F800001 : Nat) < 2 ^ 32) ∧
    ((0 : Nat) < 2 ^ 32) :=
  ⟨by decide, by decide, by decide⟩

theorem witness_CompareResults :
    ((23 : Fin 32).val / 8 ≠ 3) ∧
    Issues anAster aIss kX (begun anAster aIss kX) ∧
    ((7 : Fin 32).val < 8) ∧
    Issues aLupin (lIss false) kF (begun aLupin (lIss false) kF) :=
  ⟨by decide, issues_of_ready (by decide), by decide, issues_of_ready (by decide)⟩

theorem witness_ImmediateResults :
    Issues anAster aIss kX (begun anAster aIss kX) ∧
    ((31 : BitVec 12).toNat < 32) :=
  ⟨issues_of_ready (by decide), by decide⟩

theorem witness_LoadResults_a :
    Issues (asterWith 0x3FFFFC) aIss kM (begun (asterWith 0x3FFFFC) aIss kM) ∧
    ((begun (asterWith 0x3FFFFC) aIss kM).gr 16 1 = 0x3FFFFC ∧ inSram 0x3FFFFC) ∧
    (((begun (asterWith 0x3FFFFC) aIss kM).core 16).status.getLsbD 2 = false ∧ (begun (asterWith 0x3FFFFC) aIss kM).allowed 16 0x3FFFFC .r) ∧
    Issues (lupinWith 0xFFFC) (lIss true) kM (begun (lupinWith 0xFFFC) (lIss true) kM) ∧
    ((begun (lupinWith 0xFFFC) (lIss true) kM).gr 3 1 = 0xFFFC) ∧
    Issues (asterWith 0x40040000) aIss kM (begun (asterWith 0x40040000) aIss kM) ∧
    ((begun (asterWith 0x40040000) aIss kM).gr 16 1 = 0x40040000 ∧ inRegs 0x40040000 ∧ (begun (asterWith 0x40040000) aIss kM).allowed 16 0x40040000 .r ∧ (begun (asterWith 0x40040000) aIss kM).blkError 0x40040000 = false) ∧
    Issues (safetyWith 0x301FC) sIss kM (begun (safetyWith 0x301FC) sIss kM) :=
  ⟨issues_of_ready (by decide), by decide, by decide, issues_of_ready (by decide), by decide, issues_of_ready (by decide), by decide, issues_of_ready (by decide)⟩

theorem witness_LoadResults_b :
    ((begun (safetyWith 0x301FC) sIss kM).gr 20 1 = 0x301FC) ∧
    Issues (safetyWith 0x32FFC) sIss kM (begun (safetyWith 0x32FFC) sIss kM) ∧
    ((begun (safetyWith 0x32FFC) sIss kM).gr 20 1 = 0x32FFC) ∧
    Issues (safetyWith 0x23FFC) sIss kM (begun (safetyWith 0x23FFC) sIss kM) ∧
    ((begun (safetyWith 0x23FFC) sIss kM).gr 20 1 = 0x23FFC) ∧
    Issues (lupinWith 0x10000) (lIss true) kM (begun (lupinWith 0x10000) (lIss true) kM) ∧
    ((begun (lupinWith 0x10000) (lIss true) kM).gr 3 1 = 0x10000) ∧
    Issues (lupinWith 0xFFFF) (lIss true) kM (begun (lupinWith 0xFFFF) (lIss true) kM) :=
  ⟨by decide, issues_of_ready (by decide), by decide, issues_of_ready (by decide), by decide, issues_of_ready (by decide), by decide, issues_of_ready (by decide)⟩

theorem witness_LoadResults_c :
    ((begun (lupinWith 0xFFFF) (lIss true) kM).gr 3 1 = 0xFFFF) ∧
    Issues (asterWith 0x3FFFFF) aIss kM (begun (asterWith 0x3FFFFF) aIss kM) ∧
    ((begun (asterWith 0x3FFFFF) aIss kM).gr 16 1 = 0x3FFFFF) ∧
    (((begun (asterWith 0x3FFFFF) aIss kM).core 16).status.getLsbD 2 = false) ∧
    Issues (userWith 0) aIss kM (begun (userWith 0) aIss kM) ∧
    ((begun (userWith 0) aIss kM).gr 16 1 = 0 ∧ (begun (userWith 0) aIss kM).allowed 16 0 .r = false ∧ (begun (userWith 0) aIss kM).allowed 16 0 .w = false) ∧
    (((begun (userWith 0) aIss kM).core 16).status.getLsbD 2 = false) ∧
    Issues (asterWith 0x400000) aIss kM (begun (asterWith 0x400000) aIss kM) :=
  ⟨by decide, issues_of_ready (by decide), by decide, by decide, issues_of_ready (by decide), by decide, by decide, issues_of_ready (by decide)⟩

theorem witness_LoadResults_d :
    ((begun (asterWith 0x400000) aIss kM).gr 16 1 = 0x400000 ∧ inRegs 0x400000 = false ∧ inMem 0x400000 = false ∧ (begun (asterWith 0x400000) aIss kM).allowed 16 0x400000 .r ∧ (begun (asterWith 0x400000) aIss kM).allowed 16 0x400000 .w) ∧
    (((begun (asterWith 0x400000) aIss kM).core 16).status.getLsbD 2 = false) ∧
    Issues (safetyWith 0x2000) sIss kM (begun (safetyWith 0x2000) sIss kM) ∧
    ((begun (safetyWith 0x2000) sIss kM).gr 20 1 = 0x2000) ∧
    Issues (safetyWith 1) sIss kM (begun (safetyWith 1) sIss kM) ∧
    ((begun (safetyWith 1) sIss kM).gr 20 1 = 1) ∧
    ((Readable (begun (asterWith 0x3FFFFC) aIss kM) 16 0x3FFFFC)) ∧
    ((Readable (begun (asterWith 0x3FFFFC) aIss kM) 16 0x3FFFFE)) :=
  ⟨by decide, by decide, issues_of_ready (by decide), by decide, issues_of_ready (by decide), by decide, by unfold Readable; decide, by unfold Readable; decide⟩

theorem witness_LoadResults_e :
    ((Readable (begun (lupinWith 0xFFFC) (lIss true) kM) 3 0xFFFF)) ∧
    ((Readable (begun (safetyWith 0x23FFC) sIss kM) 20 0x23FFC)) ∧
    ((¬ Readable (begun (safetyWith 0x2000) sIss kM) 20 0x2000)) :=
  ⟨by unfold Readable; decide, by unfold Readable; decide, by unfold Readable; decide⟩

theorem witness_StoreEffects_a :
    Issues (asterWith 0x3FFFFC) aIss kM (begun (asterWith 0x3FFFFC) aIss kM) ∧
    (Writable (begun (asterWith 0x3FFFFC) aIss kM) 16 0x3FFFFC) ∧
    (((begun (asterWith 0x3FFFFC) aIss kM).core 16).status.getLsbD 2 = false) ∧
    Issues (lupinWith 0xFFFC) (lIss true) kM (begun (lupinWith 0xFFFC) (lIss true) kM) ∧
    (Writable (begun (lupinWith 0xFFFC) (lIss true) kM) 3 0xFFFC) ∧
    Issues (safetyWith 0x23FFC) sIss kM (begun (safetyWith 0x23FFC) sIss kM) ∧
    (Writable (begun (safetyWith 0x23FFC) sIss kM) 20 0x23FFC) ∧
    Issues (safetyWith 0x17FFC) sIss kM (begun (safetyWith 0x17FFC) sIss kM) :=
  ⟨issues_of_ready (by decide), by unfold Writable; decide, by decide, issues_of_ready (by decide), by unfold Writable; decide, issues_of_ready (by decide), by unfold Writable; decide, issues_of_ready (by decide)⟩

theorem witness_StoreEffects_b :
    ((begun (safetyWith 0x17FFC) sIss kM).gr 20 1 = 0x17FFC ∧ (begun (safetyWith 0x17FFC) sIss kM).islSt = 0) ∧
    Issues ((safetyWith 0x17FFC).wr SAFE_STATE_STATE 2) sIss kM (begun ((safetyWith 0x17FFC).wr SAFE_STATE_STATE 2) sIss kM) ∧
    ((begun ((safetyWith 0x17FFC).wr SAFE_STATE_STATE 2) sIss kM).gr 20 1 = 0x17FFC ∧ (begun ((safetyWith 0x17FFC).wr SAFE_STATE_STATE 2) sIss kM).islSt = 2) ∧
    Issues (asterWith 0x40040000) aIss kM (begun (asterWith 0x40040000) aIss kM) ∧
    ((begun (asterWith 0x40040000) aIss kM).gr 16 1 = 0x40040000 ∧ inRegs 0x40040000 ∧ (begun (asterWith 0x40040000) aIss kM).allowed 16 0x40040000 .w ∧ (begun (asterWith 0x40040000) aIss kM).blkError 0x40040000 = false) ∧
    Issues (asterWith 0x09000000) aIss kM (begun (asterWith 0x09000000) aIss kM) ∧
    ((begun (asterWith 0x09000000) aIss kM).gr 16 1 = 0x09000000 ∧ inRegs 0x09000000 = false ∧ roMem 0x09000000 ∧ (begun (asterWith 0x09000000) aIss kM).allowed 16 0x09000000 .w) ∧
    (((begun (asterWith 0x09000000) aIss kM).core 16).status.getLsbD 2 = false) :=
  ⟨by decide, issues_of_ready (by decide), by decide, issues_of_ready (by decide), by decide, issues_of_ready (by decide), by decide, by decide⟩

theorem witness_StoreEffects_c :
    Issues (safetyWith 0x24000) sIss kM (begun (safetyWith 0x24000) sIss kM) ∧
    ((begun (safetyWith 0x24000) sIss kM).gr 20 1 = 0x24000) ∧
    Issues (safetyWith 0x1FFC) sIss kM (begun (safetyWith 0x1FFC) sIss kM) ∧
    ((begun (safetyWith 0x1FFC) sIss kM).gr 20 1 = 0x1FFC) :=
  ⟨issues_of_ready (by decide), by decide, issues_of_ready (by decide), by decide⟩

theorem witness_ResultsReachRegistersWhenDue :
    ((lIss false).core.val < 16 ∧ (lIss false).same = false ∧ 31 ≠ 0 ∧ (aLupin.core 3).after = 0) :=
  by decide

/-- g1 holds the last instruction of the program memory of SE0, g2 and g3 an address outside. -/
def jumper : State := onAster { coreCold 16 with g := [(1, 0x420FFFC), (2, 0x4210000)] }

theorem witness_BranchTargets :
    Issues jumper aIss kB (begun jumper aIss kB) ∧
    (inProgram 16 (((((begun jumper aIss kB).core 16).pc.toNat : Int) + (-1 : BitVec 22).toInt * 4) % 2 ^ 32).toNat) ∧
    (inProgram 16 ((begun jumper aIss kB).gr 16 1)) ∧
    (((begun jumper aIss kB).core 16).status.getLsbD 2 = false) ∧
    (¬ inProgram 16 (((((begun jumper aIss kB).core 16).pc.toNat : Int) + (0x1FFFFF : BitVec 22).toInt * 4) % 2 ^ 32).toNat) ∧
    (¬ inProgram 16 ((begun jumper aIss kB).gr 16 2)) ∧
    Issues (lupinWith 0x10000) (lIss true) kB (begun (lupinWith 0x10000) (lIss true) kB) ∧
    (¬ inProgram 3 (((((begun (lupinWith 0x10000) (lIss true) kB).core 3).pc.toNat : Int) + (-33 : BitVec 22).toInt * 8) % 2 ^ 32).toNat) ∧
    (¬ inProgram 3 ((begun (lupinWith 0x10000) (lIss true) kB).gr 3 1)) ∧
    Issues (safetyWith 0x18000) sIss kB (begun (safetyWith 0x18000) sIss kB) ∧
    (¬ inProgram 20 (((((begun (safetyWith 0x18000) sIss kB).core 20).pc.toNat : Int) + (-1 : BitVec 22).toInt * 4) % 2 ^ 32).toNat) ∧
    (¬ inProgram 20 ((begun (safetyWith 0x18000) sIss kB).gr 20 1)) :=
  ⟨issues_of_ready (by decide), by decide, by decide, by decide, by decide, by decide, issues_of_ready (by decide), by decide, by decide, issues_of_ready (by decide), by decide, by decide⟩

/-- The running slot of engine 3 declares cell 191 alone; g1 is its number, g2 the last destination. -/
def snapper (v : Option (List (Nat × Nat × Bool) × Bool)) : State :=
  let s := onLupin { g := [(1, 191), (2, 0xFFA0), (3, 0xFFA1)] }
  (((s.setReg (ENG_TASK_CELLS0 3 0) 0xFFFFFFBF).setReg (ENG_TASK_CELLS0 3 0 + 4) 0xFFFFFFFF).setReg (ENG_TASK_CELLS0 3 0 + 8) 0xFFFFFFFF).setEng 3
    { s.eng 3 with view := v }
/-- In cycle 0, the swap of cell 184 is done and that of cell 191 is not. -/
def straddler : State :=
  let s := snapper none
  let s := (((s.set1 LOOP_CYC_CFG_EN).set1 (LOOP_CHCYC_EN 23)).set1 (CHAIN_TRING_VALID 23)).wr (CHAIN_STAT_HOPS 23) 8
  let s := (s.set1 (CELLCTL_CFG_EN 184)).set1 (CELLCTL_CFG_EN 191)
  { s with grid := { s.grid with inCycle := true, next := 1 } }.setCst 184 { done := 0 }

theorem witness_SnapshotEffects :
    Issues (snapper none) (lIss true) kML (begun (snapper none) (lIss true) kML) ∧
    ((begun (snapper none) (lIss true) kML).gr 3 1 = 191 ∧ (begun (snapper none) (lIss true) kML).gr 3 2 = 0xFFA0 ∧ (begun (snapper none) (lIss true) kML).gr 3 3 % 16 ≠ 0 ∧ (begun (snapper none) (lIss true) kML).gr 3 0 = 0) ∧
    (191 ∈ (begun (snapper none) (lIss true) kML).slotCells 3 0 ∧ 0 ∉ (begun (snapper none) (lIss true) kML).slotCells 3 0) ∧
    (((begun (snapper none) (lIss true) kML).eng 3).view = none ∧ (begun (snapper none) (lIss true) kML).straddles (((begun (snapper none) (lIss true) kML).slotCells 3 0).eraseDups) = none) ∧
    Issues straddler (lIss true) kML (begun straddler (lIss true) kML) ∧
    (((begun straddler (lIss true) kML).eng 3).view = none ∧ (begun straddler (lIss true) kML).straddles (((begun straddler (lIss true) kML).slotCells 3 0).eraseDups) = some 0 ∧ 191 ∈ (begun straddler (lIss true) kML).slotCells 3 0) ∧
    Issues (snapper (some ([(191, 1, false)], false))) (lIss true) kML (begun (snapper (some ([(191, 1, false)], false))) (lIss true) kML) ∧
    Issues (snapper (some ([(191, 1, true)], false))) (lIss true) kML (begun (snapper (some ([(191, 1, true)], false))) (lIss true) kML) :=
  ⟨issues_of_ready (by decide), by decide, by decide, by decide, issues_of_ready (by decide), by decide, issues_of_ready (by decide), issues_of_ready (by decide)⟩

/-- g1 of engine 3 names channel 783, g2 one that does not exist, g3 a value. -/
def writer (v : Word) : State := onLupin { g := [(1, 783), (2, 784), (3, v)] }
/-- Channel 783 belongs to engine 15. -/
def foreign : State := ((writer 0).set1 (chOwnEn 783)).wr (chOwner 783) 15

theorem witness_ModulatorInstructions :
    Issues (writer 1000) (lIss true) kML (begun (writer 1000) (lIss true) kML) ∧
    ((begun (writer 1000) (lIss true) kML).gr 3 1 = 783 ∧ (begun (writer 1000) (lIss true) kML).gr 3 2 = 784 ∧ (begun (writer 1000) (lIss true) kML).on (chOwnEn 783) = false ∧ (begun (writer 1000) (lIss true) kML).hasChan 783 ∧ shadowOk 783 0 ((begun (writer 1000) (lIss true) kML).gr 3 3)) ∧
    Issues (writer 999) (lIss true) kML (begun (writer 999) (lIss true) kML) ∧
    (¬ shadowOk 783 0 ((begun (writer 999) (lIss true) kML).gr 3 3) ∧ (begun (writer 999) (lIss true) kML).hasChan 783) ∧
    (((writer 0).wr SYS_DEV_STATE_PROFILE 1).hasChan 700 = false) ∧
    Issues foreign (lIss true) kML (begun foreign (lIss true) kML) ∧
    ((begun foreign (lIss true) kML).on (chOwnEn 783) ∧ (begun foreign (lIss true) kML).rd (chOwner 783) ≠ 3) ∧
    Issues aLupin (lIss false) kXL (begun aLupin (lIss false) kXL) ∧
    ((3 : BitVec 12).toNat < 4) :=
  ⟨issues_of_ready (by decide), by decide, issues_of_ready (by decide), by decide, by decide, issues_of_ready (by decide), by decide, issues_of_ready (by decide), by decide⟩

/-- SE0 with a `wait` for 5 ns to come, and one whose target has passed. -/
def waiter : State := onAster { coreCold 16 with g := [(1, 5)] }
def waited : State := anAster.setTb (8 * 2 ^ 24)
def waiting : State := (onAster { coreCold 16 with wait := some (31, 2 ^ 24) }).setTb (2 ^ 24)

theorem witness_TimeAndSpecialReads :
    Issues anAster aIss kMA (begun anAster aIss kMA) ∧
    ((4 : BitVec 3).toNat < 5 ∧ 0 < (1 : BitVec 3).toNat) ∧
    Issues waiter aIss kA (begun waiter aIss kA) ∧
    (((begun waiter aIss kA).core 16).snap ≤ (begun waiter aIss kA).tb ∧ (begun waiter aIss kA).tb < 5 * 2 ^ 24 ∧ (begun waiter aIss kA).gr 16 1 = 5) ∧
    Issues waited aIss kA (begun waited aIss kA) ∧
    (0 + 8 * 2 ^ 24 ≤ (begun waited aIss kA).tb ∧ ((begun waited aIss kA).core 16).snap ≤ (begun waited aIss kA).tb) ∧
    Issues aLupin (lIss false) kX (begun aLupin (lIss false) kX) ∧
    Issues anAster aIss kX (begun anAster aIss kX) ∧
    ((waiting.core 16).wait = some (31, 2 ^ 24) ∧ waiting.engSt 16 = 2 ∧ waiting.gated 16 = false ∧ 2 ^ 24 ≤ waiting.tb ∧ (waiting.core 16).snap ≤ waiting.tb) ∧
    ((anAster.core 16).wait = none) :=
  ⟨issues_of_ready (by decide), by decide, issues_of_ready (by decide), by decide, issues_of_ready (by decide), by decide, issues_of_ready (by decide), issues_of_ready (by decide), by decide, by decide⟩

/-- Probe 63 takes the records of `tprb`; task 7 of engine 3 runs, and ends with the engine enabled or not; sensor 11 is measured. -/
def prober : State := anAster.set1 (TRC_PROBE_EN 63)
def ender : State := (onLupin { tsk := 7 }).set1 (ENG_CTL_EN 3)
def measuring : State := anAster.setSys { anAster.sys with thm := [11] }

theorem witness_UnitInstructions :
    Issues anAster aIss kM (begun anAster aIss kM) ∧
    ((12 : Fin 32).val ≤ 12 ∧ (0x013 : BitVec 12).toNat % 16 < 4 ∧ 4 ≤ (0x014 : BitVec 12).toNat % 16 ∧ (0x015 : BitVec 12).toNat % 16 ≤ 5) ∧
    Issues prober aIss kMA (begun prober aIss kMA) ∧
    ((begun prober aIss kMA).on (TRC_PROBE_EN 63) ∧ (begun prober aIss kMA).rd (TRC_PROBE_SRC 63) = 0 ∧ (begun prober aIss kMA).trc.q.length < 64 ∧ (begun prober aIss kMA).on (TRC_PROBE_EN 62) = false) ∧
    Issues measuring aIss kMA (begun measuring aIss kMA) ∧
    (11 ∈ (begun measuring aIss kMA).sys.thm ∧ 10 ∉ (begun measuring aIss kMA).sys.thm) ∧
    Issues ender (lIss true) kML (begun ender (lIss true) kML) ∧
    ((begun ender (lIss true) kML).on (ENG_CTL_EN 3) ∧ ((begun ender (lIss true) kML).core 3).tsk = 7) ∧
    Issues (onLupin { tsk := 7 }) (lIss true) kML (begun (onLupin { tsk := 7 }) (lIss true) kML) ∧
    ((begun (onLupin { tsk := 7 }) (lIss true) kML).on (ENG_CTL_EN 3) = false) ∧
    Issues (asterWith 0x3FFFE0) aIss kA (begun (asterWith 0x3FFFE0) aIss kA) ∧
    ((begun (asterWith 0x3FFFE0) aIss kA).gr 16 1 = 0x3FFFE0 ∧ (begun (asterWith 0x3FFFE0) aIss kA).allowed 16 0x3FFFE0 .r ∧ inMem 0x3FFFE0) ∧
    Issues (asterWith 0x400000) aIss kA (begun (asterWith 0x400000) aIss kA) ∧
    ((begun (asterWith 0x400000) aIss kA).gr 16 1 = 0x400000 ∧ inMem 0x400000 = false) :=
  ⟨issues_of_ready (by decide), by decide, issues_of_ready (by decide), by decide, issues_of_ready (by decide), by decide, issues_of_ready (by decide), by decide, issues_of_ready (by decide), by decide, issues_of_ready (by decide), by decide, issues_of_ready (by decide), by decide⟩

/-- Source 15 is pending, and `mtc` of g1 sets IE. -/
def unmasked : State := ((onAster { coreCold 16 with g := [(1, 3)] }).wr (ENG_IRQ_EN_EN 16) 0x8000).wr (ENG_IRQ_PEND_PEND 16) 0x8000
/-- The first safety core in user mode. -/
def userSafety : State := onSafety 0 { status := 0 }

theorem witness_PrivilegedInstructions :
    (16 ≤ aIss.core.val ∧ (5 : Nat) < 6 ∧ (15 : Nat) < 16) ∧
    Issues anAster aIss (kP 2) (begun anAster aIss (kP 2)) ∧
    Issues anAster aIss (kP 1) (begun anAster aIss (kP 1)) ∧
    (((begun anAster aIss (kP 1)).core 16).status.getLsbD 1 = true ∧ (begun anAster aIss (kP 1)).takeable 16 = false ∧ (begun anAster aIss (kP 1)).irqWaits 16 = 0) ∧
    Issues unmasked aIss (kP 1) (begun unmasked aIss (kP 1)) ∧
    ((begun unmasked aIss (kP 1)).takeable 16 = false ∧ (begun unmasked aIss (kP 1)).gr 16 1 = 3 ∧ ((begun unmasked aIss (kP 1)).core 16).status.getLsbD 1 = true ∧ ((begun unmasked aIss (kP 1)).setCore 16 ({ (begun unmasked aIss (kP 1)).core 16 with status := 3 })).takeable 16 = true) ∧
    Issues (asterWith 0x3FFFF4) aIss (kP 4) (begun (asterWith 0x3FFFF4) aIss (kP 4)) ∧
    ((begun (asterWith 0x3FFFF4) aIss (kP 4)).gr 16 1 = 0x3FFFF4 ∧ (begun (asterWith 0x3FFFF4) aIss (kP 4)).allowed 16 0x3FFFF4 .r ∧ (begun (asterWith 0x3FFFF4) aIss (kP 4)).allowed 16 0x3FFFF8 .r ∧ (begun (asterWith 0x3FFFF4) aIss (kP 4)).allowed 16 0x3FFFFC .r) ∧
    Issues inUser aIss (kP 2) (begun inUser aIss (kP 2)) ∧
    Issues inUser aIss (kP 1) (begun inUser aIss (kP 1)) ∧
    Issues inUser aIss (kP 4) (begun inUser aIss (kP 4)) ∧
    (((begun inUser aIss (kP 1)).core 16).status.getLsbD 1 = false ∧ ((begun inUser aIss (kP 1)).core 16).status.getLsbD 2 = false) ∧
    Issues userSafety sIss (kP 2) (begun userSafety sIss (kP 2)) ∧
    Issues userSafety sIss (kP 1) (begun userSafety sIss (kP 1)) ∧
    Issues userSafety sIss (kP 4) (begun userSafety sIss (kP 4)) ∧
    (((begun userSafety sIss (kP 1)).core 20).status.getLsbD 1 = false) :=
  ⟨by decide, issues_of_ready (by decide), issues_of_ready (by decide), by decide, issues_of_ready (by decide), by decide, issues_of_ready (by decide), by decide, issues_of_ready (by decide), issues_of_ready (by decide), issues_of_ready (by decide), by decide, issues_of_ready (by decide), issues_of_ready (by decide), issues_of_ready (by decide), by decide⟩

/-- SE0 inside an exception; SE0 and engine 3 outside their program memories; a word that no table lists. -/
def nested : State := onAster { coreCold 16 with status := 6 }
def strayed : State := (State.reset.setEngSt 16 2).setCore 16 { coreCold 16 with next := 0x100 }
def strayedL : State := ((State.reset.clr SYS_DEV_STATE_LIMP).setEngSt 3 2).setCore 3 { next := 0x10000 }
def unlisted (i : Iss) : Iss := { i with word := some 0xFC000005 }

theorem witness_ExceptionEntry :
    Issues anAster aIss kX (begun anAster aIss kX) ∧
    Issues (asterWith 2) aIss kM (begun (asterWith 2) aIss kM) ∧
    (((begun anAster aIss kX).core 16).status.getLsbD 2 = false ∧ (begun (asterWith 2) aIss kM).gr 16 1 = 2) ∧
    (strayed.canIssue 16 ∧ inProgram 16 ((begun strayed aIss kX).core 16).pc.toNat = false) ∧
    (anAster.canIssue 16 ∧ inProgram 16 ((begun anAster (unlisted aIss) kX).core 16).pc.toNat ∧ (begun anAster (unlisted aIss) kX).allowed 16 ((begun anAster (unlisted aIss) kX).core 16).pc.toNat .x ∧ (unlisted aIss).reserved) ∧
    Issues nested aIss kX (begun nested aIss kX) ∧
    (((begun nested aIss kX).core 16).status.getLsbD 2 = true) ∧
    Issues aLupin (lIss false) kX (begun aLupin (lIss false) kX) ∧
    (aLupin.canIssue 3 ∧ inProgram 3 ((begun aLupin (unlisted (lIss false)) kX).core 3).pc.toNat ∧ (unlisted (lIss false)).reserved) ∧
    (strayedL.canIssue 3 ∧ inProgram 3 ((begun strayedL (lIss false) kX).core 3).pc.toNat = false) ∧
    Issues (safetyWith 0) sIss kX (begun (safetyWith 0) sIss kX) :=
  ⟨issues_of_ready (by decide), issues_of_ready (by decide), by decide, by decide, by decide, issues_of_ready (by decide), by decide, issues_of_ready (by decide), by decide, by decide, issues_of_ready (by decide)⟩

/-- Source 15 is pending and enabled. -/
def interrupted : State :=
  ((onAster { coreCold 16 with status := 3 }).wr (ENG_IRQ_EN_EN 16) 0x8000).wr (ENG_IRQ_PEND_PEND 16) 0x8001

theorem witness_InterruptEntry :
    (interrupted.engSt 16 = 2 ∧ interrupted.gated 16 = false ∧ (interrupted.core 16).status.getLsbD 0 = true ∧ (interrupted.core 16).status.getLsbD 2 = false) ∧
    (((interrupted.rd (ENG_IRQ_EN_EN 16)).testBit 15 && (interrupted.rd (ENG_IRQ_PEND_PEND 16)).testBit 15) = true) ∧
    (∀ j, j < 15 → ¬ ((interrupted.rd (ENG_IRQ_EN_EN 16)).testBit j && (interrupted.rd (ENG_IRQ_PEND_PEND 16)).testBit j) = true) ∧
    ((anAster.core 16).status.getLsbD 0 = false) :=
  ⟨by decide, by decide, by decide, by decide⟩

/-- SE0 runs, the reference is present, debug and the link are open; LATENCY is active. -/
def opened : State := ((((anAster.set1 SEC_STAT_DBG_OPEN).set1 CLK_SYS_STAT_REF_OK).set1 HOST_LINK_UP).wr SYS_DEV_STATE_PROFILE 1)

theorem witness_UnmappedAccesses :
    (anAster.masterOn (.aster 0) ∧ inRegs 0x40FFFFFC ∧ namesReg 0x40FFFFFC 4 = false ∧ anAster.blkError 0x40FFFFFC = false) ∧
    (anAster.masterOn .host = false ∧ inMem 0x3FFFFC) ∧
    (opened.masterOn .debug ∧ opened.masterOn .host ∧ inMem 0x3FFFFFFC = false ∧ opened.traceHole 0x017FFFFC ∧ roMem 0x08000000) ∧
    (anAster.engSt 16 = 2 ∧ anAster.gated 16 = false ∧ (anAster.core 16).status.getLsbD 2 = false ∧ inMem 0x400000 = false ∧ anAster.traceHole 0x400000 = false) :=
  ⟨by decide, by decide, by decide, by decide⟩

end Sys2Proof.Tests
end

section
/-! PROOFS. What reset leaves (00_scope.md R1, 01_architecture.md R32). -/
namespace Sys2Proof.Machine

/-! ### The reset state -/

/-- No register differs from its cold value at reset. -/
@[simp] theorem reset_reg (a : Nat) : State.reset.reg a = (coldOf a).toNat := rfl

/-- Every core starts in privileged mode with its general registers 0 (08_qorov_instruction_set.md R216, R249). -/
theorem coreCold_status_g (n : Nat) : (coreCold n).status = 2 ∧ (coreCold n).g = [] := by
  unfold coreCold
  split
  · exact ⟨rfl, rfl⟩
  · split
    · exact ⟨rfl, rfl⟩
    · exact ⟨rfl, rfl⟩

theorem reset_priv (n : Nat) : (State.reset.core n).status.getLsbD 1 = true := by
  have hs : (State.reset.core n).status = 2 := (coreCold_status_g n).1
  rw [hs]
  rfl

theorem reset_gr (n r : Nat) : State.reset.gr n r = 0 := by
  have hg : (State.reset.core n).g = [] := (coreCold_status_g n).2
  simp [State.gr, hg, Tbl.get, Tbl.find]

/-- The identification, the device state and the timebase. -/
theorem reset_device : State.reset.reg SYS_SYS_ID = 0x4192 ∧ State.reset.reg SYS_SYS_STEP = 0xB1 ∧ State.reset.dev = 0 ∧
    State.reset.reg TB_INC = 0x02000000 ∧ State.reset.on SAFE_STATE_TOKENS = false := by decide

theorem reset_can (m : Fin 4) : State.reset.on (CAN_CTL_INIT m) ∧ State.reset.rd (CAN_STAT_STATE m) = 0 := by
  revert m; decide

theorem reset_lane (l : Fin 28) : State.reset.rd (LANE_STAT_TX_MODE l) = 0 := by
  revert l; decide

/-- The engines are in the state OFF; SE0 to SE3 show their kind, and SE0 alone is enabled (07_lupin_engines.md R212). -/
theorem reset_engine (n : Fin 20) : State.reset.engSt n = 0 ∧ State.reset.on (ENG_STAT_KIND n) = decide (16 ≤ n.val) ∧
    State.reset.on (ENG_CTL_EN n) = decide (n.val = 16) := by
  revert n; decide

/-- Settles O3: every register reads its cold value, and the tables of the rest are empty. -/
theorem resetState : Obligations.ResetState := by
  obtain ⟨hid, hstep, hdev, hinc, htok⟩ := reset_device
  exact ⟨hid, hstep, hdev, rfl, hinc, reset_can, reset_lane, reset_engine, htok, reset_reg, rfl,
    fun n => ⟨reset_priv n, fun r => reset_gr n r⟩, rfl, rfl, rfl, rfl, rfl, fun _ => rfl⟩

end Sys2Proof.Machine
end

section
/-! PROOFS. Every command of the table completes or is ill-formed, and none touches the commands waiting (00_scope.md R11,
20_register_index.md R513). -/
namespace Sys2Proof.Machine

/-- Every command keeps the canonical form, the queue depths and the commands waiting: the laws of the meanings, one for each arm. -/
theorem exec_keep (c : Instr) (s : State) : KeepO s (exec c s) :=
  match c with
  | .registerWrite m a v => execRegisterWrite_k (.refl s) m a v
  | .unmappedAccess m a size => execUnmappedAccess_k (.refl s) m a size
  | .unmappedMemoryAccess m a wr => execUnmappedMemoryAccess_k (.refl s) m a wr
  | .d2dFlitReceived ok load => execD2dFlitReceived_k (.refl s) ok load
  | .d2dDown => execD2dDown_k (.refl s)
  | .stateReqReady forced => execStateReqReady_k (.refl s) forced
  | .stateReqArmed forced => execStateReqArmed_k (.refl s) forced
  | .stateReqRun forced => execStateReqRun_k (.refl s) forced
  | .stateReqStopped forced => execStateReqStopped_k (.refl s) forced
  | .stateReqDormant forced => execStateReqDormant_k (.refl s) forced
  | .bootLockRetry => execBootLockRetry_k (.refl s)
  | .heartbeatMiss => execHeartbeatMiss_k (.refl s)
  | .frameStart => execFrameStart_k (.refl s)
  | .frameDepart l under => execFrameDepart_k (.refl s) l under
  | .cycleGridEnable => execCycleGridEnable_k (.refl s)
  | .cycleStart => execCycleStart_k (.refl s)
  | .cstSwap c => execCstSwap_k (.refl s) c
  | .reportSectionReceived l x => execReportSectionReceived_k (.refl s) l x
  | .laneEnable n => execLaneEnable_k (.refl s) n
  | .laneDisable n => execLaneDisable_k (.refl s) n
  | .laneRearm n => execLaneRearm_k (.refl s) n
  | .laneTxcomma n => execLaneTxcomma_k (.refl s) n
  | .txeqApply n => execTxeqApply_k (.refl s) n
  | .losAssert n => execLosAssert_k (.refl s) n
  | .losDeassert n => execLosDeassert_k (.refl s) n
  | .cdrLock n => execCdrLock_k (.refl s) n
  | .cdrLockLoss n => execCdrLockLoss_k (.refl s) n
  | .orderedSetReceived n groups => execOrderedSetReceived_k (.refl s) n groups
  | .soloHandover n => execSoloHandover_k (.refl s) n
  | .blockReceived n hdr payload => execBlockReceived_k (.refl s) n hdr payload
  | .slipWindowEnd n => execSlipWindowEnd_k (.refl s) n
  | .laneSlip n => execLaneSlip_k (.refl s) n
  | .slipTimeout n => execSlipTimeout_k (.refl s) n
  | .recoverEnd n => execRecoverEnd_k (.refl s) n
  | .attemptTimeout n => execAttemptTimeout_k (.refl s) n
  | .attemptIdleEnd n => execAttemptIdleEnd_k (.refl s) n
  | .rearmDue n => execRearmDue_k (.refl s) n
  | .joinTimeout n => execJoinTimeout_k (.refl s) n
  | .esStart n => execEsStart_k (.refl s) n
  | .esRunDone n errs => execEsRunDone_k (.refl s) n errs
  | .headerReceived l arr => execHeaderReceived_k (.refl s) l arr
  | .headerMissed n p => execHeaderMissed_k (.refl s) n p
  | .chainEnable n => execChainEnable_k (.refl s) n
  | .chainDisable n => execChainDisable_k (.refl s) n
  | .chainRelink n => execChainRelink_k (.refl s) n
  | .syncTimeout n => execSyncTimeout_k (.refl s) n
  | .mbGo c => execMbGo_k (.refl s) c
  | .cellSectionTaken c p f run => execCellSectionTaken_k (.refl s) c p f run
  | .cellTokenCheck c p f => execCellTokenCheck_k (.refl s) c p f
  | .tokenTimerExpiry c => execTokenTimerExpiry_k (.refl s) c
  | .cellFrameStart c => execCellFrameStart_k (.refl s) c
  | .leakTestEnd c na => execLeakTestEnd_k (.refl s) c na
  | .cellEdgeExecute c => execCellEdgeExecute_k (.refl s) c
  | .cellDeadtimeTurnOn c sw => execCellDeadtimeTurnOn_k (.refl s) c sw
  | .holdTimeout c => execHoldTimeout_k (.refl s) c
  | .cellSample c vdc iarm idab temp von => execCellSample_k (.refl s) c vdc iarm idab temp von
  | .cellConversionDone c => execCellConversionDone_k (.refl s) c
  | .cellReportWrite c p f resid user => execCellReportWrite_k (.refl s) c p f resid user
  | .cellInputLos c p => execCellInputLos_k (.refl s) c p
  | .cellOrderedSetForward c p groups => execCellOrderedSetForward_k (.refl s) c p groups
  | .desatTrip c sw t mv => execDesatTrip_k (.refl s) c sw t mv
  | .bsuvLockout c sw low => execBsuvLockout_k (.refl s) c sw low
  | .cellDumpOn c => execCellDumpOn_k (.refl s) c
  | .cellDumpOff c => execCellDumpOff_k (.refl s) c
  | .modEnable => execModEnable_k (.refl s)
  | .modAnchorWrite frame => execModAnchorWrite_k (.refl s) frame
  | .modCommit mask => execModCommit_k (.refl s) mask
  | .planInstant ch => execPlanInstant_k (.refl s) ch
  | .carrierZero ch => execCarrierZero_k (.refl s) ch
  | .auxGo => execAuxGo_k (.refl s)
  | .budgetEmpty n b => execBudgetEmpty_k (.refl s) n b
  | .budgetRestore n => execBudgetRestore_k (.refl s) n
  | .debugHalt e => execDebugHalt_k (.refl s) e
  | .debugResume e => execDebugResume_k (.refl s) e
  | .coreClockStop => execCoreClockStop_k (.refl s)
  | .lpwmEdge m => execLpwmEdge_k (.refl s) m
  | .lpwmTrip m => execLpwmTrip_k (.refl s) m
  | .lpwmRearm m => execLpwmRearm_k (.refl s) m
  | .progMemWrite n word v => execProgMemWrite_k (.refl s) n word v
  | .engineEnable n => execEngineEnable_k (.refl s) n
  | .progCrcDone n => execProgCrcDone_k (.refl s) n
  | .engineDisable n => execEngineDisable_k (.refl s) n
  | .taskRelease tt => execTaskRelease_k (.refl s) tt
  | .taskStart n => execTaskStart_k (.refl s) n
  | .engineRestart n => execEngineRestart_k (.refl s) n
  | .prefetchInStart tt => execPrefetchInStart_k (.refl s) tt
  | .prefetchInDone n d => execPrefetchInDone_k (.refl s) n d
  | .outStageDone n => execOutStageDone_k (.refl s) n
  | .glutSwapRequest n t => execGlutSwapRequest_k (.refl s) n t
  | .pgenInit n => execPgenInit_k (.refl s) n
  | .cstopTimeout => execCstopTimeout_k (.refl s)
  | .interruptTaken k => execInterruptTaken_k (.refl s) k
  | .selfTestStart n => execSelfTestStart_k (.refl s) n
  | .selfTestDone n pass => execSelfTestDone_k (.refl s) n pass
  | .migrateRequest src dst => execMigrateRequest_k (.refl s) src dst
  | .migrationCopyDone => execMigrationCopyDone_k (.refl s)
  | .add x rd ra rb => execAdd_k (.refl s) x rd ra rb
  | .sub x rd ra rb => execSub_k (.refl s) x rd ra rb
  | .and x rd ra rb => execAnd_k (.refl s) x rd ra rb
  | .or x rd ra rb => execOr_k (.refl s) x rd ra rb
  | .xor x rd ra rb => execXor_k (.refl s) x rd ra rb
  | .shl x rd ra rb => execShl_k (.refl s) x rd ra rb
  | .shr x rd ra rb => execShr_k (.refl s) x rd ra rb
  | .sar x rd ra rb => execSar_k (.refl s) x rd ra rb
  | .min x rd ra rb => execMin_k (.refl s) x rd ra rb
  | .max x rd ra rb => execMax_k (.refl s) x rd ra rb
  | .sel x q rd ra rb => execSel_k (.refl s) x q rd ra rb
  | .mul x rd ra rb => execMul_k (.refl s) x rd ra rb
  | .mulh x rd ra rb => execMulh_k (.refl s) x rd ra rb
  | .div x rd ra rb => execDiv_k (.refl s) x rd ra rb
  | .divu x rd ra rb => execDivu_k (.refl s) x rd ra rb
  | .rem x rd ra rb => execRem_k (.refl s) x rd ra rb
  | .adds x rd ra rb => execAdds_k (.refl s) x rd ra rb
  | .subs x rd ra rb => execSubs_k (.refl s) x rd ra rb
  | .abss x rd ra rb => execAbss_k (.refl s) x rd ra rb
  | .qmul x rd ra rb => execQmul_k (.refl s) x rd ra rb
  | .add2 x rd ra rb => execAdd2_k (.refl s) x rd ra rb
  | .sub2 x rd ra rb => execSub2_k (.refl s) x rd ra rb
  | .mul2 x rd ra rb => execMul2_k (.refl s) x rd ra rb
  | .pack x rd ra rb => execPack_k (.refl s) x rd ra rb
  | .mac x rd ra rb => execMac_k (.refl s) x rd ra rb
  | .macu x rd ra rb => execMacu_k (.refl s) x rd ra rb
  | .mpy x rd ra rb => execMpy_k (.refl s) x rd ra rb
  | .qmac x rd ra rb => execQmac_k (.refl s) x rd ra rb
  | .mac2 x rd ra rb => execMac2_k (.refl s) x rd ra rb
  | .accr x rd ra k => execAccr_k (.refl s) x rd ra k
  | .accw x rd ra k => execAccw_k (.refl s) x rd ra k
  | .fadd x rd ra rb => execFadd_k (.refl s) x rd ra rb
  | .fsub x rd ra rb => execFsub_k (.refl s) x rd ra rb
  | .fmul x rd ra rb => execFmul_k (.refl s) x rd ra rb
  | .fdiv x rd ra rb => execFdiv_k (.refl s) x rd ra rb
  | .fmadd x rd ra rb => execFmadd_k (.refl s) x rd ra rb
  | .fmin x rd ra rb => execFmin_k (.refl s) x rd ra rb
  | .fmax x rd ra rb => execFmax_k (.refl s) x rd ra rb
  | .fabs x rd ra rb => execFabs_k (.refl s) x rd ra rb
  | .fcvtFi x rd ra rb => execFcvtFi_k (.refl s) x rd ra rb
  | .fcvtIf x rd ra rb => execFcvtIf_k (.refl s) x rd ra rb
  | .ceq x rd ra rb => execCeq_k (.refl s) x rd ra rb
  | .cne x rd ra rb => execCne_k (.refl s) x rd ra rb
  | .clt x rd ra rb => execClt_k (.refl s) x rd ra rb
  | .cltu x rd ra rb => execCltu_k (.refl s) x rd ra rb
  | .fceq x rd ra rb => execFceq_k (.refl s) x rd ra rb
  | .fclt x rd ra rb => execFclt_k (.refl s) x rd ra rb
  | .fcle x rd ra rb => execFcle_k (.refl s) x rd ra rb
  | .pand x rd ra rb => execPand_k (.refl s) x rd ra rb
  | .por x rd ra rb => execPor_k (.refl s) x rd ra rb
  | .pxor x rd ra rb => execPxor_k (.refl s) x rd ra rb
  | .ceqi x rd ra imm => execCeqi_k (.refl s) x rd ra imm
  | .clti x rd ra imm => execClti_k (.refl s) x rd ra imm
  | .addi x rd ra imm => execAddi_k (.refl s) x rd ra imm
  | .andi x rd ra imm => execAndi_k (.refl s) x rd ra imm
  | .ori x rd ra imm => execOri_k (.refl s) x rd ra imm
  | .shli x rd ra imm => execShli_k (.refl s) x rd ra imm
  | .shri x rd ra imm => execShri_k (.refl s) x rd ra imm
  | .lil x rd imm => execLil_k (.refl s) x rd imm
  | .lih x rd imm => execLih_k (.refl s) x rd imm
  | .ldw x rt ra ofs ue => execLdw_k (.refl s) x rt ra ofs ue
  | .ldh x rt ra ofs ue => execLdh_k (.refl s) x rt ra ofs ue
  | .ldhu x rt ra ofs ue => execLdhu_k (.refl s) x rt ra ofs ue
  | .ldbu x rt ra ofs ue => execLdbu_k (.refl s) x rt ra ofs ue
  | .stw x rt ra ofs => execStw_k (.refl s) x rt ra ofs
  | .sth x rt ra ofs => execSth_k (.refl s) x rt ra ofs
  | .stb x rt ra ofs => execStb_k (.refl s) x rt ra ofs
  | .prf x rt ra ofs => execPrf_k (.refl s) x rt ra ofs
  | .br x disp => execBr_k (.refl s) x disp
  | .brl x disp => execBrl_k (.refl s) x disp
  | .jr x rd ra k => execJr_k (.refl s) x rd ra k
  | .jrl x rd ra k => execJrl_k (.refl s) x rd ra k
  | .csnap x rd ra k ue => execCsnap_k (.refl s) x rd ra k ue
  | .msh x rd ra k => execMsh_k (.refl s) x rd ra k
  | .ldall x rd ra k => execLdall_k (.refl s) x rd ra k
  | .glut x rd ra k => execGlut_k (.refl s) x rd ra k
  | .pstepKeep x rd ra k => execPstepKeep_k (.refl s) x rd ra k
  | .pstepTarget x rd ra k => execPstepTarget_k (.refl s) x rd ra k
  | .tbrdSnapshot x rd k => execTbrdSnapshot_k (.refl s) x rd k
  | .tbrdPart x rd sel k => execTbrdPart_k (.refl s) x rd sel k
  | .wait x rd ra rb => execWait_k (.refl s) x rd ra rb
  | .waitEnd k => execWaitEnd_k (.refl s) k
  | .fpost x rd ra k => execFpost_k (.refl s) x rd ra k
  | .tprb x rd ra k => execTprb_k (.refl s) x rd ra k
  | .tmeas x rd ra k => execTmeas_k (.refl s) x rd ra k
  | .tend x rd ra k => execTend_k (.refl s) x rd ra k
  | .mfs x rd ra k => execMfs_k (.refl s) x rd ra k
  | .mfsClear x rd ra k => execMfsClear_k (.refl s) x rd ra k
  | .rfe x rd ra k => execRfe_k (.refl s) x rd ra k
  | .idle x rd ra k => execIdle_k (.refl s) x rd ra k
  | .mfc x rd ra k => execMfc_k (.refl s) x rd ra k
  | .mtc x rd ra k => execMtc_k (.refl s) x rd ra k
  | .rgld x rd ra k => execRgld_k (.refl s) x rd ra k
  | .retryWaitEnd c => execRetryWaitEnd_k (.refl s) c
  | .protUnlock c => execProtUnlock_k (.refl s) c
  | .paramPush c => execParamPush_k (.refl s) c
  | .evqRead => execEvqRead_k (.refl s)
  | .leakInterval => execLeakInterval_k (.refl s)
  | .leakTimeout => execLeakTimeout_k (.refl s)
  | .lpwmRetryWaitEnd m => execLpwmRetryWaitEnd_k (.refl s) m
  | .dumpOneshotEnd => execDumpOneshotEnd_k (.refl s)
  | .adcTrigger a => execAdcTrigger_k (.refl s) a
  | .adcConversionDone a vin => execAdcConversionDone_k (.refl s) a vin
  | .adcUrgentGo a inp => execAdcUrgentGo_k (.refl s) a inp
  | .adcCalReq a => execAdcCalReq_k (.refl s) a
  | .adcCalDone a => execAdcCalDone_k (.refl s) a
  | .resLoRead a k => execResLoRead_k (.refl s) a k
  | .resHiRead a k => execResHiRead_k (.refl s) a k
  | .refEnable => execRefEnable_k (.refl s)
  | .refReady => execRefReady_k (.refl s)
  | .cmpEnable x => execCmpEnable_k (.refl s) x
  | .cmpHoldRelease x vin => execCmpHoldRelease_k (.refl s) x vin
  | .dacSettled x => execDacSettled_k (.refl s) x
  | .cmpOutputAssert x vin => execCmpOutputAssert_k (.refl s) x vin
  | .cmpOutputDeassert x vin => execCmpOutputDeassert_k (.refl s) x vin
  | .cmpClearLatch x => execCmpClearLatch_k (.refl s) x
  | .thmRequest mask => execThmRequest_k (.refl s) mask
  | .thmMeasureDone x t => execThmMeasureDone_k (.refl s) x t
  | .sensorBroken x => execSensorBroken_k (.refl s) x
  | .sensorHot x t => execSensorHot_k (.refl s) x t
  | .sensorCool x t => execSensorCool_k (.refl s) x t
  | .wakeEvent cause => execWakeEvent_k (.refl s) cause
  | .sysAdpllEnable => execSysAdpllEnable_k (.refl s)
  | .tbAdpllEnable => execTbAdpllEnable_k (.refl s)
  | .lockWindowEnd p count => execLockWindowEnd_k (.refl s) p count
  | .refLoss r => execRefLoss_k (.refl s) r
  | .refQualified r j => execRefQualified_k (.refl s) r j
  | .tbRefSwitch r => execTbRefSwitch_k (.refl s) r
  | .tbRefSwitchDone j => execTbRefSwitchDone_k (.refl s) j
  | .sysRampGo => execSysRampGo_k (.refl s)
  | .sysRampDone => execSysRampDone_k (.refl s)
  | .spreadRequest en depth => execSpreadRequest_k (.refl s) en depth
  | .tbRampGo => execTbRampGo_k (.refl s)
  | .tbRampDone => execTbRampDone_k (.refl s)
  | .dllLock => execDllLock_k (.refl s)
  | .dllLost => execDllLost_k (.refl s)
  | .slewGo => execSlewGo_k (.refl s)
  | .slewStop => execSlewStop_k (.refl s)
  | .slewDone => execSlewDone_k (.refl s)
  | .timebaseSet => execTimebaseSet_k (.refl s)
  | .timebaseSnapshotRead => execTimebaseSnapshotRead_k (.refl s)
  | .ttArm t w => execTtArm_k (.refl s) t w
  | .ttEvent t => execTtEvent_k (.refl s) t
  | .ppsWidthEnd => execPpsWidthEnd_k (.refl s)
  | .captureEdge k rising q => execCaptureEdge_k (.refl s) k rising q
  | .ethLinkUp p ok => execEthLinkUp_k (.refl s) p ok
  | .ethFrameReceived p q fcsOk tag f => execEthFrameReceived_k (.refl s) p q fcsOk tag f
  | .ethTxTailWrite p v => execEthTxTailWrite_k (.refl s) p v
  | .ethRxTailWrite p v => execEthRxTailWrite_k (.refl s) p v
  | .ethFrameSent p fwd q => execEthFrameSent_k (.refl s) p fwd q
  | .pdelayTimeout p => execPdelayTimeout_k (.refl s) p
  | .saddleFrameDepart x under => execSaddleFrameDepart_k (.refl s) x under
  | .saddleHeaderReceived x arr => execSaddleHeaderReceived_k (.refl s) x arr
  | .saddleSlotReceived x j => execSaddleSlotReceived_k (.refl s) x j
  | .hbLost => execHbLost_k (.refl s)
  | .pairEnable => execPairEnable_k (.refl s)
  | .pairDisable => execPairDisable_k (.refl s)
  | .pairTake => execPairTake_k (.refl s)
  | .pairYield => execPairYield_k (.refl s)
  | .yieldEnd => execYieldEnd_k (.refl s)
  | .demotionHoldEnd => execDemotionHoldEnd_k (.refl s)
  | .faultEntry d => execFaultEntry_k (.refl s) d
  | .faultAck mask => execFaultAck_k (.refl s) mask
  | .histMsgHiRead x => execHistMsgHiRead_k (.refl s) x
  | .islandLoadEnd pcrc bcrc prog block => execIslandLoadEnd_k (.refl s) pcrc bcrc prog block
  | .safeMbInWrite w => execSafeMbInWrite_k (.refl s) w
  | .safeMbOutRead => execSafeMbOutRead_k (.refl s)
  | .islandFrameStrobe ns => execIslandFrameStrobe_k (.refl s) ns
  | .epochWordChange => execEpochWordChange_k (.refl s)
  | .safeInputOpen x => execSafeInputOpen_k (.refl s) x
  | .safeInputClose x => execSafeInputClose_k (.refl s) x
  | .discrepancy k => execDiscrepancy_k (.refl s) k
  | .sdmResult x v live => execSdmResult_k (.refl s) x v live
  | .sdmStuck x => execSdmStuck_k (.refl s) x
  | .slcTrip x => execSlcTrip_k (.refl s) x
  | .spdTrip => execSpdTrip_k (.refl s)
  | .positionUpdate a b => execPositionUpdate_k (.refl s) a b
  | .doorLockRelease => execDoorLockRelease_k (.refl s)
  | .safeOkOpen => execSafeOkOpen_k (.refl s)
  | .islandTokensStart => execIslandTokensStart_k (.refl s)
  | .sackRise => execSackRise_k (.refl s)
  | .sackRelease => execSackRelease_k (.refl s)
  | .sackJam => execSackJam_k (.refl s)
  | .proofIntervalExpiry => execProofIntervalExpiry_k (.refl s)
  | .confirmArm => execConfirmArm_k (.refl s)
  | .confirmCheck v => execConfirmCheck_k (.refl s) v
  | .confirmWindowExpiry => execConfirmWindowExpiry_k (.refl s)
  | .lockstepFail pc => execLockstepFail_k (.refl s) pc
  | .roStart => execRoStart_k (.refl s)
  | .roDone counts => execRoDone_k (.refl s) counts
  | .srmStart => execSrmStart_k (.refl s)
  | .srmDone steps => execSrmDone_k (.refl s) steps
  | .bandgapMeasure ppm => execBandgapMeasure_k (.refl s) ppm
  | .lkqRead => execLkqRead_k (.refl s)
  | .recordCommit => execRecordCommit_k (.refl s)
  | .hourTick => execHourTick_k (.refl s)
  | .planSubmit => execPlanSubmit_k (.refl s)
  | .planValidationDone => execPlanValidationDone_k (.refl s)
  | .planCancel => execPlanCancel_k (.refl s)
  | .envLockSet => execEnvLockSet_k (.refl s)
  | .rollbackBurn m => execRollbackBurn_k (.refl s) m
  | .revokeBurn m slot => execRevokeBurn_k (.refl s) m slot
  | .fuseBurnDone => execFuseBurnDone_k (.refl s)
  | .vaultEnrol m => execVaultEnrol_k (.refl s) m
  | .vaultImport m slot => execVaultImport_k (.refl s) m slot
  | .vaultClear m slot => execVaultClear_k (.refl s) m slot
  | .vaultGenId m => execVaultGenId_k (.refl s) m
  | .vaultSign m => execVaultSign_k (.refl s) m
  | .vaultCommandDone => execVaultCommandDone_k (.refl s)
  | .tamper x => execTamper_k (.refl s) x
  | .vglitch rail => execVglitch_k (.refl s) rail
  | .cglitch k => execCglitch_k (.refl s) k
  | .lowtemp => execLowtemp_k (.refl s)
  | .debugChallengeRead => execDebugChallengeRead_k (.refl s)
  | .debugAuthResponse keyOk sigOk => execDebugAuthResponse_k (.refl s) keyOk sigOk
  | .railWarn r => execRailWarn_k (.refl s) r
  | .railRecover r => execRailRecover_k (.refl s) r
  | .railBelowReset r => execRailBelowReset_k (.refl s) r
  | .porRelease r => execPorRelease_k (.refl s) r
  | .nresetAssert => execNresetAssert_k (.refl s)
  | .nresetRelease => execNresetRelease_k (.refl s)
  | .resetRelease b => execResetRelease_k (.refl s) b
  | .hostImageGo keyOk sigOk => execHostImageGo_k (.refl s) keyOk sigOk
  | .configDone => execConfigDone_k (.refl s)
  | .configTimeout => execConfigTimeout_k (.refl s)
  | .mramWrite w v be => execMramWrite_k (.refl s) w v be
  | .mramPulseDone => execMramPulseDone_k (.refl s)
  | .scrubRead err => execScrubRead_k (.refl s) err
  | .blockReset code test => execBlockReset_k (.refl s) code test
  | .blockResetDone => execBlockResetDone_k (.refl s)
  | .blockSelfTestDone pass => execBlockSelfTestDone_k (.refl s) pass
  | .canFrameReceived m f sof len => execCanFrameReceived_k (.refl s) m f sof len
  | .canSetreq m o => execCanSetreq_k (.refl s) m o
  | .canCancel m o started => execCanCancel_k (.refl s) m o started
  | .canTxDone m o d sof len => execCanTxDone_k (.refl s) m o d sof len
  | .canTxFail m o arb quiet => execCanTxFail_k (.refl s) m o arb quiet
  | .canRecover m => execCanRecover_k (.refl s) m
  | .canBusoffRecovered m => execCanBusoffRecovered_k (.refl s) m
  | .canInitClear m => execCanInitClear_k (.refl s) m
  | .canTscap m p => execCanTscap_k (.refl s) m p
  | .canClockStop m => execCanClockStop_k (.refl s) m
  | .canRxsRead m o => execCanRxsRead_k (.refl s) m o
  | .perst => execPerst_k (.refl s)
  | .pcieLinkDown => execPcieLinkDown_k (.refl s)
  | .bmeClear => execBmeClear_k (.refl s)
  | .doorbellWrite x w => execDoorbellWrite_k (.refl s) x w
  | .h2dWrite w => execH2dWrite_k (.refl s) w
  | .h2dRead => execH2dRead_k (.refl s)
  | .d2hWrite w => execD2hWrite_k (.refl s) w
  | .d2hRead => execD2hRead_k (.refl s)
  | .msixSend v => execMsixSend_k (.refl s) v
  | .msixUnmask v => execMsixUnmask_k (.refl s) v
  | .dmaTailWrite d v => execDmaTailWrite_k (.refl s) d v
  | .dmaDescriptorDone d err data => execDmaDescriptorDone_k (.refl s) d err data
  | .recordDrain full => execRecordDrain_k (.refl s) full
  | .traceArm => execTraceArm_k (.refl s)
  | .traceStop => execTraceStop_k (.refl s)
  | .traceForce => execTraceForce_k (.refl s)
  | .streamCredit add => execStreamCredit_k (.refl s) add
  | .cellInputRelock c p => execCellInputRelock_k (.refl s) c p
  | .nodeReset c => execNodeReset_k (.refl s) c
  | .lpwmDeadtimeTurnOn m => execLpwmDeadtimeTurnOn_k (.refl s) m
  | .prefetchOutDone n => execPrefetchOutDone_k (.refl s) n
  | .sensorBrokenClear x => execSensorBrokenClear_k (.refl s) x
  | .coreClockResume => execCoreClockResume_k (.refl s)
  | .strobeMissing ns => execStrobeMissing_k (.refl s) ns
  | .ethLinkDown p => execEthLinkDown_k (.refl s) p
  | .canRxError m pxe big => execCanRxError_k (.refl s) m pxe big
  | .pcieLinkUp w v => execPcieLinkUp_k (.refl s) w v
  | .bmeSet => execBmeSet_k (.refl s)

theorem exec_pending {c : Instr} {s t : State} (h : exec c s = .next t) : t.pending = s.pending := (exec_keep c s t h).2

/-- A command completes, or is ill-formed and ends in the fault. -/
def Completes (c : Instr) (s : State) : Prop :=
  if c.wellFormed then ∃ t, exec c s = .next t else exec c s = .fault .illFormed

theorem completes_of_next {c : Instr} {s t : State} (hc : c.wellFormed = true) (h : exec c s = .next t) : Completes c s := by
  rw [Completes, if_pos hc]; exact ⟨t, h⟩

/-- A meaning that checks the length of its payload completes when the payload is as long as its table says. -/
theorem completes_of_check {c : Instr} {s t : State} {p : Prop} [Decidable p] (hc : c.wellFormed = true ↔ p)
    (h : exec c s = if p then .next t else .fault .illFormed) : Completes c s := by
  unfold Completes
  by_cases hp : p
  · rw [if_pos (hc.2 hp), h, if_pos hp]; exact ⟨t, rfl⟩
  · rw [if_neg (hp ∘ hc.1), h, if_neg hp]

theorem execRecordDrain_next (full : Bool) (s : State) : ∃ t, execRecordDrain full s = .next t := by
  unfold execRecordDrain
  split
  · exact ⟨_, rfl⟩
  · exact ⟨_, rfl⟩

/-- Eight meanings check their payload; every other one answers a next state by its form. -/
theorem exec_completes (c : Instr) (s : State) : Completes c s := by
  cases c with
  | orderedSetReceived n groups => exact completes_of_check (by simp [Instr.wellFormed]) rfl
  | cellSectionTaken c p f run => exact completes_of_check (by simp [Instr.wellFormed, frameOk]) rfl
  | cellTokenCheck c p f => exact completes_of_check (by simp [Instr.wellFormed, frameOk]) rfl
  | cellSample c vdc iarm idab temp von => exact completes_of_check (by simp [Instr.wellFormed]) rfl
  | cellReportWrite c p f resid user => exact completes_of_check (by simp [Instr.wellFormed, frameOk]) rfl
  | cellOrderedSetForward c p groups => exact completes_of_check (by simp [Instr.wellFormed]) rfl
  | islandLoadEnd pcrc bcrc prog block => exact completes_of_check (by simp [Instr.wellFormed]) rfl
  | roDone counts => exact completes_of_check (by simp [Instr.wellFormed]) rfl
  | recordDrain full =>
    obtain ⟨t, ht⟩ := execRecordDrain_next full s
    exact completes_of_next rfl ht
  | _ => exact completes_of_next rfl rfl

/-- Settles O6: every arm completes or checks its payload, and no meaning touches the commands waiting. -/
theorem everyCommandCompletes : Obligations.EveryCommandCompletes := by
  intro c s
  have h := exec_completes c s
  unfold Completes at h
  constructor
  · intro hc
    rw [if_pos hc] at h
    obtain ⟨t, ht⟩ := h
    exact ⟨t, ht, exec_pending ht⟩
  · intro hc
    rwa [if_neg (by simp [hc])] at h

end Sys2Proof.Machine
end

section
/-! PROOFS. What posting a fault below S4 leaves, and what the entry of an exception of an Aster engine leaves (13_fault_collection.md R371,
08_qorov_instruction_set.md R251). -/
namespace Sys2Proof.Machine
open Sys2Proof.Says

/-! ### Fault messages below S4 -/

theorem State.post_posted (s : State) (src inst kind cls : Nat) {sev : Nat} (h : sev < 4) (datum : Nat) :
    Posted s (s.post src inst kind cls sev datum) src inst kind cls sev datum := by
  simp [Posted, State.post_low s src inst kind cls h datum]

theorem State.post_only (s : State) (src inst kind cls : Nat) {sev : Nat} (h : sev < 4) (datum : Nat) :
    Only s (s.post src inst kind cls sev datum) [] := by
  simp [Only, State.post_low s src inst kind cls h datum]

/-- What an access that names nothing leaves (00_scope.md R13). -/
theorem State.unmapped_spec (s : State) (a : Nat) :
    Only s (s.unmapped a) [] ∧ Posted s (s.unmapped a) (srcAt a).1 (srcAt a).2 0xF2 clsCONFIG 0 a :=
  ⟨s.post_only _ _ _ _ (by decide) _, s.post_posted _ _ _ _ (by decide) _⟩

/-- What a write refused as locked leaves (00_scope.md R12). -/
theorem State.locked_spec (s : State) (a : Nat) :
    Only s (s.locked a) [] ∧ Posted s (s.locked a) (srcAt a).1 (srcAt a).2 0xF0 clsCONFIG 1 a :=
  ⟨s.post_only _ _ _ _ (by decide) _, s.post_posted _ _ _ _ (by decide) _⟩

/-- What a write refused as reserved leaves (00_scope.md R12). -/
theorem State.reserved_spec (s : State) (a : Nat) :
    Only s (s.reserved a) [] ∧ Posted s (s.reserved a) (srcAt a).1 (srcAt a).2 0xF1 clsCONFIG 1 a :=
  ⟨s.post_only _ _ _ _ (by decide) _, s.post_posted _ _ _ _ (by decide) _⟩

/-! ### The entry of an exception -/

theorem bitsOf_toNat_one (b : Word) (i : Nat) : bitsOf b.toNat i 1 = (b.getLsbD i).toNat := by
  simp only [bitsOf, BitVec.getLsbD, Nat.toNat_testBit, Nat.shiftRight_eq_div_pow, Nat.pow_one]

/-- The bits of STATUS at an entry: PRIV and EXL set, IE clear, PIE and PPRIV the two copies (08_qorov_instruction_set.md R251). -/
theorem entryStatus_bits (a b : Bool) :
    let st := BitVec.ofNat 32 (6 + 8 * a.toNat + 16 * b.toNat)
    st.getLsbD 0 = false ∧ st.getLsbD 1 = true ∧ st.getLsbD 2 = true ∧ st.getLsbD 3 = a ∧ st.getLsbD 4 = b := by
  revert a b
  decide

theorem State.enter_enters (s : State) (n : Nat) (epc : Word) (ecause vec : Nat) :
    Enters s (s.enter n epc ecause vec) n epc ecause vec := by
  refine ⟨⟨rfl, rfl, rfl, fun m hm => ?_⟩, ?_⟩
  · rw [State.enter, State.setCore_core, if_neg hm]
  · rw [State.enter, State.setCore_core, if_pos rfl, bitsOf_toNat_one, bitsOf_toNat_one]
    exact ⟨rfl, rfl, rfl, rfl, rfl, rfl, rfl, rfl, rfl, entryStatus_bits _ _⟩

/-- BADADDR is no part of what an entry states. -/
theorem enters_setBadaddr {s t : State} {n : Nat} {epc : Word} {ecause vec : Nat} (h : Enters s t n epc ecause vec) (a : Word) :
    Enters s (t.setCore n { t.core n with badaddr := a }) n epc ecause vec := by
  obtain ⟨⟨hregs, hmem, hfq, hcores⟩, hcore⟩ := h
  refine ⟨⟨hregs, hmem, hfq, fun m hm => ?_⟩, ?_⟩
  · rw [State.setCore_core, if_neg hm, hcores m hm]
  · rw [State.setCore_core, if_pos rfl]
    exact hcore

/-- Cause 2 outside a handler: the entry at the instruction in issue, and the address in BADADDR. -/
theorem State.raise_two_enters (s : State) {n : Nat} (h16 : 16 ≤ n) (h20 : n < 20) (hexl : (s.core n).status.getLsbD 2 = false)
    (addr : Nat) :
    Enters s (s.raise n 2 addr) n (s.core n).pc 2 0 ∧ ((s.raise n 2 addr).core n).badaddr = BitVec.ofNat 32 addr := by
  have h : s.raise n 2 addr =
      (s.enter n (s.core n).pc 2 0).setCore n { (s.enter n (s.core n).pc 2 0).core n with badaddr := BitVec.ofNat 32 addr } := by
    rw [State.raise, if_neg (Nat.not_lt.2 h16), if_pos h20, State.asterExc, hexl]
    rfl
  rw [h]
  exact ⟨enters_setBadaddr (s.enter_enters n _ _ _) _, by simp⟩

end Sys2Proof.Machine
end

section
/-! PROOFS. Accesses that name no register or no memory (00_scope.md R13, 01_architecture.md R31, 20_register_index.md R510). -/
namespace Sys2Proof.Machine
open Sys2Proof.Says

theorem exec_unmappedAccess_eq (m : Master) (a : BitVec 32) (size : Fin 5) (s : State) :
    exec (.unmappedAccess m a size) s = .next
      (if s.masterOn m ∧ inRegs a.toNat ∧ namesReg a.toNat size = false ∧ s.blkError a.toNat = false then s.unmapped a.toNat else s) := by
  simp [exec_unmappedAccess, execUnmappedAccess, State.when, and_assoc]

/-- The address names no memory, or memory that takes no write and is written (20_register_index.md R510). -/
def missesMem (k : Nat) (wr : Bool) : Prop := inMem k = false ∨ (wr ∧ roMem k)

theorem missesMem_or_traceHole_iff (s : State) (k : Nat) (wr : Bool) :
    (!inMem k || (wr && roMem k) || s.traceHole k) = true ↔ missesMem k wr ∨ s.traceHole k = true := by
  simp [missesMem]

/-- Trace memory that LATENCY leaves out answers every master as the host and the debug port are answered elsewhere. -/
theorem exec_unmappedMemoryAccess_eq_unmapped {s : State} {m : Master} {a : BitVec 32} {wr : Bool} (hm : s.masterOn m)
    (hk : a.toNat < 0x40000000) (h : s.traceHole a.toNat ∨ (missesMem a.toNat wr ∧ (m = .host ∨ m = .debug))) :
    exec (.unmappedMemoryAccess m a wr) s = .next (s.unmapped a.toNat) := by
  have hc := (missesMem_or_traceHole_iff s a.toNat wr).2 (h.symm.imp_left And.left)
  simp only [exec_unmappedMemoryAccess, execUnmappedMemoryAccess, State.when, hm, hc, hk, decide_true, Bool.and_self, if_true]
  cases m with
  | aster j =>
    have ht : s.traceHole a.toNat = true := by simpa using h
    simp [ht]
  | host => rfl
  | debug => rfl

theorem exec_unmappedMemoryAccess_aster {s : State} {j : Fin 4} {a : BitVec 32} {wr : Bool} (hk : a.toNat < 0x40000000)
    (h : missesMem a.toNat wr) (ht : s.traceHole a.toNat = false) (hst : s.engSt (16 + j) = 2) (hg : s.gated (16 + j) = false) :
    exec (.unmappedMemoryAccess (.aster j) a wr) s = .next (s.raise (16 + j) 2 a.toNat) := by
  have hc := (missesMem_or_traceHole_iff s a.toNat wr).2 (.inl h)
  simp only [exec_unmappedMemoryAccess, execUnmappedMemoryAccess, State.when, State.masterOn, hc]
  simp [hk, ht, hst, hg]

theorem exec_unmappedMemoryAccess_eq_self {s : State} {m : Master} {a : BitVec 32} {wr : Bool}
    (h : s.masterOn m = false ∨ 0x40000000 ≤ a.toNat ∨ (¬ missesMem a.toNat wr ∧ s.traceHole a.toNat = false)) :
    exec (.unmappedMemoryAccess m a wr) s = .next s := by
  simp only [exec_unmappedMemoryAccess, execUnmappedMemoryAccess, State.when]
  rw [if_neg]
  rw [Bool.and_eq_true, Bool.and_eq_true, missesMem_or_traceHole_iff, decide_eq_true_iff]
  rintro ⟨⟨hm, hk⟩, hc⟩
  rcases h with h | h | ⟨h, ht⟩
  · simp [h] at hm
  · omega
  · simp [h, ht] at hc

/-- Settles O60: one equation for each access, and what posting and the entry of an exception leave. -/
theorem unmappedAccesses : Obligations.UnmappedAccesses := by
  intro s m a size wr k none'
  refine ⟨fun hm hr hn hb => ?_, fun h => ?_, fun hm hk ht => ?_, fun hm hk hn hh => ?_, ?_, fun h => ?_⟩
  · refine ⟨_, exec_unmappedAccess_eq m a size s, ?_⟩
    rw [if_pos ⟨hm, hr, hn, hb⟩]
    exact s.unmapped_spec k
  · refine ⟨_, exec_unmappedAccess_eq m a size s, if_neg ?_⟩
    rintro ⟨hm, hr, hn, hb⟩
    rcases h with h | h | h | h
    · simp [h] at hm
    · simp [k, h] at hr
    · simp [k, hn] at h
    · simp [k, hb] at h
  · exact ⟨_, exec_unmappedMemoryAccess_eq_unmapped hm hk (.inl ht), s.unmapped_spec k⟩
  · exact ⟨_, exec_unmappedMemoryAccess_eq_unmapped hm hk (.inr ⟨hn, hh⟩), s.unmapped_spec k⟩
  · rintro j rfl hk hn ht hst hg hexl
    obtain ⟨henter, hbad⟩ := s.raise_two_enters (n := 16 + j) (by omega) (by omega) hexl k
    exact ⟨_, exec_unmappedMemoryAccess_aster hk hn ht hst hg, henter, by simp [hbad, k]⟩
  · exact ⟨s, exec_unmappedMemoryAccess_eq_self h, rfl⟩

end Sys2Proof.Machine
end

section
/-! PROOFS. What a write of a register can do: where it arrives, how it is refused, what is stored (00_scope.md R10 to R13). -/
namespace Sys2Proof.Machine
open Sys2Proof.Says

/-! ### Numbers and fields -/

/-- Taking away the bits two words share leaves the bits of the first that the second has clear. -/
theorem bitVec_sub_and {w : Nat} (a b : BitVec w) : a - (a &&& b) = a &&& ~~~b := by
  have hdisj : (a &&& ~~~b) &&& (a &&& b) = 0 := by
    ext i hi
    simp only [BitVec.getElem_and, BitVec.getElem_not, BitVec.ofNat_eq_ofNat, BitVec.getElem_zero]
    cases a[i] <;> cases b[i] <;> rfl
  have hor : (a &&& ~~~b) ||| (a &&& b) = a := by
    ext i hi
    simp only [BitVec.getElem_or, BitVec.getElem_and, BitVec.getElem_not]
    cases a[i] <;> cases b[i] <;> rfl
  have hadd : (a &&& ~~~b) + (a &&& b) = a := (BitVec.add_eq_or_of_and_eq_zero _ _ hdisj).trans hor
  calc a - (a &&& b) = ((a &&& ~~~b) + (a &&& b)) - (a &&& b) := by rw [hadd]
    _ = a &&& ~~~b := BitVec.add_sub_cancel _ _

theorem sub_land_eq_land {w o x : Nat} (ho : o < 2 ^ w) (hx : x < 2 ^ w) : o - Nat.land o x = Nat.land o (2 ^ w - 1 - x) := by
  have hle : BitVec.ofNat w o &&& BitVec.ofNat w x ≤ BitVec.ofNat w o := by
    rw [BitVec.le_def, BitVec.toNat_and]
    exact Nat.and_le_left
  have h := congrArg BitVec.toNat (bitVec_sub_and (BitVec.ofNat w o) (BitVec.ofNat w x))
  rwa [BitVec.toNat_sub_of_le hle, BitVec.toNat_and, BitVec.toNat_and, BitVec.toNat_not, BitVec.toNat_ofNat, BitVec.toNat_ofNat,
    Nat.mod_eq_of_lt ho, Nat.mod_eq_of_lt hx] at h

theorem putBits_word {old x : Nat} (ho : old < 2 ^ 32) (hx : x < 2 ^ 32) : putBits old 0 32 x = x := by
  simp only [putBits, bitsOf, Nat.shiftRight_zero, Nat.shiftLeft_zero, Nat.mod_eq_of_lt ho, Nat.mod_eq_of_lt hx]
  omega

theorem bitsOf_word {v : Nat} (hv : v < 2 ^ 32) : bitsOf v 0 32 = v := Nat.mod_eq_of_lt hv

/-- A field of a word is a field of its low 32 bits. -/
theorem bitsOf_mod_word (v : Nat) {lo w : Nat} (h : lo + w ≤ 32) : bitsOf (v % 2 ^ 32) lo w = bitsOf v lo w := by
  apply Nat.eq_of_testBit_eq
  intro i
  rw [testBit_bitsOf, testBit_bitsOf, Nat.testBit_mod_two_pow]
  by_cases hi : i < w
  · have : lo + i < 32 := by omega
    simp [this]
  · simp [hi]

theorem State.setReg_rd (s : State) (v : Nat) {f : Fld} (h : f.lo + f.w ≤ 32) :
    (s.setReg f.addr v).rd f = bitsOf v f.lo f.w := by
  rw [State.rd, State.setReg_reg, if_pos rfl, bitsOf_mod_word v h]

/-! ### Accesses to registers: who reaches them -/

theorem State.blkError_of_not_busy {s : State} (hb : s.on RST_BLK_STAT_BUSY = false) (a : Nat) : s.blkError a = false := by
  simp [State.blkError, hb]

/-- A write that arrives (00_scope.md R13): an aligned word is a register's, any other access names none. -/
theorem exec_registerWrite_of_arrives {s : State} {m : Master} {a : BitVec 32} (v : BitVec 32) (hm : s.masterOn m)
    (hb : s.on RST_BLK_STAT_BUSY = false) (hr : inRegs a.toNat) :
    exec (.registerWrite m a v) s = .next (if a.toNat % 4 = 0 then s.regWrite m a.toNat v.toNat else s.unmapped a.toNat) := by
  simp [exec_registerWrite, execRegisterWrite, State.when, hm, hr, State.blkError_of_not_busy hb]

/-- The same, with the address of a register. -/
theorem exec_registerWrite_at {s : State} {m : Master} {k : Nat} (v : BitVec 32) (hm : s.masterOn m)
    (hb : s.on RST_BLK_STAT_BUSY = false) (hr : inRegs k = true) (h4 : k % 4 = 0) :
    exec (.registerWrite m (BitVec.ofNat 32 k) v) s = .next (s.regWrite m k v.toNat) := by
  have hk : (BitVec.ofNat 32 k).toNat = k := by
    have h := of_decide_eq_true hr
    rw [BitVec.toNat_ofNat, Nat.mod_eq_of_lt (by omega)]
  rw [exec_registerWrite_of_arrives v hm hb (by rwa [hk]), hk, if_pos h4]

theorem exec_registerWrite_of_stays {s : State} {m : Master} {a : BitVec 32} (v : BitVec 32)
    (h : s.masterOn m = false ∨ inRegs a.toNat = false ∨ s.blkError a.toNat) : exec (.registerWrite m a v) s = .next s := by
  rw [exec_registerWrite, execRegisterWrite, State.when, if_neg]
  rcases h with h | h | h <;> simp [h]

/-! ### The ways a write ends (00_scope.md R12, R13) -/

section
variable {s : State} {m : Master} {a v : Nat} {r : RegD}

theorem State.regWrite_unnamed (h : regOf a = none) : s.regWrite m a v = s.unmapped a := by
  simp only [State.regWrite, h]

theorem State.regWrite_absent (h : (regOf a).isSome) (habs : s.regAbsent a = true) : s.regWrite m a v = s := by
  obtain ⟨r, hr⟩ := Option.isSome_iff_exists.1 h
  simp only [State.regWrite, hr, habs, if_true]

theorem State.regWrite_locked (hr : regOf a = some r) (habs : s.regAbsent a = false) (hl : s.writeLocked r a v = true) :
    s.regWrite m a v = s.locked a := by
  simp [State.regWrite, hr, habs, hl]

theorem State.regWrite_reserved (hr : regOf a = some r) (habs : s.regAbsent a = false) (hl : s.writeLocked r a v = false)
    (hb : s.writeBad (s.setReg a (r.merge (s.reg a) v)) r a v = true) : s.regWrite m a v = s.reserved a := by
  simp [State.regWrite, hr, habs, hl, hb]

theorem State.regWrite_stored (hr : regOf a = some r) (habs : s.regAbsent a = false) (hl : s.writeLocked r a v = false)
    (hb : s.writeBad (s.setReg a (r.merge (s.reg a) v)) r a v = false) :
    s.regWrite m a v = s.writeReg (s.setReg a (r.merge (s.reg a) v)) m a v := by
  simp [State.regWrite, hr, habs, hl, hb]

theorem exec_registerWrite_absent {a : BitVec 32} (v : BitVec 32) (h4 : a.toNat % 4 = 0) (h : (regOf a.toNat).isSome)
    (habs : s.regAbsent a.toNat = true) : exec (.registerWrite m a v) s = .next s := by
  rw [exec_registerWrite, execRegisterWrite, State.when, if_pos h4, State.regWrite_absent h habs, ite_self]

/-! ### Addresses that no rule but those of their fields speaks of -/

/-- The register exists on every engine and names no cell. -/
abbrev AlwaysThere (a : Nat) : Prop := engAbsent a = false ∧ cellOfAddr a = none

/-- No lock concerns the register but those of its RWS and RWL fields. -/
abbrev LockFree (a : Nat) : Prop :=
  (a ≠ CLK_SYS_RAMP ∧ a ≠ CLK_SYS_SPREAD ∧ a ≠ MOD_BOOT1) ∧ inBlk 0x40050400 8 32 a = none ∧ inBlk 0x40100000 0x1000 24 a = none ∧
    inBlk 0x40300100 0x20 8 a = none ∧ inBlk 0x40501000 0x80 192 a = none ∧ inBlk 0x40800000 0x10000 4 a = none

/-- No combination of values is reserved for the register but the values its fields reserve. -/
abbrev CombinationFree (a : Nat) : Prop :=
  (a ≠ MOD_BOOT0 ∧ a ≠ MOD_AUX ∧ a ≠ LOOP_CYC_CFG ∧ a ≠ TB_INC ∧ a ≠ TB_SLEW_CTL ∧ a ≠ RST_BLK_RST ∧ a ≠ FLT_ACK ∧ a ≠ SEC_POLICY ∧
    a ≠ PROT_DUMP_CFG ∧ a ≠ TRC_PRE ∧ a ≠ TRC_POST ∧ a ≠ TRC_CTL) ∧
    (¬ (SADL_MIR 0 ≤ a ∧ a < SADL_MIR 32) ∧ ¬ (TRC_PROBE 0 ≤ a ∧ a < TRC_PROBE 64)) ∧
    inBlk 0x40100000 0x1000 28 a = none ∧ inBlk 0x40200000 0x1000 24 a = none ∧ inBlk 0x40310000 0x40 768 a = none ∧
    inBlk 0x40380000 0x100 16 a = none ∧ inBlk 0x40410000 0x1000 20 a = none ∧ inBlk 0x40501000 0x80 192 a = none ∧
    inBlk 0x40600000 0x1000 4 a = none ∧ inBlk 0x40800000 0x10000 4 a = none

theorem State.regAbsent_of_alwaysThere (h : AlwaysThere a) : s.regAbsent a = false := by
  obtain ⟨he, hc⟩ := h
  simp [State.regAbsent, he, hc]

/-- Only the RWS fields in RUN and the RWL fields under their lock can refuse the write (00_scope.md R10, R12). -/
theorem State.writeLocked_of_lockFree (h : LockFree a) : s.writeLocked r a v =
    ((s.inRun && r.fields.any fun f => f.acc == .rws && f.changes (s.reg a) v) ||
      (s.lockSet a && r.fields.any fun f => f.acc == .rwl && f.changes (s.reg a) v)) := by
  obtain ⟨⟨hramp, hspread, hboot⟩, henv, hlane, hstr, hparc, hcan⟩ := h
  have hshown : s.envShown a = none := by simp only [State.envShown, henv]
  have howned : s.ownedBits a = 0 := by simp [State.ownedBits, hramp, hspread, hboot, hlane, hstr, hparc]
  have hinit : s.canInitBits a = 0 := by simp only [State.canInitBits, hcan]
  have htouch (old : Nat) : touches 0 old v = false := by simp [touches]
  simp [State.writeLocked, hshown, howned, hinit, htouch]

/-- Only the values that a field's table reserves can refuse the write (00_scope.md R12). -/
theorem State.writeBad_of_combinationFree (h : CombinationFree a) (t : State) :
    s.writeBad t r a v = r.fields.any fun f => f.bad v := by
  obtain ⟨⟨h1, h2, h3, h4, h5, h6, h7, h8, h9, h10, h11, h12⟩, ⟨hmir, hprobe⟩, hlane, hchain, hch, hlp, heng, hparc, hadc, hcan⟩ := h
  have hlink : s.linkBad t a v = false := by simp only [State.linkBad, hlane, hchain]
  have hmod : s.modBad a v = false := by simp [State.modBad, h1, h2, hch, hlp]
  have hen : s.engBad t a v = false := by simp [State.engBad, h3, hmir, heng]
  have hblk : s.blkBad a v = false := by simp [State.blkBad, h4, h5, h6, h7, h8, h9, h10, h11, h12, hprobe, hparc, hadc, hcan]
  simp [State.writeBad, hlink, hmod, hen, hblk]

/-- No field of the row is locked by the device's state or by a lock, and none reserves a value. -/
abbrev RegD.Unrestricted (r : RegD) : Prop :=
  ∀ f ∈ r.fields, (f.acc ≠ .rws ∧ f.acc ≠ .rwl) ∧ f.vmin = 0 ∧ 2 ^ f.w ≤ f.vmax + 1

theorem FieldD.bad_of_unreserved {f : FieldD} (hmin : f.vmin = 0) (hmax : 2 ^ f.w ≤ f.vmax + 1) (v : Nat) : f.bad v = false := by
  have hlt := bitsOf_lt v f.lo f.w
  have hle : ¬ f.vmax < bitsOf v f.lo f.w := by omega
  simp [FieldD.bad, hmin, hle]

/-- A write that no lock and no reserved value stops is stored, and has the effects of its register. -/
theorem State.regWrite_unrestricted (hr : regOf a = some r) (hthere : AlwaysThere a) (hlock : LockFree a) (hcomb : CombinationFree a)
    (hfree : r.Unrestricted) : s.regWrite m a v = s.writeReg (s.setReg a (r.merge (s.reg a) v)) m a v := by
  have hlocked : s.writeLocked r a v = false := by
    have hrws : (r.fields.any fun f => f.acc == .rws && f.changes (s.reg a) v) = false := by
      rw [List.any_eq_false]
      intro f hf
      simp [(hfree f hf).1.1]
    have hrwl : (r.fields.any fun f => f.acc == .rwl && f.changes (s.reg a) v) = false := by
      rw [List.any_eq_false]
      intro f hf
      simp [(hfree f hf).1.2]
    rw [State.writeLocked_of_lockFree hlock, hrws, hrwl, Bool.and_false, Bool.and_false, Bool.or_false]
  have hbad (t : State) : s.writeBad t r a v = false := by
    rw [State.writeBad_of_combinationFree hcomb, List.any_eq_false]
    intro f hf
    simp [FieldD.bad_of_unreserved (hfree f hf).2.1 (hfree f hf).2.2 v]
  exact State.regWrite_stored hr (State.regAbsent_of_alwaysThere hthere) hlocked (hbad _)

end

/-! ### What a store leaves -/

theorem State.setReg_only (s : State) (a v : Nat) : Only s (s.setReg a v) [a] :=
  ⟨fun b hb => by rw [State.setReg_reg, if_neg (by simpa using hb)], fun _ => rfl⟩

theorem State.setReg_self_only (s : State) (a : Nat) : Only s (s.setReg a (s.reg a)) [] := by
  refine ⟨fun b _ => ?_, fun _ => rfl⟩
  rw [State.setReg_reg]
  split
  · next h => rw [h, Nat.mod_eq_of_lt (s.reg_lt a)]
  · rfl

end Sys2Proof.Machine
end

section
/-! PROOFS. Writes of one register of each access code (00_scope.md R10). -/
namespace Sys2Proof.Machine
open Sys2Proof.Says

/-- A register of the blocks FLT to NVC whose write has no effect besides the store. -/
abbrev CoreActFree (a : Nat) : Prop :=
  (0x40040000 ≤ a ∧ a < 0x40100000) ∧ (a ≠ FLT_ACK ∧ a ≠ AGE_PLAN_CTL ∧ a ≠ AGE_RO_CTL ∧ a ≠ AGE_SRM_CTL ∧ a ≠ AGE_REC_CTL ∧
    a ≠ SEC_ROLLBACK ∧ a ≠ SEC_REVOKE ∧ a ≠ SEC_VAULT_CTL ∧ a ≠ THM_REQ) ∧ ¬ (SEC_KEY_IN 0 ≤ a ∧ a < SEC_KEY_IN 8)

theorem State.writeReg_of_coreActFree {a : Nat} (h : CoreActFree a) (s t : State) (m : Master) (v : Nat) : s.writeReg t m a v = t := by
  obtain ⟨⟨hlo, hhi⟩, ⟨h1, h2, h3, h4, h5, h6, h7, h8, h9⟩, hkey⟩ := h
  rw [State.writeReg, if_neg (by omega), if_neg (by omega), if_pos hhi]
  simp only [State.writeCore, h1, h2, h3, h4, h5, h6, h7, h8, h9, hkey, if_false]

/-- RW: the word is stored. -/
theorem State.regWrite_ageShadow (s : State) (m : Master) (i : Fin 64) {v : Nat} (hv : v < 2 ^ 32) :
    s.regWrite m (AGE_SHADOW i) v = s.setReg (AGE_SHADOW i) v := by
  have hr : regOf (AGE_SHADOW i) = some ⟨0x100, 4, 64, 0, 0, [⟨0, 32, .rw, 0, 0xffffffff⟩]⟩ := by revert i; decide
  have hthere : AlwaysThere (AGE_SHADOW i) := by revert i; decide
  have hlock : LockFree (AGE_SHADOW i) := by revert i; decide
  have hcomb : CombinationFree (AGE_SHADOW i) := by revert i; decide
  have hact : CoreActFree (AGE_SHADOW i) := by revert i; decide
  rw [State.regWrite_unrestricted hr hthere hlock hcomb (by decide), State.writeReg_of_coreActFree hact]
  show s.setReg _ (putBits (s.reg _) 0 32 (bitsOf v 0 32)) = _
  rw [bitsOf_word hv, putBits_word (s.reg_lt _) hv]

/-- W1C: what the doorbell status keeps of its two fields. -/
theorem State.regWrite_dbStat (s : State) (m : Master) (v : Nat) : ∃ x, s.regWrite m HOST_DB_STAT v = s.setReg HOST_DB_STAT x ∧
    bitsOf x 0 8 = Nat.land (s.rd HOST_DB_STAT_PEND) (255 - v % 256) := by
  have hr : regOf HOST_DB_STAT = some ⟨0x30, 4, 1, 0, 0, [⟨0, 8, .w1c, 0, 0xffffffff⟩, ⟨8, 8, .w1c, 0, 0xffffffff⟩]⟩ := by decide
  refine ⟨_, State.regWrite_unrestricted hr (by decide) (by decide) (by decide) (by decide), ?_⟩
  have ho : bitsOf (s.reg HOST_DB_STAT) 0 8 < 2 ^ 8 := bitsOf_lt _ _ _
  have hlt (y : Nat) : Nat.land (bitsOf (s.reg HOST_DB_STAT) 0 8) y < 2 ^ 8 := Nat.lt_of_le_of_lt Nat.and_le_left ho
  show bitsOf (putBits (putBits _ 0 8 (_ - Nat.land _ (bitsOf v 0 8))) 8 8 _) 0 8 = _
  rw [bitsOf_putBits_ne (.inr (by decide)), bitsOf_putBits_self, sub_land_eq_land ho (bitsOf_lt _ _ _), Nat.mod_eq_of_lt (hlt _)]
  rfl

/-- RO: the frame number stays. -/
theorem State.regWrite_frameNum (s : State) (m : Master) (v : Nat) :
    s.regWrite m LOOP_FRAME_NUM v = s.setReg LOOP_FRAME_NUM (s.reg LOOP_FRAME_NUM) := by
  have hr : regOf LOOP_FRAME_NUM = some ⟨0xc, 4, 1, 0, 0xffffffff, [⟨0, 32, .ro, 0, 0xffffffff⟩]⟩ := by decide
  exact State.regWrite_unrestricted hr (by decide) (by decide) (by decide) (by decide)

/-- RWS: a change of SADL.CFG.EN in RUN is refused. -/
theorem State.regWrite_sadlCfg {s : State} (m : Master) {v : Nat} (hrun : s.inRun) (hen : s.rd SADL_CFG_EN ≠ v % 2) :
    s.regWrite m SADL_CFG v = s.locked SADL_CFG := by
  have hr : regOf SADL_CFG = some ⟨0, 4, 1, 0x640322, 0, [⟨0, 1, .rws, 0, 0xffffffff⟩, ⟨1, 1, .rw, 0, 0xffffffff⟩,
      ⟨4, 3, .rw, 1, 7⟩, ⟨8, 3, .rw, 1, 7⟩, ⟨16, 16, .rw, 0, 0xffffffff⟩]⟩ := by decide
  refine State.regWrite_locked hr (State.regAbsent_of_alwaysThere (by decide)) ?_
  have hch : FieldD.changes ⟨0, 1, .rws, 0, 0xffffffff⟩ (s.reg SADL_CFG) v = true := bne_iff_ne.2 hen
  rw [State.writeLocked_of_lockFree (by decide)]
  simp [hrun, hch]

/-- The reserved values of FLT.ACK: mask bits 13 to 15 (13_fault_collection.md R380). -/
theorem State.regWrite_fltAck {s : State} (m : Master) {v : Nat} (hv : bitsOf v 13 3 ≠ 0) :
    s.regWrite m FLT_ACK v = s.reserved FLT_ACK := by
  have hr : regOf FLT_ACK = some ⟨0x10, 4, 1, 0, 0, [⟨0, 13, .wo, 0, 0xffffffff⟩]⟩ := by decide
  have hblk : s.blkBad FLT_ACK v = true := bne_iff_ne.2 hv
  refine State.regWrite_reserved hr (State.regAbsent_of_alwaysThere (by decide)) ?_ (by simp [State.writeBad, hblk])
  rw [State.writeLocked_of_lockFree (by decide)]
  simp

/-- Settles O34: a write by each way it ends, with one register of each access code. -/
theorem registerWrites : Obligations.RegisterWrites := by
  intro s
  refine ⟨fun m i v hm hb => ?_, fun m v hm hb => ?_, fun m v hm hb => ?_, fun m v hm hb hrun hen => ?_, fun m v hm hb hv => ?_,
    fun m a v hm hb h4 hr hno => ?_, fun m a v hm hb h4 hr => ?_, fun m a v h4 hr habs => ?_, fun m a v h => ?_⟩
  · have hin : inRegs (AGE_SHADOW i) = true := by revert i; decide
    have h4 : AGE_SHADOW i % 4 = 0 := by revert i; decide
    refine ⟨_, exec_registerWrite_at v hm hb hin h4, ?_⟩
    rw [s.regWrite_ageShadow m i v.isLt]
    exact ⟨by rw [State.setReg_reg, if_pos rfl, Nat.mod_eq_of_lt v.isLt], rfl, s.setReg_only _ _⟩
  · obtain ⟨x, hx, hpend⟩ := s.regWrite_dbStat m v.toNat
    refine ⟨_, exec_registerWrite_at v hm hb (by decide) (by decide), ?_⟩
    rw [hx]
    exact ⟨(s.setReg_rd x (f := HOST_DB_STAT_PEND) (by decide)).trans hpend, rfl, s.setReg_only _ _⟩
  · refine ⟨_, exec_registerWrite_at v hm hb (by decide) (by decide), ?_⟩
    rw [s.regWrite_frameNum]
    exact ⟨s.setReg_self_only _, rfl⟩
  · refine ⟨_, exec_registerWrite_at v hm hb (by decide) (by decide), ?_⟩
    rw [State.regWrite_sadlCfg m hrun hen]
    exact s.locked_spec SADL_CFG
  · refine ⟨_, exec_registerWrite_at v hm hb (by decide) (by decide), ?_⟩
    rw [State.regWrite_fltAck m (by rw [bitsOf, Nat.shiftRight_eq_div_pow]; omega)]
    exact s.reserved_spec FLT_ACK
  · refine ⟨_, exec_registerWrite_of_arrives v hm hb hr, ?_⟩
    rw [if_pos h4, State.regWrite_unnamed hno]
    exact s.unmapped_spec _
  · refine ⟨_, exec_registerWrite_of_arrives v hm hb hr, ?_⟩
    rw [if_neg h4]
    exact s.unmapped_spec _
  · exact ⟨s, exec_registerWrite_absent v h4 hr habs, rfl⟩
  · exact ⟨s, exec_registerWrite_of_stays v h, rfl⟩

end Sys2Proof.Machine
end
